-- ==== Sys2Proof/Word.lean ====
section
/-!
DEFINITION. Word types (R10, R13, R94, R98, R495): bytes, registers, block payloads and their plainest slicing.
Every multi-byte quantity is little-endian: byte i of a byte string held in a bit vector is bits [8i + 7 : 8i].
-/
namespace Sys2Proof

abbrev Byte := BitVec 8
abbrev W16 := BitVec 16
abbrev W32 := BitVec 32
abbrev W64 := BitVec 64
/-- A ring block's 60-byte payload (R495). -/
abbrev Payload := BitVec 480
/-- A 64-byte block: a mirror block, or a cell entry of the merged tally set (R197, R304). -/
abbrev Blk := BitVec 512
/-- A physical cell place: 64 × ring + place along the ring from end A as wired (R38, R39). -/
abbrev Place := Nat

end Sys2Proof
end

