-- ==== Sys2Proof/Syntax.lean ====
section
/-!
DEFINITION. The commands the block takes: one constructor of `Instr` per row of spec/opcode_table.json.
A Kraind instruction is the command "this core executes it"; an event of the device or of its surroundings carries, as
operands, what comes from outside (a converter's code, a received payload, a pin's level); a host access carries its value.
-/
namespace Sys2Proof

/-- Control dies (R19), numbered as d in R347. -/
inductive CDie where
  | a | b | c | s
  deriving DecidableEq, Repr

/-- Ring dies (R19). -/
inductive RDie where
  | rd0 | rd1
  deriving DecidableEq, Repr

/-- All dies, numbered as in R589 and R644. -/
inductive Die where
  | cda | cdb | cdc | cds | rd0 | rd1 | aq | sh
  deriving DecidableEq, Repr

/-- One Kraind core of one control die. -/
structure CoreRef where
  die : CDie
  core : Fin 16
  deriving DecidableEq, Repr

/-- A 5-bit register field (R351): a global or a register of the current window. -/
inductive Reg where
  | g (i : Fin 16)
  | w (i : Fin 16)
  deriving DecidableEq, Repr

/-- The two ends of a ring (R38). -/
inductive End where
  | a | b
  deriving DecidableEq, Repr

/-- A Sareb's ring ports (R20). -/
inductive CPort where
  | u | d
  deriving DecidableEq, Repr

/-- A receiving ring port: local port i of a ring die, or a port of the cell at a place (R505). -/
inductive RxPort where
  | pkg (rd : RDie) (i : Nat)
  | cell (p : Place) (x : CPort)
  deriving DecidableEq, Repr

/-- A measuring unit: a cell or the AQ die (R297). -/
inductive MUnit where
  | cell (p : Place)
  | aq
  deriving DecidableEq, Repr

/-- How far an input lies beyond the converter's range (R281, R282). -/
inductive Over where
  | none | near | far
  deriving DecidableEq, Repr

/-- What a converter finds at a sample instant. -/
structure Adc where
  code : W16
  range : Over
  deriving DecidableEq, Repr

/-- What becomes of a block on its way to a ring end: complete in time, CRC error, complete too late, or lost. -/
inductive Fate where
  | good | crcBad | late | lost
  deriving DecidableEq, Repr

/-- What a receiver finds of a ring block beside its payload (R495-R497): whether its CRC is good, its `BSEQ`, and whether that
    follows the `BSEQ` of the block before it on the port. -/
structure Rx where
  crcOk : Bool
  bseq : Byte
  follows : Bool
  deriving DecidableEq, Repr

/-- A ring block as a receiver finds it: its payload, and the rest of what it finds. -/
structure Rcvd where
  pl : Payload
  rx : Rx
  deriving DecidableEq, Repr

/-- A block of a reserved type: the type, and what the receiver finds of it. -/
structure OddBlock where
  ty : BitVec 4
  rx : Rx
  deriving DecidableEq, Repr

/-- A cell's tally slot on the ring: what becomes of the tally block, and what the cell finds of the block it fills. -/
structure TallySlot where
  fate : Fate
  rx : Rx
  deriving DecidableEq, Repr

/-- Gate-driver inputs and gate outputs of a cell. -/
inductive Gate where
  | gaH | gaL | gbH | gbL
  deriving DecidableEq, Repr

/-- How much of a voted mirror arrives at a lane: how many of its blocks, and a block that arrives changed. -/
structure MirrorCopy where
  arrived : Nat
  bad : Option (Nat × Blk)
  deriving DecidableEq, Repr

/-- A block of the twin mirror and the sequence of the frame that carries it. -/
structure TwinBlock where
  seq : W16
  blk : Blk
  deriving DecidableEq, Repr

/-- A configuration write as the duty forwards it: the value, and the cycle at which it takes effect. -/
structure ForwardedValue where
  val : W64
  eff : W16
  deriving DecidableEq, Repr

/-- The bytes of an access: where they begin and how many they are. -/
structure Span where
  addr : Nat
  bytes : Nat
  deriving DecidableEq, Repr

/-- The desaturation input of a pair: its level, and for how many raw ns it has had it. -/
structure DsatLevel where
  pairB : Bool
  level : Bool
  held : Nat
  deriving DecidableEq, Repr

/-- An output that reads back: a gate output, or BYP_FIRE (none), and the level on its ball. -/
structure BallLevel where
  out : Option Gate
  level : Bool
  deriving DecidableEq, Repr

/-- What the comparator of a cell sees on AIN0, and for how many raw ns it has been so. -/
structure Ain0Level where
  p : Place
  code : BitVec 12
  held : Nat
  deriving DecidableEq, Repr

/-- The PTP messages of the engine's domain that change its state (R457). -/
inductive PtpKind where
  | announce
  | delay (peer : Bool)     -- the end of a delay exchange: peer delay, or request-response
  | pdelayReq
  | other
  deriving DecidableEq, Repr

/-- A PTP message as received on a station port. -/
structure PtpMsg where
  kind : PtpKind
  domain : Byte
  port : Fin 8
  dataset : BitVec 128      -- the Announce's comparison data set
  gmId : W64
  utcOfs : W16
  meanPathDelay : W32       -- of a completed delay exchange, ns
  deriving DecidableEq, Repr

/-- A package's heartbeat (R340), with the reports that R341 reads from it. -/
structure Beat where
  seq : W16
  duty : Bool
  mode : BitVec 4
  ready : Bool
  run : W32
  schk : W32
  req : Bool
  noAgree : Bool
  single : Bool
  deriving DecidableEq, Repr

/-- What start-up finds outside the shepherd's logic, step by step (R584); bit d of a mask is die d of R589 (SH is bit 7). -/
structure StartEnv where
  refclkOk : Bool
  pgOk : Byte
  idOk : Byte
  trimOk : Byte
  selfTestOk : Bool
  rdOk : Byte
  ringFail : List Nat         -- rings whose bring-up failed in step 6
  wiring : BitVec 4           -- the code WIRE of R589 found at step 9; 0 good
  hurdleStrap : Bool          -- the referee strap of R329 is fitted
  refLines : BitVec 2         -- REFEREE_B, REFEREE_A connected
  partner : Option Beat       -- what the referee's link tells of a partner that runs (step 8)
  debugEn : Bool
  theta : Option Int          -- the first offset from master before ACQTO, if one comes (step 7)
  loadOk : Byte               -- bit d: readback of the load into control die d passes
  retired : Byte              -- bit d: lane d reached the counting window in step 9
  safePins : BitVec 2         -- SAFE_REQ_n pins that read asserted after their filters as step 4 ends (R607, R618)
  deriving DecidableEq, Repr

/-- What a plain access names: an access of some bytes at a BAR0 address or a BAR2 offset (R640, R643), a register of the cell at
    a place by its offset, or a dword of the host port's configuration space. -/
inductive RegTarget where
  | bar0 (addr bytes : Nat)
  | bar2 (ofs bytes : Nat)
  | cell (p : Place) (ofs : Nat)
  | config (ofs : Nat)
  deriving DecidableEq, Repr

/-- Who launches a TIME block of its own (R503): a ring die from an end of a ring, or a cell that launches a stream. -/
inductive Sender where
  | ringEnd (ring : Nat) (e : End)
  | cell (p : Place) (x : CPort)
  deriving DecidableEq, Repr

/-- What a debug halt or resume names (R444, R446). -/
inductive DbgObj where
  | task (t : Fin 512)
  | core (c : Fin 16)
  deriving DecidableEq, Repr

/-- The commands, in the order of the table. -/
inductive Instr where
  -- integer and logic (R375)
  | add (r : CoreRef) (rd ra rb : Reg)
  | sub (r : CoreRef) (rd ra rb : Reg)
  | and (r : CoreRef) (rd ra rb : Reg)
  | or (r : CoreRef) (rd ra rb : Reg)
  | xor (r : CoreRef) (rd ra rb : Reg)
  | shl (r : CoreRef) (rd ra rb : Reg)
  | shr (r : CoreRef) (rd ra rb : Reg)
  | sra (r : CoreRef) (rd ra rb : Reg)
  | shli (r : CoreRef) (rd ra : Reg) (k : BitVec 6)
  | shri (r : CoreRef) (rd ra : Reg) (k : BitVec 6)
  | srai (r : CoreRef) (rd ra : Reg) (k : BitVec 6)
  | mul (r : CoreRef) (rd ra rb : Reg)
  | mulh (r : CoreRef) (rd ra rb : Reg)
  | mulhu (r : CoreRef) (rd ra rb : Reg)
  | div (r : CoreRef) (rd ra rb : Reg)
  | divu (r : CoreRef) (rd ra rb : Reg)
  | rem (r : CoreRef) (rd ra rb : Reg)
  | remu (r : CoreRef) (rd ra rb : Reg)
  | slt (r : CoreRef) (rd ra rb : Reg)
  | sltu (r : CoreRef) (rd ra rb : Reg)
  | sext (r : CoreRef) (rd ra : Reg) (k : BitVec 6)
  | zext (r : CoreRef) (rd ra : Reg) (k : BitVec 6)
  | addi (r : CoreRef) (rd ra : Reg) (imm : W16)
  | andi (r : CoreRef) (rd ra : Reg) (imm : W16)
  | ori (r : CoreRef) (rd ra : Reg) (imm : W16)
  | xori (r : CoreRef) (rd ra : Reg) (imm : W16)
  | lui (r : CoreRef) (rd : Reg) (imm : W16)
  | slti (r : CoreRef) (rd ra : Reg) (imm : W16)
  | sltiu (r : CoreRef) (rd ra : Reg) (imm : W16)
  -- Q class (R365)
  | qadd (r : CoreRef) (rd ra rb : Reg)
  | qsub (r : CoreRef) (rd ra rb : Reg)
  | qmul (r : CoreRef) (rd ra rb : Reg)
  | qmac (r : CoreRef) (rd ra rb : Reg)
  | qshli (r : CoreRef) (rd ra : Reg) (k : BitVec 6)
  | qshri (r : CoreRef) (rd ra : Reg) (k : BitVec 6)
  | qclamp (r : CoreRef) (rd ra rb : Reg)
  -- F class (R366)
  | fadd (r : CoreRef) (rd ra rb : Reg)
  | fsub (r : CoreRef) (rd ra rb : Reg)
  | fmul (r : CoreRef) (rd ra rb : Reg)
  | fdiv (r : CoreRef) (rd ra rb : Reg)
  | fsqrt (r : CoreRef) (rd ra : Reg)
  | fmin (r : CoreRef) (rd ra rb : Reg)
  | fmax (r : CoreRef) (rd ra rb : Reg)
  | flt (r : CoreRef) (rd ra rb : Reg)
  | feq (r : CoreRef) (rd ra rb : Reg)
  | fcvtqf (r : CoreRef) (rd ra : Reg)
  | fcvtfq (r : CoreRef) (rd ra : Reg)
  | fcvtif (r : CoreRef) (rd ra : Reg)
  | fcvtfi (r : CoreRef) (rd ra : Reg)
  -- loads and stores (R364)
  | ldb (r : CoreRef) (rd ra : Reg) (imm : W16)
  | ldbu (r : CoreRef) (rd ra : Reg) (imm : W16)
  | ldh (r : CoreRef) (rd ra : Reg) (imm : W16)
  | ldhu (r : CoreRef) (rd ra : Reg) (imm : W16)
  | ldw (r : CoreRef) (rd ra : Reg) (imm : W16)
  | ldwu (r : CoreRef) (rd ra : Reg) (imm : W16)
  | ldd (r : CoreRef) (rd ra : Reg) (imm : W16)
  | stb (r : CoreRef) (rd ra : Reg) (imm : W16)
  | sth (r : CoreRef) (rd ra : Reg) (imm : W16)
  | stw (r : CoreRef) (rd ra : Reg) (imm : W16)
  | std (r : CoreRef) (rd ra : Reg) (imm : W16)
  -- control flow (R374, R353, R354)
  | beq (r : CoreRef) (ra rb : Reg) (off : W16)
  | bne (r : CoreRef) (ra rb : Reg) (off : W16)
  | blt (r : CoreRef) (ra rb : Reg) (off : W16)
  | bge (r : CoreRef) (ra rb : Reg) (off : W16)
  | bltu (r : CoreRef) (ra rb : Reg) (off : W16)
  | bgeu (r : CoreRef) (ra rb : Reg) (off : W16)
  | j (r : CoreRef) (off : BitVec 26)
  | call (r : CoreRef) (off : BitVec 26)
  | callr (r : CoreRef) (rb : Reg)
  | ret (r : CoreRef)
  | lockseq (r : CoreRef)
  | endseq (r : CoreRef)
  | brk (r : CoreRef)
  | time (r : CoreRef) (rd : Reg) (k : BitVec 6)
  -- scheduler instructions
  | post (r : CoreRef) (rd ra rb : Reg)
  | take (r : CoreRef) (rd ra rb : Reg) (k : BitVec 6)
  | waitt (r : CoreRef)
  | delay (r : CoreRef) (ra : Reg)
  | yield (r : CoreRef)
  | setpri (r : CoreRef) (rd ra rb : Reg)
  | lock (r : CoreRef) (k : BitVec 6)
  | unlock (r : CoreRef) (k : BitVec 6)
  -- cycle instructions
  | tld (r : CoreRef) (rd ra : Reg) (k : BitVec 6)
  | dst (r : CoreRef) (rd ra rb : Reg)
  | mst (r : CoreRef) (rd ra : Reg)
  | stile (r : CoreRef) (rd : Reg)
  | sel (r : CoreRef) (rd ra rb : Reg)
  | lekick (r : CoreRef) (rd : Reg) (k : BitVec 6)
  | lerd (r : CoreRef) (rd ra : Reg) (k : BitVec 6)
  | txn (r : CoreRef) (rd ra rb : Reg)
  | tagw (r : CoreRef) (rd ra : Reg)
  -- scheduler services: the POST of service s, its result register and the register holding the block's address
  | createTask (r : CoreRef) (rd rb : Reg)
  | deleteTask (r : CoreRef) (rd rb : Reg)
  | activateTask (r : CoreRef) (rd rb : Reg)
  | configureMailbox (r : CoreRef) (rd rb : Reg)
  | configureLock (r : CoreRef) (rd rb : Reg)
  -- scheduler events
  | votedPhaseBegin (die : CDie)
  | votedDispatch (die : CDie)
  | tickEvent
  | delayExpiry (die : CDie) (task : Fin 512)
  -- the station cycle
  | sampleInstant
  | rideThroughLimit (cause : Fin 3)
  | cellSampleInstant (p : Place) (x : Adc) (blank : Bool)
  | converterBSlot (p : Place) (first : Bool) (x : Adc) (blank : Bool)
  | referenceStale (u : MUnit) (v : Fin 48)
  | diagnosticRound (u : MUnit)
  | filteredResult (u : MUnit)
  | aqConversionSlot (v : Fin 48) (slot : Nat) (x : Adc)
  | tallyInsert (p : Place) (toward : End) (b : TallySlot)
  | tallyClose
  | tallyDelivery
  | modeDecision
  | stileVote
  | droveLaunch (ring : Nat) (e : End)
  | droveReceive (p : Place) (x : CPort) (pl : Payload) (h : Rx)
  | explicitReceive (p : Place) (x : CPort) (pl : Payload) (h : Rx)
  | reloadInstant (p : Place)
  | votedMirrorReceive (die : CDie) (src : RDie) (b : MirrorCopy)
  | energyPosting (conv : Fin 2)
  | intervalClose (conv : Fin 2)
  | laneAdmission
  | gateOpen (die : CDie)
  | hurdleOutRelease
  -- the twin pair
  | heartbeat (pkg : Fin 2) (b : Beat)
  | heartbeatMissing (pkg : Fin 2)
  | grantState (granted : Bool) (partner : Option Beat)
  | refereeGrant (level : Bool)
  | relayedDrove (link : Fin 2) (ring : Nat) (pl : Payload) (crcOk : Bool)
  | twinMirrorBlock (link : Fin 2) (index : Nat) (b : TwinBlock)
  | relayedTxnReq (link : Fin 2) (pl : Payload)
  | relayedTxnRsp (link : Fin 2) (pl : Payload)
  | twinTime (link : Fin 2) (roundTrip : Nat) (theta : Option Int)
  | forwardedConfigurationWrite (addr : Nat) (v : ForwardedValue)
  | twinLinkUp (link : Fin 3) (roundTrip : Nat)
  | twinLinkDown (link : Fin 3)
  | handreq
  | retire (dies : BitVec 4)
  -- time
  | ptpMessage (m : PtpMsg)
  | ptpSync (theta : Int)
  | rateChange
  | holdoverTimeout
  | acquireTimeout
  | accept
  | set
  | wallOffsetWrite (v : W64)
  -- ring bring-up and repair
  | receiverDetect (q : RxPort) (half : Bool) (miswired : Bool)
  | clockLock (q : RxPort)
  | blockLock (q : RxPort)
  | lockLoss (q : RxPort)
  | forwardedClockFailure (p : Place) (x : CPort)
  | train (q : RxPort) (pl : Payload) (h : Rx)
  | enumerationStart (ring : Nat)
  | capsQuery (q : RxPort) (b : Rcvd)
  | capsReport (ring : Nat) (e : End) (b : Rcvd)
  | capsAssign (p : Place) (b : Rcvd)
  | capsNotice (ring : Nat) (e : End) (b : Rcvd)
  | ringUp (ring : Nat)
  | ringRepair (ring : Nat) (hop : Nat)
  | timeLaunch (p : Place) (x : CPort) (b : Rcvd)
  | timeLoop (p : Place) (x : CPort) (b : Rcvd) (turn : Nat)
  | timeEcho (ring : Nat) (e : End) (b : Rcvd) (roundTrip : Nat)
  | timeStep (p : Place) (b : Rcvd)
  | timeSleep (p : Place) (x : CPort) (b : Rcvd)
  | timeWake (p : Place) (x : CPort) (b : Rcvd)
  | idleReceive (p : Place) (x : CPort) (b : Rcvd)
  -- transactions
  | txnReq (p : Place) (x : CPort) (pl : Payload) (h : Rx)
  | txnRsp (ring : Nat) (e : End) (b : Rcvd)
  | txnRetry (tag : Fin 1024)
  | tagTimeout (tag : Fin 1024)
  -- other blocks
  | hubBlock (ring : Nat) (e : End) (pl : Payload) (h : Rx)
  | recordBlock (ring : Nat) (e : End) (pl : Payload) (h : Rx)
  | blockAct (p : Place) (x : CPort) (pl : Payload) (h : Rx)
  | blockTest (ring : Nat) (e : End) (arrived : Bool)
  | reservedBlock (rd : RDie) (i : Nat) (b : OddBlock)
  -- settings
  | cycleConfigurationWrite (v : W64)
  | cycleConfigurationEffect
  | foldConfigurationWrite (f : Fin 12) (v : W64)
  | foldMapWrite (c : Fin 8448) (fold : BitVec 4)
  | outOfServiceWrite (c : Fin 8448) (oos : Bool)
  | leParamGo (v : W64)
  | autotuneStart
  | autotuneAbort
  | autotuneTimeout
  | requestHub
  | requestCommission (debugEn : Bool)
  | requestPrecharge
  | requestRun
  | requestBlock
  | grid (on : Bool)
  | sleepRequest (ring : Nat) (e : End)
  | wakeRequest (ring : Nat) (e : End)
  -- the hub
  | hubRequest (rd : RDie) (v : W64)
  | fifoRead (f : Fin 64) (bytes : Nat)
  | arm
  | armingComplete
  | fire
  | abort
  | triggerDecision
  | recordNotice (u : MUnit)
  | recordFreeze (u : MUnit)
  | ownFreeze (p : Place)
  | fetchStart
  | recordFetch (u : MUnit)
  | fetchDone
  | legacyAppend (ofs : Nat) (v : W16) (width : Nat)
  | legacyEnd (ofs : Nat) (v : W16) (width : Nat)
  | legacyPop (r : CoreRef) (rd : Reg)
  -- station-port frames and host access
  | stationFrameReceive (port : Fin 8) (bytes : List Byte) (fcsOk : Bool)
  | stationFrameTransmit (rd : RDie) (s : Fin 4) (w : W64)
  | transmitStampPop (rd : RDie) (s : Fin 4)
  | transactionSlotGo (slot : Fin 64) (v : W64)
  | irqCauseClear (fifoReg : Bool) (v : W64)
  | peekRead (a : Span)
  | openreq
  | close
  | debugCoresWrite (v : W64)
  | halt (die : CDie) (o : DbgObj)
  | resume (die : CDie) (o : DbgObj)
  | debugDataRead (die : CDie)
  | debugDataWrite (die : CDie) (v : W64)
  -- images and boot
  | erase (slotB : Bool)
  | imageData (v : W64)
  | finish
  | load (slotB : Bool) (dies : BitVec 4)
  | imageOperationComplete (readbackOk : BitVec 4)
  | retry
  | revive (d : Die)
  -- safety parameters and other settings
  | commit
  | safetyConfirm (v : W32)
  | safetyReset (pins : BitVec 2)
  | safetyDataWrite (w : Fin 64) (v : W64)
  | faultConfigurationWrite (v : W64)
  | ledgerLengthWrite (v : W64)
  | aqChannelWrite (c : Fin 192) (v : W64)
  | aqCfgd
  | partitionWrite (die : CDie) (p : Fin 16) (v : W64)
  | rcRead (t : RegTarget)
  | timeLatchRead (p : Place)
  | registerWrite (t : RegTarget) (v : W64)
  -- the cell's own commands and inputs
  | cfgd (p : Place) (fb : Bool)
  | slcvConfigurationWrite (p : Place) (v : W32)
  | shadowWrite (p : Place) (tcmp : Bool) (v : W32) (inTime : Bool)
  | semi (p : Place)
  | semiRel (p : Place)
  | bypassFire (p : Place) (key : W16)
  | latchClear (p : Place) (mask : BitVec 5) (persists : BitVec 5)
  | slcvClear (p : Place) (code12 : BitVec 12)
  | vinRise (p : Place)
  | vinLow (p : Place)
  | vinRecovery (p : Place)
  | dsatTrip (p : Place) (x : DsatLevel)
  | gdfltTrip (p : Place)
  | outputShort (p : Place) (x : BallLevel)
  | slcvTrip (x : Ain0Level)
  | slcvFiring (x : Ain0Level)
  | bypassConfirmTimeout (p : Place)
  | bypassSense (p : Place) (level : Bool)
  | slcvBranchTest (p : Place) (pass : Bool)
  -- the safety channel and the package's power
  | safeReqDemand (pin : Fin 2)
  | safetyEvaluation
  | blockRepeat
  | safeStateTimeout
  | safeReqTest (pin : Fin 2) (stuck : Bool)
  | discrepancyTimer
  | safetyWatchdog
  | workingCopyCrc
  | storeCrcCheck
  | testBlockSend
  | faultNTestPulse (readbackOk : Bool)
  | outputReadbackShort
  | pgLoss (d : Die)
  | busNoAnswer (d : Die)
  | junctionOvertemperature (d : Die)
  | uncorrectableError (d : Die)
  | launchConfirmationMissing (rd : RDie)
  | powerCycleOffEnd (d : Die)
  | powerCyclePgTimeout (d : Die)
  | dieReturn (d : Die) (pass : Bool)
  | powerUp (pg : Byte)
  | startup (env : StartEnv)
  | resetAssert
  | resetRelease (env : StartEnv)
  | vddhLoss
  | refclkLoss
  | pcieReset
  | timeBlockSend (q : Sender) (sub : BitVec 4) (id : BitVec 14)
  | forwardedClockReturn (p : Place) (x : CPort)
  | vinCollapse (p : Place)
  | hurdleInChange (released : Bool)
  | gateOutputEdge (p : Place)
  | firingPulseEnd (p : Place)
  | reservedTwinFrame (rd : RDie) (t : Fin 2)
  deriving DecidableEq, Repr

end Sys2Proof
end

