-- ==== Sys2Proof/WellFormed.lean ====
section
/-!
DEFINITION. Which commands are well formed: an operand names a ring, port, place, slot or block type that some package of
the family has (R3, R20, R22, R28, R38, R117, R497). Ranges that the constructors' own types give need no check.
-/
namespace Sys2Proof.WellFormed

def place (p : Place) : Bool := decide (p < 132 * 64)
def ring (r : Nat) : Bool := decide (r < 132)
def port : RxPort → Bool
  | .pkg _ i => decide (i < 66)
  | .cell p _ => place p
def unit : MUnit → Bool
  | .cell p => place p
  | .aq => true
def sender : Sender → Bool
  | .ringEnd r _ => ring r
  | .cell p _ => place p
/-- An access of 1 to 64 bytes. -/
def access (n : Nat) : Bool := decide (1 ≤ n) && decide (n ≤ 64)
/-- A BAR0 address lies inside the 256 MiB of R636, a BAR2 offset in its 64 KiB; a Sareb offset is 4-byte-aligned in 64 KiB. -/
def target : RegTarget → Bool
  | .bar0 a n => decide (a < 0x10000000) && access n
  | .bar2 o n => decide (o < 0x10000) && access n
  | .cell p o => place p && decide (o < 0x10000) && decide (o % 4 = 0)
  | .config o => decide (o < 0x1000) && decide (o % 4 = 0)

/-- Checks on the operands of each command. -/
def check : Instr → Bool
  | .cellSampleInstant p _ _ => place p
  | .converterBSlot p _ _ _ => place p
  | .referenceStale u _ => unit u
  | .diagnosticRound u => unit u
  | .filteredResult u => unit u
  | .aqConversionSlot _ j _ => decide (j < 100)
  | .tallyInsert p _ _ => place p
  | .droveLaunch r _ => ring r
  | .droveReceive p _ _ _ => place p
  | .explicitReceive p _ _ _ => place p
  | .reloadInstant p => place p
  | .relayedDrove _ r _ _ => ring r
  | .twinMirrorBlock _ i _ => decide (i < 800)
  | .receiverDetect q _ _ => port q
  | .clockLock q => port q
  | .blockLock q => port q
  | .lockLoss q => port q
  | .forwardedClockFailure p _ => place p
  | .train q _ _ => port q
  | .enumerationStart r => ring r
  | .capsQuery q _ => port q
  | .capsReport r _ _ => ring r
  | .capsAssign p _ => place p
  | .capsNotice r _ _ => ring r
  | .ringUp r => ring r
  | .ringRepair r h => ring r && decide (h ≤ 64)
  | .timeLaunch p _ _ => place p
  | .timeLoop p _ _ _ => place p
  | .timeEcho r _ _ _ => ring r
  | .timeStep p _ => place p
  | .timeSleep p _ _ => place p
  | .timeWake p _ _ => place p
  | .idleReceive p _ _ => place p
  | .txnReq p _ _ _ => place p
  | .txnRsp r _ _ => ring r
  | .hubBlock r _ _ _ => ring r
  | .recordBlock r _ _ _ => ring r
  | .blockAct p _ _ _ => place p
  | .blockTest r _ _ => ring r
  | .reservedBlock _ i ⟨ty, _⟩ => decide (i < 66) && decide (0xC ≤ ty.toNat)
  | .sleepRequest r _ => ring r
  | .wakeRequest r _ => ring r
  | .recordNotice u => unit u
  | .recordFreeze u => unit u
  | .ownFreeze p => place p
  | .recordFetch u => unit u
  | .legacyAppend o _ _ => decide (o < 0x8000)
  | .legacyEnd o _ _ => decide (0x8000 ≤ o) && decide (o < 0x10000)
  | .stationFrameReceive _ bs _ => decide (60 ≤ bs.length) && decide (bs.length ≤ 1518)
  | .peekRead ⟨a, n⟩ => decide (0x8000000 ≤ a) && decide (a < 0xB000000) && access n
  | .forwardedConfigurationWrite a _ => decide (a < 0x10000000) && decide (a % 8 = 0)
  | .rcRead t => target t
  | .registerWrite t _ => target t
  | .timeLatchRead p => place p
  | .cfgd p _ => place p
  | .slcvConfigurationWrite p _ => place p
  | .shadowWrite p _ _ _ => place p
  | .semi p => place p
  | .semiRel p => place p
  | .bypassFire p _ => place p
  | .latchClear p _ _ => place p
  | .slcvClear p _ => place p
  | .vinRise p => place p
  | .vinLow p => place p
  | .vinRecovery p => place p
  | .dsatTrip p _ => place p
  | .gdfltTrip p => place p
  | .outputShort p _ => place p
  | .slcvTrip ⟨p, _, _⟩ => place p
  | .slcvFiring ⟨p, _, _⟩ => place p
  | .bypassConfirmTimeout p => place p
  | .bypassSense p _ => place p
  | .slcvBranchTest p _ => place p
  | .timeBlockSend q _ _ => sender q
  | .forwardedClockReturn p _ => place p
  | .vinCollapse p => place p
  | .gateOutputEdge p => place p
  | .firingPulseEnd p => place p
  | _ => true

end Sys2Proof.WellFormed

namespace Sys2Proof

/-- The command is well formed. -/
def Instr.wf (i : Instr) : Bool := WellFormed.check i

end Sys2Proof
end

