-- ==== Sys2Proof/Config.lean ====
section
/-!
DEFINITION. What an implementation or a part number fixes (R3, R19, R28, R29, R38), and the values the spec leaves open.
A free value is an opaque constant: nothing can be proved of the value it takes.
-/
namespace Sys2Proof

/-- The Choldomet variants (R3). -/
inductive Variant where
  | chm8 | chm5 | chm3 | chm2
  deriving DecidableEq, Repr

namespace Config

/-- A value the spec leaves open, fresh for each number drawn from the state's counter `freeCtr` (log entry 4). -/
opaque freeValue : Nat → BitVec 64

/-- The scrambler's bits as a lane leaves reset, which R489 does not state; a receiver synchronises itself (log entry 134). -/
opaque scramblerStart : BitVec 58

/-- The data set comparison of IEEE 1588-2019 clause 9.3 (R457), which the spec names and does not restate: the first
    data set is better than the second (log entry 5). -/
opaque ptpBetter : BitVec 128 → BitVec 128 → Bool

/-- A cosine (false) or tangent (true) of whole degrees that is no FP32 number itself (R207): the spec names the functions, not
    their rounding, so which of the two neighbours results is open (log entry 6). -/
opaque trigUp : Bool → Nat → Bool

/-- `CODE` and `DET` of an event-log entry (R662): the spec gives their place and, but for a stopped task, no numbering
    (log entry 26). -/
opaque logCode : Nat → Nat → BitVec 16
opaque logDetail : Nat → Nat → Nat → BitVec 96

/-- `DET` of the entry of a fatal fault: it names the units that the die's pools held (R54, R662), by cause and by (quantity of
    R55, unit, number); the spec gives the words no layout (log entry 26). -/
opaque lostDetail : Nat → List (Nat × Nat × Nat) → BitVec 96

/-- The alarm bits a version-1 cell raises under R107, whose place in the alarm word the spec does not give (log entry 30). -/
opaque v1Alarm : BitVec 32

/-- A mean of FP32 results that is no FP32 number itself (R267, R528): the spec states no rounding, so which of the two
    neighbours results is open, by numerator and denominator in units of 2^-149 (log entry 32). -/
opaque meanUp : Int → Nat → Bool

/-- The candidate ratio of a reference conversion (R277), 30 fraction bits: the factory stage of the reference path is in no
    register (log entry 33). By unit (0 a cell, 1 + v an AQ converter), code and die temperature. -/
opaque refRatio : Nat → BitVec 16 → BitVec 16 → Nat

/-- A Z of R286 that is no whole number of 10 Ω: the spec states no rounding, so which of the two neighbours results is open, by
    numerator and denominator (log entry 34). -/
opaque impedanceUp : Nat → Nat → Bool

/-- How long a reference conversion takes, at most 1,000 ns (R257; log entry 37). -/
opaque convNs : Nat

/-- The deadband and the groups between forced entries of change-only streams on AQ inputs: R533 uses them, and only a cell
    has registers for them (log entry 35). -/
opaque aqDb : BitVec 32
opaque aqKeep : Nat

/-- A value x, leg sum or product of the safety channel (R609-R612) that is no FP32 number itself: the spec states no rounding,
    so which of the two neighbours results is open, by sign, significand and exponent of the exact value (log entry 52). -/
opaque safeUp : Bool → Nat → Int → Bool

/-- How the host link has trained (R524): the lanes, as a power of two at most 4, and 5.0 GT/s or not. No row of the table trains
    it (log entry 104). -/
opaque hostLanes : Fin 3
opaque hostFast : Bool

/-- What a cell named by `MOD_ID` does under a reserved code of `MOD_ST` (R98, R134; log entry 113): whether it modulates,
    and whether toward negative. -/
opaque reservedMod : Nat → Bool × Bool

/-- Ring ports 66 or 33 rings (R3). -/
def nRings : Variant → Nat
  | .chm8 => 66
  | _ => 33

/-- A variant with a single ring die (R3). -/
def singleRd : Variant → Bool
  | .chm8 => false
  | _ => true

/-- Dies by the index of R589 and R644 (0-3 control, 4 RD-0, 5 RD-1, 6 AQ, 7 SH): the variant holds the die (R3). -/
def present (v : Variant) (d : Nat) : Bool :=
  match v with
  | .chm8 => decide (d < 8)
  | .chm5 => decide (d < 3) || decide (d = 4) || decide (d = 7)
  | .chm3 => decide (d = 0) || decide (d = 4) || decide (d = 7)
  | .chm2 => decide (d = 4) || decide (d = 7)

/-- `GLB_ID.PART`, the device ID of R636. -/
def deviceId : Variant → Nat
  | .chm8 => 0x0C08
  | .chm5 => 0x0C05
  | .chm3 => 0x0C03
  | .chm2 => 0x0C02

/-- Folds (R117), contexts (R409), tags (R58), FIFOs and their depth (R548), legacy queue (R567), log (R662). -/
def nFolds : Nat := 12
def nTasks : Nat := 512
def fifoWords : Nat := 16384
def legqWords : Nat := 4096
def logEntries : Nat := 65536
def txWords : Nat := 512
def cellRecEntries : Nat := 32768
def aqRecEntries : Nat := 12582912
def hubQueue : Nat := 64
/-- Stepping code B0 of every die of this edition, as `MINSTEP` (R1, R403, R644). -/
def stepB0 : Nat := 0xB0

end Config
end Sys2Proof
end

