-- ==== Sys2Proof/Machine/RegMap.lean ====
section
/-!
DEFINITION. The register map (R13, R18, R254, R642 and every register table of the chapters): the address of every
register, the bits of every field, its reset value and its access type. Package registers are named by BAR0 address (R642),
Sareb registers by their offset in the cell (R253). A register array takes its indices as arguments.
A table row gives one register or one array of equal registers; the first row that matches an address counts.
Masks say which bits have which access type of R13; bits in no mask are RO or reserved (R16).
-/
namespace Sys2Proof.Machine

/-- A field of a register: the register's address, its lowest bit and its width. -/
structure Field where
  reg : Nat
  lo : Nat
  width : Nat
  deriving DecidableEq, Repr

/-- One register, or an array of equal ones: reset value and access masks (R13). -/
structure RegRow where
  base : Nat
  stride : Nat
  count : Nat
  reset : Nat
  rw : Nat := 0
  rwl : Nat := 0
  w1c : Nat := 0
  w1s : Nat := 0
  wo : Nat := 0
  rc : Nat := 0
  rp : Nat := 0
  cf : Nat := 0
  ring : Nat := 0
  deriving DecidableEq, Repr

/-- The row covers the address. -/
def RegRow.hits (r : RegRow) (a : Nat) : Bool :=
  decide (r.base ≤ a) && decide ((a - r.base) % r.stride = 0) && decide ((a - r.base) / r.stride < r.count)

/-- The first row that covers an address. -/
def findRow : List RegRow → Nat → Option RegRow
  | [], _ => none
  | r :: rs, a => if r.hits a then some r else findRow rs a

/-- Window bases of the dies in BAR0 (R642). -/
def rdBase (n : Nat) : Nat := 0x0200000 + 0x100000 * n
def aqBase : Nat := 0x0400000
def cdBase (d : Nat) : Nat := 0x0800000 + 0x200000 * d


/-! ### Registers of 02_station_cycle.md -/

/-- TIM_CYC_CFG, R109. -/
def TIM_CYC_CFG : Nat := 0x100200
def TIM_CYC_CFG_EMIT : Field := ⟨TIM_CYC_CFG, 48, 8⟩
def TIM_CYC_CFG_APPLY : Field := ⟨TIM_CYC_CFG, 32, 14⟩
def TIM_CYC_CFG_STILE : Field := ⟨TIM_CYC_CFG, 16, 14⟩
def TIM_CYC_CFG_PERIOD : Field := ⟨TIM_CYC_CFG, 0, 14⟩
/-- TIM_CYC_MIN, R110. -/
def TIM_CYC_MIN : Nat := 0x100208
def TIM_CYC_MIN_VALID : Field := ⟨TIM_CYC_MIN, 63, 1⟩
def TIM_CYC_MIN_PERIOD_MIN : Field := ⟨TIM_CYC_MIN, 48, 14⟩
def TIM_CYC_MIN_APPLY_MIN : Field := ⟨TIM_CYC_MIN, 32, 14⟩
def TIM_CYC_MIN_STILE_MIN : Field := ⟨TIM_CYC_MIN, 16, 14⟩
def TIM_CYC_MIN_TCLOSE : Field := ⟨TIM_CYC_MIN, 0, 14⟩
/-- TIM_CYC_STAT, R111. -/
def TIM_CYC_STAT : Nat := 0x100210
def TIM_CYC_STAT_REFUSE_CNT : Field := ⟨TIM_CYC_STAT, 32, 32⟩
def TIM_CYC_STAT_PEND : Field := ⟨TIM_CYC_STAT, 28, 1⟩
def TIM_CYC_STAT_REASON : Field := ⟨TIM_CYC_STAT, 24, 4⟩
def TIM_CYC_STAT_LIMRING : Field := ⟨TIM_CYC_STAT, 16, 8⟩
def TIM_CYC_STAT_SEQ : Field := ⟨TIM_CYC_STAT, 0, 16⟩
/-- RDn_RPATH, R112. -/
def RDn_RPATH (n r : Nat) : Nat := rdBase n + 0x10000 + 0x8 * r
def RDn_RPATH_GROW (n r : Nat) : Field := ⟨(RDn_RPATH n r), 50, 1⟩
def RDn_RPATH_SPLIT (n r : Nat) : Field := ⟨(RDn_RPATH n r), 49, 1⟩
def RDn_RPATH_OVER (n r : Nat) : Field := ⟨(RDn_RPATH n r), 48, 1⟩
def RDn_RPATH_NDROVE (n r : Nat) : Field := ⟨(RDn_RPATH n r), 40, 4⟩
def RDn_RPATH_NCELL (n r : Nat) : Field := ⟨(RDn_RPATH n r), 32, 7⟩
def RDn_RPATH_PATH_B (n r : Nat) : Field := ⟨(RDn_RPATH n r), 16, 16⟩
def RDn_RPATH_PATH_A (n r : Nat) : Field := ⟨(RDn_RPATH n r), 0, 16⟩
/-- RDn_RLATE, R113. -/
def RDn_RLATE (n r : Nat) : Nat := rdBase n + 0x10400 + 0x8 * r
def RDn_RLATE_LATE_B (n r : Nat) : Field := ⟨(RDn_RLATE n r), 32, 32⟩
def RDn_RLATE_LATE_A (n r : Nat) : Field := ⟨(RDn_RLATE n r), 0, 32⟩

/-! ### Registers of 03_arm_synthesis.md -/

/-- SH_FOLD_CFG, R117. -/
def SH_FOLD_CFG (f : Nat) : Nat := 0x20000 + 0x8 * f
def SH_FOLD_CFG_EN (f : Nat) : Field := ⟨(SH_FOLD_CFG f), 63, 1⟩
def SH_FOLD_CFG_CONV (f : Nat) : Field := ⟨(SH_FOLD_CFG f), 62, 1⟩
def SH_FOLD_CFG_NEGOK (f : Nat) : Field := ⟨(SH_FOLD_CFG f), 61, 1⟩
def SH_FOLD_CFG_HOLDMAX (f : Nat) : Field := ⟨(SH_FOLD_CFG f), 56, 4⟩
def SH_FOLD_CFG_KBASE (f : Nat) : Field := ⟨(SH_FOLD_CFG f), 0, 32⟩
/-- SH_FOLD_MAP, R118. -/
def SH_FOLD_MAP (c : Nat) : Nat := 0x30000 + 0x8 * c
def SH_FOLD_MAP_NMISS (c : Nat) : Field := ⟨(SH_FOLD_MAP c), 10, 4⟩
def SH_FOLD_MAP_V1 (c : Nat) : Field := ⟨(SH_FOLD_MAP c), 9, 1⟩
def SH_FOLD_MAP_CONF (c : Nat) : Field := ⟨(SH_FOLD_MAP c), 8, 1⟩
def SH_FOLD_MAP_OOS (c : Nat) : Field := ⟨(SH_FOLD_MAP c), 4, 1⟩
def SH_FOLD_MAP_FOLD (c : Nat) : Field := ⟨(SH_FOLD_MAP c), 0, 4⟩
/-- CDx_SEL_STAT, R147. -/
def CDx_SEL_STAT (d f : Nat) : Nat := cdBase d + 0x40100 + 0x8 * f
def CDx_SEL_STAT_XOVF_CNT (d f : Nat) : Field := ⟨(CDx_SEL_STAT d f), 32, 32⟩
def CDx_SEL_STAT_MODLOST_CNT (d f : Nat) : Field := ⟨(CDx_SEL_STAT d f), 16, 16⟩
def CDx_SEL_STAT_CLAMP_CNT (d f : Nat) : Field := ⟨(CDx_SEL_STAT d f), 12, 4⟩
def CDx_SEL_STAT_XBLK (d f : Nat) : Field := ⟨(CDx_SEL_STAT d f), 11, 1⟩
def CDx_SEL_STAT_N_PART (d f : Nat) : Field := ⟨(CDx_SEL_STAT d f), 0, 11⟩

/-! ### Registers of 04_loop_engine.md -/

/-- LE_GRP_LIM, R179. -/
def LE_GRP_LIM (d g : Nat) : Nat := cdBase d + 0x50100 + 0x8 * g
def LE_GRP_LIM_GMAX (d g : Nat) : Field := ⟨(LE_GRP_LIM d g), 32, 32⟩
def LE_GRP_LIM_GMIN (d g : Nat) : Field := ⟨(LE_GRP_LIM d g), 0, 32⟩
/-- LE_GRP_CTL, R180. -/
def LE_GRP_CTL (d g : Nat) : Nat := cdBase d + 0x50200 + 0x8 * g
def LE_GRP_CTL_EN (d g : Nat) : Field := ⟨(LE_GRP_CTL d g), 63, 1⟩
def LE_GRP_CTL_INV (d g : Nat) : Field := ⟨(LE_GRP_CTL d g), 62, 1⟩
def LE_GRP_CTL_PHASE (d g : Nat) : Field := ⟨(LE_GRP_CTL d g), 60, 2⟩
def LE_GRP_CTL_NMEM (d g : Nat) : Field := ⟨(LE_GRP_CTL d g), 40, 5⟩
def LE_GRP_CTL_WIN (d g : Nat) : Field := ⟨(LE_GRP_CTL d g), 32, 8⟩
def LE_GRP_CTL_OUT (d g : Nat) : Field := ⟨(LE_GRP_CTL d g), 0, 32⟩
/-- SH_LE_PARAM, R200. -/
def SH_LE_PARAM : Nat := 0x60000
def SH_LE_PARAM_GO : Field := ⟨SH_LE_PARAM, 63, 1⟩
def SH_LE_PARAM_BUSY : Field := ⟨SH_LE_PARAM, 62, 1⟩
def SH_LE_PARAM_REFD : Field := ⟨SH_LE_PARAM, 61, 1⟩
def SH_LE_PARAM_SLOT : Field := ⟨SH_LE_PARAM, 45, 8⟩
def SH_LE_PARAM_WORD : Field := ⟨SH_LE_PARAM, 40, 5⟩
def SH_LE_PARAM_PG : Field := ⟨SH_LE_PARAM, 32, 1⟩
def SH_LE_PARAM_VALUE : Field := ⟨SH_LE_PARAM, 0, 32⟩
/-- SH_AT_AMP, R203. -/
def SH_AT_AMP : Nat := 0x60100
def SH_AT_AMP_EH : Field := ⟨SH_AT_AMP, 32, 32⟩
def SH_AT_AMP_D : Field := ⟨SH_AT_AMP, 0, 32⟩
/-- SH_AT_CFG, R203. -/
def SH_AT_CFG : Nat := 0x60108
def SH_AT_CFG_SLOT : Field := ⟨SH_AT_CFG, 56, 8⟩
def SH_AT_CFG_PM : Field := ⟨SH_AT_CFG, 48, 8⟩
def SH_AT_CFG_NPER : Field := ⟨SH_AT_CFG, 40, 8⟩
def SH_AT_CFG_TMO : Field := ⟨SH_AT_CFG, 16, 16⟩
def SH_AT_CFG_ABORT : Field := ⟨SH_AT_CFG, 1, 1⟩
def SH_AT_CFG_START : Field := ⟨SH_AT_CFG, 0, 1⟩
/-- LE_AT_STAT, R208. -/
def LE_AT_STAT (d : Nat) : Nat := cdBase d + 0x50300
def LE_AT_STAT_STATE (d : Nat) : Field := ⟨(LE_AT_STAT d), 60, 4⟩
def LE_AT_STAT_WHY (d : Nat) : Field := ⟨(LE_AT_STAT d), 56, 4⟩
def LE_AT_STAT_TU (d : Nat) : Field := ⟨(LE_AT_STAT d), 0, 32⟩
/-- LE_AT_KU, R208. -/
def LE_AT_KU (d : Nat) : Nat := cdBase d + 0x50308
def LE_AT_KU_A (d : Nat) : Field := ⟨(LE_AT_KU d), 32, 32⟩
def LE_AT_KU_KU (d : Nat) : Field := ⟨(LE_AT_KU d), 0, 32⟩
/-- LE_AT_PID, R208. -/
def LE_AT_PID (d : Nat) : Nat := cdBase d + 0x50310
def LE_AT_PID_KP (d : Nat) : Field := ⟨(LE_AT_PID d), 32, 32⟩
def LE_AT_PID_TI (d : Nat) : Field := ⟨(LE_AT_PID d), 0, 32⟩
/-- LE_AT_TD, R208. -/
def LE_AT_TD (d : Nat) : Nat := cdBase d + 0x50318
def LE_AT_TD_TD (d : Nat) : Field := ⟨(LE_AT_TD d), 32, 32⟩
/-- LE_AT_PI, R208. -/
def LE_AT_PI (d : Nat) : Nat := cdBase d + 0x50320
def LE_AT_PI_KP (d : Nat) : Field := ⟨(LE_AT_PI d), 32, 32⟩
def LE_AT_PI_TI (d : Nat) : Field := ⟨(LE_AT_PI d), 0, 32⟩
/-- LE_STAT, R209. -/
def LE_STAT (d : Nat) : Nat := cdBase d + 0x50000
def LE_STAT_CFGERR_CNT (d : Nat) : Field := ⟨(LE_STAT d), 48, 16⟩
def LE_STAT_HOSTWR (d : Nat) : Field := ⟨(LE_STAT d), 32, 16⟩
def LE_STAT_KICKREF (d : Nat) : Field := ⟨(LE_STAT d), 16, 16⟩
def LE_STAT_KICKED (d : Nat) : Field := ⟨(LE_STAT d), 0, 4⟩
/-- LE_FEBLK, R209. -/
def LE_FEBLK (d : Nat) : Nat := cdBase d + 0x50008
def LE_FEBLK_CONV1 (d : Nat) : Field := ⟨(LE_FEBLK d), 1, 1⟩
def LE_FEBLK_CONV0 (d : Nat) : Field := ⟨(LE_FEBLK d), 0, 1⟩

/-! ### Registers of 05_sareb_cell_controller.md -/

/-- SRB_ID, R254. -/
def SRB_ID : Nat := 0x0
def SRB_ID_PART : Field := ⟨SRB_ID, 16, 16⟩
def SRB_ID_STEP : Field := ⟨SRB_ID, 8, 8⟩
def SRB_ID_RPMAJ : Field := ⟨SRB_ID, 4, 4⟩
def SRB_ID_RPMIN : Field := ⟨SRB_ID, 0, 4⟩
/-- SRB_SER_LO, R254. -/
def SRB_SER_LO : Nat := 0x4
def SRB_SER_LO_SER : Field := ⟨SRB_SER_LO, 0, 32⟩
/-- SRB_SER_HI, R254. -/
def SRB_SER_HI : Nat := 0x8
def SRB_SER_HI_SER : Field := ⟨SRB_SER_HI, 0, 16⟩
/-- SRB_CELL, R254. -/
def SRB_CELL : Nat := 0xC
def SRB_CELL_SGL : Field := ⟨SRB_CELL, 16, 1⟩
def SRB_CELL_RV : Field := ⟨SRB_CELL, 14, 2⟩
def SRB_CELL_ID : Field := ⟨SRB_CELL, 0, 14⟩
/-- SRB_LOCK, R254. -/
def SRB_LOCK : Nat := 0x10
def SRB_LOCK_WREF : Field := ⟨SRB_LOCK, 16, 16⟩
def SRB_LOCK_LOCK : Field := ⟨SRB_LOCK, 0, 1⟩
/-- SRB_FOLD, R254. -/
def SRB_FOLD : Nat := 0x14
def SRB_FOLD_PEN : Field := ⟨SRB_FOLD, 8, 1⟩
def SRB_FOLD_FOLD : Field := ⟨SRB_FOLD, 0, 4⟩
/-- SRB_KBASE, R254. -/
def SRB_KBASE : Nat := 0x18
def SRB_KBASE_KBASE : Field := ⟨SRB_KBASE, 0, 32⟩
/-- SRB_CELL_CFG, R254. -/
def SRB_CELL_CFG : Nat := 0x1C
def SRB_CELL_CFG_CFGD : Field := ⟨SRB_CELL_CFG, 31, 1⟩
def SRB_CELL_CFG_FB : Field := ⟨SRB_CELL_CFG, 0, 1⟩
/-- SRB_MISS_CFG, R254. -/
def SRB_MISS_CFG : Nat := 0x20
def SRB_MISS_CFG_NMISS : Field := ⟨SRB_MISS_CFG, 0, 4⟩
/-- SRB_STATE, R254. -/
def SRB_STATE : Nat := 0x24
def SRB_STATE_MISS : Field := ⟨SRB_STATE, 28, 4⟩
def SRB_STATE_SCAUSE : Field := ⟨SRB_STATE, 24, 4⟩
def SRB_STATE_STATE : Field := ⟨SRB_STATE, 0, 16⟩
/-- SRB_CYC, R254. -/
def SRB_CYC : Nat := 0x40
def SRB_CYC_APPLY : Field := ⟨SRB_CYC, 16, 14⟩
def SRB_CYC_PERIOD : Field := ⟨SRB_CYC, 0, 14⟩
/-- SRB_T0_ANCH, R254. -/
def SRB_T0_ANCH : Nat := 0x44
def SRB_T0_ANCH_ANCH : Field := ⟨SRB_T0_ANCH, 0, 32⟩
/-- SRB_CYC_EFF, R254. -/
def SRB_CYC_EFF : Nat := 0x48
def SRB_CYC_EFF_PEND : Field := ⟨SRB_CYC_EFF, 16, 1⟩
def SRB_CYC_EFF_EFF : Field := ⟨SRB_CYC_EFF, 0, 16⟩
/-- SRB_SLOT_TA, R254. -/
def SRB_SLOT_TA : Nat := 0x4C
def SRB_SLOT_TA_V : Field := ⟨SRB_SLOT_TA, 31, 1⟩
def SRB_SLOT_TA_INST : Field := ⟨SRB_SLOT_TA, 0, 24⟩
/-- SRB_SLOT_TB, R254. -/
def SRB_SLOT_TB : Nat := 0x50
def SRB_SLOT_TB_V : Field := ⟨SRB_SLOT_TB, 31, 1⟩
def SRB_SLOT_TB_INST : Field := ⟨SRB_SLOT_TB, 0, 24⟩
/-- SRB_TIME_LO, R254. -/
def SRB_TIME_LO : Nat := 0x54
def SRB_TIME_LO_T : Field := ⟨SRB_TIME_LO, 0, 32⟩
/-- SRB_TIME_HI, R254. -/
def SRB_TIME_HI : Nat := 0x58
def SRB_TIME_HI_T : Field := ⟨SRB_TIME_HI, 0, 32⟩
/-- SRB_TIME_STAT, R254. -/
def SRB_TIME_STAT : Nat := 0x5C
def SRB_TIME_STAT_VALID : Field := ⟨SRB_TIME_STAT, 4, 1⟩
def SRB_TIME_STAT_LOCKU : Field := ⟨SRB_TIME_STAT, 3, 1⟩
def SRB_TIME_STAT_LOCKD : Field := ⟨SRB_TIME_STAT, 2, 1⟩
def SRB_TIME_STAT_SRC : Field := ⟨SRB_TIME_STAT, 0, 2⟩
/-- SRB_PWM_CFG, R254. -/
def SRB_PWM_CFG : Nat := 0x100
def SRB_PWM_CFG_INV : Field := ⟨SRB_PWM_CFG, 20, 4⟩
def SRB_PWM_CFG_SWAP : Field := ⟨SRB_PWM_CFG, 16, 1⟩
def SRB_PWM_CFG_DT : Field := ⟨SRB_PWM_CFG, 0, 16⟩
/-- SRB_PWM_FORCE, R254. -/
def SRB_PWM_FORCE : Nat := 0x104
def SRB_PWM_FORCE_PB : Field := ⟨SRB_PWM_FORCE, 2, 2⟩
def SRB_PWM_FORCE_PA : Field := ⟨SRB_PWM_FORCE, 0, 2⟩
/-- SRB_PWM_TCMP, R254. -/
def SRB_PWM_TCMP : Nat := 0x108
def SRB_PWM_TCMP_TCMP : Field := ⟨SRB_PWM_TCMP, 0, 32⟩
/-- SRB_PWM_STAT, R254. -/
def SRB_PWM_STAT : Nat := 0x10C
def SRB_PWM_STAT_RLCNT : Field := ⟨SRB_PWM_STAT, 16, 16⟩
def SRB_PWM_STAT_PEND : Field := ⟨SRB_PWM_STAT, 2, 1⟩
def SRB_PWM_STAT_FORCED : Field := ⟨SRB_PWM_STAT, 1, 1⟩
def SRB_PWM_STAT_REL_LATE : Field := ⟨SRB_PWM_STAT, 0, 1⟩
/-- SRB_GD_CFG, R254. -/
def SRB_GD_CFG : Nat := 0x140
def SRB_GD_CFG_DSPOL : Field := ⟨SRB_GD_CFG, 16, 1⟩
def SRB_GD_CFG_MASK : Field := ⟨SRB_GD_CFG, 8, 8⟩
def SRB_GD_CFG_FILT : Field := ⟨SRB_GD_CFG, 0, 8⟩
/-- SRB_PROT_CFG, R254. -/
def SRB_PROT_CFG : Nat := 0x144
def SRB_PROT_CFG_TLIM : Field := ⟨SRB_PROT_CFG, 0, 16⟩
/-- SRB_OVW, R254. -/
def SRB_OVW : Nat := 0x148
def SRB_OVW_OVW : Field := ⟨SRB_OVW, 0, 32⟩
/-- SRB_PROT_STAT, R254. -/
def SRB_PROT_STAT : Nat := 0x14C
def SRB_PROT_STAT_SHRT : Field := ⟨SRB_PROT_STAT, 8, 4⟩
def SRB_PROT_STAT_VINLOW : Field := ⟨SRB_PROT_STAT, 5, 1⟩
def SRB_PROT_STAT_OTEMP : Field := ⟨SRB_PROT_STAT, 4, 1⟩
def SRB_PROT_STAT_SHRTL : Field := ⟨SRB_PROT_STAT, 3, 1⟩
def SRB_PROT_STAT_GDF : Field := ⟨SRB_PROT_STAT, 2, 1⟩
def SRB_PROT_STAT_DSB : Field := ⟨SRB_PROT_STAT, 1, 1⟩
def SRB_PROT_STAT_DSA : Field := ⟨SRB_PROT_STAT, 0, 1⟩
/-- SRB_PROT_CLR, R254. -/
def SRB_PROT_CLR : Nat := 0x150
def SRB_PROT_CLR_SLCV : Field := ⟨SRB_PROT_CLR, 5, 1⟩
def SRB_PROT_CLR_LAT : Field := ⟨SRB_PROT_CLR, 0, 5⟩
/-- SRB_SLCV_THR, R254. -/
def SRB_SLCV_THR : Nat := 0x180
def SRB_SLCV_THR_THR2 : Field := ⟨SRB_SLCV_THR, 16, 16⟩
def SRB_SLCV_THR_THR1 : Field := ⟨SRB_SLCV_THR, 0, 16⟩
/-- SRB_SLCV_CFG, R254. -/
def SRB_SLCV_CFG : Nat := 0x184
def SRB_SLCV_CFG_VALID : Field := ⟨SRB_SLCV_CFG, 31, 1⟩
def SRB_SLCV_CFG_HYS : Field := ⟨SRB_SLCV_CFG, 16, 8⟩
def SRB_SLCV_CFG_SDT : Field := ⟨SRB_SLCV_CFG, 8, 8⟩
def SRB_SLCV_CFG_FILT : Field := ⟨SRB_SLCV_CFG, 0, 8⟩
/-- SRB_BYP_CFG, R254. -/
def SRB_BYP_CFG : Nat := 0x1C0
def SRB_BYP_CFG_TCONF : Field := ⟨SRB_BYP_CFG, 24, 8⟩
def SRB_BYP_CFG_SPOL : Field := ⟨SRB_BYP_CFG, 23, 1⟩
def SRB_BYP_CFG_PULSE : Field := ⟨SRB_BYP_CFG, 0, 8⟩
/-- SRB_BYP_CMD, R254. -/
def SRB_BYP_CMD : Nat := 0x1C4
def SRB_BYP_CMD_KEY : Field := ⟨SRB_BYP_CMD, 16, 16⟩
def SRB_BYP_CMD_FIRE : Field := ⟨SRB_BYP_CMD, 2, 1⟩
def SRB_BYP_CMD_SEMI_REL : Field := ⟨SRB_BYP_CMD, 1, 1⟩
def SRB_BYP_CMD_SEMI : Field := ⟨SRB_BYP_CMD, 0, 1⟩
/-- SRB_BYP_STAT, R254. -/
def SRB_BYP_STAT : Nat := 0x1C8
def SRB_BYP_STAT_BYPFAIL : Field := ⟨SRB_BYP_STAT, 3, 1⟩
def SRB_BYP_STAT_CONF : Field := ⟨SRB_BYP_STAT, 2, 1⟩
def SRB_BYP_STAT_FIRED : Field := ⟨SRB_BYP_STAT, 1, 1⟩
def SRB_BYP_STAT_SENSE : Field := ⟨SRB_BYP_STAT, 0, 1⟩
/-- SRB_ALARM, R254. -/
def SRB_ALARM : Nat := 0x200
def SRB_ALARM_ALARM : Field := ⟨SRB_ALARM, 0, 32⟩
/-- SRB_ALARM_LAT, R254. -/
def SRB_ALARM_LAT : Nat := 0x204
def SRB_ALARM_LAT_ALARM : Field := ⟨SRB_ALARM_LAT, 0, 32⟩
/-- SRB_CNT_MISS, R254. -/
def SRB_CNT_MISS : Nat := 0x220
def SRB_CNT_MISS_N : Field := ⟨SRB_CNT_MISS, 0, 32⟩
/-- SRB_CNT_DMIS, R254. -/
def SRB_CNT_DMIS : Nat := 0x224
def SRB_CNT_DMIS_N : Field := ⟨SRB_CNT_DMIS, 0, 32⟩

/-! ### Registers of 06_measurement_front_ends.md -/

/-- SRB_FE_GLB, R299. -/
def SRB_FE_GLB : Nat := 0x400
def SRB_FE_GLB_REFSET : Field := ⟨SRB_FE_GLB, 16, 8⟩
def SRB_FE_GLB_DIAGPER : Field := ⟨SRB_FE_GLB, 8, 8⟩
/-- SRB_FE_DIAG, R299. -/
def SRB_FE_DIAG : Nat := 0x404
def SRB_FE_DIAG_ZMAX : Field := ⟨SRB_FE_DIAG, 24, 8⟩
def SRB_FE_DIAG_ZMIN : Field := ⟨SRB_FE_DIAG, 16, 8⟩
def SRB_FE_DIAG_OWLIM : Field := ⟨SRB_FE_DIAG, 0, 16⟩
/-- SRB_FE_EXC, R299. -/
def SRB_FE_EXC : Nat := 0x408
def SRB_FE_EXC_EXCF : Field := ⟨SRB_FE_EXC, 8, 1⟩
def SRB_FE_EXC_MODE : Field := ⟨SRB_FE_EXC, 0, 2⟩
/-- SRB_FE_SCAN, R299. -/
def SRB_FE_SCAN : Nat := 0x40C
def SRB_FE_SCAN_ENT : Field := ⟨SRB_FE_SCAN, 0, 32⟩
/-- SRB_FE_REF, R299. -/
def SRB_FE_REF : Nat := 0x410
def SRB_FE_REF_AGE : Field := ⟨SRB_FE_REF, 16, 16⟩
def SRB_FE_REF_REFBAD : Field := ⟨SRB_FE_REF, 1, 1⟩
def SRB_FE_REF_STALE : Field := ⟨SRB_FE_REF, 0, 1⟩
/-- SRB_FE_RHO, R299. -/
def SRB_FE_RHO : Nat := 0x414
def SRB_FE_RHO_RHO : Field := ⟨SRB_FE_RHO, 0, 32⟩
/-- SRB_FE_CNT, R299. -/
def SRB_FE_CNT : Nat := 0x418
def SRB_FE_CNT_REFBAD : Field := ⟨SRB_FE_CNT, 16, 16⟩
def SRB_FE_CNT_HELD : Field := ⟨SRB_FE_CNT, 0, 16⟩
/-- SRB_FE_STAT, R299. -/
def SRB_FE_STAT : Nat := 0x41C
def SRB_FE_STAT_OVR : Field := ⟨SRB_FE_STAT, 24, 8⟩
def SRB_FE_STAT_OPENW : Field := ⟨SRB_FE_STAT, 16, 8⟩
def SRB_FE_STAT_REV : Field := ⟨SRB_FE_STAT, 8, 8⟩
def SRB_FE_STAT_IMPED : Field := ⟨SRB_FE_STAT, 0, 8⟩
/-- SRB_FE_TDIE, R299. -/
def SRB_FE_TDIE : Nat := 0x420
def SRB_FE_TDIE_T : Field := ⟨SRB_FE_TDIE, 0, 16⟩
/-- SRB_FE_CH, R299. -/
def SRB_FE_CH (n : Nat) : Nat := 0x440 + 0x4 * n
def SRB_FE_CH_EN (n : Nat) : Field := ⟨(SRB_FE_CH n), 31, 1⟩
def SRB_FE_CH_OWEN (n : Nat) : Field := ⟨(SRB_FE_CH n), 30, 1⟩
def SRB_FE_CH_ZEN (n : Nat) : Field := ⟨(SRB_FE_CH n), 29, 1⟩
def SRB_FE_CH_REVEN (n : Nat) : Field := ⟨(SRB_FE_CH n), 28, 1⟩
def SRB_FE_CH_SETTLE (n : Nat) : Field := ⟨(SRB_FE_CH n), 16, 8⟩
def SRB_FE_CH_REVLIM (n : Nat) : Field := ⟨(SRB_FE_CH n), 0, 16⟩
/-- SRB_FE_RAW, R299. -/
def SRB_FE_RAW (n : Nat) : Nat := 0x460 + 0x4 * n
def SRB_FE_RAW_V (n : Nat) : Field := ⟨(SRB_FE_RAW n), 31, 1⟩
def SRB_FE_RAW_OVR (n : Nat) : Field := ⟨(SRB_FE_RAW n), 30, 1⟩
def SRB_FE_RAW_HELD (n : Nat) : Field := ⟨(SRB_FE_RAW n), 29, 1⟩
def SRB_FE_RAW_STALE (n : Nat) : Field := ⟨(SRB_FE_RAW n), 28, 1⟩
def SRB_FE_RAW_NBR (n : Nat) : Field := ⟨(SRB_FE_RAW n), 27, 1⟩
def SRB_FE_RAW_CHOP (n : Nat) : Field := ⟨(SRB_FE_RAW n), 26, 1⟩
def SRB_FE_RAW_CODE (n : Nat) : Field := ⟨(SRB_FE_RAW n), 0, 16⟩
/-- SRB_FE_RES, R299. -/
def SRB_FE_RES (n : Nat) : Nat := 0x480 + 0x4 * n
def SRB_FE_RES_Y (n : Nat) : Field := ⟨(SRB_FE_RES n), 0, 32⟩
/-- SRB_FE_FILT, R299. -/
def SRB_FE_FILT (n : Nat) : Nat := 0x4A0 + 0x4 * n
def SRB_FE_FILT_Y (n : Nat) : Field := ⟨(SRB_FE_FILT n), 0, 32⟩
/-- SRB_FE_ZRES, R299. -/
def SRB_FE_ZRES (n : Nat) : Nat := 0x4C0 + 0x4 * n
def SRB_FE_ZRES_Z (n : Nat) : Field := ⟨(SRB_FE_ZRES n), 0, 16⟩
/-- SRB_FE_UCOEF, R299. -/
def SRB_FE_UCOEF (n i j : Nat) : Nat := 0x500 + 0x40 * n + 0x4 * i + 0x10 * j
def SRB_FE_UCOEF_C (n i j : Nat) : Field := ⟨(SRB_FE_UCOEF n i j), 0, 32⟩
/-- SRB_FE_FCOEF, R299. -/
def SRB_FE_FCOEF (n i j : Nat) : Nat := 0x800 + 0x40 * n + 0x4 * i + 0x10 * j
def SRB_FE_FCOEF_C (n i j : Nat) : Field := ⟨(SRB_FE_FCOEF n i j), 0, 32⟩
/-- AQ_STAT, R300. -/
def AQ_STAT : Nat := aqBase + 0x0
def AQ_STAT_CFGREF : Field := ⟨AQ_STAT, 48, 16⟩
def AQ_STAT_CFGD : Field := ⟨AQ_STAT, 47, 1⟩
def AQ_STAT_LOCK : Field := ⟨AQ_STAT, 46, 1⟩
def AQ_STAT_WREF : Field := ⟨AQ_STAT, 16, 16⟩
/-- AQ_REF, R300. -/
def AQ_REF (v : Nat) : Nat := aqBase + 0x200 + 0x8 * v
def AQ_REF_RHO (v : Nat) : Field := ⟨(AQ_REF v), 32, 32⟩
def AQ_REF_AGE (v : Nat) : Field := ⟨(AQ_REF v), 16, 16⟩
def AQ_REF_REFBAD (v : Nat) : Field := ⟨(AQ_REF v), 1, 1⟩
def AQ_REF_STALE (v : Nat) : Field := ⟨(AQ_REF v), 0, 1⟩
/-- AQ_CH_CFG, R300. -/
def AQ_CH_CFG (c : Nat) : Nat := aqBase + 0x1000 + 0x8 * c
def AQ_CH_CFG_EN (c : Nat) : Field := ⟨(AQ_CH_CFG c), 63, 1⟩
def AQ_CH_CFG_FG (c : Nat) : Field := ⟨(AQ_CH_CFG c), 62, 1⟩
def AQ_CH_CFG_RNG (c : Nat) : Field := ⟨(AQ_CH_CFG c), 61, 1⟩
def AQ_CH_CFG_OWEN (c : Nat) : Field := ⟨(AQ_CH_CFG c), 60, 1⟩
def AQ_CH_CFG_ZEN (c : Nat) : Field := ⟨(AQ_CH_CFG c), 59, 1⟩
def AQ_CH_CFG_REVEN (c : Nat) : Field := ⟨(AQ_CH_CFG c), 58, 1⟩
def AQ_CH_CFG_SUSP (c : Nat) : Field := ⟨(AQ_CH_CFG c), 57, 1⟩
def AQ_CH_CFG_DIV (c : Nat) : Field := ⟨(AQ_CH_CFG c), 54, 2⟩
def AQ_CH_CFG_PH (c : Nat) : Field := ⟨(AQ_CH_CFG c), 48, 3⟩
def AQ_CH_CFG_REVLIM (c : Nat) : Field := ⟨(AQ_CH_CFG c), 32, 16⟩
/-- AQ_CH_RES, R300. -/
def AQ_CH_RES (c : Nat) : Nat := aqBase + 0x3000 + 0x8 * c
def AQ_CH_RES_Y (c : Nat) : Field := ⟨(AQ_CH_RES c), 32, 32⟩
def AQ_CH_RES_V (c : Nat) : Field := ⟨(AQ_CH_RES c), 31, 1⟩
def AQ_CH_RES_OVR (c : Nat) : Field := ⟨(AQ_CH_RES c), 30, 1⟩
def AQ_CH_RES_HELD (c : Nat) : Field := ⟨(AQ_CH_RES c), 29, 1⟩
def AQ_CH_RES_STALE (c : Nat) : Field := ⟨(AQ_CH_RES c), 28, 1⟩
def AQ_CH_RES_NBR (c : Nat) : Field := ⟨(AQ_CH_RES c), 27, 1⟩
def AQ_CH_RES_CHOP (c : Nat) : Field := ⟨(AQ_CH_RES c), 26, 1⟩
def AQ_CH_RES_DIAG (c : Nat) : Field := ⟨(AQ_CH_RES c), 20, 6⟩
def AQ_CH_RES_CODE (c : Nat) : Field := ⟨(AQ_CH_RES c), 0, 16⟩
/-- AQ_CH_FILT, R300. -/
def AQ_CH_FILT (c : Nat) : Nat := aqBase + 0x4000 + 0x8 * c
def AQ_CH_FILT_Y (c : Nat) : Field := ⟨(AQ_CH_FILT c), 32, 32⟩
def AQ_CH_FILT_Z (c : Nat) : Field := ⟨(AQ_CH_FILT c), 0, 16⟩
/-- AQ_UCOEF, R300. -/
def AQ_UCOEF (c w : Nat) : Nat := aqBase + 0x8000 + 0x40 * c + 0x8 * w
def AQ_UCOEF_CHI (c w : Nat) : Field := ⟨(AQ_UCOEF c w), 32, 32⟩
def AQ_UCOEF_CLO (c w : Nat) : Field := ⟨(AQ_UCOEF c w), 0, 32⟩
/-- AQ_FCOEF, R300. -/
def AQ_FCOEF (c w : Nat) : Nat := aqBase + 0x10000 + 0x40 * c + 0x8 * w
def AQ_FCOEF_C (c w : Nat) : Field := ⟨(AQ_FCOEF c w), 0, 64⟩
/-- AQ_DIAG, R300. -/
def AQ_DIAG : Nat := aqBase + 0x8
def AQ_DIAG_ZMAX : Field := ⟨AQ_DIAG, 56, 8⟩
def AQ_DIAG_ZMIN : Field := ⟨AQ_DIAG, 48, 8⟩
def AQ_DIAG_OWLIM : Field := ⟨AQ_DIAG, 32, 16⟩
def AQ_DIAG_DIAGPER : Field := ⟨AQ_DIAG, 24, 8⟩

/-! ### Registers of 07_vote_spare_twin.md -/

/-- SH_VOTE_CFG, R346. -/
def SH_VOTE_CFG : Nat := 0x70000
def SH_VOTE_CFG_PROBN : Field := ⟨SH_VOTE_CFG, 32, 16⟩
def SH_VOTE_CFG_SOLO : Field := ⟨SH_VOTE_CFG, 20, 6⟩
def SH_VOTE_CFG_HOLDMAX : Field := ⟨SH_VOTE_CFG, 0, 2⟩
/-- SH_VOTE_STAT, R346. -/
def SH_VOTE_STAT : Nat := 0x70008
def SH_VOTE_STAT_NOAGR : Field := ⟨SH_VOTE_STAT, 32, 32⟩
def SH_VOTE_STAT_MIRDIS : Field := ⟨SH_VOTE_STAT, 16, 16⟩
def SH_VOTE_STAT_SPB : Field := ⟨SH_VOTE_STAT, 7, 1⟩
def SH_VOTE_STAT_HCNT : Field := ⟨SH_VOTE_STAT, 2, 2⟩
def SH_VOTE_STAT_FORM : Field := ⟨SH_VOTE_STAT, 0, 2⟩
/-- SH_VOTE_SIG, R346. -/
def SH_VOTE_SIG : Nat := 0x70018
def SH_VOTE_SIG_RUN : Field := ⟨SH_VOTE_SIG, 32, 32⟩
def SH_VOTE_SIG_LAST : Field := ⟨SH_VOTE_SIG, 0, 32⟩
/-- SH_LANE_CTL, R346. -/
def SH_LANE_CTL : Nat := 0x70010
def SH_LANE_CTL_RETIRE : Field := ⟨SH_LANE_CTL, 0, 4⟩
/-- SH_LANE_STAT, R347. -/
def SH_LANE_STAT (d : Nat) : Nat := 0x70040 + 0x8 * d
def SH_LANE_STAT_DISCNT (d : Nat) : Field := ⟨(SH_LANE_STAT d), 48, 16⟩
def SH_LANE_STAT_MISSCNT (d : Nat) : Field := ⟨(SH_LANE_STAT d), 32, 16⟩
def SH_LANE_STAT_PCNT (d : Nat) : Field := ⟨(SH_LANE_STAT d), 16, 16⟩
def SH_LANE_STAT_MAGE (d : Nat) : Field := ⟨(SH_LANE_STAT d), 8, 4⟩
def SH_LANE_STAT_INPUT (d : Nat) : Field := ⟨(SH_LANE_STAT d), 6, 2⟩
def SH_LANE_STAT_STATE (d : Nat) : Field := ⟨(SH_LANE_STAT d), 0, 3⟩
/-- RDn_SLACK, R348. -/
def RDn_SLACK (n l b : Nat) : Nat := rdBase n + 0x20000 + 0x80 * l + 0x8 * b
def RDn_SLACK_COUNT (n l b : Nat) : Field := ⟨(RDn_SLACK n l b), 0, 32⟩
/-- CDx_MIR_STAT, R348. -/
def CDx_MIR_STAT (d : Nat) : Nat := cdBase d + 0x40200
def CDx_MIR_STAT_MSTREF (d : Nat) : Field := ⟨(CDx_MIR_STAT d), 48, 16⟩
def CDx_MIR_STAT_ENGTRUNC (d : Nat) : Field := ⟨(CDx_MIR_STAT d), 32, 16⟩
def CDx_MIR_STAT_LAST (d : Nat) : Field := ⟨(CDx_MIR_STAT d), 0, 16⟩
/-- SH_TWIN_CFG, R349. -/
def SH_TWIN_CFG : Nat := 0x70100
def SH_TWIN_CFG_HBMISS : Field := ⟨SH_TWIN_CFG, 0, 4⟩
/-- SH_TWIN_CTL, R349. -/
def SH_TWIN_CTL : Nat := 0x70108
def SH_TWIN_CTL_HANDREQ : Field := ⟨SH_TWIN_CTL, 0, 1⟩
/-- SH_TWIN_STAT, R349. -/
def SH_TWIN_STAT : Nat := 0x70110
def SH_TWIN_STAT_CMPDIFF : Field := ⟨SH_TWIN_STAT, 48, 16⟩
def SH_TWIN_STAT_DTW : Field := ⟨SH_TWIN_STAT, 32, 16⟩
def SH_TWIN_STAT_TWM : Field := ⟨SH_TWIN_STAT, 24, 8⟩
def SH_TWIN_STAT_TMAGE : Field := ⟨SH_TWIN_STAT, 20, 4⟩
def SH_TWIN_STAT_GRANT : Field := ⟨SH_TWIN_STAT, 15, 1⟩
def SH_TWIN_STAT_HIN : Field := ⟨SH_TWIN_STAT, 14, 1⟩
def SH_TWIN_STAT_LINKS : Field := ⟨SH_TWIN_STAT, 12, 2⟩
def SH_TWIN_STAT_REFOK : Field := ⟨SH_TWIN_STAT, 11, 1⟩
def SH_TWIN_STAT_PREADY : Field := ⟨SH_TWIN_STAT, 10, 1⟩
def SH_TWIN_STAT_READY : Field := ⟨SH_TWIN_STAT, 9, 1⟩
def SH_TWIN_STAT_ID : Field := ⟨SH_TWIN_STAT, 8, 1⟩
def SH_TWIN_STAT_HREF : Field := ⟨SH_TWIN_STAT, 2, 1⟩
def SH_TWIN_STAT_ROLE : Field := ⟨SH_TWIN_STAT, 0, 2⟩

/-! ### Registers of 09_task_scheduler.md -/

/-- SCH_CFG, R446. -/
def SCH_CFG (d : Nat) : Nat := cdBase d + 0x70000
def SCH_CFG_TICK (d : Nat) : Field := ⟨(SCH_CFG d), 0, 14⟩
/-- SCH_STAT, R446. -/
def SCH_STAT (d : Nat) : Nat := cdBase d + 0x70008
def SCH_STAT_POSTREF (d : Nat) : Field := ⟨(SCH_STAT d), 48, 16⟩
def SCH_STAT_SVCREF (d : Nat) : Field := ⟨(SCH_STAT d), 32, 16⟩
def SCH_STAT_OVRCNT (d : Nat) : Field := ⟨(SCH_STAT d), 16, 16⟩
def SCH_STAT_HOSTWR (d : Nat) : Field := ⟨(SCH_STAT d), 0, 16⟩
/-- SCH_DBG, R446. -/
def SCH_DBG (d : Nat) : Nat := cdBase d + 0x70010
def SCH_DBG_HALT (d : Nat) : Field := ⟨(SCH_DBG d), 63, 1⟩
def SCH_DBG_RESUME (d : Nat) : Field := ⟨(SCH_DBG d), 62, 1⟩
def SCH_DBG_CORE (d : Nat) : Field := ⟨(SCH_DBG d), 61, 1⟩
def SCH_DBG_OBJ (d : Nat) : Field := ⟨(SCH_DBG d), 0, 9⟩
/-- SCH_POOL, R446. -/
def SCH_POOL (d : Nat) : Nat := cdBase d + 0x70018
def SCH_POOL_VFREE (d : Nat) : Field := ⟨(SCH_POOL d), 16, 13⟩
def SCH_POOL_NFREE (d : Nat) : Field := ⟨(SCH_POOL d), 0, 13⟩
/-- SCH_CORE, R446. -/
def SCH_CORE (d c : Nat) : Nat := cdBase d + 0x70040 + 0x8 * c
def SCH_CORE_HALTED (d c : Nat) : Field := ⟨(SCH_CORE d c), 63, 1⟩
def SCH_CORE_IDLE (d c : Nat) : Field := ⟨(SCH_CORE d c), 62, 1⟩
def SCH_CORE_TASK (d c : Nat) : Field := ⟨(SCH_CORE d c), 32, 9⟩
def SCH_CORE_SWITCH (d c : Nat) : Field := ⟨(SCH_CORE d c), 0, 32⟩
/-- SCH_PART, R446. -/
def SCH_PART (d p : Nat) : Nat := cdBase d + 0x70100 + 0x8 * p
def SCH_PART_BASE (d p : Nat) : Field := ⟨(SCH_PART d p), 48, 11⟩
def SCH_PART_LIMIT (d p : Nat) : Field := ⟨(SCH_PART d p), 32, 11⟩
def SCH_PART_CORES (d p : Nat) : Field := ⟨(SCH_PART d p), 0, 16⟩
/-- SCH_MBOX, R447. -/
def SCH_MBOX (d m : Nat) : Nat := cdBase d + 0x71000 + 0x8 * m
def SCH_MBOX_EN (d m : Nat) : Field := ⟨(SCH_MBOX d m), 63, 1⟩
def SCH_MBOX_PART (d m : Nat) : Field := ⟨(SCH_MBOX d m), 59, 4⟩
def SCH_MBOX_DEPTH (d m : Nat) : Field := ⟨(SCH_MBOX d m), 46, 13⟩
def SCH_MBOX_COUNT (d m : Nat) : Field := ⟨(SCH_MBOX d m), 33, 13⟩
def SCH_MBOX_PROD (d m : Nat) : Field := ⟨(SCH_MBOX d m), 24, 9⟩
def SCH_MBOX_CONS (d m : Nat) : Field := ⟨(SCH_MBOX d m), 15, 9⟩
def SCH_MBOX_FULLCNT (d m : Nat) : Field := ⟨(SCH_MBOX d m), 0, 15⟩
/-- SCH_LOCK, R447. -/
def SCH_LOCK (d l : Nat) : Nat := cdBase d + 0x71800 + 0x8 * l
def SCH_LOCK_EN (d l : Nat) : Field := ⟨(SCH_LOCK d l), 63, 1⟩
def SCH_LOCK_PART (d l : Nat) : Field := ⟨(SCH_LOCK d l), 59, 4⟩
def SCH_LOCK_HELD (d l : Nat) : Field := ⟨(SCH_LOCK d l), 58, 1⟩
def SCH_LOCK_BROKEN (d l : Nat) : Field := ⟨(SCH_LOCK d l), 57, 1⟩
def SCH_LOCK_CEIL (d l : Nat) : Field := ⟨(SCH_LOCK d l), 51, 6⟩
def SCH_LOCK_HOLDER (d l : Nat) : Field := ⟨(SCH_LOCK d l), 42, 9⟩
def SCH_LOCK_NWAIT (d l : Nat) : Field := ⟨(SCH_LOCK d l), 33, 9⟩
/-- SCH_TASK_W0, R448. -/
def SCH_TASK_W0 (d t : Nat) : Nat := cdBase d + 0x80000 + 0x40 * t
def SCH_TASK_W0_STATE (d t : Nat) : Field := ⟨(SCH_TASK_W0 d t), 60, 4⟩
def SCH_TASK_W0_HSTATE (d t : Nat) : Field := ⟨(SCH_TASK_W0 d t), 56, 4⟩
def SCH_TASK_W0_PART (d t : Nat) : Field := ⟨(SCH_TASK_W0 d t), 52, 4⟩
def SCH_TASK_W0_PRI (d t : Nat) : Field := ⟨(SCH_TASK_W0 d t), 46, 6⟩
def SCH_TASK_W0_BASE (d t : Nat) : Field := ⟨(SCH_TASK_W0 d t), 40, 6⟩
def SCH_TASK_W0_PPEND (d t : Nat) : Field := ⟨(SCH_TASK_W0 d t), 34, 6⟩
def SCH_TASK_W0_PPV (d t : Nat) : Field := ⟨(SCH_TASK_W0 d t), 33, 1⟩
def SCH_TASK_W0_CB (d t : Nat) : Field := ⟨(SCH_TASK_W0 d t), 32, 1⟩
def SCH_TASK_W0_PHASE (d t : Nat) : Field := ⟨(SCH_TASK_W0 d t), 29, 3⟩
def SCH_TASK_W0_CDIV (d t : Nat) : Field := ⟨(SCH_TASK_W0 d t), 21, 8⟩
def SCH_TASK_W0_CPH (d t : Nat) : Field := ⟨(SCH_TASK_W0 d t), 13, 8⟩
def SCH_TASK_W0_CORE (d t : Nat) : Field := ⟨(SCH_TASK_W0 d t), 9, 4⟩
def SCH_TASK_W0_WOBJ (d t : Nat) : Field := ⟨(SCH_TASK_W0 d t), 0, 9⟩
/-- SCH_TASK_W1, R448. -/
def SCH_TASK_W1 (d t : Nat) : Nat := cdBase d + 0x80008 + 0x40 * t
def SCH_TASK_W1_RESUME (d t : Nat) : Field := ⟨(SCH_TASK_W1 d t), 32, 32⟩
def SCH_TASK_W1_ENTRY (d t : Nat) : Field := ⟨(SCH_TASK_W1 d t), 0, 32⟩
/-- SCH_TASK_W2, R448. -/
def SCH_TASK_W2 (d t : Nat) : Nat := cdBase d + 0x80010 + 0x40 * t
def SCH_TASK_W2_SPLIM (d t : Nat) : Field := ⟨(SCH_TASK_W2 d t), 32, 32⟩
def SCH_TASK_W2_SPBASE (d t : Nat) : Field := ⟨(SCH_TASK_W2 d t), 0, 32⟩
/-- SCH_TASK_W3, R448. -/
def SCH_TASK_W3 (d t : Nat) : Nat := cdBase d + 0x80018 + 0x40 * t
def SCH_TASK_W3_SPPTR (d t : Nat) : Field := ⟨(SCH_TASK_W3 d t), 32, 32⟩
/-- SCH_TASK_W4, R448. -/
def SCH_TASK_W4 (d t : Nat) : Nat := cdBase d + 0x80020 + 0x40 * t
def SCH_TASK_W4_G8 (d t : Nat) : Field := ⟨(SCH_TASK_W4 d t), 32, 32⟩
def SCH_TASK_W4_G7 (d t : Nat) : Field := ⟨(SCH_TASK_W4 d t), 0, 32⟩
/-- SCH_TASK_W5, R448. -/
def SCH_TASK_W5 (d t : Nat) : Nat := cdBase d + 0x80028 + 0x40 * t
def SCH_TASK_W5_LSET (d t : Nat) : Field := ⟨(SCH_TASK_W5 d t), 0, 64⟩
/-- SCH_TASK_W6, R448. -/
def SCH_TASK_W6 (d t : Nat) : Nat := cdBase d + 0x80030 + 0x40 * t
def SCH_TASK_W6_WAKE (d t : Nat) : Field := ⟨(SCH_TASK_W6 d t), 16, 48⟩
/-- SCH_TASK_W7, R448. -/
def SCH_TASK_W7 (d t : Nat) : Nat := cdBase d + 0x80038 + 0x40 * t
def SCH_TASK_W7_OVR (d t : Nat) : Field := ⟨(SCH_TASK_W7 d t), 32, 32⟩
def SCH_TASK_W7_ACTCNT (d t : Nat) : Field := ⟨(SCH_TASK_W7 d t), 0, 32⟩

/-! ### Registers of 10_time_and_metering.md -/

/-- TIM_RAW, R485. -/
def TIM_RAW : Nat := 0x100000
def TIM_RAW_RAW : Field := ⟨TIM_RAW, 0, 64⟩
/-- TIM_NOW, R485. -/
def TIM_NOW : Nat := 0x100008
def TIM_NOW_T : Field := ⟨TIM_NOW, 0, 64⟩
/-- TIM_NOW40, R485. -/
def TIM_NOW40 : Nat := 0x100010
def TIM_NOW40_TS40 : Field := ⟨TIM_NOW40, 0, 40⟩
/-- TIM_RATE, R485. -/
def TIM_RATE : Nat := 0x100018
def TIM_RATE_I : Field := ⟨TIM_RATE, 32, 32⟩
def TIM_RATE_RATE : Field := ⟨TIM_RATE, 0, 32⟩
/-- TIM_SERVO, R485. -/
def TIM_SERVO : Nat := 0x100020
def TIM_SERVO_KP : Field := ⟨TIM_SERVO, 48, 16⟩
def TIM_SERVO_KI : Field := ⟨TIM_SERVO, 32, 16⟩
def TIM_SERVO_JUMPTH : Field := ⟨TIM_SERVO, 16, 16⟩
def TIM_SERVO_HOLDTO : Field := ⟨TIM_SERVO, 8, 8⟩
def TIM_SERVO_ACQTO : Field := ⟨TIM_SERVO, 0, 8⟩
/-- TIM_STAT, R485. -/
def TIM_STAT : Nat := 0x100028
def TIM_STAT_JCNT : Field := ⟨TIM_STAT, 48, 16⟩
def TIM_STAT_STEPCNT : Field := ⟨TIM_STAT, 32, 16⟩
def TIM_STAT_STATE : Field := ⟨TIM_STAT, 0, 3⟩
/-- TIM_JUMP, R485. -/
def TIM_JUMP : Nat := 0x100030
def TIM_JUMP_PEND : Field := ⟨TIM_JUMP, 63, 1⟩
def TIM_JUMP_OFS : Field := ⟨TIM_JUMP, 0, 63⟩
/-- TIM_JUMP_CTL, R485. -/
def TIM_JUMP_CTL : Nat := 0x100038
def TIM_JUMP_CTL_SET : Field := ⟨TIM_JUMP_CTL, 1, 1⟩
def TIM_JUMP_CTL_ACCEPT : Field := ⟨TIM_JUMP_CTL, 0, 1⟩
/-- TIM_SET, R485. -/
def TIM_SET : Nat := 0x100040
def TIM_SET_D : Field := ⟨TIM_SET, 0, 64⟩
/-- TIM_WALL, R485. -/
def TIM_WALL : Nat := 0x100048
def TIM_WALL_OFS : Field := ⟨TIM_WALL, 0, 64⟩
/-- TIM_ALIGN, R485. -/
def TIM_ALIGN : Nat := 0x100050
def TIM_ALIGN_SERRMAX : Field := ⟨TIM_ALIGN, 32, 32⟩
def TIM_ALIGN_NFCLK : Field := ⟨TIM_ALIGN, 16, 16⟩
def TIM_ALIGN_NHOLD : Field := ⟨TIM_ALIGN, 0, 16⟩
/-- TIM_GRID, R485. -/
def TIM_GRID : Nat := 0x100058
def TIM_GRID_GOFS : Field := ⟨TIM_GRID, 0, 32⟩
/-- TIM_PTP_CFG, R485. -/
def TIM_PTP_CFG : Nat := 0x100100
def TIM_PTP_CFG_EN : Field := ⟨TIM_PTP_CFG, 63, 1⟩
def TIM_PTP_CFG_P2P : Field := ⟨TIM_PTP_CFG, 62, 1⟩
def TIM_PTP_CFG_ONESTEP : Field := ⟨TIM_PTP_CFG, 61, 1⟩
def TIM_PTP_CFG_DOMAIN : Field := ⟨TIM_PTP_CFG, 48, 8⟩
def TIM_PTP_CFG_PORTS : Field := ⟨TIM_PTP_CFG, 40, 8⟩
/-- TIM_PTP_STAT, R485. -/
def TIM_PTP_STAT : Nat := 0x100108
def TIM_PTP_STAT_MPD : Field := ⟨TIM_PTP_STAT, 32, 32⟩
def TIM_PTP_STAT_UTCOFS : Field := ⟨TIM_PTP_STAT, 16, 16⟩
def TIM_PTP_STAT_VALID : Field := ⟨TIM_PTP_STAT, 3, 1⟩
def TIM_PTP_STAT_PORT : Field := ⟨TIM_PTP_STAT, 0, 3⟩
/-- TIM_PTP_GM, R485. -/
def TIM_PTP_GM : Nat := 0x100110
def TIM_PTP_GM_ID : Field := ⟨TIM_PTP_GM, 0, 64⟩
/-- TIM_SP_LAT, R485. -/
def TIM_SP_LAT (p : Nat) : Nat := 0x100180 + 0x8 * p
def TIM_SP_LAT_EGR (p : Nat) : Field := ⟨(TIM_SP_LAT p), 32, 32⟩
def TIM_SP_LAT_ING (p : Nat) : Field := ⟨(TIM_SP_LAT p), 0, 32⟩
/-- SH_LEDG_CFG, R486. -/
def SH_LEDG_CFG : Nat := 0x80000
def SH_LEDG_CFG_LEN1 : Field := ⟨SH_LEDG_CFG, 8, 8⟩
def SH_LEDG_CFG_LEN0 : Field := ⟨SH_LEDG_CFG, 0, 8⟩
/-- SH_LEDG_STAT, R486. -/
def SH_LEDG_STAT (c : Nat) : Nat := 0x80010 + 0x8 * c
def SH_LEDG_STAT_LOST (c : Nat) : Field := ⟨(SH_LEDG_STAT c), 32, 32⟩
def SH_LEDG_STAT_NEXT (c : Nat) : Field := ⟨(SH_LEDG_STAT c), 0, 16⟩
/-- SH_LEDG_ACK, R486. -/
def SH_LEDG_ACK (c : Nat) : Nat := 0x80020 + 0x8 * c
def SH_LEDG_ACK_ACK (c : Nat) : Field := ⟨(SH_LEDG_ACK c), 0, 16⟩
/-- SH_LEDG_MAXLBL, R486. -/
def SH_LEDG_MAXLBL (c : Nat) : Nat := 0x80030 + 0x8 * c
def SH_LEDG_MAXLBL_L (c : Nat) : Field := ⟨(SH_LEDG_MAXLBL c), 0, 64⟩
/-- SH_LEDG_W0, R486. -/
def SH_LEDG_W0 (c i : Nat) : Nat := 0x81000 + 0x800 * c + 0x40 * i
def SH_LEDG_W0_LABEL (c i : Nat) : Field := ⟨(SH_LEDG_W0 c i), 0, 64⟩
/-- SH_LEDG_W1, R486. -/
def SH_LEDG_W1 (c i : Nat) : Nat := 0x81008 + 0x800 * c + 0x40 * i
def SH_LEDG_W1_EJ (c i : Nat) : Field := ⟨(SH_LEDG_W1 c i), 0, 64⟩
/-- SH_LEDG_W2, R486. -/
def SH_LEDG_W2 (c i : Nat) : Nat := 0x81010 + 0x800 * c + 0x40 * i
def SH_LEDG_W2_EFRAC (c i : Nat) : Field := ⟨(SH_LEDG_W2 c i), 32, 32⟩
def SH_LEDG_W2_MISSED (c i : Nat) : Field := ⟨(SH_LEDG_W2 c i), 0, 32⟩
/-- SH_LEDG_W3, R486. -/
def SH_LEDG_W3 (c i : Nat) : Nat := 0x81018 + 0x800 * c + 0x40 * i
def SH_LEDG_W3_DUR (c i : Nat) : Field := ⟨(SH_LEDG_W3 c i), 0, 64⟩
/-- SH_LEDG_W4, R486. -/
def SH_LEDG_W4 (c i : Nat) : Nat := 0x81020 + 0x800 * c + 0x40 * i
def SH_LEDG_W4_STEP (c i : Nat) : Field := ⟨(SH_LEDG_W4 c i), 0, 64⟩
/-- SH_LEDG_W5, R486. -/
def SH_LEDG_W5 (c i : Nat) : Nat := 0x81028 + 0x800 * c + 0x40 * i
def SH_LEDG_W5_NCYC (c i : Nat) : Field := ⟨(SH_LEDG_W5 c i), 32, 32⟩
def SH_LEDG_W5_NUM (c i : Nat) : Field := ⟨(SH_LEDG_W5 c i), 16, 16⟩
def SH_LEDG_W5_PART (c i : Nat) : Field := ⟨(SH_LEDG_W5 c i), 6, 1⟩
def SH_LEDG_W5_NOTIME (c i : Nat) : Field := ⟨(SH_LEDG_W5 c i), 5, 1⟩
def SH_LEDG_W5_STEPD (c i : Nat) : Field := ⟨(SH_LEDG_W5 c i), 4, 1⟩
def SH_LEDG_W5_LATE (c i : Nat) : Field := ⟨(SH_LEDG_W5 c i), 3, 1⟩
def SH_LEDG_W5_REPEAT (c i : Nat) : Field := ⟨(SH_LEDG_W5 c i), 2, 1⟩
def SH_LEDG_W5_SHORT (c i : Nat) : Field := ⟨(SH_LEDG_W5 c i), 1, 1⟩
def SH_LEDG_W5_OPEN (c i : Nat) : Field := ⟨(SH_LEDG_W5 c i), 0, 1⟩
/-- SRB_TD_DLYA, R487. -/
def SRB_TD_DLYA : Nat := 0x60
def SRB_TD_DLYA_D : Field := ⟨SRB_TD_DLYA, 0, 32⟩
/-- SRB_TD_DLYB, R487. -/
def SRB_TD_DLYB : Nat := 0x64
def SRB_TD_DLYB_D : Field := ⟨SRB_TD_DLYB, 0, 32⟩
/-- SRB_TD_RATE, R487. -/
def SRB_TD_RATE : Nat := 0x68
def SRB_TD_RATE_RATE : Field := ⟨SRB_TD_RATE, 0, 32⟩
/-- SRB_TD_SERR, R487. -/
def SRB_TD_SERR : Nat := 0x6C
def SRB_TD_SERR_SERR : Field := ⟨SRB_TD_SERR, 0, 32⟩
/-- SRB_TD_STAT, R487. -/
def SRB_TD_STAT : Nat := 0x70
def SRB_TD_STAT_STEPS : Field := ⟨SRB_TD_STAT, 16, 16⟩
def SRB_TD_STAT_AGE : Field := ⟨SRB_TD_STAT, 0, 16⟩
/-- SRB_TD_STEP, R487. -/
def SRB_TD_STEP : Nat := 0x74
def SRB_TD_STEP_PEND : Field := ⟨SRB_TD_STEP, 31, 1⟩
def SRB_TD_STEP_SEQ : Field := ⟨SRB_TD_STEP, 0, 16⟩
/-- SRB_TD_DLT_LO, R487. -/
def SRB_TD_DLT_LO : Nat := 0x78
def SRB_TD_DLT_LO_D : Field := ⟨SRB_TD_DLT_LO, 0, 32⟩
/-- SRB_TD_DLT_HI, R487. -/
def SRB_TD_DLT_HI : Nat := 0x7C
def SRB_TD_DLT_HI_D : Field := ⟨SRB_TD_DLT_HI, 0, 32⟩

/-! ### Registers of 11_rings_and_lanes.md -/

/-- RDn_RP_CFG, R525. -/
def RDn_RP_CFG (n i : Nat) : Nat := rdBase n + 0x30000 + 0x20 * i
def RDn_RP_CFG_EN (n i : Nat) : Field := ⟨(RDn_RP_CFG n i), 63, 1⟩
def RDn_RP_CFG_TEST (n i : Nat) : Field := ⟨(RDn_RP_CFG n i), 61, 2⟩
def RDn_RP_CFG_SWING (n i : Nat) : Field := ⟨(RDn_RP_CFG n i), 48, 3⟩
def RDn_RP_CFG_POST (n i : Nat) : Field := ⟨(RDn_RP_CFG n i), 44, 4⟩
def RDn_RP_CFG_PRE (n i : Nat) : Field := ⟨(RDn_RP_CFG n i), 40, 4⟩
/-- RDn_RP_STAT, R525. -/
def RDn_RP_STAT (n i : Nat) : Nat := rdBase n + 0x30008 + 0x20 * i
def RDn_RP_STAT_STATE (n i : Nat) : Field := ⟨(RDn_RP_STAT n i), 60, 4⟩
def RDn_RP_STAT_FIND (n i : Nat) : Field := ⟨(RDn_RP_STAT n i), 56, 4⟩
def RDn_RP_STAT_LOCK (n i : Nat) : Field := ⟨(RDn_RP_STAT n i), 55, 1⟩
def RDn_RP_STAT_REGEN (n i : Nat) : Field := ⟨(RDn_RP_STAT n i), 54, 1⟩
def RDn_RP_STAT_OTHER (n i : Nat) : Field := ⟨(RDn_RP_STAT n i), 40, 8⟩
def RDn_RP_STAT_PERR (n i : Nat) : Field := ⟨(RDn_RP_STAT n i), 0, 32⟩
/-- RDn_RP_ERR, R525. -/
def RDn_RP_ERR (n i : Nat) : Nat := rdBase n + 0x30010 + 0x20 * i
def RDn_RP_ERR_CRC (n i : Nat) : Field := ⟨(RDn_RP_ERR n i), 32, 32⟩
def RDn_RP_ERR_SYNC (n i : Nat) : Field := ⟨(RDn_RP_ERR n i), 16, 16⟩
def RDn_RP_ERR_LOL (n i : Nat) : Field := ⟨(RDn_RP_ERR n i), 8, 8⟩
def RDn_RP_ERR_BGAP (n i : Nat) : Field := ⟨(RDn_RP_ERR n i), 0, 8⟩
/-- RDn_RING_STAT, R525. -/
def RDn_RING_STAT (n r : Nat) : Nat := rdBase n + 0x10800 + 0x8 * r
def RDn_RING_STAT_STATE (n r : Nat) : Field := ⟨(RDn_RING_STAT n r), 60, 4⟩
def RDn_RING_STAT_RVER (n r : Nat) : Field := ⟨(RDn_RING_STAT n r), 52, 8⟩
def RDn_RING_STAT_SLPA (n r : Nat) : Field := ⟨(RDn_RING_STAT n r), 51, 1⟩
def RDn_RING_STAT_SLPB (n r : Nat) : Field := ⟨(RDn_RING_STAT n r), 50, 1⟩
def RDn_RING_STAT_HALF (n r : Nat) : Field := ⟨(RDn_RING_STAT n r), 49, 1⟩
def RDn_RING_STAT_NV1 (n r : Nat) : Field := ⟨(RDn_RING_STAT n r), 32, 7⟩
/-- RDn_RING_CTL, R525. -/
def RDn_RING_CTL (n r : Nat) : Nat := rdBase n + 0x10C00 + 0x8 * r
def RDn_RING_CTL_CHAIN (n r : Nat) : Field := ⟨(RDn_RING_CTL n r), 63, 1⟩
def RDn_RING_CTL_HALF (n r : Nat) : Field := ⟨(RDn_RING_CTL n r), 62, 1⟩
def RDn_RING_CTL_SLPA (n r : Nat) : Field := ⟨(RDn_RING_CTL n r), 61, 1⟩
def RDn_RING_CTL_SLPB (n r : Nat) : Field := ⟨(RDn_RING_CTL n r), 60, 1⟩
/-- RDn_BRK, R525. -/
def RDn_BRK (n r : Nat) : Nat := rdBase n + 0x11000 + 0x8 * r
def RDn_BRK_V (n r : Nat) : Field := ⟨(RDn_BRK n r), 63, 1⟩
def RDn_BRK_LASTA (n r : Nat) : Field := ⟨(RDn_BRK n r), 56, 7⟩
def RDn_BRK_FIRSTB (n r : Nat) : Field := ⟨(RDn_BRK n r), 48, 7⟩
def RDn_BRK_ISO (n r : Nat) : Field := ⟨(RDn_BRK n r), 47, 1⟩
def RDn_BRK_NISO (n r : Nat) : Field := ⟨(RDn_BRK n r), 40, 7⟩
/-- RDn_TXN_STAT, R525. -/
def RDn_TXN_STAT (n r : Nat) : Nat := rdBase n + 0x11400 + 0x8 * r
def RDn_TXN_STAT_RETRY (n r : Nat) : Field := ⟨(RDn_TXN_STAT n r), 32, 32⟩
def RDn_TXN_STAT_LATE (n r : Nat) : Field := ⟨(RDn_TXN_STAT n r), 0, 32⟩
/-- RDn_SP_ERR, R525. -/
def RDn_SP_ERR (n s : Nat) : Nat := rdBase n + 0x31000 + 0x20 * s
def RDn_SP_ERR_FCS (n s : Nat) : Field := ⟨(RDn_SP_ERR n s), 32, 32⟩
def RDn_SP_ERR_CODE (n s : Nat) : Field := ⟨(RDn_SP_ERR n s), 16, 16⟩
def RDn_SP_ERR_UP (n s : Nat) : Field := ⟨(RDn_SP_ERR n s), 0, 1⟩
/-- RDn_TP_ERR, R525. -/
def RDn_TP_ERR (n t : Nat) : Nat := rdBase n + 0x31100 + 0x20 * t
def RDn_TP_ERR_CRC (n t : Nat) : Field := ⟨(RDn_TP_ERR n t), 32, 32⟩
def RDn_TP_ERR_RSVD (n t : Nat) : Field := ⟨(RDn_TP_ERR n t), 16, 16⟩
def RDn_TP_ERR_UP (n t : Nat) : Field := ⟨(RDn_TP_ERR n t), 0, 1⟩
/-- SRB_RP_CFG, R526. -/
def SRB_RP_CFG (x : Nat) : Nat := 0x2000 + 0x4 * x
def SRB_RP_CFG_PRE (x : Nat) : Field := ⟨(SRB_RP_CFG x), 8, 4⟩
def SRB_RP_CFG_POST (x : Nat) : Field := ⟨(SRB_RP_CFG x), 4, 4⟩
def SRB_RP_CFG_SWING (x : Nat) : Field := ⟨(SRB_RP_CFG x), 0, 3⟩
/-- SRB_RP_STAT, R526. -/
def SRB_RP_STAT (x : Nat) : Nat := 0x2008 + 0x4 * x
def SRB_RP_STAT_STATE (x : Nat) : Field := ⟨(SRB_RP_STAT x), 28, 4⟩
def SRB_RP_STAT_FIND (x : Nat) : Field := ⟨(SRB_RP_STAT x), 24, 4⟩
def SRB_RP_STAT_LOCK (x : Nat) : Field := ⟨(SRB_RP_STAT x), 23, 1⟩
def SRB_RP_STAT_REGEN (x : Nat) : Field := ⟨(SRB_RP_STAT x), 22, 1⟩
def SRB_RP_STAT_LAUNCH (x : Nat) : Field := ⟨(SRB_RP_STAT x), 21, 1⟩
def SRB_RP_STAT_SLEEP (x : Nat) : Field := ⟨(SRB_RP_STAT x), 20, 1⟩
def SRB_RP_STAT_REV (x : Nat) : Field := ⟨(SRB_RP_STAT x), 19, 1⟩
/-- SRB_RP_CRC, R526. -/
def SRB_RP_CRC (x : Nat) : Nat := 0x2010 + 0x8 * x
def SRB_RP_CRC_N (x : Nat) : Field := ⟨(SRB_RP_CRC x), 0, 32⟩
/-- SRB_RP_SYNC, R526. -/
def SRB_RP_SYNC (x : Nat) : Nat := 0x2014 + 0x8 * x
def SRB_RP_SYNC_SYNC (x : Nat) : Field := ⟨(SRB_RP_SYNC x), 16, 16⟩
def SRB_RP_SYNC_LOL (x : Nat) : Field := ⟨(SRB_RP_SYNC x), 8, 8⟩
def SRB_RP_SYNC_BGAP (x : Nat) : Field := ⟨(SRB_RP_SYNC x), 0, 8⟩
/-- SRB_RP_NEG, R526. -/
def SRB_RP_NEG : Nat := 0x2020
def SRB_RP_NEG_RVER : Field := ⟨SRB_RP_NEG, 24, 8⟩
def SRB_RP_NEG_RSEQ : Field := ⟨SRB_RP_NEG, 16, 8⟩
def SRB_RP_NEG_HOPA : Field := ⟨SRB_RP_NEG, 0, 7⟩

/-! ### Registers of 12_sensor_hub.md -/

/-- SRB_HUB_CFG, R570. -/
def SRB_HUB_CFG (n : Nat) : Nat := 0x1000 + 0x4 * n
def SRB_HUB_CFG_EN (n : Nat) : Field := ⟨(SRB_HUB_CFG n), 31, 1⟩
def SRB_HUB_CFG_CO (n : Nat) : Field := ⟨(SRB_HUB_CFG n), 30, 1⟩
def SRB_HUB_CFG_CLASS (n : Nat) : Field := ⟨(SRB_HUB_CFG n), 29, 1⟩
def SRB_HUB_CFG_MODE (n : Nat) : Field := ⟨(SRB_HUB_CFG n), 24, 2⟩
def SRB_HUB_CFG_D (n : Nat) : Field := ⟨(SRB_HUB_CFG n), 0, 16⟩
/-- SRB_HUB_DB, R570. -/
def SRB_HUB_DB (n : Nat) : Nat := 0x1020 + 0x4 * n
def SRB_HUB_DB_DB (n : Nat) : Field := ⟨(SRB_HUB_DB n), 0, 32⟩
/-- SRB_HUB_KEEP, R570. -/
def SRB_HUB_KEEP : Nat := 0x1040
def SRB_HUB_KEEP_KEEP : Field := ⟨SRB_HUB_KEEP, 0, 16⟩
/-- SRB_HUB_STAT, R570. -/
def SRB_HUB_STAT : Nat := 0x1044
def SRB_HUB_STAT_GDROP : Field := ⟨SRB_HUB_STAT, 16, 16⟩
def SRB_HUB_STAT_PDROP : Field := ⟨SRB_HUB_STAT, 0, 16⟩
/-- SRB_HUB_Q, R570. -/
def SRB_HUB_Q : Nat := 0x1048
def SRB_HUB_Q_GQ : Field := ⟨SRB_HUB_Q, 8, 7⟩
def SRB_HUB_Q_PQ : Field := ⟨SRB_HUB_Q, 0, 7⟩
/-- SRB_REC_CTL, R570. -/
def SRB_REC_CTL : Nat := 0x1100
def SRB_REC_CTL_ARM : Field := ⟨SRB_REC_CTL, 31, 1⟩
def SRB_REC_CTL_RNUM : Field := ⟨SRB_REC_CTL, 0, 16⟩
/-- SRB_REC_FIRE, R570. -/
def SRB_REC_FIRE : Nat := 0x1104
def SRB_REC_FIRE_T : Field := ⟨SRB_REC_FIRE, 0, 32⟩
/-- SRB_REC_WIN, R570. -/
def SRB_REC_WIN : Nat := 0x1108
def SRB_REC_WIN_PRE : Field := ⟨SRB_REC_WIN, 16, 16⟩
def SRB_REC_WIN_POST : Field := ⟨SRB_REC_WIN, 0, 16⟩
/-- SRB_REC_TCFG, R570. -/
def SRB_REC_TCFG : Nat := 0x110C
def SRB_REC_TCFG_EN : Field := ⟨SRB_REC_TCFG, 31, 1⟩
def SRB_REC_TCFG_SLCV : Field := ⟨SRB_REC_TCFG, 30, 1⟩
def SRB_REC_TCFG_SLOPE : Field := ⟨SRB_REC_TCFG, 28, 2⟩
def SRB_REC_TCFG_INP : Field := ⟨SRB_REC_TCFG, 0, 3⟩
/-- SRB_REC_TLVL, R570. -/
def SRB_REC_TLVL : Nat := 0x1110
def SRB_REC_TLVL_L : Field := ⟨SRB_REC_TLVL, 0, 32⟩
/-- SRB_REC_STAT, R570. -/
def SRB_REC_STAT : Nat := 0x1114
def SRB_REC_STAT_STATE : Field := ⟨SRB_REC_STAT, 28, 4⟩
def SRB_REC_STAT_FL : Field := ⟨SRB_REC_STAT, 24, 4⟩
def SRB_REC_STAT_NENT : Field := ⟨SRB_REC_STAT, 0, 16⟩
/-- SRB_REC_TTRIG, R570. -/
def SRB_REC_TTRIG : Nat := 0x1118
def SRB_REC_TTRIG_T : Field := ⟨SRB_REC_TTRIG, 0, 32⟩
/-- SRB_REC_FETCH, R570. -/
def SRB_REC_FETCH : Nat := 0x111C
def SRB_REC_FETCH_GO : Field := ⟨SRB_REC_FETCH, 31, 1⟩
def SRB_REC_FETCH_FROM : Field := ⟨SRB_REC_FETCH, 0, 16⟩
/-- RDn_HUB_REQ, R571. -/
def RDn_HUB_REQ (n : Nat) : Nat := rdBase n + 0x50000
def RDn_HUB_REQ_GO (n : Nat) : Field := ⟨(RDn_HUB_REQ n), 63, 1⟩
def RDn_HUB_REQ_EN (n : Nat) : Field := ⟨(RDn_HUB_REQ n), 62, 1⟩
def RDn_HUB_REQ_AQ (n : Nat) : Field := ⟨(RDn_HUB_REQ n), 61, 1⟩
def RDn_HUB_REQ_CO (n : Nat) : Field := ⟨(RDn_HUB_REQ n), 60, 1⟩
def RDn_HUB_REQ_CLASS (n : Nat) : Field := ⟨(RDn_HUB_REQ n), 59, 1⟩
def RDn_HUB_REQ_MODE (n : Nat) : Field := ⟨(RDn_HUB_REQ n), 57, 2⟩
def RDn_HUB_REQ_D (n : Nat) : Field := ⟨(RDn_HUB_REQ n), 40, 16⟩
def RDn_HUB_REQ_FIFO (n : Nat) : Field := ⟨(RDn_HUB_REQ n), 32, 6⟩
def RDn_HUB_REQ_INP (n : Nat) : Field := ⟨(RDn_HUB_REQ n), 16, 8⟩
def RDn_HUB_REQ_ID (n : Nat) : Field := ⟨(RDn_HUB_REQ n), 0, 14⟩
/-- RDn_HUB_RES, R571. -/
def RDn_HUB_RES (n : Nat) : Nat := rdBase n + 0x50008
def RDn_HUB_RES_BUSY (n : Nat) : Field := ⟨(RDn_HUB_RES n), 63, 1⟩
def RDn_HUB_RES_REASON (n : Nat) : Field := ⟨(RDn_HUB_RES n), 56, 4⟩
def RDn_HUB_RES_G16 (n : Nat) : Field := ⟨(RDn_HUB_RES n), 48, 8⟩
def RDn_HUB_RES_REFCNT (n : Nat) : Field := ⟨(RDn_HUB_RES n), 32, 16⟩
/-- RDn_HUB_CTL, R571. -/
def RDn_HUB_CTL (n : Nat) : Nat := rdBase n + 0x50010
def RDn_HUB_CTL_NODEF (n : Nat) : Field := ⟨(RDn_HUB_CTL n), 0, 1⟩
/-- RDn_HUB_BRG, R571. -/
def RDn_HUB_BRG (n : Nat) : Nat := rdBase n + 0x50018
def RDn_HUB_BRG_LOST (n : Nat) : Field := ⟨(RDn_HUB_BRG n), 32, 32⟩
def RDn_HUB_BRG_XFER (n : Nat) : Field := ⟨(RDn_HUB_BRG n), 0, 32⟩
/-- RDn_HUB_STAT, R571. -/
def RDn_HUB_STAT (n r : Nat) : Nat := rdBase n + 0x50100 + 0x8 * r
def RDn_HUB_STAT_HUBCRC (n r : Nat) : Field := ⟨(RDn_HUB_STAT n r), 48, 16⟩
def RDn_HUB_STAT_GBA (n r : Nat) : Field := ⟨(RDn_HUB_STAT n r), 32, 16⟩
def RDn_HUB_STAT_GBB (n r : Nat) : Field := ⟨(RDn_HUB_STAT n r), 16, 16⟩
def RDn_HUB_STAT_G16SUM (n r : Nat) : Field := ⟨(RDn_HUB_STAT n r), 0, 16⟩
/-- RDn_HUB_RT, R571. -/
def RDn_HUB_RT (n i : Nat) : Nat := rdBase n + 0x60000 + 0x8 * i
def RDn_HUB_RT_EN (n i : Nat) : Field := ⟨(RDn_HUB_RT n i), 63, 1⟩
def RDn_HUB_RT_SUSP (n i : Nat) : Field := ⟨(RDn_HUB_RT n i), 62, 1⟩
def RDn_HUB_RT_FIFO (n i : Nat) : Field := ⟨(RDn_HUB_RT n i), 56, 6⟩
def RDn_HUB_RT_E (n i : Nat) : Field := ⟨(RDn_HUB_RT n i), 0, 32⟩
/-- FIF_CFG, R571. -/
def FIF_CFG (n f : Nat) : Nat := rdBase n + 0x40000 + 0x20 * f
def FIF_CFG_DRAIN (n f : Nat) : Field := ⟨(FIF_CFG n f), 40, 24⟩
def FIF_CFG_CUT (n f : Nat) : Field := ⟨(FIF_CFG n f), 16, 16⟩
def FIF_CFG_LEVEL (n f : Nat) : Field := ⟨(FIF_CFG n f), 0, 16⟩
/-- FIF_STAT, R571. -/
def FIF_STAT (n f : Nat) : Nat := rdBase n + 0x40008 + 0x20 * f
def FIF_STAT_DROP (n f : Nat) : Field := ⟨(FIF_STAT n f), 32, 32⟩
def FIF_STAT_DISC (n f : Nat) : Field := ⟨(FIF_STAT n f), 16, 16⟩
def FIF_STAT_RST (n f : Nat) : Field := ⟨(FIF_STAT n f), 8, 8⟩
def FIF_STAT_BADRD (n f : Nat) : Field := ⟨(FIF_STAT n f), 0, 8⟩
/-- FIF_CNT, R571. -/
def FIF_CNT (n f : Nat) : Nat := rdBase n + 0x40010 + 0x20 * f
def FIF_CNT_FREE (n f : Nat) : Field := ⟨(FIF_CNT n f), 16, 15⟩
def FIF_CNT_VIS (n f : Nat) : Field := ⟨(FIF_CNT n f), 0, 15⟩
/-- SH_REC_CFG, R572. -/
def SH_REC_CFG : Nat := 0x90000
def SH_REC_CFG_PRE_C : Field := ⟨SH_REC_CFG, 48, 16⟩
def SH_REC_CFG_POST_C : Field := ⟨SH_REC_CFG, 32, 16⟩
def SH_REC_CFG_PRE_Q : Field := ⟨SH_REC_CFG, 16, 16⟩
def SH_REC_CFG_POST_Q : Field := ⟨SH_REC_CFG, 0, 16⟩
/-- SH_REC_SRC, R572. -/
def SH_REC_SRC : Nat := 0x90008
def SH_REC_SRC_FIFO : Field := ⟨SH_REC_SRC, 8, 6⟩
def SH_REC_SRC_SAFE : Field := ⟨SH_REC_SRC, 4, 4⟩
def SH_REC_SRC_STILE : Field := ⟨SH_REC_SRC, 3, 1⟩
def SH_REC_SRC_AQT : Field := ⟨SH_REC_SRC, 2, 1⟩
def SH_REC_SRC_CELL : Field := ⟨SH_REC_SRC, 1, 1⟩
/-- SH_REC_CTL, R572. -/
def SH_REC_CTL : Nat := 0x90010
def SH_REC_CTL_CMD : Field := ⟨SH_REC_CTL, 0, 3⟩
/-- SH_REC_STAT, R572. -/
def SH_REC_STAT : Nat := 0x90018
def SH_REC_STAT_TTRIG : Field := ⟨SH_REC_STAT, 32, 32⟩
def SH_REC_STAT_RNUM : Field := ⟨SH_REC_STAT, 16, 16⟩
def SH_REC_STAT_LATETRG : Field := ⟨SH_REC_STAT, 8, 8⟩
def SH_REC_STAT_SRC : Field := ⟨SH_REC_STAT, 4, 4⟩
def SH_REC_STAT_STATE : Field := ⟨SH_REC_STAT, 0, 3⟩
/-- SH_LEGQ_STAT, R572. -/
def SH_LEGQ_STAT : Nat := 0x90100
def SH_LEGQ_STAT_DROP : Field := ⟨SH_LEGQ_STAT, 32, 32⟩
def SH_LEGQ_STAT_BADW : Field := ⟨SH_LEGQ_STAT, 16, 16⟩
def SH_LEGQ_STAT_COUNT : Field := ⟨SH_LEGQ_STAT, 0, 13⟩
/-- AQ_TRG, R572. -/
def AQ_TRG (i : Nat) : Nat := aqBase + 0x400 + 0x8 * i
def AQ_TRG_EN (i : Nat) : Field := ⟨(AQ_TRG i), 63, 1⟩
def AQ_TRG_SLOPE (i : Nat) : Field := ⟨(AQ_TRG i), 61, 2⟩
def AQ_TRG_INP (i : Nat) : Field := ⟨(AQ_TRG i), 32, 8⟩
def AQ_TRG_L (i : Nat) : Field := ⟨(AQ_TRG i), 0, 32⟩

/-! ### Registers of 13_modes_and_startup.md -/

/-- SH_MODE, R590. -/
def SH_MODE : Nat := 0xA0000
def SH_MODE_BUSY : Field := ⟨SH_MODE, 63, 1⟩
def SH_MODE_REFD : Field := ⟨SH_MODE, 62, 1⟩
def SH_MODE_WHY : Field := ⟨SH_MODE, 56, 4⟩
def SH_MODE_REFCNT : Field := ⟨SH_MODE, 48, 8⟩
def SH_MODE_RTC : Field := ⟨SH_MODE, 40, 3⟩
def SH_MODE_ORIG : Field := ⟨SH_MODE, 36, 4⟩
def SH_MODE_BLKC : Field := ⟨SH_MODE, 32, 4⟩
def SH_MODE_SEQ : Field := ⟨SH_MODE, 16, 16⟩
def SH_MODE_CUR : Field := ⟨SH_MODE, 4, 4⟩
def SH_MODE_REQ : Field := ⟨SH_MODE, 0, 4⟩
/-- SH_MODE_CFG, R590. -/
def SH_MODE_CFG : Nat := 0xA0008
def SH_MODE_CFG_RTISO : Field := ⟨SH_MODE_CFG, 16, 8⟩
def SH_MODE_CFG_RTGRID : Field := ⟨SH_MODE_CFG, 8, 8⟩
def SH_MODE_CFG_GRID : Field := ⟨SH_MODE_CFG, 0, 1⟩
/-- SH_BOOT_CFG, R591. -/
def SH_BOOT_CFG : Nat := 0xA0100
def SH_BOOT_CFG_RETRY : Field := ⟨SH_BOOT_CFG, 1, 1⟩
def SH_BOOT_CFG_PREF : Field := ⟨SH_BOOT_CFG, 0, 1⟩
/-- SH_BOOT_STAT, R591. -/
def SH_BOOT_STAT : Nat := 0xA0108
def SH_BOOT_STAT_DONE : Field := ⟨SH_BOOT_STAT, 63, 1⟩
def SH_BOOT_STAT_SVC : Field := ⟨SH_BOOT_STAT, 60, 3⟩
def SH_BOOT_STAT_STEP : Field := ⟨SH_BOOT_STAT, 56, 4⟩
def SH_BOOT_STAT_FAIL : Field := ⟨SH_BOOT_STAT, 46, 10⟩
def SH_BOOT_STAT_ALT : Field := ⟨SH_BOOT_STAT, 36, 10⟩
def SH_BOOT_STAT_SLOT : Field := ⟨SH_BOOT_STAT, 34, 2⟩
def SH_BOOT_STAT_DOWN : Field := ⟨SH_BOOT_STAT, 24, 7⟩
def SH_BOOT_STAT_NUM : Field := ⟨SH_BOOT_STAT, 0, 24⟩
/-- SH_BOOT_JIDX, R591. -/
def SH_BOOT_JIDX : Nat := 0xA0110
def SH_BOOT_JIDX_NUM : Field := ⟨SH_BOOT_JIDX, 0, 24⟩
/-- SH_BOOT_JDAT, R591. -/
def SH_BOOT_JDAT (w : Nat) : Nat := 0xA0140 + 0x8 * w
def SH_BOOT_JDAT_D (w : Nat) : Field := ⟨(SH_BOOT_JDAT w), 0, 64⟩
/-- CDx_MODE, R592. -/
def CDx_MODE (d p : Nat) : Nat := cdBase d + 0x50380 + 0x8 * p
def CDx_MODE_SEQ (d p : Nat) : Field := ⟨(CDx_MODE d p), 16, 16⟩
def CDx_MODE_RTC (d p : Nat) : Field := ⟨(CDx_MODE d p), 8, 3⟩
def CDx_MODE_ROLE (d p : Nat) : Field := ⟨(CDx_MODE d p), 4, 2⟩
def CDx_MODE_MODE (d p : Nat) : Field := ⟨(CDx_MODE d p), 0, 4⟩

/-! ### Registers of 14_faults_and_safety.md -/

/-- SH_SAFE_STAT, R634. -/
def SH_SAFE_STAT : Nat := 0xB0000
def SH_SAFE_STAT_ACT : Field := ⟨SH_SAFE_STAT, 60, 4⟩
def SH_SAFE_STAT_CONV : Field := ⟨SH_SAFE_STAT, 58, 2⟩
def SH_SAFE_STAT_SSTATE : Field := ⟨SH_SAFE_STAT, 57, 1⟩
def SH_SAFE_STAT_FAULTN : Field := ⟨SH_SAFE_STAT, 56, 1⟩
def SH_SAFE_STAT_PINS : Field := ⟨SH_SAFE_STAT, 54, 2⟩
def SH_SAFE_STAT_CONFD : Field := ⟨SH_SAFE_STAT, 53, 1⟩
def SH_SAFE_STAT_STEP10 : Field := ⟨SH_SAFE_STAT, 52, 1⟩
def SH_SAFE_STAT_CREF : Field := ⟨SH_SAFE_STAT, 51, 1⟩
def SH_SAFE_STAT_SHORT : Field := ⟨SH_SAFE_STAT, 50, 1⟩
def SH_SAFE_STAT_DIAG : Field := ⟨SH_SAFE_STAT, 32, 13⟩
def SH_SAFE_STAT_DEMCNT : Field := ⟨SH_SAFE_STAT, 0, 32⟩
/-- SH_SAFE_CTL, R634. -/
def SH_SAFE_CTL : Nat := 0xB0008
def SH_SAFE_CTL_COMMIT : Field := ⟨SH_SAFE_CTL, 2, 1⟩
def SH_SAFE_CTL_RST : Field := ⟨SH_SAFE_CTL, 1, 1⟩
/-- SH_SAFE_CHK, R634. -/
def SH_SAFE_CHK : Nat := 0xB0010
def SH_SAFE_CHK_STAGED : Field := ⟨SH_SAFE_CHK, 32, 32⟩
def SH_SAFE_CHK_STORED : Field := ⟨SH_SAFE_CHK, 0, 32⟩
/-- SH_SAFE_CONFIRM, R634. -/
def SH_SAFE_CONFIRM : Nat := 0xB0018
def SH_SAFE_CONFIRM_V : Field := ⟨SH_SAFE_CONFIRM, 0, 32⟩
/-- SH_SAFE_SRC, R634. -/
def SH_SAFE_SRC (i : Nat) : Nat := 0xB0100 + 0x8 * i
def SH_SAFE_SRC_MISS (i : Nat) : Field := ⟨(SH_SAFE_SRC i), 63, 1⟩
def SH_SAFE_SRC_OVR (i : Nat) : Field := ⟨(SH_SAFE_SRC i), 62, 1⟩
def SH_SAFE_SRC_X (i : Nat) : Field := ⟨(SH_SAFE_SRC i), 0, 32⟩
/-- SH_SAFE_LEG, R634. -/
def SH_SAFE_LEG (l : Nat) : Nat := 0xB0200 + 0x8 * l
def SH_SAFE_LEG_NSUB (l : Nat) : Field := ⟨(SH_SAFE_LEG l), 32, 32⟩
def SH_SAFE_LEG_V (l : Nat) : Field := ⟨(SH_SAFE_LEG l), 0, 32⟩
/-- SH_SAFE_DATA, R634. -/
def SH_SAFE_DATA (w : Nat) : Nat := 0xB1000 + 0x8 * w
def SH_SAFE_DATA_D (w : Nat) : Field := ⟨(SH_SAFE_DATA w), 0, 64⟩
/-- SH_FLT_CFG, R635. -/
def SH_FLT_CFG : Nat := 0xC0000
def SH_FLT_CFG_N : Field := ⟨SH_FLT_CFG, 32, 8⟩
def SH_FLT_CFG_W : Field := ⟨SH_FLT_CFG, 0, 32⟩
/-- SH_FLT_STAT, R635. -/
def SH_FLT_STAT : Nat := 0xC0008
def SH_FLT_STAT_CORR : Field := ⟨SH_FLT_STAT, 32, 32⟩
def SH_FLT_STAT_CONT : Field := ⟨SH_FLT_STAT, 16, 16⟩
def SH_FLT_STAT_FATAL : Field := ⟨SH_FLT_STAT, 8, 8⟩
def SH_FLT_STAT_LAST : Field := ⟨SH_FLT_STAT, 0, 8⟩
/-- SH_FLT_DIE, R635. -/
def SH_FLT_DIE (d : Nat) : Nat := 0xC0040 + 0x8 * d
def SH_FLT_DIE_LEFT (d : Nat) : Field := ⟨(SH_FLT_DIE d), 63, 1⟩
def SH_FLT_DIE_REVIVE (d : Nat) : Field := ⟨(SH_FLT_DIE d), 62, 1⟩
def SH_FLT_DIE_PCYC (d : Nat) : Field := ⟨(SH_FLT_DIE d), 61, 1⟩
def SH_FLT_DIE_CAUSE (d : Nat) : Field := ⟨(SH_FLT_DIE d), 56, 5⟩
def SH_FLT_DIE_FCNT (d : Nat) : Field := ⟨(SH_FLT_DIE d), 48, 8⟩

/-! ### Registers of 15_host_port_and_map.md -/

/-- GLB_ID, R644. -/
def GLB_ID : Nat := 0x0
def GLB_ID_VENDOR : Field := ⟨GLB_ID, 48, 16⟩
def GLB_ID_PART : Field := ⟨GLB_ID, 32, 16⟩
def GLB_ID_ISA : Field := ⟨GLB_ID, 24, 8⟩
def GLB_ID_RPMAX : Field := ⟨GLB_ID, 16, 8⟩
def GLB_ID_RPMIN : Field := ⟨GLB_ID, 8, 8⟩
def GLB_ID_SVER : Field := ⟨GLB_ID, 0, 8⟩
/-- GLB_SER, R644. -/
def GLB_SER : Nat := 0x8
def GLB_SER_SER : Field := ⟨GLB_SER, 0, 48⟩
/-- GLB_STRAP, R644. -/
def GLB_STRAP : Nat := 0x10
def GLB_STRAP_DEBUG_EN : Field := ⟨GLB_STRAP, 3, 1⟩
def GLB_STRAP_REF : Field := ⟨GLB_STRAP, 2, 1⟩
def GLB_STRAP_RLINE : Field := ⟨GLB_STRAP, 0, 2⟩
/-- GLB_HOST, R644. -/
def GLB_HOST : Nat := 0x18
def GLB_HOST_BADACC : Field := ⟨GLB_HOST, 48, 16⟩
def GLB_HOST_SLOTREF : Field := ⟨GLB_HOST, 32, 16⟩
def GLB_HOST_WIDTH : Field := ⟨GLB_HOST, 16, 4⟩
def GLB_HOST_SPEED : Field := ⟨GLB_HOST, 12, 4⟩
/-- GLB_IRQ_STAT, R644. -/
def GLB_IRQ_STAT : Nat := 0x20
def GLB_IRQ_STAT_CAUSE : Field := ⟨GLB_IRQ_STAT, 32, 16⟩
/-- GLB_FIFO_IRQ, R644. -/
def GLB_FIFO_IRQ : Nat := 0x28
def GLB_FIFO_IRQ_F : Field := ⟨GLB_FIFO_IRQ, 0, 64⟩
/-- GLB_DBG, R644. -/
def GLB_DBG : Nat := 0x30
def GLB_DBG_OPEN : Field := ⟨GLB_DBG, 63, 1⟩
def GLB_DBG_OPENREQ : Field := ⟨GLB_DBG, 62, 1⟩
def GLB_DBG_CLOSE : Field := ⟨GLB_DBG, 61, 1⟩
def GLB_DBG_STRAP : Field := ⟨GLB_DBG, 60, 1⟩
/-- GLB_DBG_CORES, R644. -/
def GLB_DBG_CORES : Nat := 0x38
def GLB_DBG_CORES_EN : Field := ⟨GLB_DBG_CORES, 0, 64⟩
/-- GLB_DIE, R644. -/
def GLB_DIE (d : Nat) : Nat := 0x40 + 0x8 * d
def GLB_DIE_PRES (d : Nat) : Field := ⟨(GLB_DIE d), 63, 1⟩
def GLB_DIE_PWR (d : Nat) : Field := ⟨(GLB_DIE d), 62, 1⟩
def GLB_DIE_PG (d : Nat) : Field := ⟨(GLB_DIE d), 61, 1⟩
def GLB_DIE_FATAL (d : Nat) : Field := ⟨(GLB_DIE d), 60, 1⟩
def GLB_DIE_STATE (d : Nat) : Field := ⟨(GLB_DIE d), 56, 4⟩
def GLB_DIE_STEP (d : Nat) : Field := ⟨(GLB_DIE d), 48, 8⟩
/-- SH_REFWR, R646. -/
def SH_REFWR : Nat := 0xD0000
def SH_REFWR_COUNT : Field := ⟨SH_REFWR, 32, 32⟩
def SH_REFWR_ADDR : Field := ⟨SH_REFWR, 0, 28⟩
/-- GLB_TXS_REQ, R647. -/
def GLB_TXS_REQ (s : Nat) : Nat := 0x1000000 + 0x20 * s
def GLB_TXS_REQ_GO (s : Nat) : Field := ⟨(GLB_TXS_REQ s), 63, 1⟩
def GLB_TXS_REQ_W (s : Nat) : Field := ⟨(GLB_TXS_REQ s), 46, 1⟩
def GLB_TXS_REQ_ID (s : Nat) : Field := ⟨(GLB_TXS_REQ s), 32, 14⟩
def GLB_TXS_REQ_OFS (s : Nat) : Field := ⟨(GLB_TXS_REQ s), 0, 16⟩
/-- GLB_TXS_DATA, R647. -/
def GLB_TXS_DATA (s : Nat) : Nat := 0x1000008 + 0x20 * s
def GLB_TXS_DATA_D (s : Nat) : Field := ⟨(GLB_TXS_DATA s), 0, 32⟩
/-- GLB_TXS_RES, R647. -/
def GLB_TXS_RES (s : Nat) : Nat := 0x1000010 + 0x20 * s
def GLB_TXS_RES_BUSY (s : Nat) : Field := ⟨(GLB_TXS_RES s), 63, 1⟩
def GLB_TXS_RES_DONE (s : Nat) : Field := ⟨(GLB_TXS_RES s), 62, 1⟩
def GLB_TXS_RES_ST (s : Nat) : Field := ⟨(GLB_TXS_RES s), 59, 3⟩
def GLB_TXS_RES_WHY (s : Nat) : Field := ⟨(GLB_TXS_RES s), 56, 3⟩
def GLB_TXS_RES_D (s : Nat) : Field := ⟨(GLB_TXS_RES s), 0, 32⟩
/-- RDn_SP_TX, R655. -/
def RDn_SP_TX (n s : Nat) : Nat := rdBase n + 0x31008 + 0x20 * s
def RDn_SP_TX_W (n s : Nat) : Field := ⟨(RDn_SP_TX n s), 0, 64⟩
/-- RDn_SP_TXTS, R655. -/
def RDn_SP_TXTS (n s : Nat) : Nat := rdBase n + 0x31010 + 0x20 * s
def RDn_SP_TXTS_V (n s : Nat) : Field := ⟨(RDn_SP_TXTS n s), 63, 1⟩
def RDn_SP_TXTS_LOST (n s : Nat) : Field := ⟨(RDn_SP_TXTS n s), 62, 1⟩
def RDn_SP_TXTS_TAG (n s : Nat) : Field := ⟨(RDn_SP_TXTS n s), 48, 8⟩
def RDn_SP_TXTS_TS (n s : Nat) : Field := ⟨(RDn_SP_TXTS n s), 0, 40⟩
/-- RDn_SP_TXST, R655. -/
def RDn_SP_TXST (n s : Nat) : Nat := rdBase n + 0x31018 + 0x20 * s
def RDn_SP_TXST_DROP (n s : Nat) : Field := ⟨(RDn_SP_TXST n s), 32, 32⟩
def RDn_SP_TXST_FREE (n s : Nat) : Field := ⟨(RDn_SP_TXST n s), 0, 10⟩
/-- SH_IMG_CTL, R657. -/
def SH_IMG_CTL : Nat := 0xE0000
def SH_IMG_CTL_BUSY : Field := ⟨SH_IMG_CTL, 63, 1⟩
def SH_IMG_CTL_WHY : Field := ⟨SH_IMG_CTL, 60, 3⟩
def SH_IMG_CTL_SLOT : Field := ⟨SH_IMG_CTL, 59, 1⟩
def SH_IMG_CTL_LOAD : Field := ⟨SH_IMG_CTL, 55, 4⟩
def SH_IMG_CTL_FINISH : Field := ⟨SH_IMG_CTL, 54, 1⟩
def SH_IMG_CTL_ERASE : Field := ⟨SH_IMG_CTL, 53, 1⟩
def SH_IMG_CTL_LEN : Field := ⟨SH_IMG_CTL, 0, 26⟩
/-- SH_IMG_DATA, R657. -/
def SH_IMG_DATA : Nat := 0xE0008
def SH_IMG_DATA_D : Field := ⟨SH_IMG_DATA, 0, 64⟩
/-- CDx_DBG_SEL, R661. -/
def CDx_DBG_SEL (d : Nat) : Nat := cdBase d + 0x70020
def CDx_DBG_SEL_MEM (d : Nat) : Field := ⟨(CDx_DBG_SEL d), 63, 1⟩
def CDx_DBG_SEL_CORE (d : Nat) : Field := ⟨(CDx_DBG_SEL d), 32, 4⟩
def CDx_DBG_SEL_A (d : Nat) : Field := ⟨(CDx_DBG_SEL d), 0, 32⟩
/-- CDx_DBG_DAT, R661. -/
def CDx_DBG_DAT (d : Nat) : Nat := cdBase d + 0x70028
def CDx_DBG_DAT_D (d : Nat) : Field := ⟨(CDx_DBG_DAT d), 0, 64⟩
/-- SH_LOG_STAT, R663. -/
def SH_LOG_STAT : Nat := 0xD0100
def SH_LOG_STAT_NEXT : Field := ⟨SH_LOG_STAT, 32, 32⟩
def SH_LOG_STAT_LOST : Field := ⟨SH_LOG_STAT, 0, 32⟩
/-- SH_LOG_ACK, R663. -/
def SH_LOG_ACK : Nat := 0xD0108
def SH_LOG_ACK_ACK : Field := ⟨SH_LOG_ACK, 0, 32⟩
/-- SH_LOG_IDX, R663. -/
def SH_LOG_IDX : Nat := 0xD0110
def SH_LOG_IDX_NUM : Field := ⟨SH_LOG_IDX, 0, 32⟩
/-- SH_LOG_DAT, R663. -/
def SH_LOG_DAT (w : Nat) : Nat := 0xD0140 + 0x8 * w
def SH_LOG_DAT_D (w : Nat) : Field := ⟨(SH_LOG_DAT w), 0, 64⟩

/-! ### The MSI-X table and PBA (R636, R642). PRESUMED: the layout and reset of PCI Express Base 2.1, which R653 names (log 12). -/

def GLB_MSIX_ADDR (v : Nat) : Nat := 0x8000 + 0x10 * v
def GLB_MSIX_CTL (v : Nat) : Nat := 0x8008 + 0x10 * v
def GLB_MSIX_CTL_DATA (v : Nat) : Field := ⟨GLB_MSIX_CTL v, 0, 32⟩
def GLB_MSIX_CTL_MASK (v : Nat) : Field := ⟨GLB_MSIX_CTL v, 32, 1⟩
def GLB_MSIX_PBA : Nat := 0x9000

def glbRows0 : List RegRow := [
  { base := 0x100200, stride := 8, count := 1, reset := 0x6E021C017C03E8, rw := 0xFF3FFF3FFF3FFF },
  { base := 0x100208, stride := 8, count := 1, reset := 0x0 },
  { base := 0x100210, stride := 8, count := 1, reset := 0x0, rc := 0xFFFFFFFF00000000 },
  { base := 0x20000, stride := 8, count := 12, reset := 0x300000000000000, rw := 0xEF000000FFFFFFFF },
  { base := 0x30000, stride := 8, count := 8448, reset := 0x100F, rw := 0x1F },
  { base := 0x60000, stride := 8, count := 1, reset := 0x0, w1s := 0x8000000000000000, rw := 0x1FFF01FFFFFFFF },
  { base := 0x60100, stride := 8, count := 1, reset := 0x0, rw := 0xFFFFFFFFFFFFFFFF },
  { base := 0x60108, stride := 8, count := 1, reset := 0x2D040027100000, rw := 0xFFFFFF00FFFF0000, w1s := 0x3 },
  { base := 0x70000, stride := 8, count := 1, reset := 0x4003C00003, rw := 0xFFFF03F00003 },
  { base := 0x70008, stride := 8, count := 1, reset := 0x0, rc := 0xFFFFFFFFFFFF0000 },
  { base := 0x70018, stride := 8, count := 1, reset := 0x0 },
  { base := 0x70010, stride := 8, count := 1, reset := 0x0, w1s := 0xF },
  { base := 0x70040, stride := 8, count := 4, reset := 0xFC0, rc := 0xFFFFFFFF00000000 },
  { base := 0x70100, stride := 8, count := 1, reset := 0x2, rw := 0xF },
  { base := 0x70108, stride := 8, count := 1, reset := 0x0, w1s := 0x1 },
  { base := 0x70110, stride := 8, count := 1, reset := 0xF00000, rc := 0xFFFF000000000000 },
  { base := 0x100000, stride := 8, count := 1, reset := 0x0 },
  { base := 0x100008, stride := 8, count := 1, reset := 0x0 },
  { base := 0x100010, stride := 8, count := 1, reset := 0x0 },
  { base := 0x100018, stride := 8, count := 1, reset := 0x0 },
  { base := 0x100020, stride := 8, count := 1, reset := 0x10000100064040A, rw := 0xFFFFFFFFFFFFFFFF },
  { base := 0x100028, stride := 8, count := 1, reset := 0x0, rc := 0xFFFF000000000000 },
  { base := 0x100030, stride := 8, count := 1, reset := 0x0 },
  { base := 0x100038, stride := 8, count := 1, reset := 0x0, w1s := 0x3 } ]

def glbRows1 : List RegRow := [
  { base := 0x100040, stride := 8, count := 1, reset := 0x0, rw := 0xFFFFFFFFFFFFFFFF },
  { base := 0x100048, stride := 8, count := 1, reset := 0x0, rw := 0xFFFFFFFFFFFFFFFF },
  { base := 0x100050, stride := 8, count := 1, reset := 0x0 },
  { base := 0x100058, stride := 8, count := 1, reset := 0x0 },
  { base := 0x100100, stride := 8, count := 1, reset := 0xC000FF0000000000, rw := 0xE0FFFF0000000000 },
  { base := 0x100108, stride := 8, count := 1, reset := 0x0 },
  { base := 0x100110, stride := 8, count := 1, reset := 0x0 },
  { base := 0x100180, stride := 8, count := 8, reset := 0x0, rw := 0xFFFFFFFFFFFFFFFF },
  { base := 0x80000, stride := 8, count := 1, reset := 0xF0F, rw := 0xFFFF },
  { base := 0x80010, stride := 8, count := 2, reset := 0x0, rc := 0xFFFFFFFF00000000 },
  { base := 0x80020, stride := 8, count := 2, reset := 0xFFFF, rw := 0xFFFF },
  { base := 0x80030, stride := 8, count := 2, reset := 0x8000000000000000 },
  { base := 0x81000, stride := 64, count := 64, reset := 0x0 },
  { base := 0x81008, stride := 64, count := 64, reset := 0x0 },
  { base := 0x81010, stride := 64, count := 64, reset := 0x0 },
  { base := 0x81018, stride := 64, count := 64, reset := 0x0 },
  { base := 0x81020, stride := 64, count := 64, reset := 0x0 },
  { base := 0x81028, stride := 64, count := 64, reset := 0x0 },
  { base := 0x90000, stride := 8, count := 1, reset := 0x1F403E801F403E8, rw := 0xFFFFFFFFFFFFFFFF },
  { base := 0x90008, stride := 8, count := 1, reset := 0x3FFE, rw := 0x3FFE },
  { base := 0x90010, stride := 8, count := 1, reset := 0x0, w1s := 0x7 },
  { base := 0x90018, stride := 8, count := 1, reset := 0x0, rc := 0xFF00 },
  { base := 0x90100, stride := 8, count := 1, reset := 0x0, rc := 0xFFFFFFFFFFFF0000 },
  { base := 0xA0000, stride := 8, count := 1, reset := 0x70, rc := 0xFF000000000000, wo := 0xF } ]

def glbRows2 : List RegRow := [
  { base := 0xA0008, stride := 8, count := 1, reset := 0x3C3C00, rw := 0xFFFF01 },
  { base := 0xA0100, stride := 8, count := 1, reset := 0x0, w1s := 0x2, rw := 0x1 },
  { base := 0xA0108, stride := 8, count := 1, reset := 0x800000000 },
  { base := 0xA0110, stride := 8, count := 1, reset := 0x0, rw := 0xFFFFFF },
  { base := 0xA0140, stride := 8, count := 8, reset := 0x0 },
  { base := 0xB0000, stride := 8, count := 1, reset := 0xC0000000000000, w1c := 0x1FFF00000000, rc := 0xFFFFFFFF },
  { base := 0xB0008, stride := 8, count := 1, reset := 0x0, w1s := 0x6 },
  { base := 0xB0010, stride := 8, count := 1, reset := 0x0 },
  { base := 0xB0018, stride := 8, count := 1, reset := 0x0, cf := 0xFFFFFFFF },
  { base := 0xB0100, stride := 8, count := 8, reset := 0x8000000000000000 },
  { base := 0xB0200, stride := 8, count := 6, reset := 0x0 },
  { base := 0xB1000, stride := 8, count := 64, reset := 0x0, rw := 0xFFFFFFFFFFFFFFFF },
  { base := 0xC0000, stride := 8, count := 1, reset := 0x3000003E8, rw := 0xFFFFFFFFFF },
  { base := 0xC0008, stride := 8, count := 1, reset := 0x0, rc := 0xFFFFFFFFFFFFFFFF },
  { base := 0xC0040, stride := 8, count := 7, reset := 0x0, w1s := 0x4000000000000000, rc := 0xFF000000000000 },
  { base := 0x0, stride := 8, count := 1, reset := 0x2201201 },
  { base := 0x8, stride := 8, count := 1, reset := 0x0 },
  { base := 0x10, stride := 8, count := 1, reset := 0x0 },
  { base := 0x18, stride := 8, count := 1, reset := 0x0, rc := 0xFFFFFFFF00000000 },
  { base := 0x20, stride := 8, count := 1, reset := 0x0, w1c := 0xFFFF00000000 },
  { base := 0x28, stride := 8, count := 1, reset := 0x0, w1c := 0xFFFFFFFFFFFFFFFF },
  { base := 0x30, stride := 8, count := 1, reset := 0x0, w1s := 0x6000000000000000 },
  { base := 0x38, stride := 8, count := 1, reset := 0x0, rw := 0xFFFFFFFFFFFFFFFF },
  { base := 0x40, stride := 8, count := 8, reset := 0x0 } ]

def glbRows3 : List RegRow := [
  { base := 0xD0000, stride := 8, count := 1, reset := 0x0, rc := 0xFFFFFFFF00000000 },
  { base := 0x1000000, stride := 32, count := 64, reset := 0x0, w1s := 0x8000000000000000, rw := 0x7FFF0000FFFF },
  { base := 0x1000008, stride := 32, count := 64, reset := 0x0, rw := 0xFFFFFFFF },
  { base := 0x1000010, stride := 32, count := 64, reset := 0x0 },
  { base := 0xE0000, stride := 8, count := 1, reset := 0x0, rw := 0x800000000000000, w1s := 0x7E0000000000000 },
  { base := 0xE0008, stride := 8, count := 1, reset := 0x0, wo := 0xFFFFFFFFFFFFFFFF },
  { base := 0xD0100, stride := 8, count := 1, reset := 0x0, rc := 0xFFFFFFFF },
  { base := 0xD0108, stride := 8, count := 1, reset := 0xFFFFFFFF, rw := 0xFFFFFFFF },
  { base := 0xD0110, stride := 8, count := 1, reset := 0x0, rw := 0xFFFFFFFF },
  { base := 0xD0140, stride := 8, count := 4, reset := 0x0 },
  { base := 0x8000, stride := 16, count := 64, reset := 0x0, rw := 0xFFFFFFFFFFFFFFFC },
  { base := 0x8008, stride := 16, count := 64, reset := 0x100000000, rw := 0x1FFFFFFFF },
  { base := 0x9000, stride := 8, count := 1, reset := 0x0 } ]

/-- The GLB, SH and TIM registers and the transaction slots, by BAR0 address. -/
def glbRows : List RegRow := glbRows0 ++ glbRows1 ++ glbRows2 ++ glbRows3

def rdRows0 : List RegRow := [
  { base := 0x10000, stride := 8, count := 66, reset := 0x0 },
  { base := 0x10400, stride := 8, count := 66, reset := 0x0, rc := 0xFFFFFFFFFFFFFFFF },
  { base := 0x20000, stride := 8, count := 64, reset := 0x0, rc := 0xFFFFFFFF },
  { base := 0x30000, stride := 32, count := 66, reset := 0x8004540000000000, rw := 0xE007FF0000000000 },
  { base := 0x30008, stride := 32, count := 66, reset := 0x0, rc := 0xFFFFFFFF },
  { base := 0x30010, stride := 32, count := 66, reset := 0x0, rc := 0xFFFFFFFFFFFFFFFF },
  { base := 0x10800, stride := 8, count := 66, reset := 0x0 },
  { base := 0x10C00, stride := 8, count := 66, reset := 0x0, rw := 0xF000000000000000 },
  { base := 0x11000, stride := 8, count := 66, reset := 0x7F7F000000000000 },
  { base := 0x11400, stride := 8, count := 66, reset := 0x0, rc := 0xFFFFFFFFFFFFFFFF },
  { base := 0x31000, stride := 32, count := 4, reset := 0x0, rc := 0xFFFFFFFFFFFF0000 },
  { base := 0x31100, stride := 32, count := 2, reset := 0x0, rc := 0xFFFFFFFFFFFF0000 },
  { base := 0x50000, stride := 8, count := 1, reset := 0x10000000000, w1s := 0x8000000000000000, rw := 0x7EFFFF3F00FF3FFF },
  { base := 0x50008, stride := 8, count := 1, reset := 0x0, rc := 0xFFFF00000000 },
  { base := 0x50010, stride := 8, count := 1, reset := 0x0, rw := 0x1 },
  { base := 0x50018, stride := 8, count := 1, reset := 0x0, rc := 0xFFFFFFFFFFFFFFFF },
  { base := 0x50100, stride := 8, count := 66, reset := 0x0, rc := 0xFFFF000000000000 },
  { base := 0x60000, stride := 8, count := 67776, reset := 0x0 },
  { base := 0x40000, stride := 32, count := 64, reset := 0xFFFFFF0000000000, rw := 0xFFFFFF00FFFFFFFF },
  { base := 0x40008, stride := 32, count := 64, reset := 0x0, rc := 0xFFFFFFFFFFFFFFFF },
  { base := 0x40010, stride := 32, count := 64, reset := 0x40000000 },
  { base := 0x31008, stride := 32, count := 4, reset := 0x0, wo := 0xFFFFFFFFFFFFFFFF },
  { base := 0x31010, stride := 32, count := 4, reset := 0x0, rp := 0xC0FF00FFFFFFFFFF },
  { base := 0x31018, stride := 32, count := 4, reset := 0x200, rc := 0xFFFFFFFF00000000 } ]

/-- The registers of a ring die, by window offset. -/
def rdRows : List RegRow := rdRows0

def cdRows0 : List RegRow := [
  { base := 0x40100, stride := 8, count := 12, reset := 0x0, rc := 0xFFFFFFFFFFFFF000, w1c := 0x800 },
  { base := 0x50100, stride := 8, count := 32, reset := 0x0, rw := 0xFFFFFFFFFFFFFFFF },
  { base := 0x50200, stride := 8, count := 32, reset := 0x0, rw := 0xF000000000000000 },
  { base := 0x50300, stride := 8, count := 1, reset := 0x0 },
  { base := 0x50308, stride := 8, count := 1, reset := 0x0 },
  { base := 0x50310, stride := 8, count := 1, reset := 0x0 },
  { base := 0x50318, stride := 8, count := 1, reset := 0x0 },
  { base := 0x50320, stride := 8, count := 1, reset := 0x0 },
  { base := 0x50000, stride := 8, count := 1, reset := 0x0, rc := 0xFFFFFFFFFFFF0000 },
  { base := 0x50008, stride := 8, count := 1, reset := 0x0, w1c := 0x3 },
  { base := 0x40200, stride := 8, count := 1, reset := 0x0, rc := 0xFFFFFFFF00000000 },
  { base := 0x70000, stride := 8, count := 1, reset := 0xA, rw := 0x3FFF },
  { base := 0x70008, stride := 8, count := 1, reset := 0x0, rc := 0xFFFFFFFFFFFFFFFF },
  { base := 0x70010, stride := 8, count := 1, reset := 0x0, wo := 0xFFFFFFFFFFFFFFFF },
  { base := 0x70018, stride := 8, count := 1, reset := 0x10001000 },
  { base := 0x70040, stride := 8, count := 16, reset := 0x4000000000000000, rc := 0xFFFFFFFF },
  { base := 0x70100, stride := 8, count := 1, reset := 0x7FF0000000000FF },
  { base := 0x70108, stride := 8, count := 1, reset := 0x7FF00000000FF00, rw := 0xFF00 },
  { base := 0x70110, stride := 8, count := 14, reset := 0x7FF00000000FF00, rw := 0x7FF07FF0000FF00 },
  { base := 0x71000, stride := 8, count := 256, reset := 0x0, rc := 0x7FFF },
  { base := 0x71800, stride := 8, count := 64, reset := 0x0 },
  { base := 0x80000, stride := 64, count := 512, reset := 0x0 },
  { base := 0x80008, stride := 64, count := 512, reset := 0x0 },
  { base := 0x80010, stride := 64, count := 512, reset := 0x0 } ]

def cdRows1 : List RegRow := [
  { base := 0x80018, stride := 64, count := 512, reset := 0x0 },
  { base := 0x80020, stride := 64, count := 512, reset := 0x0 },
  { base := 0x80028, stride := 64, count := 512, reset := 0x0 },
  { base := 0x80030, stride := 64, count := 512, reset := 0x0 },
  { base := 0x80038, stride := 64, count := 512, reset := 0x0 },
  { base := 0x50380, stride := 8, count := 2, reset := 0x7 },
  { base := 0x70020, stride := 8, count := 1, reset := 0x0, rw := 0x8000000FFFFFFFFF },
  { base := 0x70028, stride := 8, count := 1, reset := 0x0, rw := 0xFFFFFFFFFFFFFFFF } ]

/-- The registers of a control die, by window offset. -/
def cdRows : List RegRow := cdRows0 ++ cdRows1

def aqRows0 : List RegRow := [
  { base := 0x0, stride := 8, count := 1, reset := 0x0, rc := 0xFFFF0000FFFF0000, w1s := 0x800000000000 },
  { base := 0x200, stride := 8, count := 48, reset := 0x40000000FFFF0001 },
  { base := 0x1000, stride := 8, count := 192, reset := 0x800000000000, rw := 0xFCC7FFFF00000000 },
  { base := 0x3000, stride := 8, count := 192, reset := 0x0 },
  { base := 0x4000, stride := 8, count := 192, reset := 0x7FC0000000000000 },
  { base := 0x8000, stride := 64, count := 192, reset := 0x3F80000000000000, rwl := 0xFFFFFFFFFFFFFFFF },
  { base := 0x8008, stride := 64, count := 192, reset := 0x0, rwl := 0xFFFFFFFFFFFFFFFF },
  { base := 0x8010, stride := 64, count := 192, reset := 0x0, rwl := 0xFFFFFFFFFFFFFFFF },
  { base := 0x8018, stride := 64, count := 192, reset := 0x0, rwl := 0xFFFFFFFFFFFFFFFF },
  { base := 0x8020, stride := 64, count := 192, reset := 0x0, rwl := 0xFFFFFFFFFFFFFFFF },
  { base := 0x8028, stride := 64, count := 192, reset := 0x0, rwl := 0xFFFFFFFFFFFFFFFF },
  { base := 0x10000, stride := 64, count := 192, reset := 0x3F80000000000000 },
  { base := 0x10008, stride := 64, count := 192, reset := 0x0 },
  { base := 0x10010, stride := 64, count := 192, reset := 0x0 },
  { base := 0x10018, stride := 64, count := 192, reset := 0x0 },
  { base := 0x10020, stride := 64, count := 192, reset := 0x0 },
  { base := 0x10028, stride := 64, count := 192, reset := 0x0 },
  { base := 0x8, stride := 8, count := 1, reset := 0x6400080064000000, rw := 0xFFFFFFFFFF000000 },
  { base := 0x400, stride := 8, count := 16, reset := 0x0, rw := 0xE00000FFFFFFFFFF } ]

/-- The registers of the AQ, by window offset. -/
def aqRows : List RegRow := aqRows0

def cellRows0 : List RegRow := [
  { base := 0x0, stride := 4, count := 1, reset := 0x5B04B120 },
  { base := 0x4, stride := 4, count := 1, reset := 0x0 },
  { base := 0x8, stride := 4, count := 1, reset := 0x0 },
  { base := 0xC, stride := 4, count := 1, reset := 0x0 },
  { base := 0x10, stride := 4, count := 1, reset := 0x0, rc := 0xFFFF0000, ring := 0x1 },
  { base := 0x14, stride := 4, count := 1, reset := 0xF, ring := 0x10F },
  { base := 0x18, stride := 4, count := 1, reset := 0x0, ring := 0xFFFFFFFF },
  { base := 0x1C, stride := 4, count := 1, reset := 0x0, w1s := 0x80000000, rwl := 0x1 },
  { base := 0x20, stride := 4, count := 1, reset := 0x4, rwl := 0xF },
  { base := 0x24, stride := 4, count := 1, reset := 0x403 },
  { base := 0x40, stride := 4, count := 1, reset := 0x21C03E8, ring := 0x3FFF3FFF },
  { base := 0x44, stride := 4, count := 1, reset := 0x0, ring := 0xFFFFFFFF },
  { base := 0x48, stride := 4, count := 1, reset := 0x0, ring := 0xFFFF },
  { base := 0x4C, stride := 4, count := 1, reset := 0x0, ring := 0x80FFFFFF },
  { base := 0x50, stride := 4, count := 1, reset := 0x0, ring := 0x80FFFFFF },
  { base := 0x54, stride := 4, count := 1, reset := 0x0 },
  { base := 0x58, stride := 4, count := 1, reset := 0x0 },
  { base := 0x5C, stride := 4, count := 1, reset := 0x3 },
  { base := 0x100, stride := 4, count := 1, reset := 0x4E20, rwl := 0xF1FFFF },
  { base := 0x104, stride := 4, count := 1, reset := 0x0, rwl := 0xF },
  { base := 0x108, stride := 4, count := 1, reset := 0x0, rwl := 0xFFFFFFFF },
  { base := 0x10C, stride := 4, count := 1, reset := 0x0, rc := 0xFFFF0000, w1c := 0x1 },
  { base := 0x140, stride := 4, count := 1, reset := 0x2532, rwl := 0x1FFFF },
  { base := 0x144, stride := 4, count := 1, reset := 0x6E00, rwl := 0xFFFF } ]

def cellRows1 : List RegRow := [
  { base := 0x148, stride := 4, count := 1, reset := 0x7FFFFFFF, rw := 0xFFFFFFFF },
  { base := 0x14C, stride := 4, count := 1, reset := 0x0 },
  { base := 0x150, stride := 4, count := 1, reset := 0x0, wo := 0xFFFFFFFF },
  { base := 0x180, stride := 4, count := 1, reset := 0x7E007C00, ring := 0xFFFFFFFF },
  { base := 0x184, stride := 4, count := 1, reset := 0x104064, ring := 0xFFFFFF },
  { base := 0x1C0, stride := 4, count := 1, reset := 0x32000064, rwl := 0xFF8000FF },
  { base := 0x1C4, stride := 4, count := 1, reset := 0x0, wo := 0xFFFFFFFF },
  { base := 0x1C8, stride := 4, count := 1, reset := 0x0 },
  { base := 0x200, stride := 4, count := 1, reset := 0x760000 },
  { base := 0x204, stride := 4, count := 1, reset := 0x0, w1c := 0xFFFFFFFF },
  { base := 0x220, stride := 4, count := 1, reset := 0x0, rc := 0xFFFFFFFF },
  { base := 0x224, stride := 4, count := 1, reset := 0x0, rc := 0xFFFFFFFF },
  { base := 0x400, stride := 4, count := 1, reset := 0x646400, rwl := 0xFFFF00 },
  { base := 0x404, stride := 4, count := 1, reset := 0x64000800, rwl := 0xFFFFFFFF },
  { base := 0x408, stride := 4, count := 1, reset := 0x0, rwl := 0x3 },
  { base := 0x40C, stride := 4, count := 1, reset := 0xFFFFF321, rwl := 0xFFFFFFFF },
  { base := 0x410, stride := 4, count := 1, reset := 0xFFFF0001 },
  { base := 0x414, stride := 4, count := 1, reset := 0x40000000 },
  { base := 0x418, stride := 4, count := 1, reset := 0x0, rc := 0xFFFFFFFF },
  { base := 0x41C, stride := 4, count := 1, reset := 0x0 },
  { base := 0x420, stride := 4, count := 1, reset := 0x0 },
  { base := 0x440, stride := 4, count := 1, reset := 0x9032F800, rwl := 0x70FFFFFF },
  { base := 0x444, stride := 4, count := 3, reset := 0x80328000, rwl := 0xF0FFFFFF },
  { base := 0x450, stride := 4, count := 4, reset := 0x328000, rwl := 0xF0FFFFFF } ]

def cellRows2 : List RegRow := [
  { base := 0x460, stride := 4, count := 8, reset := 0x0 },
  { base := 0x480, stride := 4, count := 8, reset := 0x0 },
  { base := 0x4A0, stride := 4, count := 8, reset := 0x7FC00000 },
  { base := 0x4C0, stride := 4, count := 8, reset := 0x0 },
  { base := 0x500, stride := 64, count := 8, reset := 0x0, rwl := 0xFFFFFFFF },
  { base := 0x504, stride := 64, count := 8, reset := 0x3F800000, rwl := 0xFFFFFFFF },
  { base := 0x508, stride := 64, count := 8, reset := 0x0, rwl := 0xFFFFFFFF },
  { base := 0x50C, stride := 64, count := 8, reset := 0x0, rwl := 0xFFFFFFFF },
  { base := 0x510, stride := 64, count := 8, reset := 0x0, rwl := 0xFFFFFFFF },
  { base := 0x514, stride := 64, count := 8, reset := 0x0, rwl := 0xFFFFFFFF },
  { base := 0x518, stride := 64, count := 8, reset := 0x0, rwl := 0xFFFFFFFF },
  { base := 0x51C, stride := 64, count := 8, reset := 0x0, rwl := 0xFFFFFFFF },
  { base := 0x520, stride := 64, count := 8, reset := 0x0, rwl := 0xFFFFFFFF },
  { base := 0x524, stride := 64, count := 8, reset := 0x0, rwl := 0xFFFFFFFF },
  { base := 0x528, stride := 64, count := 8, reset := 0x0, rwl := 0xFFFFFFFF },
  { base := 0x52C, stride := 64, count := 8, reset := 0x0, rwl := 0xFFFFFFFF },
  { base := 0x800, stride := 64, count := 8, reset := 0x0 },
  { base := 0x804, stride := 64, count := 8, reset := 0x3F800000 },
  { base := 0x808, stride := 64, count := 8, reset := 0x0 },
  { base := 0x80C, stride := 64, count := 8, reset := 0x0 },
  { base := 0x810, stride := 64, count := 8, reset := 0x0 },
  { base := 0x814, stride := 64, count := 8, reset := 0x0 },
  { base := 0x818, stride := 64, count := 8, reset := 0x0 },
  { base := 0x81C, stride := 64, count := 8, reset := 0x0 } ]

def cellRows3 : List RegRow := [
  { base := 0x820, stride := 64, count := 8, reset := 0x0 },
  { base := 0x824, stride := 64, count := 8, reset := 0x0 },
  { base := 0x828, stride := 64, count := 8, reset := 0x0 },
  { base := 0x82C, stride := 64, count := 8, reset := 0x0 },
  { base := 0x60, stride := 4, count := 1, reset := 0x0 },
  { base := 0x64, stride := 4, count := 1, reset := 0x0 },
  { base := 0x68, stride := 4, count := 1, reset := 0x0 },
  { base := 0x6C, stride := 4, count := 1, reset := 0x7FFFFFFF },
  { base := 0x70, stride := 4, count := 1, reset := 0xFFFF, rc := 0xFFFF0000 },
  { base := 0x74, stride := 4, count := 1, reset := 0x0 },
  { base := 0x78, stride := 4, count := 1, reset := 0x0 },
  { base := 0x7C, stride := 4, count := 1, reset := 0x0 },
  { base := 0x2000, stride := 4, count := 2, reset := 0x454, rwl := 0xFF7 },
  { base := 0x2008, stride := 4, count := 2, reset := 0x0 },
  { base := 0x2010, stride := 8, count := 2, reset := 0x0, rc := 0xFFFFFFFF },
  { base := 0x2014, stride := 8, count := 2, reset := 0x0, rc := 0xFFFFFFFF },
  { base := 0x2020, stride := 4, count := 1, reset := 0x7F },
  { base := 0x1000, stride := 4, count := 8, reset := 0x1, ring := 0xE300FFFF },
  { base := 0x1020, stride := 4, count := 8, reset := 0x3A83126F, rwl := 0xFFFFFFFF },
  { base := 0x1040, stride := 4, count := 1, reset := 0x3E8, rwl := 0xFFFF },
  { base := 0x1044, stride := 4, count := 1, reset := 0x0, rc := 0xFFFFFFFF },
  { base := 0x1048, stride := 4, count := 1, reset := 0x0 },
  { base := 0x1100, stride := 4, count := 1, reset := 0x0, ring := 0x8000FFFF },
  { base := 0x1104, stride := 4, count := 1, reset := 0x0, ring := 0xFFFFFFFF } ]

def cellRows4 : List RegRow := [
  { base := 0x1108, stride := 4, count := 1, reset := 0x1F403E8, ring := 0xFFFFFFFF },
  { base := 0x110C, stride := 4, count := 1, reset := 0x0, rwl := 0xF0000007 },
  { base := 0x1110, stride := 4, count := 1, reset := 0x0, rwl := 0xFFFFFFFF },
  { base := 0x1114, stride := 4, count := 1, reset := 0x0 },
  { base := 0x1118, stride := 4, count := 1, reset := 0x0 },
  { base := 0x111C, stride := 4, count := 1, reset := 0x0, ring := 0x8000FFFF } ]

/-- The registers of a Sareb, by offset. -/
def cellRows : List RegRow := cellRows0 ++ cellRows1 ++ cellRows2 ++ cellRows3 ++ cellRows4

end Sys2Proof.Machine
end

