-- ==== Sys2Proof/Machine/Store.lean ====
section
/-!
DEFINITION. The one sparse store the state is made of: a list of (key, value) pairs in one canonical form, keys strictly
rising and no entry equal to what an unlisted key reads as. Memories, register files, cells, tasks and queues by number
are all stores, so equal contents are equal data. `dflt` says what an unlisted key reads as.
-/
namespace Sys2Proof.Machine

/-- Sparse data by number. -/
abbrev Store (α : Type) := List (Nat × α)

/-- What the store holds at a key. -/
def Store.get {α : Type} (dflt : Nat → α) (m : Store α) (k : Nat) : α :=
  match m with
  | [] => dflt k
  | (j, v) :: rest => if j = k then v else Store.get dflt rest k

/-- Takes a key's entry away. -/
def Store.erase {α : Type} (m : Store α) (k : Nat) : Store α :=
  match m with
  | [] => []
  | (j, v) :: rest => if j = k then Store.erase rest k else (j, v) :: Store.erase rest k

/-- Puts an entry at its place, replacing the one that stands there. -/
def Store.insert {α : Type} (m : Store α) (k : Nat) (x : α) : Store α :=
  match m with
  | [] => [(k, x)]
  | (j, v) :: rest =>
    if k < j then (k, x) :: (j, v) :: rest
    else if k = j then (k, x) :: rest
    else (j, v) :: Store.insert rest k x

/-- Writes a key; writing what an unlisted key reads as removes the entry. -/
def Store.set {α : Type} [DecidableEq α] (dflt : Nat → α) (m : Store α) (k : Nat) (x : α) : Store α :=
  if x = dflt k then Store.erase m k else Store.insert m k x

/-- Every key of the store lies above `lo`, keys rise strictly, and no entry is what an unlisted key reads as. -/
def Store.wfFrom {α : Type} [DecidableEq α] (dflt : Nat → α) (lo : Nat) (m : Store α) : Bool :=
  match m with
  | [] => true
  | (j, v) :: rest => decide (lo ≤ j) && decide (v ≠ dflt j) && Store.wfFrom dflt (j + 1) rest

/-- The canonical form. -/
def Store.wf {α : Type} [DecidableEq α] (dflt : Nat → α) (m : Store α) : Bool := Store.wfFrom dflt 0 m

/-- The entries whose keys lie in [lo, hi) are taken away. -/
def Store.drop {α : Type} (m : Store α) (lo hi : Nat) : Store α :=
  m.filter (fun e => decide (e.1 < lo) || decide (hi ≤ e.1))

/-- The keys listed. -/
def Store.keys {α : Type} (m : Store α) : List Nat := m.map (fun e => e.1)

/-- Byte memory: an unlisted byte reads zero. -/
abbrev Mem := Store Byte

def Mem.dflt (_ : Nat) : Byte := 0

/-- One byte. -/
def Mem.byte (m : Mem) (a : Nat) : Byte := Store.get Mem.dflt m a

def Mem.put (m : Mem) (a : Nat) (b : Byte) : Mem := Store.set Mem.dflt m a b

/-- The canonical form of a memory. -/
def Mem.wf (m : Mem) : Bool := Store.wf Mem.dflt m

/-- n bytes at a, little-endian, as a number (R364). -/
def Mem.readLE (m : Mem) (a : Nat) : Nat → Nat
  | 0 => 0
  | n + 1 => (m.byte a).toNat + 256 * Mem.readLE m (a + 1) n

/-- The low n bytes of v at a, little-endian (R364). -/
def Mem.writeLE (m : Mem) (a : Nat) : Nat → Nat → Mem
  | 0, _ => m
  | n + 1, v => Mem.writeLE (m.put a (BitVec.ofNat 8 v)) (a + 1) n (v / 256)

end Sys2Proof.Machine
end

