-- ==== Sys2Proof/Machine/State.lean ====
section
/-!
DEFINITION. The state of the block: every register (in sparse stores keyed by address) and every piece of state the spec
implies beside them, as plain data, with the state after reset. INVENTORY.md lists each with its rule and reset value.
-/
namespace Sys2Proof.Machine

/-- Why a command would stop the machine: for no reason. The spec gives every command of the table an effect; one that names
    a unit the variant lacks changes nothing (R3, R17, R40; log entry 8). -/
inductive Fault where
  deriving DecidableEq, Repr

/-- A command the model rejects by name. -/
inductive Refusal where
  /-- Raised only by an arm of `exec` whose command has no meaning yet. Safe. -/
  | notModelled (mnemonic : String)
  deriving DecidableEq, Repr

/-! ### Control die -/

/-- Task states (R414). -/
inductive TState where
  | free | dormant | waitCyc | ready | running | waitMbox | waitLock | waitDelay | waitTag | halted
  deriving DecidableEq, Repr

/-- What lies on a task's spill stack, top first: a spilled window of a call depth (R355), the globals of a preempted
    task (R425), or the place such globals were taken from while windows lay above them (log entry 14). -/
inductive SpillItem where
  | win (depth : Nat)
  | globals
  | hole
  deriving DecidableEq, Repr

/-- An outstanding or answered request of a task (R393-R395). -/
structure TxnRef where
  tag : Nat
  gen : Nat
  done : Option W64        -- the value TAGW returns, once known
  waits : Bool             -- its TAGW waits for it
  deriving DecidableEq, Repr

/-- An open atomic sequence (R376-R381). -/
structure Seq where
  start : W64              -- address of LOCKSEQ
  lines : List Nat         -- 64-byte lines touched
  held : Mem               -- held stores (bytes, listed even when zero)
  heldKeys : List Nat      -- addresses of held bytes
  g : List W64             -- globals at LOCKSEQ
  w : List W64             -- current window at LOCKSEQ
  broken : Bool            -- another core stored into a touched line
  fails : Nat              -- consecutive failures before this attempt
  deriving DecidableEq, Repr

/-- A task context (R409, R414, R439, R448). -/
structure Task where
  state : TState
  hstate : TState
  part : Nat
  base : Nat
  ppend : Option Nat
  cb : Bool
  phase : Nat
  cdiv : Nat
  cph : Nat
  core : Nat
  wobj : Nat
  entry : W32
  splim : W32
  spbase : W32
  spptr : W32
  g7 : W32
  g8 : W32
  lset : W64
  wake : Nat
  ovr : W32
  actcnt : W32
  pc : W64                 -- resume address
  cycle : Nat              -- the task's cycle (R382)
  depth : Nat              -- call depth of its current window; 0 where the activation began
  spill : List SpillItem
  gsave : List W64         -- g0-g15 while it is off its core
  last : W64               -- address of its last instruction (R363)
  begun : Bool             -- the activation has been dispatched (R382)
  inst : Option (W64 × W64)   -- station time of t0 and of t0 + APPLY of the task's cycle (R397)
  trapUp : List Nat        -- for each trap being handled, the call windows above its handler; [] none
  deliver : List (Nat × W64)  -- registers (codes of R351) to write when it is next dispatched
  seq : Option Seq
  seqFails : Nat           -- consecutive failures of the sequence at `seqAt`
  seqAt : W64
  seqDue : Nat             -- its place among exclusive attempts that fell due and wait (R380); 0 none
  txns : List TxnRef
  taken : List Nat         -- locks taken in this activation (R433)
  waitReg : Nat × Nat      -- result and message registers of a waiting TAKE or TAGW (codes of R351)
  deleting : Bool          -- delete accepted, effective when it leaves its core (R414)
  haltReq : Bool           -- a debug halt of the task waits for ENDSEQ (R444)
  deriving DecidableEq, Repr

/-- The context of a FREE task. -/
def Task.empty : Task :=
  { state := .free, hstate := .free, part := 0, base := 0, ppend := none, cb := false, phase := 0, cdiv := 0,
    cph := 0, core := 0, wobj := 0, entry := 0, splim := 0, spbase := 0, spptr := 0, g7 := 0, g8 := 0, lset := 0,
    wake := 0, ovr := 0, actcnt := 0, pc := 0, cycle := 0, depth := 0, spill := [], gsave := [], last := 0,
    begun := false, inst := none, trapUp := [], deliver := [], seq := none, seqFails := 0, seqAt := 0, seqDue := 0,
    txns := [], taken := [], waitReg := (0, 0), deleting := false, haltReq := false }

/-- A resident call window (R352): whose it is, the call depth it serves, and w0-w15. -/
structure Win where
  owner : Nat
  depth : Nat
  regs : List W64
  deriving DecidableEq, Repr

/-- A Kraind core (R350-R352): its globals g0-g15 (g0 is never read), its resident call windows in allocation order. -/
structure Core where
  task : Option Nat
  last : Nat
  halted : Bool
  g : List W64
  wins : List Win          -- the call windows in use, windows 0-22, oldest first (R352, R355)
  trap : List W64          -- the trap window, window 23 (R352, R360)
  deriving DecidableEq, Repr

def Core.idle : Core :=
  { task := none, last := 0, halted := false, g := List.replicate 16 0, wins := [], trap := List.replicate 16 0 }

/-- A message in a mailbox, with the cycle and phase of its POST (R431). -/
structure Msg where
  val : W64
  cycle : Nat
  phase : Nat
  deriving DecidableEq, Repr

/-- A mailbox (R428-R432, R447). -/
structure Mbox where
  en : Bool
  part : Nat
  depth : Nat
  prod : Nat
  cons : Nat
  full : Nat
  msgs : List Msg
  takenInPhase : Nat       -- messages taken in the present phase (R431)
  waiters : List Nat       -- waiting tasks, longest first (R429)
  deriving DecidableEq, Repr

def Mbox.off : Mbox :=
  { en := false, part := 0, depth := 0, prod := 0, cons := 0, full := 0, msgs := [], takenInPhase := 0,
    waiters := [] }

/-- A hardware lock (R433-R435, R447). -/
structure HwLock where
  en : Bool
  part : Nat
  ceil : Nat
  broken : Bool
  holder : Option Nat
  waiters : List Nat
  deriving DecidableEq, Repr

def HwLock.off : HwLock :=
  { en := false, part := 0, ceil := 0, broken := false, holder := none, waiters := [] }

/-- A service request or a priority change of a voted task that waits for its phase or cycle to end (R437, R440). -/
structure PendSvc where
  rank : Nat
  svc : Nat                -- service number of R438; 5 a priority change
  blk : List Byte          -- the request block
  deriving DecidableEq, Repr

/-- The merged tally set of one cycle as a control die holds it (R382-R384, R304). -/
structure TallySet where
  cycle : Nat              -- cycle count k
  t0 : W64                 -- station time of t0(k)
  period : Nat
  apply : Nat
  stile : Nat
  map : List (Nat × W64)   -- enumerated cells in ascending ID, each with its fold map entry as in force (R119, R121)
  cells : Store Blk        -- their entries (R383, R384)
  aq : Store W64           -- by converter
  idig : W32
  folds : List W64         -- SH_FOLD_CFG of the cycle
  deriving DecidableEq, Repr

/-- A lane's vote image (R302, R303). -/
structure Image where
  cycle : Nat
  closed : Bool
  dvalid : BitVec 12
  droves : Store Payload
  expl : Store Payload     -- by ring
  energy : Store (BitVec 96)
  mst : List Blk
  eng : List Blk           -- engine blocks, placed at STILE
  trunc : Bool
  idig : W32
  vsig : W32
  deriving DecidableEq, Repr

/-- A loaded image's header fields (R403). -/
structure ImgInfo where
  slotB : Bool
  vsig : W32
  schk : W32
  entryV : W32
  entryN : W32
  trapbase : W32
  trapen : W16
  mirbase : W32
  deriving DecidableEq, Repr

/-- A relay auto-tune in progress (R203-R207). -/
structure Autotune where
  slot : Nat
  u0 : W32
  high : Bool              -- the output stands at u0 + D
  eprev : W32
  started : Bool           -- one upward crossing has been seen
  since : W64              -- the shepherd's raw counter at its start
  evals : Nat              -- evaluations since that crossing
  emin : Int
  emax : Int
  periods : List (Nat × Int)   -- length and peak-to-peak of the latest periods, newest first
  deriving DecidableEq, Repr

/-- Select-unit state of one fold (R143, R145, R153, R154). -/
structure FoldSel where
  hcnt : Nat               -- kept at the end of the last earlier cycle
  hcntCycle : Nat          -- cycle of `hcntNow`
  hcntNow : Nat
  everSel : Bool
  staged : List Nat        -- rings whose modulated cell this fold set in the present staging
  modHeld : List (Nat × Nat × Nat × Bool)  -- ring, position, on-time, negative: held by the fold in the previous cycle
  modNow : List (Nat × Nat × Nat × Bool)   -- and in the cycle of `hcntCycle`
  hysLog : List (Nat × W32)                -- cycle and HYS of its latest droves
  deriving DecidableEq, Repr

def FoldSel.reset : FoldSel :=
  { hcnt := 0, hcntCycle := 0, hcntNow := 0, everSel := false, staged := [], modHeld := [], modNow := [],
    hysLog := [] }

/-- A control die beside its registers. -/
structure CtrlDie where
  img : Option ImgInfo
  imem : Mem
  dmem : Mem               -- by core address
  ecc : Store Nat          -- by 8-byte word: 1 a single-bit error stands, 2 a double-bit error (R598)
  cores : Store Core
  tasks : Store Task
  mboxes : Store Mbox
  locks : Store HwLock
  ready : List Nat         -- non-voted ready tasks in queue order (R422)
  delays : List (Nat × Nat)  -- wake tick and task, sorted (R426)
  ticks : Nat
  tickAt : W64             -- the raw count of its next tick event (R427)
  vready : List Nat        -- voted activations of the cycle not yet dispatched
  vcycle : Nat             -- the cycle of the voted phases in progress
  vphase : Nat
  vbegun : Bool            -- the phase named has begun
  vever : Bool             -- a phase has begun since the image was loaded
  vpend : List PendSvc
  vpri : List PendSvc
  vsBusy : List Nat        -- as the phase began (R440): tasks not FREE,
  vsHeld : List (Nat × Nat)  -- locks held, with the holder,
  vsFull : List Nat        -- and mailboxes with messages
  gensDone : Bool          -- the generator step of the latest delivery is complete, or none is made
  le : Store W32           -- loop engine: word 32 s + w of slot s; 8192 + 16 p + w of generator p
  tune : Option Autotune
  tuneReq : List (Bool × Nat)  -- starts (true) and aborts on their way, oldest first, each with its cycle (R203)
  leReq : Option (W64 × Nat)   -- the shepherd's parameter write on its way, and its cycle (R201)
  tallies : List TallySet  -- the two latest, newest first
  images : List Image      -- open or closed images of the two latest cycles, newest first
  staging : Store Payload  -- explicit staging blocks by ring
  prevExpl : Store Payload -- the explicit blocks of the previous cycle
  sel : Store FoldSel
  iso : Store Nat          -- isolated cell ID to the cycle named in R130
  lastIns : Store Nat      -- cell ID to the INS code of its last tally, plus one
  mirRx : Option (Nat × List Blk)   -- a mirror from one ring die, its check against the other's outstanding (R35)
  mirPend : Option (List Blk) -- a committed mirror to load before the next generator step (R199, R389)
  deriving DecidableEq, Repr

def CtrlDie.reset : CtrlDie :=
  { img := none, imem := [], dmem := [], ecc := [], cores := [], tasks := [], mboxes := [], locks := [], ready := [],
    delays := [], ticks := 0, tickAt := 0, vready := [], vcycle := 0, vphase := 0, vbegun := false, vever := false,
    vpend := [], vpri := [], vsBusy := [], vsHeld := [], vsFull := [], gensDone := false, le := [], tune := none,
    tuneReq := [], leReq := none, tallies := [], images := [], staging := [], prevExpl := [], sel := [], iso := [],
    lastIns := [], mirRx := none, mirPend := none }

/-! ### Sareb cell -/

/-- The state a cell applies (R114), in the codes of `INS`. -/
inductive Ins where
  | bypass | pos | neg | block | semi | mech
  deriving DecidableEq, Repr

/-- A cell's frozen record of one cycle (R127). -/
structure CellRec where
  seq : W16
  key : W32
  fb : Bool
  part : Bool
  deriving DecidableEq, Repr

/-- A drove or explicit block held until its apply instant (R85, R89). -/
structure Held where
  pl : Payload
  late : Bool
  done : Bool              -- applied, or its apply instant has passed: kept for the comparison of R85
  deriving DecidableEq, Repr

/-- A running sum of FP32 results: their number, the exact sum of the finite ones in units of 2^-149, and whether a NaN
    and infinities of either sign are among them (R267, R528). -/
structure Acc where
  n : Nat
  sum : Int
  nan : Bool
  pinf : Bool
  ninf : Bool
  deriving DecidableEq, Repr

def Acc.zero : Acc := { n := 0, sum := 0, nan := false, pinf := false, ninf := false }

/-- One conditioned input of a cell or of the AQ (R271-R288, R528-R533, R561). -/
structure InSt where
  code : W16
  y : W32
  flg : BitVec 5           -- flags of the latest sample as in R529: OVR, HELD, STALE, NBR, CHOP
  ovrLeft : Nat            -- conversions that still carry OVR (R282)
  ovrUntil : Option Nat    -- local time to which conversions carry OVR
  wasOver : Bool
  wasFar : Bool
  revLow : Nat
  revHigh : Nat
  otCount : Nat            -- consecutive samples above TLIM (R236)
  sumP : Acc               -- FILT: the samples at chopper polarity 0, and below at 1
  sumN : Acc
  filtFlg : BitVec 5
  owHi : Option Bool       -- the open-wire conversion with the pull-up is done, and failed
  zHi : Nat × Int
  zLo : Nat × Int
  zStart : Option Nat      -- local time at which the impedance check began
  grpN : Nat               -- samples in the stream's group
  grpSum : Acc
  grpFlg : BitVec 5
  cnt : W32
  eseq : BitVec 5
  lastVal : Option (W32 × BitVec 5)
  since : Nat              -- groups since the last sent entry
  lim : W32 × Nat          -- deadband and KEEP as the present group began (R534)
  started : Bool
  frozen : Nat             -- identical RAW codes in a row
  deriving DecidableEq, Repr

def InSt.reset : InSt :=
  { code := 0, y := 0, flg := 0, ovrLeft := 0, ovrUntil := none, wasOver := false, wasFar := false, revLow := 0,
    revHigh := 0, otCount := 0, sumP := Acc.zero, sumN := Acc.zero, filtFlg := 0, owHi := none, zHi := (0, 0),
    zLo := (0, 0), zStart := none, grpN := 0, grpSum := Acc.zero, grpFlg := 0, cnt := 0, eseq := 0, lastVal := none,
    since := 0, lim := (0, 0), started := false, frozen := 0 }

/-- Background work of one converter (R261, R262, R277-R280, R282, R284-R287). -/
structure ConvSt where
  refDone : Bool           -- a reference conversion has begun since power-up
  sinceRef : Nat           -- conversions completed since it began
  sinceDiag : Nat
  cand : Option W32        -- an accepted candidate on its way into force
  accepted : Bool          -- a candidate has come into force since power-up
  candAt : Nat             -- local time at which its conversion ended
  refAt : Nat              -- local time at which the ratio came into force
  rho : W32                -- the ratio in force at the latest t0
  diag : List (Nat × Nat)  -- pending diagnostic items: input, and 0 open-wire +, 1 open-wire -, 2 impedance
  roundPend : Bool         -- the next round waits for the end of this one
  rot : Nat                -- next rotation entry
  list : List Nat          -- scan entries in force, skipped ones left out, the foreground entry first (R259)
  settle : List Nat        -- SETTLE of each input as read at t0
  slotAt : Nat             -- offset of the latest slot's sample instant, 10 ns units
  slotNo : Nat
  slotEnd : Bool           -- no further slot in this cycle (R261)
  nbrFrom : Option Nat     -- the input that has returned: the next conversion of a different one carries NBR
  nbrFar : List (Nat × Nat)   -- inputs that were far over range, and the local time to which those of others carry NBR
  deriving DecidableEq, Repr

def ConvSt.reset : ConvSt :=
  { refDone := false, sinceRef := 0, sinceDiag := 15, cand := none, accepted := false, candAt := 0, refAt := 0,
    rho := 0x40000000, diag := [], roundPend := false, rot := 0, list := [], settle := [], slotAt := 0, slotNo := 0,
    slotEnd := false, nbrFrom := none, nbrFar := [] }

/-- One stored sample of the record memory (R558): input, sample instant on local time, the 8-byte entry, and its y, which
    R566 works on. -/
structure RecEnt where
  inp : Nat
  time : Nat
  ent : W64
  y : W32
  deriving DecidableEq, Repr

/-- A record unit: the memory of one cell or of the AQ (R558-R566). -/
structure RecSt where
  mem : List RecEnt        -- newest first
  lost : Option Nat        -- local time of the newest overwritten entry
  armedAt : Nat            -- local time of arming
  meas : List (BitVec 256) -- measurement blocks of the frozen window
  full : List RecEnt       -- the frozen window in instant order
  fired : Bool             -- its own condition has fired since arming
  trigAt : Nat             -- local time of the trigger
  noticed : Option Nat     -- local time of T_trig, once the notice has come
  partialRec : Bool        -- entries of the window had been overwritten when the notice came
  lastY : Option W32       -- last tested y
  sent : Nat               -- the BIDX a running fetch sends next (R564)
  deriving DecidableEq, Repr

def RecSt.reset : RecSt :=
  { mem := [], lost := none, armedAt := 0, meas := [], full := [], fired := false, trigAt := 0, noticed := none,
    partialRec := false, lastY := none, sent := 0 }

/-- A request in one of a cell's four transaction buffers (R512, R513). -/
structure CellTxn where
  pl : Payload
  x : CPort
  deriving DecidableEq, Repr

/-- What the cell applies and what it holds for later apply instants (R114, R127, R134, R230). -/
structure CellArm where
  ins : Ins                -- state of the drove or missed-drove rules, before R219
  modSt : Option Bool      -- modulating: some true toward negative
  modCmp : W32
  carry : Int
  appliedDrove : Bool      -- a drove was applied since power-up or since the last release (R231)
  hys : W32                -- HYS of the drove applied last
  lastMiss : Bool          -- STATE.MISS, EXCL of the latest apply instant
  lastExcl : Bool
  lastSgl : Bool
  lastIns : Nat            -- INS code and MOD of the latest apply instant (R95)
  lastMod : Bool
  dmis : Bool              -- droves differed since the previous tally
  droves : List Held       -- newest last
  seqFloor : Option W16    -- SEQL of a BLOCK block (R615)
  expl : List Held
  recs : List CellRec      -- newest first, at most eight
  user : W64               -- `USER` of the drove applied last (R98)
  v1Bad : Bool             -- a version-1 cell found both bits set (R107)
  deriving DecidableEq, Repr

def CellArm.reset : CellArm :=
  { ins := .block, modSt := none, modCmp := 0, carry := 0, appliedDrove := false, hys := 0, lastMiss := false,
    lastExcl := false, lastSgl := false, lastIns := 3, lastMod := false, dmis := false, droves := [],
    seqFloor := none, expl := [], recs := [], user := 0, v1Bad := false }

/-- Protection and bypass state (R233-R246). -/
structure CellProt where
  rowFour : Bool           -- a latch was cleared after the latest t0: block until the next (R237)
  semiReq : Bool           -- SEMI to act at the next reload (R233)
  relReq : Bool            -- SEMI_REL or an SLCV clear to act at the next reload
  semi : Bool              -- semiconductor bypass
  bfired : Bool
  bypConf : Bool
  bypUnx : Bool
  pulse : Nat              -- 0 none, 1 first firing pulse on, 2 second pulse on, 3 first over, 4 second over
  sense : Bool             -- the debounced pin level
  slcv : Bool
  slcv2 : Bool
  ain0 : BitVec 12         -- AIN0 as the SLCV comparator last saw it (R238)
  slcvSet : W32 × W32      -- THR2:THR1 and HYS:SDT:FILT
  ovw : Bool               -- VCAP lay above `SRB_OVW` at the latest t0
  deriving DecidableEq, Repr

def CellProt.reset : CellProt :=
  { rowFour := false, semiReq := false, relReq := false, semi := false, bfired := false, bypConf := false,
    bypUnx := false, pulse := 0, sense := false, slcv := false, slcv2 := false, ain0 := 0,
    slcvSet := (0x7E007C00, 0x00104064), ovw := false }

/-- The output stage (R219-R229). -/
structure CellPwm where
  shadow : Option (W32 × W32)   -- waiting force codes and test compare
  shadowLate : Bool
  force : W32              -- codes in effect
  unforce : Bool           -- they return to follow at the next reload (R228)
  tcmp : W32
  swap : Bool
  inv : BitVec 4
  gates : BitVec 4         -- commanded conducting state: 0 GA_H, 1 GA_L, 2 GB_H, 3 GB_L
  hiz : Bool
  plan : List (Nat × Ins)            -- states of the present period, by local time in 40 ps units
  fplan : List (Nat × BitVec 4)      -- and what the force codes give in it
  edges : List (Nat × Gate × Bool)   -- scheduled edges: local time in 40 ps units, output, on
  onA : Option Nat                   -- the latest turn-on in pair A and in pair B, in the same units (R234)
  onB : Option Nat
  deriving DecidableEq, Repr

def CellPwm.reset : CellPwm :=
  { shadow := none, shadowLate := false, force := 0, unforce := false, tcmp := 0, swap := false, inv := 0,
    gates := 0, hiz := true, plan := [], fplan := [], edges := [], onA := none, onB := none }

/-- The front end (R255-R290). -/
structure CellFe where
  conv : ConvSt
  inp : Store InSt
  chop : Bool              -- chopper polarity at the latest t0
  uUse : Store W32         -- user coefficients in force, by register offset (R275)
  uNew : List (Nat × Nat × W32)   -- writes not yet in force: local time, register, value
  deriving DecidableEq, Repr

def CellFe.reset : CellFe :=
  { conv := ConvSt.reset, inp := [], chop := false, uUse := [], uNew := [] }

/-- Local time and the grid (R248-R251, R470, R487). -/
structure CellTm where
  cyc : W32                -- SRB_CYC in force,
  anch : Nat               -- the t0 of SRB_T0_ANCH on local time,
  slotA : W32
  slotB : W32
  k : W16                  -- cycle sequence of its latest t0
  t0 : Nat                 -- local time of its latest t0
  reloads : List Nat       -- reload instants that lie ahead, on local time (R225)
  time : Nat               -- 64-bit local counter, ns
  sub : Nat                -- its fraction, 2^-40 ns
  everTime : Bool
  delta : Option (W64 × W16)    -- announced step and its sequence
  lastStepSeq : Option (W64 × W16)
  dlyAt : Nat              -- local time of the last TIME correction
  rxClk : BitVec 2         -- forwarded clock present on U, D
  deriving DecidableEq, Repr

def CellTm.reset : CellTm :=
  { cyc := 0x021C03E8, anch := 0, slotA := 0, slotB := 0, k := 0, t0 := 0, reloads := [], time := 0, sub := 0,
    everTime := false, delta := none, lastStepSeq := none, dlyAt := 0, rxClk := 0 }

/-- A tally as assembled (R71), and whether it has gone toward end A and toward end B. -/
structure OutTally where
  seq : W16
  pl : Payload
  sent : BitVec 2
  deriving DecidableEq, Repr

/-- A block stream at its launcher (R67, R73, R496, R499, R686). Block n of the stream starts n block times after `start` and
    carries `BSEQ` n mod 256. -/
structure Line where
  start : Int              -- instant of block 0 on the master's raw count, 10 ps units
  next : Nat               -- the first position that nothing but IDLE is placed in yet
  busy : Nat               -- unreserved positions used since one was last left IDLE with `G` = 0
  deriving DecidableEq, Repr

/-- The ring ports, the tallies and the transaction buffers (R498, R505, R513, R517, R520). -/
structure CellLnk where
  half : Bool
  heard : Bool             -- a port has had block lock since power-up
  sleepA : Bool            -- stream from end A, from end B asleep
  sleepB : Bool
  splU : Bool              -- stream received on U, on D carries SPL
  splD : Bool
  rgU : Bool               -- stream received on U, on D carries REGEN (R492)
  rgD : Bool
  trainN : BitVec 10       -- TRAIN blocks with RXOK in a row, U low five bits, D high five bits
  txns : List CellTxn
  rsp : Option Payload     -- the stored response
  rspQ : List (CPort × BitVec 4 × Payload)  -- ECHO, CAPS and TXN_RSP blocks waiting for an IDLE block (R498)
  rseqAny : Bool           -- a request has been accepted since power-up
  tallies : List OutTally  -- newest first, those of the eight latest cycles
  lineU : Option Line      -- the streams that the cell launches from port U,
  lineD : Option Line      -- and from port D
  deriving DecidableEq, Repr

def CellLnk.reset : CellLnk :=
  { half := false, heard := false, sleepA := false, sleepB := false, splU := false, splD := false, rgU := false,
    rgD := false, trainN := 0, txns := [], rsp := none, rspQ := [], rseqAny := false, tallies := [], lineU := none,
    lineD := none }

/-- Hub queues and the record (R538, R558). -/
structure CellHub where
  pq : List (BitVec 128)
  gq : List (BitVec 128)
  rcd : RecSt
  recQ : List Payload      -- RECORD blocks of a running fetch
  deriving DecidableEq, Repr

def CellHub.reset : CellHub :=
  { pq := [], gq := [], rcd := RecSt.reset, recQ := [] }

/-- A cell: its registers by offset, and the rest of its state. A cell that is not powered keeps only its serial, its
    factory coefficients and whether it is a version-1 part. -/
structure Cell where
  serial : BitVec 48
  v1 : Bool                -- a forerunner cell (R2)
  powered : Bool
  regs : Store W32
  fcoef : Store W32        -- factory coefficients other than the identity (log entry 9)
  arm : CellArm
  prot : CellProt
  pwm : CellPwm
  fe : CellFe
  tm : CellTm
  lnk : CellLnk
  hub : CellHub
  deriving DecidableEq, Repr

/-- A cell without power. -/
def Cell.off (serial : BitVec 48) (v1 : Bool) (fcoef : Store W32) : Cell :=
  { serial := serial, v1 := v1, powered := false, regs := [], fcoef := fcoef, arm := CellArm.reset,
    prot := CellProt.reset, pwm := CellPwm.reset, fe := CellFe.reset, tm := CellTm.reset, lnk := CellLnk.reset,
    hub := CellHub.reset }

/-- The cell at a place nothing has touched: not powered, a version-2 part with serial place + 1 (log entry 9). -/
def Cell.dflt (p : Nat) : Cell := Cell.off (BitVec.ofNat 48 (p + 1)) false []

/-! ### Ring die -/

/-- Who waits for a transaction's answer. -/
inductive TxnOwner where
  | task (d : CDie) (t : Nat)
  | slot (s : Nat)
  | ring                       -- the ring die's own request (R121, R216, R218, R563)
  | partner (pl : Payload)     -- relayed from package B (R516)
  | gone
  deriving DecidableEq, Repr

/-- A tag in use (R58). -/
structure Tag where
  gen : Nat
  owner : TxnOwner
  req : Payload
  ring : Nat
  pos : Nat
  toB : Bool
  retries : Nat
  sentAt : W64             -- the issuing ring die's raw count at the first send,
  lastAt : W64             -- and at the latest (R514)
  deriving DecidableEq, Repr

/-- The transaction end's view of one cell (R56, R57, R513). -/
structure CellEnd where
  rseq : Byte
  credits : Nat
  endB : Bool
  wait : Bool              -- no request until the first tally over the new path
  deriving DecidableEq, Repr

def CellEnd.reset : CellEnd := { rseq := 0, credits := 4, endB := false, wait := false }

/-- What enumeration reports of one cell (R508-R510). -/
structure Enum where
  serial : BitVec 48
  rpv : Byte
  fb : Bool
  cfgd : Bool
  hopA : Option Nat
  hopB : Option Nat
  place : Nat              -- where on the ring the cell is wired
  deriving DecidableEq, Repr

/-- A ring as the ring dies know it (R509, R511, R519). -/
structure Ring where
  reports : List Enum
  cells : List (Nat × Enum)    -- position and cell, in order of hop count from end A
  whole : Bool
  chain : Bool                 -- brought up as two open chains (R41)
  up : Bool                    -- UP, SPLIT or CHAIN
  distA : Store Nat            -- by place: E from end A, 10 ps units
  distB : Store Nat
  cuts : List (Nat × Bool)     -- streams cut at a hop, toward end B or not (hop h joins places h - 1 and h; 64 end B's)
  deadHops : List Nat          -- hops whose repair waits for the next bring-up (R598)
  ready : Store Nat            -- hops back at LINKED: measured delay + 1
  joining : Option (Nat × Nat × Nat)   -- a repair under way: hop, its delay, the cycle from which it joins (R521)
  tl : Store Nat               -- `TL` of the latest TIME LAUNCH with `SPL` = 1 that reached end A (0), end B (1), in 1/256 ns (R686)
  deriving DecidableEq, Repr

def Ring.down : Ring :=
  { reports := [], cells := [], whole := false, chain := false, up := false, distA := [], distB := [], cuts := [],
    deadHops := [], ready := [], joining := none, tl := [] }

/-- A host FIFO (R548-R556): words not yet read, newest last; how many of them are visible. -/
structure Fifo where
  words : List W64
  visible : Nat
  ptrBad : Bool            -- its pointer copies differ (R59)
  deriving DecidableEq, Repr

def Fifo.empty : Fifo := { words := [], visible := 0, ptrBad := false }

/-- An admitted stream (R527, R541-R546). -/
structure Stream where
  mode : Nat
  d : Nat
  co : Bool
  grant : Bool
  fifo : Nat
  susp : Bool
  deriving DecidableEq, Repr

/-- One copy of a tally that reached a ring end (R32, R74-R76). -/
structure Copy where
  place : Nat
  endB : Bool
  pl : Payload
  deriving DecidableEq, Repr

/-- A station port's transmit side (R655, R656): the words of the frame in the buffer, oldest first. -/
structure SpTx where
  words : List W64
  bad : Bool               -- the frame is discarded at its end
  stamps : List W64
  lost : Bool
  deriving DecidableEq, Repr

def SpTx.empty : SpTx := { words := [], bad := false, stamps := [], lost := false }

/-- A ring die beside its registers. -/
structure RingDie where
  raw : W64
  ofs : Int                -- 2^-40 ns
  tagGen : Store Nat       -- generation last used by a tag of its pool
  tags : Store Tag
  fifos : Store Fifo
  tx : Store SpTx
  rpn : Store Nat          -- TRAIN blocks with RXOK in a row, by local port
  tok : Option Nat         -- the cycle token held (R333)
  twGood : Store Nat       -- good frames in a row, by twin port
  lines : Store (Option Line)  -- the block streams, by local port
  deriving DecidableEq, Repr

def RingDie.reset : RingDie :=
  { raw := 0, ofs := 0, tagGen := [], tags := [], fifos := [], tx := [], rpn := [], tok := none, twGood := [],
    lines := [] }

/-! ### AQ die -/

structure AqDie where
  raw : W64
  ofs : Int
  inp : Store InSt
  conv : Store ConvSt
  cfgAt : Store W64        -- AQ_CH_CFG as in force
  chop : Bool
  k : Nat
  rcd : RecSt
  trgY : Store (Option W32)  -- last tested y, by trigger condition
  trgHit : List Nat        -- trigger conditions that have fired since arming (R561)
  sample : Store W64       -- foreground samples of the present cycle, by converter
  uUse : Store W64         -- user coefficients in force, by register address
  uNew : List (Nat × Nat × W64)
  t0 : Nat                 -- the AQ's local time of its latest t0
  td : W16                 -- die temperature, Q8.8
  deriving DecidableEq, Repr

def AqDie.reset : AqDie :=
  { raw := 0, ofs := 0, inp := [], conv := [], cfgAt := [], chop := false, k := 0, rcd := RecSt.reset, trgY := [],
    trgHit := [], sample := [], uUse := [], uNew := [], t0 := 0, td := 0 }

/-! ### Shepherd -/

/-- A step of station time on its way (R467). -/
structure Step where
  delta : Int
  cycle : Nat              -- k_s
  host : Bool
  deriving DecidableEq, Repr

/-- An entry of the boot journal is 64 bytes (R589). -/
abbrev JRec := BitVec 512

/-- What lies in boot memory (R511, R585, R589, R627, R657); it survives power loss. -/
structure BootMem where
  img : Store Mem          -- slot 0 A, 1 B
  imgLen : Store Nat       -- bytes written and accepted; 0 none
  safe : Mem               -- the safety parameter store
  safeLen : Nat            -- 512 once a store has been written
  chk : W32
  confd : Bool
  pref : Bool
  start : Nat              -- number of the latest start
  journal : List JRec      -- newest first
  orders : Store (List (BitVec 48))   -- serial order of a ring, by position
  rver : Store Nat         -- the version a ring last came up with
  retry : Bool
  alts : List (Nat × Nat × Nat)       -- step, object, alternatives already taken
  deriving DecidableEq, Repr

def BootMem.blank : BootMem :=
  { img := [], imgLen := [], safe := [], safeLen := 0, chk := 0, confd := false, pref := false, start := 0,
    journal := [], orders := [], rver := [], retry := false, alts := [] }

/-- An interval of the ledger beside its registers (R481-R484). -/
structure LedgSt where
  opened : Bool
  len : Nat                -- length in force, minutes
  rawStart : W64           -- raw time of its first t0
  first : Nat              -- first cycle
  closing : List (Nat × Nat)  -- intervals that wait for their last posting: last cycle and entry number, oldest first
  posted : Nat             -- postings are in for every cycle up to this one, plus one
  deriving DecidableEq, Repr

def LedgSt.reset : LedgSt :=
  { opened := false, len := 15, rawStart := 0, first := 0, closing := [], posted := 0 }

/-- A package as the referee sees it (R340, R341). -/
structure RefPkg where
  beat : Option Beat
  missed : Nat
  fresh : Bool             -- a heartbeat came in the last two cycles (R670)
  linkDown : Bool          -- its referee link is down (R344)
  deriving DecidableEq, Repr

/-- What the package keeps of a cycle while its blocks are on their way: its t0, the settings, the mode and causes that govern
    it, the step of station time at its t0, the digest of its tally set, and AQ's samples of it, once the next has begun (R62,
    R304, R469, R574). -/
structure CycRec where
  cycle : Nat
  t0 : W64
  cfg : W64
  mode : Nat
  rtc : Nat
  step : Int
  dig : W32
  tok : BitVec 2           -- ring dies that held its token at its stile deadline (R333)
  aq : Store W64
  deriving DecidableEq, Repr

/-- Master time, the cycle grid and the cycle settings (R62-R64, R93, R449-R468, R478). -/
structure ShClk where
  raw : W64                -- master raw counter
  ofs : Int
  started : Bool           -- the master counter runs and t0 instants occur
  inReset : Bool
  cyc : Nat                -- cycle count k
  t0 : W64                 -- station time of t0(k)
  t0raw : W64
  gridOn : Bool            -- the first t0 has been
  realign : Bool           -- the period took effect at the latest t0: the grid is laid anew from it (R63)
  cfgInForce : W64         -- TIM_CYC_CFG in force
  cfgPend : Option (W64 × Nat)   -- an accepted write and the cycle it takes effect with
  recent : List CycRec           -- the eight latest cycles, newest first
  steps : List Step
  stepTotal : Int
  wallPend : Option W64
  wallInForce : W64
  deriving DecidableEq, Repr

def ShClk.reset : ShClk :=
  { raw := 0, ofs := 0, started := false, inReset := false, cyc := 0, t0 := 0, t0raw := 0, gridOn := false,
    realign := false, cfgInForce := 0x006E021C017C03E8, cfgPend := none, recent := [], steps := [], stepTotal := 0,
    wallPend := none, wallInForce := 0 }

/-- Pins, supplies and power cycling (R601, R602, R669-R677). -/
structure ShPin where
  vddh : Bool
  refclk : Bool
  debugEn : Bool
  strapRef : Bool          -- referee strap (R329)
  rline : BitVec 2
  hurdleIn : Bool          -- HURDLE_IN reads released
  hurdleOut : Bool         -- HURDLE_OUT driven low
  rfLevel : Bool           -- the package's REFEREE line
  safeReq : BitVec 2       -- pins asserted after their filters
  busMaster : Bool
  firstFatal : Store W64   -- die to raw time of its first fatal fault, plus one
  deriving DecidableEq, Repr

def ShPin.reset : ShPin :=
  { vddh := true, refclk := true, debugEn := false, strapRef := false, rline := 0, hurdleIn := true,
    hurdleOut := false, rfLevel := false, safeReq := 3, busMaster := false, firstFatal := [] }

/-- Mode requests and the stile sequence behind them (R314, R575-R579). -/
structure ShMode where
  modeReqs : List Nat      -- requests not yet decided, oldest first (R575)
  modeAcc : Option Nat
  modeNext : Option (Nat × Nat)  -- automatic transition: precedence of R579 and target
  stileN : Nat             -- n of R314
  agreed16 : Nat           -- agreed cycles in a row, up to 16
  rtStart : Store W64      -- raw start instants of the RIDE-THROUGH causes, plus one
  wakePend : Bool
  gridCause : Bool         -- `GRID` was written 1 in PRECHARGE or RUN since the latest t0 (R578)
  deriving DecidableEq, Repr

def ShMode.reset : ShMode :=
  { modeReqs := [], modeAcc := none, modeNext := none, stileN := 0, agreed16 := 0, rtStart := [], wakePend := false,
    gridCause := false }

/-- Fault histories and the event log (R595, R596, R662). -/
structure ShFlt where
  hist : List (Nat × Nat × List W64 × Nat)   -- source, instance, event times, cycle of the last event
  log : Store (BitVec 256)  -- by entry number; the entry of one number lies where that 65,536 lower lay
  deriving DecidableEq, Repr

def ShFlt.reset : ShFlt :=
  { hist := [], log := [] }

/-- The stile and its inputs (R302-R309, R323). -/
structure ShVote where
  gateOf : Store Nat       -- die d to 1 + the stile input its gate is open for
  gateFrom : Store Nat     -- die d to the first cycle in which it is counted or compared
  voteImg : List (Nat × Image)   -- die and image received in the present cycle
  arrive : Store Nat       -- die to slack in ns plus one
  agreedDrove : Option Image     -- what the voters send in this cycle
  agreedMirror : Bool
  substitute : Nat         -- 0 agreed, 1 hold, 2 safe pulse block, 3 nothing
  launched : List Nat      -- ring ends that have sent the droves of the cycle voted last: 2 × ring, + 1 for end B
  safeSpb : Bool           -- a safety function makes the stile send safe pulse blocks from its next vote
  soloSpb : Bool           -- the single-lane limit makes it do so from the next cycle (R325)
  deriving DecidableEq, Repr

def ShVote.reset : ShVote :=
  { gateOf := [], gateFrom := [], voteImg := [], arrive := [], agreedDrove := none, agreedMirror := false,
    substitute := 3, launched := [], safeSpb := false, soloSpb := false }

/-- The tally set in assembly (R32, R74-R76, R130), kept with the shepherd because either ring die may be its master. -/
structure ShTly where
  masterB : Bool           -- RD-1 is the tally master (R31, R601)
  copies : List Copy
  closed : Nat             -- cycles below this number have passed their tally close,
  delivered : Nat          -- their delivery,
  voted : Nat              -- and their stile deadline
  merged : Store Blk
  mergedAq : Store W64
  isoMark : Store Nat      -- isolated cell ID, and the cycle named in R130, plus one
  missCyc : Store Nat
  foldPrev : Store W64     -- map entries as the lanes go on using them (R121)
  foldFail : List Nat      -- cell IDs that failed three attempts of R121
  alarmPrev : Store W32    -- `ALARM` of the latest tally of each cell
  deriving DecidableEq, Repr

def ShTly.reset : ShTly :=
  { masterB := false, copies := [], closed := 0, delivered := 0, voted := 0, merged := [], mergedAq := [],
    isoMark := [], missCyc := [], foldPrev := [], foldFail := [], alarmPrev := [] }

/-- Image operations (R657). -/
structure ShImg where
  imgOp : Nat              -- 0 none, 1 erase, 2 finish, 3 load
  imgSlotB : Bool
  imgWrite : Option Bool   -- a write into a slot is open
  imgBad : Nat             -- reason the write has failed
  imgDies : BitVec 4
  imgGood : Bool
  deriving DecidableEq, Repr

def ShImg.reset : ShImg :=
  { imgOp := 0, imgSlotB := false, imgWrite := none, imgBad := 0, imgDies := 0, imgGood := false }

/-- A PTP master as its Announce describes it. -/
structure Master where
  dataset : BitVec 128
  gmId : W64
  utcOfs : W16
  deriving DecidableEq, Repr

/-- The crook and the PTP engine beside their registers (R457-R466). -/
structure ShCrk where
  crookRaw : W64           -- raw time of the last θ used
  autoStep : Bool          -- the automatic step of this power-up has happened
  ratePend : Option W32
  ptpHeard : Store (Option Master)   -- by port: the latest Announce heard there in the engine's domain
  deriving DecidableEq, Repr

def ShCrk.reset : ShCrk :=
  { crookRaw := 0, autoStep := false, ratePend := none, ptpHeard := [] }

/-- The interval ledgers (R481-R484). -/
structure ShLdg where
  ledg0 : LedgSt
  ledg1 : LedgSt
  deriving DecidableEq, Repr

def ShLdg.reset : ShLdg :=
  { ledg0 := LedgSt.reset, ledg1 := LedgSt.reset }

/-- The safety channel (R606-R623). -/
structure ShSafe where
  safeWork : Mem           -- working copy
  safeOk : Bool            -- step 10 passed: SLC, SLV and SLD run
  safeNext : Option Mem    -- a committed store that becomes the working copy at the next t0
  safeCyc : Nat            -- tally sets of cycles below this number are evaluated
  nOver : Store Nat        -- consecutive samples over the limit: 2j, 2j + 1 the sources of SLC channel j, 8-13 legs, 16-17 SLD
  nClear : Store Nat       -- consecutive samples not over it
  rawHist : List (Nat × W16 × Nat × Nat)   -- cell ID: last RAW, identical in a row, cycle of the last good tally plus one
  insHist : Store Nat      -- by cell ID: INS of that tally, plus one
  blkOn : Bool             -- BLOCK blocks are repeated
  blkN : Nat
  blkAt : W64              -- raw time of the decision
  blkSeq : W16
  blkTdet : W32
  safeStateMiss : Bool     -- no safe tally set came within 1 ms of the decision
  diagNow : BitVec 13      -- diagnostic conditions that persist (R624)
  testBad : List (Nat × Bool)   -- ring and end (true end B) that no TEST block has reached in time (row 9 of R623)
  deriving DecidableEq, Repr

def ShSafe.reset : ShSafe :=
  { safeWork := [], safeOk := false, safeNext := none, safeCyc := 0, nOver := [], nClear := [], rawHist := [],
    insHist := [], blkOn := false, blkN := 0, blkAt := 0, blkSeq := 0, blkTdet := 0, safeStateMiss := false,
    diagNow := 0, testBad := [] }

/-- The record sequence (R560-R564). -/
structure ShRec where
  recTrig : Option (W32 × Nat)   -- earliest trigger known, and its source
  recFirePend : Bool
  recT0 : W64              -- t0 of the cycle in which a trigger was first learned of (R562)
  recFull : W64            -- T_trig, extended
  recPos : Store Nat       -- by ring: position of the cell fetched last, plus one; 256: the AQ's next input
  recBidx : Store Nat      -- by ring: the BIDX that comes next
  recSeen : List Nat       -- cell IDs fetched whole, and 16384 once the AQ is
  recHeard : List Nat      -- cell IDs whose trigger the shepherd has heard of
  deriving DecidableEq, Repr

def ShRec.reset : ShRec :=
  { recTrig := none, recFirePend := false, recT0 := 0, recFull := 0, recPos := [], recBidx := [], recSeen := [],
    recHeard := [] }

/-- The legacy packing window (R567-R569). -/
structure ShLeg where
  legCur : List Byte
  legQ : List W64
  legVis : Nat
  deriving DecidableEq, Repr

def ShLeg.reset : ShLeg :=
  { legCur := [], legQ := [], legVis := 0 }

/-- The twin pair and the referee (R329-R345). -/
structure ShTw where
  refPkgs : Store RefPkg
  grantTo : Option Nat     -- the referee's grant
  reqFlag : Bool           -- the next heartbeat requests a handover (R341)
  partner : Option Beat
  twMirror : Store Blk     -- blocks of one cycle's twin mirror, by index,
  twSeq : W16              -- and that cycle's sequence (R338)
  relayed : List (Nat × Payload)  -- relayed droves of this cycle, by fold
  tlink : Store Nat        -- one-way latency by direct link, units of 0.1 ns
  refreshed : Bool         -- HURDLE_OUT refreshed in the last two cycles
  dutyFrom : Nat           -- the first cycle of the present duty
  fwd : List (Nat × Nat × W64)    -- accepted writes that both packages apply: cycle, address, value (R339, R581)
  pendSeq : Option Nat     -- settings in force here since this cycle, which the partner has yet to apply (R93)
  deriving DecidableEq, Repr

def ShTw.reset : ShTw :=
  { refPkgs := [], grantTo := none, reqFlag := false, partner := none, twMirror := [], twSeq := 0, relayed := [],
    tlink := [], refreshed := false, dutyFrom := 0, fwd := [], pendSeq := none }

/-- The shepherd beside its registers. -/
structure Shepherd where
  clk : ShClk
  pin : ShPin
  mode : ShMode
  flt : ShFlt
  vote : ShVote
  tly : ShTly
  img : ShImg
  crk : ShCrk
  ldg : ShLdg
  safe : ShSafe
  rcd : ShRec
  leg : ShLeg
  tw : ShTw
  deriving DecidableEq, Repr

def Shepherd.reset : Shepherd :=
  { clk := ShClk.reset, pin := ShPin.reset, mode := ShMode.reset, flt := ShFlt.reset, vote := ShVote.reset,
    tly := ShTly.reset, img := ShImg.reset, crk := ShCrk.reset, ldg := ShLdg.reset, safe := ShSafe.reset,
    rcd := ShRec.reset, leg := ShLeg.reset, tw := ShTw.reset }

/-! ### The block -/

/-- What the block has sent (the model's own record of its outputs, newest first; log entry 3): a block in position n of a
    stream that its sender launches, a block repeated or filled in with its `BSEQ`. Every other position of a launched stream
    carries an IDLE block (R67), which `Dev.lineBlock` gives. -/
inductive Emission where
  | block (q : Sender) (n : Nat) (ty : BitVec 4) (pl : Payload)
  | repeated (p : Place) (x : CPort) (bseq : Byte) (ty : BitVec 4) (pl : Payload)
  | msix (v : Nat)
  | twin (link : Nat) (ty : Byte) (seq : W16) (pl : Blk)
  | referee (pkg : Nat) (level : Bool)
  | frame (port : Nat) (bytes : List Byte)
  | pdelayResp (port : Nat) (step : Nat)   -- 0 one-step response, 1 two-step response, 2 its follow-up (R457)
  deriving DecidableEq, Repr

/-- The block without its queue. -/
structure Dev where
  variant : Variant
  regs : Store W64         -- package registers by BAR0 address
  cd0 : CtrlDie
  cd1 : CtrlDie
  cd2 : CtrlDie
  cd3 : CtrlDie
  rd0 : RingDie
  rd1 : RingDie
  aq : AqDie
  sh : Shepherd
  nv : BootMem
  rings : Store Ring
  ends : Store CellEnd     -- by cell ID
  streams : Store (Option Stream)   -- by the index of RDn_HUB_RT
  cells : Store Cell       -- by place
  freeCtr : Nat            -- the model's own: free values drawn (log entry 4)
  rdata : List W64         -- the model's own: what the last read returned (log entry 3)
  out : List Emission      -- the model's own (log entry 3)
  deriving DecidableEq, Repr

/-- The state: the block, and the commands that wait, first in, first out. -/
structure State where
  dev : Dev
  pending : List Instr
  deriving DecidableEq, Repr

/-- The block right after reset: every register at its reset value (an unlisted register reads as its reset value), no
    cell powered, nothing in boot memory. The variant is CHM-8 (log entry 8). -/
def Dev.reset : Dev :=
  { variant := .chm8, regs := [], cd0 := CtrlDie.reset, cd1 := CtrlDie.reset, cd2 := CtrlDie.reset,
    cd3 := CtrlDie.reset, rd0 := RingDie.reset, rd1 := RingDie.reset, aq := AqDie.reset, sh := Shepherd.reset,
    nv := BootMem.blank, rings := [], ends := [], streams := [], cells := [], freeCtr := 0, rdata := [], out := [] }

def State.reset : State := { dev := Dev.reset, pending := [] }

end Sys2Proof.Machine
end

