-- ==== Sys2Proof/Machine/Ops.lean ====
section
/-!
DEFINITION. The named operations the commands share: picking dies, rings and cells, reading and writing register fields,
time, the event log, interrupts, free values, and what the block sends.
-/
namespace Sys2Proof

/-! ### Numbers of dies and registers -/

def CDie.idx : CDie → Nat
  | .a => 0
  | .b => 1
  | .c => 2
  | .s => 3

def CDie.ofIdx (d : Nat) : CDie :=
  match d with
  | 0 => .a
  | 1 => .b
  | 2 => .c
  | _ => .s

def RDie.idx : RDie → Nat
  | .rd0 => 0
  | .rd1 => 1

/-- The die index of R589 and R644. -/
def Die.idx : Die → Nat
  | .cda => 0
  | .cdb => 1
  | .cdc => 2
  | .cds => 3
  | .rd0 => 4
  | .rd1 => 5
  | .aq => 6
  | .sh => 7

/-- The 5-bit code of a register field, and back (R351). -/
def Reg.code : Reg → Nat
  | .g i => i.val
  | .w i => 16 + i.val

def Reg.ofCode (n : Nat) : Reg :=
  if n % 32 < 16 then .g ⟨n % 16, Nat.mod_lt _ (by decide)⟩ else .w ⟨n % 16, Nat.mod_lt _ (by decide)⟩

end Sys2Proof

namespace Sys2Proof.Machine

/-- The outcome of a command. -/
abbrev Out := Host.Outcome State Fault Refusal

/-- A command that changes the block and never its queue. -/
def State.upd (s : State) (f : Dev → Dev) : Out := .next { s with dev := f s.dev }

/-- As `upd`, for a command that names a unit: where the variant lacks the unit, nothing happens (log entry 8). -/
def State.updIf (s : State) (ok : Bool) (f : Dev → Dev) : Out := s.upd (fun d => if ok then f d else d)

/-! ### Numbers -/

/-- Field [lo + w - 1 : lo] of a number. -/
def bitsOf (x lo w : Nat) : Nat := (x / 2 ^ lo) % 2 ^ w

/-- One bit of a number. -/
def bitOf (x i : Nat) : Bool := decide ((x / 2 ^ i) % 2 = 1)

/-- x with field [lo + w - 1 : lo] replaced. -/
def putBits (x lo w v : Nat) : Nat := x - bitsOf x lo w * 2 ^ lo + (v % 2 ^ w) * 2 ^ lo

/-- The w-bit pattern x as a signed number. -/
def sx (w x : Nat) : Int := if x % 2 ^ w < 2 ^ (w - 1) then (x % 2 ^ w : Nat) else ((x % 2 ^ w : Nat) : Int) - (2 ^ w : Nat)

/-- A signed number as a w-bit pattern, wrapping. -/
def ux (w : Nat) (x : Int) : Nat := (x % ((2 ^ w : Nat) : Int)).toNat

/-- x limited to lo..hi. -/
def clampI (x lo hi : Int) : Int := min (max x lo) hi

def b2n (b : Bool) : Nat := if b then 1 else 0

/-- The signed 16-bit difference of two cycle sequences (R469, R615). -/
def seqDiff (a b : W16) : Int := (a - b).toInt

/-- Rounded up to a multiple. -/
def ceilDiv (a b : Nat) : Nat := (a + b - 1) / b

/-- Applies f for each number of a list, in order. -/
def forAll {α β : Type} (l : List α) (x : β) (f : β → α → β) : β := l.foldl f x

/-! ### Byte strings in bit vectors -/

/-- n bits at byte b of a payload, little-endian (R94, R98). -/
def Pl.get (p : Payload) (b n : Nat) : Nat := bitsOf p.toNat (8 * b) n

/-- A payload built from (byte, width in bits, value) items, every other byte zero. -/
def Pl.mk (l : List (Nat × Nat × Nat)) : Payload :=
  BitVec.ofNat 480 (l.foldl (fun a e => a ||| ((e.2.2 % 2 ^ e.2.1) * 2 ^ (8 * e.1))) 0)

def Pl.put (p : Payload) (b n v : Nat) : Payload := BitVec.ofNat 480 (putBits p.toNat (8 * b) n v)

def Blk.get (p : Blk) (b n : Nat) : Nat := bitsOf p.toNat (8 * b) n

def Blk.mk (l : List (Nat × Nat × Nat)) : Blk :=
  BitVec.ofNat 512 (l.foldl (fun a e => a ||| ((e.2.2 % 2 ^ e.2.1) * 2 ^ (8 * e.1))) 0)

/-- n bytes of a number, first byte least significant. -/
def bytesOf (v : Nat) : Nat → List Byte
  | 0 => []
  | n + 1 => BitVec.ofNat 8 v :: bytesOf (v / 256) n

/-- The number a byte list spells, first byte least significant. -/
def numOf : List Byte → Nat
  | [] => 0
  | b :: bs => b.toNat + 256 * numOf bs

/-! ### Dies -/

def Dev.cd (s : Dev) (d : Nat) : CtrlDie :=
  match d with
  | 0 => s.cd0
  | 1 => s.cd1
  | 2 => s.cd2
  | _ => s.cd3

def Dev.setCd (s : Dev) (d : Nat) (x : CtrlDie) : Dev :=
  match d with
  | 0 => { s with cd0 := x }
  | 1 => { s with cd1 := x }
  | 2 => { s with cd2 := x }
  | _ => { s with cd3 := x }

def Dev.modCd (s : Dev) (d : Nat) (f : CtrlDie → CtrlDie) : Dev := s.setCd d (f (s.cd d))

def Dev.rd (s : Dev) (n : Nat) : RingDie :=
  match n with
  | 0 => s.rd0
  | _ => s.rd1

def Dev.setRd (s : Dev) (n : Nat) (x : RingDie) : Dev :=
  match n with
  | 0 => { s with rd0 := x }
  | _ => { s with rd1 := x }

def Dev.modRd (s : Dev) (n : Nat) (f : RingDie → RingDie) : Dev := s.setRd n (f (s.rd n))

def Dev.present (s : Dev) (d : Nat) : Bool := Config.present s.variant d

/-! ### Registers -/

def pkgRowAt (a : Nat) : Option RegRow :=
  if a < 0x200000 then findRow glbRows a
  else if a < 0x400000 then findRow rdRows ((a - 0x200000) % 0x100000)
  else if a < 0x500000 then findRow aqRows (a - 0x400000)
  else if a < 0x800000 then none
  else if a < 0x1000000 then findRow cdRows ((a - 0x800000) % 0x200000)
  else findRow glbRows a

/-- The reset value of a package register (R18). -/
def regReset (a : Nat) : W64 :=
  match pkgRowAt a with
  | some r => BitVec.ofNat 64 r.reset
  | none => 0

/-- The reset value of a Sareb register (R254). -/
def cellRegReset (a : Nat) : W32 :=
  match findRow cellRows a with
  | some r => BitVec.ofNat 32 r.reset
  | none => 0

def Dev.rget (s : Dev) (a : Nat) : W64 := Store.get regReset s.regs a
def Dev.rset (s : Dev) (a : Nat) (v : W64) : Dev := { s with regs := Store.set regReset s.regs a v }

/-- A field as an unsigned number. -/
def Dev.fget (s : Dev) (f : Field) : Nat := bitsOf (s.rget f.reg).toNat f.lo f.width

/-- A field written, the register's other bits kept. -/
def Dev.fset (s : Dev) (f : Field) (v : Nat) : Dev :=
  s.rset f.reg (BitVec.ofNat 64 (putBits (s.rget f.reg).toNat f.lo f.width v))

def Dev.fbit (s : Dev) (f : Field) : Bool := decide (s.fget f ≠ 0)

/-- A counter advanced by n; it saturates at all ones (R664). -/
def Dev.fadd (s : Dev) (f : Field) (n : Nat) : Dev := s.fset f (min (s.fget f + n) (2 ^ f.width - 1))

def Dev.finc (s : Dev) (f : Field) : Dev := s.fadd f 1

/-- A counter that wraps, advanced by one. -/
def Dev.fwrap (s : Dev) (f : Field) : Dev := s.fset f ((s.fget f + 1) % 2 ^ f.width)

def Cell.rget (c : Cell) (a : Nat) : W32 := Store.get cellRegReset c.regs a
def Cell.rset (c : Cell) (a : Nat) (v : W32) : Cell := { c with regs := Store.set cellRegReset c.regs a v }
def Cell.fget (c : Cell) (f : Field) : Nat := bitsOf (c.rget f.reg).toNat f.lo f.width
def Cell.fset (c : Cell) (f : Field) (v : Nat) : Cell :=
  c.rset f.reg (BitVec.ofNat 32 (putBits (c.rget f.reg).toNat f.lo f.width v))
def Cell.fbit (c : Cell) (f : Field) : Bool := decide (c.fget f ≠ 0)
def Cell.finc (c : Cell) (f : Field) : Cell := c.fset f (min (c.fget f + 1) (2 ^ f.width - 1))

/-! ### Cells and rings -/

def Dev.cell (s : Dev) (p : Place) : Cell := Store.get Cell.dflt s.cells p
def Dev.setCell (s : Dev) (p : Place) (c : Cell) : Dev := { s with cells := Store.set Cell.dflt s.cells p c }
def Dev.modCell (s : Dev) (p : Place) (f : Cell → Cell) : Dev := s.setCell p (f (s.cell p))

def ringDflt (_ : Nat) : Ring := Ring.down
def Dev.ring (s : Dev) (r : Nat) : Ring := Store.get ringDflt s.rings r
def Dev.setRing (s : Dev) (r : Nat) (x : Ring) : Dev := { s with rings := Store.set ringDflt s.rings r x }
def Dev.modRing (s : Dev) (r : Nat) (f : Ring → Ring) : Dev := s.setRing r (f (s.ring r))

def endDflt (_ : Nat) : CellEnd := CellEnd.reset
def Dev.cend (s : Dev) (id : Nat) : CellEnd := Store.get endDflt s.ends id
def Dev.setCend (s : Dev) (id : Nat) (x : CellEnd) : Dev := { s with ends := Store.set endDflt s.ends id x }

def Dev.role (s : Dev) : Nat := s.fget SH_TWIN_STAT_ROLE
def Dev.twin (s : Dev) : Bool := decide (s.role = 1) || decide (s.role = 2)

/-- A twin pair of CHM-8 packages: 132 rings, each with one end in this package (R21, R38, R43). -/
def Dev.wide (s : Dev) : Bool := s.twin && decide (s.variant = .chm8)

/-- Rings the package serves. -/
def Dev.ringCount (s : Dev) : Nat := if s.wide then 132 else Config.nRings s.variant

/-- The ring exists (R38). -/
def Dev.hasRing (s : Dev) (r : Nat) : Bool := decide (r < s.ringCount)

/-- A cell place exists: 64 × ring + place along the ring (R39). -/
def Dev.hasPlace (s : Dev) (p : Place) : Bool := s.hasRing (p / 64)

/-- The package's own end of every ring in a twin pair: end A lies on package A (R38). -/
def Dev.ownEnd (s : Dev) : End := if s.fget SH_TWIN_STAT_ID = 0 then .a else .b

/-- This package holds the end of the rings. -/
def Dev.ownsEnd (s : Dev) (e : End) : Bool := !s.wide || decide (e = s.ownEnd)

/-- The ring die that holds an end of a ring (R38, R43). -/
def Dev.rdOfEnd (s : Dev) (r : Nat) (e : End) : Nat :=
  if s.wide then r / 66
  else match s.variant, e with
  | .chm8, .b => 1
  | _, _ => 0

/-- The local ring port of an end (R38). -/
def Dev.portOfEnd (s : Dev) (r : Nat) (e : End) : Nat :=
  if s.wide then r % 66
  else match s.variant, e with
  | .chm8, _ => r
  | _, .a => 2 * r
  | _, .b => 2 * r + 1

/-- The ring and end that a local port of a ring die serves (R38). -/
def Dev.endOfPort (s : Dev) (rd i : Nat) : Nat × End :=
  if s.wide then (66 * rd + i, s.ownEnd)
  else if Config.singleRd s.variant then (i / 2, if i % 2 = 0 then .a else .b)
  else (i, if rd = 0 then .a else .b)

/-- The die is powered and not fatal (R36). -/
def Dev.powered (s : Dev) (d : Nat) : Bool :=
  s.present d && s.fbit (GLB_DIE_PWR d) && !s.fbit (GLB_DIE_FATAL d) && !s.sh.clk.inReset

/-- The tally master (R31). -/
def Dev.master (s : Dev) : Nat := if s.sh.tly.masterB then 1 else 0

/-- The ring die whose registers answer for a ring, and the ring's index there (R112; log entry 40). -/
def Dev.ringRd (s : Dev) (r : Nat) : Nat :=
  if s.wide then r / 66
  else if !s.powered (4 + s.master) && s.powered (5 - s.master) then 1 - s.master
  else s.master
def Dev.ringIx (s : Dev) (r : Nat) : Nat := if s.wide then r % 66 else r

/-- A field of a ring's registers. -/
def Dev.rf (s : Dev) (f : Nat → Nat → Field) (r : Nat) : Field := f (s.ringRd r) (s.ringIx r)

/-- A ring register field written in every ring die that has the ring, which hold the same values (R112). -/
def Dev.rfset (s : Dev) (f : Nat → Nat → Field) (r v : Nat) : Dev :=
  if s.wide then s.fset (f (r / 66) (r % 66)) v
  else
    let s := s.fset (f 0 r) v
    if Config.singleRd s.variant then s else s.fset (f 1 r) v

/-- The die runs: it is powered and has come up (R644). -/
def Dev.running (s : Dev) (d : Nat) : Bool := s.powered d && decide (s.fget (GLB_DIE_STATE d) = 3)

/-- The place of the cell that holds a cell ID, if it was enumerated (R22, R129). -/
def Dev.placeOf (s : Dev) (id : Nat) : Option Place :=
  match (s.ring (id / 64)).cells.find? (fun e => decide (e.1 = id % 64)) with
  | some e => some (64 * (id / 64) + e.2.place)
  | none => none

/-- A ring is live: UP, SPLIT or CHAIN (R81). -/
def Dev.live (s : Dev) (r : Nat) : Bool := (s.ring r).up

/-- Cell IDs enumerated on live rings, in ascending order (R129, R304). R129 names rings that are UP or SPLIT; those of a ring in
    state CHAIN are counted too (log entry 114). -/
def Dev.enumerated (s : Dev) : List Nat :=
  (List.range s.ringCount).flatMap (fun r =>
    if s.live r then (List.range 64).filterMap (fun p =>
      if (s.ring r).cells.any (fun e => decide (e.1 = p)) then some (64 * r + p) else none) else [])

/-! ### Free values -/

/-- Draws a free value (log entry 4). -/
def Dev.free (s : Dev) : W64 × Dev := (Config.freeValue s.freeCtr, { s with freeCtr := s.freeCtr + 1 })

/-! ### Time (R450-R454) -/

/-- `RATE` in force, signed. -/
def Dev.rate (s : Dev) : Int := sx 32 (s.fget TIM_RATE_RATE)

/-- Corrected time of a raw count and offset, in 2^-40 ns. -/
def Dev.corr (s : Dev) (raw : W64) (ofs : Int) : Int := (raw.toNat : Int) * (2 ^ 40 + s.rate) + ofs

/-- Rounded to 1/256 ns (R450). -/
def corr256 (x : Int) : Int := (x + 2 ^ 31) / 2 ^ 32

/-- Station time on the master counter, whole nanoseconds. -/
def Dev.now (s : Dev) : W64 := BitVec.ofInt 64 (corr256 (s.corr s.sh.clk.raw s.sh.clk.ofs) / 256)

/-- TS40 of a raw count and offset (R454). -/
def Dev.ts40 (s : Dev) (raw : W64) (ofs : Int) : Nat := ux 40 (corr256 (s.corr raw ofs))

/-- The cycle's 16-bit sequence (R64). -/
def Dev.seq (s : Dev) : W16 := BitVec.ofNat 16 s.sh.clk.cyc

/-! ### Cycle settings in force (R66, R109) -/

def cfgPeriod (v : W64) : Nat := bitsOf v.toNat 0 14
def cfgStile (v : W64) : Nat := bitsOf v.toNat 16 14
def cfgApply (v : W64) : Nat := bitsOf v.toNat 32 14
def cfgEmit (v : W64) : Nat := bitsOf v.toNat 48 8
def Dev.period (s : Dev) : Nat := cfgPeriod s.sh.clk.cfgInForce
def Dev.stile (s : Dev) : Nat := cfgStile s.sh.clk.cfgInForce
def Dev.apply (s : Dev) : Nat := cfgApply s.sh.clk.cfgInForce

/-! ### Mode and role -/

def Dev.mode (s : Dev) : Nat := s.fget SH_MODE_CUR
/-- HUB, COMMISSION or BLOCK: the modes in which settings may change (R583). -/
def Dev.quiet (s : Dev) : Bool := decide (s.mode = 0) || decide (s.mode = 1) || decide (s.mode = 5)
def Dev.standby (s : Dev) : Bool := decide (s.role = 2)
/-- Mirror budget in blocks, header included, of a period in 10 ns (R318), and that of the period in force. -/
def mirBudget (period : Nat) : Nat := 128 * period / 100
def Dev.budget (s : Dev) : Nat := mirBudget s.period

/-- Lane states (R320, R347). -/
def Dev.lane (s : Dev) (d : Nat) : Nat := s.fget (SH_LANE_STAT_STATE d)
def Dev.counting (s : Dev) : List Nat := (List.range 4).filter (fun d => decide (s.lane d = 4))
def Dev.probing (s : Dev) : List Nat := (List.range 4).filter (fun d => decide (s.lane d = 3))

/-! ### Shepherd parts -/

def Dev.clk (s : Dev) (f : ShClk → ShClk) : Dev := { s with sh := { s.sh with clk := f s.sh.clk } }
def Dev.pin (s : Dev) (f : ShPin → ShPin) : Dev := { s with sh := { s.sh with pin := f s.sh.pin } }
def Dev.md (s : Dev) (f : ShMode → ShMode) : Dev := { s with sh := { s.sh with mode := f s.sh.mode } }
def Dev.flt (s : Dev) (f : ShFlt → ShFlt) : Dev := { s with sh := { s.sh with flt := f s.sh.flt } }
def Dev.vote (s : Dev) (f : ShVote → ShVote) : Dev := { s with sh := { s.sh with vote := f s.sh.vote } }
def Dev.tly (s : Dev) (f : ShTly → ShTly) : Dev := { s with sh := { s.sh with tly := f s.sh.tly } }
def Dev.img (s : Dev) (f : ShImg → ShImg) : Dev := { s with sh := { s.sh with img := f s.sh.img } }
def Dev.crk (s : Dev) (f : ShCrk → ShCrk) : Dev := { s with sh := { s.sh with crk := f s.sh.crk } }
def Dev.ldg (s : Dev) (f : ShLdg → ShLdg) : Dev := { s with sh := { s.sh with ldg := f s.sh.ldg } }
def Dev.safe (s : Dev) (f : ShSafe → ShSafe) : Dev := { s with sh := { s.sh with safe := f s.sh.safe } }
def Dev.rcd (s : Dev) (f : ShRec → ShRec) : Dev := { s with sh := { s.sh with rcd := f s.sh.rcd } }
def Dev.leg (s : Dev) (f : ShLeg → ShLeg) : Dev := { s with sh := { s.sh with leg := f s.sh.leg } }
def Dev.tw (s : Dev) (f : ShTw → ShTw) : Dev := { s with sh := { s.sh with tw := f s.sh.tw } }

/-! ### What the block sends and answers -/

def Dev.emit (s : Dev) (e : Emission) : Dev := { s with out := e :: s.out }
def Dev.answer (s : Dev) (l : List W64) : Dev := { s with rdata := l }

/-- Sends a vector's message if Bus Master Enable is 1 (R637); a masked vector's message waits (R653). -/
def Dev.msix (s : Dev) (v : Nat) : Dev :=
  if s.fbit (GLB_MSIX_CTL_MASK v) then s.fset ⟨GLB_MSIX_PBA, v, 1⟩ 1
  else if s.sh.pin.busMaster then s.emit (.msix v)
  else s

/-- Raises the cause of vector v (32-46): the message goes out when none of its cause bits was set (R652, R653). -/
def Dev.irq (s : Dev) (v : Nat) : Dev :=
  let f : Field := ⟨GLB_IRQ_STAT, v, 1⟩
  if s.fbit f then s else (s.fset f 1).msix v

/-- Raises the level crossing of FIFO f (R553, R652). -/
def Dev.fifoIrq (s : Dev) (f : Nat) : Dev :=
  let v := f % 32
  let was := s.fbit ⟨GLB_FIFO_IRQ, v, 1⟩ || s.fbit ⟨GLB_FIFO_IRQ, v + 32, 1⟩
  let s := s.fset ⟨GLB_FIFO_IRQ, f, 1⟩ 1
  if was then s else s.msix v

/-- A host write that the shepherd refuses (R646). -/
def Dev.refuseWr (s : Dev) (addr : Nat) : Dev := (s.finc SH_REFWR_COUNT).fset SH_REFWR_ADDR addr

/-! ### The event log and faults (R594-R596, R662) -/

/-- Source codes of R662. -/
inductive Src where
  | sram | dieState | stile | tally | mirror | port | txn | hop | ring | select | loop | sched | core | fifo | cell
  | input | twin | referee | crook | safety | fatal | mode | debug
  deriving DecidableEq, Repr

def Src.code : Src → Nat
  | .sram => 0x01
  | .dieState => 0x02
  | .stile => 0x03
  | .tally => 0x04
  | .mirror => 0x05
  | .port => 0x06
  | .txn => 0x07
  | .hop => 0x08
  | .ring => 0x09
  | .select => 0x0A
  | .loop => 0x0B
  | .sched => 0x0C
  | .core => 0x0D
  | .fifo => 0x0E
  | .cell => 0x0F
  | .input => 0x10
  | .twin => 0x11
  | .referee => 0x12
  | .crook => 0x13
  | .safety => 0x14
  | .fatal => 0x15
  | .mode => 0x16
  | .debug => 0x17

/-- Classes of R662: corrected, contained, fatal, information. -/
inductive Cls where
  | corr | cont | fatal | info
  deriving DecidableEq, Repr

def Cls.code : Cls → Nat
  | .corr => 0
  | .cont => 1
  | .fatal => 2
  | .info => 3

/-- Appends one event-log entry with the detail given (R662); the log keeps the last 65,536. -/
def Dev.logWith (s : Dev) (cls : Cls) (flags : Nat) (src : Src) (inst code dt : Nat) : Dev :=
  let n := s.fget SH_LOG_STAT_NEXT
  let e : BitVec 256 := BitVec.ofNat 256
    (n + s.now.toNat * 2 ^ 32 + (s.sh.clk.cyc % 65536) * 2 ^ 96 + (cls.code + flags) * 2 ^ 112 + src.code * 2 ^ 120
      + (inst % 65536) * 2 ^ 128 + (Config.logCode src.code code).toNat * 2 ^ 144 + dt * 2 ^ 160)
  let slot := fun (x : Nat × BitVec 256) => decide (x.1 % Config.logEntries = n % Config.logEntries)
  let unread := s.sh.flt.log.any (fun x => slot x &&
    decide (sx 32 (ux 32 ((x.1 : Int) - (s.fget SH_LOG_ACK_ACK : Int))) > 0))
  let s := s.flt (fun x => { x with log := Store.set (fun _ => 0) (x.log.filter (fun y => !slot y)) n e })
  let s := if unread then s.finc SH_LOG_STAT_LOST else s
  let s := s.fset SH_LOG_STAT_NEXT ((n + 1) % 2 ^ 32)
  match cls with
  | .cont => s.irq 32
  | .fatal => s.irq 32
  | _ => s.irq 33

/-- As `logWith`; of the details only a stopped task's is stated. -/
def Dev.logEntry (s : Dev) (cls : Cls) (flags : Nat) (src : Src) (inst code det : Nat) : Dev :=
  s.logWith cls flags src inst code (if src = .core then det % 2 ^ 96 else (Config.logDetail src.code code det).toNat)

/-- N and W in force, W in nanoseconds (R596, R635). -/
def Dev.fltN (s : Dev) : Nat := min (max (s.fget SH_FLT_CFG_N) 2) 15
def Dev.fltW (s : Dev) : Nat := min (max (s.fget SH_FLT_CFG_W) 10) 3600000 * 1000000

/-- The kind of instance an event of a source belongs to (R598), where a source has more than one: a lane or the package at the
    stile, a hop of the ring or a cell's own hop, a row of R623 or SAFE_STATE. -/
def Src.kind (src : Src) (code : Nat) : Nat :=
  match src with
  | .stile => b2n (decide (code = 2) || decide (code = 3))
  | .hop => b2n (decide (code = 4))
  | .safety => b2n (decide (code = 16))
  | _ => 0

/-- Counts an event of an instance: the times of its last events within this history, and whether it becomes lasting. -/
def Dev.history (s : Dev) (src inst : Nat) : Dev × Bool :=
  let h := s.sh.flt.hist
  let old := h.find? (fun e => decide (e.1 = src) && decide (e.2.1 = inst))
  let rest := h.filter (fun e => !(decide (e.1 = src) && decide (e.2.1 = inst)))
  let now := s.sh.clk.raw
  let times := match old with
    | some e => if e.2.2.2 = s.sh.clk.cyc + 1 then e.2.2.1 else now :: e.2.2.1
    | none => [now]
  let last := times.take s.fltN
  let lasting := decide (last.length = s.fltN) &&
    decide ((now.toNat : Int) - ((last.getLast?.getD now).toNat : Int) < s.fltW)
  let keep := if lasting then rest else (src, inst, last, s.sh.clk.cyc + 1) :: rest
  (s.flt (fun x => { x with hist := keep }), lasting)

/-- A detected fault of class corrected or contained (R594, R596): log entry, class count, and whether the instance has
    become lasting, which the caller answers with the fault map's lasting reaction (R598). -/
def Dev.event (s : Dev) (cls : Cls) (src : Src) (inst code det : Nat) : Dev × Bool :=
  let (s, lasting) := s.history src.code (inst + 65536 * src.kind code)
  let s := s.logEntry cls (if lasting then 4 else 0) src inst code det
  let s := match cls with
    | .corr => s.finc SH_FLT_STAT_CORR
    | .cont => s.finc SH_FLT_STAT_CONT
    | .fatal => s.finc SH_FLT_STAT_FATAL
    | .info => s
  (if lasting then s.finc SH_FLT_STAT_LAST else s, lasting)

/-- As `event`, for a source whose lasting entry has no further action. -/
def Dev.report (s : Dev) (cls : Cls) (src : Src) (inst code det : Nat) : Dev := (s.event cls src inst code det).1

/-- A log entry of class information (R662). -/
def Dev.info (s : Dev) (src : Src) (inst code det : Nat) : Dev := s.logEntry .info 0 src inst code det

end Sys2Proof.Machine
end

