-- ==== Sys2Proof/Machine/Arith.lean ====
section
/-!
DEFINITION. Arithmetic the spec fixes bit for bit: the Q3.28 operations of R173, binary32 under R366, binary64 for R566,
the integer square root of R189, and the CRC-32C of R495.
-/
namespace Sys2Proof.Machine

/-! ### Q3.28 (R10, R173) -/

def q28Max : Int := 0x7FFFFFFF
def q28Min : Int := -0x80000000

/-- Saturated to 32 bits. -/
def sat32 (x : Int) : Int := clampI x q28Min q28Max

/-- rnd(a × b): the exact product, plus half, shifted right by 28, saturated; ties toward +∞. -/
def qrnd (a b : Int) : Int := sat32 ((a * b + 2 ^ 27) / 2 ^ 28)

def qadd (a b : Int) : Int := sat32 (a + b)
def qsub (a b : Int) : Int := sat32 (a - b)

/-- clamp(x, lo, hi) := min(max(x, lo), hi), as R173 writes it. -/
def qclamp (x lo hi : Int) : Int := min (max x lo) hi

/-- The low 32 bits of a register as Q3.28 (R365). -/
def qOf (x : W64) : Int := sx 32 x.toNat

/-- A Q result sign-extended to 64 bits (R365). -/
def qTo (x : Int) : W64 := BitVec.ofInt 64 x

/-! ### Integer square root, rounded down (R189) -/

def isqrtFrom : Nat → Nat → Nat → Nat
  | 0, _, r => r
  | k + 1, n, r => isqrtFrom k n (if (r + 2 ^ k) * (r + 2 ^ k) ≤ n then r + 2 ^ k else r)

def isqrt (n : Nat) : Nat := isqrtFrom (Nat.log2 n / 2 + 1) n 0

/-! ### Binary floating point (R366) -/

/-- A value read from a floating-point word: NaN, an infinity, or (-1)^neg × m × 2^e. -/
inductive FpV where
  | nan
  | inf (neg : Bool)
  | fin (neg : Bool) (m : Nat) (e : Int)
  deriving DecidableEq, Repr

/-- A binary interchange format: significand bits, exponent bits. -/
structure Fmt where
  p : Nat
  w : Nat
  deriving DecidableEq, Repr

def f32 : Fmt := ⟨24, 8⟩
def f64 : Fmt := ⟨53, 11⟩

def Fmt.bias (f : Fmt) : Int := (2 ^ (f.w - 1) : Nat) - 1
/-- The quiet NaN; 0x7FC0_0000 in binary32. -/
def Fmt.qnan (f : Fmt) : Nat := (2 ^ f.w - 1) * 2 ^ (f.p - 1) + 2 ^ (f.p - 2)
def Fmt.infinity (f : Fmt) (neg : Bool) : Nat := b2n neg * 2 ^ (f.p + f.w - 1) + (2 ^ f.w - 1) * 2 ^ (f.p - 1)

/-- Reads a word; a subnormal operand is zero of the same sign (R366). -/
def Fmt.read (f : Fmt) (x : Nat) : FpV :=
  let frac := bitsOf x 0 (f.p - 1)
  let ex := bitsOf x (f.p - 1) f.w
  let neg := bitOf x (f.p + f.w - 1)
  if ex = 2 ^ f.w - 1 then (if frac = 0 then .inf neg else .nan)
  else if ex = 0 then .fin neg 0 0
  else .fin neg (frac + 2 ^ (f.p - 1)) ((ex : Int) - f.bias - ((f.p : Int) - 1))

/-- Rounds (-1)^neg × m × 2^e, plus something below when `sticky`, to nearest with ties to even with an unbounded
    exponent, then flushes a magnitude below the smallest normal to zero (R366). -/
def Fmt.pack (f : Fmt) (neg : Bool) (m : Nat) (e : Int) (sticky : Bool) : Nat :=
  let sgn := b2n neg * 2 ^ (f.p + f.w - 1)
  if m = 0 then sgn
  else
    let len := Nat.log2 m + 1
    let (q, ex) : Nat × Int :=
      if len ≤ f.p then (m * 2 ^ (f.p - len), e - ((f.p - len : Nat) : Int))
      else
        let sh := len - f.p
        let q := m / 2 ^ sh
        let r := m % 2 ^ sh
        let half := 2 ^ (sh - 1)
        let up := decide (half < r) || (decide (r = half) && (sticky || decide (q % 2 = 1)))
        let q := q + b2n up
        if q = 2 ^ f.p then (2 ^ (f.p - 1), e + (sh : Int) + 1) else (q, e + (sh : Int))
    let field := ex + ((f.p : Int) - 1) + f.bias
    if field ≤ 0 then sgn
    else if ((2 ^ f.w - 1 : Nat) : Int) ≤ field then f.infinity neg
    else sgn + field.toNat * 2 ^ (f.p - 1) + (q - 2 ^ (f.p - 1))

/-- Writes a value exactly known. -/
def Fmt.write (f : Fmt) : FpV → Nat
  | .nan => f.qnan
  | .inf neg => f.infinity neg
  | .fin neg m e => f.pack neg m e false

/-- The exact sum; the sum of zeros of unlike sign, and of equal magnitudes of unlike sign, is +0 (round to nearest). -/
def FpV.add : FpV → FpV → FpV
  | .nan, _ => .nan
  | _, .nan => .nan
  | .inf a, .inf b => if a = b then .inf a else .nan
  | .inf a, _ => .inf a
  | _, .inf b => .inf b
  | .fin a m e, .fin b n g =>
    let lo := min e g
    let x : Int := (m * 2 ^ (e - lo).toNat : Nat)
    let y : Int := (n * 2 ^ (g - lo).toNat : Nat)
    let z := (if a then -x else x) + (if b then -y else y)
    if z = 0 then .fin (a && b) 0 0 else .fin (decide (z < 0)) z.natAbs lo

def FpV.neg : FpV → FpV
  | .nan => .nan
  | .inf a => .inf (!a)
  | .fin a m e => .fin (!a) m e

def FpV.mul : FpV → FpV → FpV
  | .nan, _ => .nan
  | _, .nan => .nan
  | .inf a, .inf b => .inf (a != b)
  | .inf a, .fin b n _ => if n = 0 then .nan else .inf (a != b)
  | .fin a m _, .inf b => if m = 0 then .nan else .inf (a != b)
  | .fin a m e, .fin b n g => .fin (a != b) (m * n) (e + g)

def Fmt.add (f : Fmt) (a b : Nat) : Nat := f.write ((f.read a).add (f.read b))
def Fmt.sub (f : Fmt) (a b : Nat) : Nat := f.write ((f.read a).add (f.read b).neg)
def Fmt.mul (f : Fmt) (a b : Nat) : Nat := f.write ((f.read a).mul (f.read b))

def Fmt.div (f : Fmt) (a b : Nat) : Nat :=
  match f.read a, f.read b with
  | .nan, _ => f.qnan
  | _, .nan => f.qnan
  | .inf _, .inf _ => f.qnan
  | .inf s, .fin t _ _ => f.infinity (s != t)
  | .fin s _ _, .inf t => f.pack (s != t) 0 0 false
  | .fin s m e, .fin t n g =>
    if n = 0 then (if m = 0 then f.qnan else f.infinity (s != t))
    else
      let k := 2 * f.p + 8
      f.pack (s != t) (m * 2 ^ k / n) (e - g - (k : Int)) (decide (m * 2 ^ k % n ≠ 0))

def Fmt.sqrt (f : Fmt) (a : Nat) : Nat :=
  match f.read a with
  | .nan => f.qnan
  | .inf true => f.qnan
  | .inf false => f.infinity false
  | .fin s m e =>
    if m = 0 then f.pack s 0 0 false
    else if s then f.qnan
    else
      let m2 := if e % 2 = 0 then m else 2 * m
      let e2 := if e % 2 = 0 then e else e - 1
      let k := 2 * f.p + 8
      let n := m2 * 2 ^ (2 * k)
      let r := isqrt n
      f.pack false r (e2 / 2 - (k : Int)) (decide (r * r ≠ n))

/-- a < b; false with a NaN (R375). -/
def Fmt.lt (f : Fmt) (a b : Nat) : Bool :=
  match f.read a, f.read b with
  | .nan, _ => false
  | _, .nan => false
  | .inf s, .inf t => s && !t
  | .inf s, .fin _ _ _ => s
  | .fin _ _ _, .inf t => !t
  | .fin s m e, .fin t n g =>
    let lo := min e g
    let x : Int := (m * 2 ^ (e - lo).toNat : Nat)
    let y : Int := (n * 2 ^ (g - lo).toNat : Nat)
    decide ((if s then -x else x) < (if t then -y else y))

def Fmt.isNan (f : Fmt) (a : Nat) : Bool := decide (f.read a = .nan)

/-- a = b; false with a NaN (R375). -/
def Fmt.eq (f : Fmt) (a b : Nat) : Bool := !f.isNan a && !f.isNan b && !f.lt a b && !f.lt b a

/-- An operand as a result: subnormals flushed, NaN canonical. -/
def Fmt.canon (f : Fmt) (a : Nat) : Nat := f.write (f.read a)

/-- FMIN and FMAX (R375): -0 below +0; a NaN yields the other operand. -/
def Fmt.minmax (f : Fmt) (mx : Bool) (a b : Nat) : Nat :=
  let ca := f.canon a
  let cb := f.canon b
  if f.isNan a then cb
  else if f.isNan b then ca
  else if f.lt a b then (if mx then cb else ca)
  else if f.lt b a then (if mx then ca else cb)
  else if bitOf ca (f.p + f.w - 1) = mx then cb else ca

/-- |a|. -/
def Fmt.abs (f : Fmt) (a : Nat) : Nat := bitsOf a 0 (f.p + f.w - 1)

/-- The value times 2^k × c, rounded to the nearest integer with ties away from zero; infinities by the limit of their
    sign, NaN by `nanV`; limited to lo..hi (R273, R375). -/
def Fmt.toIntAway (f : Fmt) (a : Nat) (c : Nat) (k : Int) (lo hi nanV : Int) : Int :=
  match f.read a with
  | .nan => nanV
  | .inf s => if s then lo else hi
  | .fin s m e =>
    let x := m * c
    let g := e + k
    let v : Nat := if 0 ≤ g then x * 2 ^ (min g.toNat 4096) else (x + 2 ^ ((-g).toNat - 1)) / 2 ^ (-g).toNat
    clampI (if s then -(v : Int) else v) lo hi

/-- Truncated toward zero and limited (FCVTFI). -/
def Fmt.toIntTrunc (f : Fmt) (a : Nat) (lo hi : Int) : Int :=
  match f.read a with
  | .nan => 0
  | .inf s => if s then lo else hi
  | .fin s m e =>
    let v : Nat := if 0 ≤ e then m * 2 ^ (min e.toNat 4096) else m / 2 ^ (-e).toNat
    clampI (if s then -(v : Int) else v) lo hi

/-- The integer x × 2^k rounded into the format. -/
def Fmt.ofInt (f : Fmt) (x : Int) (k : Int) : Nat := f.pack (decide (x < 0)) x.natAbs k false

/-- A ratio of naturals rounded into the format. -/
def Fmt.ofRatio (f : Fmt) (neg : Bool) (a b : Nat) : Nat :=
  if b = 0 then f.qnan else f.pack neg (a * 2 ^ 160 / b) (-160) (decide (a * 2 ^ 160 % b ≠ 0))

/-! ### Cosine and tangent of whole degrees (R207) -/

/-- The alternating series of cosine (from k = 0, t = 1) and sine (from k = 1, t = x), in units of 2^-120. -/
def trigSum (x : Nat) : Nat → Nat → Nat → Int
  | 0, _, _ => 0
  | n + 1, k, t => t - trigSum x n (k + 2) (t * x / 2 ^ 120 * x / 2 ^ 120 / ((k + 1) * (k + 2)))

/-- An angle in degrees, below 90, in units of 2^-120 rad. -/
def degFix (deg : Nat) : Nat := deg * 4175892906503776358826876457663557747 / 180

def cosFix (deg : Nat) : Nat := (trigSum (degFix deg) 24 0 (2 ^ 120)).toNat
def sinFix (deg : Nat) : Nat := (trigSum (degFix deg) 24 1 (degFix deg)).toNat

/-- A number x in units of 2^-120 as FP32, the neighbour above it if `up`; within 2^-60 of an FP32 number it is that one. -/
def fixWord (x : Nat) (up : Bool) : Nat :=
  let sh := Nat.log2 x + 1 - 24
  let r := x % 2 ^ sh
  let q := x / 2 ^ sh
  let q := if r < 2 ^ 60 then q else if 2 ^ sh < r + 2 ^ 60 ∨ up then q + 1 else q
  f32.pack false q ((sh : Int) - 120) false

def cosDeg (deg : Nat) : Nat := fixWord (cosFix deg) (Config.trigUp false deg)
def tanDeg (deg : Nat) : Nat := fixWord (sinFix deg * 2 ^ 120 / cosFix deg) (Config.trigUp true deg)

/-- Binary32 to binary64, exact, and back, rounded. -/
def f32to64 (a : Nat) : Nat := f64.write (f32.read a)
def f64to32 (a : Nat) : Nat := f32.write (f64.read a)

/-! ### CRC-32C (R495): reflected, initial value and final XOR 0xFFFF_FFFF -/

def crcBit : Nat → Nat → Nat
  | 0, c => c
  | n + 1, c => crcBit n (if c % 2 = 1 then (c / 2) ^^^ 0x82F63B78 else c / 2)

def crcByte (c : Nat) (b : Byte) : Nat := crcBit 8 (c ^^^ b.toNat)

def crc32c (l : List Byte) : W32 := BitVec.ofNat 32 (l.foldl crcByte 0xFFFFFFFF ^^^ 0xFFFFFFFF)

end Sys2Proof.Machine
end

