-- ==== Sys2Proof/Machine/RegAcc.lean ====
section
/-!
DEFINITION. Reading package registers (R13-R17, R36, R641): what each register returns, with the fields that report other
state computed from it, and what a read takes with it (RC, RP). Writing the plain access types of R13.
-/
namespace Sys2Proof.Machine

/-! ### Stores inside a die -/

def CtrlDie.core (x : CtrlDie) (c : Nat) : Core := Store.get (fun _ => Core.idle) x.cores c
def CtrlDie.setCore (x : CtrlDie) (c : Nat) (k : Core) : CtrlDie :=
  { x with cores := Store.set (fun _ => Core.idle) x.cores c k }
def CtrlDie.modCore (x : CtrlDie) (c : Nat) (f : Core → Core) : CtrlDie := x.setCore c (f (x.core c))

def CtrlDie.task (x : CtrlDie) (t : Nat) : Task := Store.get (fun _ => Task.empty) x.tasks t
def CtrlDie.setTask (x : CtrlDie) (t : Nat) (k : Task) : CtrlDie :=
  { x with tasks := Store.set (fun _ => Task.empty) x.tasks t k }
def CtrlDie.modTask (x : CtrlDie) (t : Nat) (f : Task → Task) : CtrlDie := x.setTask t (f (x.task t))

def CtrlDie.mbox (x : CtrlDie) (m : Nat) : Mbox := Store.get (fun _ => Mbox.off) x.mboxes m
def CtrlDie.setMbox (x : CtrlDie) (m : Nat) (b : Mbox) : CtrlDie :=
  { x with mboxes := Store.set (fun _ => Mbox.off) x.mboxes m b }

def CtrlDie.lock (x : CtrlDie) (l : Nat) : HwLock := Store.get (fun _ => HwLock.off) x.locks l
def CtrlDie.setLock (x : CtrlDie) (l : Nat) (b : HwLock) : CtrlDie :=
  { x with locks := Store.set (fun _ => HwLock.off) x.locks l b }

/-- A word of the loop engine's store (R171, R191): 32 s + w of slot s, 8192 + 16 p + w of generator p. -/
def CtrlDie.leWord (x : CtrlDie) (i : Nat) : W32 := Store.get (fun _ => 0) x.le i

/-- Slot s extends the state-space slot before it (R172). -/
def CtrlDie.leExt (x : CtrlDie) (s : Nat) : Bool :=
  decide (s % 2 = 1) && decide (bitsOf (x.leWord (32 * (s - 1))).toNat 28 3 = 5)

/-- The last of the words from 11 on that a type uses (R172). -/
def lastWord (ty : Nat) : Nat :=
  match ty with
  | 0 => 14
  | 1 => 18
  | 2 => 31
  | 3 => 20
  | 4 => 19
  | 5 => 31
  | _ => 10

/-- A word of a slot's descriptor that its type, or the slot it extends, gives a meaning. -/
def CtrlDie.leListed (x : CtrlDie) (s w : Nat) : Bool :=
  decide (w < 11) || (!x.leExt s && decide (w ≤ lastWord (bitsOf (x.leWord (32 * s)).toNat 28 3)))

/-- A word as a read returns it: a reserved word of a descriptor reads as zero (R16). -/
def CtrlDie.leShown (x : CtrlDie) (i : Nat) : W32 := if i < 8192 ∧ ¬ x.leListed (i / 32) (i % 32) then 0 else x.leWord i
def CtrlDie.setLe (x : CtrlDie) (i : Nat) (v : W32) : CtrlDie := { x with le := Store.set (fun _ => 0) x.le i v }

def RingDie.fifo (x : RingDie) (f : Nat) : Fifo := Store.get (fun _ => Fifo.empty) x.fifos f
def RingDie.setFifo (x : RingDie) (f : Nat) (q : Fifo) : RingDie :=
  { x with fifos := Store.set (fun _ => Fifo.empty) x.fifos f q }
def RingDie.sp (x : RingDie) (i : Nat) : SpTx := Store.get (fun _ => SpTx.empty) x.tx i
def RingDie.setSp (x : RingDie) (i : Nat) (q : SpTx) : RingDie :=
  { x with tx := Store.set (fun _ => SpTx.empty) x.tx i q }

/-! ### Scheduler values the registers report (R411, R423, R446-R448) -/

/-- The locks a task holds. -/
def CtrlDie.held (x : CtrlDie) (t : Nat) : List Nat :=
  (x.locks.filter (fun e => decide (e.2.holder = some t))).map (fun e => e.1)

/-- Effective priority (R423). -/
def CtrlDie.pri (x : CtrlDie) (t : Nat) : Nat :=
  (x.held t).foldl (fun a l => max a (x.lock l).ceil) (x.task t).base

/-- Unreserved slots of the voted pool, free slots of the other (R411, R432). -/
def CtrlDie.vfree (x : CtrlDie) : Nat :=
  4096 - (x.mboxes.filter (fun e => decide (e.1 < 128))).foldl (fun a e => a + e.2.depth) 0
def CtrlDie.nfree (x : CtrlDie) : Nat :=
  4096 - (x.mboxes.filter (fun e => decide (128 ≤ e.1))).foldl (fun a e => a + e.2.msgs.length) 0

def TState.code : TState → Nat
  | .free => 0
  | .dormant => 1
  | .waitCyc => 2
  | .ready => 3
  | .running => 4
  | .waitMbox => 5
  | .waitLock => 6
  | .waitDelay => 7
  | .waitTag => 8
  | .halted => 9

/-- Bits from (lowest bit, width, value) items. -/
def pack (l : List (Nat × Nat × Nat)) : W64 :=
  BitVec.ofNat 64 (l.foldl (fun a e => a ||| ((e.2.2 % 2 ^ e.2.1) * 2 ^ e.1)) 0)

/-- Word w of `SCH_TASK(t)` (R448). -/
def CtrlDie.taskWord (x : CtrlDie) (t w : Nat) : W64 :=
  let k := x.task t
  if k.state = .free then 0
  else match w with
  | 0 => pack [(60, 4, k.state.code), (56, 4, k.hstate.code), (52, 4, k.part), (46, 6, x.pri t), (40, 6, k.base),
      (34, 6, k.ppend.getD 0), (33, 1, b2n k.ppend.isSome), (32, 1, b2n k.cb), (29, 3, k.phase), (21, 8, k.cdiv),
      (13, 8, k.cph), (9, 4, k.core), (0, 9, k.wobj)]
  | 1 => pack [(32, 32, k.pc.toNat), (0, 32, k.entry.toNat)]
  | 2 => pack [(32, 32, k.splim.toNat), (0, 32, k.spbase.toNat)]
  | 3 => pack [(32, 32, k.spptr.toNat)]
  | 4 => pack [(32, 32, k.g8.toNat), (0, 32, k.g7.toNat)]
  | 5 => k.lset
  | 6 => pack [(16, 48, k.wake)]
  | _ => pack [(32, 32, k.ovr.toNat), (0, 32, k.actcnt.toNat)]

def CtrlDie.mboxWord (x : CtrlDie) (m : Nat) : W64 :=
  let b := x.mbox m
  pack [(63, 1, b2n b.en), (59, 4, b.part), (46, 13, b.depth), (33, 13, b.msgs.length), (24, 9, b.prod), (15, 9, b.cons),
    (0, 15, b.full)]

def CtrlDie.lockWord (x : CtrlDie) (l : Nat) : W64 :=
  let b := x.lock l
  pack [(63, 1, b2n b.en), (59, 4, b.part), (58, 1, b2n b.holder.isSome), (57, 1, b2n b.broken), (51, 6, b.ceil),
    (42, 9, b.holder.getD 0), (33, 9, b.waiters.length)]

/-! ### Streams (R542) -/

/-- e of a stream in entries per ms as a numerator over `PERIOD` × D, by the input's index (0 AIN0 or an AQ input). -/
def streamE (period ain : Nat) (q : Stream) : Nat × Nat :=
  if q.mode = 3 then (1, 1)
  else if ain = 0 then (100000, period * q.d)
  else (period / 100 * 100000, period * q.d)

/-- The input index that R542 distinguishes, from an index of `RDn_HUB_RT`. -/
def streamAin (i : Nat) : Nat := if i < 67584 then i % 8 else 0

def Dev.stream (s : Dev) (i : Nat) : Option Stream := Store.get (fun _ => none) s.streams i
def Dev.setStream (s : Dev) (i : Nat) (q : Option Stream) : Dev :=
  { s with streams := Store.set (fun _ => none) s.streams i q }

def Dev.streamWord (s : Dev) (i : Nat) : W64 :=
  match s.stream i with
  | none => 0
  | some q =>
    let e := streamE s.period (streamAin i) q
    pack [(63, 1, 1), (62, 1, b2n q.susp), (56, 6, q.fifo), (0, 32, e.1 * 65536 / max e.2 1)]

/-! ### What a register returns -/

/-- The number of a journal record (R589). -/
def JRec.num (r : JRec) : Nat := bitsOf r.toNat 0 24

/-- The index of the die whose window holds the address; 8 when no die's. -/
def winDie (a : Nat) : Nat :=
  if a < 0x200000 then 7
  else if a < 0x300000 then 4
  else if a < 0x400000 then 5
  else if a < 0x500000 then 6
  else if a < 0x800000 then 8
  else if a < 0x1000000 then (a - 0x800000) / 0x200000
  else if a < 0x3000000 then 7
  else 8

/-- Registers of a ring die's window that the variant lacks: those of rings 33-65 in a single-RD variant (R112, R525, R571), and
    those of FIFOs 32-63 in a ring die of a CHM-8 (R571). -/
def Dev.lacks (s : Dev) (a : Nat) : Bool :=
  let o := (a - 0x200000) % 0x100000
  decide (winDie a = 4 ∨ winDie a = 5) &&
    (if Config.singleRd s.variant then
      [0x10000, 0x10400, 0x10800, 0x10C00, 0x11000, 0x11400, 0x50100].any (fun b =>
        decide (b + 8 * 33 ≤ o) && decide (o < b + 8 * 66))
    else decide (0x40400 ≤ o) && decide (o < 0x40800))

/-- Start-up step 4 failed: the host reads identity and journal only (R584), taken as `GLB_ID`, `GLB_SER` and the boot registers
    (log entry 100). -/
def Dev.bootStuck (s : Dev) (a : Nat) : Bool :=
  s.fbit ⟨SH_BOOT_STAT, SH_BOOT_STAT_FAIL.lo + 3, 1⟩ && decide (GLB_SER < a) && !(decide (SH_BOOT_STAT ≤ a) && decide (a < SH_BOOT_JDAT 8))

/-- The address answers (R17, R36). The shepherd's own windows always do; a ring die's answer once it is powered. -/
def Dev.winUp (s : Dev) (a : Nat) : Bool :=
  let d := winDie a
  !s.bootStuck a && (if d = 7 then true else if d = 8 then false else s.powered d && !s.lacks a)

/-- `LE_STAT.KICKED`, `SCH_*` and the loop engine's descriptor words: offset o of control die d. -/
def Dev.cdView (s : Dev) (d o : Nat) (stored : W64) : W64 :=
  let x := s.cd d
  if 0x60000 ≤ o ∧ o < 0x69000 then
    let i := (o - 0x60000) / 4
    pack [(0, 32, (x.leShown i).toNat), (32, 32, (x.leShown (i + 1)).toNat)]
  else if 0x80000 ≤ o ∧ o < 0x88000 then x.taskWord ((o - 0x80000) / 64) ((o - 0x80000) % 64 / 8)
  else if 0x71000 ≤ o ∧ o < 0x71800 then x.mboxWord ((o - 0x71000) / 8)
  else if 0x71800 ≤ o ∧ o < 0x71A00 then x.lockWord ((o - 0x71800) / 8)
  else if o = 0x70018 then pack [(16, 13, x.vfree), (0, 13, x.nfree)]
  else if 0x70040 ≤ o ∧ o < 0x700C0 then
    let k := x.core ((o - 0x70040) / 8)
    pack [(63, 1, b2n k.halted), (62, 1, b2n k.task.isNone), (32, 9, k.last), (0, 32, stored.toNat)]
  else if o = 0x7F000 then (s.sh.leg.legQ.take s.sh.leg.legVis).head?.getD 0
  else stored

def Dev.rdView (s : Dev) (n o : Nat) (stored : W64) : W64 :=
  let x := s.rd n
  if 0x60000 ≤ o ∧ o < 0x60000 + 8 * 67776 then (if n = s.master then s.streamWord ((o - 0x60000) / 8) else 0)
  else if 0x40000 ≤ o ∧ o < 0x40800 ∧ (o - 0x40000) % 32 = 16 then
    let q := x.fifo ((o - 0x40000) / 32)
    pack [(16, 15, Config.fifoWords - q.words.length), (0, 15, q.visible)]
  else if 0x31010 ≤ o ∧ o < 0x31080 ∧ (o - 0x31000) % 32 = 16 then
    let q := x.sp ((o - 0x31000) / 32)
    match q.stamps with
    | [] => 0
    | st :: _ => st ||| pack [(63, 1, 1), (62, 1, b2n q.lost)]
  else if 0x31018 ≤ o ∧ o < 0x31080 ∧ (o - 0x31000) % 32 = 24 then
    (stored &&& ~~~(pack [(0, 10, 0x3FF)])) ||| pack [(0, 10, Config.txWords - (x.sp ((o - 0x31000) / 32)).words.length)]
  else stored

/-- The journal record that `SH_BOOT_JIDX` names, if it is held (R591). -/
def Dev.journalRec (s : Dev) : Option JRec :=
  s.nv.journal.find? (fun r => decide (r.num = s.fget SH_BOOT_JIDX_NUM))

def Dev.glbView (s : Dev) (a : Nat) (stored : W64) : W64 :=
  if a = GLB_ID then BitVec.ofNat 64 (stored.toNat + Config.deviceId s.variant * 2 ^ 32)
  else if a = GLB_STRAP then
    pack [(3, 1, b2n s.sh.pin.debugEn), (2, 1, b2n s.sh.pin.strapRef), (0, 2, s.sh.pin.rline.toNat)]
  else if a = GLB_HOST then stored ||| pack [(16, 4, 2 ^ Config.hostLanes.val), (12, 4, if Config.hostFast then 2 else 1)]
  else if GLB_DIE 0 ≤ a ∧ a < GLB_DIE 8 then
    let d := (a - GLB_DIE 0) / 8
    stored ||| pack [(63, 1, b2n (s.present d)), (48, 8, if s.present d then Config.stepB0 else 0)]
  else if a = TIM_RAW then s.sh.clk.raw
  else if a = TIM_NOW then s.now
  else if a = TIM_NOW40 then BitVec.ofNat 64 (s.ts40 s.sh.clk.raw s.sh.clk.ofs)
  else if a = SH_LEGQ_STAT then stored ||| pack [(0, 13, s.sh.leg.legVis)]
  else if a = SH_BOOT_CFG then pack [(0, 1, b2n s.nv.pref)]
  else if a = SH_BOOT_STAT then stored ||| pack [(0, 24, s.nv.start)]
  else if SH_BOOT_JDAT 0 ≤ a ∧ a < SH_BOOT_JDAT 8 then
    match s.journalRec with
    | some r => BitVec.ofNat 64 (bitsOf r.toNat (8 * (a - SH_BOOT_JDAT 0)) 64)
    | none => 0
  else if a = SH_SAFE_STAT then
    (stored &&& ~~~(pack [(53, 3, 7)])) ||| pack [(54, 2, s.sh.pin.safeReq.toNat), (53, 1, b2n s.nv.confd)]
  else if a = SH_SAFE_CHK then stored ||| pack [(0, 32, s.nv.chk.toNat)]
  else if SH_LOG_DAT 0 ≤ a ∧ a < SH_LOG_DAT 4 then
    BitVec.ofNat 64 (bitsOf (Store.get (fun _ => 0) s.sh.flt.log (s.fget SH_LOG_IDX_NUM)).toNat
      (8 * (a - SH_LOG_DAT 0)) 64)
  else stored

/-- Age of the ratio in whole microseconds, saturated (R279). -/
def ConvSt.age (cv : ConvSt) (time : Nat) : Nat :=
  if cv.accepted then min ((time - cv.refAt) / 1000) 0xFFFF else 0xFFFF

/-- The AQ's local station time, whole nanoseconds. -/
def Dev.aqNow (s : Dev) : Nat := ux 64 (corr256 (s.corr s.aq.raw s.aq.ofs) / 256)

/-- `AQ_REF.AGE` (R279). -/
def Dev.aqView (s : Dev) (o : Nat) (stored : W64) : W64 :=
  if 0x200 ≤ o ∧ o < 0x380 then
    let v := (o - 0x200) / 8
    let cv := Store.get (fun _ => ConvSt.reset) s.aq.conv v
    (stored &&& ~~~(pack [(16, 16, 0xFFFF)])) ||| pack [(16, 16, cv.age s.aqNow)]
  else stored

/-- The value a read of a package register returns, by BAR0 address (R641). -/
def Dev.view (s : Dev) (a : Nat) : W64 :=
  if !s.winUp a then 0
  else
    let v := s.rget a
    let stored := match pkgRowAt a with
      | some row => v &&& ~~~(BitVec.ofNat 64 row.wo)
      | none => v
    if 0x800000 ≤ a ∧ a < 0x1000000 then s.cdView ((a - 0x800000) / 0x200000) ((a - 0x800000) % 0x200000) stored
    else if 0x200000 ≤ a ∧ a < 0x400000 then s.rdView ((a - 0x200000) / 0x100000) ((a - 0x200000) % 0x100000) stored
    else if 0x400000 ≤ a ∧ a < 0x500000 then s.aqView (a - 0x400000) stored
    else if a < 0x200000 then s.glbView a stored
    else stored

/-! ### What a read takes with it -/

/-- Takes the head of the legacy queue (R569). -/
def Dev.legPop (s : Dev) : Dev :=
  if s.sh.leg.legVis = 0 then s
  else s.leg (fun x => { x with legQ := x.legQ.tail, legVis := x.legVis - 1 })

/-- Takes the head stamp of a station port (R656). -/
def Dev.stampPop (s : Dev) (n i : Nat) : Dev :=
  s.modRd n (fun x =>
    let q := x.sp i
    match q.stamps with
    | [] => x
    | _ :: rest => x.setSp i { q with stamps := rest, lost := false })

/-- The effect of a read of an RC or RP register (R13, R15). -/
def Dev.readEffect (s : Dev) (a : Nat) : Dev :=
  if !s.winUp a then s
  else
    let o := (a - 0x800000) % 0x200000
    let d := (a - 0x800000) / 0x200000
    if 0x800000 ≤ a ∧ a < 0x1000000 ∧ o = 0x7F000 then s.legPop
    else if 0x800000 ≤ a ∧ a < 0x1000000 ∧ 0x71000 ≤ o ∧ o < 0x71800 then
      s.modCd d (fun x => x.setMbox ((o - 0x71000) / 8) { x.mbox ((o - 0x71000) / 8) with full := 0 })
    else if 0x200000 ≤ a ∧ a < 0x400000 ∧ 0x31010 ≤ (a - 0x200000) % 0x100000 ∧ (a - 0x200000) % 0x100000 < 0x31080
        ∧ ((a - 0x200000) % 0x100000 - 0x31000) % 32 = 16 then
      s.stampPop ((a - 0x200000) / 0x100000) (((a - 0x200000) % 0x100000 - 0x31000) / 32)
    else match pkgRowAt a with
    | some row => if row.rc = 0 then s else s.rset a (s.rget a &&& ~~~(BitVec.ofNat 64 row.rc))
    | none => s

/-- What the lanes of a ring die did that no row of the table says (R492, R500, R501, R525; log entry 104): the pattern errors
    of a port in test, a clock recovered from data at a locked port, wrong `SYNC` fields, and code errors of a station port
    are free values as the register that shows them is read. -/
def Dev.lineSeen (s : Dev) (a : Nat) : Dev :=
  let n := (a - 0x200000) / 0x100000
  let o := (a - 0x200000) % 0x100000
  let (w, t) := s.free
  if !s.winUp a || decide (a < 0x200000) || decide (0x400000 ≤ a) then s
  else if 0x30000 ≤ o ∧ o < 0x30840 then
    let i := (o - 0x30000) / 32
    if o % 32 = 8 then
      if s.fget (RDn_RP_STAT_STATE n i) = 6 then t.fadd (RDn_RP_STAT_PERR n i) (w.toNat % 2 ^ 32)
      else if s.fbit (RDn_RP_STAT_LOCK n i) then t.fset (RDn_RP_STAT_REGEN n i) (w.toNat % 2)
      else s.fset (RDn_RP_STAT_REGEN n i) 0
    else if o % 32 = 16 then t.fadd (RDn_RP_ERR_SYNC n i) (w.toNat % 2 ^ 16)
    else s
  else if 0x31000 ≤ o ∧ o < 0x31080 ∧ o % 32 = 0 then t.fadd (RDn_SP_ERR_CODE n ((o - 0x31000) / 32)) (w.toNat % 2 ^ 16)
  else s

/-- A register read: the value, and the block after it. With the peek attribute nothing changes (R13). -/
def Dev.readReg (s : Dev) (a : Nat) (peek : Bool) : W64 × Dev :=
  if peek then (s.view a, s)
  else
    let s := s.lineSeen a
    (s.view a, s.readEffect a)

/-! ### Plain writes (R13) -/

/-- A write that acts on the RW and W1C bits of a register and on nothing else; other bits keep their values. -/
def Dev.plainWrite (s : Dev) (a : Nat) (v : W64) : Dev :=
  match pkgRowAt a with
  | none => s
  | some row =>
    if !s.winUp a then s
    else
      let old := s.rget a
      let m := BitVec.ofNat 64 row.rw
      let c := BitVec.ofNat 64 row.w1c
      s.rset a (((old &&& ~~~m) ||| (v &&& m)) &&& ~~~(v &&& c))

end Sys2Proof.Machine
end

