-- ==== Sys2Proof/Machine/Lane.lean ====
section
/-!
DEFINITION. Lane states and stile inputs (R320-R323, R347): the transitions other families share.
-/
namespace Sys2Proof.Machine

/-- Stile inputs no lane holds (R321, R323). -/
def Dev.freeInputs (s : Dev) : List Nat :=
  (List.range 3).filter (fun i => (List.range 4).all (fun d => decide (s.fget (SH_LANE_STAT_INPUT d) ≠ i)))

/-- HURDLE_OUT of a standalone package: low while the gates of all stile inputs are open (R323, log entry 15). In a twin pair it
    carries duty (R332) and stays as it is. -/
def Dev.hurdleStandalone (s : Dev) : Dev :=
  if s.twin then s else s.pin (fun x => { x with hurdleOut := decide (3 ≤ s.sh.vote.gateOf.length) })

/-- Closes the gate of die d and frees its stile input (R323). -/
def Dev.closeGate (s : Dev) (d : Nat) : Dev :=
  ((s.fset (SH_LANE_STAT_INPUT d) 3).vote (fun x =>
    { x with gateOf := Store.erase x.gateOf d, gateFrom := Store.erase x.gateFrom d })).hurdleStandalone

/-- Lane d leaves the vote for the state `st`: gate closed, probation count zero (R320). -/
def Dev.laneLeave (s : Dev) (d st : Nat) : Dev :=
  ((s.fset (SH_LANE_STAT_STATE d) st).fset (SH_LANE_STAT_PCNT d) 0).closeGate d

/-- A lane at the counting window is RETIRED; only COUNTING and PROBATION lanes are (R312, R320). -/
def Dev.retireLane (s : Dev) (d : Nat) : Dev :=
  if s.lane d = 3 ∨ s.lane d = 4 then s.laneLeave d 5 else s

/-- A planned retirement of lane d would be refused (R322). -/
def Dev.retireRefused (s : Dev) : Bool :=
  (decide (s.mode = 2) || decide (s.mode = 3) || decide (s.mode = 4)) && decide (s.counting.length ≤ 2)

/-- Planned retirement of a counting lane: to OUT (R322). -/
def Dev.planned (s : Dev) (d : Nat) : Dev := s.laneLeave d 1

/-- A lane whose die has no power is OFF, its gate closed (R320). -/
def Dev.laneOff (s : Dev) (d : Nat) : Dev :=
  if d < 4 ∧ s.lane d ≠ 0 then s.laneLeave d 0 else s

/-- A die that has gone fatal is OFF from the next cycle (R36, R601). -/
def Dev.offT0 (s : Dev) : Dev := forAll (List.range 4) s (fun s d => if s.powered d then s else s.laneOff d)

end Sys2Proof.Machine
end

