-- ==== Sys2Proof/Machine/Sched.lean ====
section
/-!
DEFINITION. The scheduler's shared operations (R409-R443) and the call windows (R352-R358): windows spilled and filled,
a task stopped, freed, woken, activated, dispatched and preempted, locks released, voted phases ended, ready tasks placed.
-/
namespace Sys2Proof.Machine

/-! ### Data SRAM as the cores' hardware writes it -/

/-- Cores whose running task has a sequence that touches the line lose it when another core stores there (R380). -/
def CtrlDie.breakSeqs (x : CtrlDie) (c line : Nat) : CtrlDie :=
  x.cores.foldl (fun y e =>
    if e.1 = c then y
    else match e.2.task with
    | none => y
    | some t =>
      match (y.task t).seq with
      | none => y
      | some q => if line ∈ q.lines then y.modTask t (fun k => { k with seq := some { q with broken := true } }) else y) x

/-- n bytes stored at a by core c; a store of a whole word leaves no ECC error in it. -/
def CtrlDie.poke (x : CtrlDie) (c a n v : Nat) : CtrlDie :=
  let ecc := if n = 8 ∧ a % 8 = 0 then Store.erase x.ecc a else x.ecc
  ({ x with dmem := x.dmem.writeLE a n v, ecc := ecc }).breakSeqs c (a / 64)

/-- Words stored from a on, 8 bytes each. -/
def CtrlDie.pokeWords (x : CtrlDie) (c a : Nat) : List W64 → CtrlDie
  | [] => x
  | v :: vs => CtrlDie.pokeWords (x.poke c a 8 v.toNat) c (a + 8) vs

def CtrlDie.peekWords (x : CtrlDie) (a : Nat) : Nat → List W64
  | 0 => []
  | n + 1 => BitVec.ofNat 64 (x.dmem.readLE a 8) :: CtrlDie.peekWords x (a + 8) n

/-- Another core's exclusive attempt holds the line (R380). -/
def CtrlDie.lineHeld (x : CtrlDie) (c line : Nat) : Bool :=
  x.cores.any (fun e => decide (e.1 ≠ c) &&
    (match e.2.task with
     | none => false
     | some t =>
       match (x.task t).seq with
       | none => false
       | some q => decide (4 ≤ q.fails) && decide (line ∈ q.lines)))

/-- Another core's exclusive attempt holds a line of the n bytes at a. -/
def CtrlDie.rangeHeld (x : CtrlDie) (c a n : Nat) : Bool :=
  (List.range ((a + n - 1) / 64 + 1 - a / 64)).any (fun i => x.lineHeld c (a / 64 + i))

/-! ### Task bookkeeping -/

/-- The tally set of a cycle, if the die still holds it. -/
def CtrlDie.setOf (x : CtrlDie) (cycle : Nat) : Option TallySet := x.tallies.find? (fun e => decide (e.cycle = cycle))

/-- Takes a task off the core it is on. -/
def CtrlDie.offCore (x : CtrlDie) (t : Nat) : CtrlDie :=
  x.cores.foldl (fun y e => if e.2.task = some t then y.modCore e.1 (fun k => { k with task := none }) else y) x

/-- Frees every resident window of a task (R358). -/
def CtrlDie.dropWins (x : CtrlDie) (t : Nat) : CtrlDie :=
  x.cores.foldl (fun y e => y.modCore e.1 (fun k => { k with wins := k.wins.filter (fun w => decide (w.owner ≠ t)) })) x

/-- Takes a task out of the ready lists, the delay list and every wait queue (R442). -/
def CtrlDie.unqueue (x : CtrlDie) (t : Nat) : CtrlDie :=
  { x with
    ready := x.ready.filter (fun u => decide (u ≠ t))
    delays := x.delays.filter (fun e => decide (e.2 ≠ t))
    vready := x.vready.filter (fun u => decide (u ≠ t))
    mboxes := x.mboxes.map (fun e => (e.1, { e.2 with waiters := e.2.waiters.filter (fun u => decide (u ≠ t)) }))
    locks := x.locks.map (fun e => (e.1, { e.2 with waiters := e.2.waiters.filter (fun u => decide (u ≠ t)) })) }

/-- A wait of the task is satisfied: READY at the tail of its level, or so once it is resumed (R414). -/
def CtrlDie.wake (x : CtrlDie) (t : Nat) : CtrlDie :=
  if (x.task t).state = .halted then x.modTask t (fun k => { k with hstate := .ready })
  else { x.modTask t (fun k => { k with state := .ready }) with ready := x.ready ++ [t] }

/-- A pending priority is applied once the task holds no lock and does not run (R437). -/
def CtrlDie.applyPpend (x : CtrlDie) (t : Nat) : CtrlDie :=
  let k := x.task t
  match k.ppend with
  | none => x
  | some p =>
    if k.state = .running ∨ ¬ (x.held t).isEmpty then x
    else
      let y := x.setTask t { k with base := p, ppend := none }
      if t ∈ x.ready then { y with ready := y.ready.filter (fun u => decide (u ≠ t)) ++ [t] } else y

/-- The first task of highest effective priority in a queue, longest waiting first (R429, R434). -/
def CtrlDie.best (x : CtrlDie) : List Nat → Option Nat
  | [] => none
  | t :: ts =>
    match CtrlDie.best x ts with
    | none => some t
    | some u => if x.pri t < x.pri u then some u else some t

/-- Releases a lock (R433, R435): a non-voted lock passes to its next waiter before any other task can take it. -/
def CtrlDie.release (x : CtrlDie) (l : Nat) (broken : Bool) : CtrlDie :=
  let b := x.lock l
  let b := { b with holder := none, broken := b.broken || broken }
  if l < 32 then x.setLock l b
  else match x.best b.waiters with
  | none => x.setLock l b
  | some w => (x.setLock l { b with holder := some w, waiters := b.waiters.filter (fun u => decide (u ≠ w)) }).wake w

/-! ### Voted rank, locks and phases (R417, R418, R433) -/

/-- The task is an activation of the voted partition that has begun and not ended. -/
def Task.votedActive (k : Task) : Bool :=
  decide (k.part = 0) && (decide (k.state = .ready) || decide (k.state = .running) || decide (k.state = .waitLock) ||
    (decide (k.state = .halted) && decide (k.hstate ≠ .waitCyc)))

/-- Activations of a cycle and phase that have not ended. -/
def CtrlDie.active (x : CtrlDie) (cycle phase : Nat) : List Nat :=
  (x.tasks.filter (fun e => e.2.votedActive && decide (e.2.cycle = cycle) && decide (e.2.phase = phase))).map (fun e => e.1)

/-- t ranks before u within a phase: descending priority, then ascending task number. -/
def CtrlDie.before (x : CtrlDie) (t u : Nat) : Bool :=
  decide ((x.task u).base < (x.task t).base) || (decide ((x.task u).base = (x.task t).base) && decide (t < u))

/-- The highest-ranked of a list. -/
def CtrlDie.firstRank (x : CtrlDie) : List Nat → Option Nat
  | [] => none
  | t :: ts =>
    match CtrlDie.firstRank x ts with
    | none => some t
    | some u => if x.before t u then some t else some u

/-- A voted LOCK of l by t can be granted (R433). -/
def CtrlDie.votedGrant (x : CtrlDie) (t l : Nat) : Bool :=
  let k := x.task t
  (x.lock l).holder.isNone &&
    (x.active k.cycle k.phase).all (fun u => !(x.before u t && (x.task u).lset.getLsbD l) || decide (l ∈ (x.task u).taken))

/-- Grants the voted lock waits that can be granted, one by one; a voted task waits on its core (log entry 16). -/
def CtrlDie.grantVoted (x : CtrlDie) : Nat → CtrlDie
  | 0 => x
  | n + 1 =>
    match (x.tasks.filter (fun e => decide (e.2.part = 0) && decide (e.2.state = .waitLock) &&
        x.votedGrant e.1 (e.2.wobj - 0x100))).head? with
    | none => x
    | some (t, k) =>
      let l := k.wobj - 0x100
      let x := x.setLock l { x.lock l with holder := some t, waiters := (x.lock l).waiters.filter (fun u => decide (u ≠ t)) }
      let on := decide ((x.core k.core).task = some t)
      let x := x.setTask t { k with state := if on then .running else .ready, taken := l :: k.taken }
      CtrlDie.grantVoted (if on then x else { x with vready := t :: x.vready }) n

/-! ### Stopping and freeing (R363, R442, R443) -/

/-- A tag's answer reaches nobody any more (R363, R395). -/
def RingDie.orphan (x : RingDie) (p : TxnOwner → Bool) : RingDie :=
  { x with tags := x.tags.map (fun e => (e.1, if p e.2.owner then { e.2 with owner := .gone } else e.2)) }

/-- The context becomes FREE: windows freed, queues left; its tags expire (R442). -/
def Dev.freeTask (s : Dev) (d t : Nat) : Dev :=
  let s := s.modCd d (fun x => (((x.offCore t).dropWins t).unqueue t).setTask t Task.empty)
  let own := fun o => decide (o = TxnOwner.task (CDie.ofIdx d) t)
  (s.modRd 0 (fun x => x.orphan own)).modRd 1 (fun x => x.orphan own)

/-- Stops a task as a contained fault with its cause: locks released and broken, context FREE, the stop reported with the
    address of its last instruction (R357, R359, R363, R443). The instance is 512 d + t (log entry 17). -/
def Dev.killTask (s : Dev) (d t cause : Nat) : Dev :=
  let locks := (s.cd d).held t
  let addr := ((s.cd d).task t).last
  let s := s.freeTask d t
  let s := s.modCd d (fun x => forAll locks x (fun y l => y.release l true))
  s.report .cont .core (512 * d + t) cause (cause % 256 + (addr.toNat % 2 ^ 32) * 2 ^ 8 + t * 2 ^ 40)

/-! ### Windows (R352-R358) -/

/-- Holes at the top of the spill stack are dropped (log entry 14). -/
def Task.popHoles (k : Task) : Nat → Task
  | 0 => k
  | n + 1 =>
    match k.spill with
    | .hole :: rest => Task.popHoles { k with spill := rest, spptr := k.spptr - 128 } n
    | _ => k

/-- Spills window w of core c to its owner's spill stack; past the limit nothing is written and the owner is stopped. -/
def Dev.spill (s : Dev) (d c : Nat) (w : Win) : Dev :=
  let k := (s.cd d).task w.owner
  if k.splim.toNat < k.spptr.toNat + 128 then s.killTask d w.owner 0xA
  else s.modCd d (fun x =>
    let x := x.pokeWords c k.spptr.toNat w.regs
    let x := x.modCore c (fun y => { y with wins := y.wins.filter (fun v => decide (v ≠ w)) })
    x.modTask w.owner (fun k => { k with spptr := k.spptr + 128, spill := .win w.depth :: k.spill }))

/-- The window that gives way when core c has no free call window: the oldest in allocation order other than the running
    task's current one (R355). -/
def CtrlDie.oldest (x : CtrlDie) (c t depth : Nat) : Option Win :=
  if (x.core c).wins.length < 23 then none
  else (x.core c).wins.find? (fun w => !(decide (w.owner = t) && decide (w.depth = depth)))

/-- Makes a call window free on core c, if none is. -/
def Dev.makeRoom (s : Dev) (d c t depth : Nat) : Dev :=
  match (s.cd d).oldest c t depth with
  | none => s
  | some w => s.spill d c w

/-- The spill that makes room on core c waits for another core's exclusive attempt (R380). -/
def CtrlDie.roomHeld (x : CtrlDie) (c t depth : Nat) : Bool :=
  match x.oldest c t depth with
  | none => false
  | some w => x.rangeHeld c (x.task w.owner).spptr.toNat 128

def CtrlDie.resident (x : CtrlDie) (c t depth : Nat) : Bool :=
  (x.core c).wins.any (fun w => decide (w.owner = t) && decide (w.depth = depth))

/-- Allocates a window. -/
def CtrlDie.allocWin (x : CtrlDie) (c t depth : Nat) (regs : List W64) : CtrlDie :=
  x.modCore c (fun k => { k with wins := k.wins ++ [{ owner := t, depth := depth, regs := regs }] })

/-- Reloads the window of a depth from the task's spill stack (R356); at the base the task is stopped (R357). -/
def Dev.fill (s : Dev) (d c t depth : Nat) : Dev :=
  let k := ((s.cd d).task t).popHoles 512
  match k.spill with
  | .win _ :: rest =>
    if k.spptr.toNat < k.spbase.toNat + 128 then s.killTask d t 0xA
    else
      let p := k.spptr - 128
      s.modCd d (fun x =>
        let regs := x.peekWords p.toNat 16
        (x.allocWin c t depth regs).setTask t (Task.popHoles { k with spptr := p, spill := rest } 512))
  | _ => s.killTask d t 0xA

/-! ### Registers of the running task (R350, R351) -/

/-- The trap window is the current window. -/
def Task.inTrap (k : Task) : Bool := decide (k.trapUp.head? = some 0)

/-- Register i of a list, zero beyond it. -/
def regAt (l : List W64) (i : Nat) : W64 := l.getD i 0

/-- The current window of task t on core c. Nothing saves window 23: a handler that goes on after another task's trap there, or on
    another core, finds that core's trap window as it stands (log entry 57). -/
def CtrlDie.window (x : CtrlDie) (c t : Nat) : List W64 :=
  let k := x.task t
  if k.inTrap then (x.core c).trap
  else match (x.core c).wins.find? (fun w => decide (w.owner = t) && decide (w.depth = k.depth)) with
  | some w => w.regs
  | none => []

/-- Replaces the current window. -/
def CtrlDie.setWindow (x : CtrlDie) (c t : Nat) (l : List W64) : CtrlDie :=
  let k := x.task t
  if k.inTrap then x.modCore c (fun y => { y with trap := l })
  else x.modCore c (fun y => { y with wins := y.wins.map (fun w =>
    if w.owner = t ∧ w.depth = k.depth then { w with regs := l } else w) })

/-- Reads a register; g0 reads as zero. -/
def CtrlDie.reg (x : CtrlDie) (c t : Nat) (r : Reg) : W64 :=
  match r with
  | .g i => if i.val = 0 then 0 else regAt (x.core c).g i.val
  | .w i => regAt (x.window c t) i.val

/-- Writes a register; a write to g0 is discarded. -/
def CtrlDie.setReg (x : CtrlDie) (c t : Nat) (r : Reg) (v : W64) : CtrlDie :=
  match r with
  | .g i => if i.val = 0 then x else x.modCore c (fun k => { k with g := k.g.set i.val v })
  | .w i => x.setWindow c t ((x.window c t).set i.val v)

/-! ### Leaving and entering a core -/

/-- The task leaves its core with its globals kept in its context; a delete accepted for it takes effect (R414). -/
def Dev.leave (s : Dev) (d c t : Nat) (st : TState) : Dev :=
  let s := s.modCd d (fun x =>
    (x.modTask t (fun k => { k with state := st, gsave := (x.core c).g })).offCore t)
  if ((s.cd d).task t).deleting then s.freeTask d t else s.modCd d (fun x => x.applyPpend t)

/-- Preemption (R425): the globals go to the spill stack as one block, and the task to the head of its level. -/
def Dev.preempt (s : Dev) (d c t : Nat) : Dev :=
  let k := (s.cd d).task t
  if k.splim.toNat < k.spptr.toNat + 128 then s.killTask d t 0xA
  else
    let s := s.modCd d (fun x =>
      let x := x.pokeWords c k.spptr.toNat (x.core c).g
      let x := x.modTask t (fun k => { k with state := .ready, spptr := k.spptr + 128, spill := .globals :: k.spill })
      { x.offCore t with ready := t :: x.ready })
    if k.deleting then s.freeTask d t else s.modCd d (fun x => x.applyPpend t)

/-- Where the globals of a preempted task lie on its spill stack, counted from the top. -/
def globalsAt : List SpillItem → Nat → Option Nat
  | [], _ => none
  | .globals :: _, i => some i
  | _ :: rest, i => globalsAt rest (i + 1)

/-- Brings back the globals of a task that is dispatched. -/
def CtrlDie.loadGlobals (x : CtrlDie) (c t : Nat) : CtrlDie :=
  let k := x.task t
  match globalsAt k.spill 0 with
  | some i =>
    let g := x.peekWords (k.spptr.toNat - 128 * (i + 1)) 16
    (x.modCore c (fun y => { y with g := g })).setTask t (Task.popHoles { k with spill := k.spill.set i .hole } 512)
  | none => x.modCore c (fun y => { y with g := k.gsave })

/-- Spills a task's windows that stay on a core it does not run on, oldest first (log entry 18). -/
def Dev.spillAll (s : Dev) (d c t : Nat) : Nat → Dev
  | 0 => s
  | n + 1 =>
    match ((s.cd d).core c).wins.find? (fun w => decide (w.owner = t)) with
    | none => s
    | some w => Dev.spillAll (s.spill d c w) d c t n

/-- Dispatch of a ready task to core c (R415, R417, R424): its windows, globals and the results it waited for are in
    place before it runs on. -/
def Dev.dispatch (s : Dev) (d c t : Nat) : Dev :=
  let old := ((s.cd d).task t).core
  let s := if old = c then s else s.spillAll d old t 23
  if ((s.cd d).task t).state ≠ .ready then s
  else
    let s := s.modCd d (fun x =>
      let x := x.modCore c (fun y => { y with task := some t, last := t })
      let x := x.modTask t (fun k => { k with state := .running, core := c, begun := true })
      let x := { x with ready := x.ready.filter (fun u => decide (u ≠ t)), vready := x.vready.filter (fun u => decide (u ≠ t)) }
      x.loadGlobals c t)
    let s := s.finc (SCH_CORE_SWITCH d c)
    let k := (s.cd d).task t
    let s :=
      if k.inTrap ∨ (s.cd d).resident c t k.depth then s
      else
        let s := s.makeRoom d c t k.depth
        if k.spill.isEmpty then s.modCd d (fun x => x.allocWin c t k.depth (List.replicate 16 0))
        else s.fill d c t k.depth
    if ((s.cd d).task t).state ≠ .running then s
    else s.modCd d (fun x =>
      let x := forAll (x.task t).deliver x (fun y e => y.setReg c t (Reg.ofCode e.1) e.2)
      x.modTask t (fun k => { k with deliver := [] }))

/-- A store that dispatching t to core c makes first waits for another core's exclusive attempt (R380). -/
def CtrlDie.dispatchHeld (x : CtrlDie) (c t : Nat) : Bool :=
  let k := x.task t
  let n := if k.core = c then 0 else ((x.core k.core).wins.filter (fun w => decide (w.owner = t))).length
  (decide (n ≠ 0) && x.rangeHeld c k.spptr.toNat (128 * n)) ||
    (!(k.inTrap || x.resident c t k.depth) && x.roomHeld c t k.depth)

/-! ### Activations (R414, R415) -/

/-- The globals an activation starts with. -/
def startGlobals (k : Task) : List W64 :=
  ((List.replicate 16 (0 : W64)).set 7 (k.g7.setWidth 64)).set 8 (k.g8.setWidth 64)

/-- Station time of t0 and of t0 + `APPLY` of the set's cycle. -/
def TallySet.instants (e : TallySet) : W64 × W64 := (e.t0, e.t0 + BitVec.ofNat 64 (10 * e.apply))

/-- An activation of a cycle begins: fresh windows at `ENTRY`. -/
def Task.activate (k : Task) (cycle : Nat) (e : Option TallySet) : Task :=
  { k with
    state := .ready, pc := k.entry.setWidth 64, cycle := cycle, depth := 0, spill := [], spptr := k.spbase
    inst := e.map TallySet.instants, begun := false
    gsave := startGlobals k, trapUp := [], deliver := [], seq := none, seqFails := 0, seqAt := 0, seqDue := 0, taken := []
    actcnt := k.actcnt + 1 }

/-- The latest cycle whose tally set was delivered to the die (R382). -/
def CtrlDie.latestCycle (x : CtrlDie) : Nat := (x.tallies.map (fun e => e.cycle)).head?.getD 0

def CtrlDie.activate (x : CtrlDie) (t cycle : Nat) : CtrlDie :=
  let x := (x.dropWins t).modTask t (fun k => k.activate cycle (x.setOf cycle))
  if (x.task t).part = 0 then { x with vready := x.vready ++ [t] } else { x with ready := x.ready ++ [t] }

/-- The activation ends (WAITT): windows freed, the task to WAIT_CYC or DORMANT. -/
def Dev.endActivation (s : Dev) (d c t : Nat) : Dev :=
  let st : TState := if ((s.cd d).task t).cb then .waitCyc else .dormant
  (s.modCd d (fun x => x.dropWins t)).leave d c t st

/-! ### Services applied at the end of a voted phase (R438-R440) -/

/-- n bytes at b of a request block. -/
def blkAt (l : List Byte) (b n : Nat) : Nat := numOf ((l.drop b).take n)

/-- The context a create block describes (R439). -/
def taskOfBlock (l : List Byte) : Task :=
  { Task.empty with
    state := if bitOf (blkAt l 4 1) 0 then .waitCyc else .dormant
    part := blkAt l 2 1 % 16, base := blkAt l 3 1 % 64, cb := bitOf (blkAt l 4 1) 0, phase := bitsOf (blkAt l 4 1) 1 3
    cdiv := blkAt l 5 1, cph := blkAt l 6 1, entry := BitVec.ofNat 32 (blkAt l 8 4)
    spbase := BitVec.ofNat 32 (blkAt l 12 4), splim := BitVec.ofNat 32 (blkAt l 16 4)
    spptr := BitVec.ofNat 32 (blkAt l 12 4), g7 := BitVec.ofNat 32 (blkAt l 20 4), g8 := BitVec.ofNat 32 (blkAt l 24 4)
    lset := BitVec.ofNat 64 (blkAt l 28 8) }

/-- Carries out an accepted service (R414, R438). -/
def Dev.applyService (s : Dev) (d svc : Nat) (l : List Byte) : Dev :=
  let t := blkAt l 0 2
  match svc with
  | 0 =>
    let s := s.modCd d (fun x => x.setTask t (taskOfBlock l))
    if !bitOf (blkAt l 4 1) 0 && bitOf (blkAt l 4 1) 4 then s.modCd d (fun x => x.activate t x.latestCycle) else s
  | 1 =>
    if ((s.cd d).task t).state = .running ∨ (((s.cd d).task t).part = 0 ∧ ((s.cd d).task t).state = .waitLock) then
      s.modCd d (fun x => x.modTask t (fun k => { k with deleting := true }))
    else s.freeTask d t
  | 2 => s.modCd d (fun x => x.activate t x.latestCycle)
  | 3 =>
    let m := blkAt l 0 1
    let n := blkAt l 2 2
    s.modCd d (fun x =>
      let b := x.mbox m
      x.setMbox m (if n = 0 then ({ Mbox.off with full := b.full, waiters := b.waiters } : Mbox)
        else { b with
          en := true, part := blkAt l 4 1, depth := n, prod := blkAt l 6 2, cons := blkAt l 8 2, takenInPhase := 0 }))
  | _ =>
    let i := blkAt l 0 1
    s.modCd d (fun x => x.setLock i (if blkAt l 4 1 = 0xFF then HwLock.off
      else { HwLock.off with en := true, part := blkAt l 4 1, ceil := blkAt l 2 1 }))

/-- A voted service meets a conflict when it is applied (R440). -/
def CtrlDie.conflict (x : CtrlDie) (svc : Nat) (l : List Byte) (done : List (Nat × Nat)) : Bool :=
  let o := if svc < 3 then blkAt l 0 2 else blkAt l 0 1
  decide ((svc, o) ∈ done) ||
    (match svc with
     | 0 => decide ((x.task o).state ≠ .free)
     | 1 => decide ((x.task o).state = .free) || !(x.held o).isEmpty
     | 2 => decide ((x.task o).state ≠ .dormant)
     | 3 => !(x.mbox o).msgs.isEmpty || decide (x.vfree + (x.mbox o).depth < blkAt l 2 2)
     | _ => (x.lock o).holder.isSome || !(x.lock o).waiters.isEmpty)

/-- Inserts a pending voted service in rank order. -/
def insertRank (l : List PendSvc) (p : PendSvc) : List PendSvc :=
  match l with
  | [] => [p]
  | q :: qs => if p.rank < q.rank then p :: q :: qs else q :: insertRank qs p

/-- Applies the accepted voted services in rank order; one that meets a conflict is discarded and counted. -/
def Dev.applyPend (s : Dev) (d : Nat) (done : List (Nat × Nat)) : List PendSvc → Dev
  | [] => s
  | p :: ps =>
    if (s.cd d).conflict p.svc p.blk done then Dev.applyPend (s.finc (SCH_STAT_SVCREF d)) d done ps
    else
      let o := if p.svc < 3 then blkAt p.blk 0 2 else blkAt p.blk 0 1
      Dev.applyPend (s.applyService d p.svc p.blk) d ((p.svc, o) :: done) ps

/-- The phase in progress has ended when every activation of it has: services are applied, and the messages taken in it
    leave their mailboxes for the fullness test (R418, R431, R440). -/
def Dev.phaseEnd (s : Dev) (d : Nat) : Dev :=
  let x := s.cd d
  if x.vbegun ∧ (x.active x.vcycle x.vphase).isEmpty then
    let s := s.modCd d (fun x => { x with
      vbegun := false, vpend := []
      mboxes := x.mboxes.map (fun e => if e.1 < 128 then (e.1, { e.2 with takenInPhase := 0 }) else e) })
    s.applyPend d [] x.vpend
  else s

/-! ### Placing ready tasks (R424) -/

/-- Allowed cores of a partition among 8-15 that are not halted. -/
def Dev.allowed (s : Dev) (d p : Nat) : List Nat :=
  (List.range 16).filter (fun c => decide (8 ≤ c) && bitOf (s.fget (SCH_PART_CORES d p)) c && !((s.cd d).core c).halted)

/-- The running task of lowest effective priority on a list of cores. -/
def CtrlDie.victim (x : CtrlDie) : List Nat → Option (Nat × Nat)
  | [] => none
  | c :: cs =>
    match (x.core c).task with
    | none => CtrlDie.victim x cs
    | some t =>
      match CtrlDie.victim x cs with
      | none => some (c, t)
      | some (c', t') => if x.pri t' < x.pri t then some (c', t') else some (c, t)

/-- One placement: the ready task, its core, and the task to preempt there. One whose stores another core's exclusive attempt
    holds up waits (R380). -/
def Dev.placement (s : Dev) (d : Nat) : List Nat → Option (Nat × Nat × Option Nat)
  | [] => none
  | t :: ts =>
    let x := s.cd d
    let cs := s.allowed d (x.task t).part
    match cs.find? (fun c => decide ((x.core c).task = none)) with
    | some c => if x.dispatchHeld c t then Dev.placement s d ts else some (t, c, none)
    | none =>
      match x.victim cs with
      | some (c, v) =>
        if x.pri v < x.pri t ∧ (x.task v).seq = none ∧ !x.dispatchHeld c t ∧ !x.rangeHeld c (x.task v).spptr.toNat 128 then
          some (t, c, some v)
        else Dev.placement s d ts
      | none => Dev.placement s d ts

/-- Ready tasks, highest effective priority first, in queue order within a level (R422). -/
def CtrlDie.readyByPri (x : CtrlDie) : List Nat :=
  (List.range 64).reverse.flatMap (fun p => x.ready.filter (fun t => decide (x.pri t = p)))

/-- Places ready non-voted tasks while one can be placed (R424). -/
def Dev.place (s : Dev) (d : Nat) : Nat → Dev
  | 0 => s
  | n + 1 =>
    match s.placement d (s.cd d).readyByPri with
    | none => s
    | some (t, c, v) =>
      let s := match v with
        | some u => s.preempt d c u
        | none => s
      Dev.place (s.dispatch d c t) d n

/-- What the scheduler does once something it decides by has changed: lock grants, the end of a voted phase, placement.
    Fuel bounds the decisions of one event. -/
def Dev.resched (s : Dev) (d : Nat) : Dev :=
  let s := s.modCd d (fun x => x.grantVoted 512)
  let s := s.phaseEnd d
  s.place d 1024

/-! ### Halting a task (R414, R444) -/

/-- Halts a task: it leaves its core and every ready list, and keeps its locks and its place in wait queues. It runs no longer, so
    a pending priority is applied (R437). -/
def Dev.haltNow (s : Dev) (d t : Nat) : Dev :=
  let k := (s.cd d).task t
  let s := s.modCd d (fun x => x.modTask t (fun k => { k with haltReq := false }))
  let s := if k.state = .running ∨ (k.part = 0 ∧ k.state = .waitLock) then s.leave d k.core t k.state else s
  if ((s.cd d).task t).state = .free then s.resched d
  else
    let s := s.modCd d (fun x =>
      { (x.modTask t (fun y => { y with state := .halted, hstate := k.state })).applyPpend t with
        ready := x.ready.filter (fun u => decide (u ≠ t)), vready := x.vready.filter (fun u => decide (u ≠ t)) })
    (s.info .debug (512 * d + t) 3 0).resched d

end Sys2Proof.Machine
end

