-- ==== Sys2Proof/Machine/Operands.lean ====
section
/-!
DEFINITION. How a Kraind core executes one instruction: who runs on it, the checks before an instruction acts (fetch, atomic
sequence, partition), its word (R373), its memory operands with every check of R364, R368-R369, R378, R400, R412 and R687,
and TAKING A TRAP as one operation (R359-R363, R381).
-/
namespace Sys2Proof.Machine

/-! ### Instruction words (R373) -/

def encR (op : Nat) (rd ra rb : Reg) (sub k6 : Nat) : Nat :=
  op * 2 ^ 26 + rd.code * 2 ^ 21 + ra.code * 2 ^ 16 + rb.code * 2 ^ 11 + sub * 2 ^ 6 + k6
def encI (op : Nat) (rd ra : Reg) (imm : W16) : Nat := op * 2 ^ 26 + rd.code * 2 ^ 21 + ra.code * 2 ^ 16 + imm.toNat
def encB (op : Nat) (ra rb : Reg) (off : W16) : Nat := op * 2 ^ 26 + ra.code * 2 ^ 21 + rb.code * 2 ^ 16 + off.toNat
def encJ (op : Nat) (off : BitVec 26) : Nat := op * 2 ^ 26 + off.toNat

/-- A field an instruction does not use is zero, which is the code of g0. -/
def noReg : Reg := .g 0

/-! ### Who runs -/

/-- The task that runs on a core: the die runs, the core is not halted, and the task is RUNNING. -/
def Dev.runs (s : Dev) (r : CoreRef) : Option Nat :=
  let x := s.cd r.die.idx
  let k := x.core r.core.val
  if s.running r.die.idx && !k.halted then
    match k.task with
    | some t => if (x.task t).state = .running then some t else none
    | none => none
  else none

/-- What comes of an instruction: it completes and the next one follows; it completes elsewhere; it traps with a cause
    and the value of w2 (R360); or it waits and is executed again. -/
inductive Ires where
  | done (s : Dev)
  | goto (s : Dev) (pc : W64)
  | trap (s : Dev) (cause : Nat) (w2 : W64)
  | hold (s : Dev)

/-- The partitions an instruction permits (R375). -/
inductive Perm where
  | both | voted | nonVoted
  deriving DecidableEq, Repr

def Perm.ok (p : Perm) (part : Nat) : Bool :=
  match p with
  | .both => true
  | .voted => decide (part = 0)
  | .nonVoted => decide (part ≠ 0)

/-! ### Taking a trap (R359-R363, R381) -/

/-- A sequence is discarded: held stores gone, every register back at its value at LOCKSEQ (R380). -/
def CtrlDie.discardSeq (x : CtrlDie) (c t : Nat) (q : Seq) : CtrlDie :=
  ((x.modCore c (fun y => { y with g := q.g })).setWindow c t q.w).modTask t (fun k => { k with seq := none, pc := q.start })

/-- The image vectors a cause (R359). -/
def CtrlDie.vectored (x : CtrlDie) (cause : Nat) : Bool :=
  (decide (cause = 2) || decide (cause = 3) || decide (cause = 7)) &&
    (match x.img with
     | some i => i.trapen.getLsbD cause
     | none => false)

/-- The trap window as loaded for a vectored trap (R360). -/
def trapWindow (w0 w1 w2 : W64) (t : Nat) : List W64 := [w0, w1, w2, BitVec.ofNat 64 t] ++ List.replicate 12 0

/-- Takes a trap: into the handler, or the task is stopped. A sequence it ends lets a halt or a preemption that waited happen. -/
def Dev.takeTrap (s : Dev) (d c t cause : Nat) (w2 : W64) : Dev :=
  let k := (s.cd d).task t
  let s := match k.seq with
    | some q => s.modCd d (fun x => x.discardSeq c t q)
    | none => s
  let w0 := BitVec.ofNat 64 (cause + (if k.seq.isSome then 256 else 0))
  let w2 := if k.seq.isSome then k.pc else w2
  let w1 := ((s.cd d).task t).pc
  if k.inTrap then (s.killTask d t 9).resched d
  else if (s.cd d).vectored cause then
    let s := s.modCd d (fun x =>
      let base := match x.img with
        | some i => i.trapbase
        | none => 0
      (x.modCore c (fun y => { y with trap := trapWindow w0 w1 w2 t })).modTask t (fun k => { k with
        trapUp := 0 :: k.trapUp, pc := base.setWidth 64 + BitVec.ofNat 64 (64 * cause) }))
    if k.seq.isNone then s else (if k.haltReq then s.haltNow d t else s).resched d
  else (s.killTask d t cause).resched d

/-! ### The checks before an instruction acts -/

/-- The address of the following instruction. -/
def next4 (pc : W64) : W64 := pc + 4

/-- The task goes on at the following instruction, or at an address. -/
def Dev.advance (s : Dev) (d t : Nat) : Dev := s.modCd d (fun x => x.modTask t (fun k => { k with pc := next4 k.pc }))
def Dev.jump (s : Dev) (d t : Nat) (pc : W64) : Dev := s.modCd d (fun x => x.modTask t (fun k => { k with pc := pc }))

/-- ENDSEQ stands at an address of instruction SRAM. -/
def CtrlDie.endseqAt (x : CtrlDie) (a : Nat) : Bool := decide (x.imem.readLE a 4 = encR 0x20 noReg noReg noReg 3 0)

/-- The sequence rule allows the instruction word at the task's place (R376, R377): at most eight words lie between LOCKSEQ and
    ENDSEQ, and a branch goes forward, not past the ENDSEQ that instruction SRAM holds (log entry 22). -/
def CtrlDie.seqAllows (x : CtrlDie) (k : Task) (word : Nat) : Bool :=
  match k.seq with
  | none => true
  | some q =>
    let op := word / 2 ^ 26
    let place := (k.pc.toNat - q.start.toNat) / 4
    if op = 0x20 ∧ bitsOf word 6 5 = 3 then true
    else if 9 ≤ place then false
    else if op ≤ 0x14 then true
    else if 0x18 ≤ op ∧ op ≤ 0x1D then
      let off := sx 16 word
      decide (0 ≤ off) && decide (place + 1 + off.toNat ≤ 9) &&
        !(List.range off.toNat).any (fun i => x.endseqAt (k.pc.toNat + 4 + 4 * i))
    else false

/-- The instruction at the task's pc is its last (R363). -/
def Dev.issue (s : Dev) (d t : Nat) : Dev := s.modCd d (fun x => x.modTask t (fun k => { k with last := k.pc }))

/-- Executes one instruction on core r: `word` is its encoding, `legal` that its fields are in range, `perm` the partitions
    it permits, and `body` what it does for task t. -/
def Dev.instr (s : Dev) (r : CoreRef) (word : Nat) (legal : Bool) (perm : Perm) (body : Nat → Dev → Ires) : Dev :=
  match s.runs r with
  | none => s
  | some t =>
    let d := r.die.idx
    let c := r.core.val
    let k := (s.cd d).task t
    let s := s.issue d t
    if k.pc.toNat % 4 ≠ 0 then s.takeTrap d c t 3 k.pc
    else if 0x400000 ≤ k.pc.toNat then s.takeTrap d c t 7 k.pc
    else if !legal || !(s.cd d).seqAllows k word then s.takeTrap d c t 2 (BitVec.ofNat 64 word)
    else if !perm.ok k.part then s.takeTrap d c t 5 0
    else
      match body t s with
      | .done s' => s'.advance d t
      | .goto s' pc => s'.jump d t pc
      | .trap s' cause w2 => s'.takeTrap d c t cause w2
      | .hold s' => s'

/-- An instruction that only computes a register from registers. -/
def Dev.alu (s : Dev) (r : CoreRef) (word : Nat) (legal : Bool) (rd : Reg) (f : (Reg → W64) → W64) : Dev :=
  s.instr r word legal .both (fun t s =>
    .done (s.modCd r.die.idx (fun x => x.setReg r.core.val t rd (f (x.reg r.core.val t)))))

/-- A command to a core of a die the variant may lack (R3). -/
def State.onCore (s : State) (r : CoreRef) (f : Dev → Dev) : Out := s.updIf (s.dev.present r.die.idx) f

/-! ### Memory operands -/

def inSram (a : Nat) : Bool := decide (0x10000000 ≤ a) && decide (a < 0x12000000)
def inDie (a : Nat) : Bool := decide (0x30000000 ≤ a) && decide (a < 0x30200000)
def isDesc (o : Nat) : Bool := decide (0x60000 ≤ o) && decide (o < 0x69000)

/-- The offset holds a register or a descriptor word. -/
def dieReg (o : Nat) : Bool := isDesc o || decide (o = 0x7F000) || (findRow cdRows (o - o % 8)).isSome

/-- The cause of a trap by an access to die register space, if any (R369). -/
def dieCheck (part : Nat) (store : Bool) (o n : Nat) : Option Nat :=
  if part = 0 ∧ ¬ (o = 0x50008 ∨ (0x50100 ≤ o ∧ o < 0x50400) ∨ isDesc o) then some 5
  else if part ≠ 0 ∧ store ∧ 0x50000 ≤ o ∧ o < 0x70000 then some 4
  else if !dieReg o then some 7
  else if n = (if isDesc o then 4 else 8) then none else some 7

/-- The partition's fences contain the address in non-voted data SRAM (R412). -/
def Dev.fenced (s : Dev) (d p a : Nat) : Bool :=
  let g := (a - 0x11800000) / 4096
  decide (p = 1) || (decide (s.fget (SCH_PART_BASE d p) ≤ g) && decide (g ≤ s.fget (SCH_PART_LIMIT d p)))

/-- The cause of a trap by an access of a partition to data SRAM, if any (R368, R400, R412). -/
def Dev.sramCheck (s : Dev) (d p : Nat) (store : Bool) (a : Nat) : Option Nat :=
  if a < 0x11800000 then (if store ∧ p ≠ 0 then some 4 else none)
  else if p = 0 then some 5
  else if s.fenced d p a then none else some 4

/-- The cause of a trap by a load or store of n bytes at a, if any: alignment, then the sequence, then the map. -/
def Dev.accessCheck (s : Dev) (d t : Nat) (store : Bool) (a n : Nat) : Option Nat :=
  let k := (s.cd d).task t
  if a % n ≠ 0 then some 3
  else if k.seq.isSome ∧ ¬ inSram a then some 2
  else if inSram a then
    match s.sramCheck d k.part store a with
    | some c => some c
    | none =>
      match k.seq with
      | none => none
      | some q => if a / 64 ∈ q.lines ∨ q.lines.length < 2 then none else some 2
  else if inDie a then dieCheck k.part store (a - 0x30000000) n
  else some 7

/-- Notes a line that the task's open sequence touches (R378). -/
def Task.touch (k : Task) (line : Nat) : Task :=
  match k.seq with
  | none => k
  | some q => if line ∈ q.lines then k else { k with seq := some { q with lines := line :: q.lines } }

/-- n bytes as the task sees them: stores its sequence holds back come before memory (R379). -/
def seenLE (m : Mem) (q : Seq) (a : Nat) : Nat → Nat
  | 0 => 0
  | n + 1 => (if a ∈ q.heldKeys then q.held.byte a else m.byte a).toNat + 256 * seenLE m q (a + 1) n

def CtrlDie.seen (x : CtrlDie) (t a n : Nat) : Nat :=
  match (x.task t).seq with
  | none => x.dmem.readLE a n
  | some q => seenLE x.dmem q a n

/-- ECC of the words that hold bytes a to a + n - 1 as a read finds them (R598): a single-bit error is corrected and
    rewritten, and reported; `none` when a word has a double-bit error. -/
def Dev.eccRead (s : Dev) (d a : Nat) : Nat → Option Dev
  | 0 => some s
  | n + 1 =>
    match Store.get (fun _ => 0) (s.cd d).ecc (a - a % 8) with
    | 0 => Dev.eccRead s d (a + 1) n
    | 1 =>
      let s := s.modCd d (fun x => { x with ecc := Store.erase x.ecc (a - a % 8) })
      let (s, lasting) := s.event .corr .sram d 1 (a - a % 8)
      Dev.eccRead (if lasting then s.retireLane d else s) d (a + 1) n
    | _ => none

/-- A double-bit error in task data is reported before the task is stopped with cause 6 (R598). -/
def Dev.eccFail (s : Dev) (d a : Nat) : Dev :=
  let (s, lasting) := s.event .cont .sram d 2 a
  if lasting then s.retireLane d else s


/-- Holds back a store of the open sequence. -/
def Seq.hold (q : Seq) (a n v : Nat) : Seq :=
  { q with held := q.held.writeLE a n v, heldKeys := (List.range n).map (fun i => a + i) ++ q.heldKeys }

/-! ### Block operands of SEL, DST and MST (R687) and request blocks of services (R438) -/

/-- The first cause among the bytes of an operand. -/
def Dev.bytesCheck (s : Dev) (d t : Nat) (store : Bool) (a : Nat) : Nat → Option Nat
  | 0 => none
  | n + 1 =>
    match s.sramCheck d ((s.cd d).task t).part store a with
    | some c => some c
    | none => Dev.bytesCheck s d t store (a + 1) n

/-- The cause of a trap by a block operand of n bytes at a. -/
def Dev.blockCheck (s : Dev) (d t : Nat) (store : Bool) (a n : Nat) : Option Nat :=
  if a % 8 ≠ 0 then some 3
  else if !(inSram a && inSram (a + n - 1)) then some 7
  else s.bytesCheck d t store a n

def CtrlDie.blockBytes (x : CtrlDie) (a n : Nat) : List Byte := (List.range n).map (fun i => x.dmem.byte (a + i))

/-- Writes a byte string in 8-byte words as far as they go. -/
def CtrlDie.pokeBytes (x : CtrlDie) (c a : Nat) : List Byte → CtrlDie
  | [] => x
  | b :: bs => CtrlDie.pokeBytes (x.poke c a 1 b.toNat) c (a + 1) bs

end Sys2Proof.Machine
end

