-- ==== Sys2Proof/Machine/Debug.lean ====
section
/-!
DEFINITION. Debug halts and resumes, and the register and memory window of a halted core (R398, R399, R444, R445, R660,
R661).
-/
namespace Sys2Proof.Machine

def Dev.debugOpen (s : Dev) : Bool := s.fbit GLB_DBG_OPEN

/-- Debug access is enabled for core c of die d (R660). -/
def Dev.debugCore (s : Dev) (d c : Nat) : Bool := s.debugOpen && bitOf (s.fget GLB_DBG_CORES_EN) (16 * d + c)

/-- A halt that is a planned retirement when the lane counts: the block after it, or `none` when it is refused (R322). -/
def Dev.haltRetire (s : Dev) (d : Nat) : Option Dev :=
  if s.lane d = 4 then (if s.retireRefused then none else some (s.planned d)) else some s

/-- Halts a core at once (R444): an open sequence is discarded and executed again from LOCKSEQ on resume (R399). -/
def Dev.haltCore (s : Dev) (d c : Nat) : Dev :=
  let s := s.modCd d (fun x =>
    let x := match (x.core c).task with
      | none => x
      | some t =>
        match (x.task t).seq with
        | some q => x.discardSeq c t q
        | none => x
    x.modCore c (fun k => { k with halted := true }))
  s.info .debug (16 * d + c) 2 0


/-- Halts a task, after the end of its atomic sequence if it is in one. -/
def Dev.haltTask (s : Dev) (d t : Nat) : Dev :=
  let k := (s.cd d).task t
  match k.state with
  | .ready => s.haltNow d t
  | .running => if k.seq.isSome then s.modCd d (fun x => x.modTask t (fun k => { k with haltReq := true })) else s.haltNow d t
  | .waitMbox => s.haltNow d t
  | .waitLock => s.haltNow d t
  | .waitDelay => s.haltNow d t
  | .waitTag => s.haltNow d t
  | .waitCyc => s.haltNow d t
  | _ => s

def Dev.resumeCore (s : Dev) (d c : Nat) : Dev :=
  (s.modCd d (fun x => x.modCore c (fun k => { k with halted := false }))).resched d

/-- Resumes a task: to the state it was halted in, or READY at the head of its level if it was running (R414). -/
def Dev.resumeTask (s : Dev) (d t : Nat) : Dev :=
  let k := (s.cd d).task t
  if k.state ≠ .halted then s
  else
    (s.modCd d (fun x =>
      match k.hstate with
      | .running =>
        let x := x.modTask t (fun k => { k with state := .ready, hstate := .free })
        if k.part = 0 then { x with vready := t :: x.vready } else { x with ready := t :: x.ready }
      | .ready =>
        let x := x.modTask t (fun k => { k with state := .ready, hstate := .free })
        if k.part = 0 then { x with vready := x.vready ++ [t] } else { x with ready := x.ready ++ [t] }
      | st => x.modTask t (fun k => { k with state := st, hstate := .free }))).resched d

/-- A debug halt as `SCH_DBG` names it; R322 may refuse it. -/
def Dev.debugHalt (s : Dev) (d : Nat) (o : DbgObj) : Dev :=
  match o with
  | .core c =>
    match s.haltRetire d with
    | none => s.refuseWr (SCH_DBG d)
    | some s => s.haltCore d c.val
  | .task t =>
    if ((s.cd d).task t.val).part = 0 ∧ ((s.cd d).task t.val).state ≠ .free then
      match s.haltRetire d with
      | none => s.refuseWr (SCH_DBG d)
      | some s => s.haltTask d t.val
    else s.haltTask d t.val

def Dev.debugResume (s : Dev) (d : Nat) (o : DbgObj) : Dev :=
  match o with
  | .core c => s.resumeCore d c.val
  | .task t => s.resumeTask d t.val

/-- Debug access to an object is missing: it is closed, or closed for the core to be halted (R660). -/
def Dev.debugShut (s : Dev) (d : Nat) (o : DbgObj) (halt : Bool) : Bool :=
  match o with
  | .core c => !(if halt then s.debugCore d c.val else s.debugOpen)
  | .task _ => !s.debugOpen

/-- What a write of `SCH_DBG` asks (R446); without access it is discarded and counted once (R445). With both HALT and RESUME set the
    halt comes first (log entry 19). -/
def Dev.debugDo (s : Dev) (d : Nat) (o : DbgObj) (halt resume : Bool) : Dev :=
  if s.debugShut d o halt then s.finc (SCH_STAT_HOSTWR d)
  else
    let s := if halt then s.debugHalt d o else s
    if resume then s.debugResume d o else s

/-- A write of `SCH_DBG`. -/
def Dev.schDbgWrite (s : Dev) (d : Nat) (v : W64) : Dev :=
  let o : DbgObj := if v.getLsbD 61 then .core ⟨v.toNat % 16, Nat.mod_lt _ (by decide)⟩
    else .task ⟨v.toNat % 512, Nat.mod_lt _ (by decide)⟩
  s.debugDo d o (v.getLsbD 63) (v.getLsbD 62)

/-- Resumes every halted core and task of a die (R660). -/
def Dev.resumeAll (s : Dev) (d : Nat) : Dev :=
  let x := s.cd d
  let s := forAll ((x.cores.filter (fun e => e.2.halted)).map (fun e => e.1)) s (fun s c => s.resumeCore d c)
  forAll ((x.tasks.filter (fun e => decide (e.2.state = .halted))).map (fun e => e.1)) s (fun s t => s.resumeTask d t)

/-- Closing debug access (R645, R660). -/
def Dev.debugClose (s : Dev) : Dev :=
  let s := (s.fset GLB_DBG_OPEN 0).rset GLB_DBG_CORES 0
  forAll (List.range 4) s (fun s d => s.resumeAll d)

/-! ### `CDx_DBG_DAT` (R661) -/

def Dev.dbgOk (s : Dev) (d : Nat) : Bool := s.debugOpen && ((s.cd d).core (s.fget (CDx_DBG_SEL_CORE d))).halted

/-- A register of a halted core by its code; a core without a task has globals only. -/
def CtrlDie.dbgReg (x : CtrlDie) (c n : Nat) : W64 :=
  match (x.core c).task with
  | some t => x.reg c t (Reg.ofCode n)
  | none => if n % 32 = 0 ∨ 16 ≤ n % 32 then 0 else regAt (x.core c).g (n % 32)

/-- The value selected, and zero where the read is not allowed. -/
def Dev.dbgRead (s : Dev) (d : Nat) : W64 :=
  let a := s.fget (CDx_DBG_SEL_A d)
  if !s.dbgOk d then 0
  else if s.fbit (CDx_DBG_SEL_MEM d) then
    (if inSram a then BitVec.ofNat 64 ((s.cd d).dmem.readLE (a - a % 8) 8) else 0)
  else (s.cd d).dbgReg (s.fget (CDx_DBG_SEL_CORE d)) a

/-- A write of the value selected; a discarded one is counted in `BADACC`. -/
def Dev.dbgWrite (s : Dev) (d : Nat) (v : W64) : Dev :=
  let a := s.fget (CDx_DBG_SEL_A d)
  let c := s.fget (CDx_DBG_SEL_CORE d)
  let voting := decide (s.lane d = 3) || decide (s.lane d = 4)
  if !s.dbgOk d then s.finc GLB_HOST_BADACC
  else if s.fbit (CDx_DBG_SEL_MEM d) then
    if !inSram a || (voting && decide (a < 0x11800000)) then s.finc GLB_HOST_BADACC
    else s.modCd d (fun x => x.poke 16 (a - a % 8) 8 v.toNat)
  else
    match ((s.cd d).core c).task with
    | none => s.modCd d (fun x => if a % 32 = 0 ∨ 16 ≤ a % 32 then x
        else x.modCore c (fun k => { k with g := k.g.set (a % 32) v }))
    | some t =>
      if voting ∧ ((s.cd d).task t).part = 0 then s.finc GLB_HOST_BADACC
      else s.modCd d (fun x => x.setReg c t (Reg.ofCode a) v)

/-! ### The commands -/

/-- HALT. -/
def execHalt (die : CDie) (o : DbgObj) (s : State) : Out :=
  s.updIf (s.dev.present die.idx) (fun d => if d.powered die.idx then d.debugDo die.idx o true false else d)

/-- RESUME. -/
def execResume (die : CDie) (o : DbgObj) (s : State) : Out :=
  s.updIf (s.dev.present die.idx) (fun d => if d.powered die.idx then d.debugDo die.idx o false true else d)

/-- DEBUG_DATA_READ: a host read of `CDx_DBG_DAT`. -/
def execDebugDataRead (die : CDie) (s : State) : Out :=
  s.upd (fun d => if d.powered die.idx then d.answer [d.dbgRead die.idx] else d.answer [0])

/-- DEBUG_DATA_WRITE. -/
def execDebugDataWrite (die : CDie) (v : W64) (s : State) : Out :=
  s.upd (fun d => if d.powered die.idx then d.dbgWrite die.idx v else d)

/-- BRK (R398): halts its core before the next instruction when debug access is enabled for it and R322 does not refuse. -/
def execBrk (r : CoreRef) (s : State) : Out :=
  s.onCore r (fun d => d.instr r (encR 0x20 noReg noReg noReg 4 0) true .both (fun _ d =>
    if !d.debugCore r.die.idx r.core.val then .done d
    else match d.haltRetire r.die.idx with
    | none => .done (d.finc SH_REFWR_COUNT)
    | some d => .done (d.haltCore r.die.idx r.core.val)))

/-- A write of `GLB_DBG.OPENREQ` (R658): it opens debug access in COMMISSION with the strap; otherwise it is refused. -/
def Dev.openReq (s : Dev) : Dev :=
  if s.mode = 1 ∧ s.fbit GLB_DBG_STRAP then (s.fset GLB_DBG_OPEN 1).info .debug 0 1 0 else s.refuseWr GLB_DBG

/-- OPENREQ. -/
def execOpenreq (s : State) : Out := s.upd Dev.openReq

/-- CLOSE (R658, R660). -/
def execClose (s : State) : Out := s.upd (fun d => d.debugClose)

/-- A write of `GLB_DBG_CORES` (R645) takes effect only while debug access is open. -/
def Dev.debugCoresWrite (s : Dev) (v : W64) : Dev :=
  if s.debugOpen then s.rset GLB_DBG_CORES v else s.finc GLB_HOST_BADACC

/-- DEBUG_CORES_WRITE. -/
def execDebugCoresWrite (v : W64) (s : State) : Out := s.upd (fun d => d.debugCoresWrite v)

end Sys2Proof.Machine
end

