-- ==== Sys2Proof/Machine/LoopEngine.lean ====
section
/-!
DEFINITION. The loop engine (R160-R209): descriptors and who may write them, the loop laws with every operation saturating,
competition groups, following error, profile generators, engine blocks of the mirror, and the relay auto-tune.
-/
namespace Sys2Proof.Machine

/-! ### Saturating arithmetic that notes whether it saturated (R173, R176) -/

/-- A value, and whether an operation on the way to it saturated. -/
structure SQ where
  v : Int
  o : Bool
  deriving DecidableEq, Repr

def SQ.of (v : Int) : SQ := { v := v, o := false }
def SQ.sat (x : Int) (o : Bool) : SQ := { v := sat32 x, o := o || decide (sat32 x ≠ x) }
def SQ.add (a b : SQ) : SQ := SQ.sat (a.v + b.v) (a.o || b.o)
def SQ.sub (a b : SQ) : SQ := SQ.sat (a.v - b.v) (a.o || b.o)
def SQ.rnd (a b : SQ) : SQ := SQ.sat ((a.v * b.v + 2 ^ 27) / 2 ^ 28) (a.o || b.o)
/-- Terms combined from left to right. -/
def SQ.sum (a : SQ) (l : List SQ) : SQ := l.foldl SQ.add a

/-! ### Words of the engine's store -/

def CtrlDie.leI (x : CtrlDie) (i : Nat) : Int := sx 32 (x.leWord i).toNat
def CtrlDie.leN (x : CtrlDie) (i : Nat) : Nat := (x.leWord i).toNat
def CtrlDie.setLeI (x : CtrlDie) (i : Nat) (v : Int) : CtrlDie := x.setLe i (BitVec.ofInt 32 v)
def CtrlDie.setLeBits (x : CtrlDie) (i lo w v : Nat) : CtrlDie := x.setLe i (BitVec.ofNat 32 (putBits (x.leN i) lo w v))

def genBase (p : Nat) : Nat := 8192 + 16 * p

/-- CTRL, SRC, STAT and PCTL fields (R169-R171, R186). -/
def CtrlDie.ctrl (x : CtrlDie) (s lo w : Nat) : Nat := bitsOf (x.leN (32 * s)) lo w
def CtrlDie.src (x : CtrlDie) (s lo w : Nat) : Nat := bitsOf (x.leN (32 * s + 1)) lo w
def CtrlDie.stat (x : CtrlDie) (s i : Nat) : Bool := bitOf (x.leN (32 * s + 10)) i
def CtrlDie.setStat (x : CtrlDie) (s i : Nat) (b : Bool) : CtrlDie := x.setLeBits (32 * s + 10) i 1 (b2n b)
def CtrlDie.pctl (x : CtrlDie) (p lo w : Nat) : Nat := bitsOf (x.leN (genBase p)) lo w
def CtrlDie.setPctl (x : CtrlDie) (p lo w v : Nat) : CtrlDie := x.setLeBits (genBase p) lo w v
/-- The slot is enabled; a slot that extends another is none of its own. -/
def CtrlDie.slotEn (x : CtrlDie) (s : Nat) : Bool := decide (x.ctrl s 31 1 = 1) && !x.leExt s

/-- Bits of a word that a write of voted firmware sets, and bits a written 1 clears or sets (R168-R172, R185, R186). A
    slot that extends a state-space slot holds coefficients and states in words 0-7, and has words 8-10 like any other (log
    entry 20). Reserved words ignore writes (R16). -/
def CtrlDie.leMask (x : CtrlDie) (i : Nat) : Nat × Nat × Nat :=
  if i < 8192 then
    let s := i / 32
    if !x.leListed s (i % 32) then (0, 0, 0)
    else if i % 32 < 8 ∧ x.leExt s then (0xFFFFFFFF, 0, 0)
    else match i % 32 with
    | 0 => (0xFFFFF000, 0, 0)
    | 1 => (0xE0FFE0FF, 0, 0)
    | 7 => (0, 0, 0)
    | 9 => (0xFFFF0000, 0, 0)
    | 10 => (0, 0x02000000, 0)
    | _ => (0xFFFFFFFF, 0, 0)
  else match (i - 8192) % 16 with
  | 0 => (0x8700FF00, 0, 0x08000000)
  | w => if w < 10 then (0xFFFFFFFF, 0, 0) else (0, 0, 0)

/-- A write of a descriptor word under its access types. -/
def CtrlDie.leWrite (x : CtrlDie) (i : Nat) (v : W32) : CtrlDie :=
  let m := x.leMask i
  let old := x.leWord i
  let rw := BitVec.ofNat 32 m.1
  x.setLe i ((((old &&& ~~~rw) ||| (v &&& rw)) &&& ~~~(v &&& BitVec.ofNat 32 m.2.1)) ||| (v &&& BitVec.ofNat 32 m.2.2))

/-! ### Loop laws (R174, R175) -/

/-- The words of a slot, of its extension, and r, y, f, e. -/
structure LeIn where
  w : Nat → Int
  x : Nat → Int
  y : Int
  f : Int
  e : SQ

def CtrlDie.leIn (x : CtrlDie) (s : Nat) : LeIn :=
  let w := fun i => x.leI (32 * s + i)
  { w := w, x := fun i => x.leI (32 * s + 32 + i), y := w 3, f := w 4, e := SQ.sub (SQ.of (w 2)) (SQ.of (w 3)) }

def LeIn.q (i : LeIn) (k : Nat) : SQ := SQ.of (i.w k)
def LeIn.rnd (i : LeIn) (k : Nat) (b : SQ) : SQ := SQ.rnd (i.q k) b

/-- PID: XD′, and the value it differentiates. -/
def LeIn.pidD (i : LeIn) (dmeas : Bool) : SQ := if dmeas then SQ.sub (SQ.of 0) (SQ.of i.y) else i.e
def LeIn.pidXd (i : LeIn) (dmeas : Bool) : SQ :=
  let w := i.rnd 14 (SQ.sub (i.pidD dmeas) (i.q 18))
  SQ.add (i.q 17) (i.rnd 15 (SQ.sub w (i.q 17)))

/-- PR: yi of term i. -/
def LeIn.prY (i : LeIn) (t : Nat) : SQ :=
  SQ.sum (i.rnd (12 + 5 * t) (i.q (15 + 5 * t))) [i.rnd (13 + 5 * t) (i.q (16 + 5 * t)), i.rnd (14 + 5 * t) i.e]

/-- Lead-lag: w of the section whose words begin at b, with its input. -/
def LeIn.ll (i : LeIn) (b : Nat) (inp : SQ) : SQ :=
  SQ.sub (SQ.add (i.rnd b inp) (i.rnd (b + 1) (i.q (b + 3)))) (i.rnd (b + 2) (i.q (b + 4)))

/-- Notch: w. -/
def LeIn.notch (i : LeIn) : SQ :=
  SQ.sub (SQ.sub (SQ.sum (i.rnd 11 i.e) [i.rnd 12 (i.q 16), i.rnd 13 (i.q 17)]) (i.rnd 14 (i.q 18))) (i.rnd 15 (i.q 19))

/-- State-space: C(j) × X(j), and row k of the next state. -/
def LeIn.ssC (i : LeIn) (j : Nat) : SQ := SQ.rnd (SQ.of (i.x j)) (SQ.of (i.x (4 + j)))
def LeIn.ssA (i : LeIn) (k j : Nat) : SQ := SQ.rnd (i.q (11 + 4 * k + j)) (SQ.of (i.x (4 + j)))
def LeIn.ssX (i : LeIn) (k : Nat) : SQ := SQ.sum (i.ssA k 0) [i.ssA k 1, i.ssA k 2, i.ssA k 3, i.rnd (27 + k) i.e]

/-- The unclamped output v. -/
def LeIn.law (i : LeIn) (ty nsub : Nat) (dmeas : Bool) : SQ :=
  let f := SQ.of i.f
  match ty with
  | 0 => SQ.sum (i.rnd 11 i.e) [i.q 14, f]
  | 1 => SQ.sum (i.rnd 11 i.e) [i.q 16, i.pidXd dmeas, f]
  | 2 => SQ.sum (i.rnd 11 i.e) ((List.range (nsub + 1)).map i.prY ++ [f])
  | 3 =>
    let w0 := i.ll 11 i.e
    SQ.add (if nsub = 0 then w0 else i.ll 16 w0) f
  | 4 => SQ.add i.notch f
  | _ => SQ.sum (i.ssC 0) [i.ssC 1, i.ssC 2, i.ssC 3, i.rnd 31 i.e, f]

/-- XI′ of PI and PID. -/
def LeIn.xi (i : LeIn) (xi : Nat) (v u : Int) : SQ :=
  SQ.sum (i.q xi) [i.rnd 12 i.e, i.rnd 13 (SQ.sub (SQ.of u) (SQ.of v))]

/-- The state words after the update, by word of the slot (32 and above: of its extension). -/
def LeIn.update (i : LeIn) (ty nsub : Nat) (dmeas : Bool) (v u : Int) : List (Nat × SQ) :=
  match ty with
  | 0 => [(14, i.xi 14 v u)]
  | 1 => [(16, i.xi 16 v u), (17, i.pidXd dmeas), (18, i.pidD dmeas)]
  | 2 => if u = v then (List.range (nsub + 1)).flatMap (fun t => [(16 + 5 * t, i.q (15 + 5 * t)), (15 + 5 * t, i.prY t)])
      else []
  | 3 =>
    let w0 := i.ll 11 i.e
    let last := fun (w : SQ) => if u = v then w else SQ.sub (SQ.of u) (SQ.of i.f)
    if nsub = 0 then [(14, i.e), (15, last w0)] else [(14, i.e), (15, w0), (19, w0), (20, last (i.ll 16 w0))]
  | 4 =>
    let w := i.notch
    [(17, i.q 16), (16, i.e), (19, i.q 18), (18, if u = v then w else SQ.sub (SQ.of u) (SQ.of i.f))]
  | _ => if u = v then (List.range 4).map (fun k => (36 + k, i.ssX k)) else []

/-! ### One slot -/

/-- The number of lead-lag sections minus 1 is 0 or 1; PR uses `NSUB` as it stands. -/
def CtrlDie.nsub (x : CtrlDie) (s : Nat) : Nat :=
  if x.ctrl s 28 3 = 3 then min (x.ctrl s 14 2) 1 else x.ctrl s 14 2

/-- A source index is in range (R178). -/
def srcOk (kind idx : Nat) : Bool :=
  match kind with
  | 0 => true
  | 1 => true
  | 2 => decide (idx < 64)
  | 3 => decide (idx < 32)
  | _ => false

/-- Valid but for the limit of 16 members (R178). -/
def Dev.slotValid (s : Dev) (d i : Nat) : Bool :=
  let x := s.cd d
  let ty := x.ctrl i 28 3
  let g := x.ctrl i 22 5
  decide (ty < 6) && decide (x.leI (32 * i + 5) ≤ x.leI (32 * i + 6))
    && srcOk (x.src i 29 3) (x.src i 16 8) && srcOk (x.src i 13 3) (x.src i 0 8)
    && !(decide (ty = 5) && (decide (i % 2 = 1) || decide (x.ctrl (i + 1) 31 1 = 1)))
    && !(decide (x.ctrl i 27 1 = 1) && (!s.fbit (LE_GRP_CTL_EN d g)
      || decide (s.fget (LE_GRP_CTL_PHASE d g) ≠ x.ctrl i 20 2)))

/-- The slots a kick of phase p concerns, ascending (R163). -/
def CtrlDie.phaseSlots (x : CtrlDie) (p : Nat) : List Nat :=
  (List.range 256).filter (fun i => x.slotEn i && decide (x.ctrl i 20 2 = p))

/-- Valid members of group g among the slots of a phase: the 16 lowest-numbered (R178). -/
def Dev.members (s : Dev) (d g : Nat) (slots : List Nat) : List Nat :=
  (slots.filter (fun i => decide ((s.cd d).ctrl i 27 1 = 1) && decide ((s.cd d).ctrl i 22 5 = g) && s.slotValid d i)).take 16

/-- What a source gives (R170); kind 0 keeps the word. -/
def Dev.leSource (s : Dev) (d kind idx : Nat) (own vel : Nat) : W32 :=
  let x := s.cd d
  match kind with
  | 0 => x.leWord own
  | 1 => x.leWord (32 * idx + 7)
  | 2 => x.leWord (genBase idx + vel)
  | _ => BitVec.ofNat 32 (s.fget (LE_GRP_CTL_OUT d idx))

/-- Fetches r and f into their words. -/
def Dev.leFetch (s : Dev) (d i : Nat) : Dev :=
  let x := s.cd d
  let r := s.leSource d (x.src i 29 3) (x.src i 16 8) (32 * i + 2) 6
  let f := s.leSource d (x.src i 13 3) (x.src i 0 8) (32 * i + 4) 7
  s.setCd d ((x.setLe (32 * i + 2) r).setLe (32 * i + 4) f)

/-- Following error after c is known (R192-R196). -/
def Dev.followErr (s : Dev) (d i : Nat) (e : Int) : Dev :=
  let x := s.cd d
  if x.ctrl i 17 1 = 0 then s
  else
    let t := x.leN (32 * i + 9)
    let tmax := max (bitsOf t 16 16) 1
    let cnt := bitsOf t 0 16
    let cnt' := if x.leN (32 * i + 8) < e.natAbs then min (cnt + 1) 0xFFFF else 0
    let s := s.modCd d (fun x => x.setLeBits (32 * i + 9) 0 16 cnt')
    if cnt < tmax ∧ tmax ≤ cnt' ∧ ¬ x.stat i 25 then
      let react := x.ctrl i 18 2
      let gen := x.src i 16 8
      let s := s.modCd d (fun x => x.setStat i 25 true)
      let s := match react with
        | 1 => if x.src i 29 3 = 2 then s.modCd d (fun x => x.setPctl gen 26 1 1) else s
        | 2 => if x.src i 29 3 = 2 then s.modCd d (fun x => x.setPctl gen 25 1 1) else s
        | 3 => s.fset (if x.ctrl i 13 1 = 1 then LE_FEBLK_CONV1 d else LE_FEBLK_CONV0 d) 1
        | _ => s
      s.report (if react = 0 then .corr else .cont) .loop (256 * d + i) react 0
    else s

/-- Writes the state words of a slot, and its status bits, once u is known (R175, R176). -/
def CtrlDie.settleSlot (x : CtrlDie) (i : Nat) (u : Int) (win lost : Bool) : CtrlDie :=
  let inp := x.leIn i
  let ty := x.ctrl i 28 3
  let v := inp.law ty (x.nsub i) (decide (x.ctrl i 16 1 = 1))
  let upd := inp.update ty (x.nsub i) (decide (x.ctrl i 16 1 = 1)) v.v u
  let ovf := v.o || upd.any (fun e => e.2.o)
  let x := forAll upd x (fun y e => y.setLeI (32 * i + e.1) e.2.v)
  ((((x.setStat i 30 (decide (u < v.v))).setStat i 29 (decide (v.v < u))).setStat i 28 lost).setStat i 27 win).setStat i 26 ovf

/-- c of the latest evaluation. -/
def CtrlDie.slotC (x : CtrlDie) (i : Nat) : Int := x.leI (32 * i + 7)

/-! ### Groups (R181) -/

/-- The member with the lowest sg × c, the lowest number among equals. -/
def CtrlDie.winner (x : CtrlDie) (inv : Bool) : List Nat → Option Nat
  | [] => none
  | m :: ms =>
    let sg := fun i => if inv then -(x.slotC i) else x.slotC i
    match CtrlDie.winner x inv ms with
    | none => some m
    | some n => if sg m ≤ sg n then some m else some n

/-- Resolves group g over its valid members. -/
def Dev.resolve (s : Dev) (d g : Nat) (mem : List Nat) : Dev :=
  match (s.cd d).winner (s.fbit (LE_GRP_CTL_INV d g)) mem with
  | none => s
  | some win =>
    let lo := sx 32 (s.fget (LE_GRP_LIM_GMIN d g))
    let hi := sx 32 (s.fget (LE_GRP_LIM_GMAX d g))
    let ug := if hi < lo then lo else qclamp ((s.cd d).slotC win) lo hi
    let s := s.modCd d (fun x => forAll mem x (fun y m => y.settleSlot m ug (decide (m = win)) (decide (m ≠ win))))
    let s := s.fset (LE_GRP_CTL_OUT d g) (ux 32 ug)
    (s.fset (LE_GRP_CTL_WIN d g) win).fset (LE_GRP_CTL_NMEM d g) mem.length

/-! ### Relay auto-tune (R203-R208) -/

/-- The word of XI by type. -/
def xiWord (ty : Nat) : Nat := if ty = 0 then 14 else 16

/-- The end of a test: the slot resumes its law without a step (R206). -/
def CtrlDie.tuneEnd (x : CtrlDie) (a : Autotune) : CtrlDie :=
  let i := x.leIn a.slot
  let xi := SQ.sub (SQ.sub (SQ.of (sx 32 a.u0.toNat)) (i.rnd 11 i.e)) (SQ.of i.f)
  let x := x.setLeI (32 * a.slot + xiWord (x.ctrl a.slot 28 3)) xi.v
  { x.setStat a.slot 24 false with tune := none }

/-- Aborts a running test. -/
def Dev.tuneAbort (s : Dev) (d why : Nat) : Dev :=
  match (s.cd d).tune with
  | none => s
  | some a => ((s.modCd d (fun x => x.tuneEnd a)).fset (LE_AT_STAT_STATE d) 3).fset (LE_AT_STAT_WHY d) why

/-- Every value of a list lies within 3 % of the mean. -/
def within3 (l : List Int) : Bool :=
  let n : Int := l.length
  let sum := l.foldl (· + ·) 0
  l.all (fun a => decide (((n * a - sum).natAbs : Int) * 100 ≤ 3 * sum))

/-- π in binary32. -/
def f32Pi : Nat := 0x40490FDB

/-- The results of a completed test in binary32, by the formulas of R207 from left to right. -/
def Dev.tuneDone (s : Dev) (d : Nat) (a : Autotune) (ps : List (Nat × Int)) : Dev :=
  let n := ps.length
  let sumT := ps.foldl (fun t e => t + e.1) 0
  let sumA := ps.foldl (fun t e => t + e.2) (0 : Int)
  let tu := f32.ofRatio false sumT n
  let amp := f32.ofRatio false sumA.toNat (2 * n * 2 ^ 28)
  let eh := f32.ofInt (s.fget SH_AT_AMP_EH : Int) (-28)
  let dd := f32.ofInt (s.fget SH_AT_AMP_D : Int) (-28)
  let pm := s.fget SH_AT_CFG_PM
  let four := f32.ofInt 4 0
  let two := f32.ofInt 2 0
  let root := f32.sqrt (f32.sub (f32.mul amp amp) (f32.mul eh eh))
  let ku := f32.div (f32.mul four dd) (f32.mul f32Pi root)
  let kp := f32.mul ku (cosDeg pm)
  let tan := tanDeg pm
  let x := f32.div (f32.add tan (f32.sqrt (f32.add (f32.mul tan tan) (f32.ofInt 1 0)))) two
  let td := f32.div (f32.mul x tu) (f32.mul two f32Pi)
  let ti := f32.mul four td
  let s := s.modCd d (fun y => y.tuneEnd a)
  let s := (s.fset (LE_AT_STAT_STATE d) 2).fset (LE_AT_STAT_TU d) ((sumT * 65536 * 2 + n) / (2 * n))
  let s := (s.fset (LE_AT_KU_A d) ((sumA.toNat + n) / (2 * n))).fset (LE_AT_KU_KU d) ku
  let s := ((s.fset (LE_AT_PID_KP d) kp).fset (LE_AT_PID_TI d) ti).fset (LE_AT_TD_TD d) td
  (s.fset (LE_AT_PI_KP d) (f32.mul (f32.ofRatio false 2 5) ku)).fset (LE_AT_PI_TI d) (f32.mul (f32.ofRatio false 4 5) tu)

/-- One evaluation of the slot under test (R205, R206): the relay output, the periods, completion or the error limit. -/
def Dev.tuneEval (s : Dev) (d : Nat) (a : Autotune) (e : Int) : Dev :=
  if 26843546 ≤ e.natAbs then s.tuneAbort d 3
  else
    let eh : Int := s.fget SH_AT_AMP_EH
    let dd : Int := s.fget SH_AT_AMP_D
    let high := if eh < e then true else if e < -eh then false else a.high
    let u0 := sx 32 a.u0.toNat
    let s := s.modCd d (fun x => x.setLeI (32 * a.slot + 7) (if high then qadd u0 dd else qsub u0 dd))
    let up := decide (sx 32 a.eprev.toNat < 0) && decide (0 ≤ e)
    let ps := if up && a.started then (a.evals, a.emax - a.emin) :: a.periods else a.periods
    let n := s.fget SH_AT_CFG_NPER
    let ps := ps.take n
    let a' := { a with
      high := high, eprev := BitVec.ofInt 32 e, started := a.started || up, periods := ps
      evals := if up then 1 else a.evals + 1, emin := if up then e else min a.emin e, emax := if up then e else max a.emax e }
    if up ∧ ps.length = n ∧ within3 (ps.map (fun p => (p.1 : Int))) ∧ within3 (ps.map (fun p => p.2)) then s.tuneDone d a' ps
    else s.modCd d (fun x => { x with tune := some a' })

/-- A start delivered to the engine (R204). -/
def Dev.tuneStart (s : Dev) (d : Nat) : Dev :=
  let x := s.cd d
  let i := s.fget SH_AT_CFG_SLOT
  let pm := s.fget SH_AT_CFG_PM
  let n := s.fget SH_AT_CFG_NPER
  let why :=
    if s.mode ≠ 1 then 1
    else if 0x0051EB85 < s.fget SH_AT_AMP_D then 4
    else if !s.slotValid d i || decide (1 < x.ctrl i 28 3) || decide (x.ctrl i 27 1 = 1) then 5
    else if pm < 20 ∨ 75 < pm ∨ n < 2 ∨ 32 < n then 6
    else 0
  if why ≠ 0 then
    if x.tune.isSome then s else (s.fset (LE_AT_STAT_STATE d) 4).fset (LE_AT_STAT_WHY d) why
  else
    let a : Autotune :=
      { slot := i, u0 := x.leWord (32 * i + 7), high := true, eprev := 0, started := false, evals := 0, emin := 0, emax := 0,
        periods := [], since := s.sh.clk.raw }
    let s := match x.tune with
      | some b => s.modCd d (fun x => x.tuneEnd b)
      | none => s
    ((s.modCd d (fun x => { x.setStat i 24 true with tune := some a })).fset (LE_AT_STAT_STATE d) 1).fset (LE_AT_STAT_WHY d) 0

/-! ### LEKICK (R163, R164, R174-R183) -/

/-- Evaluates one slot of a kicked phase; a member's group is resolved after its highest valid member. -/
def Dev.evalSlot (s : Dev) (d : Nat) (slots : List Nat) (i : Nat) : Dev :=
  let x := s.cd d
  let inGrp := decide (x.ctrl i 27 1 = 1)
  let g := x.ctrl i 22 5
  let mem := if inGrp then s.members d g slots else []
  if !s.slotValid d i || (inGrp && decide (i ∉ mem)) then
    (s.modCd d (fun x => x.setStat i 31 true)).finc (LE_STAT_CFGERR_CNT d)
  else
    let s := (s.modCd d (fun x => x.setStat i 31 false)).leFetch d i
    let x := s.cd d
    let inp := x.leIn i
    match (match x.tune with
           | some a => if a.slot = i then some a else none
           | none => none) with
    | some a => (s.tuneEval d a inp.e.v).followErr d i inp.e.v
    | none =>
      let v := inp.law (x.ctrl i 28 3) (x.nsub i) (decide (x.ctrl i 16 1 = 1))
      let c := qclamp v.v (x.leI (32 * i + 5)) (x.leI (32 * i + 6))
      let s := s.modCd d (fun x => x.setLeI (32 * i + 7) c)
      let s := s.followErr d i inp.e.v
      if !inGrp then s.modCd d (fun x => x.settleSlot i c false false)
      else if mem.getLast? = some i then s.resolve d g mem
      else s

/-- Evaluates every slot of phase p; groups of the phase without a valid member report none (R183). -/
def Dev.kick (s : Dev) (d p : Nat) : Dev :=
  let slots := (s.cd d).phaseSlots p
  let s := forAll (List.range 32) s (fun s g =>
    if s.fget (LE_GRP_CTL_PHASE d g) = p ∧ (s.members d g slots).isEmpty then s.fset (LE_GRP_CTL_NMEM d g) 0 else s)
  forAll slots s (fun s i => s.evalSlot d slots i)

/-- LEKICK. -/
def execLekick (r : CoreRef) (rd : Reg) (k : BitVec 6) (s : State) : Out :=
  s.onCore r (fun d => d.instr r (encR 0x22 rd noReg noReg 5 k.toNat) (decide (k.toNat < 4)) .voted (fun t d =>
    let i := r.die.idx
    let f : Field := { (LE_STAT_KICKED i) with lo := k.toNat, width := 1 }
    if d.fbit f then
      .done ((d.finc (LE_STAT_KICKREF i)).modCd i (fun x => x.setReg r.core.val t rd 1))
    else .done (((d.fset f 1).kick i k.toNat).modCd i (fun x => x.setReg r.core.val t rd 0))))

/-- The index LERD names is in range. -/
def lerdOk (k a : Nat) : Bool :=
  match k with
  | 0 => decide (a < 256)
  | 1 => decide (a < 32)
  | 2 => decide (a < 64)
  | 3 => decide (a < 64)
  | _ => false

/-- The value LERD returns. -/
def Dev.lerd (s : Dev) (d k a : Nat) : W64 :=
  let x := s.cd d
  let v := match k with
    | 0 => x.leWord (32 * a + 7)
    | 1 => BitVec.ofNat 32 (s.fget (LE_GRP_CTL_OUT d a))
    | 2 => x.leWord (genBase a + 6)
    | _ => x.leWord (genBase a + 7)
  v.signExtend 64

/-- LERD (R166, R392). -/
def execLerd (r : CoreRef) (rd ra : Reg) (k : BitVec 6) (s : State) : Out :=
  let word := encR 0x22 rd ra noReg 6 k.toNat
  s.onCore r (fun d => d.instr r word true .both (fun t d =>
    let x := d.cd r.die.idx
    let a := (x.reg r.core.val t ra).toNat
    if !lerdOk k.toNat a then .trap d 2 (BitVec.ofNat 64 word)
    else .done (d.setCd r.die.idx (x.setReg r.core.val t rd (d.lerd r.die.idx k.toNat a)))))

/-! ### Profile generators (R185-R191) -/

def sgn (x : Int) : Int := if 0 < x then 1 else if x < 0 then -1 else 0

/-- Generator words as signed numbers; the limits are unsigned. -/
def CtrlDie.gw (x : CtrlDie) (p w : Nat) : Int := x.leI (genBase p + w)
def CtrlDie.gu (x : CtrlDie) (p w : Nat) : Int := (x.leN (genBase p + w) : Nat)
def CtrlDie.setGw (x : CtrlDie) (p w : Nat) (v : Int) : CtrlDie := x.setLeI (genBase p + w) v

/-- POS, VEL, ACC and ARR written. -/
def CtrlDie.genPut (x : CtrlDie) (p : Nat) (pos vel acc : Int) (arr : Bool) : CtrlDie :=
  (((x.setGw p 6 pos).setGw p 7 vel).setGw p 8 acc).setPctl p 23 1 (b2n arr)

/-- The SOFT step (R188). -/
def CtrlDie.softStep (x : CtrlDie) (p : Nat) : CtrlDie :=
  let ss := x.gu p 5
  let d := qsub (x.gw p 1) (x.gw p 6)
  let m := qclamp d (-ss) ss
  let pos := qadd (x.gw p 6) m
  if pos = x.gw p 1 then x.genPut p pos 0 0 true else x.genPut p pos m 0 false

/-- The S-curve step toward t (R189), or toward a stop, which leaves out the arrival test. -/
def CtrlDie.sStep (x : CtrlDie) (p : Nat) (t : Int) (stop : Bool) : CtrlDie :=
  let vmax := x.gu p 2
  let amax := x.gu p 3
  let jmax := x.gu p 4
  let pos := x.gw p 6
  let d := qsub t pos
  let vdes := if stop then 0 else sgn d * min vmax (isqrt (x.leN (genBase p + 3) * d.natAbs) : Nat)
  let acc0 := x.gw p 8
  let acc := qadd acc0 (qclamp (qsub (qclamp (qsub vdes (x.gw p 7)) (-amax) amax) acc0) (-jmax) jmax)
  let vel := qclamp (qadd (x.gw p 7) acc) (-vmax) vmax
  if !stop ∧ d ≠ 0 ∧ sgn vel = sgn d ∧ d.natAbs ≤ vel.natAbs then x.genPut p t 0 0 true
  else if d = 0 ∧ vel = 0 then x.genPut p pos 0 0 true
  else x.genPut p (qadd pos vel) vel acc false

/-- One step of an enabled generator (R187). -/
def CtrlDie.genStep (x : CtrlDie) (p : Nat) : CtrlDie :=
  let st := x.pctl p 28 3
  let hold := decide (x.pctl p 26 1 = 1)
  let rdn := decide (x.pctl p 25 1 = 1)
  let bad := decide (x.gu p 2 = 0) || decide (x.gu p 3 = 0) || decide (x.gu p 4 = 0) || decide (x.gu p 5 = 0)
    || !x.slotEn (x.pctl p 8 8)
  let go := fun (n : Nat) (y : CtrlDie) => y.setPctl p 28 3 n
  if bad then go 4 ((x.setGw p 7 0).setGw p 8 0)
  else if x.pctl p 27 1 = 1 then
    let x := (x.setLe (genBase p + 6) (x.leWord (32 * x.pctl p 8 8 + 3))).setPctl p 27 1 0
    go 1 (((x.setGw p 7 0).setGw p 8 0).softStep p)
  else if st = 1 then
    let x := x.softStep p
    go (if x.gw p 6 = x.gw p 1 then 0 else 1) x
  else if (st = 0 ∨ st = 2) ∧ rdn then go 3 (x.sStep p (x.gw p 9) false)
  else if st = 0 ∧ hold then go 2 (x.sStep p (x.gw p 1) true)
  else if (st = 2 ∨ st = 3) ∧ !rdn ∧ !hold then go 0 (x.sStep p (x.gw p 1) false)
  else if st = 2 then x.sStep p (x.gw p 1) true
  else if st = 3 then x.sStep p (x.gw p 9) false
  else if st = 0 then x.sStep p (x.gw p 1) false
  else go 0 ((x.setGw p 7 0).setGw p 8 0)

/-- The generator step of a cycle, in ascending index (R167). -/
def CtrlDie.genSteps (x : CtrlDie) : CtrlDie :=
  forAll (List.range 64) x (fun y p => if y.pctl p 31 1 = 1 then y.genStep p else y)

/-- `INV` on every enabled generator (R190). -/
def CtrlDie.genInv (x : CtrlDie) : CtrlDie :=
  forAll (List.range 64) x (fun y p => if y.pctl p 31 1 = 1 then y.setPctl p 27 1 1 else y)

/-! ### Engine blocks of the mirror (R197-R199) -/

/-- The state words of a type, in the order of R172 (32 and above: of the extension). -/
def stateWords (ty : Nat) : List Nat :=
  match ty with
  | 0 => [14]
  | 1 => [16, 17, 18]
  | 2 => [15, 16, 20, 21, 25, 26, 30, 31]
  | 3 => [14, 15, 19, 20]
  | 4 => [16, 17, 18, 19]
  | 5 => [36, 37, 38, 39]
  | _ => []

/-- 64-byte block of 16 words. -/
def blkOfWords (l : List W32) : Blk := BitVec.ofNat 512 (l.foldr (fun w a => w.toNat + a * 2 ^ 32) 0)
def Blk.word (b : Blk) (i : Nat) : W32 := BitVec.ofNat 32 (bitsOf b.toNat (32 * i) 32)

def CtrlDie.mirSlots (x : CtrlDie) : List Nat := (List.range 256).filter (fun i => decide (x.ctrl i 12 1 = 1) && !x.leExt i)
def CtrlDie.mirGens (x : CtrlDie) : List Nat := (List.range 64).filter (fun p => decide (x.pctl p 24 1 = 1))

def CtrlDie.slotBlock (x : CtrlDie) (i : Nat) : Blk :=
  blkOfWords ([BitVec.ofNat 32 (0x01000000 + i), x.leWord (32 * i + 7), x.leWord (32 * i + 9), x.leWord (32 * i + 10)]
    ++ (stateWords (x.ctrl i 28 3)).map (fun w => x.leWord (32 * i + w)))

def CtrlDie.genWords (x : CtrlDie) (p : Nat) : List W32 :=
  [x.leWord (genBase p), x.leWord (genBase p + 6), x.leWord (genBase p + 7), x.leWord (genBase p + 8)]

/-- Generators three to a block, ascending; fuel bounds the blocks. -/
def CtrlDie.genBlocks (x : CtrlDie) : Nat → List Nat → List Blk
  | 0, _ => []
  | _, [] => []
  | n + 1, p :: ps =>
    blkOfWords (BitVec.ofNat 32 (0x02000000 + p) :: ((p :: ps).take 3).flatMap x.genWords) ::
      CtrlDie.genBlocks x n (ps.drop 2)

def CtrlDie.engineBlocks (x : CtrlDie) : List Blk := x.mirSlots.map x.slotBlock ++ x.genBlocks 22 x.mirGens

/-- Loads one engine block of a committed mirror (R199). -/
def CtrlDie.loadBlock (x : CtrlDie) (b : Blk) : CtrlDie :=
  let w0 := (Blk.word b 0).toNat
  if w0 / 2 ^ 24 = 1 then
    let i := w0 % 256
    let x := ((x.setLe (32 * i + 7) (Blk.word b 1)).setLe (32 * i + 9) (Blk.word b 2)).setLe (32 * i + 10) (Blk.word b 3)
    let ws := stateWords (x.ctrl i 28 3)
    forAll (List.range ws.length) x (fun y j => y.setLe (32 * i + ws.getD j 0) (Blk.word b (4 + j)))
  else if w0 / 2 ^ 24 = 2 then
    let ps := (x.mirGens.filter (fun p => decide (w0 % 64 ≤ p))).take 3
    forAll (List.range ps.length) x (fun y j =>
      let p := ps.getD j 0
      ((((y.setLe (genBase p) (Blk.word b (1 + 4 * j))).setLe (genBase p + 6) (Blk.word b (2 + 4 * j))).setLe
        (genBase p + 7) (Blk.word b (3 + 4 * j))).setLe (genBase p + 8) (Blk.word b (4 + 4 * j))))
  else x

/-! ### Parameters from the host (R200-R202) -/

/-- R202 allows the write that a value of `SH_LE_PARAM` describes, by the mode and by the slot's type in die d. -/
def Dev.leParamOk (s : Dev) (d : Nat) (v : W64) : Bool :=
  let n := v.toNat
  let w := bitsOf n 40 5
  let x := s.cd d
  if bitOf n 32 then
    (if s.quiet then true else decide (w = 1) || decide (w = 2) || decide (w = 3) || decide (w = 4) || decide (w = 5)
      || decide (w = 9))
  else
    let i := bitsOf n 45 8
    let ext := x.leExt i
    if s.quiet then !(decide (w = 7) && !ext) && !decide (w = 10)
    else if ext then decide (w < 4)
    else decide (w = 5) || decide (w = 6) || decide (w = 8) || decide (w = 9)
      || (decide (11 ≤ w) && x.leListed i w && !decide (w ∈ stateWords (x.ctrl i 28 3)))

/-- The cycle whose tally set carries what is sent now: the next (R201). -/
def Dev.nextSet (s : Dev) : Nat := if s.sh.clk.gridOn then s.sh.clk.cyc + 1 else 0

/-- The lowest-numbered powered control die, whose descriptors the shepherd goes by. -/
def Dev.firstCd (s : Dev) : Nat := ((List.range 4).find? (fun d => s.powered d)).getD 0

/-- LE_PARAM_GO: sends one parameter write to every powered control die. -/
def Dev.leParamGo (s : Dev) (v : W64) : Dev :=
  let s := s.plainWrite SH_LE_PARAM v
  if !v.getLsbD 63 then s
  else if s.fbit SH_LE_PARAM_BUSY then s.refuseWr SH_LE_PARAM
  else if !s.leParamOk s.firstCd v then (s.fset SH_LE_PARAM_REFD 1).refuseWr SH_LE_PARAM
  else
    let s := (s.fset SH_LE_PARAM_REFD 0).fset SH_LE_PARAM_BUSY 1
    forAll (List.range 4) s (fun s d => if s.powered d then s.modCd d (fun x => { x with leReq := some (v, s.nextSet) }) else s)

/-- The engine applies a delivered parameter write. -/
def CtrlDie.leApply (x : CtrlDie) (v : W64) : CtrlDie :=
  let n := v.toNat
  let w := bitsOf n 40 5
  let val := BitVec.ofNat 32 n
  if bitOf n 32 then (if w < 16 then x.leWrite (genBase (bitsOf n 45 6) + w) val else x)
  else x.leWrite (32 * bitsOf n 45 8 + w) val

/-- What the delivery of cycle k brings each engine before its generator step (R201, R203, R389). -/
def Dev.leDeliver (s : Dev) (d k : Nat) : Dev :=
  let s := match (s.cd d).leReq with
    | some (v, n) => if n ≤ k then s.modCd d (fun x => { x.leApply v with leReq := none }) else s
    | none => s
  let (due, rest) := (s.cd d).tuneReq.partition (fun e => decide (e.2 ≤ k))
  forAll due (s.modCd d (fun x => { x with tuneReq := rest })) (fun s e => if e.1 then s.tuneStart d else s.tuneAbort d 7)

/-- LE_PARAM_GO. -/
def execLeParamGo (v : W64) (s : State) : Out := s.upd (fun d => d.leParamGo v)

/-- Sends a start or an abort to every lane. -/
def Dev.tuneSend (s : Dev) (start : Bool) : Dev :=
  forAll (List.range 4) s (fun s d =>
    if s.powered d then s.modCd d (fun x => { x with tuneReq := x.tuneReq ++ [(start, s.nextSet)] }) else s)

/-- AUTOTUNE_START, AUTOTUNE_ABORT. -/
def execAutotuneStart (s : State) : Out := s.upd (fun d => d.tuneSend true)
def execAutotuneAbort (s : State) : Out := s.upd (fun d => d.tuneSend false)


end Sys2Proof.Machine
end

