-- ==== Sys2Proof/Machine/LoadStore.lean ====
section
/-!
DEFINITION. Loads and stores of the Kraind cores (R364, R368-R371, R375), data SRAM and die register space alike.
-/
namespace Sys2Proof.Machine

/-! ### Die register space (R369, R446) -/

/-- A write of `SCH_PART(p)` (R413, R446): p = 0 is read-only, p = 1 holds cores only, and p = 2-15 take effect only while
    the partition has no task. A core it newly allows is taken at once (R424). -/
def Dev.partitionWrite (s : Dev) (d p : Nat) (v : W64) : Dev :=
  if p = 0 then s
  else if 2 ≤ p ∧ (s.cd d).tasks.any (fun e => decide (e.2.part = p) && decide (e.2.state ≠ .free)) then
    s.finc (SCH_STAT_SVCREF d)
  else (s.plainWrite (SCH_PART d p) v).resched d

/-- A store of a non-trapping access to offset o: descriptor words under their access types, `SCH_CFG` and `SCH_PART` from
    partition 1 only, every other register under its access type. -/
def Dev.dieStore (s : Dev) (d part o : Nat) (v : W64) : Dev :=
  if isDesc o then s.modCd d (fun x => x.leWrite ((o - 0x60000) / 4) (v.setWidth 32))
  else if o = 0x70000 then (if part = 1 then s.plainWrite (SCH_CFG d) v else s)
  else if 0x70100 ≤ o ∧ o < 0x70180 then (if part = 1 then s.partitionWrite d ((o - 0x70100) / 8) v else s)
  else if o = 0x70010 then s.schDbgWrite d v
  else if o = 0x70028 then s.dbgWrite d v
  else s.plainWrite (cdBase d + o) v

/-- A load of a non-trapping access; a read acts as the register's access type gives. -/
def Dev.dieLoad (s : Dev) (d o : Nat) : W64 × Dev :=
  if isDesc o then (((s.cd d).leShown ((o - 0x60000) / 4)).setWidth 64, s)
  else if o = 0x70028 then (s.dbgRead d, s)
  else s.readReg (cdBase d + o) false

/-! ### Loads and stores -/

/-- The address ra + sext(imm16). -/
def CtrlDie.addr (x : CtrlDie) (c t : Nat) (ra : Reg) (imm : W16) : W64 := x.reg c t ra + imm.signExtend 64

/-- A loaded value of n bytes, sign- or zero-extended. -/
def extend (n : Nat) (signed : Bool) (v : Nat) : W64 :=
  if signed then BitVec.ofInt 64 (sx (8 * n) v) else BitVec.ofNat 64 v

/-- A load of n bytes by task t of core c. -/
def Dev.load (s : Dev) (d c t : Nat) (rd : Reg) (a : W64) (n : Nat) (signed : Bool) : Ires :=
  match s.accessCheck d t false a.toNat n with
  | some cause => .trap s cause a
  | none =>
    if inSram a.toNat then
      match s.eccRead d a.toNat n with
      | none => .trap (s.eccFail d a.toNat) 6 0
      | some s =>
        .done (s.modCd d (fun x =>
          (x.modTask t (fun k => k.touch (a.toNat / 64))).setReg c t rd (extend n signed (x.seen t a.toNat n))))
    else
      let (v, s) := s.dieLoad d (a.toNat - 0x30000000)
      .done (s.modCd d (fun x => x.setReg c t rd (extend n signed (bitsOf v.toNat 0 (8 * n)))))

/-- A store of the low n bytes of v: held back inside a sequence, and waiting while another core's exclusive attempt holds
    its line (R379, R380). -/
def Dev.store (s : Dev) (d c t : Nat) (a : W64) (n : Nat) (v : W64) : Ires :=
  match s.accessCheck d t true a.toNat n with
  | some cause => .trap s cause a
  | none =>
    let k := (s.cd d).task t
    if inSram a.toNat then
      match k.seq with
      | some q =>
        .done (s.modCd d (fun x => x.setTask t ({ k with seq := some (q.hold a.toNat n v.toNat) }.touch (a.toNat / 64))))
      | none =>
        if (s.cd d).lineHeld c (a.toNat / 64) then .hold s
        else .done (s.modCd d (fun x => x.poke c a.toNat n v.toNat))
    else .hold ((s.advance d t).dieStore d k.part (a.toNat - 0x30000000) v)

/-- A load instruction. -/
def Dev.loadI (s : Dev) (r : CoreRef) (op : Nat) (rd ra : Reg) (imm : W16) (n : Nat) (signed : Bool) : Dev :=
  s.instr r (encI op rd ra imm) true .both (fun t s =>
    s.load r.die.idx r.core.val t rd ((s.cd r.die.idx).addr r.core.val t ra imm) n signed)

/-- A store instruction. -/
def Dev.storeI (s : Dev) (r : CoreRef) (op : Nat) (rd ra : Reg) (imm : W16) (n : Nat) : Dev :=
  s.instr r (encI op rd ra imm) true .both (fun t s =>
    let x := s.cd r.die.idx
    s.store r.die.idx r.core.val t (x.addr r.core.val t ra imm) n (x.reg r.core.val t rd))

/-- LDB. -/
def execLdb (r : CoreRef) (rd ra : Reg) (imm : W16) (s : State) : Out :=
  s.onCore r (fun d => d.loadI r 0x0A rd ra imm 1 true)

/-- LDBU. -/
def execLdbu (r : CoreRef) (rd ra : Reg) (imm : W16) (s : State) : Out :=
  s.onCore r (fun d => d.loadI r 0x0B rd ra imm 1 false)

/-- LDH. -/
def execLdh (r : CoreRef) (rd ra : Reg) (imm : W16) (s : State) : Out :=
  s.onCore r (fun d => d.loadI r 0x0C rd ra imm 2 true)

/-- LDHU. -/
def execLdhu (r : CoreRef) (rd ra : Reg) (imm : W16) (s : State) : Out :=
  s.onCore r (fun d => d.loadI r 0x0D rd ra imm 2 false)

/-- LDW. -/
def execLdw (r : CoreRef) (rd ra : Reg) (imm : W16) (s : State) : Out :=
  s.onCore r (fun d => d.loadI r 0x0E rd ra imm 4 true)

/-- LDWU. -/
def execLdwu (r : CoreRef) (rd ra : Reg) (imm : W16) (s : State) : Out :=
  s.onCore r (fun d => d.loadI r 0x0F rd ra imm 4 false)

/-- LDD. -/
def execLdd (r : CoreRef) (rd ra : Reg) (imm : W16) (s : State) : Out :=
  s.onCore r (fun d => d.loadI r 0x10 rd ra imm 8 false)

/-- STB: the low 8 bits of the rd-field register. -/
def execStb (r : CoreRef) (rd ra : Reg) (imm : W16) (s : State) : Out :=
  s.onCore r (fun d => d.storeI r 0x11 rd ra imm 1)

/-- STH: the low 16 bits of the rd-field register. -/
def execSth (r : CoreRef) (rd ra : Reg) (imm : W16) (s : State) : Out :=
  s.onCore r (fun d => d.storeI r 0x12 rd ra imm 2)

/-- STW: the low 32 bits of the rd-field register. -/
def execStw (r : CoreRef) (rd ra : Reg) (imm : W16) (s : State) : Out :=
  s.onCore r (fun d => d.storeI r 0x13 rd ra imm 4)

/-- STD: the low 64 bits of the rd-field register. -/
def execStd (r : CoreRef) (rd ra : Reg) (imm : W16) (s : State) : Out :=
  s.onCore r (fun d => d.storeI r 0x14 rd ra imm 8)

/-- PARTITION_WRITE: the store of a partition-1 task to `SCH_PART(p)` of its die. -/
def execPartitionWrite (die : CDie) (p : Fin 16) (v : W64) (s : State) : Out :=
  s.updIf (s.dev.present die.idx) (fun d => if d.powered die.idx then d.partitionWrite die.idx p.val v else d)

/-- LEGACY_POP (R569): a non-voted task's LDD of `CDx_LEGQ`. -/
def execLegacyPop (r : CoreRef) (rd : Reg) (s : State) : Out :=
  s.onCore r (fun d => d.instr r (encI 0x10 rd noReg 0) true .nonVoted (fun t d =>
    let (v, d) := d.readReg (cdBase r.die.idx + 0x7F000) false
    .done (d.modCd r.die.idx (fun x => x.setReg r.core.val t rd v))))

end Sys2Proof.Machine
end

