-- ==== Sys2Proof/Machine/Control.lean ====
section
/-!
DEFINITION. Control flow of the Kraind cores: branches and jumps (R374), calls and returns with their windows (R353-R356,
R361, R362), atomic sequences (R376-R381), TIME (R397).
-/
namespace Sys2Proof.Machine

/-! ### Branches and jumps -/

/-- PC + 4 + 4 × sext(offset). -/
def target (pc : W64) (off : Int) : W64 := pc + 4 + BitVec.ofInt 64 (4 * off)

/-- A branch on a condition over ra and rb. -/
def Dev.branch (s : Dev) (r : CoreRef) (op : Nat) (ra rb : Reg) (off : W16) (cond : W64 → W64 → Bool) : Dev :=
  s.instr r (encB op ra rb off) true .both (fun t s =>
    let x := s.cd r.die.idx
    if cond (x.reg r.core.val t ra) (x.reg r.core.val t rb) then .goto s (target (x.task t).pc off.toInt) else .done s)

/-- BEQ. -/
def execBeq (r : CoreRef) (ra rb : Reg) (off : W16) (s : State) : Out :=
  s.onCore r (fun d => d.branch r 0x18 ra rb off (fun a b => decide (a = b)))

/-- BNE. -/
def execBne (r : CoreRef) (ra rb : Reg) (off : W16) (s : State) : Out :=
  s.onCore r (fun d => d.branch r 0x19 ra rb off (fun a b => decide (a ≠ b)))

/-- BLT: signed. -/
def execBlt (r : CoreRef) (ra rb : Reg) (off : W16) (s : State) : Out :=
  s.onCore r (fun d => d.branch r 0x1A ra rb off (fun a b => a.slt b))

/-- BGE: signed. -/
def execBge (r : CoreRef) (ra rb : Reg) (off : W16) (s : State) : Out :=
  s.onCore r (fun d => d.branch r 0x1B ra rb off (fun a b => !a.slt b))

/-- BLTU. -/
def execBltu (r : CoreRef) (ra rb : Reg) (off : W16) (s : State) : Out :=
  s.onCore r (fun d => d.branch r 0x1C ra rb off (fun a b => a.ult b))

/-- BGEU. -/
def execBgeu (r : CoreRef) (ra rb : Reg) (off : W16) (s : State) : Out :=
  s.onCore r (fun d => d.branch r 0x1D ra rb off (fun a b => !a.ult b))

/-- J. -/
def execJ (r : CoreRef) (off : BitVec 26) (s : State) : Out :=
  s.onCore r (fun d => d.instr r (encJ 0x1E off) true .both (fun t d =>
    .goto d (target ((d.cd r.die.idx).task t).pc off.toInt)))

/-! ### Calls -/

/-- One call window more, or fewer, above the handler of the innermost trap. -/
def callUp (l : List Nat) : List Nat :=
  match l with
  | [] => []
  | n :: ns => (n + 1) :: ns

def callDown (l : List Nat) : List Nat :=
  match l with
  | [] => []
  | n :: ns => (n - 1) :: ns

/-- The window a call starts in: w0-w14 zero, w15 the return address (R353). -/
def callWindow (ret : W64) : List W64 := List.replicate 15 0 ++ [ret]

/-- A call to an address. Without a free call window the oldest is spilled; in the trap window that overflow is a trap
    itself (R355, R362). A spill that stops the running task leaves the call undone (R357). -/
def Dev.doCall (s : Dev) (d c t : Nat) (dest : W64) : Ires :=
  let k := (s.cd d).task t
  if k.inTrap ∧ 23 ≤ ((s.cd d).core c).wins.length then .trap s 0 0
  else
    if (s.cd d).roomHeld c t k.depth then .hold s
    else
    let s := s.makeRoom d c t k.depth
    let k := (s.cd d).task t
    if k.state ≠ .running then .hold (s.resched d)
    else
      .goto (s.modCd d (fun x =>
        (x.allocWin c t (k.depth + 1) (callWindow (next4 k.pc))).setTask t
          { k with depth := k.depth + 1, trapUp := callUp k.trapUp })) dest

/-- CALL. -/
def execCall (r : CoreRef) (off : BitVec 26) (s : State) : Out :=
  s.onCore r (fun d => d.instr r (encJ 0x1F off) true .both (fun t d =>
    d.doCall r.die.idx r.core.val t (target ((d.cd r.die.idx).task t).pc off.toInt)))

/-- CALLR: to the address in rb, which must be aligned. -/
def execCallr (r : CoreRef) (rb : Reg) (s : State) : Out :=
  s.onCore r (fun d => d.instr r (encR 0x20 noReg noReg rb 0 0) true .both (fun t d =>
    let a := (d.cd r.die.idx).reg r.core.val t rb
    if a.toNat % 4 ≠ 0 then .trap d 3 a else d.doCall r.die.idx r.core.val t a))

/-- Makes the window of the task's depth resident, unless the trap window is current (R356, R362). -/
def Dev.needWindow (s : Dev) (d c t : Nat) : Dev :=
  let k := (s.cd d).task t
  if k.inTrap ∨ (s.cd d).resident c t k.depth then s
  else
    let s := s.makeRoom d c t k.depth
    if ((s.cd d).task t).state ≠ .running then s else s.fill d c t k.depth

/-- RET. -/
def Dev.doRet (s : Dev) (d c t word : Nat) : Ires :=
  let k := (s.cd d).task t
  if k.inTrap then
    let w := (s.cd d).window c t
    if (regAt w 0).getLsbD 63 then .hold ((s.killTask d t ((regAt w 0).toNat % 256)).resched d)
    else if !(s.cd d).resident c t k.depth ∧ (s.cd d).roomHeld c t k.depth then .hold s
    else
      let s := s.modCd d (fun x => x.setTask t { k with trapUp := k.trapUp.tail, pc := regAt w 1 })
      .hold ((s.needWindow d c t).resched d)
  else if k.trapUp.isEmpty ∧ k.depth = 0 then .trap s 2 (BitVec.ofNat 64 word)
  else
    let s := s.modCd d (fun x =>
      let ret := regAt (x.window c t) 15
      let x := x.modCore c (fun y => { y with
        wins := y.wins.filter (fun w => !(decide (w.owner = t) && decide (w.depth = k.depth))) })
      x.setTask t { k with depth := k.depth - 1, trapUp := callDown k.trapUp, pc := ret })
    .hold (s.needWindow d c t)

/-- RET. -/
def execRet (r : CoreRef) (s : State) : Out :=
  let word := encR 0x20 noReg noReg noReg 1 0
  s.onCore r (fun d => d.instr r word true .both (fun t d => d.doRet r.die.idx r.core.val t word))

/-! ### Atomic sequences -/

/-- Another core's exclusive attempt runs (R380). -/
def CtrlDie.exclElse (x : CtrlDie) (c : Nat) : Bool :=
  x.cores.any (fun e => decide (e.1 ≠ c) &&
    (match e.2.task with
     | none => false
     | some t =>
       match (x.task t).seq with
       | none => false
       | some q => decide (4 ≤ q.fails)))

/-- The exclusive attempt of another core that executes fell due earlier and waits. -/
def CtrlDie.earlierDue (x : CtrlDie) (c mine : Nat) : Bool :=
  x.cores.any (fun e => decide (e.1 ≠ c) && !e.2.halted &&
    (match e.2.task with
     | none => false
     | some t => decide ((x.task t).seqDue ≠ 0) && decide ((x.task t).seqDue < mine)))

/-- The place of an attempt that falls due now. -/
def CtrlDie.duePlace (x : CtrlDie) : Nat := x.tasks.foldl (fun a e => max a e.2.seqDue) 0 + 1

/-- LOCKSEQ: opens a sequence; after four failures in a row the attempt is exclusive and waits for its turn. -/
def Dev.doLockseq (s : Dev) (d c t : Nat) : Ires :=
  let x := s.cd d
  let k := x.task t
  let fails := if k.seqAt = k.pc then k.seqFails else 0
  let mine := if k.seqDue = 0 then x.duePlace else k.seqDue
  if 4 ≤ fails ∧ (x.exclElse c ∨ x.earlierDue c mine) then
    .hold (s.modCd d (fun x => x.setTask t { k with seqDue := mine }))
  else
    let q : Seq :=
      { start := k.pc, lines := [], held := [], heldKeys := [], g := (x.core c).g, w := x.window c t, broken := false, fails := fails }
    .done (s.modCd d (fun x => x.setTask t { k with seq := some q, seqDue := 0 }))

/-- LOCKSEQ. -/
def execLockseq (r : CoreRef) (s : State) : Out :=
  s.onCore r (fun d => d.instr r (encR 0x20 noReg noReg noReg 2 0) true .both (fun t d =>
    d.doLockseq r.die.idx r.core.val t))

/-- The held stores become visible at one instant (R379). -/
def CtrlDie.commitSeq (x : CtrlDie) (c : Nat) (q : Seq) : CtrlDie :=
  let x := forAll q.heldKeys.eraseDups x (fun y a => y.poke c a 1 (q.held.byte a).toNat)
  { x with ecc := x.ecc.filter (fun e => !(List.range 8).all (fun i => decide (e.1 + i ∈ q.heldKeys))) }

/-- ENDSEQ: commits, or fails and returns to LOCKSEQ (R380); a halt or a preemption that waited takes effect after it.
    Without an open sequence it breaks the sequence rule (R359, R376; log entry 57). -/
def Dev.doEndseq (s : Dev) (d c t : Nat) : Ires :=
  let k := (s.cd d).task t
  match k.seq with
  | none => .trap s 2 (BitVec.ofNat 64 (encR 0x20 noReg noReg noReg 3 0))
  | some q =>
    if q.broken ∧ q.fails < 4 then
      let s := s.modCd d (fun x => (x.discardSeq c t q).modTask t (fun k => { k with seqFails := q.fails + 1, seqAt := q.start }))
      .hold ((if k.haltReq then s.haltNow d t else s).resched d)
    else if q.heldKeys.any (fun a => (s.cd d).lineHeld c (a / 64)) then .hold s
    else
      let s := s.modCd d (fun x => (x.commitSeq c q).modTask t (fun k => { k with
        seq := none, seqFails := 0, seqAt := 0, pc := next4 k.pc }))
      .hold ((if k.haltReq then s.haltNow d t else s).resched d)

/-- ENDSEQ. -/
def execEndseq (r : CoreRef) (s : State) : Out :=
  s.onCore r (fun d => d.instr r (encR 0x20 noReg noReg noReg 3 0) true .both (fun t d =>
    d.doEndseq r.die.idx r.core.val t))

/-! ### TIME (R396, R397) -/

/-- The value of a TIME selector for a task. Where no set had been delivered when its activation began, the instants of its cycle
    are free values (log entry 21). -/
def Dev.timeValue (s : Dev) (k : Nat) (y : Task) : W64 × Dev :=
  match k with
  | 1 => (BitVec.ofNat 64 y.cycle, s)
  | 3 => (s.now, s)
  | 4 => (BitVec.ofNat 64 (s.ts40 s.sh.clk.raw s.sh.clk.ofs), s)
  | _ =>
    match y.inst with
    | some e => (if k = 0 then e.1 else e.2, s)
    | none => s.free

/-- TIME: selectors 3 and 4 are not permitted in the voted partition. -/
def execTime (r : CoreRef) (rd : Reg) (k : BitVec 6) (s : State) : Out :=
  s.onCore r (fun d =>
    d.instr r (encR 0x20 rd noReg noReg 5 k.toNat) (decide (k.toNat < 5)) (if k.toNat < 3 then .both else .nonVoted)
      (fun t d =>
        let (v, d) := d.timeValue k.toNat ((d.cd r.die.idx).task t)
        .done (d.modCd r.die.idx (fun x => x.setReg r.core.val t rd v))))

end Sys2Proof.Machine
end

