-- ==== Sys2Proof/Machine/Select.lean ====
section
/-!
DEFINITION. The select unit (R128-R156): members, participants and excluded cells of a fold, the threshold procedure of
R139, the result block of R138, the explicit staging blocks of R154, and SEL.
-/
namespace Sys2Proof.Machine

/-! ### Tally sets and entries (R383, R384) -/

def blkZero (_ : Nat) : Blk := 0

/-- A cell's 64-byte entry; zero for a cell ID that names no enumerated cell. -/
def TallySet.entry (e : TallySet) (id : Nat) : Blk := Store.get blkZero e.cells id

/-- Fields of an entry: the tally's `STATE` and the status bits of R384. -/
def entState (b : Blk) : Nat := Blk.get b 14 16
def entPres (b : Blk) : Bool := bitOf b.toNat 511
def entIsol (b : Blk) : Bool := bitOf b.toNat 510
def entOver (b : Blk) : Bool := bitOf b.toNat 506

/-- A set no delivery has brought: what it would state is open (log entry 21). -/
def TallySet.blank (cycle : Nat) (t0 : W64) (period apply stile : Nat) : TallySet :=
  { cycle := cycle, t0 := t0, period := period, apply := apply, stile := stile, map := [], cells := [], aq := [], idig := 0
    folds := [] }

/-- `SH_FOLD_CFG(f)` of the set's cycle. -/
def TallySet.fold (e : TallySet) (f : Nat) : W64 := e.folds.getD f 0

/-- The tally set of a task's cycle (R382). -/
def Dev.theSet (s : Dev) (d cycle : Nat) : TallySet × Dev :=
  match (s.cd d).setOf cycle with
  | some e => (e, s)
  | none =>
    let (v, s) := s.free
    (TallySet.blank cycle v s.period s.apply s.stile, s)

/-! ### Keys and pairs (R124, R133, R153) -/

/-- The insertion key of R124 from VCAP, the key base, `HYS`, the applied state's code and whether the cell modulated. -/
def insKey (vcap kbase hys : Int) (ins : Nat) (mod : Bool) : Int :=
  let u := if kbase = 0 then 0 else (vcap * 2 ^ 28).tdiv kbase
  let h : Int := if mod then 0 else if ins = 1 then (hys.natAbs : Int) else if ins = 2 then -(hys.natAbs : Int) else 0
  clampI ((if 0 ≤ hys then u else -u) + h) (-0x7FFFFFFF) 0x7FFFFFFF

/-- (k1, i1) lies above (k2, i2). -/
def pairAbove (k1 : Int) (i1 : Nat) (k2 : Int) (i2 : Nat) : Bool :=
  decide (k2 < k1) || (decide (k1 = k2) && decide (i2 < i1))

/-! ### Who takes part (R128, R129) -/

/-- A participant of a fold. -/
structure Part where
  id : Nat
  key : Int
  fb : Bool
  v1 : Bool
  deriving DecidableEq, Repr

def mapV1 (w : W64) : Bool := w.getLsbD 9
def mapNmiss (w : W64) : Nat := bitsOf w.toNat 10 4

/-- Members of fold f, in ascending cell ID. -/
def TallySet.members (e : TallySet) (f : Nat) : List (Nat × W64) :=
  e.map.filter (fun m => decide (bitsOf m.2.toNat 0 4 = f))

/-- The conditions that a version-2 cell tests too hold: `PEN`, a participating `INS`, `LPROT` = 0, `SLCV` = 0. -/
def entCellOk (b : Blk) (v1 : Bool) : Bool :=
  let st := entState b
  (v1 || bitOf st 13) && decide (st % 8 < 4) && !bitOf st 10 && !bitOf st 11

/-- The ring protocol of the entry's cell suits its map entry. -/
def entRvOk (b : Blk) (m : W64) : Bool :=
  let rv := Blk.get b 0 16 / 16384
  decide (rv = 2) || (decide (rv = 1) && mapV1 m)

/-- The conditions that the lanes alone test, but for presence: `RV`, `CONF`, `OOS`, ring `OVER`. -/
def entLaneOk (b : Blk) (m : W64) : Bool := entRvOk b m && m.getLsbD 8 && !m.getLsbD 4 && !entOver b

/-- A participant. -/
def isPart (b : Blk) (m : W64) : Bool :=
  entPres b && !entIsol b && entLaneOk b m && entCellOk b (decide (Blk.get b 0 16 / 16384 = 1))

/-- Named in the exclusion list: a version-2 member that is absent, or that only a condition tested by the lanes alone
    keeps out (R129; log entry 27). -/
def isExcl (b : Blk) (m : W64) : Bool :=
  !mapV1 m && !entIsol b && (!entPres b || (entCellOk b false && !entLaneOk b m))

/-- H for the keys of version-1 cells: of the drove that applied latest before t0, whatever its `HOLD` (R153; log entries 28 and
    133). -/
def FoldSel.hysAt (x : FoldSel) (e : TallySet) : Int :=
  let lag := e.apply / max e.period 1 + 1
  match x.hysLog.find? (fun h => decide (h.1 + lag ≤ e.cycle)) with
  | some h => h.2.toInt
  | none => 0

/-- The participants of fold f with their keys. -/
def TallySet.parts (e : TallySet) (f : Nat) (kbase h : Int) : List Part :=
  (e.members f).filterMap (fun m =>
    let b := e.entry m.1
    let st := entState b
    let v1 := decide (Blk.get b 0 16 / 16384 = 1)
    if isPart b m.2 then
      some { id := m.1, fb := bitOf st 3, v1 := v1
             key := if v1 then insKey (sx 32 (Blk.get b 8 32)) kbase h (st % 8) (bitOf st 5) else sx 32 (Blk.get b 4 32) }
    else none)

def TallySet.excl (e : TallySet) (f : Nat) : List Nat :=
  ((e.members f).filter (fun m => isExcl (e.entry m.1) m.2)).map (fun m => m.1)

/-- Puts a participant into a list ranked by descending pair. -/
def rankIn (p : Part) : List Part → List Part
  | [] => [p]
  | q :: qs => if pairAbove q.key q.id p.key p.id then q :: rankIn p qs else p :: q :: qs

/-- By descending pair. -/
def rankDown (l : List Part) : List Part := l.foldr rankIn []

/-! ### The procedure of R139 -/

/-- What SEL decides for a fold. -/
structure Sel where
  blk : Bool
  hold : Bool
  negv : Bool
  clamp : Bool
  modlost : Bool
  xovf : Bool
  xblk : Bool
  nofb : Bool
  hcnt : Nat
  nIns : Nat
  nNeg : Nat
  thp : Int × Nat
  thn : Int × Nat
  excl : List Nat
  modSt : Nat
  modCmp : Nat
  mod : Option Part        -- the cell that modulates
  nPart : Nat
  nFb : Nat
  nV1 : Nat
  orph : Int
  deriving DecidableEq, Repr

/-- Thresholds that no cell passes above, and none below (R125). -/
def thpNone : Int × Nat := (0x7FFFFFFF, 0x3FFF)
def thnNone : Int × Nat := (-0x80000000, 0)

/-- A fold that is not enabled: `BLK`, all counts zero, no flag (R146). The thresholds are those of a blocked fold. -/
def Sel.blocked : Sel :=
  { blk := true, hold := false, negv := false, clamp := false, modlost := false, xovf := false, xblk := false, nofb := false
    hcnt := 0, nIns := 0, nNeg := 0, thp := thpNone, thn := thnNone, excl := [], modSt := 0, modCmp := 0, mod := none
    nPart := 0, nFb := 0, nV1 := 0, orph := 0 }

/-- P160 (R141). -/
def p160 (period : Nat) : Nat := period * 125 / 2

/-- The modulated cell (R140): the first version-2 candidate, else the first version-1 candidate on a ring that no
    lower-numbered fold has given one. -/
def chooseMod (cands : List Part) (takenRings : List Nat) : Option Part :=
  match cands.find? (fun p => !p.v1) with
  | some p => some p
  | none => cands.find? (fun p => p.v1 && !decide (p.id / 64 ∈ takenRings))

/-- Thresholds and counts without `BLK` and `HOLD`: level in Q15.16. -/
def Sel.level (x : Sel) (lev : Int) (negok : Bool) (parts : List Part) (period : Nat) (takenRings : List Nat) : Sel :=
  let down := rankDown parts
  let nP := parts.length
  let fbUp := (down.filter (fun p => p.fb)).reverse
  let nF := fbUp.length
  let pick := fun (x : Sel) (cands : List Part) (frac : Nat) =>
    if frac = 0 then x
    else match chooseMod cands takenRings with
    | none => { x with modlost := true }
    | some p =>
      let cmp := (frac * p160 period + 2 ^ 15) / 2 ^ 16
      if cmp = 0 then x else { x with modCmp := cmp, mod := some p }
  if 0 ≤ lev then
    let n := lev.toNat / 65536
    let full := decide (nP ≤ n)
    let nIns := min n nP
    let x := { x with
      nIns := nIns, clamp := decide ((nP : Int) * 65536 < lev)
      thp := if nIns = nP then thnNone
        else if nIns = 0 then thpNone
        else match down[nIns]? with
          | some p => (p.key, p.id)
          | none => thpNone }
    pick x (down.drop nIns) (if full then 0 else lev.toNat % 65536)
  else if !negok || decide (nF = 0) then { x with nofb := true, clamp := true }
  else
    let m := (-lev).toNat
    let n := m / 65536
    let full := decide (nF ≤ n)
    let nNeg := min n nF
    let x := { x with
      negv := true, nNeg := nNeg, clamp := decide (nF * 65536 < m), modSt := 1
      thn := if nNeg = nF then thpNone
        else if nNeg = 0 then thnNone
        else match fbUp[nNeg]? with
          | some p => (p.key, p.id)
          | none => thnNone }
    pick x (fbUp.drop nNeg) (if full then 0 else m % 65536)

/-- The request of R137. -/
structure SelReq where
  level : Int
  hys : W32
  blk : Bool
  hold : Bool
  deriving DecidableEq, Repr

def SelReq.of (l : List Byte) : SelReq :=
  { level := sx 32 (blkAt l 0 4), hys := BitVec.ofNat 32 (blkAt l 4 4), blk := bitOf (blkAt l 8 1) 0
    hold := bitOf (blkAt l 8 1) 1 }

/-- `HYS` as it goes into the drove (R126). -/
def SelReq.hysOut (q : SelReq) : W32 := if q.hys = 0x80000000 then 0xFFFFFFFF else q.hys

/-- ORPH (R143, R144): isolated members, by the last state they reported. -/
def CtrlDie.orph (x : CtrlDie) (e : TallySet) (f : Nat) : Int :=
  (e.members f).foldl (fun a m =>
    if !entIsol (e.entry m.1) then a
    else
      let from1 := Store.get (fun _ => 0) x.iso m.1
      if e.cycle + 1 < from1 + max (mapNmiss m.2) 2 then
        match Store.get (fun _ => 0) x.lastIns m.1 with
        | 2 => a + 1
        | 3 => a - 1
        | _ => a
      else a) 0

/-- The procedure of R139 for an enabled fold; `before` is the count it starts from. -/
def selDecide (e : TallySet) (f : Nat) (cfg : W64) (q : SelReq) (h : Int) (before : Nat) (orph : Int)
    (takenRings : List Nat) : Sel :=
  let parts := e.parts f (bitsOf cfg.toNat 0 32 : Nat) h
  let ex := e.excl f
  let ov := decide (6 < ex.length)
  let hc := if ov then min (before + 1) 31 else 0
  let xblk := ov && decide (bitsOf cfg.toNat 56 4 < hc)
  let x : Sel := { Sel.blocked with
    blk := xblk || q.blk, hold := (ov && !xblk) || (!q.blk && q.hold), xovf := ov, xblk := xblk, hcnt := hc
    excl := if ov then [] else ex, nPart := parts.length, nFb := (parts.filter (fun p => p.fb)).length
    nV1 := (parts.filter (fun p => p.v1)).length, orph := orph }
  if x.blk || x.hold then x else x.level q.level (cfg.getLsbD 61) parts e.period takenRings

/-! ### The result (R138) -/

/-- T_APPLY of a set's cycle. -/
def TallySet.tApply (e : TallySet) : Nat := (e.t0.toNat + 10 * e.apply) % 2 ^ 32

/-- Fields of a drove payload that every drove of the device fills in (R98, R99, R315). -/
def droveHead (f : Nat) (flags seq tApply : Nat) : List (Nat × Nat × Nat) :=
  [(0, 8, f * 16 + 2), (1, 8, flags), (2, 16, seq), (4, 32, tApply)]

/-- The bits of a drove payload that are not reserved (R98, R99). -/
def droveBits : Payload :=
  Pl.mk [(0, 8, 0xFF), (1, 8, 0x7F), (2, 16, 0xFFFF), (4, 32, 0xFFFFFFFF), (8, 16, 0x7FF), (10, 16, 0x7FF), (12, 32, 0xFFFFFFFF),
    (16, 16, 0x3FFF), (18, 32, 0xFFFFFFFF), (22, 16, 0x3FFF), (24, 16, 0xFFFF), (28, 32, 0xFFFFFFFF), (32, 32, 0xFFFFFFFF),
    (36, 16, 0x7FF), (38, 8, 7), (40, 96, 0x3FFF3FFF3FFF3FFF3FFF3FFF), (52, 64, 2 ^ 64 - 1)]

/-- The bits of an explicit payload that are not reserved (R106). -/
def explicitBits : Payload :=
  Pl.mk [(0, 8, 0xFF), (1, 8, 0xF), (2, 16, 0xFFFF), (4, 32, 0xFFFFFFFF), (8, 128, 2 ^ 128 - 1), (24, 8, 0x3F), (28, 32, 0xFFFFFFFF)]

/-- `FLAGS` of R99. -/
def droveFlags (blk hold expl conv spb modv negv : Bool) : Nat :=
  b2n blk + 2 * b2n hold + 4 * b2n expl + 8 * b2n conv + 16 * b2n spb + 32 * b2n modv + 64 * b2n negv

/-- The drove of R98; `EXPL` is set for a fold with version-1 members (log entry 29). `MOD_ID`, `MOD_CMP` and `MOD_ST` where no
    version-2 cell modulates are the model's choice (log entry 133). -/
def Sel.drove (x : Sel) (e : TallySet) (f : Nat) (conv : Bool) (hys : W32) : Payload :=
  let v2 := match x.mod with
    | some p => !p.v1
    | none => false
  let id := match x.mod with
    | some p => if p.v1 then 0 else p.id
    | none => 0
  let expl := (e.members f).any (fun m => mapV1 m.2)
  Pl.mk (droveHead f (droveFlags x.blk x.hold expl conv false v2 x.negv) (e.cycle % 65536) e.tApply
    ++ [(8, 16, x.nIns), (10, 16, x.nNeg), (12, 32, ux 32 x.thp.1), (16, 16, x.thp.2), (18, 32, ux 32 x.thn.1),
      (22, 16, x.thn.2), (24, 16, id + 16384 * x.modSt), (28, 32, if v2 then x.modCmp else 0), (32, 32, hys.toNat),
      (36, 16, x.nPart), (38, 8, x.excl.length)]
    ++ (List.range x.excl.length).map (fun i => (40 + 2 * i, 16, x.excl.getD i 0)))

/-- The 80 bytes of R138. -/
def Sel.result (x : Sel) (dr : Payload) : List Byte :=
  bytesOf dr.toNat 60 ++ bytesOf x.nPart 2 ++ bytesOf x.nFb 2 ++ bytesOf x.nV1 2 ++ bytesOf (ux 16 x.orph) 2
    ++ [BitVec.ofNat 8 (b2n x.clamp + 2 * b2n x.modlost + 4 * b2n x.xovf + 8 * b2n x.xblk + 16 * b2n x.nofb),
      BitVec.ofNat 8 x.hcnt] ++ bytesOf 0 10

/-! ### Explicit staging (R154) -/

def plZero (_ : Nat) : Payload := 0
def CtrlDie.stage (x : CtrlDie) (r : Nat) : Payload := Store.get plZero x.staging r
def CtrlDie.setStage (x : CtrlDie) (r : Nat) (p : Payload) : CtrlDie := { x with staging := Store.set plZero x.staging r p }

/-- The `POS` and `NEG` bits of position p written. -/
def plPosNeg (b : Payload) (p : Nat) (pos neg : Bool) : Payload :=
  BitVec.ofNat 480 (putBits (putBits b.toNat (64 + p) 1 (b2n pos)) (128 + p) 1 (b2n neg))

/-- `MOD_POS`, `MOD_CMP`, `MODV` and `MNEG` written. -/
def plMod (b : Payload) (p cmp : Nat) (modv neg : Bool) : Payload :=
  let b := Pl.put (Pl.put b 24 8 p) 28 32 cmp
  BitVec.ofNat 480 (putBits b.toNat 10 2 (b2n modv + 2 * b2n neg))

/-- What a fold's outcome writes for the version-1 member m: (`POS`, `NEG`). Under `BLK` both are set, as R154 has it; R107 reads
    otherwise (log entry 133). -/
def Sel.v1Bits (x : Sel) (parts : List Part) (prev : Payload) (m : Nat) : Bool × Bool :=
  let p := m % 64
  if x.blk then (true, true)
  else if x.hold then (bitOf prev.toNat (64 + p), bitOf prev.toNat (128 + p))
  else match parts.find? (fun q => decide (q.id = m)) with
  | none => (false, false)
  | some q =>
    if pairAbove q.key q.id x.thp.1 x.thp.2 then (true, false)
    else (false, x.negv && q.fb && pairAbove x.thn.1 x.thn.2 q.key q.id)

def foldSel (x : CtrlDie) (f : Nat) : FoldSel := Store.get (fun _ => FoldSel.reset) x.sel f
def CtrlDie.setSel (x : CtrlDie) (f : Nat) (y : FoldSel) : CtrlDie :=
  { x with sel := Store.set (fun _ => FoldSel.reset) x.sel f y }

/-- The modulated version-1 cells a fold has after this outcome: (ring, position, on-time, negative). -/
def Sel.mods (x : Sel) (y : FoldSel) : List (Nat × Nat × Nat × Bool) :=
  if x.blk then []
  else if x.hold then y.modHeld
  else match x.mod with
  | some p => if p.v1 then [(p.id / 64, p.id % 64, x.modCmp, decide (x.modSt = 1))] else []
  | none => []

/-- Writes the staging blocks of fold f's version-1 members (R154). Under `HOLD` `MODV` is set again too (log entry 66). -/
def CtrlDie.stageFold (x : CtrlDie) (e : TallySet) (f : Nat) (sel : Sel) (parts : List Part) : CtrlDie :=
  let y := foldSel x f
  let x := forAll y.staged x (fun x r => x.setStage r (plMod (x.stage r) 0 0 false false))
  let ms := (e.members f).filter (fun m => mapV1 m.2)
  let x := forAll ms x (fun x m =>
    let r := m.1 / 64
    let bits := sel.v1Bits parts (Store.get plZero x.prevExpl r) m.1
    x.setStage r (plPosNeg (x.stage r) (m.1 % 64) bits.1 bits.2))
  let mods := sel.mods y
  let x := forAll mods x (fun x m => x.setStage m.1 (plMod (x.stage m.1) m.2.1 m.2.2.1 true m.2.2.2))
  x.setSel f { y with staged := mods.map (fun m => m.1), modNow := mods }

/-! ### SEL -/

/-- The fold's count and history as a SEL for cycle k finds them (R145). -/
def FoldSel.begin (y : FoldSel) (k : Nat) : FoldSel :=
  if y.everSel ∧ k ≤ y.hcntCycle then y
  else { y with
    hcnt := y.hcntNow, hcntCycle := k, everSel := true
    modHeld := if y.everSel ∧ y.hcntCycle + 1 = k then y.modNow else [], modNow := [] }

/-- What the lane's counts and log take from a result (R147, R148). -/
def Dev.selCount (s : Dev) (d f : Nat) (x : Sel) : Dev :=
  let s := if x.xovf then s.finc (CDx_SEL_STAT_XOVF_CNT d f) else s
  let s := if x.modlost then s.finc (CDx_SEL_STAT_MODLOST_CNT d f) else s
  let s := if x.clamp then s.finc (CDx_SEL_STAT_CLAMP_CNT d f) else s
  let s := s.fset (CDx_SEL_STAT_N_PART d f) x.nPart
  if x.xblk then (s.fset (CDx_SEL_STAT_XBLK d f) 1).report .cont .select f 1 d else s

/-- The image of a cycle, open and unwritten when the lane has none (R302). -/
def Image.fresh (cycle : Nat) (idig vsig : W32) : Image :=
  { cycle := cycle, closed := false, dvalid := 0, droves := [], expl := [], energy := [], mst := [], eng := [], trunc := false
    idig := idig, vsig := vsig }

def CtrlDie.vsig (x : CtrlDie) : W32 :=
  match x.img with
  | some i => i.vsig
  | none => 0

def CtrlDie.image (x : CtrlDie) (cycle : Nat) : Image :=
  match x.images.find? (fun i => decide (i.cycle = cycle)) with
  | some i => i
  | none => Image.fresh cycle (match x.setOf cycle with
    | some e => e.idig
    | none => 0) x.vsig

/-- Replaces the image of its cycle; the two latest cycles' images are held. -/
def CtrlDie.setImage (x : CtrlDie) (i : Image) : CtrlDie :=
  { x with images := (i :: x.images.filter (fun j => decide (j.cycle ≠ i.cycle))).take 2 }

/-- The decision of a SEL of fold f on set e, and whether `EN` is set. -/
def Dev.selFold (s : Dev) (d f : Nat) (e : TallySet) (q : SelReq) (y : FoldSel) : Sel :=
  let cfg := e.fold f
  if !cfg.getLsbD 63 then Sel.blocked
  else
    let feb := s.fbit (if cfg.getLsbD 62 then LE_FEBLK_CONV1 d else LE_FEBLK_CONV0 d)
    let taken := (List.range f).flatMap (fun g => (foldSel (s.cd d) g).staged)
    selDecide e f cfg { q with blk := q.blk || feb } (y.hysAt e) y.hcnt ((s.cd d).orph e f) taken

/-- SEL of fold f: the result at `dst`, the fold's history, the counts, and the staging blocks while the image is open. -/
def Dev.doSel (s : Dev) (d c t f src dst : Nat) : Dev :=
  let (e, s) := s.theSet d ((s.cd d).task t).cycle
  let q := SelReq.of ((s.cd d).blockBytes src 16)
  let y := (foldSel (s.cd d) f).begin e.cycle
  let x := s.selFold d f e q y
  let cfg := e.fold f
  let dr := x.drove e f (cfg.getLsbD 62) q.hysOut
  let y' := if e.cycle < y.hcntCycle then y
    else { y with hcntNow := x.hcnt, hysLog := ((e.cycle, q.hysOut) :: y.hysLog.filter (fun h => decide (h.1 ≠ e.cycle))).take 8 }
  let s := s.modCd d (fun z => (z.pokeBytes c dst (x.result dr)).setSel f y')
  let s := if ((s.cd d).image e.cycle).closed then s
    else s.modCd d (fun z => z.stageFold e f x (e.parts f (bitsOf cfg.toNat 0 32 : Nat) (y.hysAt e)))
  if cfg.getLsbD 63 then s.selCount d f x else s.fset (CDx_SEL_STAT_N_PART d f) 0

/-- SEL: the operands of R687 are checked before anything is written, and the result waits for another core's exclusive attempt
    (R380). -/
def execSel (r : CoreRef) (rd ra rb : Reg) (s : State) : Out :=
  let word := encR 0x22 rd ra rb 4 0
  s.onCore r (fun d => d.instr r word true .voted (fun t d =>
    let i := r.die.idx
    let x := d.cd i
    let f := (x.reg r.core.val t ra).toNat
    let src := x.reg r.core.val t rb
    let dst := x.reg r.core.val t rd
    if 12 ≤ f then .trap d 2 (BitVec.ofNat 64 word)
    else match d.blockCheck i t true dst.toNat 80, d.blockCheck i t false src.toNat 16 with
    | some cause, _ => .trap d cause dst
    | none, some cause => .trap d cause src
    | none, none =>
      if x.rangeHeld r.core.val dst.toNat 80 then .hold d
      else
      match d.eccRead i src.toNat 16 with
      | none => .trap (d.eccFail i src.toNat) 6 0
      | some d => .done (d.doSel i r.core.val t f src.toNat dst.toNat)))

end Sys2Proof.Machine
end

