-- ==== Sys2Proof/Machine/Cell.lean ====
section
/-!
DEFINITION. The Sareb cell (R114-R156 at the cell, R210-R254): what drives its gate outputs, the alarm word, the threshold
rule, missed droves, protections, safely limited cell voltage and the mechanical bypass.
-/
namespace Sys2Proof

def CPort.idx : CPort → Nat
  | .u => 0
  | .d => 1

def CPort.other : CPort → CPort
  | .u => .d
  | .d => .u

def Gate.idx : Gate → Nat
  | .gaH => 0
  | .gaL => 1
  | .gbH => 2
  | .gbL => 3

end Sys2Proof

namespace Sys2Proof.Machine

/-! ### Plain views -/

def Ins.code : Ins → Nat
  | .bypass => 0
  | .pos => 1
  | .neg => 2
  | .block => 3
  | .semi => 4
  | .mech => 5

def Cell.cfgd (c : Cell) : Bool := c.fbit SRB_CELL_CFG_CFGD
def Cell.fb (c : Cell) : Bool := c.fbit SRB_CELL_CFG_FB
def Cell.locked (c : Cell) : Bool := c.fbit SRB_LOCK_LOCK
def Cell.id (c : Cell) : Nat := c.fget SRB_CELL_ID
def Cell.period (c : Cell) : Nat := bitsOf c.tm.cyc.toNat 0 14
def Cell.applyOfs (c : Cell) : Nat := bitsOf c.tm.cyc.toNat 16 14
def Cell.nmiss (c : Cell) : Nat := max (c.fget SRB_MISS_CFG_NMISS) 2
def Cell.fold (c : Cell) : Nat := c.fget SRB_FOLD_FOLD

/-- Local time in units of 40 ps, a quarter of the edge resolution. -/
def Cell.now40 (c : Cell) : Nat := 25 * c.tm.time

/-- The dead time DT (R222), and SDT (R239), in the same units. -/
def Cell.dt (c : Cell) : Nat := 4 * max (c.fget SRB_PWM_CFG_DT) 0x32
def Cell.sdt (c : Cell) : Nat := 250 * bitsOf c.prot.slcvSet.2.toNat 8 8

/-- A latched local protection is set (R236). -/
def Cell.latched (c : Cell) : Bool := decide (bitsOf (c.rget SRB_PROT_STAT).toNat 0 5 ≠ 0)
def Cell.vinlow (c : Cell) : Bool := c.fbit SRB_PROT_STAT_VINLOW

/-- The state given by droves and the missed-drove rules. A half-bridge cell never applies negative (R116); told to, by `MOD_ST`
    or an explicit block, it applies bypass (log entry 67). -/
def Cell.armIns (c : Cell) : Ins := if c.arm.ins = .neg ∧ ¬ c.fb then .bypass else c.arm.ins

/-- Force codes in effect; those of pair B are ignored in a half-bridge cell (R227). -/
def Cell.forceA (c : Cell) : Nat := bitsOf c.pwm.force.toNat 0 2
def Cell.forceB (c : Cell) : Nat := if c.fb then bitsOf c.pwm.force.toNat 2 2 else 0
def Cell.forced (c : Cell) : Bool := !c.locked && (decide (c.forceA ≠ 0) || decide (c.forceB ≠ 0))

/-- The row of R219 that sets the gate outputs. -/
def Cell.row (c : Cell) : Nat :=
  if !c.powered || !c.cfgd then 1
  else if c.prot.bypConf then 2
  else if c.prot.semi || c.prot.bfired then 3
  else if c.latched || c.vinlow || c.prot.rowFour then 4
  else if c.forced then 5
  else 6

/-- The state the cell reports (R219). -/
def Cell.insNow (c : Cell) : Ins :=
  match c.row with
  | 2 => .mech
  | 3 => .semi
  | 6 => c.armIns
  | _ => .block

def Cell.modNow (c : Cell) : Bool :=
  decide (c.row = 6) && (match c.arm.modSt with
    | some neg => c.fb || !neg
    | none => false)

/-- `LPROT` (R215, R237). -/
def Cell.lprot (c : Cell) : Bool := !c.cfgd || c.latched || c.vinlow

/-! ### Time source (R248, R492) -/

/-- The forwarded clock of a port serves: present, and not regenerated from data on the way. -/
def Cell.fclk (c : Cell) (x : CPort) : Bool :=
  match x with
  | .u => c.tm.rxClk.getLsbD 0 && !c.lnk.rgU && !c.fbit (SRB_RP_STAT_REGEN 0)
  | .d => c.tm.rxClk.getLsbD 1 && !c.lnk.rgD && !c.fbit (SRB_RP_STAT_REGEN 1)

def Cell.portLock (c : Cell) (x : CPort) : Bool := c.fbit (SRB_RP_STAT_LOCK x.idx)

/-- `SGL` (R518): a received stream carries `SPL`, or a receiving port is out of lock and its stream does not sleep. The
    stream from end A is received at port U, that from end B at port D. Until a port has had lock it keeps its reset value
    (R254; log entry 120). -/
def Cell.singleFed (c : Cell) : Bool :=
  c.lnk.heard &&
    (c.lnk.splU || c.lnk.splD || (!c.portLock .u && !c.lnk.sleepA) || (!c.portLock .d && !c.lnk.sleepB))

/-- Source priority minus 1. -/
def Cell.timeSrc (c : Cell) : Nat :=
  if c.fclk .u && c.portLock .u then 0
  else if c.fclk .d then 1
  else if c.portLock .u || c.portLock .d then 2
  else 3

/-! ### The alarm word (R252) -/

/-- An input other than AIN0 is over range, outside a recovery period (R283). -/
def Cell.ovrch (c : Cell) : Bool := c.fe.inp.any (fun e => decide (e.1 ≠ 0) && e.2.wasOver)

def Cell.alarm (c : Cell) : W32 :=
  let scause := c.fget SRB_STATE_SCAUSE
  let bit := fun (i : Nat) (b : Bool) => (i, 1, b2n b)
  let w := BitVec.ofNat 32 (bitsOf (pack [(0, 6, (c.rget SRB_PROT_STAT).toNat), bit 6 c.prot.ovw, bit 7 c.prot.slcv, bit 8 c.prot.slcv2,
    bit 9 c.prot.bfired, bit 10 (c.fbit SRB_BYP_STAT_BYPFAIL), bit 11 c.prot.bypUnx,
    bit 12 (c.prot.semi && decide (scause = 1)), bit 13 (c.prot.semi && decide (scause = 2)), bit 14 c.arm.dmis,
    bit 15 (c.fbit SRB_PWM_STAT_REL_LATE), bit 16 c.forced, bit 17 (!c.portLock .u), bit 18 (!c.portLock .d),
    bit 19 (decide (c.timeSrc = 2)), bit 20 (decide (c.timeSrc = 3)), bit 21 (!c.cfgd), bit 22 (decide (c.fold = 15)),
    bit 23 (decide (c.fget SRB_FE_STAT_OPENW ≠ 0)), bit 24 (decide (c.fget SRB_FE_STAT_REV ≠ 0)),
    bit 25 (decide (c.fget SRB_FE_STAT_IMPED ≠ 0)), bit 26 c.ovrch]).toNat 0 32)
  if c.arm.v1Bad then w ||| Config.v1Alarm else w

/-- `STATE` at a t0 (R95); the `OVR`, `STALE` and `HELD` bits are those of the AIN0 sample. `INS` and `MOD` are those of the
    latest apply instant. -/
def Cell.stateWord (c : Cell) (flags : Nat) : Nat :=
  c.arm.lastIns + 8 * b2n c.fb + 16 * b2n c.arm.lastSgl + 32 * b2n c.arm.lastMod + flags + 512 * b2n c.arm.lastMiss
    + 1024 * b2n c.lprot + 2048 * b2n c.prot.slcv + 4096 * b2n c.arm.lastExcl + 8192 * c.fget SRB_FOLD_PEN

/-! ### Gate outputs (R114, R222, R223) -/

/-- Commanded conducting states, bit 0 GA_H, 1 GA_L, 2 GB_H, 3 GB_L. Negative in a half-bridge cell is bypass (log entry 67). -/
def gatesOf (fb : Bool) (i : Ins) : BitVec 4 :=
  match i with
  | .bypass => if fb then 0b1010 else 0b0010
  | .semi => if fb then 0b1010 else 0b0010
  | .pos => if fb then 0b1001 else 0b0001
  | .neg => if fb then 0b0110 else 0b0010
  | _ => 0

def allGates : List Gate := [.gaH, .gaL, .gbH, .gbL]

/-- Puts an edge into its place, after those of the same instant. -/
def insertEdge (e : Nat × Gate × Bool) : List (Nat × Gate × Bool) → List (Nat × Gate × Bool)
  | [] => [e]
  | f :: fs => if e.1 < f.1 then e :: f :: fs else f :: insertEdge e fs

/-- The edges of the change from one commanded state to another at instant t: off at once, on after the output's dead
    time. An on edge that its output's next off edge overtakes is dropped. -/
def planEdges (dt : Gate → Nat) : BitVec 4 → List (Nat × BitVec 4) → List (Nat × Gate × Bool) → List (Nat × Gate × Bool)
  | _, [], l => l
  | old, (t, new) :: rest, l =>
    let l := allGates.foldl (fun l g =>
      if old.getLsbD g.idx && !new.getLsbD g.idx then
        insertEdge (t, g, false) (l.filter (fun e => !(decide (e.2.1 = g) && e.2.2 && decide (t ≤ e.1))))
      else l) l
    let l := allGates.foldl (fun l g =>
      if !old.getLsbD g.idx && new.getLsbD g.idx then insertEdge (t + dt g, g, true) l else l) l
    planEdges dt new rest l

/-- How long after instant t an output turns on: its dead time, or what is left of one that an earlier edge has begun (R222). -/
def Cell.onAfter (c : Cell) (dt : Gate → Nat) (t : Nat) (g : Gate) : Nat :=
  match c.pwm.edges.find? (fun e => decide (e.2.1 = g)) with
  | some (u, _, true) => if u ≤ t + dt g then u - t else dt g
  | _ => dt g

/-- Drives a sequence of commanded states that begins now: outputs to turn off do so at once. -/
def Cell.driveBy (c : Cell) (plan : List (Nat × BitVec 4)) (dt : Gate → Nat) : Cell :=
  match plan with
  | [] => c
  | (t, want) :: rest =>
    let g := c.pwm.gates &&& want
    { c with pwm := { c.pwm with
      gates := g, hiz := false, edges := planEdges dt want rest (planEdges (c.onAfter dt t) g [(t, want)] []) } }

def Cell.drive (c : Cell) (plan : List (Nat × BitVec 4)) (dt : Nat) : Cell := c.driveBy plan (fun _ => dt)

/-- SLCV turns every conducting output off at once, and the bypass on SDT later (R239). -/
def Cell.slcvDrive (c : Cell) : Cell :=
  { c with pwm := { c.pwm with
    gates := 0, hiz := false, edges := planEdges (fun _ => c.sdt) 0 [(c.now40, gatesOf c.fb .semi)] [] } }

/-- The conducting states of a plan. -/
def Cell.planGates (c : Cell) : List (Nat × BitVec 4) := c.pwm.plan.map (fun e => (e.1, gatesOf c.fb e.2))

/-- What remains of the period's plan: the state now in force, then the later ones. -/
def planNow (now : Nat) : List (Nat × BitVec 4) → List (Nat × BitVec 4)
  | [] => []
  | (t, w) :: rest =>
    match rest with
    | [] => [(max t now, w)]
    | (t', _) :: _ => if t' ≤ now then planNow now rest else (max t now, w) :: rest

/-- The state a plan commands at an instant. -/
def planAt (t : Nat) : List (Nat × BitVec 4) → BitVec 4 → BitVec 4
  | [], w => w
  | (u, x) :: rest, w => if u ≤ t then planAt t rest x else w

/-- An instant put into a rising list. -/
def insertTime (t : Nat) : List Nat → List Nat
  | [] => [t]
  | u :: us => if t < u then t :: u :: us else if t = u then u :: us else u :: insertTime t us

/-- Outputs that a force code takes from the decoded state: pair A, pair B (R227). -/
def Cell.forceMask (c : Cell) : BitVec 4 :=
  BitVec.ofNat 4 (3 * b2n (decide (c.forceA ≠ 0)) + 12 * b2n (decide (c.forceB ≠ 0)))

/-- One plan with the outputs of a mask taken from another. -/
def mergePlans (mask : BitVec 4) (p f : List (Nat × BitVec 4)) : List (Nat × BitVec 4) :=
  ((p ++ f).foldl (fun l e => insertTime e.1 l) []).map (fun t => (t, (planAt t p 0 &&& ~~~mask) ||| (planAt t f 0 &&& mask)))

/-- Sets the outputs by the row of R219 in force. A force code acts behind the dead time of its pair (R223); a pair that
    follows passes the decoded state on (log entry 31). -/
def Cell.settle (c : Cell) (dt : Nat) : Cell :=
  let now := c.now40
  match c.row with
  | 1 => { c with pwm := { c.pwm with gates := 0, hiz := true, edges := [] } }
  | 2 => c.drive [(now, 0)] dt
  | 3 => c.drive [(now, gatesOf c.fb .semi)] dt
  | 4 => c.drive [(now, 0)] dt
  | 5 =>
    let m := c.forceMask
    c.driveBy (mergePlans m (planNow now c.planGates) (planNow now c.pwm.fplan)) (fun g => if m.getLsbD g.idx then 0 else dt)
  | _ => c.drive (match planNow now c.planGates with
    | [] => [(now, 0)]
    | p => p) dt

/-- The outputs after a change of the cell: they are set anew when SLCV has latched (R239), when the row of R219 has changed,
    and when the cell has become a half-bridge or a full-bridge cell (R115). -/
def Cell.follow (c old : Cell) : Cell :=
  if c.prot.slcv && !old.prot.slcv && decide (c.row = 3) then c.slcvDrive
  else if c.row = old.row ∧ c.fb = old.fb then c
  else c.settle c.dt

/-- The driven levels of the gate-output balls, in the order of `INV`: `SWAP`, then `INV` (R221, R223, R229); none while they are
    high-impedance (R214). -/
def Cell.balls (c : Cell) : Option (BitVec 4) :=
  if c.pwm.hiz then none
  else some ((if c.pwm.swap then (c.pwm.gates <<< 2) ||| (c.pwm.gates >>> 2) else c.pwm.gates) ^^^ c.pwm.inv)

/-- The driven level of BYP_FIRE (R214, R243, R246). -/
def Cell.bypBall (c : Cell) : Option Bool :=
  if c.prot.pulse = 1 ∨ c.prot.pulse = 2 then some true else if c.cfgd then some false else none

/-- Rising alarm bits are latched (R254, `SRB_ALARM_LAT`). -/
def Cell.latchAlarm (c old : Cell) : Cell :=
  let rise := c.alarm &&& ~~~old.alarm
  c.rset SRB_ALARM_LAT (c.rget SRB_ALARM_LAT ||| rise)

/-- A change of a powered cell, with its outputs and alarm latches brought up to date. -/
def Cell.act (c : Cell) (f : Cell → Cell) : Cell :=
  if c.powered then
    let n := (f c).follow c
    n.latchAlarm c
  else c

/-- A command to the cell at a place (R38, R39). -/
def State.onCell (s : State) (p : Place) (f : Cell → Cell) : Out :=
  s.updIf (s.dev.hasPlace p) (fun d => d.modCell p (fun c => c.act f))

/-! ### Periods of the modulated cell and of test PWM (R149-R152, R227) -/

/-- An edge of the period moved out of the guard window around t0. -/
def moveEdge (p g e : Int) : Int :=
  if 0 < e ∧ e < p ∧ g - 625 ≤ e ∧ e < g + 625 then (if e < g then g - 625 else g + 625) else e

/-- One period of R150 from MOD_CMP, the carry, P160 and the offset of t0: on edge, off edge, new carry. R150 stands also where
    MOD_CMP is P160 or more and the carry negative (R149; log entry 133). -/
def modPeriod (cmp : Nat) (carry : Int) (p g : Nat) (guard : Bool) : Int × Int × Int :=
  let want : Int := cmp + carry
  let tau := min (max want 0) (p : Int)
  let on : Int := ((p : Int) - tau) / 2
  let off := on + tau
  let on' := if guard then moveEdge p g on else on
  let off' := if guard then moveEdge p g off else off
  let got := if off' ≤ on' then 0 else off' - on'
  (on', off', clampI (want - got) (-2500) 2500)

/-- The offset, in units of 160 ps, of the t0 within the period that begins at the reload instant. -/
def Cell.t0Ofs (c : Cell) : Nat :=
  let a := c.applyOfs % max c.period 1
  if a = 0 then 0 else (c.period - a) * 125 / 2

/-- The states of the period that begins now under row 6, and the new carry. -/
def Cell.armPlan (c : Cell) : List (Nat × Ins) × Int :=
  let now := c.now40
  match c.arm.modSt with
  | none => ([(now, c.arm.ins)], 0)
  | some neg =>
    let p := p160 c.period
    let (on, off, carry) := modPeriod c.arm.modCmp.toNat c.arm.carry p c.t0Ofs (!c.v1)
    let st : Ins := if neg then .neg else .pos
    if off ≤ on then ([(now, .bypass)], carry)
    else
      ((if on ≤ 0 then [(now, st)] else [(now, .bypass), (now + 4 * on.toNat, st)])
        ++ (if off < (p : Int) then [(now + 4 * off.toNat, .bypass)] else []), carry)

/-- One pair under its force code, as (upper, lower) over the period: the state at its start, and a change. -/
def forcePair (code tcmp p : Nat) : (Bool × Bool) × Option Nat :=
  match code with
  | 2 => if tcmp = 0 then ((false, true), none) else if p ≤ tcmp then ((true, false), none) else ((true, false), some tcmp)
  | 3 => ((false, true), none)
  | _ => ((false, false), none)

/-- What the force codes give over the period; nothing for a pair that follows. -/
def Cell.forcePlan (c : Cell) : List (Nat × BitVec 4) :=
  let now := c.now40
  let a := forcePair c.forceA c.pwm.tcmp.toNat (p160 c.period)
  let b := forcePair (bitsOf c.pwm.force.toNat 2 2) c.pwm.tcmp.toNat (p160 c.period)
  let w := fun (a b : Bool × Bool) => BitVec.ofNat 4 (b2n a.1 + 2 * b2n a.2 + 4 * b2n b.1 + 8 * b2n b.2)
  let a' := if a.2.isSome then (false, true) else a.1
  let b' := if b.2.isSome then (false, true) else b.1
  match a.2.isSome || b.2.isSome with
  | true => [(now, w a.1 b.1), (now + 4 * c.pwm.tcmp.toNat, w a' b')]
  | false => [(now, w a.1 b.1)]

/-! ### Bypasses (R233, R239-R247) -/

def Cell.scause (c : Cell) (n : Nat) : Cell := c.fset SRB_STATE_SCAUSE n

/-- Enters semiconductor bypass for a cause. -/
def Cell.enterSemi (c : Cell) (cause : Nat) : Cell :=
  { c.scause cause with prot := { c.prot with semi := true } }

/-- Fires the mechanical bypass (R243, R244), unless a firing runs. -/
def Cell.fire (c : Cell) : Cell :=
  if c.prot.pulse = 1 ∨ c.prot.pulse = 2 ∨ c.prot.bypConf then c
  else { c with prot := { c.prot with bfired := true, pulse := 1 } }

/-- The debounced BYP_SENSE reports closed. -/
def Cell.closed (c : Cell) : Bool := c.prot.sense != c.fbit SRB_BYP_CFG_SPOL

/-- SLCV latches (R239); with `CFGD` = 0 it fires the mechanical bypass (R241). -/
def Cell.slcvTrip (c : Cell) : Cell :=
  let c := { c.enterSemi 3 with prot := { (c.enterSemi 3).prot with slcv := true, relReq := false } }
  if c.cfgd then c else c.fire

/-- What the comparator sees of AIN0: the 12 most significant bits of its code (R238). -/
def Cell.see (c : Cell) (code12 : BitVec 12) : Cell := { c with prot := { c.prot with ain0 := code12 } }

/-- AIN0 lies above `THR1`, or above `THR2` (R238). -/
def Cell.slcvAbove (c : Cell) (two : Bool) : Bool :=
  decide (sx 12 (bitsOf c.prot.slcvSet.1.toNat (if two then 20 else 4) 12) < c.prot.ain0.toInt)

/-- AIN0 has been above `THR1` for longer than `FILT` when it has been so for a time in nanoseconds (R239). -/
def Cell.slcvFor (c : Cell) (held : Nat) : Bool := c.slcvAbove false && decide (10 * bitsOf c.prot.slcvSet.2.toNat 0 8 < held)

/-- AIN0 lies below `THR1` - `HYS` × 16 codes, both cut to 12 bits (R238). -/
def Cell.slcvBelow (c : Cell) : Bool :=
  decide (c.prot.ain0.toInt < sx 12 (bitsOf c.prot.slcvSet.1.toNat 4 12) - (bitsOf c.prot.slcvSet.2.toNat 16 8 : Nat))

/-- A write of `SRB_PROT_CLR.SLCV` (R242): the cell blocks at the next reload. -/
def Cell.slcvClear (c : Cell) : Cell :=
  if c.prot.slcv && !c.prot.bfired && c.slcvBelow then
    { c with prot := { c.prot with slcv := false, slcv2 := false, relReq := true } }
  else c

/-- A write of `SRB_PROT_CLR.LAT` (R237): a latch whose condition persists stays. -/
def Cell.latchClear (c : Cell) (mask persists : BitVec 5) : Cell :=
  let m := mask &&& ~~~persists &&& BitVec.ofNat 5 (c.rget SRB_PROT_STAT).toNat
  if m = 0 then c
  else
    let st := bitsOf (c.rget SRB_PROT_STAT).toNat 0 5
    let c := c.rset SRB_PROT_STAT (BitVec.ofNat 32 (putBits (c.rget SRB_PROT_STAT).toNat 0 5 (st - (st &&& m.toNat))))
    let c := if m.getLsbD 3 then c.fset SRB_PROT_STAT_SHRT 0 else c
    { c with prot := { c.prot with rowFour := true } }

/-- A write of `SRB_BYP_CMD` (R233, R244). -/
def Cell.bypSemi (c : Cell) : Cell := if c.cfgd then { c with prot := { c.prot with semiReq := true } } else c
def Cell.bypRel (c : Cell) : Cell :=
  if c.prot.semi && !c.prot.slcv && !c.prot.bfired && !c.prot.bypConf then { c with prot := { c.prot with relReq := true } }
  else c
/-- Until `CFGD` is 1 BYP_FIRE is high-impedance but for a firing of R241 (R214, R246): a keyed write is then ignored (log
    entry 68). -/
def Cell.bypFire (c : Cell) (key : W16) : Cell := if key = 0xB1A5 ∧ c.cfgd then c.fire else c

/-! ### Configuration (R214-R217, R240, R246) -/

/-- A write of 1 to `CFGD` (R217), at which BYP_SENSE is first judged (R246). -/
def Cell.setCfgd (c : Cell) : Cell :=
  if c.cfgd || !c.fbit SRB_SLCV_CFG_VALID then c
  else
    let c := c.fset SRB_CELL_CFG_CFGD 1
    if c.closed then { c with prot := { c.prot with bypConf := true } }
    else if c.prot.bfired then c.fset SRB_BYP_STAT_BYPFAIL 1
    else c

/-- A write refused by the commissioning lock (R218). -/
def Cell.wref (c : Cell) : Cell := c.finc SRB_LOCK_WREF

/-- A write of `SRB_CELL_CFG`. -/
def Cell.writeCfg (c : Cell) (cfgd fb : Bool) : Cell :=
  let c := if c.locked then c.wref else c.fset SRB_CELL_CFG_FB (b2n fb)
  if cfgd then c.setCfgd else c

/-- The SLCV set in the registers is valid (R240). -/
def Cell.slcvValid (c : Cell) : Bool :=
  decide (c.fget SRB_SLCV_CFG_FILT ≤ 0x64) && decide (c.fget SRB_SLCV_CFG_SDT ≤ 0x40) &&
    decide (sx 16 (c.fget SRB_SLCV_THR_THR1) ≤ sx 16 (c.fget SRB_SLCV_THR_THR2))

/-- A write of `SRB_SLCV_CFG` judges the set (R240). -/
def Cell.slcvWrite (c : Cell) (v : W32) : Cell :=
  let c := c.rset SRB_SLCV_CFG ((c.rget SRB_SLCV_CFG &&& 0xFF000000) ||| (v &&& 0x00FFFFFF))
  if c.slcvValid then
    let c := c.fset SRB_SLCV_CFG_VALID 1
    { c with prot := { c.prot with slcvSet := (c.rget SRB_SLCV_THR, c.rget SRB_SLCV_CFG) } }
  else c.fset SRB_SLCV_CFG_VALID 0

/-- A write of the force codes or the test compare goes into the shadow set (R226). -/
def Cell.shadowWrite (c : Cell) (tcmp : Bool) (v : W32) (inTime : Bool) : Cell :=
  if c.locked then c.wref
  else
    let old := match c.pwm.shadow with
      | some x => x
      | none => (c.pwm.force, c.pwm.tcmp)
    let c := if tcmp then c.rset SRB_PWM_TCMP v else c.rset SRB_PWM_FORCE (v &&& 0xF)
    { c with pwm := { c.pwm with
      shadow := some (if tcmp then (old.1, v) else (v &&& 0xF, old.2)), shadowLate := c.pwm.shadowLate || !inTime } }

/-- The commissioning lock set or cleared by the ring die (R218): force codes return to follow at the next reload (R228). -/
def Cell.setLock (c : Cell) (b : Bool) : Cell :=
  let c := c.fset SRB_LOCK_LOCK (b2n b)
  if b then
    { (c.rset SRB_PWM_FORCE 0) with pwm := { c.pwm with shadow := none, shadowLate := false, unforce := true } }
  else c

/-! ### The threshold rule (R134) and missed droves (R230) -/

/-- The way `MOD_ST` modulates, some true toward negative (R98); a reserved code leaves it open (log entry 113). -/
def modWay (st : Nat) : Option Bool :=
  if st < 2 then some (decide (st = 1))
  else if (Config.reservedMod st).1 then some (Config.reservedMod st).2 else none

/-- The state and modulation a drove gives: insertion state, and (negative, on-time) when the cell modulates; `none` keeps
    both as at the previous apply instant. -/
def Cell.rule (c : Cell) (d : Payload) : Option (Ins × Option (Bool × Nat)) × Bool :=
  let fl := Pl.get d 1 8
  let n := Pl.get d 38 3
  let excl := (List.range (min n 6)).any (fun i => decide (Pl.get d (40 + 2 * i) 14 = c.id))
  if bitOf fl 0 || bitOf fl 4 then (some (.block, none), false)
  else if bitOf fl 1 then (none, false)
  else match c.arm.recs.find? (fun r => decide (r.seq = BitVec.ofNat 16 (Pl.get d 2 16))) with
  | none => (some (.bypass, none), false)
  | some r =>
    if excl then (some (.bypass, none), true)
    else if !r.part then (some (.block, none), false)
    else if bitOf fl 5 && decide (Pl.get d 24 14 = c.id) then
      match modWay (Pl.get d 24 16 / 16384) with
      | some neg => (some (if neg then .neg else .pos, some (neg, Pl.get d 28 32)), false)
      | none => (some (.bypass, none), false)
    else if pairAbove r.key.toInt c.id (sx 32 (Pl.get d 12 32)) (Pl.get d 16 14) then (some (.pos, none), false)
    else if bitOf fl 6 && r.fb && pairAbove (sx 32 (Pl.get d 18 32)) (Pl.get d 22 14) r.key.toInt c.id then
      (some (.neg, none), false)
    else (some (.bypass, none), false)

/-- Takes a new state: the carry goes to zero when the cell stops modulating or turns the other way (R151). -/
def Cell.take (c : Cell) (i : Ins) (m : Option (Bool × Nat)) : Cell :=
  let st := m.map (fun e => e.1)
  { c with arm := { c.arm with
    ins := i, modSt := st, modCmp := BitVec.ofNat 32 (match m with
      | some e => e.2
      | none => 0)
    carry := if st.isSome && decide (st = c.arm.modSt) then c.arm.carry else 0 } }

/-- Applies an accepted drove. One with `HOLD` leaves `HYS` as it was (R101; log entry 133). -/
def Cell.applyDrove (c : Cell) (d : Payload) : Cell :=
  let (r, excl) := c.rule d
  let c := match r with
    | some (i, m) => (c.take i m)
    | none => c
  let hold := r.isNone
  { c.fset SRB_STATE_MISS 0 with arm := { c.arm with
    appliedDrove := true, lastMiss := false, lastExcl := excl
    hys := if hold then c.arm.hys else BitVec.ofNat 32 (Pl.get d 32 32)
    user := if hold then c.arm.user else BitVec.ofNat 64 (Pl.get d 52 64) } }

/-- Applies an explicit block to a version-1 cell (R107, R108). -/
def Cell.applyExplicit (c : Cell) (d : Payload) : Cell :=
  let fl := Pl.get d 1 8
  let p := c.id % 64
  let pos := bitOf d.toNat (64 + p)
  let neg := bitOf d.toNat (128 + p)
  let c := { c with arm := { c.arm with v1Bad := pos && neg && !bitOf fl 0 && !bitOf fl 1 } }
  let c :=
    if bitOf fl 0 then c.take .block none
    else if bitOf fl 1 then c
    else if pos && neg then c.take .block none
    else if bitOf fl 2 && decide (Pl.get d 24 6 = p) then
      let n := bitOf fl 3
      c.take (if n then .neg else .pos) (some (n, Pl.get d 28 32))
    else c.take (if pos then .pos else if neg then .neg else .bypass) none
  { c.fset SRB_STATE_MISS 0 with arm := { c.arm with appliedDrove := true, lastMiss := false, lastExcl := false } }

/-- A reload instant without a drove (R230, R231). -/
def Cell.missDrove (c : Cell) : Cell :=
  if !c.arm.appliedDrove then { c with arm := { c.arm with lastMiss := false, lastExcl := false } }
  else
    let m := min (c.fget SRB_STATE_MISS + 1) 15
    let c := (c.fset SRB_STATE_MISS m).finc SRB_CNT_MISS_N
    let c := { c with arm := { c.arm with lastMiss := true, lastExcl := false } }
    if c.arm.ins = .block then c
    else if m = 1 then c
    else if m < c.nmiss then (if c.arm.modSt.isSome then c.take .bypass none else c)
    else
      let c := if c.arm.modSt.isSome then c.take .bypass none else c
      if c.prot.semi then c else c.enterSemi 2

/-! ### Reload instants (R225-R229) -/


/-- Commands that waited for the reload instant: entering and leaving semiconductor bypass (R233, R242). -/
def Cell.reloadCmds (c : Cell) : Cell :=
  let c := if c.prot.relReq then
      { c.scause 0 with
        prot := { c.prot with relReq := false, semi := false }
        arm := { c.arm with ins := .block, modSt := none, modCmp := 0, carry := 0, appliedDrove := false } }
    else c
  if c.prot.semiReq then
    let d := if c.prot.semi then c else c.enterSemi 1
    { d with prot := { d.prot with semiReq := false } }
  else c

/-- The transfer of the shadow set, `SWAP` and `INV` (R226, R229). -/
def Cell.reloadShadow (c : Cell) : Cell :=
  let c := { c with pwm := { c.pwm with
    swap := c.fbit SRB_PWM_CFG_SWAP, inv := BitVec.ofNat 4 (c.fget SRB_PWM_CFG_INV)
    force := if c.pwm.unforce then 0 else c.pwm.force, unforce := false } }
  match c.pwm.shadow with
  | none => c
  | some (f, t) =>
    if c.pwm.shadowLate then
      { (c.fset SRB_PWM_STAT_REL_LATE 1).finc SRB_PWM_STAT_RLCNT with pwm := { c.pwm with shadowLate := false } }
    else { c with pwm := { c.pwm with shadow := none, force := f, tcmp := t } }

/-- How far the apply time of a block lies after an instant of local time (R86). -/
def applyIn (pl : Payload) (r : Nat) : Int := sx 32 (ux 32 ((Pl.get pl 4 32 : Int) - r))

/-- The apply time of a block has come at reload instant r: it lies no more than half a period after it (log entry 67). -/
def Cell.applies (c : Cell) (r : Nat) (pl : Payload) : Bool := decide (2 * applyIn pl r ≤ 10 * c.period)

/-- The accepted drove or explicit block that applies at reload instant r, the one with the latest apply time (R88, R89). -/
def Cell.due (c : Cell) (r : Nat) (l : List Held) : Option Payload :=
  (l.filter (fun h => !h.late && !h.done && c.applies r h.pl)).foldl (fun (o : Option Payload) h =>
    match o with
    | some b => if applyIn b r ≤ applyIn h.pl r then some h.pl else o
    | none => some h.pl) none

/-- Blocks whose apply time has come are done with. -/
def Cell.heldDone (c : Cell) (r : Nat) (l : List Held) : List Held :=
  l.map (fun h => if c.applies r h.pl then { h with done := true } else h)

/-- Reload instant r. A cell released from semiconductor bypass applies block at it, and no drove (R233, R242). -/
def Cell.reload (c : Cell) (r : Nat) : Cell :=
  let released := c.prot.relReq
  let c := c.reloadCmds.reloadShadow
  let c := if released then { c with arm := { c.arm with lastMiss := false, lastExcl := false } }
    else match c.due r (if c.v1 then c.arm.expl else c.arm.droves) with
    | some d => if c.v1 then c.applyExplicit d else c.applyDrove d
    | none => c.missDrove
  let c := { c with arm := { c.arm with
    lastSgl := c.singleFed, droves := c.heldDone r c.arm.droves, expl := c.heldDone r c.arm.expl } }
  let (plan, carry) := c.armPlan
  let c := { c with arm := { c.arm with carry := carry } }
  let c := { c with pwm := { c.pwm with plan := plan, fplan := c.forcePlan } }
  let c := if c.row = 5 ∨ c.row = 6 then c.settle c.dt else c
  { c with arm := { c.arm with lastIns := c.insNow.code, lastMod := c.modNow } }

/-- The next scheduled edge. An output turns on only while its partner is off (R223); a turn-on starts its pair's mask (R234). -/
def Cell.edge (c : Cell) : Cell :=
  match c.pwm.edges with
  | [] => c
  | (t, g, on) :: rest =>
    let i := g.idx
    let partner := if i % 2 = 0 then i + 1 else i - 1
    let bit : BitVec 4 := BitVec.ofNat 4 (2 ^ i)
    let c := { c with pwm := { c.pwm with edges := rest } }
    if !on then { c with pwm := { c.pwm with gates := c.pwm.gates &&& ~~~bit } }
    else if c.pwm.gates.getLsbD partner then c
    else { c with pwm := { c.pwm with
      gates := c.pwm.gates ||| bit, onA := if i < 2 then some t else c.pwm.onA, onB := if i < 2 then c.pwm.onB else some t } }

/-! ### Commands of the cell -/

/-- SLCV_CONFIGURATION_WRITE. -/
def execSlcvConfigurationWrite (p : Place) (v : W32) (s : State) : Out := s.onCell p (fun c => c.slcvWrite v)

/-- SHADOW_WRITE. -/
def execShadowWrite (p : Place) (tcmp : Bool) (v : W32) (inTime : Bool) (s : State) : Out :=
  s.onCell p (fun c => c.shadowWrite tcmp v inTime)

/-- SEMI. -/
def execSemi (p : Place) (s : State) : Out := s.onCell p Cell.bypSemi

/-- SEMI_REL. -/
def execSemiRel (p : Place) (s : State) : Out := s.onCell p Cell.bypRel

/-- BYPASS_FIRE. -/
def execBypassFire (p : Place) (key : W16) (s : State) : Out := s.onCell p (fun c => c.bypFire key)

/-- LATCH_CLEAR. -/
def execLatchClear (p : Place) (mask persists : BitVec 5) (s : State) : Out :=
  s.onCell p (fun c => c.latchClear mask persists)

/-- SLCV_CLEAR: the clear is written while AIN0 has the 12-bit code given. -/
def execSlcvClear (p : Place) (code12 : BitVec 12) (s : State) : Out := s.onCell p (fun c => (c.see code12).slcvClear)

/-! ### Events at the cell's pins (R212, R234-R247) -/

/-- VIN_RISE: an unpowered cell powers up with everything at reset (R212, R217). -/
def execVinRise (p : Place) (s : State) : Out :=
  s.updIf (s.dev.hasPlace p) (fun d => d.modCell p (fun c =>
    if c.powered then c else { Cell.off c.serial c.v1 c.fcoef with powered := true }))

/-- VIN_COLLAPSE: below 7.5 V the cell is held in reset and its configuration is lost (R212). -/
def execVinCollapse (p : Place) (s : State) : Out :=
  s.updIf (s.dev.hasPlace p) (fun d => d.modCell p (fun c => Cell.off c.serial c.v1 c.fcoef))

/-- VIN_LOW. -/
def execVinLow (p : Place) (s : State) : Out := s.onCell p (fun c => c.fset SRB_PROT_STAT_VINLOW 1)

/-- VIN_RECOVERY. -/
def execVinRecovery (p : Place) (s : State) : Out := s.onCell p (fun c => c.fset SRB_PROT_STAT_VINLOW 0)

/-- An assertion on the DSAT input of a pair, at the level given for a time in nanoseconds, counts now (R234): it has lasted
    longer than `FILT` since it began, or since the mask after the pair's latest turn-on ended. -/
def Cell.dsatCounts (c : Cell) (pairB level : Bool) (held : Nat) : Bool :=
  let began := c.now40 - 25 * held
  let from_ := match (if pairB then c.pwm.onB else c.pwm.onA) with
    | some t => max began (t + 1000 * c.fget SRB_GD_CFG_MASK)
    | none => began
  (level != c.fbit SRB_GD_CFG_DSPOL) && decide (250 * c.fget SRB_GD_CFG_FILT < c.now40 - from_)

/-- DSAT_TRIP: a DSAT ball has stood at a level for a time; `SWAP` exchanges the balls (R229). In semiconductor bypass it fires
    the mechanical bypass (R236), which until `CFGD` is 1 it cannot (R246). -/
def execDsatTrip (p : Place) (x : DsatLevel) (s : State) : Out :=
  s.onCell p (fun c =>
    let b := x.pairB != c.pwm.swap
    if c.dsatCounts b x.level x.held then
      let d := c.fset (if b then SRB_PROT_STAT_DSB else SRB_PROT_STAT_DSA) 1
      if c.prot.semi && c.cfgd then d.fire else d
    else c)

/-- GDFLT_TRIP. -/
def execGdfltTrip (p : Place) (s : State) : Out := s.onCell p (fun c => c.fset SRB_PROT_STAT_GDF 1)

/-- OUTPUT_SHORT: a gate-output ball, or BYP_FIRE during a firing, has had a level for longer than 500 ns (R247). -/
def execOutputShort (p : Place) (x : BallLevel) (s : State) : Out :=
  s.onCell p (fun c =>
    match x.out with
    | some g =>
      match c.balls with
      | some b =>
        if b.getLsbD g.idx = x.level then c
        else (c.fset { SRB_PROT_STAT_SHRT with lo := SRB_PROT_STAT_SHRT.lo + g.idx, width := 1 } 1).fset SRB_PROT_STAT_SHRTL 1
      | none => c
    | none => if c.bypBall = some true ∧ ¬ x.level then c.fset SRB_BYP_STAT_BYPFAIL 1 else c)

/-- SLCV_FIRING: AIN0 with the 12-bit code given has stayed above `THR2` for a time in nanoseconds; 5.0 µs while SLCV is latched
    fire the bypass (R241). -/
def execSlcvFiring (x : Ain0Level) (s : State) : Out :=
  s.onCell x.p (fun c =>
    let c := c.see x.code
    if c.prot.slcv && c.slcvAbove true && decide (5000 ≤ x.held) then { c with prot := { c.prot with slcv2 := true } }.fire
    else c)

/-- BYPASS_SENSE: the debounced level. A closed bypass is confirmed, without a firing as unexpected (R245); it is not
    judged while `CFGD` is 0 (R246). -/
def execBypassSense (p : Place) (level : Bool) (s : State) : Out :=
  s.onCell p (fun c =>
    let c := { c with prot := { c.prot with sense := level } }
    if c.cfgd && c.closed && !c.prot.bypConf then
      { c with prot := { c.prot with bypConf := true, bypUnx := c.prot.bypUnx || !c.prot.bfired } }
    else c)

/-- FIRING_PULSE_END. -/
def execFiringPulseEnd (p : Place) (s : State) : Out :=
  s.onCell p (fun c =>
    if c.prot.pulse = 1 then { c with prot := { c.prot with pulse := 3 } }
    else if c.prot.pulse = 2 then { c with prot := { c.prot with pulse := 4 } }
    else c)

/-- BYPASS_CONFIRM_TIMEOUT: no confirmation within `TCONF` of the first pulse's start, then of the second's (R243). While
    `CFGD` is 0 no confirmation is judged, so nothing is found to have failed (R246). -/
def execBypassConfirmTimeout (p : Place) (s : State) : Out :=
  s.onCell p (fun c =>
    if !c.prot.bfired || c.prot.bypConf then c
    else if c.prot.pulse = 1 ∨ c.prot.pulse = 3 then { c with prot := { c.prot with pulse := 2 } }
    else if c.prot.pulse = 2 ∨ c.prot.pulse = 4 then (if c.cfgd then c.fset SRB_BYP_STAT_BYPFAIL 1 else c)
    else c)

end Sys2Proof.Machine
end

