-- ==== Sys2Proof/Machine/Adc.lean ====
section
/-!
DEFINITION. What a cell and the AQ die do with a sample (R265-R289, R527-R533, R558, R561, R566): correction, over-range,
filtered path, polarity check, stream entries, record memory and measurements.
-/
namespace Sys2Proof.Machine

/-! ### Flags in the order of R529: OVR, HELD, STALE, NBR, CHOP -/

def flagBits (ovr held stale nbr chop : Bool) : BitVec 5 :=
  BitVec.ofNat 5 (b2n ovr + 2 * b2n held + 4 * b2n stale + 8 * b2n nbr + 16 * b2n chop)

/-- Bits [31:26] of `SRB_FE_RAW` (R299). -/
def rawWord (v : Bool) (flg : BitVec 5) (code : W16) : W32 :=
  BitVec.ofNat 32 (pack [(31, 1, b2n v), (30, 1, b2n (flg.getLsbD 0)), (29, 1, b2n (flg.getLsbD 1)), (28, 1, b2n (flg.getLsbD 2)),
    (27, 1, b2n (flg.getLsbD 3)), (26, 1, b2n (flg.getLsbD 4)), (0, 16, code.toNat)]).toNat

/-! ### From code to value (R271) -/

/-- One Horner column of R271. -/
def horner (k : Nat → Nat → Nat) (j v : Nat) : Nat :=
  [2, 1, 0].foldl (fun p i => f32.add (f32.mul p v) (k i j)) (k 3 j)

def poly32 (k : Nat → Nat → Nat) (v t : Nat) : Nat :=
  f32.add (f32.mul (f32.add (f32.mul (horner k 2 v) t) (horner k 1 v)) t) (horner k 0 v)

/-- y from a code, with factory and user coefficients by (i, j), die temperature and ratio. -/
def linearise (f u : Nat → Nat → Nat) (code td : W16) (rho : W32) : W32 :=
  let c := f32.ofInt code.toInt (-15)
  let tf := f32.div (f32.sub (f32.ofInt td.toInt (-8)) 0x41C80000) 0x42C80000
  let x := f32.div (poly32 f c tf) (f32.ofInt (rho.toNat : Int) (-30))
  BitVec.ofNat 32 (poly32 u x tf)

/-! ### Means (R267, R528) -/

def Acc.add (a : Acc) (y : W32) : Acc :=
  match f32.read y.toNat with
  | .nan => { a with n := a.n + 1, nan := true }
  | .inf s => { a with n := a.n + 1, pinf := a.pinf || !s, ninf := a.ninf || s }
  | .fin s m e =>
    let v : Int := (m * 2 ^ (e + 149).toNat : Nat)
    { a with n := a.n + 1, sum := a.sum + (if s then -v else v) }

/-- num / (den × 2^149) as FP32; between two neighbours the choice is open (log entry 32). -/
def meanWord (num : Int) (den : Nat) : W32 :=
  if num = 0 then 0
  else
    let neg := decide (num < 0)
    let x := num.natAbs * 2 ^ 200
    let n := x / den
    let len := Nat.log2 n + 1
    let q := n / 2 ^ (len - 24)
    let e : Int := ((len - 24 : Nat) : Int) - 349
    let exact := decide (x % den = 0) && decide (n % 2 ^ (len - 24) = 0)
    BitVec.ofNat 32 (f32.pack neg (if exact || !Config.meanUp num den then q else q + 1) e false)

/-- NaN and infinities of a mean, else the word given. -/
def meanOr (nan pinf ninf : Bool) (w : W32) : W32 :=
  if nan || (pinf && ninf) then 0x7FC00000 else if pinf then 0x7F800000 else if ninf then 0xFF800000 else w

/-- The mean of a group; the quiet NaN of an empty one. -/
def Acc.mean (a : Acc) : W32 :=
  if a.n = 0 then 0x7FC00000 else meanOr a.nan a.pinf a.ninf (meanWord a.sum a.n)

/-- The filtered result: the mean of the averages of the two polarities (R267). -/
def filtMean (a b : Acc) : W32 :=
  if a.n = 0 ∨ b.n = 0 then 0x7FC00000
  else meanOr (a.nan || b.nan) (a.pinf || b.pinf) (a.ninf || b.ninf)
    (meanWord (a.sum * (b.n : Int) + b.sum * (a.n : Int)) (2 * a.n * b.n))

/-! ### Over-range (R281-R283) -/

/-- The 20.0 µs after the input's return from beyond twice full scale last. -/
def InSt.recovers (st : InSt) (time : Nat) : Bool :=
  match st.ovrUntil with
  | some t => decide (time ≤ t)
  | none => false

/-- A conversion of input n at a local time: code, OVR and NBR, and the state of converter and input after it. Recovery counts
    from the conversion that finds the input within range again (R282). -/
def convert (cv : ConvSt) (st : InSt) (n time : Nat) (x : Adc) : W16 × Bool × Bool × ConvSt × InSt :=
  let ov := decide (x.range ≠ .none)
  let far := st.wasFar || decide (x.range = .far)
  let code : W16 := if ov then (if x.code.getLsbD 15 then 0x8000 else 0x7FFF) else x.code
  let window := cv.nbrFar.any (fun e => decide (e.1 ≠ n) && decide (time ≤ e.2))
  let (near, cv) := match cv.nbrFrom with
    | some m => if m = n then (false, cv) else (true, { cv with nbrFrom := none })
    | none => (false, cv)
  let nbr := near || window
  if ov then (code, true, nbr, cv, { st with wasOver := true, wasFar := far, ovrLeft := 0, ovrUntil := none })
  else if st.wasOver then
    let st' := { st with wasOver := false, wasFar := false }
    if st.wasFar then
      (code, true, nbr, { cv with nbrFar := (n, time + 20000) :: cv.nbrFar.filter (fun e => decide (e.1 ≠ n) && decide (time ≤ e.2)) },
        { st' with ovrUntil := some (time + 20000) })
    else (code, true, nbr, { cv with nbrFrom := some n }, { st' with ovrLeft := 2 })
  else if 0 < st.ovrLeft then (code, true, nbr, cv, { st with ovrLeft := st.ovrLeft - 1 })
  else (code, st.recovers time, nbr, cv, st)

/-- The input is over range or in recovery at a local time (`SRB_FE_STAT.OVR`). -/
def InSt.ovrNow (st : InSt) (time : Nat) : Bool := st.wasOver || decide (0 < st.ovrLeft) || st.recovers time

/-! ### Steps of local time: what a converter and an input time goes on as it was (R453) -/

/-- An instant moved by a step. -/
def moved (d : Int) (t : Nat) : Nat := ((t : Int) + d).toNat

def ConvSt.shift (cv : ConvSt) (d : Int) : ConvSt :=
  { cv with candAt := moved d cv.candAt, refAt := moved d cv.refAt, nbrFar := cv.nbrFar.map (fun e => (e.1, moved d e.2)) }

def InSt.shift (st : InSt) (d : Int) : InSt :=
  { st with ovrUntil := st.ovrUntil.map (moved d), zStart := st.zStart.map (moved d) }

/-! ### Streams (R528-R533) -/

/-- A stream as its unit knows it. -/
structure StreamCfg where
  mode : Nat
  d : Nat
  co : Bool
  db : W32
  keep : Nat
  inp : Nat
  deriving DecidableEq, Repr

/-- An entry of R529. -/
def entryOf (eseq : BitVec 5) (flg : BitVec 5) (q : StreamCfg) (code : W16) (cnt val tag : W32) : BitVec 128 :=
  BitVec.ofNat 128 (eseq.toNat * 2 ^ 11 + flg.toNat * 2 ^ 6 + b2n q.co * 2 ^ 5 + q.mode % 4 * 2 ^ 3 + q.inp % 8
    + code.toNat * 2 ^ 16 + cnt.toNat * 2 ^ 32 + val.toNat * 2 ^ 64 + tag.toNat * 2 ^ 96)

/-- Change-only (R533): the entry is sent. -/
def InSt.sends (st : InSt) (q : StreamCfg) (val : W32) (flg : BitVec 5) : Bool :=
  if !q.co then true
  else match st.lastVal with
  | none => true
  | some (v, f) =>
    f32.lt st.lim.1.toNat (f32.abs (f32.sub val.toNat v.toNat)) || (f32.isNan val.toNat != f32.isNan v.toNat)
      || decide (flg ≠ f) || decide (max st.lim.2 1 ≤ st.since + 1)

/-- Offers an entry: `ESEQ` is assigned only to one that is sent (R531). -/
def InSt.offer (st : InSt) (q : StreamCfg) (val : W32) (code : W16) (flg : BitVec 5) (tag : W32) :
    InSt × Option (BitVec 128) :=
  if st.sends q val flg then
    ({ st with since := 0, eseq := st.eseq + 1, lastVal := some (val, flg) },
      some (entryOf st.eseq flg q code st.cnt val tag))
  else ({ st with since := st.since + 1 }, none)

/-- A sample of a running RAW or AVG stream. -/
def InSt.group (st : InSt) (q : StreamCfg) (flg : BitVec 5) (tag : W32) : InSt × Option (BitVec 128) :=
  if !st.started || (q.mode ≠ 1 ∧ q.mode ≠ 2) then (st, none)
  else
    let clean := decide (flg &&& 0b01011 = 0)
    let st := { st with
      lim := if st.grpN = 0 then (q.db, q.keep) else st.lim
      cnt := st.cnt + 1, grpN := st.grpN + 1, grpFlg := st.grpFlg ||| flg
      grpSum := if clean then st.grpSum.add st.y else st.grpSum }
    if st.grpN < max q.d 1 then (st, none)
    else
      let val := if q.mode = 1 then st.y else st.grpSum.mean
      let f := if q.mode = 1 then flg else st.grpFlg
      ({ st with grpN := 0, grpSum := Acc.zero, grpFlg := 0 } : InSt).offer q val st.code f tag

/-- A stream starts or starts again (R535, R545), with the deadband and `KEEP` of its first group. -/
def InSt.restart (st : InSt) (q : StreamCfg) : InSt :=
  { st with started := true, cnt := 0, eseq := 0, lastVal := none, since := 0, grpN := 0, grpSum := Acc.zero, grpFlg := 0,
            lim := (q.db, q.keep) }

/-- An input that is not enabled as the millisecond ends leaves nothing to a later one (R267). -/
def InSt.unfiltered (st : InSt) : InSt := { st with sumP := Acc.zero, sumN := Acc.zero, filtFlg := 0 }

/-- The millisecond of the filtered path ends (R267, R528): the filtered result, and the FILT stream's entry. -/
def InSt.filtered (st : InSt) (q : Option StreamCfg) (tag : W32) : W32 × InSt × Option (BitVec 128) :=
  let y := filtMean st.sumP st.sumN
  let f := st.filtFlg
  let st := { st with sumP := Acc.zero, sumN := Acc.zero, filtFlg := 0 }
  match q with
  | some q =>
    if st.started && decide (q.mode = 3) then
      let r := ({ st with cnt := st.cnt + 1 } : InSt).offer q y 0 f tag
      (y, { r.1 with lim := (q.db, q.keep) }, r.2)
    else (y, st, none)
  | none => (y, st, none)

/-! ### A sample of an input -/

/-- What surrounds a sample: coefficients by (i, j), temperature, ratio, reference stale, polarity check. -/
structure InCfg where
  f : Nat → Nat → Nat
  u : Nat → Nat → Nat
  td : W16
  rho : W32
  stale : Bool
  revEn : Bool
  revLim : Int
  q : Option StreamCfg

/-- What a sample does to its input and converter; none where BLANK holds it: the previous result with its `OVR` and `NBR`
    (R268). Also: `REV` set or cleared, and a stream entry. -/
def sampleIn (g : InCfg) (cv : ConvSt) (st : InSt) (n time : Nat) (chop : Bool) (x : Option Adc) (tag : W32) :
    ConvSt × InSt × Option Bool × Option (BitVec 128) :=
  let (cv, st, rev) := match x with
    | none => (cv, { st with flg := flagBits (st.flg.getLsbD 0) true g.stale (st.flg.getLsbD 3) chop }, none)
    | some x =>
      let (code, ovr, nbr, cv, st) := convert cv st n time x
      let below := decide (code.toInt < g.revLim)
      let st := { st with
        frozen := if code = st.code then st.frozen + 1 else 1
        code := code, y := linearise g.f g.u code g.td g.rho, flg := flagBits ovr false g.stale nbr chop
        revLow := if g.revEn && below then st.revLow + 1 else 0
        revHigh := if g.revEn && !below then st.revHigh + 1 else 0 }
      (cv, st, if 8 ≤ st.revLow then some true else if 8 ≤ st.revHigh then some false else none)
  let st := { st with filtFlg := st.filtFlg ||| st.flg }
  let st := if st.flg &&& 0b00011 = 0 then
      (if chop then { st with sumN := st.sumN.add st.y } else { st with sumP := st.sumP.add st.y })
    else st
  match g.q with
  | some q =>
    let r := st.group q st.flg tag
    (cv, r.1, rev, r.2)
  | none => (cv, st, rev, none)

/-! ### Reference conversions (R277-R280) -/

/-- A candidate ratio is accepted: 0.980 to 1.020 in units of 2^-30. -/
def refAccepted (rho : Nat) : Bool := decide (1052266988 ≤ rho) && decide (rho ≤ 1095216660)

/-- A t0 at a local time: a candidate comes into force. -/
def ConvSt.atT0 (cv : ConvSt) (time : Nat) : ConvSt × Bool :=
  match cv.cand with
  | some w =>
    if cv.candAt + 100 ≤ time then ({ cv with cand := none, accepted := true, refAt := time, rho := w }, true)
    else (cv, false)
  | none => (cv, false)

/-! ### Diagnostics (R284-R287) -/

/-- The items of a round: (input, open-wire enabled, impedance enabled) of the enabled inputs, ascending. -/
def diagItems (l : List (Nat × Bool × Bool)) : List (Nat × Nat) :=
  l.flatMap (fun e => (if e.2.1 then [(e.1, 0), (e.1, 1)] else []) ++ (if e.2.2 then [(e.1, 2)] else []))

/-- What a diagnostic conversion settles. -/
inductive Diag where
  | none
  | openw (fail : Bool)
  | imped (z : Nat)
  deriving DecidableEq, Repr

/-- One open-wire conversion fails (R285). -/
def openFails (st : InSt) (owlim : Nat) (x : Adc) : Bool :=
  decide (x.range ≠ .none) || decide (owlim < (x.code.toInt - st.code.toInt).natAbs)

/-- A diagnostic conversion of kind 0-2: the input after it, what it settles, and whether its item is done. -/
def diagConv (st : InSt) (kind owlim time : Nat) (x : Adc) : InSt × Diag × Bool :=
  match kind with
  | 0 => ({ st with owHi := some (openFails st owlim x) }, .none, true)
  | 1 => ({ st with owHi := none }, .openw ((st.owHi.getD false) || openFails st owlim x), true)
  | _ =>
    let t0 := st.zStart.getD time
    let first := decide ((time - t0) % 500000 < 250000)
    let add := fun (p : Nat × Int) => (p.1 + 1, p.2 + x.code.toInt)
    ({ st with zStart := some t0, zHi := if first then add st.zHi else st.zHi, zLo := if first then st.zLo else add st.zLo },
      .none, false)

/-- The value of one code in units of 1/32768 of the 10 Ω that 20 µA make (R256, R286, R291): a cell's input, or an AQ input by its
    full-scale range. -/
def zScale (unit : Nat) (rng : Bool) : Nat := if unit = 0 then 12500 else if rng then 6250 else 50000

/-- Z in units of 10 Ω (R286): the difference of the two means divided by 20 µA, from the sums and numbers of codes in the two
    halves; zero where it is negative. A Z between two units goes to either (log entry 34). -/
def impedance (unit : Nat) (rng : Bool) (hi lo : Nat × Int) : Nat :=
  let num := ((hi.2 * lo.1 - lo.2 * hi.1) * zScale unit rng).toNat
  let den := hi.1 * lo.1 * 32768
  num / den + (if num % den = 0 then 0 else b2n (Config.impedanceUp num den))

/-- The impedance check of an input has run its 4.0 ms: Z, unless it is void (R287). -/
def zDone (unit : Nat) (rng : Bool) (st : InSt) (time : Nat) : Option (InSt × Diag) :=
  match st.zStart with
  | some t =>
    if t + 4000000 ≤ time then
      let st' := { st with zStart := none, zHi := (0, 0), zLo := (0, 0) }
      if st.zHi.1 < 2 ∨ st.zLo.1 < 2 then some (st', .none)
      else some (st', .imped (impedance unit rng st.zHi st.zLo))
    else none
  | none => none

/-! ### The record memory (R558, R561, R566) -/

/-- Stores an entry in memory of a given size; a full memory loses its oldest. -/
def RecSt.store (r : RecSt) (cap : Nat) (e : RecEnt) : RecSt :=
  { r with
    mem := e :: r.mem.take (cap - 1)
    lost := match r.mem[cap - 1]? with
      | some x => some x.time
      | none => r.lost }

/-- Entries at or after an instant have been overwritten. -/
def RecSt.lostFrom (r : RecSt) (time : Nat) : Bool :=
  match r.lost with
  | some t => decide (time ≤ t)
  | none => false

/-- The 8-byte entry of R558. -/
def recWord (tag : W32) (flg : BitVec 5) (inp : Nat) (code : W16) : W64 :=
  pack [(32, 32, tag.toNat), (19, 5, flg.toNat), (16, 3, inp), (0, 16, code.toNat)]

/-- y crosses a level in the chosen direction (R561): 0 rising, 1 falling, 2 either. -/
def crosses (slope : Nat) (prev cur lvl : Nat) : Bool :=
  let up := f32.lt prev lvl && !f32.lt cur lvl && !f32.isNan cur
  let dn := f32.lt lvl prev && !f32.lt lvl cur && !f32.isNan cur
  match slope with
  | 0 => up
  | 1 => dn
  | 2 => up || dn
  | _ => false

/-! ### Measurements (R566), in binary64 -/

def d64 (w : W32) : Nat := f32to64 w.toNat
def d64n (n : Int) : Nat := f64.ofInt n 0

/-- The instant at which the line through two entries meets a level, in ns from the first entry's window start. -/
def interp (t1 y1 t2 y2 lvl : Nat) : Nat :=
  f64.add t1 (f64.div (f64.mul (f64.sub lvl y1) (f64.sub t2 t1)) (f64.sub y2 y1))

/-- Upward crossings of a level with hysteresis: an upward crossing counts once the signal has lain below level - hyst. -/
def upCross (lvl hyst : Nat) : Bool → List (Nat × Nat) → List Nat
  | armed, a :: b :: rest =>
    let armed := armed || f64.lt a.2 (f64.sub lvl hyst)
    if armed && f64.lt a.2 lvl && !f64.lt b.2 lvl then interp a.1 a.2 b.1 b.2 lvl :: upCross lvl hyst false (b :: rest)
    else upCross lvl hyst armed (b :: rest)
  | _, _ => []

/-- The first upward crossing of a level, and the entries from there on. -/
def firstUp (lvl : Nat) : List (Nat × Nat) → Option (Nat × List (Nat × Nat))
  | a :: b :: rest =>
    if f64.lt a.2 lvl && !f64.lt b.2 lvl then some (interp a.1 a.2 b.1 b.2 lvl, a :: b :: rest) else firstUp lvl (b :: rest)
  | _ => none

/-- A measurement block of an input from the entries of its window, in instant order. -/
def measBlock (inp : Nat) (l : List RecEnt) : BitVec 256 :=
  let used := l.filter (fun e => decide (bitsOf e.ent.toNat 19 5 &&& 0b01011 = 0))
  let t0 := match l.head? with
    | some e => e.time
    | none => 0
  let p := used.map (fun e => (d64n ((e.time : Int) - t0), d64 e.y))
  let bad := p.isEmpty || p.any (fun e => f64.isNan e.2)
  let n := d64n p.length
  let mn := p.foldl (fun a e => f64.minmax false a e.2) ((p.map (fun e => e.2)).head?.getD 0)
  let mx := p.foldl (fun a e => f64.minmax true a e.2) ((p.map (fun e => e.2)).head?.getD 0)
  let mean := f64.div (p.foldl (fun a e => f64.add a e.2) 0) n
  let rms := f64.sqrt (f64.div (p.foldl (fun a e => f64.add a (f64.mul e.2 e.2)) 0) n)
  let span := f64.sub mx mn
  let mid := f64.div (f64.add mn mx) (d64n 2)
  let hyst := f64.div (f64.mul (d64n 5) span) (d64n 100)
  let xs := upCross mid hyst false p
  let per := match xs.head?, xs.getLast? with
    | some a, some b => if xs.length < 2 then none else some (f64.div (f64.sub b a) (d64n (xs.length - 1)))
    | _, _ => none
  let lvl := fun (c : Int) => f64.add mn (f64.div (f64.mul (d64n c) span) (d64n 100))
  let rise := match firstUp (lvl 10) p with
    | some (t1, rest) => match firstUp (lvl 90) rest with
      | some (t2, _) => some (f64.sub t2 t1)
      | none => none
    | none => none
  let out := fun (x : Option Nat) => match x with
    | some v => if bad then 0x7FC00000 else f64to32 v
    | none => 0x7FC00000
  let freq := per.map (fun v => f64.div (d64n 1000000000) v)
  BitVec.ofNat 256 (inp % 8 + out (some mn) * 2 ^ 32 + out (some mx) * 2 ^ 64 + out (some mean) * 2 ^ 96
    + out (some rms) * 2 ^ 128 + out per * 2 ^ 160 + out freq * 2 ^ 192 + out rise * 2 ^ 224)

/-- Freezes the window from T - `PRE` to T + `POST` around a local instant (R559, R563, R566). -/
def RecSt.freeze (r : RecSt) (aq : Bool) (time pre post : Nat) : RecSt :=
  let win := (r.mem.filter (fun e => decide (time ≤ e.time + pre) && decide (e.time ≤ time + post))).reverse
  let ins := (win.map (fun e => e.inp)).foldl (fun l i => if l.contains i then l else l ++ [i]) []
  let ins := (List.range 256).filter (fun i => ins.contains i)
  { r with full := win, meas := ins.map (fun i => measBlock (if aq then 0 else i) (win.filter (fun e => decide (e.inp = i)))) }

end Sys2Proof.Machine
end

