-- ==== Sys2Proof/Machine/HubOps.lean ====
section
/-!
DEFINITION. Host FIFOs (R29, R37, R59, R548-R557) and what the shepherd hears of record triggers (R561, R562).
-/
namespace Sys2Proof.Machine

/-! ### Host FIFOs -/

/-- The ring die that holds FIFO f, and its number there (R29). -/
def Dev.fifoRd (s : Dev) (f : Nat) : Nat := if Config.singleRd s.variant then 0 else f / 32 % 2
def Dev.fifoLoc (s : Dev) (f : Nat) : Nat := if Config.singleRd s.variant then f % 64 else f % 32

/-- A byte string in words of 7 bytes (R549, R550). -/
def packWords (first : Bool) : List Byte → Nat → List W64
  | _, 0 => []
  | l, n + 1 =>
    let b := l.take 7
    let rest := l.drop 7
    let last := rest.isEmpty
    pack [(63, 1, 1), (62, 1, b2n first), (61, 1, b2n last), (58, 3, b.length - 1), (0, 56, numOf b)]
      :: (if last then [] else packWords false rest n)

/-- The words of a packet. -/
def packetWords (l : List Byte) : List W64 := packWords true l l.length

/-- A pointer mismatch found (R59, R556): the FIFO is reset. -/
def Dev.fifoCheck (s : Dev) (f : Nat) : Dev :=
  let n := s.fifoRd f
  let i := s.fifoLoc f
  let q := (s.rd n).fifo i
  if q.ptrBad then
    let s := s.modRd n (fun x => x.setFifo i Fifo.empty)
    let s := (s.fadd (FIF_STAT_DISC n i) q.words.length).finc (FIF_STAT_RST n i)
    s.report .cont .fifo f 0 0
  else s

/-- Free words of a FIFO, as the write side sees it. -/
def Dev.fifoFree (s : Dev) (f : Nat) : Nat :=
  Config.fifoWords - ((s.rd (s.fifoRd f)).fifo (s.fifoLoc f)).words.length

/-- The first v words of FIFO f are visible; the level interrupt as their number rises to `LEVEL` (R553). -/
def Dev.fifoShow (s : Dev) (f v : Nat) : Dev :=
  let n := s.fifoRd f
  let i := s.fifoLoc f
  let q := (s.rd n).fifo i
  let lvl := s.fget (FIF_CFG_LEVEL n i)
  let s := s.modRd n (fun x => x.setFifo i { q with visible := v })
  if lvl ≠ 0 ∧ q.visible < lvl ∧ lvl ≤ v then s.fifoIrq f else s

/-- A writer completes the packet it is writing into FIFO f (R552). -/
def Dev.fifoFinish (s : Dev) (f : Nat) : Dev :=
  let q := (s.rd (s.fifoRd f)).fifo (s.fifoLoc f)
  if q.visible < q.words.length then s.fifoShow f q.words.length else s

/-- Of a packet's n words, how many are visible once its writing has begun (R552): all of them, but with cut-through the
    writer may be anywhere in the packet (log entry 81). -/
def Dev.fifoCut (s : Dev) (f n : Nat) : Nat × Dev :=
  let cut := s.fget (FIF_CFG_CUT (s.fifoRd f) (s.fifoLoc f))
  if cut = 0 then (n, s)
  else
    let (w, s) := s.free
    let done := w.toNat % (n + 1)
    (if cut ≤ done ∨ done = n then done else 0, s)

/-- FIFO f takes a packet of n words now: its ring die is up, and it has the space (R554, R555). -/
def Dev.fifoTakes (s : Dev) (f n : Nat) : Bool := s.powered (4 + s.fifoRd f) && decide (n ≤ s.fifoFree f)

/-- Writes one packet that ring die n forms for FIFO f (R37, R552-R555): whole, or not at all. -/
def Dev.fifoPush (s : Dev) (n f : Nat) (bytes : List Byte) : Dev :=
  let t := s.fifoRd f
  let i := s.fifoLoc f
  if !s.powered (4 + t) then (if n = t then s else s.finc (RDn_HUB_BRG_LOST n))
  else
    let s := ((if n = t then s else s.finc (RDn_HUB_BRG_XFER n)).fifoCheck f).fifoFinish f
    let w := packetWords bytes
    if s.fifoFree f < w.length then s.finc (FIF_STAT_DROP t i)
    else
      let (k, s) := s.fifoCut f w.length
      let q := (s.rd t).fifo i
      (s.modRd t (fun x => x.setFifo i { q with words := q.words ++ w })).fifoShow f (q.visible + k)

/-- A stream packet (R557): source word, entry. -/
def Dev.streamPacket (s : Dev) (n f src : Nat) (e : BitVec 128) : Dev :=
  s.fifoPush n f (bytesOf 1 1 ++ bytesOf src 2 ++ bytesOf e.toNat 16)

/-- Index of a unit input in `RDn_HUB_RT` (R571). -/
def cellStreamIx (id inp : Nat) : Nat := 8 * id + inp
def aqStreamIx (c : Nat) : Nat := 67584 + c

/-- Entries of the admitted stream that ring die n takes go to its FIFO; those of no admitted stream nowhere. -/
def Dev.entryIn (s : Dev) (n idx src : Nat) (e : BitVec 128) : Dev :=
  match s.stream idx with
  | some q => s.streamPacket n q.fifo src e
  | none => s

/-- Entry slots of a tally or HUB block that cell `id` sent (R529: MODE 0 marks an empty slot). -/
def Dev.entriesIn (s : Dev) (n id : Nat) (l : List Nat) : Dev :=
  l.foldl (fun s x => if bitsOf x 3 2 = 0 then s else s.entryIn n (cellStreamIx id (bitsOf x 0 3)) id (BitVec.ofNat 128 x)) s

/-! ### Record triggers (R561, R562) -/

def Dev.recState (s : Dev) : Nat := s.fget SH_REC_STAT_STATE

/-- The window of the AQ and of a cell in nanoseconds. -/
def Dev.recPostMax (s : Dev) : Nat := 10000 * max (s.fget SH_REC_CFG_POST_C) (s.fget SH_REC_CFG_POST_Q)

/-- The shepherd learns of a trigger at a TS32 instant: the earliest one known stands until T_trig is decided; a later one
    only counts. Sources: 1 cell, 2 AQ, 3 safety, 4 host, 5 stile. -/
def Dev.recLearn (s : Dev) (t : W32) (src : Nat) : Dev :=
  if s.recState = 1 ∨ s.recState = 2 then
    ((s.fset SH_REC_STAT_STATE 3).rcd (fun x => { x with recTrig := some (t, src), recT0 := s.sh.clk.t0 })).irq 39
  else if s.recState = 3 then
    match s.sh.rcd.recTrig with
    | some (u, _) => if (t - u).toInt < 0 then s.rcd (fun x => { x with recTrig := some (t, src) }) else s
    | none => s.finc SH_REC_STAT_LATETRG
  else if s.recState = 4 then s.finc SH_REC_STAT_LATETRG
  else s

end Sys2Proof.Machine
end

