-- ==== Sys2Proof/Machine/FrontEnd.lean ====
section
/-!
DEFINITION. The measurement front ends of the cell and of the AQ die (R255-R301), with the cell's t0 (R127, R250, R467).
-/
namespace Sys2Proof.Machine

/-! ### The cell's inputs -/

def inDflt (_ : Nat) : InSt := InSt.reset
def Cell.inp (c : Cell) (n : Nat) : InSt := Store.get inDflt c.fe.inp n
def Cell.setInp (c : Cell) (n : Nat) (x : InSt) : Cell := { c with fe := { c.fe with inp := Store.set inDflt c.fe.inp n x } }
def Cell.setConv (c : Cell) (x : ConvSt) : Cell := { c with fe := { c.fe with conv := x } }

/-- Low 32 bits of an instant (R454). -/
def ts32 (t : Nat) : W32 := BitVec.ofNat 32 t

/-- The cell's stream on input n as `SRB_HUB_CFG` has it. -/
def Cell.streamCfg (c : Cell) (n : Nat) : Option StreamCfg :=
  if c.fbit (SRB_HUB_CFG_EN n) then
    some {
      mode := c.fget (SRB_HUB_CFG_MODE n), d := c.fget (SRB_HUB_CFG_D n), co := c.fbit (SRB_HUB_CFG_CO n)
      db := c.rget (SRB_HUB_DB n), keep := c.fget SRB_HUB_KEEP_KEEP, inp := n }
  else none

/-- Queues an entry (R538): a full queue discards it. -/
def Cell.queue (c : Cell) (n : Nat) (e : Option (BitVec 128)) : Cell :=
  match e with
  | none => c
  | some e =>
    if c.fbit (SRB_HUB_CFG_CLASS n) then
      (if c.hub.gq.length < Config.hubQueue then { c with hub := { c.hub with gq := c.hub.gq ++ [e] } }
       else c.finc SRB_HUB_STAT_GDROP)
    else
      (if c.hub.pq.length < Config.hubQueue then { c with hub := { c.hub with pq := c.hub.pq ++ [e] } }
       else c.finc SRB_HUB_STAT_PDROP)

/-- What surrounds a sample of input n (R271, R297). -/
def Cell.inCfg (c : Cell) (n : Nat) : InCfg :=
  { f := fun i j => (Store.get cellRegReset c.fcoef (SRB_FE_FCOEF n i j)).toNat
    u := fun i j => (Store.get cellRegReset c.fe.uUse (SRB_FE_UCOEF n i j)).toNat
    td := BitVec.ofNat 16 (c.fget SRB_FE_TDIE_T), rho := c.fe.conv.rho, stale := c.fbit SRB_FE_REF_STALE
    revEn := c.fbit (SRB_FE_CH_REVEN n), revLim := sx 16 (c.fget (SRB_FE_CH_REVLIM n)), q := c.streamCfg n }

/-- One bit of a per-input field of `SRB_FE_STAT`. -/
def inBit (f : Field) (n : Nat) : Field := ⟨f.reg, f.lo + n, 1⟩

/-! ### Record triggers of the cell (R561) -/

/-- The cell's record goes FIRED on its own condition. -/
def Cell.recTrigger (c : Cell) (time : Nat) : Cell :=
  if c.fget SRB_REC_STAT_STATE = 1 then
    let c := (c.fset SRB_REC_STAT_STATE 2).fset (inBit SRB_REC_STAT_FL 0) 1
    { c.rset SRB_REC_TTRIG (ts32 time) with hub := { c.hub with rcd := { c.hub.rcd with fired := true, trigAt := time } } }
  else c

/-- A sample of input n is tested against the level. -/
def Cell.testTrigger (c : Cell) (n time : Nat) : Cell :=
  let st := c.inp n
  if c.fget SRB_REC_TCFG_INP = n ∧ c.fbit SRB_REC_TCFG_EN ∧ st.flg &&& 0b00011 = 0 then
    let hit := match c.hub.rcd.lastY with
      | some p => crosses (c.fget SRB_REC_TCFG_SLOPE) p.toNat st.y.toNat (c.rget SRB_REC_TLVL).toNat
      | none => false
    let c := { c with hub := { c.hub with rcd := { c.hub.rcd with lastY := some st.y } } }
    if hit then c.recTrigger time else c
  else c

/-! ### A sample of the cell -/

/-- Overtemperature (R236, R264): a sample of AIN1 or AIN2 above `TLIM`, or at positive over-range. -/
def Cell.overtemp (c : Cell) (n : Nat) (x : Option Adc) : Cell :=
  match x with
  | none => c
  | some x =>
    if n = 1 ∨ n = 2 then
      let st := c.inp n
      let high := (decide (x.range ≠ .none) && decide (st.code = 0x7FFF)) ||
        f32.lt (f32.ofInt (sx 16 (c.fget SRB_PROT_CFG_TLIM)) (-8)) st.y.toNat
      let k := if high then st.otCount + 1 else 0
      let c := c.setInp n { st with otCount := k }
      if 8 ≤ k then c.fset SRB_PROT_STAT_OTEMP 1 else c
    else c

/-- Input n is sampled at a local time by converter B, or AIN0 by converter A (R258, R263); `none` where BLANK holds it. -/
def Cell.measure (c : Cell) (n time : Nat) (chop : Bool) (x : Option Adc) : Cell :=
  let cv := if n = 0 then ConvSt.reset else c.fe.conv
  let (cv, st, rev, e) := sampleIn (c.inCfg n) cv (c.inp n) n time chop x (ts32 time)
  let c := if n = 0 then c else c.setConv cv
  let c := c.setInp n st
  let v := x.isSome || c.fbit (SRB_FE_RAW_V n)
  let c := (c.rset (SRB_FE_RAW n) (rawWord v st.flg st.code)).rset (SRB_FE_RES n) st.y
  let c := if x.isNone then c.finc SRB_FE_CNT_HELD else c
  let c := match rev with
    | some b => c.fset (inBit SRB_FE_STAT_REV n) (b2n b)
    | none => c
  let c := c.overtemp n x
  let c := c.queue n e
  let ent : RecEnt := { inp := n, time := time, ent := recWord (ts32 time) st.flg n st.code, y := st.y }
  let c := { c with hub := { c.hub with rcd := c.hub.rcd.store Config.cellRecEntries ent } }
  c.testTrigger n time

/-! ### The cell's t0 -/

/-- User coefficients written at least 0.10 µs before a t0 come into force (R275). -/
def Cell.coefT0 (c : Cell) : Cell :=
  let due := c.fe.uNew.filter (fun w => decide (w.1 + 100 ≤ c.tm.time))
  { c with fe := { c.fe with
    uUse := due.foldl (fun m w => Store.set cellRegReset m w.2.1 w.2.2) c.fe.uUse
    uNew := c.fe.uNew.filter (fun w => !decide (w.1 + 100 ≤ c.tm.time)) } }

/-- A candidate ratio comes into force (R278-R280). -/
def Cell.refT0 (c : Cell) : Cell :=
  let (cv, hit) := c.fe.conv.atT0 c.tm.time
  let c := c.setConv cv
  if hit then (c.rset SRB_FE_RHO cv.rho).fset SRB_FE_REF_STALE 0 else c

/-- A TS32 instant near the local time, extended (R455). -/
def Cell.extend (c : Cell) (t : W32) : Nat := ((c.tm.time : Int) + (t - ts32 c.tm.time).toInt).toNat

/-- Cycle settings written under R93 come into force. -/
def Cell.takeCyc (c : Cell) : Cell :=
  let c := c.fset SRB_CYC_EFF_PEND 0
  { c with tm := { c.tm with
    cyc := c.rget SRB_CYC, anch := c.extend (c.rget SRB_T0_ANCH), slotA := c.rget SRB_SLOT_TA, slotB := c.rget SRB_SLOT_TB } }

/-- New settings wait, and cycle sequence k lies at or past the one they name (R250). A cell that has had no t0 of that sequence
    takes them at its first later one (log entry 121). -/
def Cell.cycDue (c : Cell) (k : W16) : Bool :=
  c.fbit SRB_CYC_EFF_PEND && decide (0 ≤ seqDiff k (BitVec.ofNat 16 (c.fget SRB_CYC_EFF_EFF)))

/-- The instant of the grid through `anch` nearest to a time, at least one period after the latest t0 (R62, R250). -/
def gridAfter (anch period now last : Nat) : Nat :=
  let p : Int := max (10 * period) 1
  let up := fun (x : Int) => ((anch : Int) + -(-(x - anch) / p) * p).toNat
  max (up ((now : Int) - p / 2)) (if last = 0 then 0 else up ((last : Int) + p))

/-- The cell's next t0, on local time. A grid that comes into force at it is the one it lies on. -/
def Cell.nextT0 (c : Cell) (k : W16) : Nat :=
  if c.cycDue k then
    let w := c.rget SRB_CYC
    gridAfter (c.extend (c.rget SRB_T0_ANCH)) (bitsOf w.toNat 0 14) c.tm.time 0
  else gridAfter c.tm.anch c.period c.tm.time c.tm.t0

/-- Adds a step to the apply times of held droves of cycles before it (R469). -/
def heldStep (delta : W64) (sseq : W16) (l : List Held) : List Held :=
  l.map (fun h => if seqDiff (BitVec.ofNat 16 (Pl.get h.pl 2 16)) sseq < 0
    then { h with pl := Pl.put h.pl 4 32 (ux 32 ((Pl.get h.pl 4 32 : Int) + delta.toInt)) } else h)

/-- The local counter steps by d, and everything that goes on in real time with it (R453, R467, R468, R470): the grid, the reload
    instants and edges ahead, and the times from which ages and recoveries count. -/
def Cell.shiftTime (c : Cell) (d : Int) : Cell :=
  let m := moved d
  let m40 := moved (25 * d)
  { c with
    tm := { c.tm with
      time := ux 64 ((c.tm.time : Int) + d), anch := m c.tm.anch, t0 := m c.tm.t0, dlyAt := m c.tm.dlyAt
      reloads := c.tm.reloads.map m }
    pwm := { c.pwm with
      plan := c.pwm.plan.map (fun e => (m40 e.1, e.2)), fplan := c.pwm.fplan.map (fun e => (m40 e.1, e.2))
      edges := c.pwm.edges.map (fun e => (m40 e.1, e.2)), onA := c.pwm.onA.map m40, onB := c.pwm.onB.map m40 }
    fe := { c.fe with
      conv := c.fe.conv.shift d, inp := c.fe.inp.map (fun e => (e.1, e.2.shift d))
      uNew := c.fe.uNew.map (fun e => (m e.1, e.2)) } }

/-- Takes a step of station time (R467, R470). -/
def Cell.takeStep (c : Cell) (delta : W64) (sseq : W16) : Cell :=
  let c := (((c.fset SRB_TD_STEP_PEND 0).finc SRB_TD_STAT_STEPS)).shiftTime delta.toInt
  { c with
    tm := { c.tm with delta := none, lastStepSeq := some (delta, sseq) }
    arm := { c.arm with droves := heldStep delta sseq c.arm.droves, expl := heldStep delta sseq c.arm.expl } }

/-- A step taken long ago, and the `SEQL` of an old BLOCK block, are forgotten: only droves of the few cycles of R89 lie
    before them (R469, R615). -/
def Cell.stepT0 (c : Cell) : Cell :=
  let old := match c.tm.lastStepSeq with
    | some (_, q) => decide (seqDiff c.tm.k q > 64)
    | none => false
  let c := if old then { c with tm := { c.tm with lastStepSeq := none } } else c
  let past := match c.arm.seqFloor with
    | some q => decide (seqDiff c.tm.k q > 64)
    | none => false
  let c := if past then { c with arm := { c.arm with seqFloor := none } } else c
  match c.tm.delta with
  | some (d, q) => if q = c.tm.k then c.takeStep d q else c
  | none => c

/-- Scan entries in force: up to the first code outside 0x1-0x7, inputs not enabled left out (R259). -/
def scanList (ent : Nat) (en : Nat → Bool) : List Nat :=
  (((List.range 8).map (fun e => bitsOf ent (4 * e) 4)).takeWhile (fun n => decide (1 ≤ n) && decide (n ≤ 7))).filter en

/-- Converter B reads its scan list at t0 and begins its slots anew (R259, R260). -/
def Cell.scanT0 (c : Cell) : Cell :=
  let l := scanList (c.fget SRB_FE_SCAN_ENT) (fun n => c.fbit (SRB_FE_CH_EN n))
  let cv := c.fe.conv
  c.setConv { cv with
    list := l, settle := (List.range 8).map (fun n => c.fget (SRB_FE_CH_SETTLE n))
    rot := if l.tail = cv.list.tail then cv.rot else 0
    slotAt := 0, slotNo := 0, slotEnd := false }

/-- Admitted streams that have not begun begin at this t0 (R545). -/
def Cell.streamsT0 (c : Cell) : Cell :=
  (List.range 8).foldl (fun c n =>
    match (if (c.inp n).started then none else c.streamCfg n) with
    | some q => c.setInp n ((c.inp n).restart q)
    | none => c) c

/-- `SERR` (R251, R477). -/
def Cell.serr (c : Cell) : W32 := if c.timeSrc = 3 then 0x7FFFFFFF else c.rget SRB_TD_SERR

/-- The capacitor voltage of R273. -/
def Cell.vcap (c : Cell) : Int :=
  f32.toIntAway (c.inp 0).y.toNat 20000 0 (-0x80000000) 0x7FFFFFFF (-0x80000000)

/-- `TEMP` of R273. -/
def Cell.temp (c : Cell) : Int :=
  if c.fbit (SRB_FE_CH_EN 1) then f32.toIntAway (c.inp 1).y.toNat 1 8 (-0x8000) 0x7FFF (-0x8000) else -0x8000

/-- The key of R124, the frozen record of R127, the overvoltage warning of R236 and the STATE of R95. -/
def Cell.freezeT0 (c : Cell) : Cell :=
  let st := c.inp 0
  let key := insKey c.vcap (c.fget SRB_KBASE_KBASE) c.arm.hys.toInt c.arm.lastIns c.arm.lastMod
  let part := decide (c.fget SRB_FOLD_PEN = 1) && decide (c.insNow.code < 4) && !c.lprot && !c.prot.slcv
  let r : CellRec := { seq := c.tm.k, key := BitVec.ofInt 32 key, fb := c.fb, part := part }
  let w := c.stateWord (256 * b2n (st.flg.getLsbD 0) + 128 * b2n (st.flg.getLsbD 2) + 64 * b2n (st.flg.getLsbD 1))
  { c.fset SRB_STATE_STATE w with
    arm := { c.arm with recs := (r :: c.arm.recs).take 8 }
    prot := { c.prot with ovw := decide (sx 32 (c.rget SRB_OVW).toNat < c.vcap) } }

/-! ### The tally (R70, R71, R94-R97) -/

/-- `CRED` (R96). -/
def Cell.cred (c : Cell) : Nat :=
  (4 - c.lnk.txns.length) + 8 * c.fget SRB_RP_NEG_RSEQ + 2048 * b2n (decide (c.fget SRB_REC_STAT_STATE = 1))
    + 4096 * b2n c.hub.rcd.fired + 8192 * b2n c.arm.dmis

/-- The tally of the present cycle, with up to two queued entries (R538). -/
def Cell.tallyOf (c : Cell) (ents : List (BitVec 128)) : Payload :=
  let key := match c.arm.recs.head? with
    | some r => r.key.toNat
    | none => 0
  let st := bitsOf (c.fget SRB_STATE_STATE) 0 16
  Pl.mk [(0, 16, c.id + (if c.v1 then 0x4000 else 0x8000)), (2, 16, c.tm.k.toNat), (4, 32, key), (8, 32, ux 32 c.vcap),
    (12, 16, (c.inp 0).code.toNat), (14, 16, if c.v1 then putBits st 13 1 0 else st), (16, 16, ux 16 c.temp), (18, 16, c.cred),
    (20, 32, c.serr.toNat), (24, 128, (ents.getD 0 0).toNat), (40, 128, (ents.getD 1 0).toNat), (56, 32, c.alarm.toNat)]

/-- Takes up to n entries: first from one queue, then from the other. -/
def Cell.draw (c : Cell) (n : Nat) (piggyFirst : Bool) : List (BitVec 128) × Cell :=
  let a := if piggyFirst then c.hub.pq else c.hub.gq
  let b := if piggyFirst then c.hub.gq else c.hub.pq
  let m := n - (a.take n).length
  let hub := if piggyFirst then { c.hub with pq := a.drop n, gq := b.drop m } else { c.hub with gq := a.drop n, pq := b.drop m }
  (a.take n ++ b.take m, { c with hub := hub })

/-- The slot instant in force for the stream toward an end, in 10 ps units. -/
def Cell.slotOf (c : Cell) (towardB : Bool) : Option Nat :=
  let w := if towardB then c.tm.slotB else c.tm.slotA
  if w.getLsbD 31 then some (bitsOf w.toNat 0 24) else none

/-- The tally of the present cycle, assembled once (R66, R71). -/
def Cell.formTally (c : Cell) : Cell :=
  if c.arm.recs.isEmpty || ((c.slotOf false).isNone && (c.slotOf true).isNone) ||
      c.lnk.tallies.any (fun t => decide (t.seq = c.tm.k)) then c
  else
    let (ents, d) := c.draw 2 true
    { d with
      lnk := { d.lnk with tallies := ({ seq := c.tm.k, pl := c.tallyOf ents, sent := 0 } :: d.lnk.tallies).take 8 }
      arm := { d.arm with dmis := false } }

/-- t0 of the cell's cycle k at instant t of its local time. The cycle's reload instant joins those ahead (R225). -/
def Cell.atT0 (c : Cell) (k : W16) (t : Nat) (x : Option Adc) : Cell :=
  let c := c.formTally
  let c := { c with
    tm := { c.tm with k := k, t0 := t }
    prot := { c.prot with rowFour := false }
    fe := { c.fe with chop := !c.fe.chop } }
  let c := c.stepT0
  let c := if c.cycDue k then c.takeCyc else c
  let c := { c with tm := { c.tm with
    reloads := insertTime (c.tm.t0 + 10 * c.applyOfs) (c.tm.reloads.filter (fun r => decide (c.tm.t0 ≤ r + 200000))) } }
  let c := c.refT0.coefT0.scanT0.streamsT0
  (c.measure 0 c.tm.t0 c.fe.chop x).freezeT0

/-! ### Time passes (R47, R53, R248, R449) -/

/-- The local counter after n nanoseconds of the clock it runs from: disciplined in rate, 64 bits wide (R248). -/
def Cell.count (c : Cell) (n : Nat) : Cell :=
  let x := (c.tm.sub : Int) + n * (2 ^ 40 + sx 32 (c.fget SRB_TD_RATE_RATE))
  { c with tm := { c.tm with time := ux 64 ((c.tm.time : Int) + x / 2 ^ 40), sub := (x % 2 ^ 40).toNat } }

/-- n nanoseconds pass at a cell. The tally is assembled once 1.00 µs of its cycle have passed (R66). -/
def Cell.elapse (c : Cell) (n : Nat) : Cell :=
  if c.powered then
    let c := c.count n
    if c.tm.everTime ∧ c.tm.t0 + 1000 ≤ c.tm.time then c.formTally else c
  else c

/-- n nanoseconds of the timebases pass: the raw counters of the timekeeping dies that run advance (R449), and so do the local
    counters of powered cells. -/
def Dev.elapse (s : Dev) (n : Nat) : Dev :=
  let w := BitVec.ofNat 64 n
  let run := s.sh.clk.started && s.sh.pin.refclk && !s.sh.clk.inReset
  let s := if run then s.clk (fun x => { x with raw := x.raw + w }) else s
  let s := if run && s.running 4 then s.modRd 0 (fun x => { x with raw := x.raw + w }) else s
  let s := if run && s.running 5 then s.modRd 1 (fun x => { x with raw := x.raw + w }) else s
  let s := if run && s.running 6 then { s with aq := { s.aq with raw := s.aq.raw + w } } else s
  { s with cells := s.cells.map (fun e => (e.1, e.2.elapse n)) }

/-- How long until a cell's local time reaches t, in nanoseconds of its clock. -/
def Cell.until (c : Cell) (t : Nat) : Nat :=
  let need := ((t : Int) - c.tm.time) * 2 ^ 40 - c.tm.sub
  (-((-need) / (2 ^ 40 + sx 32 (c.fget SRB_TD_RATE_RATE)))).toNat

/-- The local time of the cell at a place comes to t, if t lies ahead (log entry 2). -/
def Dev.cellCome (s : Dev) (p : Place) (t : Nat) : Dev := s.elapse ((s.cell p).until t)

/-- An event of the cell at a place, at an instant of its local time where it has one. -/
def State.cellEvent (s : State) (p : Place) (at_ : Cell → Option Nat) (f : Cell → Nat → Cell) : Out :=
  s.updIf (s.dev.hasPlace p) (fun d =>
    match (if (d.cell p).powered then at_ (d.cell p) else none) with
    | some t => (d.cellCome p t).modCell p (fun c => c.act (fun c => f c t))
    | none => d)

/-- The cycle sequence of a cell's t0 at instant t of its local time: that of the package, whose own t0 of that sequence may come an instant later (log
    entry 121). -/
def Dev.cellSeq (s : Dev) (c : Cell) (t : Nat) : W16 :=
  let due := match c.tm.delta with
    | some (d, q) => if seqDiff s.seq q < 0 then 0 else d.toInt
    | none => 0
  if s.sh.clk.gridOn ∧ 10 * (s.period : Int) < 2 * ((t : Int) + due - s.sh.clk.t0.toNat) then s.seq + 1 else s.seq

/-- CELL_SAMPLE_INSTANT (R127, R249): only once the cell's time is valid. -/
def execCellSampleInstant (p : Place) (x : Adc) (blank : Bool) (s : State) : Out :=
  let c := s.dev.cell p
  let k := s.dev.cellSeq c (c.nextT0 s.dev.seq)
  s.cellEvent p (fun c => if c.tm.everTime then some (c.nextT0 k) else none)
    (fun c t => c.atT0 k t (if blank then none else some x))

/-- RELOAD_INSTANT: the next of a cell whose time is valid (R225, R249). -/
def execReloadInstant (p : Place) (s : State) : Out :=
  s.cellEvent p (fun c => if c.tm.everTime then c.tm.reloads.head? else none)
    (fun c r => { c with tm := { c.tm with reloads := c.tm.reloads.tail } }.reload r)

/-- GATE_OUTPUT_EDGE: the next scheduled edge of the cell reaches its instant (R222, R224). -/
def execGateOutputEdge (p : Place) (s : State) : Out :=
  s.cellEvent p (fun c => c.pwm.edges.head?.map (fun e => (e.1 + 24) / 25)) (fun c _ => c.edge)

/-! ### Converter B (R259-R264, R277-R287) -/

/-- The chopper polarity at an offset from t0, in 10 ns units (R265): it turns every 4 µs. -/
def chopAt (base : Bool) (ofs : Nat) : Bool := base != decide (ofs / 400 % 2 = 1)

/-- One conversion of converter B that counts under R261 has been made. -/
def ConvSt.count (cv : ConvSt) : ConvSt := { cv with sinceRef := cv.sinceRef + 1, sinceDiag := cv.sinceDiag + 1 }

/-- A reference conversion that began at a local time (R277, R278). -/
def ConvSt.reference (cv : ConvSt) (unit time : Nat) (code td : W16) : ConvSt × Bool :=
  let rho := Config.refRatio unit code td
  let cv := { cv with refDone := true, sinceRef := 0 }
  if refAccepted rho then
    ({ cv with cand := some (BitVec.ofNat 32 rho), candAt := time + min Config.convNs 1000 }, true)
  else (cv, false)

/-- The enabled inputs with their diagnostic checks. -/
def Cell.diagList (c : Cell) : List (Nat × Nat) :=
  diagItems (((List.range 8).filter (fun n => c.fbit (SRB_FE_CH_EN n))).map
    (fun n => (n, c.fbit (SRB_FE_CH_OWEN n), c.fbit (SRB_FE_CH_ZEN n))))

/-- An item of the round is done; after the last one a round that waits begins (R284). -/
def ConvSt.diagPop (cv : ConvSt) (fresh : List (Nat × Nat)) : ConvSt :=
  match cv.diag.tail with
  | [] => if cv.roundPend then { cv with diag := fresh, roundPend := false } else { cv with diag := [] }
  | l => { cv with diag := l }

def Cell.diagResult (c : Cell) (n : Nat) (r : Diag) : Cell :=
  match r with
  | .none => c
  | .openw b => c.fset (inBit SRB_FE_STAT_OPENW n) (b2n b)
  | .imped z =>
    let bad := decide (100 * c.fget SRB_FE_DIAG_ZMAX < z) || decide (z < c.fget SRB_FE_DIAG_ZMIN)
    (c.fset (SRB_FE_ZRES_Z n) (min z 0xFFFF)).fset (inBit SRB_FE_STAT_IMPED n) (b2n bad)

/-- An impedance check that has run its time as its next conversion would begin is closed before the next slot is chosen
    (R286). -/
def Cell.diagClose (c : Cell) : Cell :=
  match c.fe.conv.diag with
  | (n, 2) :: _ =>
    match zDone 0 false (c.inp n) (c.tm.t0 + 10 * (c.fe.conv.slotAt + max 100 (c.fe.conv.settle.getD n 0))) with
    | some (st, r) => ((c.setInp n st).diagResult n r).setConv (c.fe.conv.diagPop c.diagList)
    | none => c
  | _ => c

/-- What a slot takes (R261). -/
inductive SlotItem where
  | reference
  | diag (n kind : Nat)
  | rot (n : Nat)
  deriving DecidableEq, Repr

/-- The first item that is due and fits, with its sample instant (R260-R262). -/
def Cell.slotItem (c : Cell) : Option (SlotItem × Nat) :=
  let cv := c.fe.conv
  let settle := fun n => cv.settle.getD n 0
  let fg := match cv.list.head? with
    | some n => settle n
    | none => 0
  let time := fun d => cv.slotAt + max 100 d
  let fits := fun t => decide (t + 100 ≤ c.period) && decide (t + fg ≤ c.period)
  let ref := time (c.fget SRB_FE_GLB_REFSET)
  if (!cv.refDone || decide (63 ≤ cv.sinceRef)) && fits ref then some (.reference, ref)
  else
    let dg := match cv.diag.head? with
      | some (n, k) => if 15 ≤ cv.sinceDiag ∧ fits (time (settle n)) then some (SlotItem.diag n k, time (settle n)) else none
      | none => none
    match dg with
    | some x => some x
    | none =>
      let l := cv.list.tail
      match l[cv.rot % max l.length 1]? with
      | some n => if fits (time (settle n)) then some (.rot n, time (settle n)) else none
      | none => none

/-- Slot 0 (R260, R261): the foreground entry, at t0. -/
def Cell.slotFirst (c : Cell) (x : Option Adc) : Cell :=
  if c.fe.conv.slotNo ≠ 0 then c
  else
    let c := c.setConv { c.fe.conv with slotNo := 1, slotAt := 0 }
    match c.fe.conv.list.head? with
    | none => c
    | some n =>
      let c := c.measure n c.tm.t0 c.fe.chop x
      if x.isSome then c.setConv c.fe.conv.count else c

/-- A later slot. -/
def Cell.slotNext (c : Cell) (x : Option Adc) : Cell :=
  let cv := c.fe.conv
  if cv.slotEnd || (decide (cv.slotNo = 0) && !cv.list.isEmpty) then c
  else
    let c := c.diagClose
    match c.slotItem with
    | none => c.setConv { c.fe.conv with slotEnd := true }
    | some (item, t) =>
      let c := c.setConv { c.fe.conv with slotAt := t, slotNo := c.fe.conv.slotNo + 1 }
      let time := c.tm.t0 + 10 * t
      match item, x with
      | .rot n, _ =>
        let c := c.setConv { c.fe.conv with rot := (c.fe.conv.rot + 1) % max c.fe.conv.list.tail.length 1 }
        let c := c.measure n time (chopAt c.fe.chop t) x
        if x.isSome then c.setConv c.fe.conv.count else c
      | .reference, some x =>
        let (cv, ok) := c.fe.conv.reference 0 time x.code (BitVec.ofNat 16 (c.fget SRB_FE_TDIE_T))
        let c := c.setConv cv
        if ok then c.fset SRB_FE_REF_REFBAD 0 else (c.fset SRB_FE_REF_REFBAD 1).finc SRB_FE_CNT_REFBAD
      | .diag n k, some x =>
        let (st, r, fin) := diagConv (c.inp n) k (c.fget SRB_FE_DIAG_OWLIM) time x
        let c := (c.setInp n st).diagResult n r
        let cv := { c.fe.conv with sinceRef := c.fe.conv.sinceRef + 1, sinceDiag := 0 }
        c.setConv (if fin then cv.diagPop c.diagList else cv)
      | _, none => c

/-- CONVERTER_B_SLOT: slot 0 or the next slot; BLANK high takes no sample (R268, R269). -/
def execConverterBSlot (p : Place) (first : Bool) (x : Adc) (blank : Bool) (s : State) : Out :=
  s.onCell p (fun c =>
    let x := if blank then none else some x
    if !c.tm.everTime then c else if first then c.slotFirst x else c.slotNext x)

/-! ### The AQ die (R291-R301) -/

def AqDie.input (x : AqDie) (c : Nat) : InSt := Store.get inDflt x.inp c
def AqDie.setInput (x : AqDie) (c : Nat) (st : InSt) : AqDie := { x with inp := Store.set inDflt x.inp c st }
def convDflt (_ : Nat) : ConvSt := ConvSt.reset
def AqDie.cv (x : AqDie) (v : Nat) : ConvSt := Store.get convDflt x.conv v
def AqDie.setCv (x : AqDie) (v : Nat) (c : ConvSt) : AqDie := { x with conv := Store.set convDflt x.conv v c }
def Dev.modAq (s : Dev) (f : AqDie → AqDie) : Dev := { s with aq := f s.aq }

/-- A field of `AQ_CH_CFG(c)` in a settings word. -/
def aqField (w : W64) (f : Nat → Field) : Nat := bitsOf w.toNat (f 0).lo (f 0).width

/-- An input is converted in cycle k (R293). -/
def aqDue (w : W64) (k : Nat) : Bool :=
  decide (aqField w AQ_CH_CFG_EN = 1) && decide (aqField w AQ_CH_CFG_SUSP = 0) &&
    decide (k % 2 ^ aqField w AQ_CH_CFG_DIV = aqField w AQ_CH_CFG_PH % 2 ^ aqField w AQ_CH_CFG_DIV)

/-- Slots of a cycle: all, and those that may convert held values (R292). -/
def aqTs (period : Nat) : Nat := period / 100
def aqTc (period : Nat) : Nat := (period - 20) / 100

/-- The four settings words of a converter. -/
def aqFour (get : Nat → W64) (v : Nat) : List (Nat × W64) := (List.range 4).map (fun i => (4 * v + i, get (4 * v + i)))

/-- Inputs due in cycle k in slot order: the foreground input first, the others in ascending position (R293). -/
def aqOrder (l : List (Nat × W64)) (k : Nat) : List Nat :=
  let due := l.filter (fun e => aqDue e.2 k)
  (due.filter (fun e => decide (aqField e.2 AQ_CH_CFG_FG = 1))).map (fun e => e.1)
    ++ (due.filter (fun e => decide (aqField e.2 AQ_CH_CFG_FG = 0))).map (fun e => e.1)

/-- A converter holds at most Tc conversions due in any cycle (R294). -/
def aqFits (l : List (Nat × W64)) (period : Nat) : Bool :=
  (List.range 8).all (fun k => decide ((aqOrder l k).length ≤ aqTc period))

def Dev.aqCfg (s : Dev) (c : Nat) : W64 := s.rget (AQ_CH_CFG c)
def Dev.aqInForce (s : Dev) (c : Nat) : W64 := Store.get regReset s.aq.cfgAt (AQ_CH_CFG c)

def Dev.aqStream (s : Dev) (c : Nat) : Option StreamCfg :=
  match s.stream (aqStreamIx c) with
  | some q =>
    if q.susp then none
    else some { mode := q.mode, d := q.d, co := q.co, db := Config.aqDb, keep := Config.aqKeep, inp := 0 }
  | none => none

/-- A coefficient word of input c: index 4 j + i (R300). -/
def aqCoef (get : Nat → W64) (reg : Nat → Nat → Nat) (c i j : Nat) : Nat :=
  let n := 4 * j + i
  bitsOf (get (reg c (n / 2))).toNat (32 * (n % 2)) 32

def Dev.aqInCfg (s : Dev) (c : Nat) : InCfg :=
  let w := s.aqInForce c
  { f := aqCoef s.rget AQ_FCOEF c, u := aqCoef (Store.get regReset s.aq.uUse) AQ_UCOEF c, td := s.aq.td
    rho := (s.aq.cv (c / 4)).rho, stale := s.fbit (AQ_REF_STALE (c / 4)), revEn := decide (aqField w AQ_CH_CFG_REVEN = 1)
    revLim := sx 16 (aqField w AQ_CH_CFG_REVLIM), q := s.aqStream c }

/-- A diagnostic flag of an AQ input is set or cleared; a rise is a contained fault of the input (R598). Bits of
    `AQ_CH_RES.DIAG`: 5 `OPENW`, 4 `REV`, 3 `IMPED`. -/
def Dev.aqFlag (s : Dev) (c bit : Nat) (b : Bool) : Dev :=
  let f : Field := ⟨AQ_CH_RES c, 20 + bit, 1⟩
  let rise := b && !s.fbit f
  let s := s.fset f (b2n b)
  if rise then s.report .cont .input c bit 0 else s

/-- An entry of an AQ stream: the tally master forms its packet. -/
def Dev.aqEntry (s : Dev) (c : Nat) (e : Option (BitVec 128)) : Dev :=
  match e with
  | some e => s.entryIn s.master (aqStreamIx c) (0x8000 + c) e
  | none => s

/-- The AQ trigger conditions on input c (R561): each fires at its first crossing since the record was armed. -/
def Dev.aqTriggers (s : Dev) (c time : Nat) : Dev :=
  let st := s.aq.input c
  (List.range 16).foldl (fun s i =>
    if s.fbit (AQ_TRG_EN i) ∧ s.fget (AQ_TRG_INP i) = c ∧ st.flg &&& 0b00011 = 0 then
      let hit := match Store.get (fun _ => none) s.aq.trgY i with
        | some p => crosses (s.fget (AQ_TRG_SLOPE i)) p.toNat st.y.toNat (s.fget (AQ_TRG_L i))
        | none => false
      let s := s.modAq (fun x => { x with trgY := Store.set (fun _ => none) x.trgY i (some st.y) })
      if hit && decide (i ∉ s.aq.trgHit) && decide (1 ≤ s.recState) && decide (s.recState ≤ 4) then
        let s := s.modAq (fun x => { x with trgHit := i :: x.trgHit })
        let s := if s.recState ≤ 2 ∧ !s.aq.rcd.fired then
            s.modAq (fun x => { x with rcd := { x.rcd with fired := true, trigAt := time } })
          else s
        if s.fbit SH_REC_SRC_AQT then s.recLearn (ts32 time) 2 else s
      else s
    else s) s

/-- A held value of input c is converted: its sample instant is t0. -/
def Dev.aqMeasure (s : Dev) (c : Nat) (x : Adc) : Dev :=
  let time := s.aq.t0
  let (cv, st, rev, e) := sampleIn (s.aqInCfg c) (s.aq.cv (c / 4)) (s.aq.input c) c time s.aq.chop (some x) (ts32 time)
  let s := s.modAq (fun q => (q.setCv (c / 4) cv.count).setInput c st)
  let diag := s.fget (AQ_CH_RES_DIAG c)
  let s := s.rset (AQ_CH_RES c)
    (pack [(32, 32, st.y.toNat), (0, 32, (rawWord true st.flg st.code).toNat), (20, 6, diag)])
  let s := match rev with
    | some b => s.aqFlag c 4 b
    | none => s
  let s := if aqField (s.aqInForce c) AQ_CH_CFG_FG = 1 then
      s.modAq (fun q => { q with sample := Store.set (fun _ => 0) q.sample (c / 4) (s.rget (AQ_CH_RES c)) })
    else s
  let ent : RecEnt := { inp := c, time := time, ent := recWord (ts32 time) st.flg 0 st.code, y := st.y }
  let s := s.modAq (fun q => { q with rcd := q.rcd.store Config.aqRecEntries ent })
  (s.aqEntry c e).aqTriggers c time

def Dev.aqDiagList (s : Dev) (v : Nat) : List (Nat × Nat) :=
  diagItems (((aqFour s.aqCfg v).filter (fun e => decide (aqField e.2 AQ_CH_CFG_EN = 1))).map
    (fun e => (e.1, decide (aqField e.2 AQ_CH_CFG_OWEN = 1), decide (aqField e.2 AQ_CH_CFG_ZEN = 1))))

def Dev.aqDiagResult (s : Dev) (c : Nat) (r : Diag) : Dev :=
  match r with
  | .none => s
  | .openw b => s.aqFlag c 5 b
  | .imped z =>
    let bad := decide (100 * s.fget AQ_DIAG_ZMAX < z) || decide (z < s.fget AQ_DIAG_ZMIN)
    (s.fset (AQ_CH_FILT_Z c) (min z 0xFFFF)).aqFlag c 3 bad

/-- A reference or diagnostic conversion in a slot that R293 leaves free (R296). -/
def Dev.aqBackground (s : Dev) (v j : Nat) (x : Adc) : Dev :=
  let time := s.aq.t0 + 1000 * j
  let s := match (s.aq.cv v).diag with
    | (n, 2) :: _ =>
      match zDone (1 + v) (decide (aqField (s.aqInForce n) AQ_CH_CFG_RNG = 1)) (s.aq.input n) time with
      | some (st, r) =>
        (s.modAq (fun q => (q.setInput n st).setCv v ((q.cv v).diagPop (s.aqDiagList v)))).aqDiagResult n r
      | none => s
    | _ => s
  let cv := s.aq.cv v
  if !cv.refDone || decide (63 ≤ cv.sinceRef) then
    let (cv, ok) := cv.reference (1 + v) time x.code s.aq.td
    let s := s.modAq (fun q => q.setCv v cv)
    if ok then s.fset (AQ_REF_REFBAD v) 0 else s.fset (AQ_REF_REFBAD v) 1
  else
    match cv.diag.head? with
    | some (n, k) =>
      if 15 ≤ cv.sinceDiag ∧ 100 * (j + 1) + 20 ≤ s.period then
        let (st, r, fin) := diagConv (s.aq.input n) k (s.fget AQ_DIAG_OWLIM) time x
        let cv := { cv with sinceRef := cv.sinceRef + 1, sinceDiag := 0 }
        let cv := if fin then cv.diagPop (s.aqDiagList v) else cv
        (s.modAq (fun q => (q.setInput n st).setCv v cv)).aqDiagResult n r
      else s
    | none => s

/-- AQ_CONVERSION_SLOT: slot j of converter v, in order within the cycle; only the first Tc convert held values (R292, R293,
    R296). -/
def execAqConversionSlot (v : Fin 48) (j : Nat) (x : Adc) (s : State) : Out :=
  s.updIf (s.dev.present 6) (fun d =>
    let cv := d.aq.cv v
    if !d.running 6 || decide (aqTs d.period ≤ j) || decide (j < cv.slotNo) then d
    else
      let d := d.modAq (fun q => q.setCv v { cv with slotNo := j + 1 })
      match (aqOrder (aqFour d.aqInForce v) d.aq.k)[j]? with
      | some c => if j < aqTc d.period then d.aqMeasure c x else d
      | none => d.aqBackground v j x)

/-- The AQ at a t0 of cycle k: settings, ratios and coefficients come into force, streams start (R265, R275, R278, R545). -/
def Dev.aqT0 (s : Dev) (k : Nat) : Dev :=
  if !s.running 6 then s
  else
    let time := s.aqNow
    let s := s.modAq (fun q => { q with
      chop := !q.chop, k := k, t0 := time, sample := []
      cfgAt := (List.range 192).foldl (fun m c => Store.set regReset m (AQ_CH_CFG c) (s.aqCfg c)) q.cfgAt
      uUse := (q.uNew.filter (fun w => decide (w.1 + 100 ≤ q.raw.toNat))).foldl
        (fun m w => Store.set regReset m w.2.1 w.2.2) q.uUse
      uNew := q.uNew.filter (fun w => !decide (w.1 + 100 ≤ q.raw.toNat)) })
    let s := (List.range 48).foldl (fun s v =>
      let (cv, hit) := (s.aq.cv v).atT0 time
      let s := s.modAq (fun q => q.setCv v { cv with slotNo := 0 })
      if hit then (s.fset (AQ_REF_RHO v) cv.rho.toNat).fset (AQ_REF_STALE v) 0 else s) s
    (List.range 192).foldl (fun s c =>
      match (if (s.aq.input c).started then none else s.aqStream c) with
      | some g => s.modAq (fun q => q.setInput c ((q.input c).restart g))
      | none => s) s

/-- An input is suspended, in the register and in the settings in force (R295). -/
def Dev.aqSuspendInput (s : Dev) (c : Nat) : Dev :=
  let w := s.aqInForce c ||| (0x0200000000000000 : W64)
  (s.fset (AQ_CH_CFG_SUSP c) 1).modAq (fun q => { q with cfgAt := Store.set regReset q.cfgAt (AQ_CH_CFG c) w })

/-- Enabled inputs of converters left over budget by a new period are suspended, highest number first (R295). -/
def Dev.aqSuspend (s : Dev) : Dev :=
  (List.range 48).foldl (fun s v =>
    [3, 2, 1, 0].foldl (fun s i =>
      let c := 4 * v + i
      if !aqFits (aqFour s.aqCfg v) s.period ∧ s.fbit (AQ_CH_CFG_EN c) ∧ !s.fbit (AQ_CH_CFG_SUSP c) then s.aqSuspendInput c
      else s) s) s

/-- The AQ's local time steps by d nanoseconds (R453, R467): ages and recoveries go on as they were. -/
def AqDie.shift (x : AqDie) (d : Int) : AqDie :=
  { x with
    t0 := moved d x.t0, inp := x.inp.map (fun e => (e.1, e.2.shift d)), conv := x.conv.map (fun e => (e.1, e.2.shift d)) }

/-- A write of `AQ_CH_CFG(c)` (R294, R295). -/
def Dev.aqChannelWrite (s : Dev) (c : Nat) (v : W64) : Dev :=
  if !s.powered 6 then s
  else
    let mask : W64 := 0xFCC7FFFF00000000
    let old := s.aqCfg c
    let new := (old &&& ~~~(mask ||| 0x0200000000000000)) ||| (v &&& mask)
    let l := (aqFour s.aqCfg (c / 4)).map (fun e => if e.1 = c then (c, new) else e)
    let fg := l.filter (fun e => decide (aqField e.2 AQ_CH_CFG_FG = 1))
    if !aqFits l s.period || decide (1 < fg.length) then s.finc AQ_STAT_CFGREF else s.rset (AQ_CH_CFG c) new

/-- AQ_CHANNEL_WRITE. -/
def execAqChannelWrite (c : Fin 192) (v : W64) (s : State) : Out :=
  s.updIf (s.dev.present 6) (fun d => d.aqChannelWrite c v)

/-- `AQ_STAT.CFGD` written 1 (R301): the shepherd sets `LOCK`, unless in COMMISSION. -/
def Dev.aqSetCfgd (s : Dev) : Dev :=
  if !s.powered 6 then s
  else
    let s := s.fset AQ_STAT_CFGD 1
    if s.mode = 1 then s else s.fset AQ_STAT_LOCK 1

/-- AQ_CFGD. -/
def execAqCfgd (s : State) : Out := s.updIf (s.dev.present 6) Dev.aqSetCfgd

/-! ### Events of either unit -/

/-- REFERENCE_STALE: the age has passed 1,000 µs (R279). A converter that has had no ratio is stale already (R280). -/
def execReferenceStale (u : MUnit) (v : Fin 48) (s : State) : Out :=
  match u with
  | .cell p => s.onCell p (fun c =>
      if c.fe.conv.accepted && decide (1000 < c.fe.conv.age c.tm.time) then c.fset SRB_FE_REF_STALE 1 else c)
  | .aq => s.updIf (s.dev.present 6) (fun d =>
      let cv := d.aq.cv v
      if d.running 6 && cv.accepted && decide (1000 < cv.age d.aqNow) then
        (if d.fbit (AQ_REF_STALE v) then d else (d.fset (AQ_REF_STALE v) 1).report .cont .input (4 * v.val) 2 0)
      else d)

/-- DIAGNOSTIC_ROUND (R284): a round in progress finishes first. -/
def ConvSt.round (cv : ConvSt) (l : List (Nat × Nat)) : ConvSt :=
  if cv.diag.isEmpty then { cv with diag := l } else { cv with roundPend := true }

def execDiagnosticRound (u : MUnit) (s : State) : Out :=
  match u with
  | .cell p => s.onCell p (fun c => if c.fget SRB_FE_GLB_DIAGPER = 0 then c else c.setConv (c.fe.conv.round c.diagList))
  | .aq => s.updIf (s.dev.present 6) (fun d =>
      if !d.running 6 || decide (d.fget AQ_DIAG_DIAGPER = 0) then d
      else (List.range 48).foldl (fun d v => d.modAq (fun q => q.setCv v ((q.cv v).round (d.aqDiagList v)))) d)

/-- The start of the millisecond that ends at a local time. -/
def msStart (time : Nat) : Nat := (time / 1000000 - 1) * 1000000

/-- The filtered results of a cell (R267), with the die temperature sampled (R271). -/
def Cell.filterMs (c : Cell) (td : W16) : Cell :=
  let c := c.fset SRB_FE_TDIE_T td.toNat
  (List.range 8).foldl (fun c n =>
    if c.fbit (SRB_FE_CH_EN n) then
      let (y, st, e) := (c.inp n).filtered (c.streamCfg n) (ts32 (msStart c.tm.time))
      ((c.setInp n st).rset (SRB_FE_FILT n) y).queue n e
    else c.setInp n (c.inp n).unfiltered) c

def Dev.aqFilterMs (s : Dev) (td : W16) : Dev :=
  let s := s.modAq (fun q => { q with td := td })
  (List.range 192).foldl (fun s c =>
    if s.fbit (AQ_CH_CFG_EN c) then
      let (y, st, e) := (s.aq.input c).filtered (s.aqStream c) (ts32 (msStart s.aqNow))
      ((s.modAq (fun q => q.setInput c st)).fset (AQ_CH_FILT_Y c) y.toNat).aqEntry c e
    else s.modAq (fun q => q.setInput c (q.input c).unfiltered)) s

/-- FILTERED_RESULT. The die temperature is a free value (log entry 36). -/
def execFilteredResult (u : MUnit) (s : State) : Out :=
  let (w, d) := s.dev.free
  let td : W16 := BitVec.ofNat 16 w.toNat
  match u with
  | .cell p => { s with dev := d }.onCell p (fun c => if c.tm.everTime then c.filterMs td else c)
  | .aq => { s with dev := d }.updIf (s.dev.present 6) (fun d => if d.running 6 then d.aqFilterMs td else d)

/-! ### The cell's remaining own commands -/

/-- CFGD: the write of `SRB_CELL_CFG`; the ring die then sets `LOCK`, unless in COMMISSION (R217, R218). -/
def Dev.cellCfgd (s : Dev) (p : Place) (cfgd fb : Bool) : Dev :=
  s.modCell p (fun c => c.act (fun c =>
    let d := c.writeCfg cfgd fb
    if d.cfgd && !c.cfgd && decide (s.mode ≠ 1) then d.setLock true else d))

def execCfgd (p : Place) (fb : Bool) (s : State) : Out := s.updIf (s.dev.hasPlace p) (fun d => d.cellCfgd p true fb)

/-- SLCV_TRIP: AIN0 with the 12-bit code given has stayed above `THR1` for a time in nanoseconds, longer than `FILT` (R238, R239);
    the latch may fire a record (R561). -/
def execSlcvTrip (x : Ain0Level) (s : State) : Out :=
  s.onCell x.p (fun c =>
    let c := c.see x.code
    if c.prot.slcv || !c.slcvFor x.held then c
    else
      let d := c.slcvTrip
      if d.fbit SRB_REC_TCFG_SLCV then d.recTrigger d.tm.time else d)

end Sys2Proof.Machine
end

