-- ==== Sys2Proof/Machine/CellReg.lean ====
section
/-!
DEFINITION. The registers of a Sareb as transactions read and write them (R13-R18, R253, R254, R299, R487, R526, R570).
-/
namespace Sys2Proof.Machine

/-! ### Reading -/

/-- Bits of a stored word replaced. -/
def orIn (stored : W32) (f : Field) (v : Nat) : W32 := BitVec.ofNat 32 (putBits stored.toNat f.lo f.width v)

/-- The value a read returns. -/
def Cell.view (c : Cell) (a : Nat) : W32 :=
  let v := c.rget a
  if a = SRB_SER_LO then BitVec.ofNat 32 c.serial.toNat
  else if a = SRB_SER_HI then BitVec.ofNat 32 (c.serial.toNat / 2 ^ 32)
  else if a = SRB_CELL then orIn v SRB_CELL_SGL (b2n c.singleFed)
  else if a = SRB_TIME_LO then ts32 c.tm.time
  else if a = SRB_TIME_STAT then
    BitVec.ofNat 32 (16 * b2n c.tm.everTime + 8 * b2n (c.portLock .u) + 4 * b2n (c.portLock .d) + c.timeSrc)
  else if a = SRB_PWM_STAT then
    orIn (orIn v SRB_PWM_STAT_PEND (b2n c.pwm.shadow.isSome)) SRB_PWM_STAT_FORCED (b2n c.forced)
  else if a = SRB_BYP_STAT then
    orIn (orIn (orIn v SRB_BYP_STAT_CONF (b2n c.prot.bypConf)) SRB_BYP_STAT_FIRED (b2n c.prot.bfired))
      SRB_BYP_STAT_SENSE (b2n c.closed)
  else if a = SRB_ALARM then c.alarm
  else if a = SRB_FE_REF then orIn v SRB_FE_REF_AGE (c.fe.conv.age c.tm.time)
  else if a = SRB_FE_STAT then
    orIn v SRB_FE_STAT_OVR ((List.range 8).foldl (fun x n => x + b2n ((c.inp n).ovrNow c.tm.time) * 2 ^ n) 0)
  else if 0x800 ≤ a ∧ a < 0xA00 then Store.get cellRegReset c.fcoef a
  else if a = SRB_TD_SERR then c.serr
  else if a = SRB_HUB_Q then BitVec.ofNat 32 (256 * c.hub.gq.length + c.hub.pq.length)
  else if a = SRB_TD_STAT then
    orIn v SRB_TD_STAT_AGE (if c.tm.everTime then min ((c.tm.time - c.tm.dlyAt) / 1000) 0xFFFF else 0xFFFF)
  else match findRow cellRows a with
  | some row => v &&& ~~~(BitVec.ofNat 32 row.wo)
  | none => 0

/-- What a read takes with it: RC fields, and the latch of `SRB_TIME_HI`. -/
def Cell.readEffect (c : Cell) (a : Nat) : Cell :=
  if a = SRB_TIME_LO then c.rset SRB_TIME_HI (ts32 (c.tm.time / 2 ^ 32))
  else match findRow cellRows a with
  | some row => if row.rc = 0 then c else c.rset a (c.rget a &&& ~~~(BitVec.ofNat 32 row.rc))
  | none => c

/-! ### Writing -/

/-- The cell's next reload instant lies within 20 ns (R226). -/
def Cell.nearReload (c : Cell) : Bool :=
  c.tm.everTime && c.tm.reloads.any (fun r => decide (c.tm.time ≤ r) && decide (r ≤ c.tm.time + 20))

/-- RW, RWL, W1C and, for the ring die's own requests, ring-die bits of a register (R13, R515). -/
def Cell.maskWrite (c : Cell) (a : Nat) (v : W32) (ring : Bool) : Cell :=
  match findRow cellRows a with
  | none => c
  | some row =>
    let m := BitVec.ofNat 32 (row.rw ||| (if c.locked then 0 else row.rwl) ||| (if ring then row.ring else 0))
    let old := c.rget a
    c.rset a (((old &&& ~~~m) ||| (v &&& m)) &&& ~~~(v &&& BitVec.ofNat 32 row.w1c))

/-- The record memory is cleared and armed, or disarmed (R558, R560). -/
def Cell.armRecord (c : Cell) (on : Bool) : Cell :=
  let c := ((c.fset SRB_REC_STAT_STATE (b2n on)).fset SRB_REC_STAT_FL 0).fset SRB_REC_STAT_NENT 0
  let c := c.fset SRB_REC_FETCH_GO 0
  let r := c.hub.rcd
  { c with hub := { c.hub with
      rcd := if on then { RecSt.reset with armedAt := c.tm.time } else { RecSt.reset with mem := r.mem, lost := r.lost }
      recQ := [] } }


/-- `PRE` and `POST` in nanoseconds (R570). -/
def Cell.recPre (c : Cell) : Nat := 10000 * c.fget SRB_REC_WIN_PRE
def Cell.recPost (c : Cell) : Nat := 10000 * c.fget SRB_REC_WIN_POST

/-- The notice of T_trig (R563); `PARTIAL` when entries of the window had been overwritten. -/
def Cell.recNotice (c : Cell) (t : W32) : Cell :=
  if c.fget SRB_REC_STAT_STATE = 1 ∨ c.fget SRB_REC_STAT_STATE = 2 then
    let time := c.extend t
    let c := c.fset SRB_REC_STAT_STATE 2
    { c with hub := { c.hub with rcd := { c.hub.rcd with noticed := some time, partialRec := c.hub.rcd.lostFrom (time - c.recPre) } } }
  else c

/-- The unit freezes around an instant (R563). -/
def Cell.recFreeze (c : Cell) (time : Nat) (own : Bool) : Cell :=
  let r := c.hub.rcd.freeze false time c.recPre c.recPost
  let c := { c with hub := { c.hub with rcd := r } }
  let fl := b2n r.fired + 2 * b2n (decide (time < r.armedAt + c.recPre)) + 4 * b2n r.partialRec + 8 * b2n own
  ((c.fset SRB_REC_STAT_STATE 3).fset SRB_REC_STAT_FL fl).fset SRB_REC_STAT_NENT (min r.full.length 0xFFFF)

/-- Groups of at most six. -/
def sixes {α : Type} : List α → Nat → List (List α)
  | _, 0 => []
  | l, n + 1 => if l.isEmpty then [] else l.take 6 :: sixes (l.drop 6) n

/-- The RECORD blocks of a frozen record, in `BIDX` order: entries, then measurements (R564, R565). -/
def Cell.recBlocks (c : Cell) : List Payload :=
  let rnum := c.fget SRB_REC_CTL_RNUM
  let body := fun (pk n x : Nat) => (pk, n, x)
  let ents := (sixes c.hub.rcd.full c.hub.rcd.full.length).map (fun g =>
    body 1 g.length ((g.zip (List.range 6)).foldl (fun x e => x + e.1.ent.toNat * 2 ^ (64 * e.2)) 0))
  let meas := c.hub.rcd.meas.map (fun m => body 2 1 m.toNat)
  ((ents ++ meas).zip (List.range (ents ++ meas).length)).map (fun e =>
    Pl.mk [(0, 14, c.id), (2, 8, e.1.1), (3, 8, e.1.2.1), (4, 16, rnum), (6, 16, e.2), (8, 384, e.1.2.2)])

/-- A write of `SRB_REC_FETCH` (R564). -/
def Cell.recFetch (c : Cell) (v : W32) : Cell :=
  let c := c.rset SRB_REC_FETCH (v &&& 0x8000FFFF)
  let l := if v.getLsbD 31 && decide (c.fget SRB_REC_STAT_STATE = 3) then c.recBlocks.drop (v.toNat % 65536) else []
  { c with hub := { c.hub with recQ := l } }

/-- The register has bits that the lock protects, or that only the ring die writes. -/
def rowHas (a : Nat) (f : RegRow → Nat) : Bool :=
  match findRow cellRows a with
  | some row => decide (f row ≠ 0)
  | none => false

/-- A write of `SRB_PROT_CLR` (R237, R242). Which conditions of latches 0-3 persist, and what the SLCV comparator sees of AIN0, are
    no state of the cell: they come as `seen`. Overtemperature persists while the count of R236 stands. -/
def Cell.protClear (c : Cell) (v : W32) (seen : W64) : Cell :=
  let hot : BitVec 5 := if 8 ≤ (c.inp 1).otCount ∨ 8 ≤ (c.inp 2).otCount then 0b10000 else 0
  let d := c.latchClear (BitVec.ofNat 5 v.toNat) (hot ||| BitVec.ofNat 5 (seen.toNat % 16))
  if v.getLsbD 5 then (d.see (BitVec.ofNat 12 (seen.toNat / 16))).slcvClear else d

/-- A write of a register: the cell after it, and the status of R512 (0 done, 1 refused by the lock, 2 by the register's own
    rule). `seen` is what the cell's inputs are as it is made. -/
def Cell.write (c : Cell) (a : Nat) (v : W32) (ring : Bool) (seen : W64) : Cell × Nat :=
  let own := fun (old new : Cell) => (new, if new = old then 2 else 0)
  if rowHas a (fun r => r.ring) ∧ !ring ∧ !rowHas a (fun r => r.rc) then (c, 2)
  else if a = SRB_CELL_CFG then
    let d := c.writeCfg (v.getLsbD 31) (v.getLsbD 0)
    (d, if c.locked then 1 else if v.getLsbD 31 && !d.cfgd then 2 else 0)
  else if a = SRB_PWM_FORCE ∨ a = SRB_PWM_TCMP then
    (c.shadowWrite (decide (a = SRB_PWM_TCMP)) v (!c.nearReload), b2n c.locked)
  else if rowHas a (fun r => r.rwl) ∧ c.locked then (c.wref.maskWrite a v ring, 1)
  else if a = SRB_LOCK then (if ring then (c.setLock (v.getLsbD 0), 0) else (c, 2))
  else if a = SRB_CYC_EFF then
    ((c.maskWrite a v ring).fset SRB_CYC_EFF_PEND 1, 0)
  else if a = SRB_PROT_CLR then
    let d := c.protClear v seen
    own c { d with prot := { d.prot with ain0 := c.prot.ain0 } }
  else if a = SRB_SLCV_CFG then (c.slcvWrite v, 0)
  else if a = SRB_BYP_CMD then
    let d := if v.getLsbD 0 then c.bypSemi else c
    let d := if v.getLsbD 1 then d.bypRel else d
    own c (if v.getLsbD 2 then d.bypFire (BitVec.ofNat 16 (v.toNat / 65536)) else d)
  else if 0x500 ≤ a ∧ a < 0x700 then
    let d := c.maskWrite a v ring
    ({ d with fe := { d.fe with uNew := d.fe.uNew ++ [(c.tm.time, a, d.rget a)] } }, 0)
  else if a = SRB_REC_TCFG then
    let d := c.maskWrite a v ring
    ({ d with hub := { d.hub with rcd := { d.hub.rcd with lastY := none } } }, 0)
  else if 0x1000 ≤ a ∧ a < 0x1020 then
    let n := (a - 0x1000) / 4
    let d := c.maskWrite a v ring
    (d.setInp n { d.inp n with started := false }, 0)
  else if a = SRB_REC_CTL then ((c.maskWrite a v ring).armRecord (v.getLsbD 31), 0)
  else if a = SRB_REC_FIRE then ((c.maskWrite a v ring).recNotice v, 0)
  else if a = SRB_REC_FETCH then (c.recFetch v, 0)
  else (c.maskWrite a v ring, 0)

/-- A request of R512 carried out: read data and status. -/
def Cell.access (c : Cell) (a : Nat) (w ring : Bool) (v : W32) (seen : W64) : Cell × W32 × Nat :=
  if w then
    let r := c.write a v ring seen
    (r.1, 0, r.2)
  else (c.readEffect a, c.view a, 0)

/-! ### Reads named by rows of their own -/

/-- TIME_LATCH_READ: a read of `SRB_TIME_LO` (R254). -/
def execTimeLatchRead (p : Place) (s : State) : Out :=
  s.updIf (s.dev.hasPlace p) (fun d =>
    let c := d.cell p
    if c.powered then (d.setCell p (c.readEffect SRB_TIME_LO)).answer [(c.view SRB_TIME_LO).setWidth 64] else d)

end Sys2Proof.Machine
end

