-- ==== Sys2Proof/Machine/CellLink.lean ====
section
/-!
DEFINITION. What a Sareb does with the ring blocks that reach it (R68-R71, R85-R89, R94-R108, R248, R469-R471, R492, R495-R520,
R538, R614, R615). A block with a CRC error is repeated and not used (R497). The ports are named by their role in logic: the
stream from end A is received at port U, that from end B at port D (R507).
-/
namespace Sys2Proof.Machine

/-- The cell can receive blocks on the port (R500). -/
def Cell.hears (c : Cell) (x : CPort) : Bool := c.powered && c.portLock x

/-- What a port counts of a block: a CRC error, a gap in `BSEQ` (R496, R500; log entry 119). -/
def Cell.rxCount (c : Cell) (x : CPort) (h : Rx) : Cell :=
  let c := if h.crcOk then c else c.finc (SRB_RP_CRC_N x.idx)
  if h.follows then c else c.finc (SRB_RP_SYNC_BGAP x.idx)

/-- A block at a port of a cell: the port counts, and a block whose CRC is good is used by f (R497). -/
def Cell.use (c : Cell) (x : CPort) (h : Rx) (f : Cell → Cell) : Cell :=
  c.act (fun c => let c := c.rxCount x h; if h.crcOk then f c else c)

/-- A block that reaches a port of the cell at a place; f is what the cell does with it. It is repeated with its `BSEQ` and with
    the payload `out` makes of it, or unchanged after a CRC error (R68, R496, R497). -/
def State.onBlockAs (s : State) (p : Place) (x : CPort) (ty : BitVec 4) (pl : Payload) (h : Rx) (f : Cell → Cell)
    (out : Cell → Payload) : Out :=
  s.updIf (s.dev.hasPlace p) (fun d =>
    if (d.cell p).hears x then
      (d.modCell p (fun c => c.use x h f)).emit (.repeated p x.other h.bseq ty (if h.crcOk then out (d.cell p) else pl))
    else d)

/-- As `onBlockAs`, repeated unchanged. -/
def State.onBlock (s : State) (p : Place) (x : CPort) (ty : BitVec 4) (pl : Payload) (h : Rx) (f : Cell → Cell) : Out :=
  s.onBlockAs p x ty pl h f (fun _ => pl)

/-! ### Droves and explicit blocks (R85-R89, R105-R107, R469) -/

def plSeq (pl : Payload) : W16 := BitVec.ofNat 16 (Pl.get pl 2 16)

/-- `T_APPLY` moved by a step that the cell has taken, for a cycle before it (R469). -/
def Cell.adjust (c : Cell) (pl : Payload) : Payload :=
  match c.tm.lastStepSeq with
  | some (d, q) => if seqDiff (plSeq pl) q < 0 then Pl.put pl 4 32 (ux 32 ((Pl.get pl 4 32 : Int) + d.toInt)) else pl
  | none => pl

/-- Δ of R86. -/
def Cell.untilApply (c : Cell) (pl : Payload) : Int := applyIn pl c.tm.time

/-- Not barred by the `SEQL` of a BLOCK block (R615). -/
def Cell.aboveFloor (c : Cell) (pl : Payload) : Bool :=
  match c.arm.seqFloor with
  | some q => decide (0 < seqDiff (plSeq pl) q)
  | none => true

/-- A CRC-good copy joins the held blocks, or is compared with the first of its cycle: the list after it, and whether the
    copies differ. -/
def Cell.receive (c : Cell) (l : List Held) (pl : Payload) : List Held × Bool :=
  let pl := c.adjust pl
  match l.find? (fun h => decide (plSeq h.pl = plSeq pl)) with
  | some h => (l, decide (h.pl ≠ pl))
  | none =>
    let dt := c.untilApply pl
    let waiting := (l.filter (fun h => !h.late && !h.done)).length
    let ok := decide (20 ≤ dt) && decide (dt ≤ 163840) && decide (waiting < 4)
    (l.filter (fun h => decide ((seqDiff (plSeq pl) (plSeq h.pl)).natAbs ≤ 8)) ++ [{ pl := pl, late := !ok, done := false }], false)

/-- A CRC-good DROVE block (R85-R87, R105). Version-1 cells take explicit blocks instead. -/
def Cell.droveIn (c : Cell) (x : CPort) (pl : Payload) : Cell :=
  let fold := bitsOf (Pl.get pl 0 8) 4 4
  if c.v1 then c
  else if bitsOf (Pl.get pl 0 8) 0 4 ≠ 2 ∨ Config.nFolds ≤ fold then c.finc (SRB_RP_SYNC_BGAP x.idx)
  else if !c.tm.everTime || decide (fold ≠ c.fold) || !c.aboveFloor pl then c
  else
    let (l, bad) := c.receive c.arm.droves (pl &&& droveBits)
    let c := { c with arm := { c.arm with droves := l, dmis := c.arm.dmis || bad } }
    if bad then c.finc SRB_CNT_DMIS_N else c

/-- A CRC-good EXPLICIT block (R106, R107). -/
def Cell.explicitIn (c : Cell) (pl : Payload) : Cell :=
  if !c.v1 || !c.tm.everTime || !c.aboveFloor pl then c
  else { c with arm := { c.arm with expl := (c.receive c.arm.expl pl).1 } }

/-- DROVE_RECEIVE. -/
def execDroveReceive (p : Place) (x : CPort) (pl : Payload) (h : Rx) (s : State) : Out :=
  s.onBlock p x 0x1 pl h (fun c => c.droveIn x pl)

/-- EXPLICIT_RECEIVE. -/
def execExplicitReceive (p : Place) (x : CPort) (pl : Payload) (h : Rx) (s : State) : Out :=
  s.onBlock p x 0xB pl h (fun c => c.explicitIn pl)

/-! ### BLOCK blocks (R614, R615) -/

/-- Blocks of cycles up to `SEQL` that wait are discarded. -/
def heldBlock (q : W16) (l : List Held) : List Held :=
  l.filter (fun h => h.done || decide (0 < seqDiff (plSeq h.pl) q))

/-- The later of two `SEQL`. -/
def laterSeq (a : Option W16) (q : W16) : W16 :=
  match a with
  | some f => if seqDiff f q < 0 then q else f
  | none => q

/-- An ACT block. -/
def Cell.blockAct (c : Cell) (q : W16) : Cell :=
  let c := { c.rset SRB_PWM_FORCE 0 with
    arm := { c.arm with
      ins := .block, modSt := none, modCmp := 0, carry := 0, droves := heldBlock q c.arm.droves
      expl := heldBlock q c.arm.expl, seqFloor := some (laterSeq c.arm.seqFloor q) }
    pwm := { c.pwm with shadow := none, shadowLate := false, force := 0, plan := [(c.now40, .block)] } }
  if 4 ≤ c.row then { c with pwm := { c.pwm with gates := 0, edges := [] } } else c

/-- BLOCK_ACT. A TEST block changes nothing. -/
def execBlockAct (p : Place) (x : CPort) (pl : Payload) (h : Rx) (s : State) : Out :=
  s.onBlock p x 0x8 pl h (fun c => if bitsOf (Pl.get pl 0 8) 0 4 = 1 then c.blockAct (plSeq pl) else c)

/-! ### TIME blocks (R470, R471, R492, R503, R520) -/

/-- A TIME block as the cell repeats it: `REGEN` set on a stream whose clock it recovers from data (R492). -/
def Cell.timeRepeat (c : Cell) (x : CPort) (pl : Payload) : Payload :=
  if c.fbit (SRB_RP_STAT_REGEN x.idx) then Pl.put pl 0 8 (Pl.get pl 0 8 ||| 16) else pl

/-- A TIME block at a port. -/
def State.onTime (s : State) (p : Place) (x : CPort) (pl : Payload) (h : Rx) (f : Cell → Cell) : Out :=
  s.onBlockAs p x 0x7 pl h f (fun c => c.timeRepeat x pl)

/-- `SPL` and `REGEN` of the stream received on a port. -/
def Cell.streamFlags (c : Cell) (x : CPort) (pl : Payload) : Cell :=
  let rg := bitOf (Pl.get pl 0 8) 4
  let spl := bitOf (Pl.get pl 0 8) 5
  match x with
  | .u => { c with lnk := { c.lnk with rgU := rg, splU := spl } }
  | .d => { c with lnk := { c.lnk with rgD := rg, splD := spl } }

/-- The local time that a LAUNCH gives with the delay kept for its end, in whole nanoseconds. -/
def launchTime (pl : Payload) (dly : Nat) : Nat :=
  (((Pl.get pl 4 64 * 256 + Pl.get pl 12 8) * 100 + dly * 256 + 12800) / 25600) % 2 ^ 64

/-- A correction larger than drift can explain is a step that was not announced (R470; log entry 38). -/
def Cell.stepped (c : Cell) (t : Nat) : Bool :=
  let ms := (c.tm.time - c.tm.dlyAt) / 1000000 + 1
  decide (((t : Int) - c.tm.time).natAbs > 5 + 300 * ms)

/-- A correction from a LAUNCH of an end port, with the residual's estimate (R471, R477). A stream that a cell launched gives no
    time (R475). Until a delay has been measured there is none to add. -/
def Cell.discipline (c : Cell) (pl : Payload) (serr : W32) : Cell :=
  let dly := c.fget (if bitOf (Pl.get pl 0 8) 6 then SRB_TD_DLYB_D else SRB_TD_DLYA_D)
  if bitOf (Pl.get pl 0 8) 5 ∨ dly = 0 then c
  else
    let t := launchTime pl dly
    let c := if c.tm.everTime && c.stepped t then
        (match c.tm.delta with
          | some (d, q) => c.takeStep d q
          | none => (c.finc SRB_TD_STAT_STEPS).shiftTime ((t : Int) - c.tm.time))
      else c
    let c := (c.rset SRB_TD_RATE (BitVec.ofNat 32 (Pl.get pl 16 32))).rset SRB_TD_SERR serr
    { c with tm := { c.tm with time := t, sub := 0, everTime := true, dlyAt := t } }

/-- TIME_LAUNCH. The estimate of the residual is a free value (R477). -/
def execTimeLaunch (p : Place) (x : CPort) (b : Rcvd) (s : State) : Out :=
  let (w, d) := s.dev.free
  { s with dev := d }.onTime p x b.pl b.rx (fun c => (c.streamFlags x b.pl).discipline b.pl (BitVec.ofNat 32 w.toNat))

/-- An ECHO (R503). -/
def echoBlock (pl : Payload) (id turn : Nat) : Payload :=
  Pl.mk [(0, 8, 3 + 64 * b2n (bitOf (Pl.get pl 0 8) 6)), (2, 14, id), (20, 32, turn)]

/-- A block waits for an unreserved IDLE block on a port (R498). -/
def Cell.enqueue (c : Cell) (x : CPort) (ty : BitVec 4) (pl : Payload) : Cell :=
  { c with lnk := { c.lnk with rspQ := c.lnk.rspQ ++ [(x, ty, pl)] } }

/-- TIME_LOOP: the cell addressed answers toward the same end, `turn` after the LOOP's arrival, in 10 ps units. -/
def execTimeLoop (p : Place) (x : CPort) (b : Rcvd) (turn : Nat) (s : State) : Out :=
  s.onTime p x b.pl b.rx (fun c =>
    let id := Pl.get b.pl 2 14
    if id = c.id ∨ id = 0x3FFF then c.enqueue x 0x7 (echoBlock b.pl c.id turn) else c)

/-- An announced step; announcements of a cycle that has begun come too late (R470). -/
def Cell.announce (c : Cell) (delta : W64) (q : W16) : Cell :=
  if c.tm.everTime && decide (seqDiff q c.tm.k ≤ 0) then c
  else
    let c := (c.fset SRB_TD_STEP_PEND 1).fset SRB_TD_STEP_SEQ q.toNat
    let c := (c.rset SRB_TD_DLT_LO (BitVec.ofNat 32 delta.toNat)).rset SRB_TD_DLT_HI (BitVec.ofNat 32 (delta.toNat / 2 ^ 32))
    { c with tm := { c.tm with delta := some (delta, q) } }

/-- TIME_STEP. It comes from both ends; the port matters to nothing here, so the row names none. -/
def execTimeStep (p : Place) (b : Rcvd) (s : State) : Out :=
  let c := s.dev.cell p
  s.onTime p (if c.hears .u && !(c.hears .d && bitOf (Pl.get b.pl 0 8) 6) then .u else .d) b.pl b.rx
    (fun c => c.announce (BitVec.ofNat 64 (Pl.get b.pl 26 64)) (BitVec.ofNat 16 (Pl.get b.pl 24 16)))

/-- The stream of an end sleeps or wakes; its receiver is port U for end A, port D for end B. -/
def Cell.sleepSet (c : Cell) (endB b : Bool) : Cell :=
  let c := c.fset (SRB_RP_STAT_SLEEP (b2n endB)) (b2n b)
  if endB then { c with lnk := { c.lnk with sleepB := b } } else { c with lnk := { c.lnk with sleepA := b } }

/-- TIME_SLEEP. -/
def execTimeSleep (p : Place) (x : CPort) (b : Rcvd) (s : State) : Out :=
  s.onTime p x b.pl b.rx (fun c => c.sleepSet (bitOf (Pl.get b.pl 0 8) 6) true)

/-- TIME_WAKE. -/
def execTimeWake (p : Place) (x : CPort) (b : Rcvd) (s : State) : Out :=
  s.onTime p x b.pl b.rx (fun c => c.sleepSet (bitOf (Pl.get b.pl 0 8) 6) false)

/-- One bit of the forwarded clocks present. -/
def Cell.setClk (c : Cell) (x : CPort) (b : Bool) : Cell :=
  let m : BitVec 2 := BitVec.ofNat 2 (2 ^ x.idx)
  { c with tm := { c.tm with rxClk := if b then c.tm.rxClk ||| m else c.tm.rxClk &&& ~~~m } }

/-- A port's forwarded clock fails. On a ring of version 2.0, with the data lane locked, the clock is recovered from data (R492,
    R510). -/
def Cell.clkFail (c : Cell) (x : CPort) : Cell :=
  let c := c.setClk x false
  if c.portLock x ∧ c.fget SRB_RP_NEG_RVER = 0x20 then c.fset (SRB_RP_STAT_REGEN x.idx) 1 else c

/-- FORWARDED_CLOCK_RETURN (R248). -/
def execForwardedClockReturn (p : Place) (x : CPort) (s : State) : Out :=
  s.onCell p (fun c => (c.setClk x true).fset (SRB_RP_STAT_REGEN x.idx) 0)

/-! ### Sending tallies (R70, R71) -/

/-- The cycle whose slot instant for the stream toward an end falls between the latest t0 and the next. -/
def Cell.slotSeq (c : Cell) (inst : Nat) : W16 := c.tm.k - BitVec.ofNat 16 (inst / (1000 * max c.period 1))

/-- That cycle's tally, if it has not gone toward the end. -/
def Cell.tallyDue (c : Cell) (towardB : Bool) : Option OutTally :=
  if c.powered && c.tm.everTime then
    match c.slotOf towardB with
    | some i => c.formTally.lnk.tallies.find? (fun t => decide (t.seq = c.slotSeq i) && !t.sent.getLsbD (b2n towardB))
    | none => none
  else none

/-- A tally goes out toward an end. -/
def Cell.sendTally (c : Cell) (towardB : Bool) (t : OutTally) : Cell :=
  let c := c.formTally
  { c with lnk := { c.lnk with tallies := c.lnk.tallies.map (fun u =>
    if u.seq = t.seq then { u with sent := u.sent ||| BitVec.ofNat 2 (2 ^ b2n towardB) } else u) } }

/-! ### IDLE blocks (R498, R538) -/

/-- What the cell fills an IDLE block with, and the cell after it; `none` repeats the block with the payload given. -/
def Cell.fillIdle (c : Cell) (x : CPort) (pl : Payload) : Cell × BitVec 4 × Payload :=
  let g := bitOf pl.toNat 15
  let tal := bitOf pl.toNat 14
  let id := Pl.get pl 0 14
  let towardB := decide (x = .u)
  if g && tal then
    let due := match c.slotOf towardB with
      | some i => decide (100 * c.tm.t0 + i % (1000 * max c.period 1) ≤ 100 * c.tm.time + 400)
      | none => false
    match (if (decide (id = c.id) || decide (id = 0x3FFF)) && due then c.tallyDue towardB else none) with
    | some t => (c.sendTally towardB t, 0x2, t.pl)
    | none => (c, 0x0, pl)
  else if g then
    if id ≠ c.id then (c, 0x0, pl)
    else
      let (ents, d) := c.draw 3 false
      if ents ≠ [] then
        (d, 0x5, Pl.mk [(0, 14, c.id), (4, 128, (ents.getD 0 0).toNat), (20, 128, (ents.getD 1 0).toNat),
          (36, 128, (ents.getD 2 0).toNat)])
      else match c.hub.recQ with
      | r :: rest => ({ c with hub := { c.hub with recQ := rest } }, 0x6, r)
      | [] => (c, 0x0, 0)
  else
    let mine := c.lnk.rspQ.filter (fun e => decide (e.1 = x.other))
    let pick : Option (CPort × BitVec 4 × Payload) := match mine.find? (fun e => decide (e.2.1 = 0x7)) with
      | some e => some e
      | none => match mine.find? (fun e => decide (e.2.1 = 0x9)) with
        | some e => some e
        | none => mine.head?
    match pick with
    | none => (c, 0x0, pl)
    | some e =>
      let done := decide (e.2.1 = 0x4)
      ({ c with lnk := { c.lnk with
          rspQ := c.lnk.rspQ.erase e
          txns := if done then c.lnk.txns.filter (fun t => decide (Pl.get t.pl 2 8 ≠ Pl.get e.2.2 2 8)) else c.lnk.txns } },
        e.2.1, e.2.2)

/-- IDLE_RECEIVE. -/
def execIdleReceive (p : Place) (x : CPort) (b : Rcvd) (s : State) : Out :=
  s.updIf (s.dev.hasPlace p) (fun d =>
    let c := d.cell p
    if c.hears x then
      let r := if b.rx.crcOk then (c.rxCount x b.rx).fillIdle x b.pl else (c.rxCount x b.rx, 0x0, b.pl)
      (d.modCell p (fun c => c.act (fun _ => r.1))).emit (.repeated p x.other b.rx.bseq r.2.1 r.2.2)
    else d)

/-! ### Transactions at the cell (R512, R513, R515) -/

/-- What a cell's ports and its excitation source did that no row of the table says (R290, R500; log entry 104): wrong `SYNC`
    fields and `EXCF` are free values as the register that shows them is read. -/
def Dev.cellSeen (s : Dev) (p : Place) (a : Nat) : Dev :=
  let (w, t) := s.free
  if a = SRB_RP_SYNC 0 then t.modCell p (fun c => c.fset (SRB_RP_SYNC_SYNC 0) (min (c.fget (SRB_RP_SYNC_SYNC 0) + w.toNat % 2 ^ 16) 0xFFFF))
  else if a = SRB_RP_SYNC 1 then
    t.modCell p (fun c => c.fset (SRB_RP_SYNC_SYNC 1) (min (c.fget (SRB_RP_SYNC_SYNC 1) + w.toNat % 2 ^ 16) 0xFFFF))
  else if a = SRB_FE_EXC then t.modCell p (fun c => c.fset SRB_FE_EXC_EXCF (w.toNat % 2))
  else s

/-- A register access in the cell at a place; after a write that sets `CFGD` the ring die sets `LOCK`, unless in COMMISSION
    (R218). -/
def Dev.cellAccess (s : Dev) (p : Place) (a : Nat) (w ring : Bool) (v : W32) : Dev × W32 × Nat :=
  let (seen, s) := if !w then (0, s.cellSeen p a) else if a = SRB_PROT_CLR then s.free else (0, s)
  let c := s.cell p
  let r := c.access a w ring v seen
  let lockIt := fun (c' : Cell) => if c'.cfgd && !c.cfgd && decide (s.mode ≠ 1) then c'.setLock true else c'
  (s.modCell p (fun c => c.act (fun _ => lockIt r.1)), r.2.1, r.2.2)

/-- A request answered: `RSEQ` accepted, a buffer taken until the response leaves, the response stored. -/
def Cell.answered (c : Cell) (x : CPort) (pl rsp : Payload) : Cell :=
  let c := c.fset SRB_RP_NEG_RSEQ (Pl.get pl 2 8)
  { c with lnk := { c.lnk with
    rsp := some rsp, rseqAny := true, txns := c.lnk.txns ++ [{ pl := pl, x := x }], rspQ := c.lnk.rspQ ++ [(x, 0x4, rsp)] } }

/-- A CRC-good request addressed to the cell at a place. -/
def Dev.txnIn (s : Dev) (p : Place) (x : CPort) (pl : Payload) : Dev :=
  let c := s.cell p
  let q := Pl.get pl 2 8
  let last := c.fget SRB_RP_NEG_RSEQ
  if c.lnk.rseqAny && decide (q = last) then
    match c.lnk.rsp with
    | some r => s.modCell p (fun c => c.enqueue x 0x4 r)
    | none => s
  else if q = (last + 1) % 256 ∧ c.lnk.txns.length < 4 then
    let fl := Pl.get pl 3 8
    let (s, data, st) := s.cellAccess p (Pl.get pl 6 16) (bitOf fl 0) (bitOf fl 2) (BitVec.ofNat 32 (Pl.get pl 8 32))
    let rsp := Pl.mk [(0, 14, c.id), (2, 8, q), (3, 8, st), (4, 16, Pl.get pl 4 16), (6, 16, Pl.get pl 6 16), (8, 32, data.toNat)]
    s.modCell p (fun c => c.answered x pl rsp)
  else s

/-- TXN_REQ. A request is carried out as it is accepted (R513 allows up to 1.00 µs). -/
def execTxnReq (p : Place) (x : CPort) (pl : Payload) (h : Rx) (s : State) : Out :=
  s.updIf (s.dev.hasPlace p) (fun d =>
    if (d.cell p).hears x then
      let d := d.modCell p (fun c => c.rxCount x h)
      (if h.crcOk ∧ Pl.get pl 0 14 = (d.cell p).id then d.txnIn p x pl else d).emit (.repeated p x.other h.bseq 0x3 pl)
    else d)

/-! ### CAPS blocks (R507-R509) -/

/-- Port U and port D exchange their roles in logic: what belongs to each port changes its name (R507). -/
def Cell.reversePorts (c : Cell) : Cell :=
  let swap := fun (c : Cell) (a b : Nat) => (c.rset a (c.rget b)).rset b (c.rget a)
  let c := swap c (SRB_RP_CFG 0) (SRB_RP_CFG 1)
  let c := swap c (SRB_RP_STAT 0) (SRB_RP_STAT 1)
  let c := swap c (SRB_RP_CRC 0) (SRB_RP_CRC 1)
  let c := swap c (SRB_RP_SYNC 0) (SRB_RP_SYNC 1)
  let rev := b2n (!c.fbit (SRB_RP_STAT_REV 0))
  let c := (c.fset (SRB_RP_STAT_REV 0) rev).fset (SRB_RP_STAT_REV 1) rev
  let r := c.tm.rxClk
  { c with
    tm := { c.tm with rxClk := (r <<< 1) ||| (r >>> 1) }
    lnk := { c.lnk with
      splU := c.lnk.splD, splD := c.lnk.splU, rgU := c.lnk.rgD, rgD := c.lnk.rgU
      trainN := (c.lnk.trainN <<< 5) ||| (c.lnk.trainN >>> 5) } }

/-- A REPORT or NOTICE (R508). -/
def Cell.caps (c : Cell) (sub : Nat) (endB : Bool) (hop ring : Nat) (more : List (Nat × Nat × Nat)) : Payload :=
  let rpv := if c.v1 then 0x13 else 0x20
  Pl.mk ([(0, 8, sub), (1, 8, b2n endB), (2, 8, hop), (3, 8, ring), (4, 48, c.serial.toNat), (10, 8, rpv),
    (11, 8, b2n c.fb + 2 * b2n (c.fbit (SRB_RP_STAT_REV 0)) + 4 * b2n c.cfgd)] ++ more)

/-- A QUERY at a cell: it answers with a REPORT toward the querying end and passes the QUERY on with its `HOP` advanced. A QUERY
    of end A on port D, or of end B on port U, shows reversed ports. -/
def Dev.cellQuery (d : Dev) (p : Place) (x : CPort) (pl : Payload) (h : Rx) : Dev :=
  let endB := bitOf (Pl.get pl 1 8) 0
  let want : CPort := if endB then .d else .u
  let hop := Pl.get pl 2 8
  if !(d.cell p).hears x then d
  else
    let d := d.modCell p (fun c => c.rxCount x h)
    if !h.crcOk then d.emit (.repeated p x.other h.bseq 0x9 pl)
    else
    let d := if x = want then d
      else (d.modCell p (fun c =>
        let c := c.reversePorts
        (c.fset (SRB_RP_STAT_FIND 0) 4).fset (SRB_RP_STAT_FIND 1) 4)).report .corr .hop p 4 0
    let d := d.modCell p (fun c => c.act (fun c =>
      let c := if endB then c else c.fset SRB_RP_NEG_HOPA hop
      c.enqueue want 0x9 (c.caps 2 endB hop (Pl.get pl 3 8) [])))
    d.emit (.repeated p want.other h.bseq 0x9 (Pl.put pl 2 8 (hop + 1)))

/-- CAPS_ASSIGN: the cell with the serial given takes its ID and the ring version, which `RV` shows as R94 codes it. -/
def execCapsAssign (p : Place) (b : Rcvd) (s : State) : Out :=
  s.onBlock p (if bitOf (Pl.get b.pl 1 8) 0 then .d else .u) 0x9 b.pl b.rx (fun c =>
    if Pl.get b.pl 4 48 = c.serial.toNat then
      ((c.fset SRB_CELL_ID (Pl.get b.pl 12 14)).fset SRB_RP_NEG_RVER (Pl.get b.pl 10 8)).fset SRB_CELL_RV
        (if 0x20 ≤ Pl.get b.pl 10 8 then 2 else 1)
    else c)

end Sys2Proof.Machine
end

