-- ==== Sys2Proof/Machine/RingMath.lean ====
section
/-!
DEFINITION. The cycle's timetable on the rings (R69-R84, R91, R336, R686): slot instants, tally close and the minimums, from
the delays the ring dies have measured. Delays and instants are in units of 10 ps, offsets from t0.
-/
namespace Sys2Proof.Machine

/-! ### What a ring holds -/

def dly (m : Store Nat) (p : Nat) : Nat := Store.get (fun _ => 0) m p

/-- Places of the enumerated cells, in ascending order along the ring. -/
def Ring.places (x : Ring) : List Nat :=
  (List.range 64).filter (fun p => x.cells.any (fun e => decide (e.2.place = p)))

/-- The first place beyond the hop that was dark when the ring came up (R509); `none` for a ring that came up whole. -/
def Ring.dark (x : Ring) : Option Nat :=
  if x.whole then none
  else some (((x.cells.filter (fun e => e.2.hopA.isNone)).map (fun e => e.2.place)).min?.getD 64)

/-- Hops with a break (R519). -/
def Ring.breaks (x : Ring) : List Nat := (x.cuts.map (fun c => c.1)).eraseDups

/-- The streams carry blocks between the cell at a place and an end: from the end to the cell, and from the cell to the end. -/
def Ring.fromEnd (x : Ring) (p : Nat) (e : End) : Bool :=
  x.cuts.all (fun c => if e = .a then !(c.2 && decide (c.1 ≤ p)) else c.2 || decide (c.1 ≤ p))
def Ring.toEnd (x : Ring) (p : Nat) (e : End) : Bool :=
  x.cuts.all (fun c => if e = .a then c.2 || decide (p < c.1) else !(c.2 && decide (p < c.1)))

/-- The paths from a place to both ends cross a break (R519). -/
def Ring.isolated (x : Ring) (p : Nat) : Bool := x.breaks.any (fun h => decide (h ≤ p)) && x.breaks.any (fun h => decide (p < h))

def Dev.half (s : Dev) (r : Nat) : Bool := s.fbit (s.rf RDn_RING_STAT_HALF r)

/-- Block time and repeat latency (R67, R68, R502). -/
def Dev.tblk (s : Dev) (r : Nat) : Nat := if s.half r then 4224 else 2112
def Dev.trep (s : Dev) (r : Nat) : Nat := if s.half r then 160 else 80

/-- The cell's report offers version 2 (R510). -/
def Enum.v2 (e : Enum) : Bool := decide (0x20 ≤ e.rpv.toNat)
/-- The cell is assigned: it offers a version from 1.2 upward. -/
def Enum.assigned (e : Enum) : Bool := decide (0x12 ≤ e.rpv.toNat)

/-- Version-1 cells on a ring. -/
def Ring.nv1 (x : Ring) : Nat := (x.cells.filter (fun e => !e.2.v2)).length

def Dev.foldOf (s : Dev) (id : Nat) : Nat := s.fget (SH_FOLD_MAP_FOLD id)

/-- Folds with a member on ring r, in ascending number (R78, R129). -/
def Dev.ringFolds (s : Dev) (r : Nat) : List Nat :=
  (List.range Config.nFolds).filter (fun f => (s.ring r).cells.any (fun e => decide (s.foldOf (64 * r + e.1) = f)))

/-- J(r) (R78). -/
def Dev.jOf (s : Dev) (r : Nat) : Nat := (s.ringFolds r).length + b2n (decide ((s.ring r).nv1 ≠ 0))

/-! ### Slot instants (R69, R686) -/

/-- L moved past the drove window, or a copy of it shifted by whole periods, that [L - 4 ns, L + 2 blocks - 4 ns) meets. A
    window that leaves no room in a period would move it for ever; R91 refuses such a period. -/
def clearOf (tb per w len : Int) : Nat → Int → Int
  | 0, l => l
  | n + 1, l =>
    let k := (l - 400 - (w + len)).fdiv per + 1
    if l - 400 + 2 * tb ≤ w + k * per then l else clearOf tb per w len n (w + k * per + len + 400)

/-- Launch instants for cells given as (place, E) in order of increasing distance from the far end; `win` is the drove window
    (start, length). -/
def slotPlan (tb per emit : Int) (win : Option (Int × Int)) : Option Int → List (Nat × Int) → List (Nat × Int × Int)
  | _, [] => []
  | t, (p, e) :: rest =>
    let l0 := emit + 400 - e
    let l0 := match t with
      | some t => max (t + tb) l0
      | none => l0
    let l := match win with
      | some (w, len) => clearOf tb per w len 2 l0
      | none => l0
    (p, e, l) :: slotPlan tb per emit win (some l) rest

/-- One block stream: the cells it serves, its far end's delay if it reaches one, and whether an end port launches it. -/
structure StreamPath where
  cells : List (Nat × Int)
  far : Option Int
  fromEnd : Bool
  deriving DecidableEq, Repr

/-- The streams toward end B and toward end A of a ring. -/
def Dev.streamsOf (s : Dev) (r : Nat) : List StreamPath × List StreamPath :=
  let x := s.ring r
  let ps := x.places
  let a := fun (p : Nat) => ((dly x.distA p : Nat) : Int)
  let b := fun (p : Nat) => ((dly x.distB p : Nat) : Int)
  let rep : Int := s.trep r
  match x.dark with
  | none =>
    ([{ cells := ps.reverse.map (fun p => (p, a p)), far := ps.getLast?.map (fun p => a p + rep + b p), fromEnd := true }],
     [{ cells := ps.map (fun p => (p, b p)), far := ps.head?.map (fun p => b p + rep + a p), fromEnd := true }])
  | some h =>
    let pa := ps.filter (fun p => decide (p < h))
    let pb := ps.filter (fun p => decide (h ≤ p))
    let la := a (pa.getLast?.getD 0)
    let lb := b (pb.head?.getD 0)
    let e := fun (top v : Int) => if v = top then 0 else top - v - rep
    ([{ cells := pa.reverse.map (fun p => (p, a p)), far := none, fromEnd := true },
      { cells := pb.reverse.map (fun p => (p, e lb (b p))), far := if pb.isEmpty then none else some lb, fromEnd := false }],
     [{ cells := pb.map (fun p => (p, b p)), far := none, fromEnd := true },
      { cells := pa.map (fun p => (p, e la (a p))), far := if pa.isEmpty then none else some la, fromEnd := false }])

/-- What R69 gives for a ring: slot instants by place toward B and toward A, launch instants, T_Y at B and at A, the term of R91,
    need(r). -/
structure RingPlan where
  toB : List (Nat × Int)
  toA : List (Nat × Int)
  launchA : List (Nat × Int)   -- L by place, in the stream that end A launches,
  launchB : List (Nat × Int)   -- and in the one that end B launches
  tyB : Int
  tyA : Int
  occ : Int
  need : Int
  deriving DecidableEq, Repr

/-! ### The direct twin links (R334, R336, R337, R344) -/

/-- Direct links that are up. -/
def Dev.linksUp (s : Dev) : List Nat := (List.range 2).filter (fun x => bitOf (s.fget SH_TWIN_STAT_LINKS) x)

/-- The link that carries what belongs to ring r; the other one when it is down. -/
def Dev.linkOf (s : Dev) (r : Nat) : Nat :=
  if r / 66 ∈ s.linksUp then r / 66 else s.linksUp.headD (r / 66)

/-- Folds whose droves travel on link x: those with members on the rings it carries. -/
def Dev.linkFolds (s : Dev) (x : Nat) : List Nat :=
  let rings := (List.range s.ringCount).filter (fun r => decide (s.linkOf r = x))
  (List.range Config.nFolds).filter (fun f => rings.any (fun r => decide (f ∈ s.ringFolds r)))

/-- T_link(x), in units of 0.1 ns. -/
def Dev.tlinkOf (s : Dev) (x : Nat) : Nat := Store.get (fun _ => 0) s.sh.tw.tlink x

/-- D_TW (R336), in units of 0.1 ns; 0 in a standalone package, and with no direct link up. -/
def Dev.dtw (s : Dev) : Nat :=
  if !s.twin then 0
  else
    let up := s.linksUp
    let pass := if s.wide && decide (up.length = 1) then 400 else 0
    (up.map (fun x => s.tlinkOf x + 1152 * (s.linkFolds x).length + 600 + pass)).foldl max 0

/-- P(r) (R79): the farthest receiver that an end's drove stream reaches, from end A and from end B. -/
def Dev.pathAB (s : Dev) (r : Nat) : Nat × Nat :=
  let x := s.ring r
  let ra := x.places.filter (fun p => match x.dark with
    | some h => decide (p < h)
    | none => true)
  let rb := x.places.filter (fun p => match x.dark with
    | some h => decide (h ≤ p)
    | none => true)
  ((ra.map (dly x.distA)).foldl max 0, (rb.map (dly x.distB)).foldl max 0)

/-- need(r) (R79, R336). -/
def Dev.needOf (s : Dev) (r : Nat) : Int :=
  let (pa, pb) := s.pathAB r
  (1500 + (s.jOf r + 1) * s.tblk r + max pa pb + 2000 + 10 * s.dtw : Nat)

def Dev.ringPlan (s : Dev) (r : Nat) (cfg : W64) : RingPlan :=
  let tb : Int := s.tblk r
  let per : Int := 1000 * max (cfgPeriod cfg) 1
  let j : Int := s.jOf r
  let win : Int × Int := (1000 * cfgStile cfg + 1500, (j + 1) * tb)
  let plan := fun (q : StreamPath) => slotPlan tb per (1000 * cfgEmit cfg) (if q.fromEnd then some win else none) none q.cells
  let inst := fun (qs : List StreamPath) => qs.flatMap (fun q => (plan q).map (fun e => (e.1, e.2.2 + e.2.1)))
  let own := fun (qs : List StreamPath) => (qs.filter (fun q => q.fromEnd)).flatMap (fun q => (plan q).map (fun e => (e.1, e.2.2)))
  let ty := fun (qs : List StreamPath) => (qs.map (fun q =>
    match q.far, (plan q).getLast? with
    | some f, some e => e.2.2 + 2 * tb - 400 + f
    | _, _ => 0)).foldl max 0
  let occ := fun (q : StreamPath) =>
    match (plan q).head?, (plan q).getLast? with
    | some a, some z => (z.2.2 - a.2.2 + 2 * tb) + (j + 1) * tb + 20000
    | _, _ => 0
  let (sb, sa) := s.streamsOf r
  { toB := inst sb, toA := inst sa, launchA := own sb, launchB := own sa, tyB := ty sb, tyA := ty sa
    occ := ((sb ++ sa).map occ).foldl max 0, need := s.needOf r }

/-! ### Minimums (R72, R77, R79, R91) -/

/-- In units of 10 ns. -/
structure Mins where
  tclose : Nat
  stileMin : Nat
  applyMin : Nat
  periodMin : Nat
  limring : Nat
  deriving DecidableEq, Repr

def ceil1000 (x : Int) : Nat := ceilDiv x.toNat 1000

/-- The minimums over the rings given; over no ring there is no path to wait for. -/
def Dev.minsOf (s : Dev) (rings : List Nat) (cfg : W64) : Mins :=
  let ps := rings.map (fun r => (r, s.ringPlan r cfg))
  let tclose := ceil1000 ((ps.map (fun p => max p.2.tyA p.2.tyB)).foldl max 0)
  let need := (ps.map (fun p => p.2.need)).foldl max 0
  { tclose := tclose, stileMin := tclose + 90, applyMin := cfgStile cfg + ceil1000 need
    periodMin := ceil1000 ((ps.map (fun p => p.2.occ)).foldl max 0)
    limring := ((ps.find? (fun p => decide (p.2.need = need))).map (fun p => p.1)).getD 0 }

def Dev.liveRings (s : Dev) : List Nat := (List.range s.ringCount).filter s.live
def Dev.tclose (s : Dev) : Nat := s.fget TIM_CYC_MIN_TCLOSE

/-- An admitted ring (R81, R82). -/
def Dev.admitted (s : Dev) (r : Nat) : Bool := s.live r && !s.fbit (s.rf RDn_RPATH_OVER r)

/-- Rings the minimums run over: the live ones, those with `OVER` among them (R72, R79, R81, R90, R91). -/
def Dev.minRings (s : Dev) : List Nat := s.liveRings

/-- n(x) (R337). -/
def Dev.twinRoom (s : Dev) (x : Nat) : Nat :=
  let j := (s.linkFolds x).length
  let start : Int := max 4000 (150 + 1152 * j : Nat)
  let room : Int := 100 * (s.period + s.tclose : Nat) + 4000 - 100 * s.stile - start - s.tlinkOf x - 600
  (room / 1152).toNat

/-- TWM (R337). -/
def Dev.twm (s : Dev) : Nat := min ((s.linksUp.map s.twinRoom).foldl (· + ·) 0) (8 * s.period / 100)

/-- `DTW` and `TWM` of `SH_TWIN_STAT`. D_TW is shown rounded up to the nanosecond (log entry 123). -/
def Dev.twinShow (s : Dev) : Dev :=
  if !s.twin then s
  else (s.fset SH_TWIN_STAT_DTW (min (ceilDiv s.dtw 10) 0xFFFF)).fset SH_TWIN_STAT_TWM (min s.twm 255)

/-- `TIM_CYC_MIN` and `LIMRING`, and what follows from them. -/
def Dev.setMins (s : Dev) (m : Mins) : Dev :=
  let s := (s.fset TIM_CYC_MIN_VALID 1).fset TIM_CYC_MIN_PERIOD_MIN m.periodMin
  let s := (s.fset TIM_CYC_MIN_APPLY_MIN m.applyMin).fset TIM_CYC_MIN_STILE_MIN m.stileMin
  ((s.fset TIM_CYC_MIN_TCLOSE m.tclose).fset TIM_CYC_STAT_LIMRING m.limring).twinShow

/-- What a ring's registers show of its path (R112). A delay is rounded up to 0.1 ns, and one beyond 6,553.5 ns reads 0xFFFF
    (log entry 115). -/
def Dev.showPath (s : Dev) (r : Nat) : Dev :=
  let (pa, pb) := s.pathAB r
  let s := s.rfset RDn_RPATH_NDROVE r (s.jOf r)
  let s := s.rfset RDn_RPATH_NCELL r (s.ring r).cells.length
  let s := s.rfset RDn_RPATH_PATH_A r (min (ceilDiv pa 10) 0xFFFF)
  s.rfset RDn_RPATH_PATH_B r (min (ceilDiv pb 10) 0xFFFF)

/-! ### Block streams (R67, R70, R73, R78, R496-R499) -/

/-- The present instant on the master's raw count, 10 ps units: the block grids lie on it (log entry 118). -/
def Dev.raw10ps (s : Dev) : Int := 100 * (s.sh.clk.raw.toNat : Int)

def lineRing : Sender → Nat
  | .ringEnd r _ => r
  | .cell p _ => p / 64

/-- The instant at which station time reaches t ns, or now if it has. -/
def Dev.untilNs (s : Dev) (t : Int) : Int := s.raw10ps + 100 * max 0 (t - s.now.toNat)

/-- The stream that a sender launches. -/
def Dev.line (s : Dev) : Sender → Option Line
  | .ringEnd r e => Store.get (fun _ => none) (s.rd (s.rdOfEnd r e)).lines (s.portOfEnd r e)
  | .cell p .u => (s.cell p).lnk.lineU
  | .cell p .d => (s.cell p).lnk.lineD

def Cell.setLine (c : Cell) (x : CPort) (l : Option Line) : Cell :=
  match x with
  | .u => { c with lnk := { c.lnk with lineU := l } }
  | .d => { c with lnk := { c.lnk with lineD := l } }

def Dev.setLine (s : Dev) (q : Sender) (l : Option Line) : Dev :=
  match q with
  | .ringEnd r e => s.modRd (s.rdOfEnd r e) (fun x => { x with lines := Store.set (fun _ => none) x.lines (s.portOfEnd r e) l })
  | .cell p x => s.modCell p (fun c => c.setLine x l)

/-- A stream starts on a grid of its own, with a boundary of its launcher's choosing: a free value. -/
def Dev.newLine (s : Dev) (q : Sender) : Line × Dev :=
  let (w, s) := s.free
  let l : Line := { start := s.raw10ps + w.toNat % s.tblk (lineRing q), next := 0, busy := 0 }
  (l, s.setLine q (some l))

/-- The stream of a sender, started if it is not yet. -/
def Dev.openLine (s : Dev) (q : Sender) : Line × Dev :=
  match s.line q with
  | some l => (l, s)
  | none => s.newLine q

/-- The first position that starts at or after an instant. -/
def Line.first (l : Line) (tb : Nat) (t : Int) : Nat := (-((l.start - t) / (tb : Int))).toNat

/-- The instant at which position n starts. -/
def Line.startOf (l : Line) (tb n : Nat) : Int := l.start + n * tb

/-- The cell that a block starting at the instant given is reserved for: each stream has, for each of its cells, the first boundary
    at or after L - 4 ns of every cycle (R70). A launching cell reserves every IDLE block for any cell (R499). -/
def Dev.reservedFor (s : Dev) (q : Sender) (t : Int) : Option Nat :=
  match q with
  | .cell _ _ => some 0x3FFF
  | .ringEnd r e =>
    let x := s.ringPlan r s.sh.clk.cfgInForce
    let l := if e = .a then x.launchA else x.launchB
    if !s.sh.clk.gridOn || !s.live r then none
    else (l.find? (fun c => decide ((t - (100 * (s.sh.clk.t0raw.toNat : Int) + c.2 - 400)) % (1000 * max s.period 1 : Nat) < s.tblk r))).bind
      (fun c => ((s.ring r).cells.find? (fun e => decide (e.2.place = c.1))).map (fun e => 64 * r + e.1))

/-- A block starting at the instant given would lie in the drove window of the stream (R69, R78). -/
def Dev.inWindow (s : Dev) (r : Nat) (t : Int) : Bool :=
  s.sh.clk.gridOn && s.live r && decide (s.jOf r ≠ 0) &&
    decide ((t - (100 * (s.sh.clk.t0raw.toNat : Int) + 1000 * s.stile + 1500)) % (1000 * max s.period 1 : Nat) <
      ((s.jOf r + 1) * s.tblk r : Nat))

/-- The position is neither reserved for a tally nor for droves. -/
def Dev.openPos (s : Dev) (q : Sender) (l : Line) (n : Nat) : Bool :=
  match q with
  | .cell _ _ => true
  | .ringEnd r _ =>
    let t := l.startOf (s.tblk r) n
    (s.reservedFor q t).isNone && !s.inWindow r t

/-- The first open position from n on; a stream that had none within 256 would hold more reservations than R91 admits. -/
def Dev.nextOpen (s : Dev) (q : Sender) (l : Line) : Nat → Nat → Nat
  | 0, n => n
  | k + 1, n => if s.openPos q l n then n else s.nextOpen q l k (n + 1)

/-- The position of a block that is to start at or after an instant, and the stream after it. Drove and explicit blocks take the next
    position as it is; others take an open one, and of 16 unreserved positions one stays IDLE with `G` = 0, TIME blocks not
    counted (R499). -/
def Dev.placeBlock (s : Dev) (q : Sender) (ty : BitVec 4) (t : Int) : Nat × Dev :=
  let (l, s) := s.openLine q
  let n := max l.next (l.first (s.tblk (lineRing q)) t)
  if ty = 0x1 ∨ ty = 0xB then (n, s.setLine q (some { l with next := n + 1 }))
  else
    let m := s.nextOpen q l 256 n
    let busy := if s.nextOpen q l 256 l.next < n then 0 else l.busy
    if ty = 0x7 then (m, s.setLine q (some { l with next := m + 1, busy := busy }))
    else if 15 ≤ busy then
      let m := s.nextOpen q l 256 (m + 1)
      (m, s.setLine q (some { l with next := m + 1, busy := 1 }))
    else (m, s.setLine q (some { l with next := m + 1, busy := busy + 1 }))

/-- A block sent in the first position that starts at or after an instant; its payload may name the instant at which it starts. -/
def Dev.sendFrom (s : Dev) (q : Sender) (ty : BitVec 4) (t : Int) (pl : Int → Payload) : Dev :=
  let (n, s) := s.placeBlock q ty t
  match s.line q with
  | some l => s.emit (.block q n ty (pl (l.startOf (s.tblk (lineRing q)) n)))
  | none => s

/-- A block sent now. -/
def Dev.send (s : Dev) (q : Sender) (ty : BitVec 4) (pl : Payload) : Dev := s.sendFrom q ty s.raw10ps (fun _ => pl)

/-- What a launcher sends in position n of its stream: type, `BSEQ` and payload (R67, R70, R496, R498, R499). -/
def Dev.lineBlock (s : Dev) (q : Sender) (n : Nat) : Option (BitVec 4 × Byte × Payload) :=
  (s.line q).map (fun l =>
    let sent := s.out.findSome? (fun e => match e with
      | .block q' n' ty pl => if q' = q ∧ n' = n then some (ty, pl) else none
      | _ => none)
    let idle : Payload := match s.reservedFor q (l.startOf (s.tblk (lineRing q)) n) with
      | some id => Pl.mk [(0, 16, 0xC000 + id)]
      | none => 0
    let b := sent.getD (0x0, idle)
    (b.1, BitVec.ofNat 8 n, b.2))

/-- The grid that the stream toward end B, or toward end A, has at the receiver of the cell at a place, if its launcher is known
    here: the nearest cell upstream that launches, or else the end port (R73). -/
def Dev.gridAt (s : Dev) (r p : Nat) (towardB : Bool) : Option Int :=
  let x := s.ring r
  let m := if towardB then x.distA else x.distB
  let up := (List.range 64).filter (fun q => if towardB then decide (q < p) else decide (p < q))
  let up := up.filter (fun q => (s.line (.cell (64 * r + q) (if towardB then .d else .u))).isSome)
  match (if towardB then up.getLast? else up.head?) with
  | some q => (s.line (.cell (64 * r + q) (if towardB then .d else .u))).map (fun l => l.start + dly m p - dly m q - s.trep r)
  | none =>
    let e : End := if towardB then .a else .b
    if s.ownsEnd e then (s.line (.ringEnd r e)).map (fun l => l.start + dly m p) else none

/-! ### What end ports count of received blocks (R496, R497, R500, R598) -/

/-- A CRC error at a package port. -/
def Dev.portCrc (s : Dev) (n i : Nat) : Dev := (s.finc (RDn_RP_ERR_CRC n i)).report .corr .port (66 * n + i) 0 0

/-- A gap in `BSEQ` at a package port. -/
def Dev.portGap (s : Dev) (n i : Nat) : Dev := (s.finc (RDn_RP_ERR_BGAP n i)).report .corr .port (66 * n + i) 2 0

/-- A package port counts what it finds of a block. -/
def Dev.portRx (s : Dev) (n i : Nat) (h : Rx) : Dev :=
  let s := if h.crcOk then s else s.portCrc n i
  if h.follows then s else s.portGap n i

/-- The port at an end of a ring, where this package has the end. -/
def Dev.endRx (s : Dev) (r : Nat) (e : End) (h : Rx) : Dev :=
  if s.ownsEnd e then s.portRx (s.rdOfEnd r e) (s.portOfEnd r e) h else s

/-! ### The ring die's own writes into cells (R121, R122, R216, R515) -/

/-- A cell takes the ring die's requests: it has power, its ring is up, no break isolates it (R144), and a receiving port has
    lock (log entry 39). -/
def Dev.reach (s : Dev) (id : Nat) : Option Place :=
  match s.placeOf id with
  | some p =>
    let c := s.cell p
    if s.live (id / 64) && c.powered && !(s.ring (id / 64)).isolated (p % 64) && (c.portLock .u || c.portLock .d) then some p
    else none
  | none => none

/-- The transaction end of a cell (R56). -/
def Dev.txnEnd (s : Dev) (id : Nat) : End := if (s.cend id).endB then .b else .a

/-- A TXN_REQ payload (R512); the flags are `W`, `RETRY` and `RING`. -/
def reqPayload (id flags tag gen ofs data : Nat) : Payload :=
  Pl.mk [(0, 14, id), (3, 8, flags), (4, 16, tag + 1024 * gen), (6, 16, ofs), (8, 32, data)]

/-- Numbers a request to the cell, takes a credit and sends it (R55, R513). -/
def Dev.sendReq (s : Dev) (id : Nat) (pl : Payload) : Payload × Dev :=
  let e := s.cend id
  let pl := Pl.put pl 2 8 ((e.rseq.toNat + 1) % 256)
  let s := s.setCend id { e with rseq := e.rseq + 1, credits := e.credits - 1 }
  (pl, s.send (.ringEnd (id / 64) (s.txnEnd id)) 0x3 pl)

/-- One of the ring die's own writes (R515): a request that takes a number and a credit as any other, accepted and carried out by
    the cell at once, its buffer free again (log entry 39). It takes no tag (R55); what its tag field holds is a free value. -/
def Dev.ownWrite (s : Dev) (p : Place) (a : Nat) (v : W32) : Dev :=
  let id := (s.cell p).id
  let (w, s) := s.free
  let (pl, s) := s.sendReq id (reqPayload id 5 (w.toNat % 16384) 0 a v.toNat)
  s.modCell p (fun c => c.act (fun c =>
    let c := (c.write a v true 0).1.fset SRB_RP_NEG_RSEQ (Pl.get pl 2 8)
    { c with lnk := { c.lnk with rseqAny := true } }))

def instWord (x : Option Int) : W32 :=
  match x with
  | some i => BitVec.ofNat 32 (2 ^ 31 + i.toNat % 2 ^ 24)
  | none => 0

/-- Cycle settings, the station time of a t0 of their grid and the slot instants of one ring, written into its cells to take effect
    at the cycle given (R93, R216, R250). A cell that failed three attempts of R121 gets no slot instants. -/
def Dev.writeSlots (s : Dev) (r : Nat) (cfg : W64) (anch : Nat) (eff : W16) : Dev :=
  let plan := s.ringPlan r cfg
  forAll (s.ring r).cells s (fun s e =>
    match s.reach (64 * r + e.1) with
    | none => s
    | some p =>
      let bad := decide (64 * r + e.1 ∈ s.sh.tly.foldFail)
      let at_ := fun (l : List (Nat × Int)) => if bad then none else (l.find? (fun q => decide (q.1 = e.2.place))).map (fun q => q.2)
      let s := s.ownWrite p SRB_CYC (BitVec.ofNat 32 (cfgPeriod cfg + 2 ^ 16 * cfgApply cfg))
      let s := s.ownWrite p SRB_T0_ANCH (ts32 anch)
      let s := s.ownWrite p SRB_SLOT_TA (instWord (at_ plan.toA))
      let s := s.ownWrite p SRB_SLOT_TB (instWord (at_ plan.toB))
      s.ownWrite p SRB_CYC_EFF (eff.setWidth 32))

end Sys2Proof.Machine
end

