-- ==== Sys2Proof/Machine/SchedInstr.lean ====
section
/-!
DEFINITION. The scheduler instructions and services (R420-R440) and the scheduler's own events (R417, R418, R426, R427).
-/
namespace Sys2Proof.Machine

/-! ### Rights (R410) -/

/-- A task of partition p may act on a task of partition q. -/
def mayTask (p q : Nat) : Bool :=
  if p = 0 then decide (q = 0) else if p = 1 then decide (1 ≤ q) && decide (q < 16) else decide (q = p)

def CtrlDie.mayMbox (x : CtrlDie) (p m : Nat) : Bool :=
  if p = 0 then decide (m < 128)
  else decide (128 ≤ m) && decide (m < 256) && (decide (p = 1) || decide ((x.mbox m).part = p))

def CtrlDie.mayLock (x : CtrlDie) (p l : Nat) : Bool :=
  if p = 0 then decide (l < 32)
  else decide (32 ≤ l) && decide (l < 64) && (decide (p = 1) || decide ((x.lock l).part = p))

/-! ### Mailboxes (R428-R432) -/

/-- The mailbox is full for a POST (R431). -/
def Mbox.isFull (b : Mbox) : Bool := decide (b.depth ≤ b.msgs.length + b.takenInPhase)

/-- A POST of task t to mailbox m is refused (R428). -/
def CtrlDie.postRefused (x : CtrlDie) (t m : Nat) : Bool :=
  let p := (x.task t).part
  let b := x.mbox m
  !b.en || !x.mayMbox p m || (decide (p = 0) && decide (b.prod ≠ t)) || b.isFull || (decide (128 ≤ m) && decide (x.nfree = 0))

/-- A waiting task gets the message and the result its TAKE names. -/
def CtrlDie.deliverMsg (x : CtrlDie) (u : Nat) (v : W64) : CtrlDie :=
  (x.modTask u (fun k => { k with deliver := [(k.waitReg.2, v), (k.waitReg.1, 0)], wobj := 0 })).wake u

/-- An accepted POST: to the waiting task of highest effective priority, else into the queue (R429). -/
def CtrlDie.postTo (x : CtrlDie) (t m : Nat) (v : W64) : CtrlDie :=
  let k := x.task t
  let b := x.mbox m
  match (if 128 ≤ m then x.best b.waiters else none) with
  | some u => (x.setMbox m { b with waiters := b.waiters.filter (fun w => decide (w ≠ u)) }).deliverMsg u v
  | none => x.setMbox m { b with msgs := b.msgs ++ [{ val := v, cycle := k.cycle, phase := k.phase }] }

/-- POST to a mailbox: rd := 0 queued, 1 refused. -/
def Dev.doPost (s : Dev) (d c t : Nat) (rd : Reg) (m : Nat) (v : W64) : Ires :=
  let s := s.advance d t
  let x := s.cd d
  if x.postRefused t m then
    let b := x.mbox m
    let x := if b.en && b.isFull then x.setMbox m { b with full := min (b.full + 1) 0x7FFF } else x
    .hold ((s.setCd d (x.setReg c t rd 1)).finc (SCH_STAT_POSTREF d))
  else .hold ((s.setCd d ((x.setReg c t rd 0).postTo t m v)).resched d)

/-- A message is visible to a TAKE of task t (R431). -/
def CtrlDie.visible (x : CtrlDie) (t m : Nat) (e : Msg) : Bool :=
  let k := x.task t
  decide (128 ≤ m) || decide (e.cycle < k.cycle) || (decide (e.cycle = k.cycle) && decide (e.phase < k.phase))

/-- The task leaves its core to wait for an object. -/
def Dev.waitOn (s : Dev) (d c t : Nat) (st : TState) (obj : Nat) (queue : CtrlDie → CtrlDie) : Dev :=
  let s := s.modCd d (fun x => x.modTask t (fun k => { k with wobj := obj }))
  let s := s.leave d c t st
  let s := if ((s.cd d).task t).state = .free then s else s.modCd d queue
  s.resched d

/-- TAKE (R429, R431): rb the message, rd := 0 taken, 1 empty. A non-voted TAKE of a mailbox the task may not use is
    refused and answers as an empty one without a wait (log entry 23). -/
def Dev.doTake (s : Dev) (d c t : Nat) (rd rb : Reg) (m : Nat) (noWait : Bool) : Ires :=
  let x := s.cd d
  let k := x.task t
  let b := x.mbox m
  let empty := fun (s : Dev) => Ires.done (s.modCd d (fun x => (x.setReg c t rb 0).setReg c t rd 1))
  if k.part = 0 ∧ (!noWait ∨ 128 ≤ m ∨ !b.en ∨ b.cons ≠ t) then .trap s 5 0
  else if !x.mayMbox k.part m then empty s
  else
    match b.msgs with
    | e :: rest =>
      if x.visible t m e then
        let b := { b with msgs := rest, takenInPhase := if m < 128 then b.takenInPhase + 1 else 0 }
        .done (s.setCd d (((x.setMbox m b).setReg c t rb e.val).setReg c t rd 0))
      else empty s
    | [] =>
      if noWait then empty s
      else
        let s := (s.advance d t).modCd d (fun x => x.modTask t (fun k => { k with waitReg := (rd.code, rb.code) }))
        .hold (s.waitOn d c t .waitMbox m (fun x =>
          x.setMbox m { x.mbox m with waiters := (x.mbox m).waiters ++ [t] }))

/-- TAKE. -/
def execTake (r : CoreRef) (rd ra rb : Reg) (k : BitVec 6) (s : State) : Out :=
  s.onCore r (fun d => d.instr r (encR 0x21 rd ra rb 1 k.toNat) (decide (k.toNat < 2)) .both (fun t d =>
    d.doTake r.die.idx r.core.val t rd rb ((d.cd r.die.idx).reg r.core.val t ra).toNat (decide (k.toNat = 1))))

/-! ### Ending and offering the core -/

/-- WAITT (R414, R436): a non-voted task must have released its locks. -/
def execWaitt (r : CoreRef) (s : State) : Out :=
  s.onCore r (fun d => d.instr r (encR 0x21 noReg noReg noReg 2 0) true .both (fun t d =>
    let i := r.die.idx
    if ((d.cd i).task t).part ≠ 0 ∧ !((d.cd i).held t).isEmpty then .trap d 5 0
    else .hold (((d.advance i t).endActivation i r.core.val t).resched i)))

/-- YIELD: offers the core to a ready task of equal priority that may use it; the task goes to the tail of its level. -/
def Dev.doYield (s : Dev) (d c t : Nat) : Ires :=
  let s := s.advance d t
  let x := s.cd d
  if x.ready.any (fun u => decide (x.pri u = x.pri t) && (s.allowed d (x.task u).part).any (fun e => decide (e = c))) then
    let s := s.leave d c t .ready
    let s := if ((s.cd d).task t).state = .free then s else s.modCd d (fun x => { x with ready := x.ready ++ [t] })
    .hold (s.resched d)
  else .hold s

/-- YIELD: not permitted in the voted partition (R420). -/
def execYield (r : CoreRef) (s : State) : Out :=
  s.onCore r (fun d => d.instr r (encR 0x21 noReg noReg noReg 4 0) true .nonVoted (fun t d =>
    d.doYield r.die.idx r.core.val t))

/-- Puts a wake tick into the delay list, behind those of the same tick (R426). -/
def insertDelay (l : List (Nat × Nat)) (w t : Nat) : List (Nat × Nat) :=
  match l with
  | [] => [(w, t)]
  | e :: es => if w < e.1 then (w, t) :: e :: es else e :: insertDelay es w t

/-- DELAY ra: until the ra-th tick event; 0 acts as YIELD (R426). Not permitted in the voted partition (R420). -/
def execDelay (r : CoreRef) (ra : Reg) (s : State) : Out :=
  s.onCore r (fun d => d.instr r (encR 0x21 noReg ra noReg 3 0) true .nonVoted (fun t d =>
    let i := r.die.idx
    let n := ((d.cd i).reg r.core.val t ra).toNat
    if n = 0 then d.doYield i r.core.val t
    else
      let w := (d.cd i).ticks + n
      let d := (d.advance i t).modCd i (fun x => x.modTask t (fun k => { k with wake := w }))
      .hold (d.waitOn i r.core.val t .waitDelay 0 (fun x => { x with delays := insertDelay x.delays w t }))))

/-! ### Priority (R437) -/

/-- The rank of an activation, lowest first (R417). -/
def Task.rank (k : Task) (t : Nat) : Nat := k.phase * 2 ^ 20 + (63 - k.base) * 2 ^ 10 + t

/-- A change of `BASE` of task u to p that task t makes. -/
def CtrlDie.setBase (x : CtrlDie) (t u p : Nat) : CtrlDie :=
  let k := x.task u
  if k.part = 0 then
    let q : PendSvc :=
      { rank := (x.task t).rank t, svc := 5, blk := [BitVec.ofNat 8 u, BitVec.ofNat 8 (u / 256), BitVec.ofNat 8 p] }
    { x with vpri := insertRank x.vpri q }
  else (x.modTask u (fun k => { k with ppend := some p })).applyPpend u

/-- SETPRI: rd := 0 done, 1 refused. -/
def execSetpri (r : CoreRef) (rd ra rb : Reg) (s : State) : Out :=
  s.onCore r (fun d => d.instr r (encR 0x21 rd ra rb 5 0) true .both (fun t d =>
    let i := r.die.idx
    let c := r.core.val
    let d := d.advance i t
    let x := d.cd i
    let u := (x.reg c t ra).toNat
    let p := (x.reg c t rb).toNat
    if 512 ≤ u ∨ (x.task u).state = .free ∨ !mayTask (x.task t).part (x.task u).part ∨ 64 ≤ p then
      .hold (d.setCd i (x.setReg c t rd 1))
    else .hold ((d.setCd i ((x.setReg c t rd 0).setBase t u p)).resched i)))

/-! ### Locks (R433-R435) -/

/-- LOCK. A lock the task may not use, or one that is not enabled, raises cause 5 (log entry 24). -/
def Dev.doLock (s : Dev) (d c t l : Nat) : Ires :=
  let x := s.cd d
  let k := x.task t
  let b := x.lock l
  if !b.en ∨ !x.mayLock k.part l then .trap s 5 0
  else if k.part = 0 then
    if !k.lset.getLsbD l ∨ l ∈ k.taken then .trap s 5 0
    else if x.votedGrant t l then
      .done (s.setCd d ((x.setLock l { b with holder := some t }).modTask t (fun k => { k with taken := l :: k.taken })))
    else
      .done (s.setCd d ((x.setLock l { b with waiters := b.waiters ++ [t] }).modTask t (fun k => { k with
        state := .waitLock, wobj := 0x100 + l })))
  else if b.ceil < k.base then .trap s 5 0
  else if b.holder = none then .done (s.setCd d (x.setLock l { b with holder := some t }))
  else
    .hold ((s.advance d t).waitOn d c t .waitLock (0x100 + l) (fun x =>
      x.setLock l { x.lock l with waiters := (x.lock l).waiters ++ [t] }))

/-- LOCK. -/
def execLock (r : CoreRef) (k : BitVec 6) (s : State) : Out :=
  s.onCore r (fun d => d.instr r (encR 0x21 noReg noReg noReg 6 k.toNat) true .both (fun t d =>
    d.doLock r.die.idx r.core.val t k.toNat))

/-- UNLOCK: of a lock the task holds. -/
def execUnlock (r : CoreRef) (k : BitVec 6) (s : State) : Out :=
  s.onCore r (fun d => d.instr r (encR 0x21 noReg noReg noReg 7 k.toNat) true .both (fun t d =>
    let i := r.die.idx
    if ((d.cd i).lock k.toNat).holder ≠ some t then .trap d 5 0
    else .hold (((d.advance i t).modCd i (fun x => x.release k.toNat false)).resched i)))

/-! ### Services (R438-R440) -/

/-- Bytes of a block that must be zero are. -/
def zeroAt (l : List Byte) (idx : List Nat) : Bool := idx.all (fun i => decide (l.getD i 0 = 0))

/-- The spill stack lies within the partition's memory (R439). -/
def Dev.spillOk (s : Dev) (d p base lim : Nat) : Bool :=
  decide (base % 128 = 0) && decide (lim % 128 = 0) && decide (base < lim) &&
    (if p = 0 then decide (0x10000000 ≤ base) && decide (lim ≤ 0x11800000)
     else decide (0x11800000 ≤ base) && decide (lim ≤ 0x12000000) && s.fenced d p base && s.fenced d p (lim - 1))

/-- The fields of a create block are in range (R439). -/
def Dev.createOk (s : Dev) (d caller : Nat) (l : List Byte) : Bool :=
  let p := blkAt l 2 1
  let cb := bitOf (blkAt l 4 1) 0
  decide (blkAt l 3 1 < 64) && decide (blkAt l 4 1 < 32) && decide (blkAt l 6 1 ≤ blkAt l 5 1)
    && zeroAt l (7 :: (List.range 27).map (fun i => 36 + i))
    && decide (blkAt l 8 4 % 4 = 0) && decide (blkAt l 8 4 < 0x400000)
    && s.spillOk d p (blkAt l 12 4) (blkAt l 16 4)
    && (decide (p = 0) || decide (blkAt l 28 8 = 0)) && !(decide (caller = 0) && !cb)

/-- FREE tasks, held locks and filled mailboxes as the check of a service sees them: for a voted task, as its phase began
    (R440). -/
def CtrlDie.svBusy (x : CtrlDie) (p t : Nat) : Bool :=
  if p = 0 then decide (t ∈ x.vsBusy) else decide ((x.task t).state ≠ .free)
def CtrlDie.svHolds (x : CtrlDie) (p t : Nat) : Bool :=
  if p = 0 then x.vsHeld.any (fun e => decide (e.2 = t)) else !(x.held t).isEmpty
def CtrlDie.svLock (x : CtrlDie) (p l : Nat) : Bool :=
  if p = 0 then x.vsHeld.any (fun e => decide (e.1 = l)) else (x.lock l).holder.isSome || !(x.lock l).waiters.isEmpty
def CtrlDie.svFull (x : CtrlDie) (p m : Nat) : Bool :=
  if p = 0 then decide (m ∈ x.vsFull) else !(x.mbox m).msgs.isEmpty

/-- The partition field of a mailbox or lock block suits the caller. -/
def partOk (caller p : Nat) : Bool :=
  if caller = 0 then decide (p = 0) else if caller = 1 then decide (1 ≤ p) && decide (p < 16) else decide (p = caller)

/-- The reason code of a service request, 0 accepted. Reasons are tried in the order 1, 2, 4, 3 (log entry 25). -/
def Dev.svcReason (s : Dev) (d caller svc : Nat) (l : List Byte) : Nat :=
  let x := s.cd d
  let t := blkAt l 0 2
  let o := blkAt l 0 1
  match svc with
  | 0 =>
    if 512 ≤ t ∨ 16 ≤ blkAt l 2 1 ∨ !mayTask caller (blkAt l 2 1) then 1
    else if x.svBusy caller t then 2
    else if s.createOk d caller l then 0 else 4
  | 1 =>
    if 512 ≤ t ∨ !x.svBusy caller t ∨ !mayTask caller (x.task t).part then 1 else if x.svHolds caller t then 2 else 0
  | 2 =>
    if 512 ≤ t ∨ !x.svBusy caller t ∨ !mayTask caller (x.task t).part then 1
    else if (x.task t).state ≠ .dormant then 2 else 0
  | 3 =>
    if !x.mayMbox caller o then 1
    else if x.svFull caller o then 2
    else if 4096 < blkAt l 2 2 ∨ !partOk caller (blkAt l 4 1) ∨ 512 ≤ blkAt l 6 2 ∨ 512 ≤ blkAt l 8 2 ∨
        !zeroAt l ([1, 5] ++ (List.range 53).map (fun i => 10 + i)) then 4
    else if o < 128 ∧ x.vfree + (x.mbox o).depth < blkAt l 2 2 then 3
    else 0
  | 4 =>
    if 64 ≤ o ∨ !x.mayLock caller o then 1
    else if x.svLock caller o then 2
    else if 64 ≤ blkAt l 2 1 ∨ !(partOk caller (blkAt l 4 1) || decide (blkAt l 4 1 = 0xFF)) ∨
        !zeroAt l ([1, 3] ++ (List.range 58).map (fun i => 5 + i)) then 4
    else 0
  | _ => 4

/-- Service `svc` with its request block at address a (R438): the reason goes to byte 63, rd := 0 accepted, 1 refused. It waits
    while another core's exclusive attempt holds that byte's line (R380). -/
def Dev.doService (s : Dev) (d c t : Nat) (rd : Reg) (svc : Nat) (a : W64) : Ires :=
  match s.blockCheck d t true a.toNat 64 with
  | some cause => .trap s cause a
  | none =>
    if (s.cd d).lineHeld c ((a.toNat + 63) / 64) then .hold s
    else
    match s.eccRead d a.toNat 64 with
    | none => .trap (s.eccFail d a.toNat) 6 0
    | some s =>
      let s := s.advance d t
      let l := (s.cd d).blockBytes a.toNat 64
      let k := (s.cd d).task t
      let why := s.svcReason d k.part svc l
      let s := s.modCd d (fun x => (x.poke c (a.toNat + 63) 1 why).setReg c t rd (if why = 0 then 0 else 1))
      if why ≠ 0 then .hold (s.finc (SCH_STAT_SVCREF d))
      else if k.part = 0 then
        .hold (s.modCd d (fun x => { x with vpend := insertRank x.vpend { rank := k.rank t, svc := svc, blk := l } }))
      else .hold ((s.applyService d svc l).resched d)

/-- POST: to a mailbox, or to a service when ra is 0x1_0000 or more. -/
def execPost (r : CoreRef) (rd ra rb : Reg) (s : State) : Out :=
  s.onCore r (fun d => d.instr r (encR 0x21 rd ra rb 0 0) true .both (fun t d =>
    let x := d.cd r.die.idx
    let m := (x.reg r.core.val t ra).toNat
    let v := x.reg r.core.val t rb
    if 0x10000 ≤ m then d.doService r.die.idx r.core.val t rd (m - 0x10000) v else d.doPost r.die.idx r.core.val t rd m v))

/-- The POST of service `svc`; the register that holds 0x1_0000 + svc is not named, and its field counts as g0. -/
def Dev.serviceI (s : Dev) (r : CoreRef) (rd rb : Reg) (svc : Nat) : Dev :=
  s.instr r (encR 0x21 rd noReg rb 0 0) true .both (fun t s =>
    s.doService r.die.idx r.core.val t rd svc ((s.cd r.die.idx).reg r.core.val t rb))

/-- CREATE_TASK. -/
def execCreateTask (r : CoreRef) (rd rb : Reg) (s : State) : Out := s.onCore r (fun d => d.serviceI r rd rb 0)
/-- DELETE_TASK. -/
def execDeleteTask (r : CoreRef) (rd rb : Reg) (s : State) : Out := s.onCore r (fun d => d.serviceI r rd rb 1)
/-- ACTIVATE_TASK. -/
def execActivateTask (r : CoreRef) (rd rb : Reg) (s : State) : Out := s.onCore r (fun d => d.serviceI r rd rb 2)
/-- CONFIGURE_MAILBOX. -/
def execConfigureMailbox (r : CoreRef) (rd rb : Reg) (s : State) : Out := s.onCore r (fun d => d.serviceI r rd rb 3)
/-- CONFIGURE_LOCK. -/
def execConfigureLock (r : CoreRef) (rd rb : Reg) (s : State) : Out := s.onCore r (fun d => d.serviceI r rd rb 4)

/-! ### Events -/

/-- Pending priority changes of voted tasks, in rank order (R437). -/
def CtrlDie.applyVpri (x : CtrlDie) : CtrlDie :=
  let y := forAll x.vpri x (fun y p =>
    let u := blkAt p.blk 0 2
    if (y.task u).state = .free then y else y.modTask u (fun k => { k with base := blkAt p.blk 2 1 }))
  { y with vpri := [] }

/-- What the checks of the phase's services go by (R440). -/
def CtrlDie.snapshot (x : CtrlDie) : CtrlDie :=
  { x with
    vsBusy := (x.tasks.filter (fun e => decide (e.2.state ≠ .free))).map (fun e => e.1)
    vsHeld := x.locks.filterMap (fun e => e.2.holder.map (fun t => (e.1, t)))
    vsFull := (x.mboxes.filter (fun e => !e.2.msgs.isEmpty)).map (fun e => e.1) }

/-- Activations not ended, of a condition on cycle and phase. -/
def CtrlDie.activeIf (x : CtrlDie) (f : Nat → Nat → Bool) : List Nat :=
  (x.tasks.filter (fun e => e.2.votedActive && f e.2.cycle e.2.phase)).map (fun e => e.1)

/-- VOTED_PHASE_BEGIN (R418): the next phase of the cycle in progress, or phase 0 of the next cycle once the generator
    step is complete and every earlier activation has ended. -/
def Dev.phaseBegin (s : Dev) (d : Nat) : Dev :=
  let x := s.cd d
  if x.vbegun then s
  else if x.vever && !(x.activeIf (fun k p => decide (k = x.vcycle) && decide (x.vphase < p))).isEmpty then
    (s.setCd d { x.snapshot with vphase := x.vphase + 1, vbegun := true }).resched d
  else
    let later := x.activeIf (fun k _ => !x.vever || decide (k ≠ x.vcycle))
    match (later.map (fun t => (x.task t).cycle)).min? with
    | none => s
    | some k =>
      if !x.gensDone then s
      else (s.setCd d { x.applyVpri.snapshot with vcycle := k, vphase := 0, vbegun := true, vever := true }).resched d

/-- VOTED_PHASE_BEGIN. -/
def execVotedPhaseBegin (die : CDie) (s : State) : Out :=
  s.updIf (s.dev.present die.idx) (fun d => if d.running die.idx then d.phaseBegin die.idx else d)

/-- VOTED_DISPATCH (R417): the highest-ranked activation of the phase to the lowest-numbered free core of 0-7. -/
def Dev.votedDispatch (s : Dev) (d : Nat) : Dev :=
  let x := s.cd d
  if !x.vbegun then s
  else
    let due := x.vready.filter (fun t => decide ((x.task t).cycle = x.vcycle) && decide ((x.task t).phase = x.vphase))
    match x.firstRank due, (List.range 8).find? (fun c => decide ((x.core c).task = none) && !(x.core c).halted) with
    | some t, some c => if x.dispatchHeld c t then s else (s.dispatch d c t).resched d
    | _, _ => s

/-- VOTED_DISPATCH. -/
def execVotedDispatch (die : CDie) (s : State) : Out :=
  s.updIf (s.dev.present die.idx) (fun d => if d.running die.idx then d.votedDispatch die.idx else d)


/-- DELAY_EXPIRY (R426): the first task of the delay list whose wake tick has come becomes ready. -/
def execDelayExpiry (die : CDie) (task : Fin 512) (s : State) : Out :=
  s.updIf (s.dev.present die.idx) (fun d =>
    let i := die.idx
    match (d.cd i).delays with
    | (w, t) :: rest =>
      if d.running i ∧ t = task.val ∧ w ≤ (d.cd i).ticks then
        (d.modCd i (fun x => { x with delays := rest }.wake t)).resched i
      else d
    | [] => d)

end Sys2Proof.Machine
end

