-- ==== Sys2Proof/Machine/Tick.lean ====
section
/-!
DEFINITION. What happens when no command waits: one nanosecond passes (log entry 2). The raw counters of the timekeeping
dies that run advance by one (R449), and so do the local counters of powered cells (R248). Everything else that time
brings about has a command of its own.
-/
namespace Sys2Proof.Machine

/-- One nanosecond. A packet that cut-through shows in part is then written whole (log entry 81). -/
def Dev.tick (s : Dev) : Dev :=
  let late := (List.range 64).filter (fun f =>
    let q := (s.rd (s.fifoRd f)).fifo (s.fifoLoc f)
    s.powered (4 + s.fifoRd f) && decide (q.visible < q.words.length))
  forAll late (s.elapse 1) Dev.fifoFinish

/-! ### Scheduler ticks (R427) -/

/-- A die's tick period in nanoseconds. -/
def Dev.tickPeriod (s : Dev) (d : Nat) : Nat := 100 * max 1 (min 10000 (s.fget (SCH_CFG_TICK d)))

/-- A die's ticks start one period from now (log entry 132). -/
def Dev.tickStart (s : Dev) (d : Nat) : Dev :=
  s.modCd d (fun x => { x with tickAt := s.sh.clk.raw + BitVec.ofNat 64 (s.tickPeriod d) })

/-- How long until a die's next tick event. -/
def Dev.tickIn (s : Dev) (d : Nat) : Nat := ((s.cd d).tickAt - s.sh.clk.raw).toInt.toNat

/-- A tick event reaches a running die that is due; the `TICK` now written gives the next one. -/
def Dev.tickDie (s : Dev) (d : Nat) : Dev :=
  if s.running d ∧ s.tickIn d = 0 then
    s.modCd d (fun x => { x with ticks := x.ticks + 1, tickAt := x.tickAt + BitVec.ofNat 64 (s.tickPeriod d) })
  else s

/-- TICK_EVENT: the next tick event of any running control die comes, on the raw counter. -/
def execTickEvent (s : State) : Out :=
  s.upd (fun d =>
    match (((List.range 4).filter d.running).map d.tickIn).min? with
    | some n => forAll (List.range 4) (d.elapse n) Dev.tickDie
    | none => d)

end Sys2Proof.Machine
end

