-- ==== Sys2Proof/Machine/Txn.lean ====
section
/-!
DEFINITION. Transactions at the ring dies, at the cores and in the host's slots (R54-R58, R393-R395, R512-R516, R647-R651).
-/
namespace Sys2Proof.Machine

/-! ### Ends and ports -/

/-- A ring end that this package holds: its ring die is powered and its port has block lock (R500). -/
def Dev.endUp (s : Dev) (r : Nat) (e : End) : Bool :=
  s.ownsEnd e && s.powered (4 + s.rdOfEnd r e) &&
    s.fbit (RDn_RP_STAT_LOCK (s.rdOfEnd r e) (s.portOfEnd r e))

/-- The ring die that issues the tags of requests to a cell (R58, R516). -/
def Dev.tagRd (s : Dev) (id : Nat) : Nat := s.rdOfEnd (id / 64) (s.txnEnd id)

/-- Tags of a ring die's pool (R58). -/
def Dev.tagPool (s : Dev) (n : Nat) : List Nat :=
  if Config.singleRd s.variant then List.range 1024
  else if n = 0 then List.range 512 else (List.range 512).map (fun i => 512 + i)

/-- The ring die whose pool holds a tag. -/
def Dev.rdOfTag (s : Dev) (tag : Nat) : Nat := if Config.singleRd s.variant then 0 else if tag < 512 then 0 else 1

/-- Tags not in use. A die without power has none (R54). -/
def Dev.freeTags (s : Dev) (n : Nat) : List Nat :=
  if s.powered (4 + n) then
    let used := (s.rd n).tags.map (fun e => e.1)
    (s.tagPool n).filter (fun t => decide (t ∉ used))
  else []

def RingDie.gen (x : RingDie) (tag : Nat) : Nat := Store.get (fun _ => 0) x.tagGen tag

/-! ### Issuing (R393, R513, R515, R516) -/

/-- Registers that only the ring die may address (R216, R515). -/
def protectedReg (o : Nat) : Bool :=
  decide (o ∈ [SRB_FOLD, SRB_KBASE, SRB_CYC, SRB_T0_ANCH, SRB_CYC_EFF, SRB_SLOT_TA, SRB_SLOT_TB, SRB_SLCV_THR, SRB_SLCV_CFG,
    SRB_LOCK])

/-- The cell is enumerated, not isolated, and present in the latest merged set (R76, R130). -/
def Dev.cellThere (s : Dev) (id : Nat) : Bool :=
  (s.placeOf id).isSome && s.live (id / 64) && decide (Store.get (fun _ => 0) s.sh.tly.isoMark id = 0) &&
    entPres (Store.get blkZero s.sh.tly.merged id)

/-- The request goes to package A over a direct link (R516). -/
def Dev.relays (s : Dev) (id : Nat) : Bool := !s.ownsEnd (s.txnEnd id)

/-- The refusal reasons of R393 that apply; `busy` is that of the requester. -/
def Dev.txnReasons (s : Dev) (busy : Bool) (id ofs : Nat) : List Nat :=
  let there := s.cellThere id
  let e := s.cend id
  (if there && (s.freeTags (s.tagRd id)).isEmpty then [1] else [])
    ++ (if there && !s.relays id && (e.wait || decide (e.credits = 0)) then [2] else [])
    ++ (if there then [] else [3])
    ++ (if protectedReg ofs then [4] else [])
    ++ (if ofs % 4 ≠ 0 then [5] else [])
    ++ (if busy then [6] else [])

/-- One of a list by a free value. -/
def Dev.pick (s : Dev) (l : List Nat) : Nat × Dev :=
  let (w, s) := s.free
  (l.getD (w.toNat % max l.length 1) 0, s)

/-- The characters of a twin frame (R335), each with the mark of a control character: the K28.5 comma, type, sequence and payload,
    and the CRC-32C over these three. -/
def twinFrame (ty : Byte) (seq : W16) (pl : Blk) : List (Bool × Byte) :=
  let body := ty :: (bytesOf seq.toNat 2 ++ bytesOf pl.toNat 64)
  (true, 0xBC) :: (body ++ bytesOf (crc32c body).toNat 4).map (fun b => (false, b))

/-- A frame sent now on a direct link that is up; its sequence is that of the latest cycle (log entry 124). -/
def Dev.sendTwin (s : Dev) (x : Nat) (ty : Byte) (pl : Blk) : Dev :=
  if x ∈ s.linksUp then s.emit (.twin x ty s.seq pl) else s

/-- A ring block's payload in a twin frame. -/
def twinPl (pl : Payload) : Blk := pl.setWidth 512

/-- A tag for a request sent now by ring die n (R58, R514). -/
def Dev.newTag (s : Dev) (n gen : Nat) (owner : TxnOwner) (req : Payload) (id : Nat) : Tag :=
  { gen := gen, owner := owner, req := req, ring := id / 64, pos := id % 64, toB := (s.cend id).endB, retries := 0
    sentAt := (s.rd n).raw, lastAt := (s.rd n).raw }

/-- Issues a request: the tag and its generation, or the reason of a refusal. Where several reasons apply, and which free tag is
    taken, the spec leaves open (log entry 4). A tag's generations count up from 1, and start over when the ring die is reset
    (log entry 116). -/
def Dev.issueTxn (s : Dev) (owner : TxnOwner) (busy : Bool) (id : Nat) (w : Bool) (ofs data : Nat) : (Nat ⊕ Nat × Nat) × Dev :=
  match s.txnReasons busy id ofs with
  | [] =>
    let n := s.tagRd id
    let (tag, s) := s.pick (s.freeTags n)
    let gen := ((s.rd n).gen tag + 1) % 16
    let pl := reqPayload id (b2n w) tag gen ofs data
    let (pl, s) := if s.relays id then (pl, s.sendTwin (s.linkOf (id / 64)) 3 (twinPl pl)) else s.sendReq id pl
    let t := s.newTag n gen owner pl id
    (.inr (tag, gen), s.modRd n (fun x => { x with
      tagGen := Store.set (fun _ => 0) x.tagGen tag gen, tags := Store.insert x.tags tag t }))
  | l =>
    let (why, s) := s.pick l
    (.inl why, s)

/-! ### Answers (R58, R394, R395, R650) -/

/-- What became of a request. -/
inductive TxnEnd where
  | answered (status : Nat) (data : W32)
  | timeout
  deriving DecidableEq, Repr

/-- The value TAGW returns (R394). -/
def TxnEnd.value : TxnEnd → W64
  | .answered st d => pack [(34, 1, b2n (decide (st ≠ 0))), (32, 1, 1), (0, 32, d.toNat)]
  | .timeout => pack [(33, 1, 1)]

/-- The outcome reaches a task: a TAGW that waits for it gets it, else the core holds it. -/
def Dev.taskAnswer (s : Dev) (d t tag gen : Nat) (e : TxnEnd) : Dev :=
  let k := (s.cd d).task t
  match k.txns.find? (fun q => decide (q.tag = tag) && decide (q.gen = gen) && q.done.isNone) with
  | none => s
  | some q =>
    let rest := k.txns.filter (fun r => decide (r ≠ q))
    if q.waits then
      (s.modCd d (fun x => (x.setTask t { k with txns := rest, deliver := [(k.waitReg.1, e.value)], wobj := 0 }).wake t)).resched d
    else s.modCd d (fun x => x.setTask t { k with txns := { q with done := some e.value } :: rest })

/-- A slot's result (R650). -/
def Dev.slotDone (s : Dev) (i st why data : Nat) : Dev :=
  (s.rset (GLB_TXS_RES i) (pack [(62, 1, 1), (59, 3, st), (56, 3, why), (0, 32, data)])).irq 43

def Dev.deliverTxn (s : Dev) (owner : TxnOwner) (tag gen : Nat) (e : TxnEnd) : Dev :=
  match owner with
  | .task d t => s.taskAnswer d.idx t tag gen e
  | .slot i => match e with
    | .answered st d => s.slotDone i (if st = 0 then 0 else 1) 0 d.toNat
    | .timeout => s.slotDone i 2 0 0
  | _ => s

def Dev.dropTag (s : Dev) (n tag : Nat) : Dev := s.modRd n (fun x => { x with tags := Store.erase x.tags tag })

/-- A write of `SRB_MISS_CFG` that the cell answers as done is recorded (R144). -/
def Dev.noteNmiss (s : Dev) (req pl : Payload) : Dev :=
  if bitOf (Pl.get req 3 8) 0 ∧ Pl.get req 6 16 = SRB_MISS_CFG ∧ Pl.get pl 3 3 = 0 ∧ Pl.get req 0 14 < 8448 then
    s.fset (SH_FOLD_MAP_NMISS (Pl.get req 0 14)) (max (bitsOf (Pl.get req 8 32) SRB_MISS_CFG_NMISS.lo SRB_MISS_CFG_NMISS.width) 2)
  else s

/-- Ticks of ring die n's timebase since the count given. -/
def Dev.rdSince (s : Dev) (n : Nat) (at_ : W64) : Nat := ((s.rd n).raw - at_).toNat

/-- A tag of ring die n expires (R58, R598). -/
def Dev.tagExpire (s : Dev) (n tag : Nat) (t : Tag) : Dev :=
  ((s.dropTag n tag).report .cont .txn t.ring 1 0).deliverTxn t.owner tag t.gen .timeout

/-- A response as ring die n receives it for tags of its own: up to the tick on which 100 µs have passed it is delivered; after
    that tick the tag has expired, and the response is late. -/
def Dev.rspOwn (s : Dev) (n r : Nat) (pl : Payload) : Dev :=
  let tag := Pl.get pl 4 10
  let gen := bitsOf (Pl.get pl 4 16) 10 4
  let late := fun (s : Dev) => s.finc (RDn_TXN_STAT_LATE n (s.ringIx r))
  match (s.rd n).tags.find? (fun e => decide (e.1 = tag) && decide (e.2.gen = gen)) with
  | some e =>
    if 100000 < s.rdSince n e.2.sentAt then late (s.tagExpire n tag e.2)
    else ((s.noteNmiss e.2.req pl).dropTag n tag).deliverTxn e.2.owner tag gen
      (.answered (Pl.get pl 3 3) (if bitOf (Pl.get e.2.req 3 8) 0 then 0 else BitVec.ofNat 32 (Pl.get pl 8 32)))
  | none => late s

/-- A response that arrives at an end. One to a relayed request goes back to package B (R516). -/
def Dev.rspIn (s : Dev) (n r : Nat) (pl : Payload) : Dev :=
  let id := Pl.get pl 0 14
  match (s.rd n).tags.find? (fun e => decide (1024 ≤ e.1) && decide (Pl.get e.2.req 0 14 = id) &&
      decide (Pl.get e.2.req 2 8 = Pl.get pl 2 8)) with
  | some e => ((s.noteNmiss e.2.req pl).dropTag n e.1).sendTwin (s.linkOf (id / 64)) 4 (twinPl pl)
  | none => s.rspOwn n r pl

/-- TXN_RSP at a ring end. -/
def execTxnRsp (r : Nat) (e : End) (b : Rcvd) (s : State) : Out :=
  s.updIf (s.dev.hasRing r) (fun d =>
    if !d.endUp r e then d
    else
      let d := d.endRx r e b.rx
      if b.rx.crcOk then d.rspIn (d.rdOfEnd r e) r b.pl else d)

/-- RELAYED_TXN_RSP: package B gets the response to a request of its own. -/
def execRelayedTxnRsp (link : Fin 2) (pl : Payload) (s : State) : Out :=
  s.upd (fun d =>
    let n := d.rdOfTag (Pl.get pl 4 10)
    if d.twin && d.powered (4 + n) && bitOf (d.fget SH_TWIN_STAT_LINKS) link.val then d.rspOwn n (Pl.get pl 0 14 / 64) pl else d)

/-- RELAYED_TXN_REQ: package A issues it under its own credits; one that finds no credit is not sent, and package B's tag expires
    (log entry 41). A retry of a request it has issued goes out again. -/
def Dev.relayReq (s : Dev) (pl : Payload) : Dev :=
  let id := Pl.get pl 0 14
  let n := s.tagRd id
  let key := 1024 + Pl.get pl 4 10
  let e := s.cend id
  if !s.powered (4 + n) then s
  else if bitOf (Pl.get pl 3 8) 1 then
    match (s.rd n).tags.find? (fun q => decide (q.1 = key) && decide (Pl.get q.2.req 4 16 = Pl.get pl 4 16)) with
    | some q => s.send (.ringEnd (id / 64) (s.txnEnd id)) 0x3 (Pl.put q.2.req 3 8 (Pl.get pl 3 8))
    | none => s
  else if !s.cellThere id || e.wait || decide (e.credits = 0) then s
  else
    let (q, s) := s.sendReq id pl
    let gen := bitsOf (Pl.get pl 4 16) 10 4
    let t := s.newTag n gen (.partner pl) q id
    s.modRd n (fun x => { x with tags := Store.insert x.tags key t })

def execRelayedTxnReq (link : Fin 2) (pl : Payload) (s : State) : Out :=
  s.upd (fun d =>
    if d.twin && d.ownsEnd .a && bitOf (d.fget SH_TWIN_STAT_LINKS) link.val && d.hasRing (Pl.get pl 0 14 / 64) then d.relayReq pl
    else d)

/-- TXN_RETRY: 30 µs after the latest send without a response, to which time comes (log entry 2); at most two retries (R514). -/
def Dev.txnRetry (s : Dev) (tag : Nat) : Dev :=
  let n := s.rdOfTag tag
  match (s.rd n).tags.find? (fun e => decide (e.1 = tag)) with
  | none => s
  | some e =>
    if 2 ≤ e.2.retries then s
    else
      let s := s.elapse (30000 - s.rdSince n e.2.lastAt)
      let pl := Pl.put e.2.req 3 8 (Pl.get e.2.req 3 8 % 2 + 2)
      let s := s.modRd n (fun x => { x with
        tags := Store.insert x.tags tag { e.2 with retries := e.2.retries + 1, lastAt := x.raw } })
      let s := (s.finc (RDn_TXN_STAT_RETRY n (s.ringIx e.2.ring))).report .corr .txn e.2.ring 0 0
      let at_ : End := if e.2.toB then .b else .a
      if s.ownsEnd at_ then s.send (.ringEnd e.2.ring at_) 0x3 pl else s.sendTwin (s.linkOf e.2.ring) 3 (twinPl pl)

def execTxnRetry (tag : Fin 1024) (s : State) : Out := s.upd (fun d => d.txnRetry tag.val)

/-- TAG_TIMEOUT: the tick on which 100 µs since the first send have passed has gone by without the response, which would win on
    it; time comes past it (R58; log entry 2). -/
def Dev.tagTimeout (s : Dev) (tag : Nat) : Dev :=
  let n := s.rdOfTag tag
  match (s.rd n).tags.find? (fun e => decide (e.1 = tag)) with
  | none => s
  | some e => (s.elapse (100001 - s.rdSince n e.2.sentAt)).tagExpire n tag e.2

def execTagTimeout (tag : Fin 1024) (s : State) : Out := s.upd (fun d => d.tagTimeout tag.val)

/-! ### Transaction slots (R647-R650) -/

/-- A write of `GLB_TXS_REQ`. -/
def Dev.slotGo (s : Dev) (i : Nat) (v : W64) : Dev :=
  let s := s.plainWrite (GLB_TXS_REQ i) v
  if !v.getLsbD 63 then s
  else if s.fbit (GLB_TXS_RES_BUSY i) then s.finc GLB_HOST_SLOTREF
  else
    let s := (s.fset (GLB_TXS_RES_DONE i) 0).fset (GLB_TXS_RES_BUSY i) 1
    let (r, s) := s.issueTxn (.slot i) false (s.fget (GLB_TXS_REQ_ID i)) (s.fbit (GLB_TXS_REQ_W i)) (s.fget (GLB_TXS_REQ_OFS i))
      (s.fget (GLB_TXS_DATA_D i))
    match r with
    | .inl why => s.slotDone i 3 why 0
    | .inr _ => s

/-- TRANSACTION_SLOT_GO: a write of slot i's request register. -/
def execTransactionSlotGo (i : Fin 64) (v : W64) (s : State) : Out := s.upd (fun d => d.slotGo i.val v)

/-! ### TXN and TAGW (R393-R395) -/

/-- TXN. A set bit among those that R393 states as zero is an operand out of range, cause 2. -/
def execTxn (r : CoreRef) (rd ra rb : Reg) (s : State) : Out :=
  let word := encR 0x23 rd ra rb 0 0
  s.onCore r (fun d => d.instr r word true .nonVoted (fun t d =>
    let i := r.die.idx
    let c := r.core.val
    let a := ((d.cd i).reg c t ra).toNat
    if 2 ^ 32 ≤ a ∨ bitOf a 15 then .trap d 2 (BitVec.ofNat 64 word)
    else
      let data := bitsOf ((d.cd i).reg c t rb).toNat 0 32
      let busy := decide (8 ≤ (((d.cd i).task t).txns.filter (fun q => q.done.isNone)).length)
      let (res, d) := d.issueTxn (.task r.die t) busy (bitsOf a 0 14) (bitOf a 14) (bitsOf a 16 16) data
      match res with
      | .inl why => .done (d.modCd i (fun x => x.setReg c t rd (pack [(63, 1, 1), (0, 3, why)])))
      | .inr (tag, gen) =>
        .done (d.modCd i (fun x => (x.setReg c t rd (pack [(0, 10, tag), (10, 4, gen)])).modTask t (fun k => { k with
          txns := { tag := tag, gen := gen, done := none, waits := false } :: k.txns.filter (fun q => decide (q.tag ≠ tag)) })))))

/-- TAGW. The object a waiting task reports is not stated for a tag: a free value. -/
def execTagw (r : CoreRef) (rd ra : Reg) (s : State) : Out :=
  s.onCore r (fun d => d.instr r (encR 0x23 rd ra noReg 1 0) true .nonVoted (fun t d =>
    let i := r.die.idx
    let c := r.core.val
    let a := ((d.cd i).reg c t ra).toNat
    let k := (d.cd i).task t
    let bad := fun (d : Dev) => Ires.done (d.modCd i (fun x => x.setReg c t rd (pack [(35, 1, 1)])))
    match k.txns.find? (fun q => decide (a = q.tag + 1024 * q.gen)) with
    | none => bad d
    | some q =>
      let rest := k.txns.filter (fun p => decide (p ≠ q))
      if (d.rd (d.rdOfTag q.tag)).gen q.tag ≠ q.gen then bad (d.modCd i (fun x => x.setTask t { k with txns := rest }))
      else match q.done with
      | some v => .done (d.modCd i (fun x => (x.setTask t { k with txns := rest }).setReg c t rd v))
      | none =>
        let (w, d) := d.free
        let d := (d.advance i t).modCd i (fun x => x.modTask t (fun k => { k with
          waitReg := (rd.code, 0), txns := { q with waits := true } :: rest }))
        .hold (d.waitOn i c t .waitTag (w.toNat % 512) id)))

end Sys2Proof.Machine
end

