-- ==== Sys2Proof/Machine/Hub.lean ====
section
/-!
DEFINITION. Streams: admission, default streams, suspension, grants, and what the ring dies and the host do with entries
(R534-R547, R551).
-/
namespace Sys2Proof.Machine

/-! ### Budgets (R542-R544) -/

/-- The sum of two fractions, in lowest terms. -/
def fracAdd (a b : Nat × Nat) : Nat × Nat :=
  let n := a.1 * b.2 + b.1 * a.2
  let d := a.2 * b.2
  let g := max (Nat.gcd n d) 1
  (n / g, d / g)

/-- A stream that runs: admitted and not suspended, with its index. -/
def Dev.running_ (s : Dev) : List (Nat × Stream) :=
  s.streams.filterMap (fun e => match e.2 with
    | some q => if q.susp then none else some (e.1, q)
    | none => none)

/-- The sum of e over streams. -/
def sumE (period : Nat) (l : List (Nat × Stream)) : Nat × Nat :=
  (l.map (fun e => streamE period (streamAin e.1) e.2)).foldl fracAdd (0, 1)

/-- Streams of cell `id`. -/
def ofCell (l : List (Nat × Stream)) (id : Nat) : List (Nat × Stream) :=
  l.filter (fun e => decide (e.1 < 67584) && decide (e.1 / 8 = id))

/-- The piggyback check: the sum of e over the cell's PIGGY streams is at most P. -/
def piggyOk (period : Nat) (l : List (Nat × Stream)) (id : Nat) : Bool :=
  let e := sumE period ((ofCell l id).filter (fun q => !q.2.grant))
  decide (e.1 * period ≤ 200000 * e.2)

/-- The least g16 of a cell, 0 to 64, that satisfies its check. -/
def leastG16 (period : Nat) (l : List (Nat × Stream)) (id : Nat) : Option Nat :=
  let e := sumE period (ofCell l id)
  (List.range 65).find? (fun g => decide (16 * e.1 * period ≤ e.2 * (3200000 + 300000 * g)))

/-- GB of a direction of ring r (R543): that of the stream from end A, or from end B. -/
def Dev.grantBudget (s : Dev) (r : Nat) (e : End) : Nat :=
  let asleep := s.fbit (s.rf (if e = .a then RDn_RING_STAT_SLPA else RDn_RING_STAT_SLPB) r)
  let b := 1000 * s.period / s.tblk r
  if asleep then 0 else 15 * (b - (s.ring r).cells.length - s.jOf r) / 16 - 10

/-- The sum of g16 over a ring's cells. -/
def Dev.g16Sum (s : Dev) (l : List (Nat × Stream)) (r : Nat) : Nat :=
  (s.ring r).cells.foldl (fun a e => a + (leastG16 s.period l (64 * r + e.1)).getD 64) 0

def Dev.ringGrantOk (s : Dev) (l : List (Nat × Stream)) (r : Nat) : Bool :=
  decide (s.g16Sum l r ≤ 16 * (s.grantBudget r .a + s.grantBudget r .b))

/-- The FIFO check. -/
def Dev.fifoOk (s : Dev) (l : List (Nat × Stream)) (f : Nat) : Bool :=
  let drain := s.fget (FIF_CFG_DRAIN (s.fifoRd f) (s.fifoLoc f))
  let e := sumE s.period (l.filter (fun q => decide (q.2.fifo = f)))
  decide (drain = 0xFFFFFF) || decide (3 * e.1 ≤ drain * e.2)

/-- The ring die shows a ring's grant budgets. -/
def Dev.showHub (s : Dev) (r : Nat) : Dev :=
  let s := s.rfset RDn_HUB_STAT_GBA r (min (s.grantBudget r .a) 0xFFFF)
  let s := s.rfset RDn_HUB_STAT_GBB r (min (s.grantBudget r .b) 0xFFFF)
  s.rfset RDn_HUB_STAT_G16SUM r (s.g16Sum s.running_ r)

/-! ### Admission (R541, R544, R545) -/

/-- The unit input exists: an enumerated version-2 cell's, or an AQ input. -/
def Dev.unitOk (s : Dev) (aq : Bool) (id inp : Nat) : Bool :=
  if aq then s.present 6 && decide (inp < 192)
  else decide (inp < 8) && s.live (id / 64) &&
    (s.ring (id / 64)).cells.any (fun e => decide (e.1 = id % 64) && e.2.v2)

/-- The first failing check of R544 for a stream at an index; 0 when it is admitted. -/
def Dev.admitReason (s : Dev) (aq : Bool) (id inp i : Nat) (q : Stream) : Nat :=
  let r := id / 64
  let l := (i, q) :: s.running_.filter (fun e => decide (e.1 ≠ i))
  if !s.unitOk aq id inp then 1
  else if q.mode = 0 ∨ q.d = 0 ∨ (!aq ∧ q.grant ∧ s.fget (s.rf RDn_RING_STAT_RVER r) ≠ 0x20) then 2
  else if !aq && !piggyOk s.period l id then 3
  else if !aq && (leastG16 s.period l id).isNone then 4
  else if !aq && !s.ringGrantOk l r then 5
  else if !s.fifoOk l q.fifo then 6
  else 0

/-- The settings of a stream written into its unit; the stream starts anew at the next t0. -/
def Dev.putStream (s : Dev) (aq : Bool) (id inp i : Nat) (q : Option Stream) : Dev :=
  let s := s.setStream i q
  if aq then s.modAq (fun x => x.setInput inp { x.input inp with started := false })
  else
    let s := match s.reach id, q with
      | some p, some q => s.ownWrite p (SRB_HUB_CFG inp)
          (BitVec.ofNat 32 (2 ^ 31 + b2n q.co * 2 ^ (SRB_HUB_CFG_CO inp).lo + b2n q.grant * 2 ^ (SRB_HUB_CFG_CLASS inp).lo
            + q.mode * 2 ^ (SRB_HUB_CFG_MODE inp).lo + q.d * 2 ^ (SRB_HUB_CFG_D inp).lo))
      | some p, none => s.ownWrite p (SRB_HUB_CFG inp) 0
      | none, _ => s
    s.showHub (id / 64)

/-- A write of `RDn_HUB_REQ`. A request is done before the next command. -/
def Dev.hubRequest (s : Dev) (n : Nat) (v : W64) : Dev :=
  let s := s.plainWrite (RDn_HUB_REQ n) v
  if !v.getLsbD 63 || !s.winUp (RDn_HUB_REQ n) || decide (n ≠ s.master) then s
  else
    let aq := s.fbit (RDn_HUB_REQ_AQ n)
    let id := s.fget (RDn_HUB_REQ_ID n)
    let inp := s.fget (RDn_HUB_REQ_INP n)
    let i := if aq then aqStreamIx inp else cellStreamIx id inp
    let q : Stream := { mode := s.fget (RDn_HUB_REQ_MODE n), d := s.fget (RDn_HUB_REQ_D n), co := s.fbit (RDn_HUB_REQ_CO n),
                        grant := s.fbit (RDn_HUB_REQ_CLASS n), fifo := s.fget (RDn_HUB_REQ_FIFO n), susp := false }
    let en := s.fbit (RDn_HUB_REQ_EN n)
    let named := if aq then decide (inp < 192) else decide (inp < 8) && decide (id < 8448)
    let why := if en then s.admitReason aq id inp i q else if named then 0 else 1
    let s := s.fset (RDn_HUB_RES_REASON n) why
    let s := if why ≠ 0 then s.finc (RDn_HUB_RES_REFCNT n)
      else s.putStream aq id inp i (if en then some q else none)
    if aq then s else s.fset (RDn_HUB_RES_G16 n) ((leastG16 s.period s.running_ id).getD 0)

/-- HUB_REQUEST. -/
def execHubRequest (rd : RDie) (v : W64) (s : State) : Out :=
  s.updIf (s.dev.present (4 + rd.idx)) (fun d => d.hubRequest rd.idx v)

/-- Default and restored streams of a cell that is enumerated (R535). A suspended one waits for a new request (R546). -/
def Dev.cellStreams (s : Dev) (id : Nat) : Dev :=
  match s.reach id with
  | none => s
  | some p =>
    forAll (List.range 8) s (fun s inp =>
      let i := cellStreamIx id inp
      match s.stream i with
      | some q => if q.susp then s else s.putStream false id inp i (some q)
      | none =>
        let q : Stream := { mode := 3, d := 1, co := true, grant := false, fifo := id / 64 % 16, susp := false }
        if (s.cell p).fbit (SRB_FE_CH_EN inp) && decide (s.mode = 0) && !s.fbit (RDn_HUB_CTL_NODEF s.master) &&
            decide (s.admitReason false id inp i q = 0) then s.putStream false id inp i (some q)
        else s)

/-! ### Suspension (R546) -/

/-- Some check that counts the stream fails. -/
def Dev.streamFails (s : Dev) (l : List (Nat × Stream)) (e : Nat × Stream) : Bool :=
  let id := e.1 / 8
  let r := id / 64
  !s.fifoOk l e.2.fifo ||
    (decide (e.1 < 67584) &&
      ((!e.2.grant && !piggyOk s.period l id) || (leastG16 s.period l id).isNone ||
        (decide ((leastG16 s.period l id).getD 0 ≠ 0) && !s.ringGrantOk l r)))

/-- Order of suspension: GRANT before PIGGY, each in descending cell ID and input; AQ streams last. -/
def suspendOrder (l : List (Nat × Stream)) : List (Nat × Stream) :=
  let down := (l.filter (fun e => decide (e.1 < 67584))).reverse
  down.filter (fun e => e.2.grant) ++ down.filter (fun e => !e.2.grant) ++ (l.filter (fun e => decide (67584 ≤ e.1))).reverse

/-- Suspends streams that failing checks count until every check passes. -/
def Dev.recheckLoop (s : Dev) : Nat → Dev
  | 0 => s
  | n + 1 =>
    let l := s.running_
    match (suspendOrder l).find? (s.streamFails l) with
    | none => s
    | some e =>
      let s := s.setStream e.1 (some { e.2 with susp := true })
      let s := if 67584 ≤ e.1 then s
        else match s.reach (e.1 / 8) with
        | some p => s.ownWrite p (SRB_HUB_CFG (e.1 % 8)) 0
        | none => s
      Dev.recheckLoop s n

/-- Every check repeated at the values in force. -/
def Dev.recheckStreams (s : Dev) : Dev :=
  let s := s.recheckLoop s.streams.length
  forAll s.liveRings s Dev.showHub

/-! ### Grants (R540) -/

/-- A stream reaches its far end whole: no break and no dark hop on the ring. -/
def Dev.wholeRing (s : Dev) (r : Nat) : Bool := (s.ring r).breaks.isEmpty && (s.ring r).dark.isNone

/-- Ends of a ring from which a grant can go. -/
def Dev.grantEnds (s : Dev) (r : Nat) : List End :=
  [End.a, End.b].filter (fun e => s.endUp r e && !s.fbit (s.rf (if e = .a then RDn_RING_STAT_SLPA else RDn_RING_STAT_SLPB) r))

/-- One granted block to a cell; which stream carries it is open. -/
def Dev.grantOne (s : Dev) (r id : Nat) : Dev :=
  match s.grantEnds r with
  | [] => s
  | es =>
    let (w, s) := s.free
    s.send (.ringEnd r (es.getD (w.toNat % es.length) .a)) 0x0 (Pl.mk [(0, 16, id + 0x8000)])

/-- The grants of this cycle. -/
def Dev.hubGrants (s : Dev) : Dev :=
  let j := s.sh.clk.cyc % 16
  let l := s.running_
  let cells := (l.filter (fun e => decide (e.1 < 67584))).map (fun e => e.1 / 8)
  forAll cells.eraseDups s (fun s id =>
    let g := (leastG16 s.period l id).getD 0
    if s.wholeRing (id / 64) && s.live (id / 64) then
      forAll (List.range ((j + 1) * g / 16 - j * g / 16)) s (fun s _ => s.grantOne (id / 64) id)
    else s)

/-- A running fetch gets one position a cycle on its ring, while the ring is whole and the record's FIFO has room (R540, R555,
    R564; log entry 49). -/
def Dev.recGrants (s : Dev) : Dev :=
  if s.recState ≠ 4 then s
  else
    let f := s.fget SH_REC_SRC_FIFO
    forAll s.sh.rcd.recPos s (fun s e =>
      if e.2 ≠ 0 ∧ 64 * e.1 + (e.2 - 1) ∉ s.sh.rcd.recSeen ∧ s.fifoTakes f 16 ∧ s.wholeRing e.1 ∧ s.live e.1 then
        s.grantOne e.1 (64 * e.1 + (e.2 - 1))
      else s)

/-! ### Entries and FIFOs -/


/-- HUB_BLOCK. -/
def execHubBlock (r : Nat) (e : End) (pl : Payload) (h : Rx) (s : State) : Out :=
  s.updIf (s.dev.hasRing r) (fun d =>
    let n := d.rdOfEnd r e
    if !d.endUp r e then d
    else
      let d := d.endRx r e h
      if h.crcOk then d.entriesIn n (Pl.get pl 0 14) [Pl.get pl 4 128, Pl.get pl 20 128, Pl.get pl 36 128]
      else d.finc (RDn_HUB_STAT_HUBCRC n (d.ringIx r)))

/-- A read of FIFO f's data port: up to m words, popped unless it is a peek (R551, R659). -/
def Dev.fifoRead (s : Dev) (f bytes : Nat) (peek : Bool) : List W64 × Dev :=
  let n := s.fifoRd f
  let i := s.fifoLoc f
  if !s.powered (4 + n) then (List.replicate (bytes / 8) 0, s)
  else if bytes % 8 ≠ 0 ∨ bytes = 0 ∨ 64 < bytes then
    (List.replicate (bytes / 8) 0, if peek then s else s.finc (FIF_STAT_BADRD n i))
  else
    let m := bytes / 8
    let s := if peek then s else s.fifoCheck f
    let q := (s.rd n).fifo i
    let w := q.words.take (min m q.visible)
    (w ++ List.replicate (m - w.length) 0,
      if peek then s
      else (s.modRd n (fun x => x.setFifo i { q with words := q.words.drop w.length, visible := q.visible - w.length })).fifoFinish f)

/-- FIFO_READ. -/
def execFifoRead (f : Fin 64) (bytes : Nat) (s : State) : Out :=
  s.upd (fun d =>
    let (l, d) := d.fifoRead f.val bytes false
    d.answer l)

end Sys2Proof.Machine
end

