-- ==== Sys2Proof/Machine/Modes.lean ====
section
/-!
DEFINITION. Operating modes (R573-R583): requests and their decision, RIDE-THROUGH and its causes, what a change of mode does,
and which of several transitions a t0 takes. Modes: 0 HUB, 1 COMMISSION, 2 PRECHARGE, 3 RUN, 4 RIDE-THROUGH, 5 BLOCK, 7 START.
-/
namespace Sys2Proof.Machine

/-! ### Forwarded writes (R339) -/

/-- The lowest direct link that is up, at the duty. -/
def Dev.forwardLink (s : Dev) : Option Nat := if s.role = 1 then s.linksUp.head? else none

/-- The duty forwards an accepted write, with the cycle from which both packages apply it; the frame's layout is the model's own
    (log entry 43). -/
def Dev.forward (s : Dev) (addr : Nat) (v : W64) (eff : Nat) : Dev :=
  match s.forwardLink with
  | some x => s.sendTwin x 6 (Blk.mk [(0, 64, addr), (8, 64, v.toNat), (16, 16, eff)])
  | none => s

/-! ### The auto-tune's timeout (R206) -/

/-- SH_AT_CFG.TMO milliseconds after the start of a test, where they lie ahead; then the test aborts. -/
def Dev.tuneTimeout (s : Dev) (i : Nat) : Dev :=
  match (s.cd i).tune with
  | some a => (s.elapse (a.since.toNat + 1000000 * s.fget SH_AT_CFG_TMO - s.sh.clk.raw.toNat)).tuneAbort i 2
  | none => s

/-- AUTOTUNE_TIMEOUT. -/
def execAutotuneTimeout (s : State) : Out := s.upd (fun d => forAll (List.range 4) d Dev.tuneTimeout)

/-! ### Sleeping streams (R520) -/

def endOther (e : End) : End := if e = .a then .b else .a

def slpCtl (e : End) : Nat → Nat → Field := if e = .a then RDn_RING_CTL_SLPA else RDn_RING_CTL_SLPB
def slpStat (e : End) : Nat → Nat → Field := if e = .a then RDn_RING_STAT_SLPA else RDn_RING_STAT_SLPB

/-- A TIME SLEEP or WAKE block naming end e, in 8 consecutive positions of the stream from end `src`. -/
def Dev.sendSleep (s : Dev) (r : Nat) (src e : End) (sub : Nat) : Dev :=
  if s.endUp r src then
    forAll (List.range 8) s (fun s _ =>
      s.send (.ringEnd r src) 0x7 (Pl.mk [(0, 8, sub + 64 * b2n (decide (e = .b)))]))
  else s

/-- The stream from end e is put to sleep. -/
def Dev.sleepStream (s : Dev) (r : Nat) (e : End) : Dev :=
  (((s.rfset (slpCtl e) r 1).sendSleep r e e 5).rfset (slpStat e) r 1).recheckStreams

/-- The stream from end e counts as awake again, once the far end receives it. -/
def Dev.awake (s : Dev) (r : Nat) (e : End) : Dev := (s.rfset (slpStat e) r 0).recheckStreams

/-- Wakes the stream from end e. -/
def Dev.wakeStream (s : Dev) (r : Nat) (e : End) : Dev :=
  let s := (s.rfset (slpCtl e) r 0).sendSleep r (endOther e) e 6
  if s.endUp r (endOther e) && s.fbit (s.rf (slpStat e) r) then s.awake r e else s

/-- A write that sets `SLPA` or `SLPB` : in HUB, on a ring of version 2.0 that is up; both are refused. -/
def Dev.sleepRequest (s : Dev) (r : Nat) (e : End) : Dev :=
  if s.fbit (s.rf (slpCtl e) r) then s
  else if s.mode ≠ 0 ∨ s.fget (s.rf RDn_RING_STAT_RVER r) ≠ 0x20 ∨ ¬ s.live r ∨ s.fbit (s.rf (slpCtl (endOther e)) r) then
    s.refuseWr (RDn_RING_CTL (s.ringRd r) (s.ringIx r))
  else s.sleepStream r e

/-- SLEEP_REQUEST. -/
def execSleepRequest (r : Nat) (e : End) (s : State) : Out := s.updIf (s.dev.hasRing r) (fun d => d.sleepRequest r e)

/-- WAKE_REQUEST: a write that clears the bit. -/
def execWakeRequest (r : Nat) (e : End) (s : State) : Out :=
  s.updIf (s.dev.hasRing r) (fun d => if d.fbit (d.rf (slpCtl e) r) then d.wakeStream r e else d)

/-- A ring stream sleeps. -/
def Dev.sleeping (s : Dev) : Bool :=
  (List.range s.ringCount).any (fun r => s.fbit (s.rf RDn_RING_STAT_SLPA r) || s.fbit (s.rf RDn_RING_STAT_SLPB r))

/-- Wakes every sleeping stream. -/
def Dev.wakeAll (s : Dev) : Dev :=
  forAll (List.range s.ringCount) s (fun s r =>
    forAll [End.a, End.b] s (fun s e => if s.fbit (s.rf (slpCtl e) r) then s.wakeStream r e else s))

/-! ### A change of mode (R574, R576, R580) -/

/-- `LOCK` set or cleared in every cell reached and in the AQ (R218, R301). -/
def Dev.lockAll (s : Dev) (b : Bool) : Dev :=
  let s := forAll s.enumerated s (fun s id =>
    match s.reach id with
    | some p => s.modCell p (fun c => c.act (fun c => c.setLock b))
    | none => s)
  if s.running 6 then s.fset AQ_STAT_LOCK (b2n b) else s

/-- Soft-start of every enabled generator of a die (R190). -/
def Dev.genInvAll (s : Dev) : Dev :=
  forAll (List.range 4) s (fun s d => if s.powered d then s.modCd d CtrlDie.genInv else s)

/-- The mode changes at this t0. -/
def Dev.setMode (s : Dev) (m : Nat) : Dev :=
  let old := s.mode
  let s := (s.fset SH_MODE_CUR m).fset SH_MODE_SEQ s.seq.toNat
  let s := if old = 1 ∧ m ≠ 1 then
      forAll (List.range 4) (s.lockAll true) (fun s d => s.tuneAbort d 1)
    else s
  let s := if m = 1 then (s.lockAll false).fset GLB_DBG_STRAP (b2n s.sh.pin.debugEn) else s
  let s := if m = 2 ∧ old ≠ 4 then s.genInvAll else s
  let s := if old = 5 ∧ m ≠ 5 then
      (((s.fset SH_VOTE_STAT_SPB 0).fset SH_VOTE_STAT_HCNT 0).md (fun x => { x with stileN := 0 })).vote
        (fun x => { x with safeSpb := false })
    else s
  let s := if m = 4 then s.fset SH_MODE_ORIG old else s
  let s := if m ≠ 4 then (s.fset SH_MODE_RTC 0).md (fun x => { x with rtStart := [] }) else s
  (s.info .mode m old 0).irq 35

/-! ### Requests (R575-R577, R581, R582) -/

/-- A refused request. -/
def Dev.refuseMode (s : Dev) (why : Nat) : Dev :=
  (((s.fset SH_MODE_REFD 1).fset SH_MODE_WHY why).finc SH_MODE_REFCNT).irq 36

/-- A transition of R576 that a request may take. -/
def requestable (old m : Nat) : Bool :=
  match m with
  | 0 => decide (old = 1) || decide (old = 5)
  | 1 => decide (old = 0) || decide (old = 5)
  | 2 => decide (old = 0) || decide (old = 1) || decide (old = 5)
  | 3 => decide (old = 2)
  | 5 => decide (old < 5)
  | _ => false

/-- Counting lanes that PRECHARGE and RUN need. -/
def Dev.lanesNeeded (s : Dev) : Nat :=
  match s.variant with
  | .chm8 => 2
  | .chm5 => 2
  | _ => 1

/-- A safety function acts, or SAFE_REQ_n is asserted. -/
def Dev.demand (s : Dev) : Bool := decide (s.sh.pin.safeReq ≠ 0) || decide (s.fget SH_SAFE_STAT_ACT ≠ 0)

/-- The reasons of R582 against a request; where several apply the spec does not say which is reported. -/
def Dev.modeReasons (s : Dev) (m : Nat) : List Nat :=
  let busy := if s.fbit SH_MODE_BUSY then [9] else []
  let stand := if s.standby then [0xB] else []
  let conv := decide (m = 2) || decide (m = 3)
  let c := fun (b : Bool) (n : Nat) => if b then [n] else []
  if requestable s.mode m then
    busy ++ stand
      ++ c ((conv || decide (m = 1)) && !s.fbit SH_BOOT_STAT_DONE) 2
      ++ c (decide (m = 1) && !s.sh.pin.debugEn) 3
      ++ c (conv && decide (s.counting.length < s.lanesNeeded)) 4
      ++ c (decide (m = 3) && !s.nv.confd) 5
      ++ c (conv && decide (bitsOf (s.fget SH_BOOT_STAT_FAIL) 8 2 ≠ 0)) 6
      ++ c (conv && s.demand) 7
      ++ c (decide (m = 2) && decide (s.mode = 5) && decide (s.sh.mode.agreed16 < 16)) 8
      ++ c (conv && (decide (s.variant = .chm2) || (List.range 4).all (fun d => (s.cd d).img.isNone))) 0xC
  else busy ++ stand ++ [1]

/-- A write of a mode code. -/
def Dev.modeRequest (s : Dev) (m : Nat) : Dev := s.md (fun x => { x with modeReqs := x.modeReqs ++ [m] })

/-- The shepherd decides one request. -/
def Dev.decideMode (s : Dev) (m : Nat) : Dev :=
  match s.modeReasons m with
  | [] =>
    let s := if s.mode = 0 then s.wakeAll else s
    (((s.fset SH_MODE_BUSY 1).fset SH_MODE_REFD 0).forward SH_MODE (BitVec.ofNat 64 m) (s.sh.clk.cyc + 1)).md
      (fun x => { x with modeAcc := some m })
  | l =>
    let (why, s) := s.pick l
    s.refuseMode why

/-- The shepherd decides the requests that wait, in their order. -/
def Dev.modeDecision (s : Dev) : Dev :=
  forAll s.sh.mode.modeReqs (s.md (fun x => { x with modeReqs := [] })) Dev.decideMode

/-- MODE_DECISION. -/
def execModeDecision (s : State) : Out := s.upd Dev.modeDecision

/-- REQUEST_HUB, REQUEST_PRECHARGE, REQUEST_RUN, REQUEST_BLOCK. -/
def execRequestHub (s : State) : Out := s.upd (fun d => d.modeRequest 0)
def execRequestPrecharge (s : State) : Out := s.upd (fun d => d.modeRequest 2)
def execRequestRun (s : State) : Out := s.upd (fun d => d.modeRequest 3)
def execRequestBlock (s : State) : Out := s.upd (fun d => d.modeRequest 5)

/-- REQUEST_COMMISSION, with the level at DEBUG_EN. -/
def execRequestCommission (debugEn : Bool) (s : State) : Out :=
  s.upd (fun d => (d.pin (fun x => { x with debugEn := debugEn })).modeRequest 1)

/-! ### RIDE-THROUGH (R578) -/

/-- An accepted `SH_MODE_CFG` applies. Outside PRECHARGE and RUN, `GRID` only records the bit. -/
def Dev.modeCfgSet (s : Dev) (v : W64) : Dev :=
  let on := v.getLsbD 0
  (s.plainWrite SH_MODE_CFG v).md (fun x =>
    { x with gridCause := (x.gridCause && on) || (on && (decide (s.mode = 2) || decide (s.mode = 3))) })

/-- Isolated cells that are not out of service stand on some ring. -/
def Dev.isoCause (s : Dev) : Bool :=
  (List.range s.ringCount).any (fun r => s.fbit (s.rf RDn_BRK_ISO r) &&
    (s.ring r).cells.any (fun e => (s.ring r).isolated e.2.place && !s.fbit (SH_FOLD_MAP_OOS (64 * r + e.1))))

/-- A cause stands or begins at this t0; `on` says whether it stood before. -/
def Dev.rtCause (s : Dev) (c : Nat) (on : Bool) : Bool :=
  match c with
  | 0 => (decide (s.variant = .chm8) || decide (s.variant = .chm5)) &&
      (if on then decide (s.counting.length < 2) else decide (s.counting.length = 1))
  | 1 => s.isoCause
  | _ => if on then s.fbit SH_MODE_CFG_GRID else s.sh.mode.gridCause

/-- The causes as they stand from this t0 on. -/
def Dev.rtCauses (s : Dev) : List Nat :=
  let rtc := if s.mode = 4 then s.fget SH_MODE_RTC else 0
  (List.range 3).filter (fun c => s.rtCause c (bitOf rtc c))

/-- The causes in force, each timer from the t0 at which its cause began. -/
def Dev.setCauses (s : Dev) (l : List Nat) : Dev :=
  let s := s.fset SH_MODE_RTC (l.foldl (fun a c => a + 2 ^ c) 0)
  s.md (fun x => { x with rtStart := l.foldl (fun m c =>
    Store.insert m c (match x.rtStart.find? (fun e => decide (e.1 = c)) with
      | some e => e.2
      | none => s.sh.clk.raw + 1)) [] })

/-- Limit of a cause, seconds. -/
def Dev.rtLimit (s : Dev) (c : Nat) : Nat :=
  let lim := fun (x : Nat) => min (max x 1) 60
  match c with
  | 0 => lim (s.fget SH_VOTE_CFG_SOLO)
  | 1 => lim (s.fget SH_MODE_CFG_RTISO)
  | _ => lim (s.fget SH_MODE_CFG_RTGRID)

/-- An automatic transition for the next t0, by its precedence in R579. -/
def Dev.autoMode (s : Dev) (prec : Nat) : Dev :=
  s.md (fun x => { x with modeNext := match x.modeNext with
    | some (p, t) => if prec < p then some (prec, 5) else some (p, t)
    | none => some (prec, 5) })

/-- RIDE_THROUGH_LIMIT. -/
def Dev.rtLimitHit (s : Dev) (c : Nat) : Dev :=
  match s.sh.mode.rtStart.find? (fun e => decide (e.1 = c)) with
  | some e =>
    if s.mode = 4 ∧ bitOf (s.fget SH_MODE_RTC) c ∧ e.2.toNat - 1 + s.rtLimit c * 1000000000 ≤ s.sh.clk.raw.toNat then
      (s.autoMode 3).vote (fun x => { x with soloSpb := x.soloSpb || decide (c = 0) })
    else s
  | none => s

def execRideThroughLimit (cause : Fin 3) (s : State) : Out := s.upd (fun d => d.rtLimitHit cause.val)

/-! ### What a t0 takes (R579) -/

/-- A transition other than a request: one that waits is superseded. In BLOCK the mode does not change again. -/
def Dev.autoChange (s : Dev) (m : Nat) : Dev :=
  let s := if s.sh.mode.modeAcc.isSome then (s.fset SH_MODE_BUSY 0).refuseMode 0xA else s
  let s := s.md (fun x => { x with modeAcc := none, wakePend := false })
  if s.mode = m then s else s.setMode m

/-- The safety function's, the stile's or a limit's transition applies in the present mode. -/
def autoOk (prec mode : Nat) : Bool :=
  match prec with
  | 1 => decide (mode ≠ 7)
  | 2 => decide (1 ≤ mode) && decide (mode ≤ 4)
  | _ => decide (mode = 4)

/-- `BLKC` of an automatic transition. -/
def blkcOf (prec : Nat) : Nat :=
  match prec with
  | 1 => 4
  | 2 => 2
  | _ => 3

/-- Mode changes at a t0. -/
def Dev.modeT0 (s : Dev) : Dev :=
  let auto := match s.sh.mode.modeNext with
    | some (p, _) => if autoOk p s.mode then some p else none
    | none => none
  let causes := s.rtCauses
  let s := s.md (fun x => { x with modeNext := none, gridCause := false })
  match auto with
  | some p => (s.fset SH_MODE_BLKC (blkcOf p)).autoChange 5
  | none =>
    if (s.mode = 2 ∨ s.mode = 3) ∧ causes ≠ [] then (s.autoChange 4).setCauses causes
    else if s.mode = 4 ∧ causes = [] then s.autoChange (s.fget SH_MODE_ORIG)
    else
      let s := if s.mode = 4 then s.setCauses causes else s
      match s.sh.mode.modeAcc with
      | none => s
      | some m =>
        if s.mode = 0 ∧ s.sleeping then s.md (fun x => { x with wakePend := true })
        else
          let s := (s.fset SH_MODE_BUSY 0).md (fun x => { x with modeAcc := none, wakePend := false })
          let s := if m = 5 then s.fset SH_MODE_BLKC 1 else s
          s.setMode m

end Sys2Proof.Machine
end

