-- ==== Sys2Proof/Machine/Clock.lean ====
section
/-!
DEFINITION. Station time (R449-R478): the grid of t0 instants, steps, the crook, the PTP engine, and wall time.
-/
namespace Sys2Proof.Machine

/-! ### The grid (R62, R63, R467, R468) -/

def oneSecond : Int := 1000000000

/-- The first multiple of p at or after x. -/
def alignUp (x p : Int) : Int := -((-x) / p) * p

/-- 1 s is a whole multiple of the period. -/
def wholeSecond (p : Int) : Bool := decide (oneSecond % p = 0)

/-- `PERIOD` in nanoseconds. -/
def Dev.periodNs (s : Dev) : Int := 10 * (max s.period 1 : Nat)

/-- Station time of the next t0, nanoseconds. Until the first, the grid lies on whole seconds where it can. After a new `PERIOD`
    that divides 1 s it is the first whole multiple a period or more later (log entry 129). -/
def Dev.nextT0 (s : Dev) : Int :=
  let p := s.periodNs
  let t : Int := s.sh.clk.t0.toNat
  if !s.sh.clk.gridOn then (if wholeSecond p then alignUp s.now.toNat p else s.now.toNat)
  else if s.sh.clk.realign && wholeSecond p then alignUp (t + p) p
  else t + p

/-- Cycle count of the next t0. -/
def Dev.nextCyc (s : Dev) : Nat := if s.sh.clk.gridOn then s.sh.clk.cyc + 1 else 0

/-- The master raw count at which station time reaches T ns. -/
def Dev.rawAt (s : Dev) (t : Int) : Int := -((s.sh.clk.ofs - t * 2 ^ 40) / (2 ^ 40 + s.rate))

/-- k_s of a step decided now: the first t0 at least 2 ms away, and later than that of every step that waits. -/
def Dev.stepCycle (s : Dev) : Nat :=
  let far : Int := s.now.toNat + 2000000
  let n := (-((s.nextT0 - far) / s.periodNs)).toNat
  s.sh.clk.steps.foldl (fun k e => max k (e.cycle + 1)) (s.nextCyc + n)

/-- Decides a step of Δ ns. -/
def Dev.decideStep (s : Dev) (delta : Int) (host : Bool) : Dev :=
  let k := s.stepCycle
  s.clk (fun x => { x with steps := x.steps ++ [{ delta := delta, cycle := k, host := host }] })

/-- Every timekeeping die adds Δ (R467). -/
def Dev.addOfs (s : Dev) (d : Int) : Dev :=
  let s := s.clk (fun x => { x with ofs := x.ofs + d })
  let s := (s.modRd 0 (fun x => { x with ofs := x.ofs + d })).modRd 1 (fun x => { x with ofs := x.ofs + d })
  { s with aq := { s.aq with ofs := s.aq.ofs + d } }

/-- A step takes effect at the t0 just passed (R467, R468): the t0's station time is Δ larger, and the grid's alignment moves. -/
def Dev.takeStep (s : Dev) (delta : Int) : Dev :=
  let s := s.addOfs (delta * 2 ^ 40)
  let s := { s with aq := s.aq.shift delta }
  let s := s.clk (fun x => { x with t0 := BitVec.ofInt 64 (x.t0.toNat + delta), stepTotal := x.stepTotal + delta })
  let g := if wholeSecond s.periodNs then ux 32 ((sx 32 (s.fget TIM_GRID_GOFS) + delta) % s.periodNs) else s.fget TIM_GRID_GOFS
  ((s.fset TIM_GRID_GOFS g).fwrap TIM_STAT_STEPCNT).irq 38

/-! ### RATE (R450-R452, R462) -/

def clampRate (x : Int) : Int := clampI x (-0x10000000) 0x10000000

/-- A new `RATE` with the offsets that keep every die's time continuous. -/
def Dev.setRate (s : Dev) (v : W32) : Dev :=
  let d := s.rate - sx 32 v.toNat
  let s := s.clk (fun x => { x with ofs := x.ofs + x.raw.toNat * d })
  let s := (s.modRd 0 (fun x => { x with ofs := x.ofs + x.raw.toNat * d })).modRd 1 (fun x => { x with ofs := x.ofs + x.raw.toNat * d })
  let s := { s with aq := { s.aq with ofs := s.aq.ofs + s.aq.raw.toNat * d } }
  s.fset TIM_RATE_RATE v.toNat

/-- RATE_CHANGE: the next raw microsecond boundary comes. -/
def Dev.rateChange (s : Dev) : Dev :=
  match s.sh.crk.ratePend with
  | none => s
  | some v => ((s.elapse ((1000 - s.sh.clk.raw.toNat % 1000) % 1000)).setRate v).crk (fun x => { x with ratePend := none })

def execRateChange (s : State) : Out := s.upd Dev.rateChange

/-! ### The crook (R461-R466, R472). States: 0 FREE, 1 ACQUIRE, 2 LOCKED, 3 HOLDOVER, 4 TWIN. -/

def Dev.crook (s : Dev) : Nat := s.fget TIM_STAT_STATE

def Dev.setCrook (s : Dev) (n : Nat) : Dev := if s.crook = n then s else (s.fset TIM_STAT_STATE n).irq 46

def Dev.rateLater (s : Dev) (v : Int) : Dev := s.crk (fun x => { x with ratePend := some (BitVec.ofInt 32 v) })

/-- A θ has been used. -/
def Dev.thetaUsed (s : Dev) : Dev := (s.crk (fun x => { x with crookRaw := s.sh.clk.raw })).fset TIM_JUMP_PEND 0

/-- PI update. -/
def Dev.piUpdate (s : Dev) (theta : Int) : Dev :=
  let i := clampRate (sx 32 (s.fget TIM_RATE_I) - s.fget TIM_SERVO_KI * theta)
  ((s.fset TIM_RATE_I (ux 32 i)).rateLater (clampRate (i - s.fget TIM_SERVO_KP * theta))).thetaUsed

/-- An offset refused (R463). -/
def Dev.refuseTheta (s : Dev) (theta : Int) : Dev :=
  let rise := !s.fbit TIM_JUMP_PEND
  let s := ((s.fset TIM_JUMP_OFS (ux 63 theta)).fset TIM_JUMP_PEND 1).finc TIM_STAT_JCNT
  let s := s.report .corr .crook 0 0 0
  if rise then s.irq 37 else s

/-- θ within `JUMPTH` (in 10 ns units). -/
def Dev.withinJump (s : Dev) (theta : Int) : Bool := decide (theta.natAbs ≤ 10 * s.fget TIM_SERVO_JUMPTH)

/-- The crook acts on θ. The step of ACQUIRE happens once per power-up (R464); later, ACQUIRE judges θ as FREE does
    (log entry 42). A θ in TWIN with duty locks the crook, which then judges it as any (R461). -/
def Dev.crookOffset (s : Dev) (theta : Int) : Dev :=
  let s := if s.crook = 4 then s.setCrook 2 else s
  if s.crook = 1 ∧ ¬ s.sh.crk.autoStep then
    (((s.decideStep (-theta) false).crk (fun x => { x with autoStep := true })).fset TIM_RATE_I 0).thetaUsed.setCrook 2
  else if s.withinJump theta then (s.piUpdate theta).setCrook 2
  else s.refuseTheta theta

/-- PTP_SYNC: the engine hands θ to the crook, unless the crook follows the twin partner. -/
def execPtpSync (theta : Int) (s : State) : Out :=
  s.upd (fun d => if d.fbit TIM_PTP_CFG_EN && d.sh.clk.started && !(decide (d.crook = 4) && !decide (d.role = 1)) then d.crookOffset theta else d)

/-- Holdover timeout in seconds. -/
def Dev.holdTo (s : Dev) : Nat := max (s.fget TIM_SERVO_HOLDTO) 1

/-- HOLDOVER_TIMEOUT: no θ used for `HOLDTO`; in TWIN only once the package has duty. -/
def execHoldoverTimeout (s : State) : Out :=
  s.upd (fun d =>
    if (d.crook = 2 ∨ (d.crook = 4 ∧ d.role = 1)) ∧
        d.sh.crk.crookRaw.toNat + d.holdTo * 1000000000 ≤ d.sh.clk.raw.toNat then
      (d.rateLater (sx 32 (d.fget TIM_RATE_I))).setCrook 3
    else d)

/-- ACQUIRE_TIMEOUT. -/
def execAcquireTimeout (s : State) : Out := s.upd (fun d => if d.crook = 1 then d.setCrook 0 else d)

/-- A write of `TIM_JUMP_CTL.ACCEPT` (R465). -/
def Dev.acceptJump (s : Dev) : Dev :=
  if s.fbit TIM_JUMP_PEND then
    (s.decideStep (-(sx 63 (s.fget TIM_JUMP_OFS))) true).thetaUsed.setCrook 2
  else s

/-- ACCEPT. -/
def execAccept (s : State) : Out := s.upd Dev.acceptJump

/-- A write of `TIM_JUMP_CTL.SET` (R466). -/
def Dev.hostStep (s : Dev) : Dev :=
  if s.crook = 4 then s.refuseWr TIM_JUMP_CTL else s.decideStep (sx 64 (s.fget TIM_SET_D)) true

/-- SET. -/
def execSet (s : State) : Out := s.upd Dev.hostStep

/-- A write of `TIM_WALL` (R478). -/
def Dev.wallWrite (s : Dev) (v : W64) : Dev := (s.rset TIM_WALL v).clk (fun x => { x with wallPend := some v })

/-- WALL_OFFSET_WRITE. -/
def execWallOffsetWrite (v : W64) (s : State) : Out := s.upd (fun d => d.wallWrite v)

/-! ### The PTP engine (R457) -/

/-- A message of the engine's domain on an enabled port is consumed. -/
def Dev.ptpTakes (s : Dev) (m : PtpMsg) : Bool :=
  let n := if m.port.val < 4 then 0 else 1
  s.fbit TIM_PTP_CFG_EN && decide (m.domain.toNat = s.fget TIM_PTP_CFG_DOMAIN) && bitOf (s.fget TIM_PTP_CFG_PORTS) m.port.val &&
    s.powered (4 + n)

/-- The best master heard on a list of ports, by the data set comparison; of equals the lowest port. -/
def bestMaster (heard : Store (Option Master)) : List Nat → Option (Nat × Master)
  | [] => none
  | p :: ps =>
    match Store.get (fun _ => none) heard p, bestMaster heard ps with
    | none, r => r
    | some m, none => some (p, m)
    | some m, some (q, b) => if Config.ptpBetter b.dataset m.dataset then some (q, b) else some (p, m)

/-- The engine selects among the masters heard on its enabled ports (R457; log entry 135). -/
def Dev.ptpSelect (s : Dev) : Dev :=
  let ports := (List.range 8).filter (fun p => bitOf (s.fget TIM_PTP_CFG_PORTS) p)
  match (if s.fbit TIM_PTP_CFG_EN then bestMaster s.sh.crk.ptpHeard ports else none) with
  | some (p, m) =>
    let s := (s.fset TIM_PTP_GM_ID m.gmId.toNat).fset TIM_PTP_STAT_PORT p
    (s.fset TIM_PTP_STAT_VALID 1).fset TIM_PTP_STAT_UTCOFS m.utcOfs.toNat
  | none => s.fset TIM_PTP_STAT_VALID 0

/-- An Announce on a port. -/
def Dev.ptpAnnounce (s : Dev) (m : PtpMsg) : Dev :=
  let a : Master := { dataset := m.dataset, gmId := m.gmId, utcOfs := m.utcOfs }
  (s.crk (fun x => { x with ptpHeard := Store.set (fun _ => none) x.ptpHeard m.port.val (some a) })).ptpSelect

/-- A write of `TIM_PTP_CFG`: masters of a port that is left, and of another domain, are forgotten, and so are all when the
    engine is disabled. -/
def Dev.ptpCfgWrite (s : Dev) (v : W64) : Dev :=
  let old := s.fget TIM_PTP_CFG_DOMAIN
  let s := s.plainWrite TIM_PTP_CFG v
  let keep := s.fbit TIM_PTP_CFG_EN && decide (s.fget TIM_PTP_CFG_DOMAIN = old)
  (s.crk (fun x => { x with
    ptpHeard := x.ptpHeard.filter (fun e => keep && bitOf (s.fget TIM_PTP_CFG_PORTS) e.1) })).ptpSelect

/-- A peer delay request: answered in one step or in two, where the engine uses peer delay. -/
def Dev.ptpAnswer (s : Dev) (p : Nat) : Dev :=
  if !s.fbit TIM_PTP_CFG_P2P then s
  else if s.fbit TIM_PTP_CFG_ONESTEP then s.emit (.pdelayResp p 0)
  else (s.emit (.pdelayResp p 1)).emit (.pdelayResp p 2)

/-- PTP_MESSAGE. A delay exchange counts on the port in use and of the mechanism selected. -/
def execPtpMessage (m : PtpMsg) (s : State) : Out :=
  s.upd (fun d =>
    if d.ptpTakes m then
      match m.kind with
      | .announce => d.ptpAnnounce m
      | .delay peer =>
        if d.fget TIM_PTP_STAT_PORT = m.port.val ∧ peer = d.fbit TIM_PTP_CFG_P2P then
          d.fset TIM_PTP_STAT_MPD m.meanPathDelay.toNat
        else d
      | .pdelayReq => d.ptpAnswer m.port.val
      | .other => d
    else d)

end Sys2Proof.Machine
end

