-- ==== Sys2Proof/Machine/Folds.lean ====
section
/-!
DEFINITION. The cycle settings, the fold configuration and the fold map as they come into force (R83, R84, R92, R93, R117-R122),
and the writes that both packages of a twin pair apply from one cycle (R339, R581).
-/
namespace Sys2Proof.Machine

/-! ### A ring's path (R84, R112) -/

/-- `GROW` of an admitted ring follows its need (R84). -/
def Dev.growCheck (s : Dev) (r : Nat) : Dev :=
  let f := s.rf RDn_RPATH_GROW r
  let ov := s.admitted r && decide (1000 * (s.apply : Int) - 1000 * s.stile < s.needOf r)
  if ov = s.fbit f then s
  else
    let s := s.rfset RDn_RPATH_GROW r (b2n ov)
    if ov then s.report .cont .ring r 1 0 else s

/-- A ring's registers and its need after a change. -/
def Dev.pathChange (s : Dev) (r : Nat) : Dev := (s.showPath r).growCheck r

/-! ### The fold map (R119, R121, R122) -/

/-- A cell's map entry in force: until its tally shows `PEN` = 0, its previous `FOLD` and `CONF`. -/
def Dev.mapEntry (s : Dev) (id : Nat) : W64 :=
  let cur := s.rget (SH_FOLD_MAP id)
  match s.sh.tly.foldPrev.find? (fun e => decide (e.1 = id)) with
  | some e => BitVec.ofNat 64 (putBits (putBits cur.toNat 0 4 (bitsOf e.2.toNat 0 4)) 8 1 (bitsOf e.2.toNat 8 1))
  | none => cur

/-- The ring die brings a cell's `PEN` to what R122 gives; it raises it only once a tally has shown 0. -/
def Dev.penWrite (s : Dev) (id : Nat) : Dev :=
  match s.reach id with
  | none => s
  | some p =>
    let c := s.cell p
    let want := s.fbit (SH_FOLD_MAP_CONF id) && !s.fbit (SH_FOLD_MAP_OOS id) && !s.fbit (s.rf RDn_RPATH_OVER (id / 64))
    let have_ := c.fbit SRB_FOLD_PEN
    if want = have_ ∨ c.v1 ∨ (want ∧ s.sh.tly.foldPrev.any (fun e => decide (e.1 = id))) then s
    else s.ownWrite p SRB_FOLD (orIn (c.rget SRB_FOLD) SRB_FOLD_PEN (b2n want))

/-- Cells mapped to fold f, enumerated or not: a cell not listed is mapped to no fold. -/
def Dev.mappedTo (s : Dev) (f : Nat) : Nat :=
  (s.regs.filter (fun e => decide (SH_FOLD_MAP 0 ≤ e.1) && decide (e.1 < SH_FOLD_MAP 8448) && decide (bitsOf e.2.toNat 0 4 = f))).length

/-- A fold must not stand enabled like this (R120). -/
def foldBad (cfg : W64) (mapped : Nat) : Bool :=
  cfg.getLsbD 63 && (decide (bitsOf cfg.toNat 0 32 = 0) || decide (1024 < mapped))

/-- The ring die rewrites the fold and key base of a cell whose map entry or whose fold's key base changes (R121). `old` is
    the entry as the lanes have it until the cell shows `PEN` = 0. The key base written into a cell that is mapped to no fold is
    0, the model's choice (log entry 128). -/
def Dev.refold (s : Dev) (id : Nat) (old : W64) : Dev :=
  let s := s.fset (SH_FOLD_MAP_CONF id) 0
  if (s.placeOf id).isNone ∨ ¬ s.live (id / 64) then s
  else
    let s := if s.sh.tly.foldPrev.any (fun e => decide (e.1 = id)) then s
      else s.tly (fun x => { x with foldPrev := Store.insert x.foldPrev id old })
    match s.reach id with
    | none => (s.tly (fun x => { x with foldFail := id :: x.foldFail.filter (fun i => decide (i ≠ id)) })).report .cont .cell id 20 0
    | some p =>
      let f := s.foldOf id
      let kb := if f < Config.nFolds then s.fget (SH_FOLD_CFG_KBASE f) else 0
      let s := (s.ownWrite p SRB_FOLD (BitVec.ofNat 32 f)).ownWrite p SRB_KBASE (BitVec.ofNat 32 kb)
      let s := s.tly (fun x => { x with foldFail := x.foldFail.filter (fun i => decide (i ≠ id)) })
      s.fset (SH_FOLD_MAP_CONF id) 1

/-- Cells that stand in the map with fold f. -/
def Dev.foldCells (s : Dev) (f : Nat) : List Nat := s.enumerated.filter (fun id => decide (s.foldOf id = f))

/-- An accepted `SH_FOLD_CFG` applies. -/
def Dev.foldCfgSet (s : Dev) (f : Nat) (v : W64) : Dev :=
  let v := v &&& 0xEF000000FFFFFFFF
  let re := decide (bitsOf v.toNat 0 32 ≠ s.fget (SH_FOLD_CFG_KBASE f))
  let s := s.rset (SH_FOLD_CFG f) v
  if re then forAll (s.foldCells f) s (fun s id => s.refold id (s.rget (SH_FOLD_MAP id))) else s

/-- An accepted `FOLD` applies. -/
def Dev.foldMapSet (s : Dev) (id fold : Nat) : Dev :=
  let old := s.rget (SH_FOLD_MAP id)
  if s.foldOf id = fold then s
  else
    let s := ((s.fset (SH_FOLD_MAP_FOLD id) fold).refold id old).twinShow
    if s.live (id / 64) then s.pathChange (id / 64) else s

/-- An accepted `OOS` applies: the cell's `PEN` follows. -/
def Dev.oosSet (s : Dev) (id : Nat) (oos : Bool) : Dev := (s.fset (SH_FOLD_MAP_OOS id) (b2n oos)).penWrite id

/-! ### Writes that a twin pair applies together (R339, R581) -/

/-- The index of address a in an array of n registers of 8 bytes at `base`. -/
def inArr (a base n : Nat) : Option Nat := if base ≤ a ∧ a < base + 8 * n then some ((a - base) / 8) else none

/-- An accepted write applies. -/
def Dev.applyWrite (s : Dev) (a : Nat) (v : W64) : Dev :=
  match inArr a (SH_FOLD_MAP 0) 8448, inArr a (SH_FOLD_CFG 0) 12 with
  | some id, _ => (s.foldMapSet id (bitsOf v.toNat 0 4)).oosSet id (v.getLsbD 4)
  | none, some f => s.foldCfgSet f v
  | none, none =>
    if a = SH_VOTE_CFG then s.plainWrite a v
    else if a = SH_MODE then s.md (fun x => { x with modeAcc := some (v.toNat % 16) })
    else if a = SH_MODE_CFG then s.modeCfgSet v
    else s

/-- The first cycle of what is accepted now: the next, or, where the write must reach the partner first, the one after it (log
    entry 125). -/
def Dev.effCycle (s : Dev) : Nat := s.nextCyc + b2n s.forwardLink.isSome

/-- An accepted write: it applies at once in a package that forwards it to none, else from one cycle in both. -/
def Dev.fwdWrite (s : Dev) (a : Nat) (v : W64) : Dev :=
  if s.forwardLink.isSome then
    let k := s.effCycle
    (s.forward a v k).tw (fun t => { t with fwd := t.fwd ++ [(k, a, v)] })
  else s.applyWrite a v

/-- What has been accepted for the cycle of the t0 just passed applies. -/
def Dev.fwdT0 (s : Dev) : Dev :=
  let (due, rest) := s.sh.tw.fwd.partition (fun e => decide (e.1 ≤ s.sh.clk.cyc))
  forAll due (s.tw (fun t => { t with fwd := rest })) (fun s e => s.applyWrite e.2.1 e.2.2)

/-- A register as it will stand once every accepted write has applied. -/
def Dev.settled (s : Dev) (a : Nat) : W64 :=
  match s.sh.tw.fwd.reverse.find? (fun e => decide (e.2.1 = a)) with
  | some e => e.2.2
  | none => s.rget a

/-- Cells that will then be mapped to fold f. -/
def Dev.settledMap (s : Dev) (f : Nat) : Nat :=
  (s.sh.tw.fwd.foldl (fun s e => s.rset e.2.1 e.2.2) s).mappedTo f

/-! ### Cycle settings come into force (R63, R93) -/

/-- `PERIOD` of settings, in nanoseconds. -/
def cfgPeriodNs (v : W64) : Int := 10 * (max (cfgPeriod v) 1 : Nat)

/-- Station time of a t0 of the grid that settings v lay from cycle `eff` on. Where the period divides 1 s, the first t0 after that
    cycle's is the first whole multiple of the period that lies a period or more later (log entry 129). -/
def Dev.effAnchor (s : Dev) (v : W64) (eff : Nat) : Int :=
  let p := cfgPeriodNs v
  let t := s.nextT0 + ((eff : Int) - s.nextCyc) * s.periodNs
  if wholeSecond p then alignUp (t + p) p else t

/-- Accepted settings wait for their cycle; the ring dies write the cells' slot instants for it. -/
def Dev.cfgAccept (s : Dev) (v : W64) (eff : Nat) : Dev :=
  let s := (s.fset TIM_CYC_STAT_PEND 1).clk (fun x => { x with cfgPend := some (v, eff) })
  forAll s.liveRings s (fun s r => s.writeSlots r v (s.effAnchor v eff).toNat (BitVec.ofNat 16 eff))

/-- The cycle from which slot instants written now hold: that of the settings that wait, or the next. -/
def Dev.slotsFrom (s : Dev) : Nat :=
  match s.sh.clk.cfgPend with
  | some e => e.2
  | none => s.nextCyc

/-- Slot instants of a ring that has changed: those of the settings that wait, or of those in force from the next cycle on. -/
def Dev.newSlots (s : Dev) (r : Nat) : Dev :=
  match s.sh.clk.cfgPend with
  | some (v, eff) => s.writeSlots r v (s.effAnchor v eff).toNat (BitVec.ofNat 16 eff)
  | none => s.writeSlots r s.sh.clk.cfgInForce s.nextT0.toNat (BitVec.ofNat 16 s.nextCyc)

/-- `PEND` falls at the duty once its partner's cycle shows that it has applied the settings too. -/
def Dev.pendEnd (s : Dev) : Dev :=
  match s.sh.tw.pendSeq with
  | none => s
  | some q =>
    let done := match s.sh.tw.partner with
      | some b => decide (0 ≤ seqDiff b.seq (BitVec.ofNat 16 q))
      | none => true
    if done || s.forwardLink.isNone then (s.fset TIM_CYC_STAT_PEND 0).tw (fun t => { t with pendSeq := none }) else s

/-- The pending settings take effect, once the t0 of their cycle has passed. -/
def Dev.cfgEffect (s : Dev) : Dev :=
  match s.sh.clk.cfgPend with
  | none => s
  | some (v, eff) =>
    if !s.sh.clk.gridOn || decide (s.sh.clk.cyc < eff) then s
    else
      let s := s.clk (fun x => { x with
        cfgInForce := v, cfgPend := none, realign := true
        recent := x.recent.map (fun c => if eff ≤ c.cycle then { c with cfg := v } else c) })
      let s := (((s.rset TIM_CYC_CFG v).fset TIM_GRID_GOFS 0).tw (fun t => { t with pendSeq := some eff })).pendEnd
      let s := if s.fbit TIM_CYC_MIN_VALID then s.setMins (s.minsOf s.minRings v) else s
      let s := forAll s.liveRings s Dev.pathChange
      (if s.running 6 then s.aqSuspend else s).recheckStreams

/-! ### Breaks and their repair (R519, R521) -/

def Dev.ringState (s : Dev) (r : Nat) : Nat := s.fget (s.rf RDn_RING_STAT_STATE r)

/-- Position of the cell at a place; 0x7F for none. -/
def Ring.posOf (x : Ring) (p : Option Nat) : Nat :=
  match p with
  | some p => match x.cells.find? (fun e => decide (e.2.place = p)) with
    | some e => e.1
    | none => 0x7F
  | none => 0x7F

/-- Isolated cells. -/
def Ring.isoCount (x : Ring) : Nat := (x.places.filter x.isolated).length

/-- What the registers show of a ring's breaks. The gap between two chains is none. -/
def Dev.showBreaks (s : Dev) (r : Nat) : Dev :=
  let x := s.ring r
  let ch := decide (s.ringState r = 5)
  let bs := x.breaks.filter (fun h => !(ch && decide (some h = x.dark)))
  let v := !bs.isEmpty
  let lo := bs.foldl min 64
  let hi := bs.foldl max 0
  let n := x.isoCount
  let more := decide (s.fget (s.rf RDn_BRK_NISO r) < n)
  let s := s.rfset RDn_BRK_V r (b2n v)
  let s := s.rfset RDn_BRK_LASTA r (if v then x.posOf (x.places.filter (fun p => decide (p < lo))).getLast? else 0x7F)
  let s := s.rfset RDn_BRK_FIRSTB r (if v then x.posOf (x.places.filter (fun p => decide (hi ≤ p))).head? else 0x7F)
  let s := (s.rfset RDn_BRK_ISO r (b2n (decide (n ≠ 0)))).rfset RDn_BRK_NISO r n
  let s := s.rfset RDn_RPATH_SPLIT r (b2n v)
  let test := s.sh.safe.testBad.any (fun e => decide (e.1 = r))
  let s := if !x.up || ch then s else s.rfset RDn_RING_STAT_STATE r (if v || test then 4 else 3)
  if more then s.report .cont .ring r 0 0 else s

/-- The ring with hop h joined again, at the delay measured: what lies beyond the hop keeps its distances from the other end. -/
def Dev.joined (s : Dev) (r h d : Nat) : Ring :=
  let x := s.ring r
  let rep := s.trep r
  let ps := x.places
  let near := (ps.filter (fun p => decide (p < h))).getLast?
  let far := (ps.filter (fun p => decide (h ≤ p))).head?
  let set := fun (m : Store Nat) (p v : Nat) => Store.set (fun _ => 0) m p v
  let a0 := match near with
    | some q => dly x.distA q + rep + d
    | none => d
  let b0 := match far with
    | some q => dly x.distB q + rep + d
    | none => d
  let bf := dly x.distB (far.getD 0)
  let af := dly x.distA (near.getD 0)
  let distA := ps.foldl (fun m p => if h ≤ p then set m p (a0 + bf - dly x.distB p) else m) x.distA
  let distB := ps.foldl (fun m p => if p < h then set m p (b0 + af - dly x.distA p) else m) x.distB
  let back := decide (x.dark = some h) || (decide (h = 0) && decide (x.dark = ps.head?))
  { x with cuts := x.cuts.filter (fun c => decide (c.1 ≠ h)), ready := Store.erase x.ready h, joining := none, distA := distA, distB := distB
           whole := x.whole || back }

/-- The cells beside a joined hop stop launching. -/
def Dev.stopLaunch (s : Dev) (r h : Nat) : Dev :=
  let ps := (s.ring r).places
  let stop := fun (s : Dev) (p : Option Nat) (y : CPort) =>
    match p with
    | some p => s.modCell (64 * r + p) (fun c => c.act (fun c => (c.fset (SRB_RP_STAT_LAUNCH y.idx) 0).setLine y none))
    | none => s
  stop (stop s ((ps.filter (fun p => decide (p < h))).getLast?) .u) ((ps.filter (fun p => decide (h ≤ p))).head?) .d

end Sys2Proof.Machine
end

