-- ==== Sys2Proof/Machine/Ledger.lean ====
section
/-!
DEFINITION. The interval ledger (R61, R478-R484, R486): intervals by wall time, the postings of energy, and their closing.
-/
namespace Sys2Proof.Machine

def Dev.ledg (s : Dev) (c : Nat) : LedgSt := if c = 0 then s.sh.ldg.ledg0 else s.sh.ldg.ledg1

def Dev.setLedg (s : Dev) (c : Nat) (x : LedgSt) : Dev :=
  s.ldg (fun l => if c = 0 then { l with ledg0 := x } else { l with ledg1 := x })

/-- Wall time of the latest t0, nanoseconds, signed. -/
def Dev.wallT0 (s : Dev) : Int := sx 64 (ux 64 ((s.sh.clk.t0.toNat : Int) + sx 64 s.sh.clk.wallInForce.toNat))

/-- L(w) for a length in minutes. -/
def labelOf (len : Nat) (w : Int) : Int :=
  let n : Int := max len 1 * 60000000000
  w / n * n

/-- Slot of an entry number. -/
def Dev.entryNo (s : Dev) (c : Nat) : Nat := s.fget (SH_LEDG_STAT_NEXT c)

/-- A field of word 5 of an entry. -/
def Dev.ledFlag (s : Dev) (f : Field) (b : Bool) : Dev := if b then s.fset f 1 else s

/-- A wall step noted in an entry. -/
def Dev.ledStep (s : Dev) (c i : Nat) (d : Int) : Dev :=
  s.fset (SH_LEDG_W4_STEP c i) (ux 64 (sx 64 (s.fget (SH_LEDG_W4_STEP c i)) + d))

/-- The raw time an entry has run up to the latest t0 (R483). -/
def Dev.ledDur (s : Dev) (c i : Nat) : Dev :=
  s.fset (SH_LEDG_W3_DUR c i) (s.sh.clk.t0raw.toNat - (s.ledg c).rawStart.toNat)

/-- An entry's eight words cleared. -/
def Dev.ledClear (s : Dev) (c i : Nat) : Dev :=
  forAll (List.range 8) s (fun s w => s.rset (SH_LEDG_W0 c i + 8 * w) 0)

/-- Opens entry n with a label. The oldest entry is overwritten as its place is taken (log entry 44). -/
def Dev.ledOpen (s : Dev) (c n : Nat) (w l : Int) : Dev :=
  let i := n % 32
  let old := (n + 65536 - 32) % 65536
  let used := decide (s.fget (SH_LEDG_W3_DUR c i) ≠ 0)
  let unread := decide (0 < sx 16 (ux 16 ((old : Int) - s.fget (SH_LEDG_ACK_ACK c))))
  let s := if used && unread then s.finc (SH_LEDG_STAT_LOST c) else s
  let s := (s.ledClear c i).fset (SH_LEDG_STAT_NEXT c) n
  let s := (s.fset (SH_LEDG_W0_LABEL c i) (ux 64 l)).fset (SH_LEDG_W5_NUM c i) n
  let top := sx 64 (s.fget (SH_LEDG_MAXLBL_L c))
  let s := s.ledFlag (SH_LEDG_W5_LATE c i) (decide (s.periodNs ≤ w - l))
  let s := s.ledFlag (SH_LEDG_W5_REPEAT c i) (decide (l ≤ top))
  let s := (s.fset (SH_LEDG_W5_OPEN c i) 1).fset (SH_LEDG_MAXLBL_L c) (ux 64 (max top l))
  s.setLedg c { s.ledg c with opened := true, rawStart := s.sh.clk.t0raw, first := s.sh.clk.cyc }

/-- A converter's ledger at a t0; D is the wall-time step that takes effect there (R481). -/
def Dev.ledgerT0 (s : Dev) (c : Nat) (d : Int) : Dev :=
  let w := s.wallT0
  let x := s.ledg c
  let n := s.entryNo c
  let i := n % 32
  let s := if !x.opened then
      let len := s.fget (if c = 0 then SH_LEDG_CFG_LEN0 else SH_LEDG_CFG_LEN1)
      (s.setLedg c { x with posted := s.sh.clk.cyc, len := len }).ledOpen c n w (labelOf len w)
    else
      let s := s.ledDur c i
      if ux 64 (labelOf x.len w) = s.fget (SH_LEDG_W0_LABEL c i) then
        if d = 0 then s else (s.ledStep c i d).fset (SH_LEDG_W5_STEPD c i) 1
      else
        let s := if d = 0 then s else (s.ledStep c i d).fset (SH_LEDG_W5_SHORT c i) 1
        let len := s.fget (if c = 0 then SH_LEDG_CFG_LEN0 else SH_LEDG_CFG_LEN1)
        let s := s.setLedg c { s.ledg c with len := len, closing := x.closing ++ [(s.sh.clk.cyc - 1, n)] }
        s.ledOpen c ((n + 1) % 65536) w (labelOf len w)
  s.ledFlag (SH_LEDG_W5_NOTIME c (s.entryNo c % 32)) (decide (s.crook = 0) || decide (s.crook = 3))

/-- The entry that cycle k belongs to (R480). -/
def Dev.entryOf (s : Dev) (c k : Nat) : Nat :=
  match (s.ledg c).closing.find? (fun e => decide (k ≤ e.1)) with
  | some e => e.2
  | none => s.entryNo c

def Dev.postedTo (s : Dev) (c k : Nat) : Dev := s.setLedg c { s.ledg c with posted := max (s.ledg c).posted (k + 1) }

/-- Energy in 2^-32 J as an entry holds it: `EJ` and `EFRAC`. -/
def Dev.addEnergy (s : Dev) (c i : Nat) (e : Int) : Dev :=
  let sum := sx 64 (s.fget (SH_LEDG_W1_EJ c i)) * 2 ^ 32 + s.fget (SH_LEDG_W2_EFRAC c i) + e
  (s.fset (SH_LEDG_W1_EJ c i) (ux 64 (sum / 2 ^ 32))).fset (SH_LEDG_W2_EFRAC c i) (ux 32 sum)

/-- The posting of cycle k is added to its interval. -/
def Dev.postEnergy (s : Dev) (c k : Nat) (slot : BitVec 96) : Dev :=
  let i := s.entryOf c k % 32
  let s := s.addEnergy c i (sx 64 slot.toNat * 2 ^ 32 + bitsOf slot.toNat 64 32)
  (s.finc (SH_LEDG_W5_NCYC c i)).postedTo c k

/-- A cycle that posts no energy: missed (R61), or posted by the twin partner (R345). -/
def Dev.noPosting (s : Dev) (c k : Nat) (partner : Bool) : Dev :=
  let i := s.entryOf c k % 32
  (if partner then s.fset (SH_LEDG_W5_PART c i) 1 else s.finc (SH_LEDG_W2_MISSED c i)).postedTo c k

/-- The latest voted posting of a converter, unless it is in (R309, R345). -/
def Dev.energyPosting (s : Dev) (c : Nat) : Dev :=
  match s.sh.vote.agreedDrove with
  | some g =>
    let k := g.cycle
    if s.sh.vote.agreedMirror && decide ((s.ledg c).posted ≤ k) && (s.ledg c).opened then
      s.postEnergy c k (Store.get (fun _ => 0) g.energy c)
    else s
  | none => s

/-- ENERGY_POSTING. -/
def execEnergyPosting (conv : Fin 2) (s : State) : Out := s.upd (fun d => d.energyPosting conv.val)

/-- INTERVAL_CLOSE: the oldest interval whose last posting is in. -/
def Dev.intervalClose (s : Dev) (c : Nat) : Dev :=
  match (s.ledg c).closing with
  | [] => s
  | e :: rest =>
    if e.1 < (s.ledg c).posted then
      ((s.fset (SH_LEDG_W5_OPEN c (e.2 % 32)) 0).setLedg c { s.ledg c with closing := rest }).irq 40
    else s

def execIntervalClose (conv : Fin 2) (s : State) : Out := s.upd (fun d => d.intervalClose conv.val)

/-- Interval lengths that are accepted (R479). -/
def ledgerLen (n : Nat) : Bool := decide (n ≠ 0 ∧ 60 % n = 0)

/-- A write of `SH_LEDG_CFG`: both lengths are accepted, or the write is refused. -/
def Dev.ledgerLengthWrite (s : Dev) (v : W64) : Dev :=
  if ledgerLen (bitsOf v.toNat 0 8) && ledgerLen (bitsOf v.toNat 8 8) then s.plainWrite SH_LEDG_CFG v else s.refuseWr SH_LEDG_CFG

/-- LEDGER_LENGTH_WRITE. -/
def execLedgerLengthWrite (v : W64) (s : State) : Out := s.upd (fun d => d.ledgerLengthWrite v)

end Sys2Proof.Machine
end

