-- ==== Sys2Proof/Machine/Cycle.lean ====
section
/-!
DEFINITION. The station cycle up to the compute window (R31-R33, R62-R76, R94-R97, R121, R122, R129, R130, R382-R384): t0, the
tallies on their way to the ring ends, tally close, and the delivery of the merged set to the control dies.
-/
namespace Sys2Proof.Machine

/-! ### t0 -/

/-- The master counter runs and t0 instants occur (R53). -/
def Dev.clockRuns (s : Dev) : Bool := s.sh.clk.started && s.sh.pin.refclk && !s.sh.clk.inReset

/-- Station time comes to an instant that lies ahead (log entry 2). -/
def Dev.comeTo (s : Dev) (t : Int) : Dev := s.elapse (s.rawAt t - s.sh.clk.raw.toNat).toNat

/-- An offset from t0, in 10 ns units, comes: of the cycle for which it falls between the latest t0 and the next. -/
def Dev.comeOfs (s : Dev) (ofs : Nat) : Dev := s.comeTo (s.sh.clk.t0.toNat + 10 * (ofs % max s.period 1))

/-- That cycle, unless an offset longer than the grid has run for asks for one before the first. -/
def Dev.ofsCycle (s : Dev) (ofs : Nat) : Option CycRec :=
  s.sh.clk.recent.find? (fun c => decide (c.cycle + ofs / max s.period 1 = s.sh.clk.cyc))

/-- This package sends its own droves of cycle k as duty (R331, R341). -/
def Dev.ownDroves (s : Dev) (k : Nat) : Bool :=
  !s.twin || (decide (s.role = 1) && s.sh.pin.rfLevel && s.sh.pin.hurdleIn && decide (s.sh.tw.dutyFrom ≤ k))

/-- The droves that the cells get before cycle k are the partner's: those of the cycle before it (R338, R342). -/
def Dev.follows (s : Dev) (k : Nat) : Bool := s.twin && !s.ownDroves (k - 1)

/-- Steps of station time and of wall time at the t0 just passed (R467, R478, R481): the station step, and the wall-time step
    they make together. -/
def Dev.stepsT0 (s : Dev) : Int × Int × Dev :=
  let (due, rest) := s.sh.clk.steps.partition (fun e => decide (e.cycle = s.sh.clk.cyc))
  let s := s.clk (fun x => { x with steps := rest })
  let d := due.foldl (fun a e => a + e.delta) 0
  let s := if due.isEmpty then s else s.takeStep d
  match s.sh.clk.wallPend with
  | none => (d, d, s)
  | some v => (d, d + (v - s.sh.clk.wallInForce).toInt, s.clk (fun x => { x with wallPend := none, wallInForce := v }))

/-- The tally master of the cycle (R31, R51, R601): it changes only when its ring die is lost and the other is healthy. -/
def Dev.masterT0 (s : Dev) : Dev :=
  if !Config.singleRd s.variant && !s.powered (4 + s.master) && s.powered (5 - s.master) then
    s.tly (fun x => { x with masterB := !x.masterB })
  else s

/-- A new cycle is recorded; what belongs to cycles long past is dropped. -/
def Dev.noteT0 (s : Dev) (step : Int) : Dev :=
  let k := s.sh.clk.cyc
  let r : CycRec :=
    { cycle := k, t0 := s.sh.clk.t0, cfg := s.sh.clk.cfgInForce, mode := s.mode, rtc := s.fget SH_MODE_RTC, step := step
      dig := 0, tok := 0, aq := [] }
  let aq := if s.running 6 then s.aq.sample else []
  let old := s.sh.clk.recent.map (fun c => if c.cycle + 1 = k then { c with aq := aq } else c)
  let s := s.clk (fun x => { x with recent := (r :: old).take 8 })
  let s := s.vote (fun x => { x with voteImg := x.voteImg.filter (fun p => decide (k < p.2.cycle + 8)) })
  s.tw (fun x => { x with relayed := x.relayed.filter (fun e => decide (seqDiff s.seq (BitVec.ofNat 16 (Pl.get e.2 2 16)) < 8)) })

/-- HURDLE_OUT of a twin pair: refreshed at every t0 (R332). -/
def Dev.hurdleT0 (s : Dev) : Dev :=
  if s.twin then (s.pin (fun x => { x with hurdleOut := s.ownDroves s.sh.clk.cyc })).tw (fun x => { x with refreshed := true }) else s

/-- A trigger by `FIRE` fires at the first t0 after the write (R561). -/
def Dev.fireT0 (s : Dev) : Dev :=
  if s.sh.rcd.recFirePend then (s.recLearn (ts32 s.sh.clk.t0.toNat) 4).rcd (fun x => { x with recFirePend := false }) else s

/-- A committed safety store becomes the working copy from the next cycle (R629). -/
def Dev.safeT0 (s : Dev) : Dev :=
  match s.sh.safe.safeNext with
  | some w => s.safe (fun x => { x with safeWork := w, safeNext := none })
  | none => s

/-! ### Transaction ends and repairs (R56, R57, R521) -/

/-- The cell is fed from end B only, by way of its streams and the ring ends in service (R52, R56, R516). -/
def Dev.fedB (s : Dev) (id place : Nat) : Bool :=
  let x := s.ring (id / 64)
  let live := fun (e : End) => x.fromEnd place e && x.toEnd place e && (!s.ownsEnd e || s.endUp (id / 64) e)
  live .b && !live .a

/-- The transaction end of a cell follows its feed; the new end waits for the cell's first tally (R57). -/
def Dev.turnEnd (s : Dev) (id place : Nat) : Dev :=
  let b := s.fedB id place
  let x := s.cend id
  if b = x.endB then s else s.setCend id { x with endB := b, wait := true }

/-- A ring's transaction ends follow its breaks. -/
def Dev.turnEnds (s : Dev) (r : Nat) : Dev :=
  forAll (s.ring r).cells s (fun s e => s.turnEnd (64 * r + e.1) e.2.place)

/-- At t0 of the cycle for which a repair wrote its slot instants, the launching cells stop and the hop joins (R521). -/
def Dev.joinRing (s : Dev) (r : Nat) : Dev :=
  match (s.ring r).joining with
  | none => s
  | some (h, d, eff) =>
    if s.sh.clk.cyc < eff then s
    else
      let s := ((s.setRing r (s.joined r h d)).stopLaunch r h).pathChange r
      ((s.showBreaks r).turnEnds r).recheckStreams

def Dev.joinT0 (s : Dev) : Dev := forAll s.liveRings s Dev.joinRing

/-- The t0 of the next cycle. Settings whose t0 has passed are in force before it (log entry 125). -/
def Dev.sampleInstant (s : Dev) : Dev :=
  if !s.clockRuns then s
  else
    let s := s.cfgEffect
    let t := s.nextT0
    let k := s.nextCyc
    let s := s.comeTo t
    let s := s.clk (fun x => { x with cyc := k, t0 := BitVec.ofInt 64 t, t0raw := x.raw, gridOn := true, realign := false })
    let s := s.fset TIM_CYC_STAT_SEQ (k % 65536)
    let (sd, d, s) := s.stepsT0
    let s := (s.masterT0.offT0.hurdleT0.fwdT0.joinT0).modeT0.noteT0 sd
    let s := (s.ledgerT0 0 d).ledgerT0 1 d
    let s := if s.running 6 then s.aqT0 k else s
    s.safeT0.fireT0.hubGrants.recGrants

/-- SAMPLE_INSTANT. -/
def execSampleInstant (s : State) : Out := s.upd Dev.sampleInstant

/-! ### Tallies on their way (R70, R71, R74, R75) -/

/-- A copy that is discarded counts at its end, in the ring die that holds the end (R113). -/
def Dev.lateTally (s : Dev) (r : Nat) (e : End) : Dev :=
  let n := s.rdOfEnd r e
  s.finc (if e = .a then RDn_RLATE_LATE_A n (s.ringIx r) else RDn_RLATE_LATE_B n (s.ringIx r))

/-- The stream that carries tallies toward an end is awake (R520). -/
def Dev.carries (s : Dev) (r : Nat) (toward : End) : Bool := !s.fbit (s.rf (slpStat (endOther toward)) r)

/-- The sequence of a cycle that is being assembled: its t0 has been, its tally close has not. -/
def Dev.openSeq (s : Dev) (q : W16) : Bool :=
  s.sh.clk.recent.any (fun c => decide (s.sh.tly.closed ≤ c.cycle) && decide (BitVec.ofNat 16 c.cycle = q))

/-- What becomes of a tally that a cell has sent toward an end. -/
def Dev.tallyArrives (s : Dev) (p : Place) (e : End) (fate : Fate) (pl : Payload) : Dev :=
  let r := p / 64
  if s.endUp r e && (s.ring r).toEnd (p % 64) e then
    match fate with
    | .good =>
      if s.openSeq (BitVec.ofNat 16 (Pl.get pl 2 16)) then s.tly (fun x => { x with copies := { place := p, endB := decide (e = .b), pl := pl } :: x.copies })
      else s.lateTally r e
    | .crcBad => s.portCrc (s.rdOfEnd r e) (s.portOfEnd r e)
    | .late => s.lateTally r e
    | .lost => s
  else s

/-- The slot instant of a cell toward end B, or end A, comes: its offset from the latest t0, as far as it goes beyond whole
    periods (R66, R70; log entry 2). -/
def Dev.slotCome (s : Dev) (p : Place) (towardB : Bool) : Dev :=
  let c := s.cell p
  match (if c.powered && c.tm.everTime then c.slotOf towardB else none) with
  | some i => s.cellCome p (c.tm.t0 + ceilDiv (i % (1000 * max c.period 1)) 100)
  | none => s

/-- TALLY_INSERT: the cell's slot instant comes; it sends each tally once toward each end. -/
def execTallyInsert (p : Place) (toward : End) (b : TallySlot) (s : State) : Out :=
  s.updIf (s.dev.hasPlace p) (fun d =>
    let towardB := decide (toward = .b)
    let d := d.slotCome p towardB
    let x : CPort := if towardB then .u else .d
    match (if d.carries (p / 64) toward && b.rx.crcOk then (d.cell p).tallyDue towardB else none) with
    | some t =>
      ((d.modCell p (fun c => (c.rxCount x b.rx).sendTally towardB t)).emit (.repeated p x.other b.rx.bseq 0x2 t.pl)).tallyArrives p
        toward b.fate t.pl
    | none => d.modCell p (fun c => if c.hears x then c.rxCount x b.rx else c))

/-! ### Tally close (R32, R56, R57, R76, R130) -/

/-- The copies of a cell's tally: that of end A, and that of end B. -/
def Dev.copiesOf (s : Dev) (k id : Nat) : Option Payload × Option Payload :=
  let mine := s.sh.tly.copies.filter (fun c => decide (Pl.get c.pl 0 14 = id) && decide (c.place / 64 = id / 64) &&
    decide (Pl.get c.pl 2 16 = k % 65536))
  ((mine.find? (fun c => !c.endB)).map (fun c => c.pl), (mine.find? (fun c => c.endB)).map (fun c => c.pl))

/-- A cell's entry: tally bytes 0-59, then the status of R384. -/
def cellEntry (a b : Option Payload) (isol ov : Bool) : Blk :=
  let kept : Nat := ((a.orElse (fun _ => b)).getD 0).toNat
  let both := a.isSome && b.isSome
  BitVec.ofNat 512 (kept + (b2n ov * 2 ^ 26 + b2n (both && decide (a ≠ b)) * 2 ^ 27 + b2n both * 2 ^ 28
    + b2n (a.isNone && b.isSome) * 2 ^ 29 + b2n isol * 2 ^ 30 + b2n (a.isSome || b.isSome) * 2 ^ 31) * 2 ^ 480)

/-- The recount of R56 from a tally. A new transaction end has sent nothing: it goes on from the number the tally names (R57). -/
def CellEnd.recount (x : CellEnd) (pl : Payload) : CellEnd :=
  let cred := Pl.get pl 18 16
  let x := if x.wait then { x with rseq := BitVec.ofNat 8 (bitsOf cred 3 8) } else x
  let since := (x.rseq.toNat + 256 - bitsOf cred 3 8) % 256
  { x with credits := bitsOf cred 0 3 - since, wait := false }

/-- `SERR` magnitude, `FCLK` and `HOLDOV` of the set (R476, R485). -/
def Dev.alignStat (s : Dev) (l : List Blk) : Dev :=
  let mags := l.map (fun b => (sx 32 (Blk.get b 20 32)).natAbs)
  let n := fun (i : Nat) => (l.filter (fun b => bitOf (Blk.get b 56 32) i)).length
  ((s.fset TIM_ALIGN_SERRMAX (mags.foldl max 0)).fset TIM_ALIGN_NFCLK (n 19)).fset TIM_ALIGN_NHOLD (n 20)

/-- A fold is blocked by what the stile sends: it is not enabled, or its drove carries `BLK` or `SPB`. -/
def Dev.foldBlocked (s : Dev) (f : Nat) : Bool :=
  !s.fbit (SH_FOLD_CFG_EN f) || decide (s.sh.vote.substitute = 2) ||
    (match s.sh.vote.agreedDrove with
      | some g => decide (Pl.get (Store.get (fun _ => 0) g.droves f) 1 8 &&& 0x11 ≠ 0)
      | none => false)

/-- What the shepherd reads from a cell's tally of faults (R598): a missed drove, and conditions that have begun since its
    last tally. The reference flag stands beside the alarms, in their bit 31. The alarm that a version-1 cell of a blocked fold
    raises is recorded and is no fault (R155). -/
def Dev.cellFaults (s : Dev) (id : Nat) (b : Blk) : Dev :=
  let st := entState b
  let alarm := Blk.get b 56 32 % 2 ^ 31 + b2n (bitOf st 7) * 2 ^ 31
  let old := (Store.get (fun _ => 0) s.sh.tly.alarmPrev id).toNat
  let bound := s.fbit (SH_FOLD_MAP_V1 id) && s.foldBlocked (s.foldOf id)
  let rose := fun (i : Nat) => bitOf alarm i && !bitOf old i && !(bound && Config.v1Alarm.getLsbD i)
  let s := s.tly (fun x => { x with alarmPrev := Store.set (fun _ => 0) x.alarmPrev id (BitVec.ofNat 32 alarm) })
  let s := if bitOf st 9 then s.report .corr .cell id 0 0 else s
  let s := forAll [0, 1, 2, 3, 4, 9, 10, 11, 12, 13] s (fun s i => if rose i then s.report .cont .cell id (1 + i) 0 else s)
  forAll [23, 24, 25, 31] s (fun s i => if rose i then s.report .cont .input (192 + id) i 0 else s)

/-- A cell's own trigger, heard of once (R561, R562); the ring die reads its instant. -/
def Dev.cellTrigger (s : Dev) (id : Nat) (b : Blk) : Dev :=
  if s.fbit SH_REC_SRC_CELL ∧ bitOf (Blk.get b 18 16) 12 ∧ id ∉ s.sh.rcd.recHeard ∧ (s.recState = 1 ∨ s.recState = 2 ∨ s.recState = 3 ∨ s.recState = 4) then
    let t := match s.placeOf id with
      | some p => (s.cell p).rget SRB_REC_TTRIG
      | none => 0
    (s.recLearn t 1).rcd (fun x => { x with recHeard := id :: x.recHeard })
  else s

/-- One cell at the tally close of cycle k. -/
def Dev.closeCell (s : Dev) (k id place : Nat) : Dev :=
  let (a, b) := s.copiesOf k id
  let x := s.ring (id / 64)
  let isol := x.isolated place
  let mark := Store.get (fun _ => 0) s.sh.tly.isoMark id
  let mark := if !isol then 0 else if mark = 0 then k + 1 else mark
  let ent := cellEntry a b isol (s.fbit (s.rf RDn_RPATH_OVER (id / 64)))
  let s := s.tly (fun t => { t with
    isoMark := Store.set (fun _ => 0) t.isoMark id mark
    merged := Store.insert t.merged id ent })
  let s := s.turnEnd id place
  let s := match (if (s.cend id).endB then b else a) with
    | some pl => s.setCend id ((s.cend id).recount pl)
    | none => s
  if !entPres ent then s
  else
    let s := match a, b with
      | some p, some q => if p = q then s else s.report .corr .tally id 0 0
      | _, _ => s
    let s := s.entriesIn s.master id [Blk.get ent 24 128, Blk.get ent 40 128]
    (s.cellFaults id ent).cellTrigger id ent

/-- Enumerated cells on live rings, in ascending cell ID, with their places (R129, R304). -/
def Dev.roll (s : Dev) : List (Nat × Nat) :=
  s.enumerated.map (fun id => (id, ((s.placeOf id).getD 0) % 64))

/-- `IDIG` of a set (R304). -/
def setDigest (cells : Store Blk) (aq : Option (Store W64)) : W32 :=
  crc32c (cells.flatMap (fun e => bytesOf e.1 2 ++ bytesOf e.2.toNat 64) ++
    (match aq with
      | some m => (List.range 48).flatMap (fun v => bytesOf (Store.get (fun _ => 0) m v).toNat 8)
      | none => []))

/-- The tally master stops accepting copies of a cycle and merges what it has. -/
def Dev.closeCycle (s : Dev) (r : CycRec) : Dev :=
  let k := r.cycle
  let s := s.tly (fun x => { x with closed := k + 1, merged := [] })
  let s := forAll s.roll s (fun s e => s.closeCell k e.1 e.2)
  let aq := if k = s.sh.clk.cyc then (if s.running 6 then s.aq.sample else []) else r.aq
  let s := s.tly (fun x => { x with
    mergedAq := aq, copies := x.copies.filter (fun c => s.openSeq (BitVec.ofNat 16 (Pl.get c.pl 2 16))) })
  let s := s.alignStat ((s.sh.tly.merged.map (fun e => e.2)).filter entPres)
  let dig := setDigest s.sh.tly.merged (if s.present 6 then some aq else none)
  s.clk (fun x => { x with recent := x.recent.map (fun c => if c.cycle = k then { c with dig := dig } else c) })

/-- The cycle whose tally close is due is closed, once. -/
def Dev.tallyClose (s : Dev) : Dev :=
  match s.ofsCycle s.tclose with
  | some c =>
    if !s.clockRuns || decide (c.cycle < s.sh.tly.closed) || !s.running (4 + s.master) then s
    else (s.comeOfs s.tclose).closeCycle c
  | none => s

/-- TALLY_CLOSE. -/
def execTallyClose (s : State) : Out := s.upd Dev.tallyClose

/-! ### The fold map as the lanes see it (R119, R121, R122) -/

/-- The map at a delivery. -/
def Dev.mapDeliver (s : Dev) : Dev :=
  let shown := fun (id : Nat) => match s.sh.tly.merged.find? (fun e => decide (e.1 = id)) with
    | some e => entPres e.2 && !bitOf (entState e.2) 13
    | none => true
  let s := s.tly (fun x => { x with foldPrev := x.foldPrev.filter (fun e => !shown e.1) })
  forAll s.enumerated s (fun s id => s.penWrite id)

/-! ### Delivery (R33, R167, R199, R382, R389, R414, R416, R574) -/

/-- 8-byte words of a block. -/
def Blk.words (b : Blk) : List W64 := (List.range 8).map (fun w => BitVec.ofNat 64 (bitsOf b.toNat (64 * w) 64))

/-- A committed mirror is loaded: its MST blocks and header where the image wants them, its engine blocks into the engine. -/
def CtrlDie.loadMirror (x : CtrlDie) (l : List Blk) : CtrlDie :=
  match l with
  | [] => x
  | hd :: rest =>
    let n := Blk.get hd 4 16
    let base := match x.img with
      | some i => i.mirbase.toNat
      | none => 0
    let x := if base = 0 then x
      else (x.pokeWords 16 (base + 64) ((rest.drop n).flatMap Blk.words)).pokeWords 16 base (Blk.words hd)
    (rest.take n).foldl CtrlDie.loadBlock x

/-- The mirror age grows in a cycle without a commit, and a pending mirror is loaded, but not by a lane that has come to count
    meanwhile (R317). A committed twin mirror is loaded by every lane (R338). -/
def Dev.mirrorDeliver (s : Dev) (twin : Option (List Blk)) (d : Nat) : Dev :=
  let s := match (s.cd d).mirPend with
    | none => s.finc (SH_LANE_STAT_MAGE d)
    | some l => s.modCd d (fun x =>
        let x := { x with mirPend := none }
        if s.lane d = 4 then x else x.loadMirror l)
  match (if s.running d then twin else none) with
  | some l => s.modCd d (fun x => x.loadMirror l)
  | none => s

/-- A skipped activation (R416): the task's count saturates. -/
def Dev.skipped (s : Dev) (d t : Nat) : Dev :=
  let s := s.modCd d (fun x => x.modTask t (fun y => { y with ovr := BitVec.ofNat 32 (min (y.ovr.toNat + 1) 0xFFFFFFFF) }))
  (s.finc (SCH_STAT_OVRCNT d)).report .corr .sched (512 * d + t) 0 0

/-- An activation of cycle k that no core has taken: begun by a tally delivery, and READY ever since or halted so. -/
def Task.undispatched (y : Task) : Bool :=
  y.cb && !y.begun && (decide (y.state = .ready) || (decide (y.state = .halted) && decide (y.hstate = .ready)))

/-- A voted task still at work: on a core, or READY again after a wait. -/
def Task.votedRuns (y : Task) : Bool :=
  decide (y.part = 0) && (decide (y.state = .running) || decide (y.state = .waitLock) || decide (y.state = .ready))

/-- What the delivery of cycle k does to a task whose cycle lies two back (R382): an activation never dispatched counts as ended and
    skipped; a voted task still running is stopped with cause 0xB. -/
def Dev.overrun (s : Dev) (d k t : Nat) : Dev :=
  let y := (s.cd d).task t
  if k < y.cycle + 2 then s
  else if y.undispatched then
    (s.modCd d (fun x => ({ x with
      ready := x.ready.filter (fun u => decide (u ≠ t)), vready := x.vready.filter (fun u => decide (u ≠ t)) }).modTask t (fun (y : Task) =>
        if y.state = TState.halted then { y with hstate := .waitCyc } else { y with state := .waitCyc }))).skipped d t
  else if y.votedRuns then s.killTask d t 0xB
  else s

/-- A cycle-bound task at the delivery of cycle k. -/
def Dev.cycleTask (s : Dev) (d k t : Nat) : Dev :=
  let y := (s.cd d).task t
  if y.state = .free ∨ ¬ y.cb ∨ k % (y.cdiv + 1) ≠ y.cph then s
  else if y.state = .waitCyc then s.modCd d (fun x => x.activate t k)
  else s.skipped d t

/-- What the select unit takes from a set: the states last reported, and the isolated cells (R143). -/
def CtrlDie.noteSet (x : CtrlDie) (e : TallySet) (iso : Store Nat) : CtrlDie :=
  { x with
    iso := iso
    lastIns := e.cells.foldl (fun m c => if entPres c.2 then Store.set (fun _ => 0) m c.1 (entState c.2 % 8 + 1) else m) x.lastIns
    tallies := (e :: x.tallies).take 2
    images := x.images.filter (fun g => decide (e.cycle < g.cycle + 2))
    prevExpl := x.staging, staging := []
    sel := x.sel.map (fun q => (q.1, { q.2 with staged := [] }))
    gensDone := true }

/-- `CDx_MODE` of the cycle. -/
def Dev.modeEntry (s : Dev) (d : Nat) (c : CycRec) : Dev :=
  let p := c.cycle % 2
  (((s.fset (CDx_MODE_SEQ d p) (c.cycle % 65536)).fset (CDx_MODE_RTC d p) c.rtc).fset (CDx_MODE_ROLE d p) s.role).fset
    (CDx_MODE_MODE d p) c.mode

/-- Modes in which the generators step. -/
def gensStep (mode : Nat) : Bool := decide (1 ≤ mode) && decide (mode ≤ 4)

/-- The set reaches control die d, which has power (R33). A die whose image is not loaded yet runs no tasks. -/
def Dev.deliverTo (s : Dev) (e : TallySet) (c : CycRec) (twin : Option (List Blk)) (d : Nat) : Dev :=
  let s := s.fset (LE_STAT_KICKED d) 0
  let s := (s.mirrorDeliver twin d).leDeliver d e.cycle
  let s := if gensStep c.mode then s.modCd d CtrlDie.genSteps else s
  let s := (s.modCd d (fun x => x.noteSet e s.sh.tly.isoMark)).modeEntry d c
  if !s.running d then s
  else
    let ts := Store.keys (s.cd d).tasks
    let s := forAll ts s (fun s t => s.overrun d e.cycle t)
    let s := forAll ts s (fun s t => s.cycleTask d e.cycle t)
    s.resched d

/-- The twin mirror of the cycle before k, if it has come whole: its first TWM blocks, fewer where the mirror is shorter. -/
def Dev.twinMirror (s : Dev) (k : Nat) : Option (List Blk) :=
  let m := s.sh.tw.twMirror
  match m with
  | (0, hd) :: _ =>
    let n := min s.twm (Blk.get hd 2 16 + 1)
    let l := (List.range n).filterMap (fun i => (m.find? (fun e => decide (e.1 = i))).map (fun e => e.2))
    if n ≠ 0 ∧ l.length = n ∧ s.sh.tw.twSeq.toNat = (k + 65535) % 65536 then some l else none
  | _ => none

/-- A duty begins on an old twin mirror: every enabled generator soft-starts (R190). -/
def Dev.softDuty (s : Dev) : Dev := if 4 < s.fget SH_TWIN_STAT_TMAGE then s.genInvAll else s

/-- At the delivery of cycle k the twin mirror is committed whole, or its age grows (R338); the first cycle of a duty then shows
    whether the generators soft-start (log entry 127). -/
def Dev.twinCommit (s : Dev) (k : Nat) : Option (List Blk) × Dev :=
  if !s.follows k then (none, s)
  else
    let l := s.twinMirror k
    let s := s.tw (fun x => { x with twMirror := [] })
    let s := if l.isSome then s.fset SH_TWIN_STAT_TMAGE 0 else s.finc SH_TWIN_STAT_TMAGE
    (l, if s.ownDroves k then s.softDuty else s)

/-- The token of a cycle goes to the ring dies (R333). -/
def Dev.handTokens (s : Dev) (k : Nat) : Dev :=
  forAll [0, 1] s (fun s n => if s.running (4 + n) then s.modRd n (fun x => { x with tok := some k }) else s)

/-- The merged set of a cycle, as delivered. -/
def Dev.tallySetOf (s : Dev) (c : CycRec) : TallySet :=
  { cycle := c.cycle, t0 := c.t0, period := cfgPeriod c.cfg, apply := cfgApply c.cfg, stile := cfgStile c.cfg
    map := s.sh.tly.merged.map (fun e => (e.1, s.mapEntry e.1))
    cells := s.sh.tly.merged, aq := s.sh.tly.mergedAq, idig := c.dig
    folds := (List.range 12).map (fun f => s.rget (SH_FOLD_CFG f)) }

/-- The delivery of the set closed last. -/
def Dev.tallyDelivery (s : Dev) : Dev :=
  match s.sh.clk.recent.find? (fun c => decide (c.cycle + 1 = s.sh.tly.closed)) with
  | some c =>
    if c.cycle < s.sh.tly.delivered then s
    else
      let s := s.tly (fun x => { x with delivered := c.cycle + 1 })
      let (twin, s) := s.mapDeliver.twinCommit c.cycle
      let e := s.tallySetOf c
      let s := forAll (List.range 4) s (fun s d => if s.powered d then s.deliverTo e c twin d else s)
      let busy := (List.range 4).any (fun d => (s.cd d).leReq.isSome)
      (if busy then s else s.fset SH_LE_PARAM_BUSY 0).handTokens c.cycle
  | none => s

/-- TALLY_DELIVERY. -/
def execTallyDelivery (s : State) : Out := s.upd Dev.tallyDelivery

end Sys2Proof.Machine
end

