-- ==== Sys2Proof/Machine/CycleInstr.lean ====
section
/-!
DEFINITION. The cycle instructions TLD, DST, MST and STILE (R383-R391), and the vote image they fill (R302, R303, R318,
R319).
-/
namespace Sys2Proof.Machine

/-! ### TLD (R383) -/

/-- 64-bit word w of an entry. -/
def entWord (b : Blk) (w : Nat) : W64 := BitVec.ofNat 64 (bitsOf b.toNat (64 * w) 64)

/-- The value of a TLD. -/
def TallySet.tld (e : TallySet) (a k : Nat) : W64 :=
  if a < 0x4000 then entWord (e.entry a) k
  else if a < 0x4030 then Store.get (fun _ => 0) e.aq (a - 0x4000)
  else if a = 0x7FFF then BitVec.ofNat 64 (e.idig.toNat + (e.cycle % 65536) * 2 ^ 32)
  else 0

/-- TLD: a `k6` above the range of its row, and a non-zero ra [63:16], raise cause 2. -/
def execTld (r : CoreRef) (rd ra : Reg) (k : BitVec 6) (s : State) : Out :=
  let word := encR 0x22 rd ra noReg 0 k.toNat
  s.onCore r (fun d => d.instr r word true .both (fun t d =>
    let i := r.die.idx
    let a := ((d.cd i).reg r.core.val t ra).toNat
    if 0x10000 ≤ a ∨ (if a < 0x4000 then 7 else 0) < k.toNat then .trap d 2 (BitVec.ofNat 64 word)
    else
      let (v, d) := match (d.cd i).setOf ((d.cd i).task t).cycle with
        | some e => (e.tld a k.toNat, d)
        | none => d.free
      .done (d.modCd i (fun x => x.setReg r.core.val t rd v))))

/-! ### DST (R386) -/

/-- Rings with version-1 members. -/
def TallySet.v1Ring (e : TallySet) (r : Nat) : Bool :=
  e.map.any (fun m => mapV1 m.2 && decide (m.1 / 64 = r) && decide (bitsOf m.2.toNat 0 4 < 12))

/-- Bytes DST copies from memory: `none` for a slot code that stores nothing. -/
def dstBytes (e : TallySet) (code : Nat) : Option Nat :=
  let i := code % 4096
  match code / 4096 with
  | 0 => if i < 12 then some 60 else none
  | 1 => if e.v1Ring i then some 60 else none
  | 2 => if i < 2 then some 12 else none
  | 3 => if e.v1Ring i then some 0 else none
  | _ => none

/-- The explicit slot of ring r from the staging block, with its ring, sequence and apply time filled in. -/
def CtrlDie.stagedSlot (x : CtrlDie) (e : TallySet) (r : Nat) : Payload :=
  Pl.put (Pl.put (Pl.put (x.stage r) 0 8 r) 2 16 (e.cycle % 65536)) 4 32 e.tApply

/-- Stores a block into an image. -/
def CtrlDie.dst (x : CtrlDie) (e : TallySet) (code : Nat) (l : List Byte) : CtrlDie :=
  let g := x.image e.cycle
  let i := code % 4096
  x.setImage (match code / 4096 with
    | 0 => { g with droves := Store.set plZero g.droves i (BitVec.ofNat 480 (numOf l)), dvalid := g.dvalid ||| BitVec.ofNat 12 (2 ^ i) }
    | 1 => { g with expl := Store.set plZero g.expl i (BitVec.ofNat 480 (numOf l)) }
    | 2 => { g with energy := Store.set (fun _ => 0) g.energy i (BitVec.ofNat 96 (numOf l)) }
    | _ => { g with expl := Store.set plZero g.expl i (x.stagedSlot e i) })

/-- A block operand read after its checks: the bytes, or the cause and w2 of the trap. -/
def Dev.blockRead (s : Dev) (d t a n : Nat) : Dev × (Nat × W64 ⊕ List Byte) :=
  match s.blockCheck d t false a n with
  | some cause => (s, .inl (cause, BitVec.ofNat 64 a))
  | none =>
    match s.eccRead d a n with
    | none => (s.eccFail d a, .inl (6, 0))
    | some s => (s, .inr ((s.cd d).blockBytes a n))

/-- DST: a refused block is not read. -/
def execDst (r : CoreRef) (rd ra rb : Reg) (s : State) : Out :=
  let word := encR 0x22 rd ra rb 1 0
  s.onCore r (fun d => d.instr r word true .voted (fun t d =>
    let i := r.die.idx
    let c := r.core.val
    let code := ((d.cd i).reg c t ra).toNat
    let src := ((d.cd i).reg c t rb).toNat
    let put := fun (d : Dev) (v : W64) => Ires.done (d.modCd i (fun x => x.setReg c t rd v))
    if 0x10000 ≤ code then .trap d 2 (BitVec.ofNat 64 word)
    else
      let (e, d) := d.theSet i ((d.cd i).task t).cycle
      if ((d.cd i).image e.cycle).closed then put d 2
      else match dstBytes e code with
      | none => put d 1
      | some 0 => put (d.modCd i (fun x => x.dst e code [])) 0
      | some n =>
        match d.blockRead i t src n with
        | (d, .inl (cause, w2)) => .trap d cause w2
        | (d, .inr l) => put (d.modCd i (fun x => x.dst e code l)) 0))

/-! ### MST (R388) -/

/-- E: engine blocks the lane's `MIR` bits call for. -/
def CtrlDie.engCount (x : CtrlDie) : Nat := x.mirSlots.length + ceilDiv x.mirGens.length 3

/-- MST. -/
def execMst (r : CoreRef) (rd ra : Reg) (s : State) : Out :=
  s.onCore r (fun d => d.instr r (encR 0x22 rd ra noReg 2 0) true .voted (fun t d =>
    let i := r.die.idx
    let c := r.core.val
    let put := fun (d : Dev) (v : W64) => Ires.done (d.modCd i (fun x => x.setReg c t rd v))
    let (e, d) := d.theSet i ((d.cd i).task t).cycle
    let g := (d.cd i).image e.cycle
    if g.closed then put d 2
    else if mirBudget e.period < 2 + (d.cd i).engCount + g.mst.length then put (d.finc (CDx_MIR_STAT_MSTREF i)) 1
    else match d.blockRead i t ((d.cd i).reg c t ra).toNat 64 with
    | (d, .inl (cause, w2)) => .trap d cause w2
    | (d, .inr l) =>
      put (d.modCd i (fun x => x.setImage { g with mst := g.mst ++ [BitVec.ofNat 512 (numOf l)] })) 0))

/-! ### STILE (R390) -/

/-- The mirror header of a closed image (R319). -/
def Image.header (g : Image) : Blk :=
  Blk.mk [(0, 16, g.cycle), (2, 16, g.eng.length + g.mst.length), (4, 16, g.eng.length), (6, 8, b2n g.trunc),
    (8, 32, g.vsig.toNat)]

/-- The mirror of an image: header, engine blocks, MST blocks (R318). -/
def Image.mirror (g : Image) : List Blk := g.header :: (g.eng ++ g.mst)

/-- The marker (R303). -/
def Image.marker (g : Image) : BitVec 128 :=
  BitVec.ofNat 128 (g.cycle % 65536 + g.dvalid.toNat * 2 ^ 16 + g.idig.toNat * 2 ^ 32 + g.vsig.toNat * 2 ^ 64
    + ((g.eng.length + g.mst.length) % 65536) * 2 ^ 96)

/-- Closes the image of the set's cycle: the engine's blocks as far as that cycle's budget goes. -/
def Dev.closeImage (s : Dev) (d : Nat) (e : TallySet) : Dev :=
  let x := s.cd d
  let g := x.image e.cycle
  let eng := x.engineBlocks
  let room := mirBudget e.period - 1 - g.mst.length
  let g := { g with closed := true, eng := eng.take room, trunc := decide (room < eng.length) }
  let s := s.modCd d (fun x => x.setImage g)
  (s.fadd (CDx_MIR_STAT_ENGTRUNC d) (eng.length - room)).fset (CDx_MIR_STAT_LAST d) g.mirror.length

/-- The closed image goes to the voters if a gate is open for the die (R323), with its slack (R313): the time left to
    t0 + `STILE`, plus one; 0 when it comes too late. -/
def Dev.sendImage (s : Dev) (d : Nat) (e : TallySet) : Dev :=
  if Store.get (fun _ => 0) s.sh.vote.gateOf d = 0 then s
  else
    let slack := (e.t0 + BitVec.ofNat 64 (10 * e.stile) - s.now).toInt
    let g := (s.cd d).image e.cycle
    s.vote (fun v => { v with
      voteImg := (d, g) :: v.voteImg.filter (fun p => !(decide (p.1 = d) && decide (p.2.cycle = g.cycle)))
      arrive := Store.set (fun _ => 0) v.arrive d (slack + 1).toNat })

/-- STILE: rd receives 0, or 1 for an image already closed. -/
def execStile (r : CoreRef) (rd : Reg) (s : State) : Out :=
  s.onCore r (fun d => d.instr r (encR 0x22 rd noReg noReg 3 0) true .voted (fun t d =>
    let i := r.die.idx
    let (e, d) := d.theSet i ((d.cd i).task t).cycle
    if ((d.cd i).image e.cycle).closed then .done (d.modCd i (fun x => x.setReg r.core.val t rd 1))
    else .done (((d.closeImage i e).sendImage i e).modCd i (fun x => x.setReg r.core.val t rd 0))))

end Sys2Proof.Machine
end

