-- ==== Sys2Proof/Machine/FClass.lean ====
section
/-!
DEFINITION. The F-class instructions (R366): binary32 operands in the low 32 bits, results with the upper 32 bits zero.
-/
namespace Sys2Proof.Machine

/-- The low 32 bits of a register as a binary32 word. -/
def fOf (x : W64) : Nat := bitsOf x.toNat 0 32

/-- A binary32 result. -/
def fTo (n : Nat) : W64 := BitVec.ofNat 64 (n % 2 ^ 32)

/-- FADD. -/
def execFadd (r : CoreRef) (rd ra rb : Reg) (s : State) : Out :=
  s.onCore r (fun d => d.alu r (encR 0x09 rd ra rb 0x00 0) true rd (fun g => fTo (f32.add (fOf (g ra)) (fOf (g rb)))))

/-- FSUB. -/
def execFsub (r : CoreRef) (rd ra rb : Reg) (s : State) : Out :=
  s.onCore r (fun d => d.alu r (encR 0x09 rd ra rb 0x01 0) true rd (fun g => fTo (f32.sub (fOf (g ra)) (fOf (g rb)))))

/-- FMUL. -/
def execFmul (r : CoreRef) (rd ra rb : Reg) (s : State) : Out :=
  s.onCore r (fun d => d.alu r (encR 0x09 rd ra rb 0x02 0) true rd (fun g => fTo (f32.mul (fOf (g ra)) (fOf (g rb)))))

/-- FDIV. -/
def execFdiv (r : CoreRef) (rd ra rb : Reg) (s : State) : Out :=
  s.onCore r (fun d => d.alu r (encR 0x09 rd ra rb 0x03 0) true rd (fun g => fTo (f32.div (fOf (g ra)) (fOf (g rb)))))

/-- FSQRT: a negative non-zero operand gives NaN. -/
def execFsqrt (r : CoreRef) (rd ra : Reg) (s : State) : Out :=
  s.onCore r (fun d => d.alu r (encR 0x09 rd ra noReg 0x04 0) true rd (fun g => fTo (f32.sqrt (fOf (g ra)))))

/-- FMIN. -/
def execFmin (r : CoreRef) (rd ra rb : Reg) (s : State) : Out :=
  s.onCore r (fun d => d.alu r (encR 0x09 rd ra rb 0x05 0) true rd (fun g => fTo (f32.minmax false (fOf (g ra)) (fOf (g rb)))))

/-- FMAX. -/
def execFmax (r : CoreRef) (rd ra rb : Reg) (s : State) : Out :=
  s.onCore r (fun d => d.alu r (encR 0x09 rd ra rb 0x06 0) true rd (fun g => fTo (f32.minmax true (fOf (g ra)) (fOf (g rb)))))

/-- FLT: 0 or 1 as a 64-bit value. -/
def execFlt (r : CoreRef) (rd ra rb : Reg) (s : State) : Out :=
  s.onCore r (fun d => d.alu r (encR 0x09 rd ra rb 0x07 0) true rd (fun g => if f32.lt (fOf (g ra)) (fOf (g rb)) then 1 else 0))

/-- FEQ. -/
def execFeq (r : CoreRef) (rd ra rb : Reg) (s : State) : Out :=
  s.onCore r (fun d => d.alu r (encR 0x09 rd ra rb 0x08 0) true rd (fun g => if f32.eq (fOf (g ra)) (fOf (g rb)) then 1 else 0))

/-- FCVTQF: Q3.28 to binary32. -/
def execFcvtqf (r : CoreRef) (rd ra : Reg) (s : State) : Out :=
  s.onCore r (fun d => d.alu r (encR 0x09 rd ra noReg 0x09 0) true rd (fun g => fTo (f32.ofInt (qOf (g ra)) (-28))))

/-- FCVTFQ: to Q3.28, ties away from zero, saturated, NaN to 0, sign-extended. -/
def execFcvtfq (r : CoreRef) (rd ra : Reg) (s : State) : Out :=
  s.onCore r (fun d => d.alu r (encR 0x09 rd ra noReg 0x0A 0) true rd (fun g => qTo (f32.toIntAway (fOf (g ra)) 1 28 q28Min q28Max 0)))

/-- FCVTIF: all 64 bits of ra, signed, to binary32. -/
def execFcvtif (r : CoreRef) (rd ra : Reg) (s : State) : Out :=
  s.onCore r (fun d => d.alu r (encR 0x09 rd ra noReg 0x0B 0) true rd (fun g => fTo (f32.ofInt (g ra).toInt 0)))

/-- FCVTFI: to signed 64-bit, truncated, saturated, NaN to 0. -/
def execFcvtfi (r : CoreRef) (rd ra : Reg) (s : State) : Out :=
  s.onCore r (fun d => d.alu r (encR 0x09 rd ra noReg 0x0C 0) true rd (fun g => BitVec.ofInt 64 (f32.toIntTrunc (fOf (g ra)) (-2 ^ 63) (2 ^ 63 - 1))))

end Sys2Proof.Machine
end

