-- ==== Sys2Proof/Machine/Frames.lean ====
section
/-!
DEFINITION. Station-port frames (R457-R459, R522, R654-R656) and the clearing of interrupt causes (R653).
-/
namespace Sys2Proof.Machine

/-! ### Frames -/

/-- The FCS of IEEE 802.3 (R522, R656). -/
def fcsBit : Nat → Nat → Nat
  | 0, c => c
  | n + 1, c => fcsBit n (if c % 2 = 1 then (c / 2) ^^^ 0xEDB88320 else c / 2)

def ethFcs (l : List Byte) : List Byte :=
  bytesOf ((l.foldl (fun c b => fcsBit 8 (c ^^^ b.toNat)) 0xFFFFFFFF) ^^^ 0xFFFFFFFF) 4

/-- n bytes of a number, first byte most significant. -/
def bytesBE (v n : Nat) : List Byte := (bytesOf v n).reverse

/-- The bytes of a frame's two-byte type field, behind a VLAN tag if it has one, and where its content begins. -/
def etherType (l : List Byte) : Nat × Nat :=
  let at12 := numOf ((l.drop 12).take 2).reverse
  if at12 = 0x8100 then (numOf ((l.drop 16).take 2).reverse, 18) else (at12, 14)

/-- PTP over Ethernet transport (R457). -/
def isPtp (l : List Byte) : Bool := decide ((etherType l).1 = 0x88F7)

/-- The type and domain of a PTP message (IEEE 1588 clause 13.3). -/
def ptpType (l : List Byte) : Nat := ((l.getD (etherType l).2 0).toNat) % 16
def ptpDomain (l : List Byte) : Nat := (l.getD ((etherType l).2 + 4) 0).toNat

/-- The ring die that carries a station port, and the port's number there (R28). -/
def spDie (p : Nat) : Nat := p / 4
def spIdx (p : Nat) : Nat := p % 4

/-- The PTP engine consumes the frame (R457). -/
def Dev.ptpConsumes (s : Dev) (p : Nat) (l : List Byte) : Bool :=
  s.fbit TIM_PTP_CFG_EN && isPtp l && decide (ptpDomain l = s.fget TIM_PTP_CFG_DOMAIN) &&
    bitOf (s.fget TIM_PTP_CFG_PORTS) p

/-- A stamp in units of 1/256 ns on the ring die's timebase, with a port's correction (R458). -/
def Dev.spStamp (s : Dev) (p : Nat) (lat : Field) : Int :=
  let x := s.rd (spDie p)
  corr256 (s.corr x.raw x.ofs) + sx 32 (s.fget lat)

/-- The FIFO of a station port (R654). -/
def spFifo (p : Nat) : Nat := if p < 4 then 24 + p else 52 + p

/-- STATION_FRAME_RECEIVE: the frame without its FCS. Frames of a length the MAC does not accept are dropped. -/
def Dev.frameIn (s : Dev) (p : Nat) (l : List Byte) (ok : Bool) : Dev :=
  let n := spDie p
  if !s.powered (4 + n) then s
  else
    let s := s.fset (RDn_SP_ERR_UP n (spIdx p)) 1
    if !ok then s.finc (RDn_SP_ERR_FCS n (spIdx p))
    else if l.length < 60 ∨ 1518 < l.length ∨ s.ptpConsumes p l = true then s
    else s.fifoPush n (spFifo p)
      (bytesOf 5 1 ++ bytesOf p 1 ++ bytesOf (ux 40 (s.spStamp p (TIM_SP_LAT_ING p))) 5 ++ bytesOf l.length 2 ++ l)

def execStationFrameReceive (port : Fin 8) (bytes : List Byte) (fcsOk : Bool) (s : State) : Out :=
  s.updIf (s.dev.present (4 + spDie port.val)) (fun d => d.frameIn port.val bytes fcsOk)

/-! ### Transmit (R655, R656) -/

/-- The payload bytes of a packet word (R549). -/
def wordBytes (w : W64) : List Byte := bytesOf w.toNat (min (bitsOf w.toNat 58 3 + 1) 7)

/-- Bytes of a list from place i on replaced. -/
def overlay (l : List Byte) (i : Nat) (b : List Byte) : List Byte := l.take i ++ b ++ l.drop (i + b.length)

/-- One-step insertion in a Sync frame over Ethernet (R459): the origin time-stamp, and its fraction of a nanosecond in the
    correction field (IEEE 1588 clause 13; log entry 51). t in 1/256 ns. -/
def oneStep (l : List Byte) (t : Int) : List Byte :=
  if isPtp l && decide (ptpType l = 0) then
    let h := (etherType l).2
    let ns := ux 64 (t / 256)
    let old := numOf ((l.drop (h + 8)).take 8).reverse
    let l := overlay l (h + 34) (bytesBE (ns / 1000000000) 6 ++ bytesBE (ns % 1000000000) 4)
    overlay l (h + 8) (bytesBE ((old + ux 8 t * 256) % 2 ^ 64) 8)
  else l

/-- A stamp joins a port's queue of 16. -/
def SpTx.stamp (q : SpTx) (w : W64) : SpTx :=
  if q.stamps.length < 16 then { q with stamps := q.stamps ++ [w] }
  else { q with stamps := q.stamps.drop 1 ++ [w], lost := true }

/-- The frame of a packet leaves: stamp, padding, FCS. -/
def Dev.frameOut (s : Dev) (n i : Nat) (pkt : List Byte) : Dev :=
  let p := 4 * n + i
  let flags := (pkt.headD 0).toNat
  let tag := (pkt.getD 1 0).toNat
  let body := pkt.drop 2
  if 1518 < body.length then s.finc (RDn_SP_TXST_DROP n i)
  else
    let body := body ++ List.replicate (60 - body.length) 0
    let t := s.spStamp p (TIM_SP_LAT_EGR p)
    let body := if bitOf flags 1 then oneStep body t else body
    let s := s.emit (.frame p (body ++ ethFcs body))
    if bitOf flags 0 then
      (s.modRd n (fun x => x.setSp i ((x.sp i).stamp (pack [(63, 1, 1), (48, 8, tag), (0, 40, ux 40 t)])))).irq 44
    else s

/-- A packet word written to `RDn_SP_TX`. -/
def Dev.txWord (s : Dev) (n i : Nat) (w : W64) : Dev :=
  let v := bitOf w.toNat 63
  let sop := bitOf w.toNat 62
  let eop := bitOf w.toNat 61
  if !v || !s.powered (4 + n) then s
  else
    let q := (s.rd n).sp i
    let cut := sop && (!q.words.isEmpty || q.bad)          -- a frame without its EOP word is given up
    let s := if cut then s.finc (RDn_SP_TXST_DROP n i) else s
    let q := if sop then { q with words := [], bad := false } else q
    let q := if (q.words.isEmpty && !sop) || decide (Config.txWords ≤ q.words.length) then { q with bad := true } else q
    let q := if q.bad then q else { q with words := q.words ++ [w] }
    if !eop then s.modRd n (fun x => x.setSp i q)
    else
      let s := s.modRd n (fun x => x.setSp i { q with words := [], bad := false })
      if q.bad then s.finc (RDn_SP_TXST_DROP n i)
      else s.frameOut n i (q.words.flatMap wordBytes)

/-- STATION_FRAME_TRANSMIT. -/
def execStationFrameTransmit (rd : RDie) (i : Fin 4) (w : W64) (s : State) : Out :=
  s.updIf (s.dev.present (4 + rd.idx)) (fun d => d.txWord rd.idx i.val w)

/-- TRANSMIT_STAMP_POP: a read of `RDn_SP_TXTS`. -/
def execTransmitStampPop (rd : RDie) (i : Fin 4) (s : State) : Out :=
  s.updIf (s.dev.present (4 + rd.idx)) (fun d =>
    let r := d.readReg (RDn_SP_TXTS rd.idx i.val) false
    r.2.answer [r.1])

/-! ### Interrupt causes (R652, R653) -/

/-- A W1C write of `GLB_IRQ_STAT`: each vector left with its cause set sends a message. -/
def Dev.irqClear (s : Dev) (v : W64) : Dev :=
  let s := s.plainWrite GLB_IRQ_STAT v
  forAll (List.range 15) s (fun s i => if s.fbit ⟨GLB_IRQ_STAT, 32 + i, 1⟩ then s.msix (32 + i) else s)

/-- A W1C write of `GLB_FIFO_IRQ`. -/
def Dev.fifoIrqClear (s : Dev) (v : W64) : Dev :=
  let s := s.plainWrite GLB_FIFO_IRQ v
  forAll (List.range 32) s (fun s i =>
    if s.fbit ⟨GLB_FIFO_IRQ, i, 1⟩ || s.fbit ⟨GLB_FIFO_IRQ, i + 32, 1⟩ then s.msix i else s)

/-- IRQ_CAUSE_CLEAR. -/
def execIrqCauseClear (fifoReg : Bool) (v : W64) (s : State) : Out :=
  s.upd (fun d => if fifoReg then d.fifoIrqClear v else d.irqClear v)

end Sys2Proof.Machine
end

