-- ==== Sys2Proof/Machine/Vote.lean ====
section
/-!
DEFINITION. The stile (R305-R316), lane states (R320-R326), the voted mirror at its receivers (R35, R60, R317), the launch of
droves (R78, R333, R387), and what a twin pair sends with them (R334-R337, R340).
-/
namespace Sys2Proof.Machine

/-! ### The vote (R302-R309) -/

/-- The drove parts of two images are bit-identical. -/
def Image.sameDrove (a b : Image) : Bool := decide (a.marker = b.marker) && decide (a.droves = b.droves) && decide (a.expl = b.expl)

/-- Their mirror parts are. -/
def Image.sameMirror (a b : Image) : Bool := decide (a.energy = b.energy) && decide (a.mirror = b.mirror)

/-- A lane counts, or is compared, in cycle k (R323). -/
def Dev.gated (s : Dev) (k d : Nat) : Bool :=
  decide (Store.get (fun _ => 0) s.sh.vote.gateOf d ≠ 0) && decide (Store.get (fun _ => 0) s.sh.vote.gateFrom d ≤ k)

def Dev.voters (s : Dev) (k : Nat) : List Nat := s.counting.filter (s.gated k)

/-- The image of a lane that is present in cycle k (R305). -/
def Dev.ballot (s : Dev) (k d : Nat) : Option Image :=
  if Store.get (fun _ => 0) s.sh.vote.arrive d = 0 then none
  else (s.sh.vote.voteImg.find? (fun p => decide (p.1 = d) && decide (p.2.cycle = k))).map (fun p => p.2)

/-- Counting lanes that take part in the vote: present, with the tally master's digest (R307). -/
def Dev.eligible (s : Dev) (c : CycRec) : List (Nat × Image) :=
  (s.voters c.cycle).filterMap (fun d => match s.ballot c.cycle d with
    | some g => if g.idig = c.dig then some (d, g) else none
    | none => none)

/-- The lanes that agree on the drove part, n lanes counting (R306); none when it is not agreed. -/
def agreeing (n : Nat) (l : List (Nat × Image)) : List (Nat × Image) :=
  let like := fun (g : Image) => l.filter (fun e => e.2.sameDrove g)
  match n with
  | 1 => l
  | 2 => match l with
    | [a, b] => if a.2.sameDrove b.2 then l else []
    | _ => []
  | 3 => match l.find? (fun e => decide (2 ≤ (like e.2).length)) with
    | some e => like e.2
    | none => []
  | _ => []

/-- The image that holds the agreed mirror part (R308). -/
def agreedMirror (n : Nat) (agreed l : List (Nat × Image)) : Option Image :=
  match agreed with
  | [] => none
  | e :: rest =>
    if rest.all (fun q => q.2.sameMirror e.2) then some e.2
    else if n = 3 then
      (l.find? (fun q => decide (2 ≤ (l.filter (fun p => p.2.sameMirror q.2)).length))).map (fun q => q.2)
    else none

/-! ### Classes (R310-R313, R320) -/

/-- The class of a lane: 0 Agree, 1 Miss, 2 Digest, 3 Signature, 4 Drove, 5 Mirror. -/
def Dev.laneClass (s : Dev) (c : CycRec) (drove mirror : Option Image) (d : Nat) : Nat :=
  match s.ballot c.cycle d with
  | none => 1
  | some g =>
    if g.idig ≠ c.dig then 2
    else if g.vsig.toNat ≠ s.fget SH_VOTE_SIG_RUN then 3
    else if (match drove with | some a => !g.sameDrove a | none => false) then 4
    else if (match mirror with | some a => !g.sameMirror a | none => false) then 5
    else 0

/-- Soft-start of a lane's generators as it enters the vote with an old mirror (R190). -/
def Dev.enterVote (s : Dev) (d : Nat) : Dev :=
  if 4 < s.fget (SH_LANE_STAT_MAGE d) then s.modCd d CtrlDie.genInv else s

/-- One disagreement event: a corrected fault, and at the counting window a contained one that retires the lane (R312). -/
def Dev.laneEvent (s : Dev) (d cls : Nat) : Dev :=
  let s := if cls = 1 then s.finc (SH_LANE_STAT_MISSCNT d) else s
  let s := s.finc (SH_LANE_STAT_DISCNT d)
  let (s, lasting) := s.event (if (s.history Src.stile.code d).2 then .cont else .corr) .stile d 1 cls
  if lasting then s.retireLane d else s

/-- The probation count (R320). -/
def Dev.probation (s : Dev) (agreed : Bool) (cls d : Nat) : Dev :=
  if agreed ∧ cls = 0 then
    let n := s.fget (SH_LANE_STAT_PCNT d) + 1
    let s := s.fset (SH_LANE_STAT_PCNT d) n
    if max (s.fget SH_VOTE_CFG_PROBN) 16 ≤ n then (s.fset (SH_LANE_STAT_STATE d) 4).enterVote d else s
  else s.fset (SH_LANE_STAT_PCNT d) 0

/-- The slack of a lane enters the histogram of every voter. -/
def Dev.noteSlack (s : Dev) (d : Nat) : Dev :=
  let b := min 15 ((Store.get (fun _ => 0) s.sh.vote.arrive d - 1) / 50)
  forAll [0, 1] s (fun s n => if s.powered (4 + n) then s.finc (RDn_SLACK_COUNT n d b) else s)

/-- The lanes present that count do not all say the same. -/
def Dev.presentDiffer (s : Dev) (k : Nat) : Bool :=
  match (s.voters k).filterMap (s.ballot k) with
  | [] => false
  | g :: rest => rest.any (fun q => !(q.sameDrove g && q.sameMirror g))

/-- One counting or probation lane at the stile. Where a part is not agreed and the lanes present differ, the shepherd cannot tell
    which is wrong, and records no event against a lane that is present (R311; log entry 85). -/
def Dev.judgeLane (s : Dev) (c : CycRec) (drove mirror : Option Image) (unclear : Bool) (d : Nat) : Dev :=
  let cls := s.laneClass c drove mirror d
  let s := if (s.ballot c.cycle d).isSome then s.noteSlack d else s
  let s := if s.lane d = 3 then s.probation drove.isSome cls d else s
  if cls = 0 ∨ (2 ≤ cls ∧ unclear) then s else s.laneEvent d cls

/-! ### Substitutes (R314-R316, R573) -/

/-- A substitute drove of fold f: hold (1) or safe pulse block (2). -/
def Dev.subDrove (s : Dev) (c : CycRec) (sub f : Nat) : Payload :=
  Pl.mk (droveHead f (droveFlags false (decide (sub = 1)) false (s.fbit (SH_FOLD_CFG_CONV f)) (decide (sub = 2)) false false)
    (c.cycle % 65536) ((c.t0.toNat + 10 * cfgApply c.cfg) % 2 ^ 32))

/-- A substitute explicit block of ring r. -/
def subExplicit (c : CycRec) (sub r : Nat) : Payload :=
  Pl.mk [(0, 8, r), (1, 8, if sub = 1 then 2 else 1), (2, 16, c.cycle), (4, 32, (c.t0.toNat + 10 * cfgApply c.cfg) % 2 ^ 32)]

/-- What the stile sends in a cycle: 0 the agreed part, 1 hold, 2 safe pulse block, 3 nothing; n as in R314. -/
def Dev.stileSends (s : Dev) (mode n : Nat) : Nat :=
  match mode with
  | 7 => 3
  | 0 => 2
  | 5 => 2
  | _ => if s.fbit SH_VOTE_STAT_SPB || s.sh.vote.safeSpb || decide (s.fget SH_SAFE_STAT_ACT ≠ 0) then 2 else if n = 0 then 0 else if n ≤ s.fget SH_VOTE_CFG_HOLDMAX then 1 else 2

/-- The stile's first safe pulse block: its holds are exhausted, and the package goes to BLOCK, or the single-lane limit has taken
    it there; the record fires (R316, R325, R561). -/
def Dev.firstSpb (s : Dev) (c : CycRec) (n : Nat) : Dev :=
  let seq := decide (s.fget SH_VOTE_CFG_HOLDMAX < n) && !s.fbit SH_VOTE_STAT_SPB && !s.sh.vote.safeSpb
  let solo := s.sh.vote.soloSpb && !s.fbit SH_VOTE_STAT_SPB
  let s := s.fset SH_VOTE_STAT_SPB 1
  let s := if seq && gensStep c.mode then s.autoMode 2 else s
  if (seq || solo) && s.fbit SH_REC_SRC_STILE then s.recLearn (ts32 c.t0.toNat) 5 else s

/-- Counts and faults of a cycle without agreement. In HUB, START and BLOCK no drove part is wanted: the cycle is counted, but no
    fault is reported (log entry 45). -/
def Dev.noAgreement (s : Dev) (mode : Nat) (drove mirror : Bool) : Dev :=
  if !drove then
    let s := s.finc SH_VOTE_STAT_NOAGR
    if gensStep mode then s.report .cont .stile 0 3 0 else s
  else if !mirror then (s.finc SH_VOTE_STAT_MIRDIS).report .corr .stile 0 2 0
  else s

/-- The ledgers of a cycle that posts nothing here: no agreed mirror part, or the droves are not its own (R61, R345). -/
def Dev.voteLedgers (s : Dev) (k : Nat) (mirror : Bool) : Dev :=
  let partner := !s.ownDroves k
  if mirror && !partner then s
  else forAll [0, 1] s (fun s c => if (s.ledg c).opened && decide ((s.ledg c).posted ≤ k) then s.noPosting c k partner else s)

/-! ### The twin links with the vote (R334, R336, R337, R340) -/

/-- The drove of fold f that goes out in the cycle voted last. -/
def Dev.outDrove (s : Dev) (c : CycRec) (f : Nat) : Option Payload :=
  match s.sh.vote.substitute with
  | 0 => match s.sh.vote.agreedDrove with
    | some g => if g.dvalid.getLsbD f then some (Store.get plZero g.droves f &&& droveBits) else none
    | none => none
  | 3 => none
  | sub => if s.fbit (SH_FOLD_CFG_EN f) then some (s.subDrove c sub f) else none

/-- The duty relays its droves, each over the link of a ring die that holds the cycle's token (R333), and the first TWM blocks of
    the agreed mirror. -/
def Dev.relay (s : Dev) (c : CycRec) (mirror : Option Image) : Dev :=
  if s.role = 1 ∧ s.ownDroves c.cycle then
    let q := BitVec.ofNat 16 c.cycle
    let s := forAll (s.linksUp.filter (fun x => c.tok.getLsbD x)) s (fun s x => forAll (s.linkFolds x) s (fun s f =>
      match s.outDrove c f with
      | some pl => s.emit (.twin x 1 q (twinPl pl))
      | none => s))
    match mirror with
    | none => s
    | some g =>
      let l := g.mirror.take s.twm
      let n0 := if 0 ∈ s.linksUp then s.twinRoom 0 else 0
      let s := forAll (l.take n0) s (fun s b => s.emit (.twin 0 2 q b))
      forAll (l.drop n0) s (fun s b => s.emit (.twin 1 2 q b))
  else s

/-- `READY` (R340). The partner's cycle sequence is that of its latest heartbeat, at most one cycle from that of the latest vote
    here (log entry 126). -/
def Dev.readyNow (s : Dev) : Bool :=
  match s.sh.tw.partner with
  | some b =>
    decide (2 ≤ s.counting.length) && decide (b.mode.toNat = s.mode) &&
      decide ((seqDiff b.seq (BitVec.ofNat 16 (s.sh.tly.voted + 65535))).natAbs ≤ 1) &&
      (decide (s.role = 1) || decide (s.fget SH_TWIN_STAT_TMAGE ≤ 4)) && !s.linksUp.isEmpty && decide (b.schk = s.nv.chk)
  | none => false

/-- The heartbeat of a cycle; the frame's layout is the model's own (log entry 43). Its request flag goes out once. -/
def Dev.sendBeat (s : Dev) (k : Nat) (agreed : Bool) : Dev :=
  if !s.twin then s
  else
    let s := s.fset SH_TWIN_STAT_READY (b2n s.readyNow)
    let s := s.emit (.twin 2 0x10 (BitVec.ofNat 16 k) (Blk.mk [(0, 16, k), (2, 8, s.role), (3, 8, s.mode), (4, 8, b2n (s.fbit SH_TWIN_STAT_READY)
      + 2 * b2n s.sh.tw.reqFlag + 4 * b2n (!agreed) + 8 * b2n (decide (s.counting.length = 1))), (8, 32, s.fget SH_VOTE_SIG_RUN),
      (12, 32, s.nv.chk.toNat)]))
    s.tw (fun x => { x with reqFlag := false })

/-! ### The stile deadline -/

/-- The ring dies that hold the token of cycle k (R333). -/
def Dev.tokens (s : Dev) (k : Nat) : BitVec 2 :=
  BitVec.ofNat 2 (b2n (decide (s.rd0.tok = some k)) + 2 * b2n (decide (s.rd1.tok = some k)))

/-- The vote of a cycle. -/
def Dev.voteCycle (s : Dev) (c : CycRec) : Dev :=
  let c := { c with tok := s.tokens c.cycle }
  let s := s.clk (fun x => { x with recent := x.recent.map (fun q => if q.cycle = c.cycle then c else q) })
  let s := forAll (List.range 4) s (fun s d => s.modCd d (fun x => { x with mirRx := none }))
  let s := ((s.energyPosting 0).energyPosting 1).tly (fun x => { x with voted := c.cycle + 1 })
  let n := (s.voters c.cycle).length
  let l := s.eligible c
  let agreed := agreeing n l
  let mirror := agreedMirror n agreed l
  let drove := (agreed.head?).map (fun e => e.2)
  let nn := if drove.isSome then 0 else s.sh.mode.stileN + 1
  let s := s.md (fun x => { x with stileN := nn, agreed16 := if drove.isSome then min 16 (x.agreed16 + 1) else 0 })
  let s := (s.fset SH_VOTE_STAT_FORM n).fset SH_VOTE_STAT_HCNT (min nn 3)
  let judged := (s.voters c.cycle) ++ s.probing.filter (s.gated c.cycle)
  let unclear := (drove.isNone || mirror.isNone) && s.presentDiffer c.cycle
  let s := forAll judged s (fun s d => s.judgeLane c drove mirror unclear d)
  let s := s.noAgreement c.mode drove.isSome mirror.isSome
  let sub := s.stileSends c.mode nn
  let s := if sub = 2 ∧ (gensStep c.mode ∨ s.sh.vote.soloSpb) then s.firstSpb c nn else s
  let img := match drove, mirror with
    | some g, some m => some { g with energy := m.energy, eng := m.eng, mst := m.mst, trunc := m.trunc }
    | some g, none => some g
    | none, _ => none
  let s := s.vote (fun x => { x with
    agreedDrove := img, agreedMirror := mirror.isSome, substitute := sub, launched := [], arrive := []
    soloSpb := x.soloSpb && decide (sub ≠ 2) })
  let s := s.voteLedgers c.cycle mirror.isSome
  let s := if sub = 1 ∨ sub = 2 ∨ sub = 0 then s.relay c mirror else s
  s.sendBeat c.cycle drove.isSome

/-- The stile deadline of the cycle for which it is due, once. -/
def Dev.stileVote (s : Dev) : Dev :=
  match s.ofsCycle s.stile with
  | some c =>
    if !s.clockRuns || decide (c.cycle < s.sh.tly.voted) || !(s.powered 4 || s.powered 5) then s
    else (s.comeOfs s.stile).voteCycle c
  | none => s

/-- STILE_VOTE. -/
def execStileVote (s : State) : Out := s.upd Dev.stileVote

/-! ### Launch (R78, R333, R387, R469) -/

/-- Steps of station time that took effect after a cycle's t0 (R469). -/
def Dev.stepsSince (s : Dev) (k : Nat) : Int := s.sh.clk.recent.foldl (fun a c => if k < c.cycle then a + c.step else a) 0

/-- The ring die moves the apply time of an explicit block of a cycle before a step. -/
def stepExplicit (d : Int) (pl : Payload) : Payload := Pl.put pl 4 32 (ux 32 ((Pl.get pl 4 32 : Int) + d))

/-- A version-1 cell of fold f stands on ring r. -/
def Dev.v1On (s : Dev) (r f : Nat) : Bool :=
  (s.ring r).cells.any (fun e => !e.2.v2 && decide (s.foldOf (64 * r + e.1) = f))

/-- The explicit block of ring r in the cycle voted last. -/
def Dev.outExplicit (s : Dev) (c : CycRec) (r : Nat) : Option Payload :=
  if (s.ring r).nv1 = 0 then none
  else
    let pl := match s.sh.vote.substitute with
      | 0 => match s.sh.vote.agreedDrove with
        | some g => if (List.range Config.nFolds).any (fun f => g.dvalid.getLsbD f && s.v1On r f)
          then some (Store.get plZero g.expl r &&& explicitBits) else none
        | none => none
      | 3 => none
      | sub => some (subExplicit c sub r)
    pl.map (stepExplicit (s.stepsSince c.cycle))

/-- The blocks of ring r, in order. -/
def Dev.ringBlocks (s : Dev) (c : CycRec) (r : Nat) : List (BitVec 4 × Payload) :=
  let dr : List (BitVec 4 × Payload) := (s.ringFolds r).filterMap (fun f => (s.outDrove c f).map (fun pl => (0x1, pl)))
  match s.outExplicit c r with
  | some pl => dr ++ [(0xB, pl)]
  | none => dr

/-- The ring die may launch the droves of a cycle at an end: it held the token at the stile deadline, and the stream is awake. -/
def Dev.mayLaunch (s : Dev) (r : Nat) (e : End) (c : CycRec) : Bool :=
  s.live r && decide (s.role ≠ 3) && s.ownsEnd e && s.powered (4 + s.rdOfEnd r e) && c.tok.getLsbD (s.rdOfEnd r e) &&
    !s.fbit (s.rf (slpStat e) r) && (!s.twin || s.sh.tw.refreshed)

/-- The end port sends the droves of the cycle voted last, once. -/
def Dev.launchDroves (s : Dev) (r : Nat) (e : End) : Dev :=
  match s.sh.clk.recent.find? (fun c => decide (c.cycle + 1 = s.sh.tly.voted)) with
  | some c =>
    let key := 2 * r + b2n (decide (e = .b))
    if s.mayLaunch r e c ∧ s.ownDroves c.cycle ∧ key ∉ s.sh.vote.launched then
      let s := s.vote (fun x => { x with launched := key :: x.launched })
      let t := s.untilNs (c.t0.toNat + 10 * cfgStile c.cfg + 15)
      forAll (s.ringBlocks c r) s (fun s b => s.sendFrom (.ringEnd r e) b.1 t (fun _ => b.2))
    else s
  | none => s

/-- DROVE_LAUNCH. -/
def execDroveLaunch (r : Nat) (e : End) (s : State) : Out := s.updIf (s.dev.hasRing r) (fun d => d.launchDroves r e)

/-! ### The voted mirror at its receivers (R35, R60, R317) -/

/-- A whole mirror is committed; anything else is discarded. A die in OUT passes to SPARE. -/
def Dev.commitMirror (s : Dev) (d : Nat) (l : List Blk) : Dev :=
  match l with
  | [] => s
  | hd :: rest =>
    if Blk.get hd 2 16 = rest.length then
      let s := (s.modCd d (fun x => { x with mirPend := some l })).fset (SH_LANE_STAT_MAGE d) 0
      if s.lane d = 1 then s.fset (SH_LANE_STAT_STATE d) 2 else s
    else s

/-- One copy of the voted mirror reaches die d from a ring die. -/
def Dev.mirrorIn (s : Dev) (d n : Nat) (l : List Blk) : Dev :=
  if !s.powered (4 + (1 - n)) then s.commitMirror d l
  else match (s.cd d).mirRx with
    | some (m, old) =>
      if m = n then s.modCd d (fun x => { x with mirRx := some (n, l) })
      else
        let s := s.modCd d (fun x => { x with mirRx := none })
        if old = l then s.commitMirror d l else s.report .corr .mirror d 0 0
    | none => s.modCd d (fun x => { x with mirRx := some (n, l) })

/-- What a die has of the voted mirror: its first blocks, as many as arrived, one of them perhaps spoilt on the way. -/
def mirrorCopy (l : List Blk) (arrived : Nat) (bad : Option (Nat × Blk)) : List Blk :=
  match bad with
  | some (i, b) => (l.take arrived).set i b
  | none => l.take arrived

/-- VOTED_MIRROR_RECEIVE: in a cycle whose mirror part is agreed, by a die in OUT, SPARE or PROBATION (R309, R317). -/
def execVotedMirrorReceive (die : CDie) (src : RDie) (b : MirrorCopy) (s : State) : Out :=
  s.updIf (s.dev.present die.idx && s.dev.present (4 + src.idx)) (fun d =>
    let i := die.idx
    match (if d.sh.vote.agreedMirror then d.sh.vote.agreedDrove else none) with
    | some g =>
      if d.running i ∧ d.powered (4 + src.idx) ∧ (d.lane i = 1 ∨ d.lane i = 2 ∨ d.lane i = 3)
      then d.mirrorIn i src.idx (mirrorCopy g.mirror b.arrived b.bad) else d
    | none => d)

/-! ### Lane states (R320-R323, R326) -/

/-- The vote signature of a die's image. -/
def Dev.vsigOf (s : Dev) (d : Nat) : Nat := (s.cd d).vsig.toNat

/-- The guard of an admission of die d, and the state it goes to. -/
def Dev.admitTo (s : Dev) (d : Nat) : Option Nat :=
  if s.lane d ≠ 2 ∨ s.freeInputs.isEmpty ∨ 3 ≤ s.counting.length + s.probing.length then none
  else if s.quiet then some 4
  else if s.mode < 5 ∧ s.counting.length < 3 ∧ s.fget (SH_LANE_STAT_MAGE d) ≤ 4 ∧ s.vsigOf d = s.fget SH_VOTE_SIG_RUN then some 3
  else none

/-- The lowest-numbered die whose guard holds is admitted. -/
def Dev.admitLane (s : Dev) : Dev :=
  match (List.range 4).find? (fun d => (s.admitTo d).isSome) with
  | none => s
  | some d =>
    let st := (s.admitTo d).getD 2
    let s := if s.counting.isEmpty then s.fset SH_VOTE_SIG_RUN (s.vsigOf d) else s
    let s := ((s.fset (SH_LANE_STAT_STATE d) st).fset (SH_LANE_STAT_INPUT d) (s.freeInputs.headD 3)).fset (SH_LANE_STAT_PCNT d) 0
    if st = 4 then s.enterVote d else s

/-- LANE_ADMISSION. -/
def execLaneAdmission (s : State) : Out := s.upd Dev.admitLane

/-- The first cycle not yet voted whose stile deadline lies at least 0.20 µs ahead (R323, R341). -/
def Dev.fromStile (s : Dev) : Nat :=
  let first : Int := s.now.toNat + 200 - (s.sh.clk.t0.toNat + 10 * s.stile)
  max (s.sh.clk.cyc + -(-first / s.periodNs)).toNat s.sh.tly.voted

/-- The gate of an entering die opens: its input is released on the die, and in a standalone package HURDLE_IN reads released. -/
def Dev.openGate (s : Dev) (d : Nat) : Dev :=
  let i := s.fget (SH_LANE_STAT_INPUT d)
  let v := s.sh.vote
  if (s.lane d = 3 ∨ s.lane d = 4) ∧ i < 3 ∧ Store.get (fun _ => 0) v.gateOf d = 0 ∧ v.gateOf.all (fun e => decide (e.2 ≠ i + 1)) ∧
      (s.twin ∨ s.sh.pin.hurdleIn) then
    (s.vote (fun x => { x with
      gateOf := Store.insert x.gateOf d (i + 1), gateFrom := Store.set (fun _ => 0) x.gateFrom d s.fromStile })).hurdleStandalone
  else s

/-- GATE_OPEN. -/
def execGateOpen (die : CDie) (s : State) : Out := s.updIf (s.dev.present die.idx) (fun d => d.openGate die.idx)

/-- RETIRE: a write of `SH_LANE_CTL.RETIRE`, bit by bit (R322). Only a counting lane can be retired; a bit of any other does
    nothing. -/
def Dev.retireWrite (s : Dev) (dies : Nat) : Dev :=
  forAll (List.range 4) s (fun s d =>
    if bitOf dies d && decide (s.lane d = 4) then
      if s.retireRefused then s.refuseWr SH_LANE_CTL else s.planned d
    else s)

def execRetire (dies : BitVec 4) (s : State) : Out := s.upd (fun d => d.retireWrite dies.toNat)

/-- HURDLE_OUT_RELEASE: not refreshed for two cycles, the latch releases and the ring dies stop launching droves (R332). -/
def execHurdleOutRelease (s : State) : Out :=
  s.upd (fun d =>
    if d.twin ∧ d.sh.clk.t0raw.toNat + (2 * d.periodNs).toNat ≤ d.sh.clk.raw.toNat then
      (d.pin (fun x => { x with hurdleOut := false })).tw (fun x => { x with refreshed := false })
    else d)

end Sys2Proof.Machine
end

