-- ==== Sys2Proof/Machine/Settings.lean ====
section
/-!
DEFINITION. Writes of the cycle settings, the fold configuration, the fold map and the mode settings (R90-R93, R117-R122, R339,
R578, R581).
-/
namespace Sys2Proof.Machine

/-! ### `TIM_CYC_CFG` (R90-R93) -/

/-- The checks of R90 in table order: the first that fails. -/
def Dev.cfgReason (s : Dev) (v : W64) : Option Nat :=
  let p := cfgPeriod v
  let st := cfgStile v
  let ap := cfgApply v
  let em := cfgEmit v
  let valid := s.fbit TIM_CYC_MIN_VALID
  let m := s.minsOf s.minRings v
  let tclose := if valid then m.tclose else em
  if !s.quiet then some 1
  else if !(decide (200 ≤ p) && decide (p ≤ 10000) && decide (110 ≤ em) && decide (em < st) && decide (st < ap)) then some 2
  else if valid ∧ st < m.stileMin then some 3
  else if valid ∧ ap < m.applyMin then some 4
  else if valid ∧ p < m.periodMin then some 5
  else if p + tclose + 40 < st then some 6
  else if 4 * p < ap then some 7
  else if s.fbit TIM_CYC_STAT_PEND then some 8
  else none

def Dev.cfgRefuse (s : Dev) (why : Nat) : Dev := (s.finc TIM_CYC_STAT_REFUSE_CNT).fset TIM_CYC_STAT_REASON why

/-- A write at the duty is checked against the standby's minimums too; what they are is not told in this package's registers:
    a free value decides (log entry 46). -/
def Dev.partnerRefuses (s : Dev) : Option Nat × Dev :=
  if s.role = 1 then
    let (w, s) := s.free
    if w.getLsbD 0 then
      let (why, s) := s.pick [3, 4, 5, 6]
      (some why, s)
    else (none, s)
  else (none, s)

/-- The bits of `TIM_CYC_CFG` that are settings. -/
def cfgBits (v : W64) : W64 := v &&& 0x00FF3FFF3FFF3FFF

/-- A write of `TIM_CYC_CFG`. -/
def Dev.cfgWrite (s : Dev) (v : W64) : Dev :=
  let v := cfgBits v
  if s.standby then s.refuseWr TIM_CYC_CFG
  else match s.cfgReason v with
  | some why => s.cfgRefuse why
  | none =>
    let (why, s) := s.partnerRefuses
    match why with
    | some why => s.cfgRefuse why
    | none =>
      let eff := s.effCycle
      (s.forward TIM_CYC_CFG v eff).cfgAccept v eff

/-- CYCLE_CONFIGURATION_WRITE. -/
def execCycleConfigurationWrite (v : W64) (s : State) : Out := s.upd (fun d => d.cfgWrite v)

/-- CYCLE_CONFIGURATION_EFFECT. -/
def execCycleConfigurationEffect (s : State) : Out := s.upd Dev.cfgEffect

/-! ### `SH_FOLD_CFG` and `SH_FOLD_MAP` (R117-R122) -/

/-- A write of `SH_FOLD_CFG(f)`. -/
def Dev.foldCfgWrite (s : Dev) (f : Nat) (v : W64) : Dev :=
  if s.standby ∨ ¬ s.quiet ∨ foldBad v (s.settledMap f) then s.refuseWr (SH_FOLD_CFG f) else s.fwdWrite (SH_FOLD_CFG f) v

/-- FOLD_CONFIGURATION_WRITE. -/
def execFoldConfigurationWrite (f : Fin 12) (v : W64) (s : State) : Out := s.upd (fun d => d.foldCfgWrite f.val v)

/-- A write of `SH_FOLD_MAP(id).FOLD`. -/
def Dev.foldMapWrite (s : Dev) (id fold : Nat) : Dev :=
  let cur := s.settled (SH_FOLD_MAP id)
  let into := decide (fold < Config.nFolds) &&
    foldBad (s.settled (SH_FOLD_CFG fold)) (s.settledMap fold + b2n (decide (bitsOf cur.toNat 0 4 ≠ fold)))
  if s.standby ∨ ¬ s.quiet ∨ (Config.nFolds ≤ fold ∧ fold < 15) ∨ into then s.refuseWr (SH_FOLD_MAP id)
  else s.fwdWrite (SH_FOLD_MAP id) (BitVec.ofNat 64 (putBits cur.toNat 0 4 fold))

/-- FOLD_MAP_WRITE. -/
def execFoldMapWrite (c : Fin 8448) (fold : BitVec 4) (s : State) : Out := s.upd (fun d => d.foldMapWrite c.val fold.toNat)

/-- A write of `SH_FOLD_MAP(id).OOS`, in any mode. -/
def Dev.oosWrite (s : Dev) (id : Nat) (oos : Bool) : Dev :=
  if s.standby then s.refuseWr (SH_FOLD_MAP id)
  else s.fwdWrite (SH_FOLD_MAP id) (BitVec.ofNat 64 (putBits (s.settled (SH_FOLD_MAP id)).toNat 4 1 (b2n oos)))

/-- OUT_OF_SERVICE_WRITE. -/
def execOutOfServiceWrite (c : Fin 8448) (oos : Bool) (s : State) : Out := s.upd (fun d => d.oosWrite c.val oos)

/-- A host write of the whole entry: `FOLD` where it changes, and `OOS` where it changes. -/
def Dev.foldEntryWrite (s : Dev) (id : Nat) (v : W64) : Dev :=
  let f := bitsOf v.toNat 0 4
  let s := if f = bitsOf (s.settled (SH_FOLD_MAP id)).toNat 0 4 then s else s.foldMapWrite id f
  if v.getLsbD 4 = (s.settled (SH_FOLD_MAP id)).getLsbD 4 then s else s.oosWrite id (v.getLsbD 4)

/-! ### `SH_VOTE_CFG` and `SH_MODE_CFG` (R339, R578, R581, R583) -/

/-- A write of `SH_VOTE_CFG`. -/
def Dev.voteCfgWrite (s : Dev) (v : W64) : Dev :=
  if s.standby ∨ ¬ s.quiet then s.refuseWr SH_VOTE_CFG else s.fwdWrite SH_VOTE_CFG v

/-- A write of `SH_MODE_CFG`: `GRID` in any mode, the limits where settings may change. -/
def Dev.modeCfgWrite (s : Dev) (v : W64) : Dev :=
  if s.standby then s.refuseMode 0xB
  else
    let cur := s.settled SH_MODE_CFG
    if bitsOf v.toNat 8 16 = bitsOf cur.toNat 8 16 ∨ s.quiet then s.fwdWrite SH_MODE_CFG v
    else (s.refuseWr SH_MODE_CFG).fwdWrite SH_MODE_CFG (BitVec.ofNat 64 (putBits cur.toNat 0 1 (b2n (v.getLsbD 0))))

/-- A write of `SH_MODE_CFG.GRID`. -/
def Dev.gridWrite (s : Dev) (on : Bool) : Dev :=
  s.modeCfgWrite (BitVec.ofNat 64 (putBits (s.settled SH_MODE_CFG).toNat 0 1 (b2n on)))

/-- GRID. -/
def execGrid (on : Bool) (s : State) : Out := s.upd (fun d => d.gridWrite on)

end Sys2Proof.Machine
end

