-- ==== Sys2Proof/Machine/RingUp.lean ====
section
/-!
DEFINITION. Ring bring-up, breaks and repair (R38-R42, R81, R82, R84, R121, R144, R216, R500-R511, R517-R521, R686).
States of a port (R505): 0 ABSENT, 1 DETECT, 2 CLOCK, 3 ALIGN, 4 IDENT, 5 LINKED, 6 TEST, 7 MISWIRED. States of a ring (R525):
0 DOWN, 1 ENUM, 2 MEASURE, 3 UP, 4 SPLIT, 5 CHAIN, 6 MISWIRED.
-/
namespace Sys2Proof.Machine

/-! ### Ports -/

/-- The port exists in this variant. -/
def Dev.hasPort (s : Dev) : RxPort → Bool
  | .pkg rd i => s.present (4 + rd.idx) && decide (i < 66)
  | .cell p _ => s.hasPlace p

/-- The port has power, and a package port is enabled and out of reset, which takes REFCLK (R53). -/
def Dev.portOn (s : Dev) : RxPort → Bool
  | .pkg rd i => s.powered (4 + rd.idx) && s.sh.pin.refclk && s.fbit (RDn_RP_CFG_EN rd.idx i)
  | .cell p _ => (s.cell p).powered

def Dev.portState (s : Dev) : RxPort → Nat
  | .pkg rd i => s.fget (RDn_RP_STAT_STATE rd.idx i)
  | .cell p x => (s.cell p).fget (SRB_RP_STAT_STATE x.idx)

/-- A change of the port's cell, or of the package port's registers. -/
def Dev.atPort (s : Dev) (q : RxPort) (f : Nat → Nat → Dev → Dev) (g : CPort → Cell → Cell) : Dev :=
  match q with
  | .pkg rd i => f rd.idx i s
  | .cell p x => s.modCell p (fun c => c.act (g x))

def Dev.setPort (s : Dev) (q : RxPort) (n : Nat) : Dev :=
  s.atPort q (fun d i s => s.fset (RDn_RP_STAT_STATE d i) n) (fun x c => c.fset (SRB_RP_STAT_STATE x.idx) n)

/-- The package's number of a ring port (R28, R504). -/
def pkgPort (rd i : Nat) : Nat := 66 * rd + i

/-- The ring's present bring-up makes two open chains of it (R41). -/
def Dev.chain (s : Dev) (r : Nat) : Bool := (s.ring r).chain
/-- A wiring fault (R507): the port stays MISWIRED, and so does a ring that is not live (log entry 50). -/
def Dev.miswire (s : Dev) (q : RxPort) (find other : Nat) : Dev :=
  let s := s.setPort q 7
  let s := s.atPort q (fun d i s => (s.fset (RDn_RP_STAT_FIND d i) find).fset (RDn_RP_STAT_OTHER d i) other)
    (fun x c => c.fset (SRB_RP_STAT_FIND x.idx) find)
  match q with
  | .pkg rd i =>
    let r := (s.endOfPort rd.idx i).1
    if s.live r then s else s.rfset RDn_RING_STAT_STATE r 6
  | .cell _ _ => s

/-- The rate of a ring's bring-up is taken while all its end ports here are ABSENT (R502, R506). -/
def Dev.takeRate (s : Dev) (r : Nat) : Dev :=
  let idle := [End.a, End.b].all (fun e => !s.ownsEnd e ||
    decide (s.fget (RDn_RP_STAT_STATE (s.rdOfEnd r e) (s.portOfEnd r e)) = 0))
  if s.live r || !idle then s
  else s.rfset RDn_RING_STAT_HALF r
    (b2n (s.fbit (s.rf RDn_RING_CTL_HALF r) && decide (Store.get (fun _ => 0) s.nv.rver r = 0x20)))

/-- A cell changes to half rate when port x detects it; its other port then has nothing it detects (R506). -/
def Cell.detectRate (c : Cell) (x : CPort) (half : Bool) : Cell :=
  if half && !c.lnk.half then
    let y := x.other.idx
    { (c.fset (SRB_RP_STAT_STATE y) 0).fset (SRB_RP_STAT_LOCK y) 0 with lnk := { c.lnk with half := true } }
  else c

/-- A port that leaves ABSENT is no dark hop's any more (R507). -/
def Dev.notDark (s : Dev) (q : RxPort) : Dev :=
  s.atPort q (fun d i s => if s.fget (RDn_RP_STAT_FIND d i) = 6 then s.fset (RDn_RP_STAT_FIND d i) 0 else s)
    (fun x c => if c.fget (SRB_RP_STAT_FIND x.idx) = 6 then c.fset (SRB_RP_STAT_FIND x.idx) 0 else c)

/-- A port sees a forwarded clock. -/
def Dev.detect (s : Dev) (q : RxPort) (half miswired : Bool) : Dev :=
  if !s.portOn q || decide (1 < s.portState q) then s
  else
    let s := match q with
      | .pkg rd i => s.takeRate (s.endOfPort rd.idx i).1
      | .cell p x => s.modCell p (fun c => c.act (fun c => c.detectRate x half))
    let fits := match q with
      | .pkg rd i => half == s.half (s.endOfPort rd.idx i).1
      | .cell p _ => half == (s.cell p).lnk.half
    if !fits then s
    else if miswired then s.miswire q 1 0
    else ((s.notDark q).setPort q 1).atPort q (fun _ _ s => s) (fun x c => c.setClk x true)

/-- RECEIVER_DETECT. -/
def execReceiverDetect (q : RxPort) (half miswired : Bool) (s : State) : Out :=
  s.updIf (s.dev.hasPort q) (fun d => d.detect q half miswired)

/-- CLOCK_LOCK. -/
def execClockLock (q : RxPort) (s : State) : Out :=
  s.updIf (s.dev.hasPort q) (fun d => if d.portOn q ∧ d.portState q = 1 then d.setPort q 2 else d)

/-- Block lock. The far end of a waking stream then receives it (R520). -/
def Dev.blockLock (s : Dev) (q : RxPort) : Dev :=
  let s := (s.setPort q 3).atPort q (fun d i s => s.fset (RDn_RP_STAT_LOCK d i) 1) (fun x c =>
    let c := c.fset (SRB_RP_STAT_LOCK x.idx) 1
    { c with lnk := { c.lnk with heard := true } })
  match q with
  | .pkg rd i =>
    let (r, e) := s.endOfPort rd.idx i
    let o := endOther e
    if s.fbit (s.rf (slpStat o) r) && !s.fbit (s.rf (slpCtl o) r) then s.awake r o else s
  | .cell _ _ => s

/-- BLOCK_LOCK. -/
def execBlockLock (q : RxPort) (s : State) : Out :=
  s.updIf (s.dev.hasPort q) (fun d => if d.portOn q ∧ d.portState q = 2 then d.blockLock q else d)

/-! ### Breaks (R519) -/

/-- The stream toward end B, or toward end A, is cut at a hop: a contained fault of the hop when no break was placed there;
    a hop that fails lastingly waits for the next bring-up (R598). -/
def Dev.addCut (s : Dev) (r h : Nat) (toB : Bool) : Dev :=
  let x := s.ring r
  if !x.up || decide ((h, toB) ∈ x.cuts) then s
  else
    let s := s.setRing r { x with
      cuts := x.cuts ++ [(h, toB)], ready := Store.erase x.ready h
      joining := if (x.joining.map (fun j => j.1)) = some h then none else x.joining }
    let s := if h ∈ x.breaks then s
      else
        let (s, lasting) := s.event .cont .hop (65 * r + h) 0 0
        if lasting then s.modRing r (fun x => { x with deadHops := h :: x.deadHops }) else s
    (s.showBreaks r).turnEnds r

/-- The hop at a port of the cell at a place: ring ends' hops are 0 and 64. -/
def Ring.hopAt (x : Ring) (p : Nat) (portD : Bool) : Nat :=
  if portD then ((x.places.filter (fun q => decide (p < q))).head?).getD 64
  else if x.places.head? = some p then 0 else p

/-! ### Loss of lock (R500, R505, R517, R518, R520) -/

/-- The stream that a port receives sleeps. -/
def Dev.portSleeps (s : Dev) : RxPort → Bool
  | .pkg rd i =>
    let (r, e) := s.endOfPort rd.idx i
    s.fbit (s.rf (slpStat (endOther e)) r)
  | .cell p x => match x with
    | .u => (s.cell p).lnk.sleepA
    | .d => (s.cell p).lnk.sleepB

/-- Block lock is gone; a loss counts. -/
def Dev.dropLock (s : Dev) (q : RxPort) : Dev :=
  (s.setPort q 1).atPort q
    (fun d i s =>
      let s := if s.fbit (RDn_RP_STAT_LOCK d i) then s.finc (RDn_RP_ERR_LOL d i) else s
      (s.fset (RDn_RP_STAT_LOCK d i) 0).modRd d (fun x => { x with rpn := Store.erase x.rpn i }))
    (fun x c =>
      let c := if c.portLock x then c.finc (SRB_RP_SYNC_LOL x.idx) else c
      let c := (c.fset (SRB_RP_STAT_LOCK x.idx) 0).fset (SRB_RP_STAT_REGEN x.idx) 0
      match x with
      | .u => { c with lnk := { c.lnk with splU := false, rgU := false, trainN := c.lnk.trainN &&& 0x3E0 } }
      | .d => { c with lnk := { c.lnk with splD := false, rgD := false, trainN := c.lnk.trainN &&& 0x01F } })

/-- A LAUNCH that a cell sends on a stream of its own (R503); `at_` is the local time of its start, in 1/256 ns. -/
def Cell.launchBlock (c : Cell) (x : CPort) (at_ : Nat) : Payload :=
  Pl.mk [(0, 8, 0x21 + 64 * b2n (decide (x = .u))), (4, 64, at_ / 256), (12, 8, at_), (16, 32, c.fget SRB_TD_RATE_RATE)]

/-- A TIME LAUNCH of a cell in the first position from an instant on; the ring die whose end it reaches reads its grid from `TL`
    (R503, R686). -/
def Dev.cellLaunch (s : Dev) (p : Place) (y : CPort) (t : Int) : Dev :=
  let c := s.cell p
  let now := s.raw10ps
  let tl := fun (t : Int) => ((c.tm.time : Int) * 25600 + 256 * (t - now)).toNat / 100
  let s := s.sendFrom (.cell p y) 0x7 t (fun t => c.launchBlock y (tl t))
  let e : End := if y = .d then .b else .a
  match s.out with
  | .block _ _ _ pl :: _ =>
    if (s.ring (p / 64)).toEnd (p % 64) e then
      s.modRing (p / 64) (fun x => { x with
        tl := Store.set (fun _ => 0) x.tl (b2n (decide (e = .b))) (256 * Pl.get pl 4 64 + Pl.get pl 12 8) })
    else s
  | _ => s

/-- The cell whose port x has no stream launches the stream onward (R73, R517, R686): on the grid the stream had at its receiver,
    its `BSEQ` carried on, or, where it had none, on a grid of its own; 10 ns from now at the soonest, with a LAUNCH and a NOTICE
    first. -/
def Dev.splitLaunch (s : Dev) (p : Place) (x : CPort) : Dev :=
  let y := x.other
  let s := match s.gridAt (p / 64) (p % 64) (decide (y = .d)) with
    | some g => s.setLine (.cell p y) (some { start := g, next := 0, busy := 0 })
    | none => (s.newLine (.cell p y)).2
  let s := s.modCell p (fun c => c.act (fun c => c.fset (SRB_RP_STAT_LAUNCH y.idx) 1))
  let c := s.cell p
  let s := s.cellLaunch p y (s.raw10ps + 1000)
  s.send (.cell p y) 0x9 (c.caps 4 (decide (y = .d)) (c.fget SRB_RP_NEG_HOPA) (p / 64)
    [(16, 8, 1), (17, 1, b2n (decide (x = .d)))])

/-- The cells beside a dark hop launch toward the live ends from the start of the bring-up: those with one port LINKED and the
    other not (R686). -/
def Dev.darkLaunch (s : Dev) (r : Nat) : Dev :=
  forAll (List.range 64) s (fun s i =>
    let p := 64 * r + i
    forAll [CPort.u, CPort.d] s (fun s x =>
      let c := s.cell p
      if c.powered && decide (c.fget (SRB_RP_STAT_STATE x.idx) ≠ 5) && decide (c.fget (SRB_RP_STAT_STATE x.other.idx) = 5) &&
          !c.fbit (SRB_RP_STAT_LAUNCH x.other.idx) then s.splitLaunch p x
      else s))

/-- A receiver loses block lock. -/
def Dev.loseLock (s : Dev) (q : RxPort) : Dev :=
  let st := s.portState q
  if st < 2 ∨ 5 < st then s
  else
    let asleep := s.portSleeps q
    let s := s.dropLock q
    if asleep then s
    else match q with
    | .pkg rd i =>
      let (r, e) := s.endOfPort rd.idx i
      s.addCut r (if e = .a then 0 else 64) (decide (e = .b))
    | .cell p x => if st = 5 then s.splitLaunch p x else s

/-- FORWARDED_CLOCK_FAILURE. Without clock recovery the port loses lock (R500). -/
def execForwardedClockFailure (p : Place) (x : CPort) (s : State) : Out :=
  s.updIf (s.dev.hasPlace p) (fun d =>
    let d := d.modCell p (fun c => c.act (fun c => c.clkFail x))
    if (d.cell p).powered ∧ !(d.cell p).fbit (SRB_RP_STAT_REGEN x.idx) then d.loseLock (.cell p x) else d)

/-- LOCK_LOSS. -/
def execLockLoss (q : RxPort) (s : State) : Out :=
  s.updIf (s.dev.hasPort q) (fun d => if d.portOn q then d.loseLock q else d)

/-! ### TRAIN (R504, R505, R507) -/

/-- The identity check of R507: the finding, and the port it names. -/
def Dev.identity (s : Dev) (q : RxPort) (pl : Payload) : Option (Nat × Nat) :=
  let kind := bitsOf (Pl.get pl 0 8) 0 4
  let port := Pl.get pl 1 8
  let ser := Pl.get pl 2 48
  match q with
  | .pkg rd i =>
    if kind ≠ 1 then none
    else if ser = s.fget GLB_SER_SER ∧ port = pkgPort rd.idx i then some (2, 0)
    else some (3, port)
  | .cell p x => if kind = 2 ∧ ser = (s.cell p).serial.toNat ∧ port = x.idx then some (2, 0) else none

/-- TRAIN blocks with `RXOK` in a row, this one included. -/
def Dev.trainCount (s : Dev) (q : RxPort) (ok : Bool) : Nat × Dev :=
  match q with
  | .pkg rd i =>
    let n := if ok then Store.get (fun _ => 0) (s.rd rd.idx).rpn i + 1 else 0
    (n, s.modRd rd.idx (fun x => { x with rpn := Store.set (fun _ => 0) x.rpn i n }))
  | .cell p x =>
    let lo := match x with
      | .u => 0
      | .d => 5
    let n := if ok then bitsOf (s.cell p).lnk.trainN.toNat lo 5 + 1 else 0
    (n, s.modCell p (fun c => { c with lnk := { c.lnk with trainN := BitVec.ofNat 10 (putBits c.lnk.trainN.toNat lo 5 (n % 32)) } }))

/-- A CRC-good TRAIN. A package port that becomes LINKED starts its block stream. -/
def Dev.trainIn (s : Dev) (q : RxPort) (pl : Payload) : Dev :=
  let st := s.portState q
  if st = 3 then
    match s.identity q pl with
    | some (find, other) => s.miswire q find other
    | none => (s.trainCount q false).2.setPort q 4
  else if st = 4 then
    let (n, s) := s.trainCount q (bitOf (Pl.get pl 9 8) 0)
    if 16 ≤ n then
      let s := (s.trainCount q false).2.setPort q 5
      match q with
      | .pkg rd i =>
        let (r, e) := s.endOfPort rd.idx i
        (s.newLine (.ringEnd r e)).2
      | .cell _ _ => s
    else s
  else s

/-- TRAIN. -/
def execTrain (q : RxPort) (pl : Payload) (h : Rx) (s : State) : Out :=
  s.updIf (s.dev.hasPort q) (fun d =>
    if !d.portOn q || !(decide (3 ≤ d.portState q) && decide (d.portState q ≤ 5)) then d
    else
      let d := d.atPort q (fun n i s => s.portRx n i h) (fun x c => c.rxCount x h)
      if h.crcOk then d.trainIn q pl else d)

/-! ### Enumeration (R507-R511) -/

def Dev.endPortState (s : Dev) (r : Nat) (e : End) : Nat :=
  if s.ownsEnd e && s.powered (4 + s.rdOfEnd r e) then s.fget (RDn_RP_STAT_STATE (s.rdOfEnd r e) (s.portOfEnd r e)) else 0

/-- Ends of this package that are LINKED. -/
def Dev.linkedEnds (s : Dev) (r : Nat) : List End := [End.a, End.b].filter (fun e => decide (s.endPortState r e = 5))

/-- The ports of a ring that lie on a dark hop, named as such as its bring-up begins: an end port here in ABSENT, and an ABSENT port
    of a cell whose other port is LINKED (R507). -/
def Dev.nameDark (s : Dev) (r : Nat) : Dev :=
  let s := forAll [End.a, End.b] s (fun s e =>
    if s.ownsEnd e && s.powered (4 + s.rdOfEnd r e) && decide (s.endPortState r e = 0) then
      s.fset (RDn_RP_STAT_FIND (s.rdOfEnd r e) (s.portOfEnd r e)) 6
    else s)
  forAll (List.range 64) s (fun s i => forAll [CPort.u, CPort.d] s (fun s x =>
    let c := s.cell (64 * r + i)
    if c.powered && decide (c.fget (SRB_RP_STAT_STATE x.idx) = 0) && decide (c.fget (SRB_RP_STAT_STATE x.other.idx) = 5) then
      s.modCell (64 * r + i) (fun c => c.fset (SRB_RP_STAT_FIND x.idx) 6)
    else s))

/-- The ring is named DOWN: nothing of it is enumerated. -/
def Dev.ringDown (s : Dev) (r : Nat) : Dev :=
  let s := (s.setRing r Ring.down).rfset RDn_RING_STAT_STATE r 0
  (s.showBreaks r).rfset RDn_RPATH_SPLIT r 0

/-- ENUMERATION_START: an end port without a link is a dark hop's (R507). A referee serves no ring (R329). -/
def Dev.enumStart (s : Dev) (r : Nat) : Dev :=
  if s.live r ∨ (s.linkedEnds r).isEmpty ∨ s.ringState r = 6 ∨ s.role = 3 then s
  else
    let ch := Config.singleRd s.variant && s.fbit (s.rf RDn_RING_CTL_CHAIN r)
    let s := (s.setRing r { Ring.down with chain := ch }).rfset RDn_RING_STAT_STATE r 1
    let s := if ch then s else s.nameDark r
    forAll (s.linkedEnds r) (s.darkLaunch r) (fun s e =>
      s.send (.ringEnd r e) 0x9 (Pl.mk [(0, 8, 1), (1, 8, b2n (decide (e = .b))), (3, 8, r)]))

def execEnumerationStart (r : Nat) (s : State) : Out := s.updIf (s.dev.hasRing r) (fun d => d.enumStart r)

/-- A QUERY that comes in at an end port: it must be that of the same ring's other end, else the ends are crossed and both
    rings stay DOWN. -/
def Dev.queryAtEnd (s : Dev) (rd i : Nat) (pl : Payload) : Dev :=
  let (r, e) := s.endOfPort rd i
  let from_ := Pl.get pl 3 8
  let endB := bitOf (Pl.get pl 1 8) 0
  if !s.endUp r e ∨ (from_ = r ∧ endB = decide (e = .a)) ∨ s.live r then s
  else
    let e' : End := if endB then .b else .a
    let name := fun (s : Dev) (d j : Nat) (o : Nat) => (s.fset (RDn_RP_STAT_FIND d j) 5).fset (RDn_RP_STAT_OTHER d j) o
    let o := pkgPort (s.rdOfEnd from_ e') (s.portOfEnd from_ e')
    let s := (name s rd i o).ringDown r
    if s.hasRing from_ && s.ownsEnd e' && !s.live from_ then
      (name s (s.rdOfEnd from_ e') (s.portOfEnd from_ e') (pkgPort rd i)).ringDown from_
    else s

/-- CAPS_QUERY: at a cell, or at the end port where the stream ends. -/
def execCapsQuery (q : RxPort) (b : Rcvd) (s : State) : Out :=
  s.updIf (s.dev.hasPort q) (fun d =>
    match q with
    | .pkg rd i =>
      if !d.endUp (d.endOfPort rd.idx i).1 (d.endOfPort rd.idx i).2 then d
      else
        let d := d.portRx rd.idx i b.rx
        if b.rx.crcOk then d.queryAtEnd rd.idx i b.pl else d
    | .cell p x => d.cellQuery p x b.pl b.rx)

/-- A powered cell on ring r with a serial. -/
def Dev.placeBySerial (s : Dev) (r ser : Nat) : Option Nat :=
  (List.range 64).find? (fun p => (s.cell (64 * r + p)).powered && decide ((s.cell (64 * r + p)).serial.toNat = ser))

/-- What reaches an end of the ring is known here: at an own end, or from the partner (log entry 40). -/
def Dev.endHeard (s : Dev) (r : Nat) (e : End) : Bool :=
  if s.ownsEnd e then s.endUp r e else !s.linksUp.isEmpty

/-- A block that has come to an end of a ring: its port counts, and a block whose CRC is good is used by f. -/
def State.atEnd (s : State) (r : Nat) (e : End) (h : Rx) (f : Dev → Dev) : Out :=
  s.updIf (s.dev.hasRing r) (fun d =>
    if !d.endHeard r e then d
    else
      let d := d.endRx r e h
      if h.crcOk then f d else d)

/-- CAPS_REPORT. -/
def Dev.capsReport (s : Dev) (r : Nat) (e : End) (pl : Payload) : Dev :=
  if s.ringState r ≠ 1 ∨ !s.endHeard r e ∨ bitsOf (Pl.get pl 0 8) 0 4 ≠ 2 ∨ Pl.get pl 3 8 ≠ r then s
  else match s.placeBySerial r (Pl.get pl 4 48) with
  | none => s
  | some p =>
    let hop := some (Pl.get pl 2 8)
    let cf := Pl.get pl 11 8
    let x := s.ring r
    let old := x.reports.find? (fun q => decide (q.place = p))
    let n : Enum :=
      { serial := BitVec.ofNat 48 (Pl.get pl 4 48), rpv := BitVec.ofNat 8 (Pl.get pl 10 8), fb := bitOf cf 0, cfgd := bitOf cf 2
        hopA := if e = .a then hop else old.bind (fun q => q.hopA)
        hopB := if e = .b then hop else old.bind (fun q => q.hopB), place := p }
    s.setRing r { x with reports := n :: x.reports.filter (fun q => decide (q.place ≠ p)) }

def execCapsReport (r : Nat) (e : End) (b : Rcvd) (s : State) : Out := s.atEnd r e b.rx (fun d => d.capsReport r e b.pl)

/-- Cells with a report from end A, in that end's order of hops, or those without, in end B's. -/
def reportsA (l : List Enum) : List (Nat × Enum) :=
  (List.range 64).filterMap (fun h => (l.find? (fun e => decide (e.hopA = some h))).map (fun e => (h, e)))
def reportsB (l : List Enum) : List (Nat × Enum) :=
  (List.range 64).filterMap (fun h =>
    (l.find? (fun e => decide (e.hopB = some h) && e.hopA.isNone)).map (fun e => (h, e)))

/-- Highest free positions for cells that have none, in the order given (R42, R509). -/
def placeNew (taken : List Nat) : List Enum → List (Nat × Enum)
  | [] => []
  | e :: rest =>
    match ((List.range 64).reverse).find? (fun p => decide (p ∉ taken)) with
    | some p => (p, e) :: placeNew (p :: taken) rest
    | none => []

/-- Positions (R39, R42, R509, R511): cells with their positions, and those that got a new one counted down from 63. A cell reached
    only from end B whose recorded position a cell reached from end A already holds counts as not found in the record (log entry
    117). -/
def Dev.positions (s : Dev) (r : Nat) : List (Nat × Enum) × List (Nat × Enum) :=
  let l := (s.ring r).reports
  let fromA := reportsA l
  let rest := reportsB l
  if s.chain r then (fromA ++ rest.map (fun e => (63 - e.1, e.2)), [])
  else
    let order := Store.get (fun _ => []) s.nv.orders r
    let takenA := fromA.map (fun e => e.1)
    let stored := rest.filterMap (fun e =>
      match (List.range order.length).find? (fun i => decide (order[i]? = some e.2.serial)) with
      | some i => if i ∈ takenA then none else some (i, e.2)
      | none => none)
    let new := (rest.map (fun e => e.2)).filter (fun e => !stored.any (fun q => decide (q.2 = e)))
    let placed := placeNew (takenA ++ stored.map (fun e => e.1)) new
    (fromA ++ stored ++ placed, placed)

/-- Both ends reach every cell, and agree on the order. -/
def wholeReports (l : List Enum) : Bool :=
  l.all (fun e => match e.hopA, e.hopB with
    | some a, some b => decide (a + b + 1 = l.length)
    | _, _ => false)

/-- No cell contradicts the order: each is reached from one end only where a hop is dark. -/
def splitReports (l : List Enum) : Bool := l.all (fun e => e.hopA.isNone != e.hopB.isNone)

/-- The ring version (R510). -/
def ringVersion (l : List (Nat × Enum)) : Nat := l.foldl (fun v e => min v e.2.rpv.toNat) 0x20


/-- Positions are assigned and the ASSIGN blocks sent; measuring begins. A cell without a usable version is left out. -/
def Dev.measureStart (s : Dev) (r : Nat) : Dev :=
  let (l, new) := s.positions r
  let whole := !s.chain r && wholeReports (s.ring r).reports
  if !(whole || splitReports (s.ring r).reports) then s
  else
    let good := l.filter (fun e => e.2.assigned)
    let byPlace := (List.range 64).filterMap (fun p => good.find? (fun e => decide (e.2.place = p)))
    let ver := ringVersion good
    let s := s.modRing r (fun x => { x with cells := byPlace, whole := whole })
    let s := (s.rfset RDn_RING_STAT_STATE r 2).rfset RDn_RING_STAT_RVER r ver
    let s := forAll l s (fun s e => if e.2.assigned then s else s.report .cont .cell (64 * r + e.2.place) 21 0)
    let s := forAll new s (fun s e => s.info .ring (64 * r + e.1) 2 0)
    let s := forAll byPlace s (fun s e =>
      let b := e.2.hopA.isNone
      let at_ : End := if b then .b else .a
      if s.ownsEnd at_ then
        s.send (.ringEnd r at_) 0x9
          (Pl.mk [(0, 8, 3), (1, 8, b2n b), (3, 8, r), (4, 48, e.2.serial.toNat), (10, 8, ver), (12, 14, 64 * r + e.1)])
      else s)
    s.darkLaunch r

/-! ### TIME blocks of the ring dies and of launching cells (R467, R471, R503) -/

/-- A TIME LAUNCH of a ring end whose block starts at the instant given: `TL` is that instant's station time. -/
def Dev.endLaunch (s : Dev) (r : Nat) (e : End) (start : Int) : Payload :=
  let d := s.rd (s.rdOfEnd r e)
  let t := corr256 (s.corr d.raw d.ofs) + (start - s.raw10ps) * 256 / 100
  Pl.mk [(0, 8, 1 + 64 * b2n (decide (e = .b))), (4, 64, ux 64 (t / 256)), (12, 8, (t % 256).toNat), (16, 32, s.fget TIM_RATE_RATE)]

/-- A block of subtype `sub` from a ring end. The first LOOP of an enumeration ends it. -/
def Dev.endTime (s : Dev) (r : Nat) (e : End) (sub id : Nat) : Dev :=
  let out := fun (s : Dev) (pl : Payload) => s.send (.ringEnd r e) 0x7 pl
  let eb := 64 * b2n (decide (e = .b))
  if s.endPortState r e ≠ 5 ∨ s.fbit (s.rf (slpCtl e) r) then s
  else match sub with
  | 1 => s.sendFrom (.ringEnd r e) 0x7 s.raw10ps (s.endLaunch r e)
  | 2 =>
    let s := if s.ringState r = 1 then s.measureStart r else s
    if s.ringState r < 2 then s else out s (Pl.mk [(0, 8, 2 + eb), (2, 14, id)])
  | 4 =>
    match s.sh.clk.steps with
    | [] => s
    | q :: _ => out s (Pl.mk [(0, 8, 4 + eb), (24, 16, q.cycle % 65536), (26, 64, ux 64 q.delta)])
  | _ => s

/-- TIME_BLOCK_SEND. A cell sends only LAUNCH, and only on a stream it launches. -/
def execTimeBlockSend (q : Sender) (sub : BitVec 4) (id : BitVec 14) (s : State) : Out :=
  match q with
  | .ringEnd r e => s.updIf (s.dev.hasRing r && s.dev.ownsEnd e) (fun d => d.endTime r e sub.toNat id.toNat)
  | .cell p x => s.updIf (s.dev.hasPlace p) (fun d =>
      let c := d.cell p
      if c.powered && c.fbit (SRB_RP_STAT_LAUNCH x.idx) && decide (sub = 1) then
        d.cellLaunch p x d.raw10ps
      else d)

/-- TIME_ECHO: E(c) := (round trip - `TAU`) / 2, which the cell keeps too (R471, R503). -/
def Dev.timeEcho (s : Dev) (r : Nat) (e : End) (pl : Payload) (roundTrip : Nat) : Dev :=
  let x := s.ring r
  match x.cells.find? (fun c => decide (64 * r + c.1 = Pl.get pl 2 14)) with
  | none => s
  | some c =>
    if !s.endHeard r e || decide (s.ringState r < 2) then s
    else
      let d := (roundTrip - Pl.get pl 20 32) / 2
      let p := c.2.place
      let s := s.setRing r (if e = .a then { x with distA := Store.set (fun _ => 0) x.distA p d }
        else { x with distB := Store.set (fun _ => 0) x.distB p d })
      let s := s.modCell (64 * r + p) (fun c =>
        if c.powered then c.fset (if e = .a then SRB_TD_DLYA_D else SRB_TD_DLYB_D) d else c)
      if s.live r then s.pathChange r else s

def execTimeEcho (r : Nat) (e : End) (b : Rcvd) (roundTrip : Nat) (s : State) : Out :=
  s.atEnd r e b.rx (fun d => d.timeEcho r e b.pl roundTrip)

/-! ### A ring comes up (R81, R82, R121, R122, R144, R216, R218, R509-R511, R535, R560) -/

/-- SLCV set of a cell from a safety store (R216, R627). -/
def Dev.slcvFrom (s : Dev) (w : Mem) (id : Nat) : Dev :=
  match s.reach id with
  | some p =>
    let f := s.foldOf id
    let b := 8 + 8 * (if f < Config.nFolds then f else 12)
    let n := fun (a : Nat) => (w.byte (b + a)).toNat
    (s.ownWrite p SRB_SLCV_THR (BitVec.ofNat 32 (w.readLE b 4))).ownWrite p SRB_SLCV_CFG
      (BitVec.ofNat 32 (n 4 * 65536 + n 5 * 256 + n 6))
  | none => s

/-- From the safety channel's working copy, once step 10 has passed (R630). -/
def Dev.slcvParams (s : Dev) (id : Nat) : Dev :=
  if s.sh.safe.safeOk then s.slcvFrom s.sh.safe.safeWork id else s

/-- A cell is armed (R560). -/
def Dev.armCell (s : Dev) (p : Place) : Dev :=
  let s := s.ownWrite p SRB_REC_WIN (BitVec.ofNat 32 (65536 * s.fget SH_REC_CFG_PRE_C + s.fget SH_REC_CFG_POST_C))
  s.ownWrite p SRB_REC_CTL (BitVec.ofNat 32 (2 ^ 31 + s.fget SH_REC_STAT_RNUM))

/-- The ring die's view of a cell at its enumeration, and the first write of R216. -/
def Dev.enumFirst (s : Dev) (id : Nat) (e : Enum) : Dev :=
  let c := s.cell (64 * (id / 64) + e.place)
  let s := s.setCend id
    { rseq := BitVec.ofNat 8 (c.fget SRB_RP_NEG_RSEQ), credits := 4 - c.lnk.txns.length, endB := s.fedB id e.place, wait := false }
  let s := s.fset (SH_FOLD_MAP_V1 id) (b2n !e.v2)
  match s.reach id with
  | some p => s.ownWrite p SRB_FOLD (orIn ((s.cell p).rget SRB_FOLD) SRB_FOLD_PEN 0)
  | none => s

/-- The further steps for a cell, `PEN` last; its streams, and the record's arming. -/
def Dev.enumRest (s : Dev) (id : Nat) (e : Enum) : Dev :=
  let s := (s.refold id (s.rget (SH_FOLD_MAP id))).slcvParams id
  match s.reach id with
  | none => s
  | some p =>
    let s := if e.v2 then s.fset (SH_FOLD_MAP_NMISS id) (s.cell p).nmiss else s
    let s := if (s.cell p).cfgd && decide (s.mode ≠ 1) then s.modCell p (fun c => c.act (fun c => c.setLock true)) else s
    let s := s.penWrite id
    if !e.v2 then s
    else
      let s := s.cellStreams id
      if s.recState = 1 ∨ s.recState = 2 then s.armCell p else s

/-- A ring that has come up meets the conditions of R82, or of R81 with the minimums that then hold. -/
def Dev.admits (s : Dev) (r : Nat) : Bool × Option Mins :=
  let cfg := s.sh.clk.cfgInForce
  if s.mode = 2 ∨ s.mode = 3 ∨ s.mode = 4 then
    let p := s.ringPlan r cfg
    (decide (max p.tyA p.tyB ≤ 1000 * s.tclose) && decide (1000 * (s.stile : Int) + p.need ≤ 1000 * s.apply) &&
      decide (p.occ ≤ 1000 * s.period), none)
  else
    let m := s.minsOf s.minRings cfg
    (decide (m.stileMin ≤ s.stile) && decide (m.applyMin ≤ s.apply) && decide (m.periodMin ≤ s.period), some m)

/-- Admission, or `OVER`. -/
def Dev.admitRing (s : Dev) (r : Nat) : Dev :=
  let s := s.rfset RDn_RPATH_OVER r 0
  match s.admits r with
  | (true, some m) => s.setMins m
  | (true, none) => s
  | (false, _) => s.rfset RDn_RPATH_OVER r 1

/-- Every cell has its ID, and its delay from each end that reaches it has been measured. -/
def Dev.measured (s : Dev) (r : Nat) : Bool :=
  let x := s.ring r
  !x.cells.isEmpty && x.cells.all (fun e =>
    decide ((s.cell (64 * r + e.2.place)).id = 64 * r + e.1) &&
      (e.2.hopA.isNone || decide (dly x.distA e.2.place ≠ 0)) && (e.2.hopB.isNone || decide (dly x.distB e.2.place ≠ 0)))


/-- RING_UP. -/
def Dev.ringUp (s : Dev) (r : Nat) : Dev :=
  if s.ringState r ≠ 2 ∨ !s.measured r then s
  else
    let x := s.ring r
    let cuts := match x.dark with
      | some h => [(if x.places.head? = some h then 0 else h, true), (if x.places.head? = some h then 0 else h, false)]
      | none => []
    let s := s.safe (fun y => { y with testBad := y.testBad.filter (fun e => decide (e.1 ≠ r)) })
    let s := s.setRing r { x with up := true, cuts := cuts, deadHops := [], ready := [] }
    let s := (s.rfset RDn_RING_STAT_STATE r (if s.chain r then 5 else if x.whole then 3 else 4)).rfset RDn_RING_STAT_NV1 r x.nv1
    let s := { s with nv := { s.nv with
      rver := Store.set (fun _ => 0) s.nv.rver r (s.fget (s.rf RDn_RING_STAT_RVER r))
      orders := if x.whole then Store.insert s.nv.orders r ((reportsA x.reports).map (fun (e : Nat × Enum) => e.2.serial)) else s.nv.orders } }
    let s := (s.showBreaks r).rfset RDn_RPATH_GROW r 0
    let s := forAll x.cells s (fun s e => s.enumFirst (64 * r + e.1) e.2)
    let s := s.admitRing r
    let s := (s.showPath r).newSlots r
    let s := forAll x.cells s (fun s e => s.enumRest (64 * r + e.1) e.2)
    s.twinShow.recheckStreams

def execRingUp (r : Nat) (s : State) : Out := s.updIf (s.dev.hasRing r) (fun d => d.ringUp r)

/-! ### NOTICE and repair (R519, R521) -/

/-- CAPS_NOTICE: 1 a lost port places a break, 3 a rejoined hop's delay has been measured. -/
def Dev.capsNotice (s : Dev) (r : Nat) (e : End) (pl : Payload) : Dev :=
  let x := s.ring r
  if !s.endHeard r e || !x.up || decide (bitsOf (Pl.get pl 0 8) 0 4 ≠ 4) then s
  else match x.cells.find? (fun c => decide (c.2.serial.toNat = Pl.get pl 4 48)) with
  | none => s
  | some c =>
    let portD := bitOf (Pl.get pl 17 8) 0
    let h := x.hopAt c.2.place portD
    match Pl.get pl 16 8 with
    | 1 => s.addCut r h (!portD)
    | 3 => if h ∈ x.breaks then s.setRing r { x with ready := Store.insert x.ready h (Pl.get pl 20 32 + 1) } else s
    | _ => s

def execCapsNotice (r : Nat) (e : End) (b : Rcvd) (s : State) : Out := s.atEnd r e b.rx (fun d => d.capsNotice r e b.pl)

/-- RING_REPAIR: if the joined ring still fits, the new slot instants are written and the hop joins with them, one hop at a time;
    else it stays idle and `GROW` is set (R521). -/
def Dev.ringRepair (s : Dev) (r h : Nat) : Dev :=
  let x := s.ring r
  match x.ready.find? (fun e => decide (e.1 = h)) with
  | none => s
  | some e =>
    if !x.up || decide (h ∈ x.deadHops) || decide (s.ringState r = 5) || x.joining.isSome then s
    else
      let t := s.setRing r (s.joined r h (e.2 - 1))
      let (ok, m) := if s.admitted r then t.admits r else (true, none)
      if !ok then (s.rfset RDn_RPATH_GROW r 1).report .cont .ring r 1 0
      else
        let t := match m with
          | some m => t.setMins m
          | none => t
        let eff := s.slotsFrom
        (t.newSlots r).modRing r (fun _ => { x with
          ready := Store.erase x.ready h, joining := some (h, e.2 - 1, eff) })

def execRingRepair (r h : Nat) (s : State) : Out := s.updIf (s.dev.hasRing r && decide (h ≤ 64)) (fun d => d.ringRepair r h)

/-! ### Reserved types (R497) -/

/-- RESERVED_BLOCK at a package port. -/
def execReservedBlock (rd : RDie) (i : Nat) (b : OddBlock) (s : State) : Out :=
  s.updIf (s.dev.hasPort (.pkg rd i)) (fun d =>
    if d.portOn (.pkg rd i) && d.fbit (RDn_RP_STAT_LOCK rd.idx i) && decide (0xC ≤ b.ty.toNat) then
      let d := d.portRx rd.idx i b.rx
      if b.rx.crcOk then (d.finc (RDn_RP_ERR_BGAP rd.idx i)).report .corr .port (pkgPort rd.idx i) 1 0 else d
    else d)

end Sys2Proof.Machine
end

