-- ==== Sys2Proof/Machine/Record.lean ====
section
/-!
DEFINITION. The record, from arming to fetch (R558-R566), and the legacy packing window (R567-R569). States of `SH_REC_STAT`:
0 IDLE, 1 ARMING, 2 ARMED, 3 FIRED, 4 FETCH, 5 DONE.
-/
namespace Sys2Proof.Machine

/-! ### Arming, firing, aborting (R560, R561) -/

/-- Enumerated version-2 cells. -/
def Dev.recCells (s : Dev) : List Nat :=
  s.enumerated.filter (fun id => (s.ring (id / 64)).cells.any (fun e => decide (e.1 = id % 64) && e.2.v2))

/-- A write of `ARM`. -/
def Dev.arm (s : Dev) : Dev :=
  if s.recState = 0 ∨ s.recState = 5 then
    let s := (s.fset SH_REC_STAT_STATE 1).fwrap SH_REC_STAT_RNUM
    let s := s.rcd (fun x => { x with recTrig := none, recPos := [], recBidx := [], recSeen := [], recHeard := [] })
    let s := forAll s.recCells s (fun s id =>
      match s.reach id with
      | some p => s.armCell p
      | none => s)
    s.modAq (fun x => { x with rcd := { RecSt.reset with armedAt := s.aqNow }, trgY := [], trgHit := [] })
  else s.refuseWr SH_REC_CTL

/-- ARM. -/
def execArm (s : State) : Out := s.upd Dev.arm

/-- The arming writes of every cell that can be reached have been read back. -/
def Dev.armed (s : Dev) : Bool :=
  s.recCells.all (fun id =>
    match s.reach id with
    | some p => (s.cell p).fbit SRB_REC_CTL_ARM && decide ((s.cell p).fget SRB_REC_CTL_RNUM = s.fget SH_REC_STAT_RNUM)
    | none => true)

/-- ARMING_COMPLETE. -/
def execArmingComplete (s : State) : Out :=
  s.upd (fun d => if d.recState = 1 ∧ d.armed then d.fset SH_REC_STAT_STATE 2 else d)

/-- A write of `FIRE`. -/
def Dev.recFire (s : Dev) : Dev := s.rcd (fun x => { x with recFirePend := true })

/-- FIRE. -/
def execFire (s : State) : Out := s.upd Dev.recFire

/-- A write of `ABORT`: units disarmed, a running fetch ended. -/
def Dev.recAbort (s : Dev) : Dev :=
  let s := (s.fset SH_REC_STAT_STATE 0).rcd (fun x => { x with
    recTrig := none, recFirePend := false, recPos := [], recBidx := [], recSeen := [], recHeard := [] })
  let s := forAll s.recCells s (fun s id =>
    match s.reach id with
    | some p => s.ownWrite p SRB_REC_CTL (BitVec.ofNat 32 (s.fget SH_REC_STAT_RNUM))
    | none => s)
  s.modAq (fun x => { x with rcd := { RecSt.reset with mem := x.rcd.mem, lost := x.rcd.lost } })

/-- ABORT. -/
def execAbort (s : State) : Out := s.upd Dev.recAbort

/-- A write of `SH_REC_CTL`: its bits in order. -/
def Dev.recCtlWrite (s : Dev) (v : W64) : Dev :=
  let s := if v.getLsbD 0 then s.arm else s
  let s := if v.getLsbD 1 then s.recFire else s
  if v.getLsbD 2 then s.recAbort else s

/-! ### Trigger, notice, freeze (R562, R563) -/

/-- A TS32 instant near the package's time, extended (R455). -/
def Dev.extend (s : Dev) (t : W32) : W64 := s.now + ((t - ts32 s.now.toNat).signExtend 64)

/-- TRIGGER_DECISION, at t0 + `TCLOSE` + 20 µs of the cycle in which the first trigger was learned of: the earliest trigger known
    is T_trig. -/
def Dev.triggerDecision (s : Dev) : Dev :=
  match (if s.recState = 3 then s.sh.rcd.recTrig else none) with
  | some (t, src) =>
    let s := s.comeTo (s.sh.rcd.recT0.toNat + 10 * s.tclose + 20000)
    ((s.fset SH_REC_STAT_TTRIG t.toNat).fset SH_REC_STAT_SRC src).rcd (fun x => { x with recTrig := none, recFull := s.extend t })
  | none => s

def execTriggerDecision (s : State) : Out := s.upd Dev.triggerDecision

/-- T_trig has been decided and its record is not yet fetched. -/
def Dev.decided (s : Dev) : Bool := decide (s.recState = 3) && s.sh.rcd.recTrig.isNone

/-- `PRE` and `POST` of the AQ, nanoseconds. -/
def Dev.aqPre (s : Dev) : Nat := 10000 * s.fget SH_REC_CFG_PRE_Q
def Dev.aqPost (s : Dev) : Nat := 10000 * s.fget SH_REC_CFG_POST_Q

/-- The AQ gets the notice. -/
def Dev.aqNotice (s : Dev) : Dev :=
  if !s.running 6 then s
  else
    let t := ((s.aqNow : Int) + (BitVec.ofNat 32 (s.fget SH_REC_STAT_TTRIG) - ts32 s.aqNow).toInt).toNat
    s.modAq (fun x => { x with rcd := { x.rcd with noticed := some t, partialRec := x.rcd.lostFrom (t - s.aqPre) } })

/-- RECORD_NOTICE: the ring die writes `SRB_REC_FIRE` into an armed cell, or the AQ gets the notice. -/
def execRecordNotice (u : MUnit) (s : State) : Out :=
  match u with
  | .cell p => s.updIf (s.dev.hasPlace p) (fun d =>
      match (if d.decided then d.recCells.find? (fun id => decide (d.reach id = some p)) else none) with
      | some _ =>
        if (d.cell p).fbit SRB_REC_CTL_ARM then d.ownWrite p SRB_REC_FIRE (BitVec.ofNat 32 (d.fget SH_REC_STAT_TTRIG)) else d
      | none => d)
  | .aq => s.updIf (s.dev.present 6) (fun d => if d.decided then d.aqNotice else d)

/-- The AQ freezes. -/
def Dev.aqFreeze (s : Dev) (t : Nat) : Dev :=
  s.modAq (fun x => { x with rcd := { x.rcd.freeze true t s.aqPre s.aqPost with noticed := none, trigAt := t } })

/-- RECORD_FREEZE: once local time has passed T_trig + `POST`. -/
def execRecordFreeze (u : MUnit) (s : State) : Out :=
  match u with
  | .cell p => s.onCell p (fun c =>
      match c.hub.rcd.noticed with
      | some t => if c.fget SRB_REC_STAT_STATE = 2 ∧ t + c.recPost < c.tm.time then c.recFreeze t false else c
      | none => c)
  | .aq => s.updIf (s.dev.present 6) (fun d =>
      match d.aq.rcd.noticed with
      | some t => if t + d.aqPost < d.aqNow then d.aqFreeze t else d
      | none => d)

/-- OWN_FREEZE: no notice by the cell's own instant + `POST` + 1.00 ms. -/
def execOwnFreeze (p : Place) (s : State) : Out :=
  s.onCell p (fun c =>
    if c.fget SRB_REC_STAT_STATE = 2 ∧ c.hub.rcd.fired ∧ c.hub.rcd.noticed.isNone ∧
        c.hub.rcd.trigAt + c.recPost + 1000000 ≤ c.tm.time then c.recFreeze c.hub.rcd.trigAt true
    else c)

/-! ### Fetch (R564, R565) -/

/-- FETCH_START: T_trig + the larger `POST` + 1.00 ms has passed. -/
def execFetchStart (s : State) : Out :=
  s.upd (fun d =>
    if d.decided ∧ d.sh.rcd.recFull.toNat + d.recPostMax + 1000000 ≤ d.now.toNat then
      (d.fset SH_REC_STAT_STATE 4).rcd (fun x => { x with recPos := [], recBidx := [], recSeen := [] })
    else d)

/-- A packet of the record goes to its FIFO. -/
def Dev.recPacket (s : Dev) (n : Nat) (l : List Byte) : Dev := s.fifoPush n (s.fget SH_REC_SRC_FIFO) l

/-- A header packet. -/
def Dev.recHeader (s : Dev) (src fl count : Nat) : List Byte :=
  bytesOf 2 1 ++ bytesOf src 2 ++ bytesOf fl 1 ++ bytesOf (s.fget SH_REC_STAT_RNUM) 2 ++ bytesOf (s.fget SH_REC_STAT_TTRIG) 4
    ++ bytesOf count 4

/-- The unit is fetched whole. -/
def Dev.recDone (s : Dev) (id : Nat) : Dev := s.rcd (fun x => { x with recSeen := id :: x.recSeen })

/-- The cell's record lies frozen, as far as a ring die can read. -/
def Dev.recFrozen (s : Dev) (id : Nat) : Bool :=
  match s.reach id with
  | some p => decide ((s.cell p).fget SRB_REC_STAT_STATE = 3)
  | none => false

/-- A cell whose fetch had begun and that answers without a frozen record has nothing more to send (log entry 93). -/
def Dev.recGone (s : Dev) (r : Nat) : Dev :=
  let last := Store.get (fun _ => 0) s.sh.rcd.recPos r
  let id := 64 * r + (last - 1)
  if last ≠ 0 ∧ id ∉ s.sh.rcd.recSeen ∧ (s.reach id).isSome ∧ !s.recFrozen id then s.recDone id else s

/-- The cell of a ring whose turn it is: one at a time, in ascending position. -/
def Dev.recTurn (s : Dev) (r : Nat) : Option Nat :=
  let last := Store.get (fun _ => 0) s.sh.rcd.recPos r
  if last ≠ 0 ∧ 64 * r + (last - 1) ∉ s.sh.rcd.recSeen then none
  else s.recCells.find? (fun id => decide (id / 64 = r) && decide (id ∉ s.sh.rcd.recSeen))

/-- The fetch of a cell begins: `SRB_REC_STAT` is read, the header written, `SRB_REC_FETCH` written. -/
def Dev.fetchCell (s : Dev) (id : Nat) : Dev :=
  let n := s.tagRd id
  let s := s.rcd (fun x => { x with
    recPos := Store.insert x.recPos (id / 64) (id % 64 + 1), recBidx := Store.insert x.recBidx (id / 64) 0 })
  match s.reach id with
  | some p =>
    if (s.cell p).fget SRB_REC_STAT_STATE = 3 then
      let s := s.recPacket n (s.recHeader id ((s.cell p).fget SRB_REC_STAT_FL) ((s.cell p).fget SRB_REC_STAT_NENT))
      let s := s.ownWrite p SRB_REC_FETCH 0x80000000
      if (s.cell p).recBlocks.isEmpty then s.recDone id else s
    else (s.recPacket n (s.recHeader id 16 0)).recDone id
  | none => (s.recPacket n (s.recHeader id 16 0)).recDone id

/-- AQ inputs in the frozen window, ascending. -/
def Dev.aqRecInputs (s : Dev) : List Nat :=
  (List.range 192).filter (fun i => s.aq.rcd.full.any (fun e => decide (e.inp = i)))

/-- The packets of one AQ input: header, entries, measurements. -/
def Dev.aqRecPackets (s : Dev) (i : Nat) : List (List Byte) :=
  let q := s.aq.rcd
  let l := q.full.filter (fun e => decide (e.inp = i))
  let rn := bytesOf (s.fget SH_REC_STAT_RNUM) 2
  let src := bytesOf (0x8000 + i) 2
  let fl := b2n q.fired + 2 * b2n (decide (q.trigAt < q.armedAt + s.aqPre)) + 4 * b2n q.partialRec
  let ents := sixes l l.length
  let meas := ((s.aqRecInputs.zip q.meas).filter (fun e => decide (e.1 = i))).map (fun e => e.2)
  [s.recHeader (0x8000 + i) fl l.length]
    ++ ((ents.zip (List.range ents.length)).map (fun e =>
      bytesOf 3 1 ++ src ++ bytesOf e.1.length 1 ++ rn ++ bytesOf e.2 2 ++ e.1.flatMap (fun x => bytesOf x.ent.toNat 8)))
    ++ ((meas.zip (List.range meas.length)).map (fun e =>
      bytesOf 4 1 ++ src ++ bytesOf 0 1 ++ rn ++ bytesOf (ents.length + e.2) 2 ++ bytesOf e.1.toNat 32))

/-- Packets of an input from the number given on, while the FIFO has room. -/
def Dev.aqSend (s : Dev) : List (List Byte) → Dev × Bool
  | [] => (s, true)
  | l :: rest =>
    if !s.fifoTakes (s.fget SH_REC_SRC_FIFO) 16 then (s, false)
    else
      let s := (s.recPacket s.master l).modAq (fun x => { x with rcd := { x.rcd with sent := x.rcd.sent + 1 } })
      Dev.aqSend s rest

/-- The next AQ input is fetched, as far as the FIFO has room. -/
def Dev.fetchAq (s : Dev) : Dev :=
  let next := Store.get (fun _ => 0) s.sh.rcd.recPos 256
  match s.aqRecInputs.find? (fun i => decide (next ≤ i)) with
  | none => s.recDone 16384
  | some i =>
    let (s, fin) := s.aqSend ((s.aqRecPackets i).drop s.aq.rcd.sent)
    if fin then
      let s := s.modAq (fun x => { x with rcd := { x.rcd with sent := 0 } })
      let s := s.rcd (fun x => { x with recPos := Store.insert x.recPos 256 (i + 1) })
      if s.aqRecInputs.any (fun j => decide (i < j)) then s else s.recDone 16384
    else s

/-- RECORD_FETCH of a cell, or of the AQ's next input. A fetch waits for its FIFO (R554, R555). -/
def execRecordFetch (u : MUnit) (s : State) : Out :=
  match u with
  | .cell p => s.updIf (s.dev.hasPlace p) (fun d =>
      let d := if d.recState = 4 then d.recGone (p / 64) else d
      match (if d.recState = 4 ∧ d.fifoTakes (d.fget SH_REC_SRC_FIFO) 2 then d.recTurn (p / 64) else none) with
      | some id => if d.placeOf id = some p then d.fetchCell id else d
      | none => d)
  | .aq => s.updIf (s.dev.present 6) (fun d =>
      if d.recState = 4 ∧ d.running 6 ∧ 16384 ∉ d.sh.rcd.recSeen then d.fetchAq else d)

/-- The packet of a RECORD block (R565). -/
def recordPacket (pl : Payload) : List Byte :=
  let n := Pl.get pl 3 8
  let head := fun (k b3 : Nat) => bytesOf k 1 ++ bytesOf (Pl.get pl 0 14) 2 ++ bytesOf b3 1 ++ bytesOf (Pl.get pl 4 16) 2
    ++ bytesOf (Pl.get pl 6 16) 2
  if Pl.get pl 2 8 = 1 then head 3 n ++ bytesOf (Pl.get pl 8 (64 * min n 6)) (8 * min n 6)
  else head 4 0 ++ bytesOf (Pl.get pl 8 256) 32

/-- A RECORD block at a ring end: written as a packet, or asked for again from the missing `BIDX`. One that its FIFO cannot
    take now is asked for again too, for no record packet is discarded (R554, R555; log entry 93). -/
def Dev.recordIn (s : Dev) (r : Nat) (e : End) (pl : Payload) (h : Rx) : Dev :=
  let n := s.rdOfEnd r e
  let s := s.endRx r e h
  let last := Store.get (fun _ => 0) s.sh.rcd.recPos r
  let id := 64 * r + (last - 1)
  if s.recState ≠ 4 ∨ last = 0 ∨ id ∈ s.sh.rcd.recSeen then s
  else
    let want := Store.get (fun _ => 0) s.sh.rcd.recBidx r
    let room := s.fifoTakes (s.fget SH_REC_SRC_FIFO) (packetWords (recordPacket pl)).length
    if h.crcOk ∧ Pl.get pl 0 14 = id ∧ Pl.get pl 6 16 = want ∧ room then
      let s := (s.recPacket n (recordPacket pl)).rcd (fun x => { x with recBidx := Store.insert x.recBidx r (want + 1) })
      match s.placeOf id with
      | some p => if (s.cell p).recBlocks.length ≤ want + 1 then s.recDone id else s
      | none => s
    else if h.crcOk ∧ (Pl.get pl 0 14 ≠ id ∨ Pl.get pl 6 16 < want) then s
    else match s.reach id with
    | some p => s.ownWrite p SRB_REC_FETCH (BitVec.ofNat 32 (2 ^ 31 + want))
    | none => s

/-- RECORD_BLOCK. -/
def execRecordBlock (r : Nat) (e : End) (pl : Payload) (h : Rx) (s : State) : Out :=
  s.updIf (s.dev.hasRing r) (fun d => if d.endUp r e then d.recordIn r e pl h else d)

/-- FETCH_DONE. -/
def execFetchDone (s : State) : Out :=
  s.upd (fun d =>
    if d.recState = 4 ∧ (d.recCells.all (fun id => decide (id ∈ d.sh.rcd.recSeen))) ∧
        (d.running 6 → 16384 ∈ d.sh.rcd.recSeen) then (d.fset SH_REC_STAT_STATE 5).irq 39
    else d)

/-! ### The legacy packing window (R567-R569) -/

/-- A write of BAR2: only aligned 16-bit writes count; `fin` ends the packet. -/
def Dev.legacyWrite (s : Dev) (ofs : Nat) (v : W16) (width : Nat) (fin : Bool) : Dev :=
  if width ≠ 2 ∨ ofs % 2 ≠ 0 then s.finc SH_LEGQ_STAT_BADW
  else
    let cur := s.sh.leg.legCur ++ bytesOf v.toNat 2
    let words := packetWords cur
    if Config.legqWords < s.sh.leg.legQ.length + words.length then
      (s.finc SH_LEGQ_STAT_DROP).leg (fun x => { x with legCur := [] })
    else if fin then s.leg (fun x => { x with legCur := [], legQ := x.legQ ++ words, legVis := x.legQ.length + words.length })
    else s.leg (fun x => { x with legCur := cur })

/-- LEGACY_APPEND: a write of `width` bytes to offsets 0x0000-0x7FFF. -/
def execLegacyAppend (ofs : Nat) (v : W16) (width : Nat) (s : State) : Out :=
  s.upd (fun d => if ofs < 0x8000 then d.legacyWrite ofs v width false else d)

/-- LEGACY_END: a write to offsets 0x8000-0xFFFF. -/
def execLegacyEnd (ofs : Nat) (v : W16) (width : Nat) (s : State) : Out :=
  s.upd (fun d => if 0x8000 ≤ ofs ∧ ofs < 0x10000 then d.legacyWrite ofs v width true else d)

end Sys2Proof.Machine
end

