-- ==== Sys2Proof/Machine/Twin.lean ====
section
/-!
DEFINITION. The twin pair and its referee (R329-R345, R472, R523, R670).
-/
namespace Sys2Proof.Machine

/-! ### The referee (R340, R341) -/

def refDflt (_ : Nat) : RefPkg := { beat := none, missed := 0, fresh := false, linkDown := false }
def Dev.refPkg (s : Dev) (p : Nat) : RefPkg := Store.get refDflt s.sh.tw.refPkgs p
def Dev.setRefPkg (s : Dev) (p : Nat) (x : RefPkg) : Dev := s.tw (fun t => { t with refPkgs := Store.set refDflt t.refPkgs p x })

def Dev.referee (s : Dev) : Bool := decide (s.role = 3)

/-- Missing heartbeats that move the grant. -/
def Dev.hbMiss (s : Dev) : Nat := min (max (s.fget SH_TWIN_CFG_HBMISS) 1) 8

/-- Drives the lines for a grant, the other one low first, and tells both packages. -/
def Dev.grantPkg (s : Dev) (p : Nat) : Dev :=
  let s := (s.tw (fun t => { t with grantTo := some p })).emit (.referee (1 - p) false)
  let s := s.emit (.referee p true)
  forAll [0, 1] s (fun s q => s.emit (.twin q 0x11 (match (s.refPkg p).beat with
    | some b => b.seq
    | none => 0) (Blk.mk [(0, 8, b2n (decide (p = q)))])))

/-- The referee's decision after a heartbeat or its absence. Who holds the first grant the spec leaves open: the package whose
    heartbeat comes first (log entry 47). Heartbeats that are missing because the duty's link to the referee is down leave the
    grant where it is (R344; log entry 130). -/
def Dev.refDecide (s : Dev) (from_ : Nat) : Dev :=
  match s.sh.tw.grantTo with
  | none => if (s.refPkg from_).fresh then s.grantPkg from_ else s
  | some d =>
    let duty := s.refPkg d
    let other := s.refPkg (1 - d)
    let asks := match duty.beat with
      | some b => (b.noAgree || b.single || b.req) && decide (duty.missed = 0)
      | none => false
    let silent := decide (s.hbMiss ≤ duty.missed) && !duty.linkDown
    let ready := match other.beat with
      | some b => b.ready && other.fresh && decide (other.missed = 0)
      | none => false
    if (silent || asks) && ready then s.grantPkg (1 - d) else s

/-- HEARTBEAT. -/
def execHeartbeat (pkg : Fin 2) (b : Beat) (s : State) : Out :=
  s.upd (fun d =>
    if d.referee then (d.setRefPkg pkg.val { beat := some b, missed := 0, fresh := true, linkDown := false }).refDecide pkg.val
    else d)

/-- HEARTBEAT_MISSING. -/
def execHeartbeatMissing (pkg : Fin 2) (s : State) : Out :=
  s.upd (fun d =>
    if d.referee then
      let x := d.refPkg pkg.val
      ((d.setRefPkg pkg.val { x with missed := x.missed + 1, fresh := x.fresh && decide (x.missed = 0) }).report .corr .referee
        pkg.val 0 0).refDecide pkg.val
    else d)

/-! ### Duty (R331, R332, R341) -/

/-- The conditions of R331 begin to hold: own droves go out from the first stile that is far enough ahead. If that cycle's set has
    been delivered, the age of the twin mirror decides now on the soft-start (log entry 127). -/
def Dev.dutyBegins (s : Dev) : Dev :=
  if s.role = 1 ∧ s.sh.pin.rfLevel ∧ s.sh.pin.hurdleIn then
    let s := s.tw (fun t => { t with dutyFrom := s.fromStile })
    if s.sh.tw.dutyFrom < s.sh.tly.delivered then s.softDuty else s
  else s

/-- Duty is taken: the crook waits for a θ of its own (R461). -/
def Dev.takeDuty (s : Dev) : Dev := (s.crk (fun x => { x with crookRaw := s.sh.clk.raw })).dutyBegins

/-- Duty is lost: HURDLE_OUT is released at once, and the crook follows the duty. -/
def Dev.loseDuty (s : Dev) : Dev := (s.pin (fun x => { x with hurdleOut := false })).setCrook 4

/-- The REFEREE line changes. -/
def Dev.refereeLine (s : Dev) (level : Bool) : Dev :=
  if !s.twin || decide (level = s.sh.pin.rfLevel) then s
  else
    let s := (s.pin (fun x => { x with rfLevel := level })).fset SH_TWIN_STAT_GRANT (b2n level)
    let s := (s.fset SH_TWIN_STAT_ROLE (if level then 1 else 2)).irq 41
    if level then s.takeDuty else s.loseDuty

/-- REFEREE_GRANT. -/
def execRefereeGrant (level : Bool) (s : State) : Out := s.upd (fun d => d.refereeLine level)

/-- HURDLE_IN_CHANGE, after its filter. -/
def execHurdleInChange (released : Bool) (s : State) : Out :=
  s.upd (fun d =>
    let was := d.sh.pin.hurdleIn
    let d := d.pin (fun x => { x with hurdleIn := released })
    if d.twin then
      let d := d.fset SH_TWIN_STAT_HIN (b2n released)
      if released && !was then d.dutyBegins else d
    else d)

/-- One more good frame on a twin port of a ring die; sixteen in a row bring its link up (R523). -/
def Dev.goodFrame (s : Dev) (n t : Nat) : Dev :=
  let g := min 16 (Store.get (fun _ => 0) (s.rd n).twGood t + 1)
  let s := s.modRd n (fun x => { x with twGood := Store.set (fun _ => 0) x.twGood t g })
  if g = 16 then s.fset (RDn_TP_ERR_UP n t) 1 else s

/-- GRANT_STATE: the referee link, at local port 1 of RD-0, and what it tells of the partner. -/
def execGrantState (_granted : Bool) (partner : Option Beat) (s : State) : Out :=
  s.upd (fun d =>
    if d.twin && d.powered 4 then
      let d := d.goodFrame 0 1
      let d := if d.fbit (RDn_TP_ERR_UP 0 1) then d.fset SH_TWIN_STAT_REFOK 1 else d
      let d := (d.tw (fun t => { t with partner := partner })).pendEnd
      let d := d.fset SH_TWIN_STAT_PREADY (match partner with
        | some b => b2n b.ready
        | none => 0)
      d.fset SH_TWIN_STAT_READY (b2n d.readyNow)
    else d)

/-- A write of `SH_TWIN_CTL.HANDREQ`. -/
def Dev.handReq (s : Dev) : Dev :=
  if !s.twin then s
  else if s.role = 1 ∧ s.fbit SH_TWIN_STAT_REFOK ∧ s.fbit SH_TWIN_STAT_PREADY then
    (s.fset SH_TWIN_STAT_HREF 0).tw (fun t => { t with reqFlag := true })
  else s.fset SH_TWIN_STAT_HREF 1

/-- HANDREQ. -/
def execHandreq (s : State) : Out := s.upd Dev.handReq

/-! ### The direct links (R334-R339, R472, R523) -/

/-- Link x exists: TP0 of RD-0, TP2 of RD-1 (R44). -/
def Dev.hasLink (s : Dev) (x : Nat) : Bool := s.twin && s.powered (4 + x)

/-- What depends on D_TW, after a link has changed. -/
def Dev.linkChange (s : Dev) : Dev :=
  let s := s.twinShow
  forAll s.liveRings s (fun s r => s.pathChange r)

/-- T_link of a direct link: half the round trip, which is in nanoseconds. -/
def Dev.setTlink (s : Dev) (x roundTrip : Nat) : Dev :=
  (s.tw (fun t => { t with tlink := Store.set (fun _ => 0) t.tlink x (5 * roundTrip) })).linkChange

/-- A direct link comes up. -/
def Dev.directUp (s : Dev) (x roundTrip : Nat) : Dev :=
  let s := (s.fset ⟨SH_TWIN_STAT, SH_TWIN_STAT_LINKS.lo + x, 1⟩ 1).fset (RDn_TP_ERR_UP x 0) 1
  s.setTlink x roundTrip

/-- A direct link goes down: the other carries everything, and TWM is computed again (R344). -/
def Dev.directDown (s : Dev) (x : Nat) : Dev :=
  let s := (s.fset ⟨SH_TWIN_STAT, SH_TWIN_STAT_LINKS.lo + x, 1⟩ 0).fset (RDn_TP_ERR_UP x 0) 0
  let s := ((s.report .cont .twin x 0 0).linkChange).pendEnd
  s.fset SH_TWIN_STAT_READY (b2n s.readyNow)

/-- The package's link to the referee goes down (R344): a handover is refused from now on. -/
def Dev.refLinkDown (s : Dev) : Dev :=
  let s := (s.fset SH_TWIN_STAT_REFOK 0).fset (RDn_TP_ERR_UP 0 1) 0
  (s.modRd 0 (fun x => { x with twGood := Store.set (fun _ => 0) x.twGood 1 0 })).report .cont .twin 2 0 0

/-- TWIN_LINK_UP: direct link 0 or 1, or 2, the link to the referee. In a referee, links 0 and 1 are those to packages A and B. -/
def execTwinLinkUp (link : Fin 3) (roundTrip : Nat) (s : State) : Out :=
  s.upd (fun d =>
    if d.referee && d.powered 4 && decide (link.val < 2) then
      (d.fset (RDn_TP_ERR_UP 0 link.val) 1).setRefPkg link.val { d.refPkg link.val with linkDown := false }
    else if link.val < 2 ∧ d.hasLink link.val then d.directUp link.val roundTrip
    else if link.val = 2 ∧ d.hasLink 0 then (d.fset SH_TWIN_STAT_REFOK 1).fset (RDn_TP_ERR_UP 0 1) 1
    else d)

/-- TWIN_LINK_DOWN. -/
def execTwinLinkDown (link : Fin 3) (s : State) : Out :=
  s.upd (fun d =>
    if d.referee && d.powered 4 && decide (link.val < 2) then
      ((d.fset (RDn_TP_ERR_UP 0 link.val) 0).setRefPkg link.val { d.refPkg link.val with linkDown := true }).report .cont .twin
        link.val 0 0
    else if link.val < 2 ∧ d.hasLink link.val ∧ bitOf (d.fget SH_TWIN_STAT_LINKS) link.val then d.directDown link.val
    else if link.val = 2 ∧ d.hasLink 0 ∧ d.fbit SH_TWIN_STAT_REFOK then d.refLinkDown
    else d)

/-- A direct link that is up. -/
def Dev.linkUp (s : Dev) (x : Nat) : Bool := s.hasLink x && bitOf (s.fget SH_TWIN_STAT_LINKS) x

/-- TWIN_TIME: the link's latency, and for the standby θ, to which `JUMPTH` does not apply. -/
def execTwinTime (link : Fin 2) (roundTrip : Nat) (theta : Option Int) (s : State) : Out :=
  s.upd (fun d =>
    if d.linkUp link.val then
      let d := d.setTlink link.val roundTrip
      match theta with
      | some th => if d.standby ∧ d.crook = 4 then d.piUpdate th else d
      | none => d
    else d)

/-- A relayed drove differs from the standby's own agreed one; it counts once per fold and cycle (R335). -/
def Dev.compareRelayed (s : Dev) (k : Nat) (pl : Payload) : Dev :=
  let f := bitsOf pl.toNat 4 4
  let seen := s.sh.tw.relayed.any (fun e => decide (e.1 = f) && decide (Pl.get e.2 2 16 = Pl.get pl 2 16))
  if seen then s
  else
    let s := s.tw (fun t => { t with relayed := (f, pl) :: t.relayed })
    match s.sh.vote.agreedDrove with
    | some g =>
      if decide (g.cycle = k) && !(g.dvalid.getLsbD f && decide (Store.get plZero g.droves f &&& droveBits = pl)) then
        s.finc SH_TWIN_STAT_CMPDIFF
      else s
    | none => s

/-- A relayed drove goes into this package's end of ring r, unless it is too late for its launch instant. -/
def Dev.relayedIn (s : Dev) (r : Nat) (pl : Payload) : Dev :=
  match s.sh.clk.recent.find? (fun c => decide (c.cycle % 65536 = Pl.get pl 2 16)) with
  | none => s
  | some c =>
    let s := s.compareRelayed c.cycle pl
    let due := c.t0.toNat + 10 * cfgStile c.cfg + 15 + ceilDiv s.dtw 10
    if s.mayLaunch r s.ownEnd c ∧ s.now.toNat ≤ due ∧ bitsOf pl.toNat 4 4 ∈ s.ringFolds r then
      s.sendFrom (.ringEnd r s.ownEnd) 0x1 (s.untilNs due) (fun _ => pl)
    else s

/-- RELAYED_DROVE: one that fails its check is not sent. -/
def execRelayedDrove (link : Fin 2) (ring : Nat) (pl : Payload) (crcOk : Bool) (s : State) : Out :=
  s.updIf (s.dev.hasRing ring) (fun d =>
    if d.standby && d.linkUp link.val then
      if crcOk then d.relayedIn ring pl else d.finc (RDn_TP_ERR_CRC link.val 0)
    else d)

/-- A block of the twin mirror of the cycle whose sequence its frame carries joins those of that cycle; one of an earlier cycle than
    the latest is dropped. -/
def Dev.mirrorBlock (s : Dev) (seq : W16) (index : Nat) (b : Blk) : Dev :=
  let t := s.sh.tw
  if t.twMirror.isEmpty ∨ 0 < seqDiff seq t.twSeq then s.tw (fun t => { t with twMirror := Store.insert [] index b, twSeq := seq })
  else if seq = t.twSeq then s.tw (fun t => { t with twMirror := Store.insert t.twMirror index b })
  else s

/-- TWIN_MIRROR_BLOCK: at the standby, and at a new duty until its first own cycle (R342). -/
def execTwinMirrorBlock (link : Fin 2) (index : Nat) (b : TwinBlock) (s : State) : Out :=
  s.upd (fun d => if d.follows d.sh.tly.delivered && d.linkUp link.val then d.mirrorBlock b.seq index b.blk else d)

/-- The cycle count that a sequence names, among those within half the range of the latest. -/
def Dev.cycleOf (s : Dev) (q : W16) : Nat := ((s.sh.clk.cyc : Int) + seqDiff q s.seq).toNat

/-- A write the duty has accepted, to be applied from its cycle on (R339, R581). -/
def Dev.forwardedIn (s : Dev) (a : Nat) (v : W64) (eff : W16) : Dev :=
  let k := s.cycleOf eff
  if a = TIM_CYC_CFG then s.cfgAccept (cfgBits v) (max k s.nextCyc)
  else (if a = SH_MODE then s.fset SH_MODE_BUSY 1 else s).tw (fun t => { t with fwd := t.fwd ++ [(k, a, v)] })

/-- FORWARDED_CONFIGURATION_WRITE. -/
def execForwardedConfigurationWrite (addr : Nat) (v : ForwardedValue) (s : State) : Out :=
  s.upd (fun d => if d.standby && !d.linksUp.isEmpty then d.forwardedIn addr v.val v.eff else d)

/-- RESERVED_TWIN_FRAME: discarded and counted. -/
def execReservedTwinFrame (rd : RDie) (t : Fin 2) (s : State) : Out :=
  s.updIf (s.dev.present (4 + rd.idx)) (fun d => if d.powered (4 + rd.idx) then d.finc (RDn_TP_ERR_RSVD rd.idx t.val) else d)

end Sys2Proof.Machine
end

