-- ==== Sys2Proof/Machine/Die.lean ====
section
/-!
DEFINITION. What is lost when a die loses power or is held down (R31, R36, R52, R54, R58, R320, R523, R555, R601).
-/
namespace Sys2Proof.Machine

/-- The registers of a die's BAR0 window go back to their reset values. -/
def Dev.eraseWin (s : Dev) (d : Nat) : Dev :=
  let (lo, hi) : Nat × Nat :=
    if d < 4 then (0x800000 + 0x200000 * d, 0xA00000 + 0x200000 * d)
    else if d = 4 then (0x200000, 0x300000)
    else if d = 5 then (0x300000, 0x400000)
    else (0x400000, 0x500000)
  { s with regs := Store.drop s.regs lo hi }

/-- Requests whose tags a lost ring die held: nothing answers them (R54, R58; log entry 53). -/
def Dev.tagsLost (s : Dev) (n : Nat) : Dev :=
  let l := (s.rd n).tags
  let s := s.modRd n (fun x => { x with tags := [] })
  forAll l s (fun s e => s.deliverTxn e.2.owner e.1 e.2.gen .timeout)

/-- The rings whose end the lost ring die held: the end neither launches nor hears (R52, R519). -/
def Dev.endsLost (s : Dev) (n : Nat) : Dev :=
  if Config.singleRd s.variant then forAll (List.range s.ringCount) s Dev.ringDown
  else
    forAll (List.range s.ringCount) s (fun s r =>
      forAll [End.a, End.b] s (fun s e =>
        if s.ownsEnd e && decide (s.rdOfEnd r e = n) then
          let h := if e = .a then 0 else 64
          (s.addCut r h true).addCut r h false
        else s))

/-- The twin links of a lost ring die (R44, R344). -/
def Dev.linksLost (s : Dev) (n : Nat) : Dev :=
  if !s.twin then s
  else
    let s := if bitOf (s.fget SH_TWIN_STAT_LINKS) n then
        ((s.fset ⟨SH_TWIN_STAT, SH_TWIN_STAT_LINKS.lo + n, 1⟩ 0).report .cont .twin n 0 0).linkChange
      else s
    let s := if n = 0 then s.fset SH_TWIN_STAT_REFOK 0 else s
    s.fset SH_TWIN_STAT_READY (b2n s.readyNow)

/-- Everything a die holds is gone. -/
def Dev.dieLost (s : Dev) (d : Nat) : Dev :=
  if d < 4 then (s.setCd d CtrlDie.reset).eraseWin d
  else if d < 6 then
    let n := d - 4
    let s := ((s.tagsLost n).endsLost n).linksLost n
    (s.setRd n RingDie.reset).eraseWin d
  else if d = 6 then { s with aq := AqDie.reset }.eraseWin 6
  else s

/-- The shepherd powers a die down: PWR_EN_ low. -/
def Dev.dieDown (s : Dev) (d state : Nat) : Dev :=
  let s := ((s.fset (GLB_DIE_PWR d) 0).fset (GLB_DIE_PG d) 0).fset (GLB_DIE_STATE d) state
  (s.dieLost d).laneOff d

end Sys2Proof.Machine
end

