-- ==== Sys2Proof/Machine/Images.lean ====
section
/-!
DEFINITION. Image slots and image loads (R322, R327, R328, R372, R403-R408, R441, R585, R657).
-/
namespace Sys2Proof.Machine

/-! ### Images (R403, R404) -/

/-- The bytes of slot A (0) or B (1). -/
def Dev.slotMem (s : Dev) (n : Nat) : Mem := Store.get (fun _ => []) s.nv.img n
def Dev.slotLen (s : Dev) (n : Nat) : Nat := Store.get (fun _ => 0) s.nv.imgLen n

def Mem.bytes (m : Mem) (a n : Nat) : List Byte := (List.range n).map (fun i => m.byte (a + i))
def Mem.zeros (m : Mem) (a n : Nat) : Bool := (m.bytes a n).all (fun b => decide (b = 0))

def Mem.ilen (m : Mem) : Nat := m.readLE 88 4
def Mem.dlen (m : Mem) : Nat := m.readLE 92 4
/-- The image's length as its header gives it. -/
def Mem.imageLen (m : Mem) : Nat := 256 + m.ilen + m.dlen + 4
def Mem.vsig (m : Mem) : Nat := m.readLE 12 4

/-- Both CRCs of an image. -/
def Mem.crcsGood (m : Mem) : Bool :=
  decide ((crc32c (m.bytes 0 252)).toNat = m.readLE 252 4) &&
    decide ((crc32c (m.bytes 256 (m.ilen + m.dlen))).toNat = m.readLE (256 + m.ilen + m.dlen) 4)

/-- The header's own rules. -/
def Mem.headGood (m : Mem) : Bool :=
  decide (m.readLE 0 4 = 0x444E524B) && decide (m.readLE 4 1 = 1) && m.zeros 6 2 && decide (m.readLE 20 1 ≤ 16) && m.zeros 21 3 &&
    decide (m.ilen % 4 = 0) && decide (m.ilen ≤ 0x400000) && decide (m.dlen % 8 = 0) && decide (m.readLE 96 4 % 8 = 0) &&
    decide (m.readLE 108 4 % 64 = 0) && m.zeros 114 2 && decide (m.readLE 116 4 % 64 = 0) && m.zeros 124 128

/-- [a, a + n) lies in voted data SRAM (R368). -/
def inVoted (a n : Nat) : Bool := decide (0x10000000 ≤ a) && decide (a < 0x11800000) && decide (a + n ≤ 0x11800000)

/-- A stepping byte of the header suits the dies of its kind. -/
def Dev.stepOk (s : Dev) (req : Nat) (dies : List Nat) : Bool :=
  dies.all (fun d => !s.present d || decide (req ≤ Config.stepB0))

/-- An image passes R403 and R404. -/
def Dev.imageGood (s : Dev) (n : Nat) : Bool :=
  let m := s.slotMem n
  decide (s.slotLen n ≠ 0) && m.headGood && m.crcsGood && decide (m.readLE 5 1 = 2) &&
    s.stepOk (m.readLE 8 1) [0, 1, 2, 3] && s.stepOk (m.readLE 9 1) [7] && s.stepOk (m.readLE 10 1) [4, 5] &&
    s.stepOk (m.readLE 11 1) [6] &&
    decide (m.readLE 112 2 &&& (0xFFFF - 0x8C) = 0) && inVoted (m.readLE 96 4) m.dlen &&
    (decide (m.readLE 116 4 = 0) || inVoted (m.readLE 116 4) (m.readLE 120 4)) &&
    (decide (m.readLE 120 4 = 0) || decide (64 * (1 + s.budget) ≤ m.readLE 120 4)) &&
    decide (m.readLE 100 4 + 4 ≤ m.ilen) && decide (m.readLE 104 4 + 4 ≤ m.ilen) && decide (m.readLE 108 4 + 0x300 ≤ m.ilen)

/-- The signature that runs: that of the counting lanes, or of a twin partner that runs (R326, R327; log entry 131). -/
def Dev.runningSig (s : Dev) : Option Nat :=
  if s.counting.isEmpty then s.sh.tw.partner.map (fun b => b.run.toNat) else some (s.fget SH_VOTE_SIG_RUN)

/-- The compatibility list names the running signature (R327). -/
def Dev.compatOk (s : Dev) (m : Mem) : Bool :=
  match s.runningSig with
  | none => true
  | some g => (List.range (m.readLE 20 1)).any (fun i => decide (m.readLE (24 + 4 * i) 4 = g))

/-- In a package that switches only images of the running signature are loaded (R328). -/
def Dev.switchOk (s : Dev) (m : Mem) : Bool :=
  if (decide (s.mode = 2) || decide (s.mode = 3) || decide (s.mode = 4)) && !s.standby then decide (m.vsig = s.fget SH_VOTE_SIG_RUN)
  else true

/-- A slot from which a load is not refused. -/
def Dev.slotUsable (s : Dev) (n : Nat) : Bool := s.imageGood n && s.compatOk (s.slotMem n) && s.switchOk (s.slotMem n)

/-! ### The boot journal's refused signature (R327, R589) -/

/-- A record with bytes [b, b + n) replaced and its CRC made anew. -/
def JRec.put (r : JRec) (b n v : Nat) : JRec :=
  let x := putBits r.toNat (8 * b) (8 * n) v
  BitVec.ofNat 512 (putBits x 480 32 (crc32c (bytesOf x 60)).toNat)

/-- A refused image: its signature goes to the latest record and to `SH_VOTE_SIG.LAST`. -/
def Dev.imageRefused (s : Dev) (n : Nat) : Dev :=
  let sig := (s.slotMem n).vsig
  let s := { s with nv := { s.nv with journal := match s.nv.journal with
    | [] => []
    | r :: rest => r.put 36 4 sig :: rest } }
  s.fset SH_VOTE_SIG_LAST sig

/-! ### Loading (R372, R408, R441) -/

def ImgInfo.ofSlot (m : Mem) (n : Nat) : ImgInfo :=
  { slotB := decide (n = 1), vsig := BitVec.ofNat 32 m.vsig, schk := BitVec.ofNat 32 (m.readLE 16 4)
    entryV := BitVec.ofNat 32 (m.readLE 100 4), entryN := BitVec.ofNat 32 (m.readLE 104 4)
    trapbase := BitVec.ofNat 32 (m.readLE 108 4), trapen := BitVec.ofNat 16 (m.readLE 112 2)
    mirbase := BitVec.ofNat 32 (m.readLE 116 4) }

/-- A part of a memory moved from a to b. -/
def Mem.moved (m : Mem) (a n b : Nat) : Mem :=
  (m.filter (fun e => decide (a ≤ e.1) && decide (e.1 < a + n))).map (fun e => (e.1 - a + b, e.2))

/-- The control die with an image's sections in its SRAMs, everything of its cores and its scheduler as after reset. -/
def CtrlDie.loaded (x : CtrlDie) (m : Mem) (n : Nat) : CtrlDie :=
  { x with
    img := some (ImgInfo.ofSlot m n)
    imem := m.moved 256 m.ilen 0
    dmem := m.moved (256 + m.ilen) m.dlen (m.readLE 96 4)
    ecc := [], cores := [], tasks := [], mboxes := [], locks := [], ready := [], delays := [], vready := [], vcycle := 0
    vphase := 0, vbegun := false, vever := false, vpend := [], vpri := [], vsBusy := [], vsHeld := [], vsFull := [], images := [], staging := []
    mirRx := none, mirPend := none, sel := [] }

/-- The create blocks of the two first tasks. -/
def firstVoted (m : Mem) : List Byte :=
  bytesOf 0 2 ++ bytesOf 0 1 ++ bytesOf 32 1 ++ bytesOf 1 1 ++ bytesOf 0 3 ++ bytesOf (m.readLE 100 4) 4 ++ bytesOf 0x11000000 4 ++
    bytesOf 0x11010000 4 ++ bytesOf 0x11010000 4 ++ bytesOf 0 36
def firstNonVoted (m : Mem) : List Byte :=
  bytesOf 256 2 ++ bytesOf 1 1 ++ bytesOf 32 1 ++ bytesOf 16 1 ++ bytesOf 0 3 ++ bytesOf (m.readLE 104 4) 4 ++ bytesOf 0x11F00000 4 ++
    bytesOf 0x11F10000 4 ++ bytesOf 0x11F10000 4 ++ bytesOf 0 36

/-- A die runs a slot's image: OUT, unless it is RETIRED and waits for its power cycle (R320). -/
def Dev.loadDie (s : Dev) (d n : Nat) : Dev :=
  let m := s.slotMem n
  let s := ((s.modCd d (fun x => x.loaded m n)).fset (GLB_DIE_STATE d) 3).tickStart d
  let s := ((s.applyService d 0 (firstVoted m)).applyService d 0 (firstNonVoted m)).resched d
  let s := if s.lane d = 5 then s else s.laneLeave d 1
  s.info .dieState d 0 n

/-! ### Commands (R657) -/

def Dev.imgWhy (s : Dev) (w : Nat) : Dev := s.fset SH_IMG_CTL_WHY w

/-- A powered control die runs its image from the slot. -/
def Dev.slotInUse (s : Dev) (n : Nat) : Bool :=
  (List.range 4).any (fun d => s.powered d &&
    (match (s.cd d).img with
      | some i => decide (b2n i.slotB = n)
      | none => false))

/-- An operation begins. -/
def Dev.imgBusy (s : Dev) (op n : Nat) : Dev :=
  (s.fset SH_IMG_CTL_BUSY 1).img (fun x => { x with imgOp := op, imgSlotB := decide (n = 1) })

/-- `ERASE` of a slot. -/
def Dev.imgErase (s : Dev) (n : Nat) : Dev :=
  let s := s.fset SH_IMG_CTL_SLOT n
  if s.fbit SH_IMG_CTL_BUSY then s.imgWhy 6
  else if s.slotInUse n then s.imgWhy 1
  else
    let s := { s with nv := { s.nv with
      img := Store.set (fun _ => []) s.nv.img n [], imgLen := Store.set (fun _ => 0) s.nv.imgLen n 0 } }
    ((s.fset SH_IMG_CTL_LEN 0).imgBusy 1 n).img (fun x => { x with imgWrite := some (decide (n = 1)), imgBad := 0 })

/-- ERASE. -/
def execErase (slotB : Bool) (s : State) : Out := s.upd (fun d => d.imgErase (b2n slotB))

/-- The next 8 bytes. -/
def Dev.imgData (s : Dev) (v : W64) : Dev :=
  match s.sh.img.imgWrite with
  | none => s
  | some b =>
    let len := s.fget SH_IMG_CTL_LEN
    if s.fbit SH_IMG_CTL_BUSY then (s.imgWhy 2).img (fun x => { x with imgBad := 2 })
    else if 0x2000000 < len + 8 then (s.imgWhy 3).img (fun x => { x with imgBad := 3 })
    else
      let m := Mem.writeLE (s.slotMem (b2n b)) len 8 v.toNat
      let s := { s with nv := { s.nv with img := Store.set (fun _ => []) s.nv.img (b2n b) m } }
      s.fset SH_IMG_CTL_LEN (len + 8)

/-- IMAGE_DATA. -/
def execImageData (v : W64) (s : State) : Out := s.upd (fun d => d.imgData v)

/-- `FINISH`. -/
def Dev.imgFinish (s : Dev) : Dev :=
  if s.fbit SH_IMG_CTL_BUSY then s.imgWhy 6
  else match s.sh.img.imgWrite with
    | none => s
    | some b => s.imgBusy 2 (b2n b)

/-- FINISH. -/
def execFinish (s : State) : Out := s.upd Dev.imgFinish

/-- The dies that a load names and that have power. -/
def Dev.loadDies (s : Dev) (dies : Nat) : List Nat := (List.range 4).filter (fun d => bitOf dies d && s.powered d)

/-- Loading begins: the dies stop; a counting lane is retired, and a lane that is not leaves the hurdle's inputs. -/
def Dev.loadStart (s : Dev) (n : Nat) (dies : List Nat) (good : Bool) : Dev :=
  let s := forAll dies s (fun s d =>
    let s := if s.lane d = 2 ∨ s.lane d = 3 ∨ s.lane d = 4 then s.planned d else s
    s.fset (GLB_DIE_STATE d) 2)
  let mask := dies.foldl (fun a d => a + 2 ^ d) 0
  (s.imgBusy 3 n).img (fun x => { x with imgDies := BitVec.ofNat 4 mask, imgGood := good })

/-- `LOAD` of a slot into dies. After a refusal under R327 or R328 a lane that does not count reloads the image it ran before. -/
def Dev.imgLoad (s : Dev) (n dies : Nat) : Dev :=
  let s := s.fset SH_IMG_CTL_SLOT n
  let l := s.loadDies dies
  let cnt := l.filter (fun d => decide (s.lane d = 4))
  if dies = 0 then s
  else if s.fbit SH_IMG_CTL_BUSY then s.imgWhy 6
  else if !s.imageGood n then (s.imgWhy 4).imageRefused n
  else if !s.slotUsable n then
    let s := (s.imgWhy 4).imageRefused n
    let back := l.filter (fun d => decide (s.lane d ≠ 4) && (s.cd d).img.isSome)
    if back.isEmpty then s else s.loadStart n back false
  else if !cnt.isEmpty && (decide (s.mode = 2) || decide (s.mode = 3) || decide (s.mode = 4)) &&
      decide (s.counting.length < cnt.length + 2) then (s.imgWhy 5).refuseWr SH_IMG_CTL
  else s.loadStart n l true

/-- LOAD. -/
def execLoad (slotB : Bool) (dies : BitVec 4) (s : State) : Out := s.upd (fun d => d.imgLoad (b2n slotB) dies.toNat)

/-- The end of a write: the length and both CRCs decide. -/
def Dev.finishEnd (s : Dev) (n : Nat) : Dev :=
  let m := s.slotMem n
  let len := s.fget SH_IMG_CTL_LEN
  let il := m.imageLen
  let why := if s.sh.img.imgBad ≠ 0 then s.sh.img.imgBad
    else if len < il ∨ il + 8 ≤ len then 3
    else if !m.crcsGood then 4 else 0
  let s := s.img (fun x => { x with imgWrite := none, imgBad := 0 })
  if why = 0 then
    { s with nv := { s.nv with
      img := Store.set (fun _ => []) s.nv.img n (m.filter (fun e => decide (e.1 < il)))
      imgLen := Store.set (fun _ => 0) s.nv.imgLen n il } }
  else s.imgWhy why

/-- The end of a load, with the dies whose readback is good; one whose load fails is powered down (R584). -/
def Dev.loadEnd (s : Dev) (n : Nat) (ok : BitVec 4) : Dev :=
  let x := s.sh.img
  forAll (s.loadDies x.imgDies.toNat) s (fun s d =>
    let slot := if x.imgGood then n
      else match (s.cd d).img with
        | some i => b2n i.slotB
        | none => n
    if ok.getLsbD d then s.loadDie d slot else s.dieDown d 1)

/-- An image operation completes. -/
def Dev.imgEnd (s : Dev) (ok : BitVec 4) : Dev :=
  if !s.fbit SH_IMG_CTL_BUSY then s
  else
    let n := b2n s.sh.img.imgSlotB
    let s := match s.sh.img.imgOp with
      | 2 => s.finishEnd n
      | 3 => s.loadEnd n ok
      | _ => s
    ((s.fset SH_IMG_CTL_BUSY 0).img (fun x => { x with imgOp := 0 })).irq 45

/-- IMAGE_OPERATION_COMPLETE. -/
def execImageOperationComplete (readbackOk : BitVec 4) (s : State) : Out := s.upd (fun d => d.imgEnd readbackOk)

/-! ### Start-up alternatives (R587, R591) -/

/-- `RETRY`. -/
def Dev.bootRetry (s : Dev) : Dev := { s with nv := { s.nv with retry := true } }

def execRetry (s : State) : Out := s.upd Dev.bootRetry

end Sys2Proof.Machine
end

