-- ==== Sys2Proof/Machine/Safety.lean ====
section
/-!
DEFINITION. The safety channel of the shepherd (R606-R634): demands, the evaluation of each tally set, BLOCK blocks,
SAFE_STATE, the detection of dangerous failures, and the safety parameters.
-/
namespace Sys2Proof.Machine

/-! ### The store (R627) -/

/-- Byte and FP32 word of a safety store. -/
def Mem.u8 (w : Mem) (a : Nat) : Nat := (w.byte a).toNat
def Mem.f32 (w : Mem) (a : Nat) : Nat := w.readLE a 4

/-- A function (0 SLC, 1 SLV, 2 SLD) is enabled for a converter. -/
def Mem.fen (w : Mem) (fn conv : Nat) : Bool := bitOf (w.u8 5) (4 * conv + fn)

def srcAt (i : Nat) : Nat := 184 + 16 * i
def legAt (l : Nat) : Nat := 160 + 4 * l
def chAt (j : Nat) : Nat := 312 + 16 * j
def slvAt (c : Nat) : Nat := 376 + 8 * c
def sldAt (c : Nat) : Nat := 392 + 16 * c

/-- An SLC channel is enabled: by itself, and for its converter. -/
def Mem.chOn (w : Mem) (j : Nat) : Bool := bitOf (w.u8 (chAt j + 2)) 7 && w.fen 0 (w.u8 (chAt j + 2) % 2)
def Mem.legOn (w : Mem) (l : Nat) : Bool := bitOf (w.u8 (legAt l + 2)) 7
def Mem.legConv (w : Mem) (l : Nat) : Nat := w.u8 (legAt l + 2) % 2

/-- A limit that must not be: zero, negative or NaN. -/
def badLimit (x : Nat) : Bool :=
  match f32.read x with
  | .nan => true
  | .inf n => n
  | .fin n m _ => n || decide (m = 0)

def badCount (n : Nat) : Bool := decide (n = 0) || decide (64 < n)

/-- An SLCV set passes R240. -/
def Mem.slcvOk (w : Mem) (k : Nat) : Bool :=
  let b := 8 + 8 * k
  decide (w.u8 (b + 6) ≤ 0x64) && decide (w.u8 (b + 5) ≤ 0x40) && decide (sx 16 (w.readLE b 2) ≤ sx 16 (w.readLE (b + 2) 2))

/-- The staging copy is accepted (R629). -/
def Mem.safeValid (w : Mem) : Bool :=
  decide (w.readLE 0 4 = 0x45464153) && decide (w.u8 4 = 1) &&
    (List.range 13).all w.slcvOk &&
    (List.range 6).all (fun l => decide (w.u8 (legAt l) < 12) && decide (w.u8 (legAt l + 1) < 12)) &&
    (List.range 4).all (fun j => decide (w.u8 (chAt j) < 8) && decide (w.u8 (chAt j + 1) < 8) &&
      !badCount (w.u8 (chAt j + 3)) && !(w.chOn j && badLimit (w.f32 (chAt j + 4)))) &&
    (List.range 2).all (fun c => !badCount (w.u8 (slvAt c)) && !(w.fen 1 c && badLimit (w.f32 (slvAt c + 4))) &&
      decide (w.u8 (sldAt c) < 4) && decide (w.u8 (sldAt c + 1) < 6) && !badCount (w.u8 (sldAt c + 3)) &&
      !(w.fen 2 c && badLimit (w.f32 (sldAt c + 4))))

/-- Its check value (R628). -/
def Mem.check (w : Mem) : W32 := crc32c ((List.range 512).map w.byte)

/-! ### A function acts (R613, R614) -/

/-- The BLOCK payload: FUNC as a 4-bit mask, SPB first. -/
def Dev.blockPl (s : Dev) (sub func : Nat) (bnum : Nat) : Payload :=
  let x := s.sh.safe
  Pl.mk [(0, 4, sub), (0, 8, 16 * func), (1, 8, b2n (s.twin && decide (s.fget SH_TWIN_STAT_ID ≠ 0))), (2, 16, x.blkSeq.toNat),
    (4, 32, x.blkTdet.toNat), (8, 16, bnum)]

/-- Live end ports of this package. -/
def Dev.liveEnds (s : Dev) : List (Nat × End) :=
  (List.range s.ringCount).flatMap (fun r =>
    if s.live r then ([End.a, End.b].filter (fun e => s.endUp r e)).map (fun e => (r, e)) else [])

/-- One copy of the BLOCK block from every live end port. -/
def Dev.sendBlocks (s : Dev) : Dev :=
  let pl := s.blockPl 1 (s.fget SH_SAFE_STAT_ACT) s.sh.safe.blkN
  let s := forAll s.liveEnds s (fun s q => s.send (.ringEnd q.1 q.2) 0x8 pl)
  s.safe (fun x => { x with blkN := (x.blkN + 1) % 65536 })

/-- A decision begins: the sequence up to which droves may have left without SPB, and the detection instant. -/
def Dev.blockStart (s : Dev) : Dev :=
  let s := if s.sh.safe.blkOn then s
    else
      let q := BitVec.ofNat 16 (s.sh.tly.voted + 65535)
      let t := BitVec.ofNat 32 s.now.toNat
      s.safe (fun x => { x with blkOn := true, blkN := 0, blkSeq := q, blkTdet := t, safeStateMiss := false })
  (s.safe (fun x => { x with blkAt := s.sh.clk.raw })).sendBlocks

/-- Function fn (0 SPB, 1 SLC, 2 SLV, 3 SLD) acts for the converters of a mask: R613 in its order. -/
def Dev.safeAct (s : Dev) (fn convs : Nat) : Dev :=
  let act := s.fget SH_SAFE_STAT_ACT
  let conv := s.fget SH_SAFE_STAT_CONV
  if bitOf act fn && decide (conv ||| convs = conv) then s
  else
    let s := s.finc SH_SAFE_STAT_DEMCNT
    let s := (s.fset SH_SAFE_STAT_ACT (act ||| 2 ^ fn)).fset SH_SAFE_STAT_CONV (conv ||| convs)
    let s := if bitOf act fn then s else s.irq 34
    let s := ((s.blockStart).vote (fun x => { x with safeSpb := true })).autoMode 1
    if bitOf (s.fget SH_REC_SRC_SAFE) fn then s.recLearn (ts32 s.now.toNat) 3 else s

/-- A dangerous failure of row n (R623): its bit, and a log entry of the class its row gives. -/
def Dev.diagSet (s : Dev) (n : Nat) (cls : Cls) : Dev :=
  let f : Field := ⟨SH_SAFE_STAT, 32 + (n - 1), 1⟩
  let s := s.safe (fun x => { x with diagNow := x.diagNow ||| BitVec.ofNat 13 (2 ^ (n - 1)) })
  if s.fbit f then s else ((s.fset f 1).irq 34).report cls .safety n 0 0

/-- The condition of row n is over; its bit stays until it is cleared. -/
def Dev.diagOver (s : Dev) (n : Nat) : Dev :=
  s.safe (fun x => { x with diagNow := x.diagNow &&& ~~~(BitVec.ofNat 13 (2 ^ (n - 1))) })

/-- A host write of 1 to `DIAG` bits: those whose condition persists stay (R624). -/
def Dev.diagClear (s : Dev) (v : W64) : Dev :=
  let w := bitsOf v.toNat 32 13
  let keep := s.sh.safe.diagNow
  s.fset SH_SAFE_STAT_DIAG ((BitVec.ofNat 13 (s.fget SH_SAFE_STAT_DIAG) &&& ~~~(BitVec.ofNat 13 w &&& ~~~keep)).toNat)

/-! ### SPB (R607) -/

/-- The SAFE_REQ_n pins as they read after their filters. -/
def Dev.setPins (s : Dev) (v : BitVec 2) : Dev :=
  let s := s.pin (fun x => { x with safeReq := v })
  if v = 1 ∨ v = 2 then s else s.diagOver 2

/-- A SAFE_REQ_n pin reads asserted: a demand. -/
def Dev.safeReq (s : Dev) (pin : Nat) : Dev :=
  let was := s.sh.pin.safeReq
  (s.setPins (was ||| BitVec.ofNat 2 (2 ^ pin))).safeAct 0 3

/-- SAFE_REQ_DEMAND. The safety channel runs from step 4 on, in every mode (R618). -/
def execSafeReqDemand (pin : Fin 2) (s : State) : Out :=
  s.upd (fun d => if d.running 7 then d.safeReq pin.val else d)

/-! ### Sources and legs (R609-R611) -/

/-- An exact value as FP32; between two neighbours the choice is open (log entry 52). -/
def safeWord (v : FpV) : Nat :=
  match v with
  | .fin neg m e =>
    let sh := Nat.log2 m + 1 - 24
    let q := m / 2 ^ sh
    f32.pack neg (if decide (m % 2 ^ sh = 0) || !Config.safeUp neg m e then q else q + 1) (e + (sh : Int)) false
  | w => f32.write w

def FpV.ofInt (x : Int) : FpV := .fin (decide (x < 0)) x.natAbs 0

/-- A sample of a source: its value, and whether it is over range, with its code's sign. -/
structure SafeVal where
  x : Nat
  ovr : Bool
  neg : Bool
  deriving DecidableEq, Repr

/-- The entry of a cell in the merged set, if the cell is present. -/
def Dev.mergedOf (s : Dev) (id : Nat) : Option Blk :=
  match s.sh.tly.merged.find? (fun e => decide (e.1 = id)) with
  | some e => if entPres e.2 then some e.2 else none
  | none => none

/-- Code and over-range flag of source i in the set. -/
def Dev.srcCode (s : Dev) (w : Mem) (i : Nat) : Option (Nat × Bool) :=
  let id := w.readLE (srcAt i + 2) 2
  match w.u8 (srcAt i) with
  | 1 => (s.mergedOf id).map (fun b => (Blk.get b 12 16, bitOf (entState b) 8))
  | 2 =>
    let y := (Store.get (fun _ => 0) s.sh.tly.mergedAq id).toNat
    if id < 48 ∧ bitOf y 31 then some (y % 65536, bitOf y 30) else none
  | _ => none

/-- The value of source i (R609). -/
def Dev.srcVal (s : Dev) (w : Mem) (i : Nat) : Option SafeVal :=
  (s.srcCode w i).map (fun c =>
    let code := sx 16 c.1
    let x := ((FpV.ofInt code).mul (f32.read (w.f32 (srcAt i + 4)))).add (f32.read (w.f32 (srcAt i + 8)))
    { x := safeWord x, ovr := c.2, neg := decide (code < 0) })

/-- `SH_SAFE_SRC`. -/
def Dev.showSrc (s : Dev) (w : Mem) (i : Nat) : Dev :=
  match s.srcVal w i with
  | some v => ((s.fset (SH_SAFE_SRC_MISS i) 0).fset (SH_SAFE_SRC_OVR i) (b2n v.ovr)).fset (SH_SAFE_SRC_X i) v.x
  | none => (s.fset (SH_SAFE_SRC_MISS i) 1).fset (SH_SAFE_SRC_OVR i) 0

/-- What the channel keeps of a cell (R611, row 8 of R623): last RAW, identical in a row, cycle of the last good tally plus one. -/
def Dev.rawOf (s : Dev) (id : Nat) : Option (W16 × Nat × Nat) :=
  (s.sh.safe.rawHist.find? (fun e => decide (e.1 = id))).map (fun e => e.2)

/-- Converter A is taken for frozen: 64 identical codes. -/
def Dev.frozen (s : Dev) (id : Nat) : Bool :=
  match s.rawOf id with
  | some h => decide (64 ≤ h.2.1)
  | none => false

/-- Notes a cell's tally of cycle k. -/
def Dev.noteRaw (s : Dev) (k id : Nat) (b : Blk) : Dev :=
  let raw : W16 := BitVec.ofNat 16 (Blk.get b 12 16)
  let (n, last) := match s.rawOf id with
    | some h => (if h.1 = raw then min (h.2.1 + 1) 64 else 1, h.2.2)
    | none => (1, 0)
  let good := decide (n < 64)
  s.safe (fun x => { x with
    rawHist := (id, raw, n, if good then k + 1 else last) :: x.rawHist.filter (fun e => decide (e.1 ≠ id))
    insHist := if good then Store.set (fun _ => 0) x.insHist id (entState b % 8 + 1) else x.insHist })

/-- Sign of a reported state in a leg's sum. -/
def insSign (ins : Nat) : Int := if ins = 1 then 1 else if ins = 2 then -1 else 0

/-- An isolated member has missed its last drove that counts (R143, R144, R611). -/
def Dev.isoOut (s : Dev) (k id : Nat) : Bool :=
  let mark := Store.get (fun _ => 0) s.sh.tly.isoMark id
  decide (mark ≠ 0) && decide (mark - 1 + s.fget (SH_FOLD_MAP_NMISS id) ≤ k)

/-- A missing member still counts with its last report: 16 cycles in a row. -/
def Dev.lastCounts (s : Dev) (k id : Nat) : Bool :=
  match s.rawOf id with
  | some h => decide (h.2.2 ≠ 0) && decide (k + 1 - h.2.2 ≤ 16)
  | none => false

/-- R611 gives a missing member 0: isolated and out, or bypassed for good by its last report. -/
def Dev.givesZero (s : Dev) (k id : Nat) : Bool :=
  let ins := Store.get (fun _ => 0) s.sh.safe.insHist id
  s.isoOut k id || (!s.lastCounts k id && (decide (ins = 5) || decide (ins = 6)))

/-- What a member without a good tally contributes, in codes; `none` for THR1 of its fold (R611). -/
def Dev.memberLost (s : Dev) (k id : Nat) : Option Int :=
  if s.givesZero k id then some 0
  else if s.lastCounts k id then
    match s.rawOf id with
    | some h => some (insSign (Store.get (fun _ => 0) s.sh.safe.insHist id - 1) * sx 16 h.1.toNat)
    | none => none
  else none

/-- The contribution of a member in codes, and whether R611 gave it. -/
def Dev.member (s : Dev) (w : Mem) (k f id : Nat) : Int × Bool :=
  match (if s.frozen id then none else s.mergedOf id) with
  | some b => (insSign (entState b % 8) * sx 16 (Blk.get b 12 16), false)
  | none => ((s.memberLost k id).getD (sx 16 (w.readLE (8 + 8 * f) 2)), true)

/-- Sum of a fold in codes, and its members under R611. -/
def Dev.foldSum (s : Dev) (w : Mem) (k f : Nat) : Int × Nat :=
  (s.foldCells f).foldl (fun a id => let m := s.member w k f id; (a.1 + m.1, a.2 + b2n m.2)) (0, 0)

/-- V_leg as FP32, and `NSUB` (R610). -/
def Dev.legSum (s : Dev) (w : Mem) (k l : Nat) : Nat × Nat :=
  let u := w.u8 (legAt l)
  let d := w.u8 (legAt l + 1)
  let a := s.foldSum w k u
  let b := s.foldSum w k d
  let ks := fun (f : Nat) => f32.read (w.f32 (112 + 4 * f))
  (safeWord (((FpV.ofInt a.1).mul (ks u)).add ((FpV.ofInt b.1).mul (ks d))), a.2 + b.2)

/-- `SH_SAFE_LEG` of an enabled leg. -/
def Dev.showLeg (s : Dev) (w : Mem) (k l : Nat) : Dev :=
  if w.legOn l then
    let v := s.legSum w k l
    (s.fset (SH_SAFE_LEG_V l) v.1).fset (SH_SAFE_LEG_NSUB l) v.2
  else s

/-! ### SLC, SLV and SLD (R612, rows 6 and 7 of R623) -/

/-- One sample of a limit: the counts of consecutive samples over it and not over it. No sample leaves both. -/
def Dev.sampleCount (s : Dev) (i : Nat) (o : Option Bool) : Dev :=
  match o with
  | none => s
  | some b =>
    s.safe (fun x => { x with
      nOver := Store.set (fun _ => 0) x.nOver i (if b then min (Store.get (fun _ => 0) x.nOver i + 1) 64 else 0)
      nClear := Store.set (fun _ => 0) x.nClear i (if b then 0 else min (Store.get (fun _ => 0) x.nClear i + 1) 64) })

def Dev.overCount (s : Dev) (i : Nat) : Nat := Store.get (fun _ => 0) s.sh.safe.nOver i
def Dev.clearCount (s : Dev) (i : Nat) : Nat := Store.get (fun _ => 0) s.sh.safe.nClear i

/-- |x| lies beyond a limit. -/
def SafeVal.beyond (v : SafeVal) (lim : Nat) : Bool := v.ovr || f32.lt lim (f32.abs v.x)

/-- SLC channel j. -/
def Dev.slc (s : Dev) (w : Mem) (j : Nat) : Dev :=
  if !w.chOn j then s
  else
    let conv := 2 ^ (w.u8 (chAt j + 2) % 2)
    let lim := w.f32 (chAt j + 4)
    let n := w.u8 (chAt j + 3)
    let a := s.srcVal w (w.u8 (chAt j))
    let b := s.srcVal w (w.u8 (chAt j + 1))
    let s := (s.sampleCount (2 * j) (a.map (fun v => v.beyond lim))).sampleCount (2 * j + 1) (b.map (fun v => v.beyond lim))
    let s := if n ≤ s.overCount (2 * j) ∨ n ≤ s.overCount (2 * j + 1) then s.safeAct 1 conv else s
    match a, b with
    | none, none => (s.diagSet 6 .cont).safeAct 1 conv
    | some p, some q =>
      let diff := f32.abs (safeWord ((f32.read p.x).add (f32.read q.x).neg))
      if f32.lt (w.f32 (chAt j + 8)) diff then (s.diagSet 7 .cont).safeAct 1 conv else s
    | _, _ => s

/-- SLV on leg l. -/
def Dev.slv (s : Dev) (w : Mem) (k l : Nat) : Dev :=
  let c := w.legConv l
  if !(w.legOn l && w.fen 1 c) then s
  else
    let s := s.sampleCount (8 + l) (some (f32.lt (w.f32 (slvAt c + 4)) (s.legSum w k l).1))
    if w.u8 (slvAt c) ≤ s.overCount (8 + l) then s.safeAct 2 (2 ^ c) else s

/-- The power of converter c lies beyond `PLIM` in the forbidden direction; none without a present source. -/
def Dev.sldOver (s : Dev) (w : Mem) (k c : Nat) : Option Bool :=
  let j := w.u8 (sldAt c)
  let forb := bitOf (w.u8 (sldAt c + 2)) 0
  let v := (s.legSum w k (w.u8 (sldAt c + 1))).1
  let l := [s.srcVal w (w.u8 (chAt j)), s.srcVal w (w.u8 (chAt j + 1))].filterMap id
  match l with
  | [] => none
  | a :: rest =>
    match l.find? (fun q => q.ovr) with
    | some q =>
      match f32.read v with
      | .fin _ 0 _ => some false
      | .fin n _ _ => some (decide ((n != q.neg) = forb))
      | .inf n => some (decide ((n != q.neg) = forb))
      | .nan => some false
    | none =>
      let sum := rest.foldl (fun x q => x.add (f32.read q.x)) (f32.read a.x)
      let mean := safeWord (if rest.isEmpty then sum else sum.mul (.fin false 1 (-1)))
      let p := safeWord ((f32.read v).mul (f32.read mean))
      some (f32.lt (w.f32 (sldAt c + 4)) (f32.abs p) && decide (bitOf p 31 = forb))

/-- SLD of converter c. -/
def Dev.sld (s : Dev) (w : Mem) (k c : Nat) : Dev :=
  if !w.fen 2 c then s
  else
    let s := s.sampleCount (16 + c) (s.sldOver w k c)
    if w.u8 (sldAt c + 3) ≤ s.overCount (16 + c) then s.safeAct 3 (2 ^ c) else s

/-! ### SAFE_STATE (R616) -/

/-- A member is blocked or bypassed by its tally, or contributes 0 under R611. -/
def Dev.memberSafe (s : Dev) (k id : Nat) : Bool :=
  match (if s.frozen id then none else s.mergedOf id) with
  | some b => decide (3 ≤ entState b % 8) && decide (entState b % 8 ≤ 5)
  | none => s.givesZero k id

/-- The first member of an enabled fold that is not safe. -/
def Dev.firstUnsafe (s : Dev) (k : Nat) : Option Nat :=
  (((List.range 12).filter (fun f => s.fbit (SH_FOLD_CFG_EN f))).flatMap s.foldCells).find? (fun id => !s.memberSafe k id)

/-- SAFE_STATE from a tally set after the decision. -/
def Dev.safeState (s : Dev) (k : Nat) : Dev :=
  if s.fget SH_SAFE_STAT_ACT ≠ 0 ∧ ¬ s.sh.safe.safeStateMiss ∧ (s.firstUnsafe k).isNone then s.fset SH_SAFE_STAT_SSTATE 1 else s

/-- SAFE_STATE_TIMEOUT: 1 ms after the decision. -/
def Dev.safeTimeout (s : Dev) : Dev :=
  if s.fget SH_SAFE_STAT_ACT ≠ 0 ∧ ¬ s.fbit SH_SAFE_STAT_SSTATE ∧ ¬ s.sh.safe.safeStateMiss then
    let id := (s.firstUnsafe (s.sh.tly.closed - 1)).getD 0
    (s.safe (fun x => { x with safeStateMiss := true })).report .cont .safety 0 16 id
  else s

def execSafeStateTimeout (s : State) : Out := s.upd Dev.safeTimeout

/-! ### The evaluation of a tally set -/

/-- The set of cycle k is evaluated. Until step 10 has passed the channel runs SPB only (R618). -/
def Dev.evaluate (s : Dev) (k : Nat) : Dev :=
  let s := s.safe (fun x => { x with safeCyc := k + 1 })
  let s := forAll s.sh.tly.merged s (fun s e => if entPres e.2 then s.noteRaw k e.1 e.2 else s)
  let s := if s.sh.tly.merged.any (fun e => s.frozen e.1) then s.diagSet 8 .cont else s.diagOver 8
  let s := s.safeState k
  if !s.sh.safe.safeOk then s
  else
    let w := s.sh.safe.safeWork
    let s := forAll (List.range 8) s (fun s i => s.showSrc w i)
    let s := forAll (List.range 6) s (fun s l => s.showLeg w k l)
    let s := (s.diagOver 6).diagOver 7
    let s := forAll (List.range 4) s (fun s j => s.slc w j)
    let s := forAll (List.range 6) s (fun s l => s.slv w k l)
    forAll (List.range 2) s (fun s c => s.sld w k c)

/-- SAFETY_EVALUATION: of the latest tally set, once. -/
def execSafetyEvaluation (s : State) : Out :=
  s.upd (fun d =>
    let k := d.sh.tly.closed
    if d.running 7 ∧ d.sh.safe.safeCyc < k then d.evaluate (k - 1) else d)

/-- BLOCK_REPEAT: the next copy. -/
def execBlockRepeat (s : State) : Out :=
  s.upd (fun d => if d.sh.safe.blkOn then d.sendBlocks else d)

/-! ### Ending a demand (R617) -/

/-- SLC's, SLV's and SLD's limits were not exceeded in their last N samples. -/
def Dev.demandOver (s : Dev) (fn : Nat) : Bool :=
  let w := s.sh.safe.safeWork
  match fn with
  | 0 => decide (s.sh.pin.safeReq = 0)
  | 1 => (List.range 4).all (fun j => !w.chOn j ||
      (decide (w.u8 (chAt j + 3) ≤ s.clearCount (2 * j)) && decide (w.u8 (chAt j + 3) ≤ s.clearCount (2 * j + 1))))
  | 2 => (List.range 6).all (fun l => !(w.legOn l && w.fen 1 (w.legConv l)) ||
      decide (w.u8 (slvAt (w.legConv l)) ≤ s.clearCount (8 + l)))
  | _ => (List.range 2).all (fun c => !w.fen 2 c || decide (w.u8 (sldAt c + 3) ≤ s.clearCount (16 + c)))

/-- A write of `SH_SAFE_CTL.RST`. -/
def Dev.safeReset (s : Dev) : Dev :=
  let act := s.fget SH_SAFE_STAT_ACT
  let left := (List.range 4).foldl (fun a fn => if bitOf act fn && !s.demandOver fn then a + 2 ^ fn else a) 0
  let s := s.fset SH_SAFE_STAT_ACT left
  if left ≠ 0 then s
  else ((s.fset SH_SAFE_STAT_CONV 0).fset SH_SAFE_STAT_SSTATE 0).safe (fun x => { x with blkOn := false, safeStateMiss := false })

/-- SAFETY_RESET, with the pins that read asserted after their filters. -/
def execSafetyReset (pins : BitVec 2) (s : State) : Out :=
  s.upd (fun d => (d.setPins pins).safeReset)

/-! ### Parameters (R629) -/

/-- The staging copy. -/
def Dev.staging (s : Dev) : Mem :=
  (List.range 64).foldl (fun m i => Mem.writeLE m (8 * i) 8 (s.rget (SH_SAFE_DATA i)).toNat) []

/-- A write of `SH_SAFE_DATA(w)`. -/
def Dev.safeDataWrite (s : Dev) (w : Nat) (v : W64) : Dev :=
  if s.mode = 1 then
    let s := s.rset (SH_SAFE_DATA w) v
    s.fset SH_SAFE_CHK_STAGED s.staging.check.toNat
  else s.refuseWr (SH_SAFE_DATA w)

/-- SAFETY_DATA_WRITE. -/
def execSafetyDataWrite (w : Fin 64) (v : W64) (s : State) : Out := s.upd (fun d => d.safeDataWrite w.val v)

/-- A write of `SH_SAFE_CTL.COMMIT`. -/
def Dev.safeCommit (s : Dev) : Dev :=
  if s.mode ≠ 1 then s.refuseWr SH_SAFE_CTL
  else
    let w := s.staging
    if !w.safeValid then s.fset SH_SAFE_STAT_CREF 1
    else
      let s := { s with nv := { s.nv with safe := w, safeLen := 512, chk := w.check, confd := false } }
      let s := (s.fset SH_SAFE_STAT_CREF 0).safe (fun x => { x with safeNext := some w })
      forAll s.enumerated s (fun s id => s.slcvFrom w id)

/-- COMMIT. -/
def execCommit (s : State) : Out := s.upd Dev.safeCommit

/-- A write of `SH_SAFE_CONFIRM` (R13, R629). -/
def Dev.safeConfirm (s : Dev) (v : W32) : Dev :=
  let s := s.fset SH_SAFE_CONFIRM_V v.toNat
  { s with nv := { s.nv with confd := decide (v = s.nv.chk) } }

/-- SAFETY_CONFIRM. -/
def execSafetyConfirm (v : W32) (s : State) : Out := s.upd (fun d => d.safeConfirm v)

/-- A write of `SH_FLT_CFG` (R597). -/
def Dev.fltCfgWrite (s : Dev) (v : W64) : Dev :=
  if s.mode = 1 then s.plainWrite SH_FLT_CFG v else s.refuseWr SH_FLT_CFG

/-- FAULT_CONFIGURATION_WRITE. -/
def execFaultConfigurationWrite (v : W64) (s : State) : Out := s.upd (fun d => d.fltCfgWrite v)

/-! ### Detection of dangerous failures (R623, R632) -/

/-- SLCV_BRANCH_TEST: a comparator branch that fails its test latches SLCV. -/
def execSlcvBranchTest (p : Place) (pass : Bool) (s : State) : Out :=
  s.updIf (s.dev.hasPlace p) (fun d => if pass then d else d.modCell p (fun c => c.act Cell.slcvTrip))

/-- SAFE_REQ_TEST. -/
def execSafeReqTest (_pin : Fin 2) (stuck : Bool) (s : State) : Out :=
  s.upd (fun d => if stuck then (d.diagSet 1 .cont).safeAct 0 3 else d.diagOver 1)

/-- DISCREPANCY_TIMER: the pins have disagreed for 10 ms. -/
def execDiscrepancyTimer (s : State) : Out :=
  s.upd (fun d =>
    if d.sh.pin.safeReq = 1 ∨ d.sh.pin.safeReq = 2 then d.diagSet 2 .cont else d.diagOver 2)

/-- The store as it lies in boot memory agrees with its check value. -/
def Dev.storeGood (s : Dev) : Bool := decide (s.nv.safeLen = 512) && decide (s.nv.safe.check = s.nv.chk)

/-- STORE_CRC_CHECK: the working copy goes on. -/
def execStoreCrcCheck (s : State) : Out :=
  s.upd (fun d => if d.nv.safeLen = 0 then d else if d.storeGood then d.diagOver 5 else d.diagSet 5 .cont)

/-- The ring's two ends hear each other: it is up and has no break. -/
def Dev.testRing (s : Dev) (r : Nat) : Bool := (s.ring r).up && s.wholeRing r && decide (s.ringState r = 3 ∨ s.ringState r = 4)

/-- TEST_BLOCK_SEND: from each end of each whole ring. -/
def execTestBlockSend (s : State) : Out :=
  s.upd (fun d => forAll d.liveEnds d (fun d q =>
    if d.testRing q.1 then d.send (.ringEnd q.1 q.2) 0x8 (Pl.mk [(0, 8, 2), (1, 8, b2n (d.twin && decide (d.fget SH_TWIN_STAT_ID ≠ 0)))])
    else d))

/-- BLOCK_TEST: the TEST block of one end has reached end e of the ring, or none has within its time: the ring is reported
    split, a contained fault, until one arrives again (log entry 99). -/
def Dev.blockTest (s : Dev) (r : Nat) (e : End) (arrived : Bool) : Dev :=
  if !s.testRing r || !s.endUp r e then s
  else
    let rest := s.sh.safe.testBad.filter (fun x => decide (x ≠ (r, decide (e = .b))))
    let bad := if arrived then rest else (r, decide (e = .b)) :: rest
    let s := s.safe (fun x => { x with testBad := bad })
    let s := s.rfset RDn_RING_STAT_STATE r (if bad.any (fun x => decide (x.1 = r)) then 4 else 3)
    if bad.isEmpty then s.diagOver 9 else if arrived then s else s.diagSet 9 .cont

def execBlockTest (r : Nat) (e : End) (arrived : Bool) (s : State) : Out :=
  s.updIf (s.dev.hasRing r) (fun d => d.blockTest r e arrived)

/-- FAULT_N_TEST_PULSE, read back. -/
def execFaultNTestPulse (readbackOk : Bool) (s : State) : Out :=
  s.upd (fun d =>
    if d.fbit SH_SAFE_STAT_FAULTN then d
    else if readbackOk then d.diagOver 13
    else (d.diagSet 13 .cont).safeAct 0 3)

/-- OUTPUT_READBACK_SHORT. -/
def execOutputReadbackShort (s : State) : Out := s.upd (fun d => d.fset SH_SAFE_STAT_SHORT 1)

end Sys2Proof.Machine
end

