-- ==== Sys2Proof/Machine/Power.lean ====
section
/-!
DEFINITION. Fatal faults, power cycling of dies, loss of supplies and resets (R53, R599-R605, R623, R638, R674-R677).
-/
namespace Sys2Proof.Machine

/-! ### The package without power -/

/-- What outlives the loss of every die's power: boot memory, the cells, the pins' levels, and the model's own record. -/
def Dev.powerless (s : Dev) : Dev :=
  let p := s.sh.pin
  { Dev.reset with
    variant := s.variant, nv := s.nv, cells := s.cells, freeCtr := s.freeCtr, rdata := s.rdata, out := s.out
    sh := { Shepherd.reset with pin := { ShPin.reset with
      vddh := p.vddh, refclk := p.refclk, debugEn := p.debugEn, strapRef := p.strapRef, rline := p.rline, hurdleIn := p.hurdleIn } } }

/-- A package-fatal fault (R604): BLOCK blocks of a standalone package; every PWR_EN_ low; FAULT_n low until step 4 passes. What
    follows is a power-up. -/
def Dev.packageFatal (s : Dev) : Dev :=
  let s := if s.twin then s else
    let s := if s.sh.safe.blkOn then s else
      s.safe (fun x => { x with
        blkSeq := BitVec.ofNat 16 (s.sh.tly.voted + 65535), blkTdet := BitVec.ofNat 32 s.now.toNat, blkN := 0 })
    let pl := s.blockPl 1 0 s.sh.safe.blkN
    forAll s.liveEnds s (fun s q => s.send (.ringEnd q.1 q.2) 0x8 pl)
  s.powerless.fset SH_SAFE_STAT_FAULTN 1

/-! ### A fatal die (R599, R601-R603) -/

/-- The die went fatal for the first time less than 24 h ago. -/
def Dev.againFatal (s : Dev) (d : Nat) : Bool :=
  match s.sh.pin.firstFatal.find? (fun e => decide (e.1 = d)) with
  | some e => decide ((s.sh.clk.raw.toNat : Int) < (e.2.toNat : Int) - 1 + 86400 * 1000000000)
  | none => false

/-- A ring die that can launch BLOCK blocks is left. -/
def Dev.rdLeft (s : Dev) : Bool := s.running 4 || s.running 5

/-- The units that die d's pools hold (R54, R55), by quantity (0 ring credits, 1 tags, 2 mailbox slots, 3 contexts, 4 FIFO entries,
    5 mirror blocks), unit and number. -/
def Dev.unitsHeld (s : Dev) (d : Nat) : List (Nat × Nat × Nat) :=
  if d < 4 then
    let x := s.cd d
    x.mboxes.map (fun e => (2, e.1, e.2.msgs.length)) ++ (x.tasks.filter (fun e => decide (e.2.state ≠ .free))).map (fun e => (3, e.1, 1))
      ++ x.images.map (fun g => (5, g.cycle, g.mst.length))
  else if d < 6 then
    let n := d - 4
    (s.ends.filter (fun e => decide (s.tagRd e.1 = n))).map (fun e => (0, e.1, 4 - e.2.credits))
      ++ (s.rd n).tags.map (fun e => (1, e.1, 1)) ++ (s.rd n).fifos.map (fun e => (4, e.1, e.2.words.length))
  else []

/-- Die d is fatal, with the cause code of `SH_FLT_DIE`. -/
def Dev.fatal (s : Dev) (d cause : Nat) : Dev :=
  if !s.powered d then s
  else if d = 7 then s.packageFatal
  else
    let s := (s.logWith .fatal 0 .fatal d cause (Config.lostDetail cause (s.unitsHeld d)).toNat).finc SH_FLT_STAT_FATAL
    let s := (s.fset (SH_FLT_DIE_CAUSE d) cause).finc (SH_FLT_DIE_FCNT d)
    let again := s.againFatal d
    let s := if again then s else s.pin (fun x => { x with firstFatal := Store.insert x.firstFatal d (s.sh.clk.raw + 1) })
    let s := s.dieLost d
    let s := ((s.fset (GLB_DIE_FATAL d) 1).fset (GLB_DIE_PWR d) 0).fset (GLB_DIE_PG d) 0
    let s := if again then (s.fset (GLB_DIE_STATE d) 5).fset (SH_FLT_DIE_LEFT d) 1
      else (s.fset (GLB_DIE_STATE d) 4).fset (SH_FLT_DIE_PCYC d) 1
    if (d = 4 ∨ d = 5) ∧ ¬ s.rdLeft then s.packageFatal else s

/-- PG_LOSS: PG_ low for more than 10 µs while PWR_EN_ is high. -/
def execPgLoss (die : Die) (s : State) : Out := s.updIf (s.dev.present die.idx) (fun d => d.fatal die.idx 1)
/-- BUS_NO_ANSWER. -/
def execBusNoAnswer (die : Die) (s : State) : Out := s.updIf (s.dev.present die.idx) (fun d => d.fatal die.idx 2)
/-- JUNCTION_OVERTEMPERATURE. -/
def execJunctionOvertemperature (die : Die) (s : State) : Out := s.updIf (s.dev.present die.idx) (fun d => d.fatal die.idx 3)
/-- UNCORRECTABLE_ERROR. -/
def execUncorrectableError (die : Die) (s : State) : Out := s.updIf (s.dev.present die.idx) (fun d => d.fatal die.idx 4)
/-- LAUNCH_CONFIRMATION_MISSING: row 9 of R623. -/
def execLaunchConfirmationMissing (rd : RDie) (s : State) : Out :=
  s.updIf (s.dev.present (4 + rd.idx)) (fun d =>
    if d.powered (4 + rd.idx) then
      let d := d.diagSet 9 .cont
      (if d.sh.safe.testBad.isEmpty then d.diagOver 9 else d).fatal (4 + rd.idx) 5
    else d)

/-! ### Failures of the safety channel itself (rows 3, 4 and 12 of R623) -/

/-- SAFETY_WATCHDOG. -/
def execSafetyWatchdog (s : State) : Out := s.upd (fun d => if d.powered 7 then d.packageFatal else d)

/-- WORKING_COPY_CRC: a working copy that no longer agrees with its check value is package-fatal. -/
def execWorkingCopyCrc (s : State) : Out :=
  s.upd (fun d =>
    let x := d.sh.safe
    if x.safeOk && x.safeNext.isNone && decide (x.safeWork.check ≠ d.nv.chk) then d.packageFatal else d)

/-- REFCLK_LOSS. -/
def execRefclkLoss (s : State) : Out :=
  s.upd (fun d =>
    let d := d.pin (fun x => { x with refclk := false })
    if d.powered 7 then d.packageFatal else d)

/-! ### The power cycle (R601, R602) -/

/-- The die is in a power cycle; a reset does not stop it (R676). -/
def Dev.cycling (s : Dev) (d : Nat) : Bool := decide (d < 7) && s.fbit (SH_FLT_DIE_PCYC d)

/-- POWER_CYCLE_OFF_END: PWR_EN_ driven high. -/
def Dev.cycleOn (s : Dev) (d : Nat) : Dev := if s.cycling d then s.fset (GLB_DIE_PWR d) 1 else s

def execPowerCycleOffEnd (die : Die) (s : State) : Out := s.updIf (s.dev.present die.idx) (fun d => d.cycleOn die.idx)

/-- The die is left powered down (R601, R602). -/
def Dev.leaveDown (s : Dev) (d : Nat) : Dev :=
  let s := ((s.fset (GLB_DIE_PWR d) 0).fset (GLB_DIE_PG d) 0).fset (GLB_DIE_STATE d) 5
  (s.fset (SH_FLT_DIE_PCYC d) 0).fset (SH_FLT_DIE_LEFT d) 1

/-- POWER_CYCLE_PG_TIMEOUT: PG_ has not fallen, or has not risen, in time. -/
def execPowerCyclePgTimeout (die : Die) (s : State) : Out :=
  s.updIf (s.dev.present die.idx) (fun d => if d.cycling die.idx then d.leaveDown die.idx else d)

/-- A write of `SH_FLT_DIE.REVIVE`: steps 4-6 of R601. -/
def Dev.revive (s : Dev) (d : Nat) : Dev :=
  if decide (d < 7) && s.fbit (SH_FLT_DIE_LEFT d) then
    (((s.fset (SH_FLT_DIE_LEFT d) 0).fset (SH_FLT_DIE_PCYC d) 1).fset (GLB_DIE_PWR d) 1).fset (GLB_DIE_STATE d) 4
  else s

/-- REVIVE. -/
def execRevive (die : Die) (s : State) : Out := s.updIf (s.dev.present die.idx) (fun d => d.revive die.idx)

/-- Registers that both ring dies hold alike: a die that comes up takes them from the other (R112). -/
def ringArrays : List Nat := [0x10000, 0x10800, 0x10C00, 0x11000, 0x50100]

def Dev.copyRings (s : Dev) (n : Nat) : Dev :=
  forAll ringArrays s (fun s a => forAll (List.range 66) s (fun s r => s.rset (rdBase n + a + 8 * r) (s.rget (rdBase (1 - n) + a + 8 * r))))

/-- A timekeeping die's counter starts at zero with the master's time (R449, R453). -/
def Dev.startTime (s : Dev) (d : Nat) : Dev :=
  let o := s.corr s.sh.clk.raw s.sh.clk.ofs
  if d = 4 then s.modRd 0 (fun x => { x with raw := 0, ofs := o })
  else if d = 5 then s.modRd 1 (fun x => { x with raw := 0, ofs := o })
  else if d = 6 then { s with aq := { s.aq with raw := 0, ofs := o } }
  else s

/-- The die is up. -/
def Dev.dieUp (s : Dev) (d : Nat) : Dev :=
  (((s.fset (GLB_DIE_PG d) 1).fset (GLB_DIE_FATAL d) 0).fset (GLB_DIE_STATE d) 3).startTime d

/-- The slot that step 8 chooses: the preferred one, or the other (R585). -/
def Dev.slotChoice (s : Dev) : Option Nat :=
  let p := b2n s.nv.pref
  if s.slotUsable p then some p else if s.slotUsable (1 - p) then some (1 - p) else none

/-- A die comes back from its power cycle through the start-up steps of its kind; the result goes to the event log (R588). -/
def Dev.dieBack (s : Dev) (d : Nat) (pass : Bool) : Dev :=
  let s := s.fset (SH_FLT_DIE_PCYC d) 0
  let s := s.info .dieState d (16 + b2n pass) 0
  if !pass then ((s.fset (GLB_DIE_FATAL d) 0).dieDown d 1)
  else
    let s := s.dieUp d
    if d < 4 then
      match s.slotChoice with
      | some n => s.loadDie d n
      | none => s
    else if (d = 4 ∨ d = 5) ∧ s.powered (9 - d) ∧ ¬ s.wide then s.copyRings (d - 4)
    else s

/-- DIE_RETURN: in a package held in reset the die joins when start-up runs (R600). -/
def execDieReturn (die : Die) (pass : Bool) (s : State) : Out :=
  s.updIf (s.dev.present die.idx) (fun d =>
    let i := die.idx
    if !(d.cycling i && d.fbit (GLB_DIE_PWR i)) then d
    else if d.sh.clk.inReset then
      if pass then ((d.fset (SH_FLT_DIE_PCYC i) 0).fset (GLB_DIE_FATAL i) 0).fset (GLB_DIE_STATE i) 2 else d.leaveDown i
    else d.dieBack i pass)

/-! ### Supplies and resets -/

/-- POWER_UP: VDDH and REFCLK are valid, and the PWR_EN_ lines rise in order; `pg` says which PG_ lines followed. The timebases of
    the shepherd start when PG_SH rises. -/
def Dev.powerUp (s : Dev) (pg : Byte) : Dev :=
  if (List.range 8).any (fun d => s.fbit (GLB_DIE_PWR d)) then s
  else
    let s := s.pin (fun x => { x with vddh := true, refclk := true })
    let s := forAll ((List.range 8).filter (fun d => s.present d)) s (fun s d =>
      let s := (s.fset (GLB_DIE_PWR d) 1).fset (GLB_DIE_STATE d) (if pg.getLsbD d then 2 else 1)
      s.fset (GLB_DIE_PG d) (b2n (pg.getLsbD d)))
    s.clk (fun x => { x with started := pg.getLsbD 7, raw := 0 })

def execPowerUp (pg : Byte) (s : State) : Out := s.upd (fun d => d.powerUp pg)

/-- VDDH_LOSS: every die loses power, and FAULT_n is released. -/
def execVddhLoss (s : State) : Out := s.upd (fun d => (d.pin (fun x => { x with vddh := false })).powerless)

/-- What a reset leaves of a die's power state: the PWR_EN_ lines, and fatal faults with what follows from them (R600, R676). -/
def Dev.keepPower (s old : Dev) (d : Nat) : Dev :=
  let keep := fun (s : Dev) (f : Field) => s.fset f (old.fget f)
  let s := keep (keep (keep s (GLB_DIE_PWR d)) (GLB_DIE_PG d)) (GLB_DIE_FATAL d)
  let s := keep (keep (keep s (SH_FLT_DIE_LEFT d)) (SH_FLT_DIE_PCYC d)) (SH_FLT_DIE_CAUSE d)
  s.fset (GLB_DIE_STATE d) (if old.fbit (GLB_DIE_FATAL d) ∨ old.fbit (SH_FLT_DIE_LEFT d) then old.fget (GLB_DIE_STATE d)
    else if old.fbit (GLB_DIE_PWR d) then 2 else old.fget (GLB_DIE_STATE d))

/-- RESET_ASSERT: every die is held in reset; the PWR_EN_ lines stay. The event log lies in SRAM, which has power (R662). -/
def Dev.resetAssert (s : Dev) : Dev :=
  let t := s.powerless
  let t := (t.flt (fun x => { x with log := s.sh.flt.log })).fset SH_SAFE_STAT_FAULTN (s.fget SH_SAFE_STAT_FAULTN)
  let t := t.pin (fun x => { x with firstFatal := s.sh.pin.firstFatal })
  let t := t.clk (fun x => { x with inReset := true, started := s.sh.clk.started })
  forAll (List.range 8) t (fun t d => t.keepPower s d)

def execResetAssert (s : State) : Out := s.upd Dev.resetAssert

/-- PCIE_RESET: the configuration space and the MSI-X table, and nothing else (R638). -/
def Dev.pcieReset (s : Dev) : Dev :=
  let s := { s with regs := Store.drop s.regs 0x8000 0x9008 }
  s.pin (fun x => { x with busMaster := false })

def execPcieReset (s : State) : Out := s.upd Dev.pcieReset

end Sys2Proof.Machine
end

