-- ==== Sys2Proof/Machine/Startup.lean ====
section
/-!
DEFINITION. Start-up (R584-R591): the ten steps, the alternatives of earlier starts, the boot journal. What the steps find outside
the shepherd's logic is the command's operand.
-/
namespace Sys2Proof.Machine

/-! ### Alternatives (R587) -/

/-- `STEPn` of a record: result, alternative code, object. -/
def JRec.step (r : JRec) (n : Nat) : Nat × Nat × Nat :=
  let b := bitsOf r.toNat (8 * (12 + 2 * (n - 1))) 8
  (b % 16, b / 16, bitsOf r.toNat (8 * (13 + 2 * (n - 1))) 8)

/-- The record's CRC is good. -/
def JRec.good (r : JRec) : Bool := decide (bitsOf r.toNat 480 32 = (crc32c (bytesOf r.toNat 60)).toNat)

/-- The alternatives an object has, in order, by their codes (R584). -/
def Dev.alternatives (s : Dev) (step obj : Nat) : List Nat :=
  match step with
  | 3 => if obj < 7 then [1] else []
  | 5 => if s.variant = .chm8 ∧ (obj = 4 ∨ obj = 5) then [1] else []
  | 6 => (if Store.get (fun _ => 0) s.nv.rver obj = 0x20 then [2] else []) ++ (if Config.singleRd s.variant then [3] else [])
  | 7 => [4]
  | 8 => if obj < 4 then [1] else []
  | 9 => if obj < 4 then [1] else []
  | _ => []

/-- Alternatives already given to an object. -/
def Dev.altCount (s : Dev) (step obj : Nat) : Nat :=
  match s.nv.alts.find? (fun a => decide (a.1 = step) && decide (a.2.1 = obj)) with
  | some a => a.2.2
  | none => 0

/-- The alternative in force for an object; `some 0` where none is left. -/
def Dev.altOf (s : Dev) (step obj : Nat) : Option Nat :=
  let n := s.altCount step obj
  if n = 0 then none else some ((s.alternatives step obj).getD (n - 1) 0)

/-- An object that failed in the latest record is given its next alternative; `RETRY` clears them all. -/
def Dev.nextAlts (s : Dev) : Dev :=
  if s.nv.retry then { s with nv := { s.nv with alts := [], retry := false } }
  else match s.nv.journal with
    | [] => s
    | r :: _ =>
      if !r.good then s
      else forAll (List.range 10) s (fun s i =>
        let (res, _, obj) := r.step (i + 1)
        if (res = 2 ∨ res = 5) ∧ s.alternatives (i + 1) obj ≠ [] then
          let n := s.altCount (i + 1) obj + 1
          { s with nv := { s.nv with alts :=
            (i + 1, obj, n) :: s.nv.alts.filter (fun a => !(decide (a.1 = i + 1) && decide (a.2.1 = obj))) } }
        else s)

/-! ### The record of a start -/

/-- What a start records (R589). -/
structure Boot where
  steps : List (Nat × Nat × Nat)   -- result, alternative code, object of each step reached
  slot : Nat
  refused : Bool
  down : Nat
  refsig : Nat
  half : Nat
  chain : Nat
  wire : Nat
  deriving DecidableEq, Repr

def Boot.begin : Boot := { steps := [], slot := 2, refused := false, down := 0, refsig := 0, half := 0, chain := 0, wire := 0 }

def Boot.add (b : Boot) (res alt obj : Nat) : Boot := { b with steps := b.steps ++ [(res, alt, obj)] }

/-- A step with the objects that failed, those that run with an alternative, and those that failed with one. -/
def Boot.step (b : Boot) (bad : List Nat) (alt altBad : List (Nat × Nat)) : Boot :=
  match bad, altBad, alt with
  | o :: _, _, _ => b.add 2 0 o
  | [], (o, c) :: _, _ => b.add 5 c o
  | [], [], (o, c) :: _ => b.add 4 c o
  | [], [], [] => b.add 1 0 0xFF

/-- The record with its CRC. -/
def Dev.record (s : Dev) (b : Boot) : JRec :=
  let all := b.steps ++ List.replicate (10 - b.steps.length) (0, 0, 0xFF)
  let steps := (all.foldl (fun (a : Nat × Nat) (e : Nat × Nat × Nat) => (a.1 + (e.1 + 16 * e.2.1 + 256 * e.2.2) * 2 ^ a.2, a.2 + 16)) (0, 0)).1
  let x := s.nv.start + s.sh.clk.raw.toNat * 2 ^ 32 + steps * 2 ^ 96 + (b.slot + 4 * b2n b.refused) * 2 ^ 256 + b.down * 2 ^ 264
    + b.refsig * 2 ^ 288 + (b.half % 2 ^ 72) * 2 ^ 320 + (b.chain % 2 ^ 72) * 2 ^ 392 + b.wire * 2 ^ 464
  BitVec.ofNat 512 (x + (crc32c (bytesOf x 60)).toNat * 2 ^ 480)

/-- The record is written, and the boot registers show it. -/
def Dev.writeBoot (s : Dev) (b : Boot) : Dev :=
  let bits := fun (p : Nat × Nat × Nat → Bool) =>
    (b.steps.foldl (fun (a : Nat × Nat) e => (a.1 + b2n (p e) * 2 ^ a.2, a.2 + 1)) (0, 0)).1
  let s := ((s.fset SH_BOOT_STAT_STEP b.steps.length).fset SH_BOOT_STAT_FAIL (bits (fun e => decide (e.1 = 2) || decide (e.1 = 5)))).fset
    SH_BOOT_STAT_ALT (bits (fun e => decide (3 ≤ e.1)))
  let s := (s.fset SH_BOOT_STAT_SLOT b.slot).fset SH_BOOT_STAT_DOWN b.down
  { s with nv := { s.nv with journal := (s.record b :: s.nv.journal.filter (fun r => decide (r.num ≠ s.nv.start))).take 64 } }

/-! ### The steps -/

def diesOf (s : Dev) (l : List Nat) : List Nat := l.filter (fun d => s.present d && s.fbit (GLB_DIE_PWR d) && !s.fbit (GLB_DIE_FATAL d))

/-- Step 1: supplies. A die without power good, or step 2, of a wrong identity, counts as absent. -/
def Dev.bootPower (s : Dev) (b : Boot) (ok : Byte) (pg : Bool) : Dev × Boot :=
  let l := diesOf s (List.range 7)
  let bad := l.filter (fun d => !ok.getLsbD d)
  let s := if pg then forAll l s (fun s d => s.fset (GLB_DIE_PG d) (b2n (ok.getLsbD d))) else s
  (forAll bad s (fun s d => s.dieDown d 0), b.step bad [] [])

/-- Step 3: trims and fuses. -/
def Dev.bootTrim (s : Dev) (b : Boot) (env : StartEnv) : Dev × Boot :=
  let l := diesOf s (List.range 8)
  let alt := l.filter (fun d => (s.altOf 3 d).isSome)
  let bad := (l.filter (fun d => !(d ∈ alt))).filter (fun d => !env.trimOk.getLsbD d)
  let s' := forAll (alt ++ bad) s (fun s d => s.dieDown d 1)
  let s' := forAll ((l.filter (fun d => !(d ∈ alt) && !(d ∈ bad))).filter (fun d => decide (d < 4) || decide (d = 6))) s' Dev.dieUp
  (s', { b.step bad (alt.map (fun d => (d, 1))) [] with down := b.down + alt.foldl (fun a d => a + 2 ^ d) 0 })

/-- Step 5: ring dies. -/
def Dev.bootRings (s : Dev) (b : Boot) (env : StartEnv) : Dev × Boot :=
  let l := diesOf s [4, 5]
  let alt := l.filter (fun d => (s.altOf 5 d).isSome)
  let bad := (l.filter (fun d => !(d ∈ alt))).filter (fun d => !env.rdOk.getLsbD d)
  let s' := forAll (alt ++ bad) s (fun s d => s.dieDown d 1)
  let s' := forAll (l.filter (fun d => !(d ∈ alt) && !(d ∈ bad))) s' Dev.dieUp
  let s' := s'.tly (fun x => { x with masterB := !s'.running 4 && s'.running 5 })
  (s', { b.step bad (alt.map (fun d => (d, 1))) [] with down := b.down + alt.foldl (fun a d => a + 2 ^ d) 0 })

/-- Step 6: enumeration. The rings come up by commands of their own; here, those that do not are told, and the alternatives of
    earlier starts are set. A ring with none left is left DOWN: its ports are disabled. -/
def Dev.bootEnum (s : Dev) (b : Boot) (env : StartEnv) : Dev × Boot :=
  let l := List.range s.ringCount
  let alts := l.filterMap (fun r => (s.altOf 6 r).map (fun c => (r, c)))
  let out := (alts.filter (fun e => decide (e.2 = 0))).map (fun e => e.1)
  let run := alts.filter (fun e => decide (e.2 ≠ 0))
  let failed := l.filter (fun r => decide (r ∈ env.ringFail))
  let bad := (failed.filter (fun r => !run.any (fun e => decide (e.1 = r)))) ++ out
  let s' := forAll run s (fun s e =>
    if e.2 = 2 then s.rfset RDn_RING_CTL_HALF e.1 1 else s.rfset RDn_RING_CTL_CHAIN e.1 1)
  let s' := forAll out s' (fun s r => forAll [End.a, End.b] s (fun s e =>
    if s.ownsEnd e then s.fset (RDn_RP_CFG_EN (s.rdOfEnd r e) (s.portOfEnd r e)) 0 else s))
  let mask := fun (c : Nat) => (run.filter (fun e => decide (e.2 = c))).foldl (fun a e => a + 2 ^ e.1) 0
  (s'.setMode 0, { b.step bad run (run.filter (fun e => decide (e.1 ∈ failed))) with half := mask 2, chain := mask 3 })

/-- Step 7: time. -/
def Dev.bootTime (s : Dev) (b : Boot) (env : StartEnv) : Dev × Boot :=
  if (s.altOf 7 0xFF).isSome then (s, b.add 3 4 0xFF)
  else match env.theta with
    | some th => ((s.setCrook 1).crookOffset th, b.add 1 0 0xFF)
    | none => (s, b.add 2 0 0xFF)

/-- Dies that a retirement at step 9 of an earlier start keeps down. -/
def Dev.altLanes (s : Dev) : List Nat := (List.range 4).filter (fun d => s.present d && (s.altOf 9 d).isSome)

/-- Step 8: images. -/
def Dev.bootLoad (s : Dev) (b : Boot) (env : StartEnv) : Dev × Boot :=
  let s := if env.refLines = 0 then s else s.tw (fun t => { t with partner := env.partner })
  let l := diesOf s [0, 1, 2, 3]
  let alt := l.filter (fun d => (s.altOf 8 d).isSome)
  let off := l.filter (fun d => decide (d ∈ alt) || decide (d ∈ s.altLanes))
  let p := b2n s.nv.pref
  let b := { b with down := b.down ||| off.foldl (fun a d => a + 2 ^ d) 0 }
  let s' := forAll off s (fun s d => s.dieDown d 1)
  let refuse := fun (b : Boot) (n : Nat) => { b with refsig := (s.slotMem n).vsig }
  let b := if s.slotUsable p then b else { refuse b p with refused := true }
  let s' := if s.slotUsable p then s' else s'.fset SH_VOTE_SIG_LAST (s.slotMem p).vsig
  match s.slotChoice with
  | none =>
    let b := refuse b (1 - p)
    (s'.fset SH_VOTE_SIG_LAST (s.slotMem (1 - p)).vsig, if l.isEmpty then b.add 1 0 0xFF else b.add 2 0 0xFF)
  | some n =>
    let rest := l.filter (fun d => !(d ∈ off))
    let bad := rest.filter (fun d => !env.loadOk.getLsbD d)
    let s' := forAll bad s' (fun s d => s.dieDown d 1)
    let s' := forAll (rest.filter (fun d => !(d ∈ bad))) s' (fun s d => s.loadDie d n)
    (s', { b.step bad (alt.map (fun d => (d, 1))) [] with slot := n })

/-- The role that the referee's lines and strap give (R329, R330). -/
def Dev.bootRole (s : Dev) (env : StartEnv) : Dev :=
  let a := env.refLines.getLsbD 0
  let c := env.refLines.getLsbD 1
  let s := s.pin (fun x => { x with strapRef := env.hurdleStrap, rline := env.refLines })
  if env.hurdleStrap && decide (s.variant = .chm2) then
    ((forAll (List.range s.ringCount) s (fun s r => if s.ringState r = 0 then s else s.ringDown r)).fset SH_TWIN_STAT_ROLE 3).irq 41
  else if a || c then
    let s := ((s.fset SH_TWIN_STAT_ROLE 2).fset SH_TWIN_STAT_ID (b2n (!a))).irq 41
    (s.fset SH_TWIN_STAT_HIN (b2n s.sh.pin.hurdleIn)).setCrook 4
  else s

/-- Step 9: the wiring check, then the lanes: start mirrors, admission, the counting window. -/
def Dev.bootLanes (s : Dev) (b : Boot) (env : StartEnv) : Dev × Boot :=
  let s := s.bootRole env
  if env.wiring ≠ 0 then (s, { b.add 2 0 0xFF with wire := env.wiring.toNat })
  else
    let out := (List.range 4).filter (fun d => decide (s.lane d = 1))
    let head := Blk.mk [(0, 16, s.seq.toNat), (8, 32, 0)]
    let s := forAll out s (fun s d => s.commitMirror d [head])
    let s := s.admitLane.admitLane.admitLane
    let s := forAll s.counting s (fun s d => s.openGate d)
    let bad := s.counting.filter (fun d => env.retired.getLsbD d)
    let s := forAll bad s Dev.retireLane
    let s := if bad.isEmpty ∧ ¬ s.counting.isEmpty then s.md (fun x => { x with agreed16 := 16 }) else s
    if bad.isEmpty ∧ s.counting.length < min 3 out.length then (s, b.add 2 0 0xFF)
    else (s, b.step bad (s.altLanes.map (fun d => (d, 1))) [])

/-- Step 10: the safety parameters (R630). -/
def Dev.bootSafety (s : Dev) (b : Boot) : Dev × Boot :=
  let imgs := (List.range 4).all (fun d => match (s.cd d).img with
    | some i => decide (i.schk = s.nv.chk)
    | none => true)
  if s.storeGood && imgs then
    let s := (s.safe (fun x => { x with safeOk := true, safeWork := s.nv.safe })).fset SH_SAFE_STAT_STEP10 1
    (forAll s.enumerated s (fun s id => s.slcvParams id), b.add 1 0 0xFF)
  else (s, b.add 2 0 0xFF)

/-- `SVC` (R588): the highest service that the powered units give. -/
def Dev.service (s : Dev) : Nat :=
  let n := ((List.range 4).filter (fun d => s.running d && (s.cd d).img.isSome)).length
  if !s.rdLeft then 0 else min (n + 1) 4

/-- Start-up is complete. -/
def Dev.bootDone (s : Dev) : Dev := ((s.fset SH_BOOT_STAT_DONE 1).fset SH_BOOT_STAT_SVC s.service).irq 42

/-- Steps 5 to 10. -/
def Dev.bootLate (s : Dev) (b : Boot) (env : StartEnv) : Dev :=
  let (s, b) := s.bootRings b env
  let (s, b) := s.bootEnum b env
  let (s, b) := s.bootTime b env
  let (s, b) := s.bootLoad b env
  let (s, b) := s.bootLanes b env
  if env.wiring ≠ 0 then (s.writeBoot b).bootDone
  else
    let (s, b) := s.bootSafety b
    (s.writeBoot b).bootDone

/-- The safety channel runs from here on: a SAFE_REQ_n pin that reads asserted is a demand (R607, R618). -/
def Dev.bootPins (s : Dev) (pins : BitVec 2) : Dev :=
  let s := s.setPins pins
  if pins = 0 then s else s.safeAct 0 3

/-- The ten steps. A missing REFCLK stops at step 1, which is repeated; a failed self-test of the shepherd stops at step 4. -/
def Dev.bootRun (s : Dev) (env : StartEnv) : Dev :=
  let s := s.pin (fun x => { x with debugEn := env.debugEn, refclk := env.refclkOk })
  if !env.refclkOk then s.writeBoot (Boot.begin.add 2 0 0xFF)
  else
    let (s, b) := s.bootPower Boot.begin env.pgOk true
    let (s, b) := s.bootPower b env.idOk false
    if !env.trimOk.getLsbD 7 then (s.writeBoot (b.add 2 0 0xFF)).packageFatal
    else
      let (s, b) := s.bootTrim b env
      if !env.selfTestOk then (s.writeBoot (b.add 2 0 0xFF)).fset SH_SAFE_STAT_FAULTN 1
      else (((s.fset SH_SAFE_STAT_FAULTN 0).fset (GLB_DIE_STATE 7) 3).bootPins env.safePins).bootLate (b.add 1 0 0xFF) env

/-- A start: numbered anew, unless step 1 of the last one is being repeated. One that stopped at step 4 is over. -/
def Dev.startup (s : Dev) (env : StartEnv) : Dev :=
  if !s.powered 7 || !env.pgOk.getLsbD 7 || s.fbit SH_BOOT_STAT_DONE || decide (s.mode ≠ 7) || decide (1 < s.fget SH_BOOT_STAT_STEP) then s
  else
    let again := decide (s.fget SH_BOOT_STAT_STEP = 1)
    let s := if again then s else
      let s := s.nextAlts
      { s with nv := { s.nv with start := (s.nv.start + 1) % 2 ^ 24 } }
    (s.clk (fun x => { x with started := true })).bootRun env

/-- STARTUP. -/
def execStartup (env : StartEnv) (s : State) : Out := s.upd (fun d => d.startup env)

/-- RESET_RELEASE: start-up runs again. -/
def execResetRelease (env : StartEnv) (s : State) : Out :=
  s.upd (fun d =>
    if d.sh.clk.inReset then (d.clk (fun x => { x with inReset := false, raw := 0 })).startup env else d)

end Sys2Proof.Machine
end

