-- ==== Sys2Proof/Machine/HostPort.lean ====
section
/-!
DEFINITION. The host port (R13-R17, R636-R646, R659): reads and writes of any register, each with the effect that the row
of its own gives a write, where it has one. An access that is not naturally aligned is counted in `BADACC`.
-/
namespace Sys2Proof.Machine

/-! ### Writes in the GLB, SH and TIM windows -/

/-- A write of `SH_AT_CFG` (R203): its fields, then `START`, then `ABORT`. -/
def Dev.tuneWrite (s : Dev) (v : W64) : Dev :=
  let s := s.plainWrite SH_AT_CFG v
  let s := if v.getLsbD 0 then s.tuneSend true else s
  if v.getLsbD 1 then s.tuneSend false else s

/-- A write of `SH_REC_CFG` (R559): windows of at most 15,000 µs and 260,000 µs. -/
def Dev.recCfgWrite (s : Dev) (v : W64) : Dev :=
  let n := v.toNat
  if 1500 < bitsOf n 48 16 + bitsOf n 32 16 ∨ 26000 < bitsOf n 16 16 + bitsOf n 0 16 then s.refuseWr SH_REC_CFG
  else s.plainWrite SH_REC_CFG v

/-- A write of `TIM_JUMP_CTL` (R465, R466): `ACCEPT`, then `SET`. -/
def Dev.jumpWrite (s : Dev) (v : W64) : Dev :=
  let s := if v.getLsbD 0 then s.acceptJump else s
  if v.getLsbD 1 then s.hostStep else s

/-- A write of `SH_BOOT_CFG` (R591): `PREF` lies in boot memory. -/
def Dev.bootCfgWrite (s : Dev) (v : W64) : Dev :=
  let s := { s with nv := { s.nv with pref := v.getLsbD 0 } }
  if v.getLsbD 1 then s.bootRetry else s

/-- A write of `SH_SAFE_CTL` (R629): `RST`, then `COMMIT`. -/
def Dev.safeCtlWrite (s : Dev) (v : W64) : Dev :=
  let s := if v.getLsbD 1 then s.safeReset else s
  if v.getLsbD 2 then s.safeCommit else s

/-- A write of `GLB_DBG` (R658): `OPENREQ`, then `CLOSE`. -/
def Dev.dbgCtlWrite (s : Dev) (v : W64) : Dev :=
  let s := if v.getLsbD 62 then s.openReq else s
  if v.getLsbD 61 then s.debugClose else s

/-- A write of `SH_IMG_CTL` (R657): the slot, then `ERASE`, `FINISH` and `LOAD`. -/
def Dev.imgCtlWrite (s : Dev) (v : W64) : Dev :=
  let n := b2n (v.getLsbD 59)
  let s := s.plainWrite SH_IMG_CTL v
  let s := if v.getLsbD 53 then s.imgErase n else s
  let s := if v.getLsbD 54 then s.imgFinish else s
  if bitsOf v.toNat 55 4 = 0 then s else s.imgLoad n (bitsOf v.toNat 55 4)

/-- A write of an MSI-X table entry's second word: a vector that is unmasked with its message pending sends it (R653). -/
def Dev.msixWrite (s : Dev) (i : Nat) (v : W64) : Dev :=
  let s := s.plainWrite (GLB_MSIX_CTL i) v
  let p : Field := ⟨GLB_MSIX_PBA, i, 1⟩
  if !s.fbit (GLB_MSIX_CTL_MASK i) && s.fbit p then (s.fset p 0).msix i else s

/-- Registers that control the cycle, the folds, the vote, time and the modes. -/
def Dev.cycleRegWrite (s : Dev) (a : Nat) (v : W64) : Option Dev :=
  match inArr a (SH_FOLD_MAP 0) 8448, inArr a (SH_FOLD_CFG 0) 12 with
  | some c, _ => some (s.foldEntryWrite c v)
  | none, some f => some (s.foldCfgWrite f v)
  | none, none =>
    if a = TIM_CYC_CFG then some (s.cfgWrite v)
    else if a = SH_VOTE_CFG then some (s.voteCfgWrite v)
    else if a = SH_LANE_CTL then some (s.retireWrite (v.toNat % 16))
    else if a = SH_TWIN_CFG then some (if s.quiet then s.plainWrite a v else s.refuseWr a)
    else if a = SH_TWIN_CTL then some (if v.getLsbD 0 then s.handReq else s)
    else if a = TIM_JUMP_CTL then some (s.jumpWrite v)
    else if a = TIM_WALL then some (s.wallWrite v)
    else if a = TIM_PTP_CFG then some (s.ptpCfgWrite v)
    else if a = SH_MODE then some (s.modeRequest (v.toNat % 16))
    else if a = SH_MODE_CFG then some (s.modeCfgWrite v)
    else none

/-- Registers that control the loop engine, the ledgers, the record, the safety channel and the package. -/
def Dev.packageRegWrite (s : Dev) (a : Nat) (v : W64) : Option Dev :=
  match inArr a (SH_SAFE_DATA 0) 64, inArr a (SH_FLT_DIE 0) 7 with
  | some w, _ => some (s.safeDataWrite w v)
  | none, some d => some (if v.getLsbD 62 then s.revive d else s)
  | none, none =>
    if a = SH_LE_PARAM then some (s.leParamGo v)
    else if a = SH_AT_CFG then some (s.tuneWrite v)
    else if a = SH_LEDG_CFG then some (s.ledgerLengthWrite v)
    else if a = SH_REC_CFG then some (s.recCfgWrite v)
    else if a = SH_REC_CTL then some (s.recCtlWrite v)
    else if a = SH_BOOT_CFG then some (s.bootCfgWrite v)
    else if a = SH_SAFE_STAT then some (s.diagClear v)
    else if a = SH_SAFE_CTL then some (s.safeCtlWrite v)
    else if a = SH_SAFE_CONFIRM then some (s.safeConfirm (v.setWidth 32))
    else if a = SH_FLT_CFG then some (s.fltCfgWrite v)
    else if a = SH_IMG_CTL then some (s.imgCtlWrite v)
    else if a = SH_IMG_DATA then some (s.imgData v)
    else none

/-- Registers of the host port itself (R644, R647, R652). -/
def Dev.portRegWrite (s : Dev) (a : Nat) (v : W64) : Option Dev :=
  if a = GLB_IRQ_STAT then some (s.irqClear v)
  else if a = GLB_FIFO_IRQ then some (s.fifoIrqClear v)
  else if a = GLB_DBG then some (s.dbgCtlWrite v)
  else if a = GLB_DBG_CORES then some (s.debugCoresWrite v)
  else if 0x8000 ≤ a ∧ a < 0x8400 ∧ a % 16 = 8 then some (s.msixWrite ((a - 0x8000) / 16) v)
  else if 0x1000000 ≤ a ∧ a < 0x1000800 ∧ a % 32 = 0 then some (s.slotGo ((a - 0x1000000) / 32) v)
  else none

/-- A write in the shepherd's own windows. -/
def Dev.glbWrite (s : Dev) (a : Nat) (v : W64) : Dev :=
  (((s.cycleRegWrite a v).orElse (fun _ => s.packageRegWrite a v)).orElse (fun _ => s.portRegWrite a v)).getD (s.plainWrite a v)

/-! ### Writes in the ring dies' windows -/

/-- The ring of index i in the registers of ring die n. -/
def Dev.ringOfIx (s : Dev) (n i : Nat) : Nat := if s.wide then 66 * n + i else i

/-- A write of `RDn_RP_CFG(i)` (R493, R501, R505). A port that is disabled, or that takes up or leaves a test pattern, loses
    its lock; a test pattern runs in HUB and COMMISSION on a port whose ring is not UP or SPLIT. -/
def Dev.portCfgWrite (s : Dev) (rd : RDie) (i : Nat) (v : W64) : Dev :=
  let n := rd.idx
  let s := s.plainWrite (RDn_RP_CFG n i) v
  let q : RxPort := .pkg rd i
  let st := s.portState q
  let (r, _) := s.endOfPort n i
  let test := s.fget (RDn_RP_CFG_TEST n i) ≠ 0 ∧ (s.mode = 0 ∨ s.mode = 1) ∧ s.ringState r ≠ 3 ∧ s.ringState r ≠ 4
  if !s.fbit (RDn_RP_CFG_EN n i) then
    if st = 0 then s
    else
      let s := (s.loseLock q).setPort q 0
      let off := [End.a, End.b].all (fun e => !s.ownsEnd e || !s.fbit (RDn_RP_CFG_EN (s.rdOfEnd r e) (s.portOfEnd r e)))
      if off && s.hasRing r then s.ringDown r else s
  else if test then (if st = 6 then s else (s.loseLock q).setPort q 6)
  else if st = 6 ∧ s.fget (RDn_RP_CFG_TEST n i) = 0 then s.setPort q 0
  else s

/-- A write of `RDn_RING_CTL` (R41, R502, R520), which every ring die that has the ring holds alike. Chain mode exists on
    single-RD variants only. A write that sets both `SLPA` and `SLPB` is refused as to them. -/
def Dev.ringCtlWrite (s : Dev) (r : Nat) (v : W64) : Dev :=
  let s := if Config.singleRd s.variant then s.rfset RDn_RING_CTL_CHAIN r (b2n (v.getLsbD 63)) else s
  let s := s.rfset RDn_RING_CTL_HALF r (b2n (v.getLsbD 62))
  let a := v.getLsbD 61
  let b := v.getLsbD 60
  if a && b then s.refuseWr (RDn_RING_CTL (s.ringRd r) (s.ringIx r))
  else
    let wake := fun (s : Dev) (e : End) => if s.fbit (s.rf (slpCtl e) r) then s.wakeStream r e else s
    let s := if a then s else wake s .a
    let s := if b then s else wake s .b
    if a then s.sleepRequest r .a else if b then s.sleepRequest r .b else s

/-- A write at offset o of ring die n's window. -/
def Dev.rdWrite (s : Dev) (n o : Nat) (v : W64) : Dev :=
  let rd : RDie := if n = 0 then .rd0 else .rd1
  if 0x30000 ≤ o ∧ o < 0x30840 ∧ o % 32 = 0 then s.portCfgWrite rd ((o - 0x30000) / 32) v
  else if 0x10C00 ≤ o ∧ o < 0x10E10 then
    let r := s.ringOfIx n ((o - 0x10C00) / 8)
    if s.hasRing r then s.ringCtlWrite r v else s
  else if o = 0x50000 then s.hubRequest n v
  else if 0x31008 ≤ o ∧ o < 0x31080 ∧ o % 32 = 8 then s.txWord n ((o - 0x31008) / 32) v
  else s.plainWrite (rdBase n + o) v

/-! ### Writes in the AQ's window -/

/-- A write of a user coefficient pair (R274, R275, R301). -/
def Dev.aqCoefWrite (s : Dev) (a : Nat) (v : W64) : Dev :=
  if s.fbit AQ_STAT_LOCK then s.finc AQ_STAT_WREF
  else (s.rset a v).modAq (fun q => { q with uNew := q.uNew ++ [(q.raw.toNat, a, v)] })

/-- A write at offset o of the AQ's window. -/
def Dev.aqWrite (s : Dev) (o : Nat) (v : W64) : Dev :=
  let a := aqBase + o
  if o = 0 then (if v.getLsbD 47 then s.aqSetCfgd else s)
  else if 0x1000 ≤ o ∧ o < 0x1600 then s.aqChannelWrite ((o - 0x1000) / 8) v
  else if 0x8000 ≤ o ∧ o < 0xB000 then (if (pkgRowAt a).isSome then s.aqCoefWrite a v else s)
  else if 0x400 ≤ o ∧ o < 0x480 then
    (s.plainWrite a v).modAq (fun q => { q with trgY := Store.erase q.trgY ((o - 0x400) / 8) })
  else s.plainWrite a v

/-! ### Writes in the control dies' windows -/

/-- A write at offset o of control die d's window: the loop engine's and the scheduler's registers are not the host's to
    write (R162, R446). -/
def Dev.cdWrite (s : Dev) (d o : Nat) (v : W64) : Dev :=
  if o = 0x70010 then s.schDbgWrite d v
  else if o = 0x70028 then s.dbgWrite d v
  else if isDesc o then s.finc (LE_STAT_HOSTWR d)
  else if (findRow cdRows o).isNone then s
  else if 0x50380 ≤ o ∧ o < 0x50390 then s
  else if 0x50000 ≤ o ∧ o < 0x60000 then s.finc (LE_STAT_HOSTWR d)
  else if 0x70000 ≤ o ∧ o ≠ 0x70020 then s.finc (SCH_STAT_HOSTWR d)
  else s.plainWrite (cdBase d + o) v

/-! ### Host accesses -/

/-- The address lies in the peek alias (R642). -/
def inAlias (a : Nat) : Bool := decide (0x8000000 ≤ a) && decide (a < 0xB000000)

/-- A host write of some bytes: register space takes 8, aligned (R640). Writes to the FIFO data ports and to reserved addresses,
    and those to windows of dies that are absent or have no power, are discarded. -/
def Dev.hostWrite (s : Dev) (a n : Nat) (v : W64) : Dev :=
  if a % 8 ≠ 0 ∨ n ≠ 8 ∨ inAlias a then s.finc GLB_HOST_BADACC
  else if !s.winUp a then s
  else if a < 0x200000 then s.glbWrite a v
  else if a < 0x400000 then s.rdWrite ((a - 0x200000) / 0x100000) ((a - 0x200000) % 0x100000) v
  else if a < 0x500000 then s.aqWrite (a - 0x400000) v
  else if a < 0x800000 then s
  else if a < 0x1000000 then s.cdWrite ((a - 0x800000) / 0x200000) ((a - 0x800000) % 0x200000) v
  else if a < 0x2000000 then s.glbWrite a v
  else s

/-- The control die whose `CDx_DBG_DAT` the address names. -/
def dbgDatAt (a : Nat) : Option Nat :=
  if 0x800000 ≤ a ∧ a < 0x1000000 ∧ (a - 0x800000) % 0x200000 = 0x70028 then some ((a - 0x800000) / 0x200000) else none

/-- The smallest power of two, from 8 on, that holds an access of up to 64 bytes. -/
def spanOf (n : Nat) : Nat := if n ≤ 8 then 8 else if n ≤ 16 then 16 else if n ≤ 32 then 32 else 64

/-- A naturally aligned access of 8 × m bytes, m = 1-8 (R551, R640; log entry 136). -/
def aligned (a n : Nat) : Bool := decide (0 < n) && decide (n ≤ 64) && decide (n % 8 = 0) && decide (a % spanOf n = 0)

/-- The 64-bit words an access of n bytes spans. -/
def wordsOf (n : Nat) : Nat := max 1 (n / 8)

/-- A host read of one register. -/
def Dev.hostRead1 (s : Dev) (a : Nat) (peek : Bool) : W64 × Dev :=
  match dbgDatAt a with
  | some d => (if s.powered d then s.dbgRead d else 0, s)
  | none => s.readReg a peek

/-- A host read of n consecutive registers in address order, each a read of its own. -/
def Dev.hostReads (s : Dev) (a : Nat) (peek : Bool) : Nat → List W64 × Dev
  | 0 => ([], s)
  | n + 1 =>
    let (v, s) := s.hostRead1 a peek
    let (l, s) := Dev.hostReads s (a + 8) peek n
    (v :: l, s)

/-- The address lies in a FIFO's data port (R548). -/
def inPort (a : Nat) : Bool := decide (0x2000000 ≤ a) && decide (a < 0x2400000)

/-- A host read of some bytes of register space, or of a FIFO data port. -/
def Dev.hostRead (s : Dev) (a n : Nat) (peek : Bool) : List W64 × Dev :=
  if inPort a then
    let r := s.fifoRead ((a - 0x2000000) / 0x10000) (if aligned a n then n else 0) peek
    (if aligned a n then r.1 else List.replicate (wordsOf n) 0, r.2)
  else if !aligned a n then (List.replicate (wordsOf n) 0, s.finc GLB_HOST_BADACC)
  else s.hostReads a peek (n / 8)

/-- A host read of any BAR0 address: through the peek alias it changes nothing, and while debug access is closed the alias
    reads as reserved (R659). -/
def Dev.bar0Read (s : Dev) (a n : Nat) : List W64 × Dev :=
  if inAlias a then
    (if s.debugOpen then s.hostRead (a - 0x8000000) n true
     else (List.replicate (wordsOf n) 0, if aligned a n then s else s.finc GLB_HOST_BADACC))
  else s.hostRead a n false

/-- A dword of the configuration space (R636): identity, class code and Bus Master Enable; the rest is as PCI Express gives
    it, which the spec does not state: a free value (log entries 4 and 12). -/
def Dev.configRead (s : Dev) (o : Nat) : W64 × Dev :=
  let (w, s) := s.free
  let w := w.toNat % 2 ^ 32
  if o = 0 then (s.view GLB_ID >>> 48 ||| BitVec.ofNat 64 (Config.deviceId s.variant * 2 ^ 16), s)
  else if o = 4 then (BitVec.ofNat 64 (putBits w 2 1 (b2n s.sh.pin.busMaster)), s)
  else if o = 8 then (BitVec.ofNat 64 (putBits w 8 24 0x118000), s)
  else (BitVec.ofNat 64 w, s)

/-- PEEK_READ. -/
def execPeekRead (a : Span) (s : State) : Out :=
  s.upd (fun d =>
    let r := d.bar0Read a.addr a.bytes
    r.2.answer r.1)

/-- RC_READ: a read of registers, here or by a transaction in a cell. BAR2 reads as zero (R643). -/
def execRcRead (t : RegTarget) (s : State) : Out :=
  match t with
  | .bar0 a n => s.upd (fun d =>
      let r := d.bar0Read a n
      r.2.answer r.1)
  | .bar2 _ n => s.upd (fun d => d.answer (List.replicate (wordsOf n) 0))
  | .cell p o => s.updIf (s.dev.hasPlace p) (fun d =>
      if (d.cell p).powered then
        let r := d.cellAccess p o false false 0
        r.1.answer [r.2.1.setWidth 64]
      else d)
  | .config o => s.upd (fun d =>
      let r := d.configRead o
      r.2.answer [r.1])

/-- REGISTER_WRITE: a write of a register, here, by a transaction in a cell, or in the configuration space; in BAR2 that of the
    packing window (R567). -/
def execRegisterWrite (t : RegTarget) (v : W64) (s : State) : Out :=
  match t with
  | .bar0 a n => s.upd (fun d => d.hostWrite a n v)
  | .bar2 o n => s.upd (fun d => d.legacyWrite o (v.setWidth 16) n (decide (0x8000 ≤ o)))
  | .cell p o => s.updIf (s.dev.hasPlace p) (fun d =>
      if (d.cell p).powered then (d.cellAccess p o true false (v.setWidth 32)).1 else d)
  | .config o => s.upd (fun d => if o = 4 then d.pin (fun x => { x with busMaster := v.getLsbD 2 }) else d)

end Sys2Proof.Machine
end

