-- ==== Sys2Proof/Machine/Integer.lean ====
section
/-!
DEFINITION. The integer and logic instructions (R367, R375): 64-bit registers, results that wrap.
-/
namespace Sys2Proof.Machine

/-- Quotient truncated toward zero; zero by zero, and the most negative value by -1 is itself (R367). -/
def divS (a b : W64) : W64 := if b = 0 then 0 else BitVec.ofInt 64 (Int.tdiv a.toInt b.toInt)

/-- Remainder with the sign of a; a when b is zero (R367). -/
def remS (a b : W64) : W64 := if b = 0 then a else BitVec.ofInt 64 (Int.tmod a.toInt b.toInt)

def divU (a b : W64) : W64 := if b = 0 then 0 else BitVec.ofNat 64 (a.toNat / b.toNat)
def remU (a b : W64) : W64 := if b = 0 then a else BitVec.ofNat 64 (a.toNat % b.toNat)

/-- High 64 bits of the product, signed and unsigned. -/
def mulHiS (a b : W64) : W64 := BitVec.ofInt 64 (a.toInt * b.toInt / 2 ^ 64)
def mulHiU (a b : W64) : W64 := BitVec.ofNat 64 (a.toNat * b.toNat / 2 ^ 64)

/-- Bits above bit k replaced by bit k, or by zero. -/
def signExt (a : W64) (k : Nat) : W64 := BitVec.ofInt 64 (sx (k + 1) a.toNat)
def zeroExt (a : W64) (k : Nat) : W64 := BitVec.ofNat 64 (bitsOf a.toNat 0 (k + 1))

def flag (b : Bool) : W64 := if b then 1 else 0

/-- ADD: rd := ra + rb. -/
def execAdd (r : CoreRef) (rd ra rb : Reg) (s : State) : Out :=
  s.onCore r (fun d => d.alu r (encR 0x00 rd ra rb 0x00 0) true rd (fun g => g ra + g rb))

/-- SUB: rd := ra - rb. -/
def execSub (r : CoreRef) (rd ra rb : Reg) (s : State) : Out :=
  s.onCore r (fun d => d.alu r (encR 0x00 rd ra rb 0x01 0) true rd (fun g => g ra - g rb))

/-- AND. -/
def execAnd (r : CoreRef) (rd ra rb : Reg) (s : State) : Out :=
  s.onCore r (fun d => d.alu r (encR 0x00 rd ra rb 0x02 0) true rd (fun g => g ra &&& g rb))

/-- OR. -/
def execOr (r : CoreRef) (rd ra rb : Reg) (s : State) : Out :=
  s.onCore r (fun d => d.alu r (encR 0x00 rd ra rb 0x03 0) true rd (fun g => g ra ||| g rb))

/-- XOR. -/
def execXor (r : CoreRef) (rd ra rb : Reg) (s : State) : Out :=
  s.onCore r (fun d => d.alu r (encR 0x00 rd ra rb 0x04 0) true rd (fun g => g ra ^^^ g rb))

/-- SHL: by rb [5:0]. -/
def execShl (r : CoreRef) (rd ra rb : Reg) (s : State) : Out :=
  s.onCore r (fun d => d.alu r (encR 0x00 rd ra rb 0x05 0) true rd (fun g => g ra <<< ((g rb).toNat % 64)))

/-- SHR: by rb [5:0], filled with zero. -/
def execShr (r : CoreRef) (rd ra rb : Reg) (s : State) : Out :=
  s.onCore r (fun d => d.alu r (encR 0x00 rd ra rb 0x06 0) true rd (fun g => g ra >>> ((g rb).toNat % 64)))

/-- SRA: by rb [5:0], filled with the sign. -/
def execSra (r : CoreRef) (rd ra rb : Reg) (s : State) : Out :=
  s.onCore r (fun d => d.alu r (encR 0x00 rd ra rb 0x07 0) true rd (fun g => (g ra).sshiftRight ((g rb).toNat % 64)))

/-- SHLI. -/
def execShli (r : CoreRef) (rd ra : Reg) (k : BitVec 6) (s : State) : Out :=
  s.onCore r (fun d => d.alu r (encR 0x00 rd ra noReg 0x08 k.toNat) true rd (fun g => g ra <<< k.toNat))

/-- SHRI. -/
def execShri (r : CoreRef) (rd ra : Reg) (k : BitVec 6) (s : State) : Out :=
  s.onCore r (fun d => d.alu r (encR 0x00 rd ra noReg 0x09 k.toNat) true rd (fun g => g ra >>> k.toNat))

/-- SRAI. -/
def execSrai (r : CoreRef) (rd ra : Reg) (k : BitVec 6) (s : State) : Out :=
  s.onCore r (fun d => d.alu r (encR 0x00 rd ra noReg 0x0A k.toNat) true rd (fun g => (g ra).sshiftRight k.toNat))

/-- MUL: low 64 bits of the product. -/
def execMul (r : CoreRef) (rd ra rb : Reg) (s : State) : Out :=
  s.onCore r (fun d => d.alu r (encR 0x00 rd ra rb 0x0B 0) true rd (fun g => g ra * g rb))

/-- MULH: high 64 bits, signed. -/
def execMulh (r : CoreRef) (rd ra rb : Reg) (s : State) : Out :=
  s.onCore r (fun d => d.alu r (encR 0x00 rd ra rb 0x0C 0) true rd (fun g => mulHiS (g ra) (g rb)))

/-- MULHU: high 64 bits, unsigned. -/
def execMulhu (r : CoreRef) (rd ra rb : Reg) (s : State) : Out :=
  s.onCore r (fun d => d.alu r (encR 0x00 rd ra rb 0x0D 0) true rd (fun g => mulHiU (g ra) (g rb)))

/-- DIV. -/
def execDiv (r : CoreRef) (rd ra rb : Reg) (s : State) : Out :=
  s.onCore r (fun d => d.alu r (encR 0x00 rd ra rb 0x0E 0) true rd (fun g => divS (g ra) (g rb)))

/-- DIVU. -/
def execDivu (r : CoreRef) (rd ra rb : Reg) (s : State) : Out :=
  s.onCore r (fun d => d.alu r (encR 0x00 rd ra rb 0x0F 0) true rd (fun g => divU (g ra) (g rb)))

/-- REM. -/
def execRem (r : CoreRef) (rd ra rb : Reg) (s : State) : Out :=
  s.onCore r (fun d => d.alu r (encR 0x00 rd ra rb 0x10 0) true rd (fun g => remS (g ra) (g rb)))

/-- REMU. -/
def execRemu (r : CoreRef) (rd ra rb : Reg) (s : State) : Out :=
  s.onCore r (fun d => d.alu r (encR 0x00 rd ra rb 0x11 0) true rd (fun g => remU (g ra) (g rb)))

/-- SLT: signed. -/
def execSlt (r : CoreRef) (rd ra rb : Reg) (s : State) : Out :=
  s.onCore r (fun d => d.alu r (encR 0x00 rd ra rb 0x12 0) true rd (fun g => flag ((g ra).slt (g rb))))

/-- SLTU: unsigned. -/
def execSltu (r : CoreRef) (rd ra rb : Reg) (s : State) : Out :=
  s.onCore r (fun d => d.alu r (encR 0x00 rd ra rb 0x13 0) true rd (fun g => flag ((g ra).ult (g rb))))

/-- SEXT. -/
def execSext (r : CoreRef) (rd ra : Reg) (k : BitVec 6) (s : State) : Out :=
  s.onCore r (fun d => d.alu r (encR 0x00 rd ra noReg 0x14 k.toNat) true rd (fun g => signExt (g ra) k.toNat))

/-- ZEXT. -/
def execZext (r : CoreRef) (rd ra : Reg) (k : BitVec 6) (s : State) : Out :=
  s.onCore r (fun d => d.alu r (encR 0x00 rd ra noReg 0x15 k.toNat) true rd (fun g => zeroExt (g ra) k.toNat))

/-- ADDI: the immediate sign-extended. -/
def execAddi (r : CoreRef) (rd ra : Reg) (imm : W16) (s : State) : Out :=
  s.onCore r (fun d => d.alu r (encI 0x01 rd ra imm) true rd (fun g => g ra + imm.signExtend 64))

/-- ANDI: the immediate zero-extended. -/
def execAndi (r : CoreRef) (rd ra : Reg) (imm : W16) (s : State) : Out :=
  s.onCore r (fun d => d.alu r (encI 0x02 rd ra imm) true rd (fun g => g ra &&& imm.setWidth 64))

/-- ORI. -/
def execOri (r : CoreRef) (rd ra : Reg) (imm : W16) (s : State) : Out :=
  s.onCore r (fun d => d.alu r (encI 0x03 rd ra imm) true rd (fun g => g ra ||| imm.setWidth 64))

/-- XORI. -/
def execXori (r : CoreRef) (rd ra : Reg) (imm : W16) (s : State) : Out :=
  s.onCore r (fun d => d.alu r (encI 0x04 rd ra imm) true rd (fun g => g ra ^^^ imm.setWidth 64))

/-- LUI: rd := sext(imm16) × 2^16. -/
def execLui (r : CoreRef) (rd : Reg) (imm : W16) (s : State) : Out :=
  s.onCore r (fun d => d.alu r (encI 0x05 rd noReg imm) true rd (fun _ => imm.signExtend 64 <<< 16))

/-- SLTI: signed. -/
def execSlti (r : CoreRef) (rd ra : Reg) (imm : W16) (s : State) : Out :=
  s.onCore r (fun d => d.alu r (encI 0x06 rd ra imm) true rd (fun g => flag ((g ra).slt (imm.signExtend 64))))

/-- SLTIU: unsigned, against the sign-extended immediate. -/
def execSltiu (r : CoreRef) (rd ra : Reg) (imm : W16) (s : State) : Out :=
  s.onCore r (fun d => d.alu r (encI 0x07 rd ra imm) true rd (fun g => flag ((g ra).ult (imm.signExtend 64))))

end Sys2Proof.Machine
end

