-- ==== Sys2Proof/Machine/QClass.lean ====
section
/-!
DEFINITION. The Q-class instructions (R365, R173): Q3.28 operands in the low 32 bits, results sign-extended.
-/
namespace Sys2Proof.Machine

/-- ra × 2^k, saturated. -/
def qShl (a : Int) (k : Nat) : Int := sat32 (a * 2 ^ k)

/-- (ra + 2^(k - 1)) shifted right arithmetically by k, k = 1-31; ties toward +∞. -/
def qShr (a : Int) (k : Nat) : Int := (a + 2 ^ (k - 1)) / 2 ^ k

/-- QADD: rd := sat(ra + rb). -/
def execQadd (r : CoreRef) (rd ra rb : Reg) (s : State) : Out :=
  s.onCore r (fun d => d.alu r (encR 0x08 rd ra rb 0x00 0) true rd (fun g => qTo (qadd (qOf (g ra)) (qOf (g rb)))))

/-- QSUB: rd := sat(ra - rb). -/
def execQsub (r : CoreRef) (rd ra rb : Reg) (s : State) : Out :=
  s.onCore r (fun d => d.alu r (encR 0x08 rd ra rb 0x01 0) true rd (fun g => qTo (qsub (qOf (g ra)) (qOf (g rb)))))

/-- QMUL: rd := rnd(ra × rb). -/
def execQmul (r : CoreRef) (rd ra rb : Reg) (s : State) : Out :=
  s.onCore r (fun d => d.alu r (encR 0x08 rd ra rb 0x02 0) true rd (fun g => qTo (qrnd (qOf (g ra)) (qOf (g rb)))))

/-- QMAC: rd := sat(rd + rnd(ra × rb)), the product rounded first. -/
def execQmac (r : CoreRef) (rd ra rb : Reg) (s : State) : Out :=
  s.onCore r (fun d => d.alu r (encR 0x08 rd ra rb 0x03 0) true rd (fun g => qTo (qadd (qOf (g rd)) (qrnd (qOf (g ra)) (qOf (g rb))))))

/-- QSHLI: k6 0-31. -/
def execQshli (r : CoreRef) (rd ra : Reg) (k : BitVec 6) (s : State) : Out :=
  s.onCore r (fun d => d.alu r (encR 0x08 rd ra noReg 0x04 k.toNat) (decide (k.toNat < 32)) rd (fun g => qTo (qShl (qOf (g ra)) k.toNat)))

/-- QSHRI: k6 1-31. -/
def execQshri (r : CoreRef) (rd ra : Reg) (k : BitVec 6) (s : State) : Out :=
  s.onCore r (fun d => d.alu r (encR 0x08 rd ra noReg 0x05 k.toNat) (decide (0 < k.toNat) && decide (k.toNat < 32)) rd (fun g => qTo (qShr (qOf (g ra)) k.toNat)))

/-- QCLAMP: rd := clamp(rd, ra, rb). -/
def execQclamp (r : CoreRef) (rd ra rb : Reg) (s : State) : Out :=
  s.onCore r (fun d => d.alu r (encR 0x08 rd ra rb 0x06 0) true rd (fun g => qTo (qclamp (qOf (g rd)) (qOf (g ra)) (qOf (g rb)))))

end Sys2Proof.Machine
end

