-- ==== Sys2Proof/Machine/Dispatch.lean ====
section
/-!
DEFINITION. One arm per command: each calls that command's meaning.
-/
namespace Sys2Proof.Machine

def exec (i : Instr) (s : State) : Host.Outcome State Fault Refusal :=
  match i with
  | .add r rd ra rb => Sys2Proof.Machine.execAdd r rd ra rb s
  | .sub r rd ra rb => Sys2Proof.Machine.execSub r rd ra rb s
  | .and r rd ra rb => Sys2Proof.Machine.execAnd r rd ra rb s
  | .or r rd ra rb => Sys2Proof.Machine.execOr r rd ra rb s
  | .xor r rd ra rb => Sys2Proof.Machine.execXor r rd ra rb s
  | .shl r rd ra rb => Sys2Proof.Machine.execShl r rd ra rb s
  | .shr r rd ra rb => Sys2Proof.Machine.execShr r rd ra rb s
  | .sra r rd ra rb => Sys2Proof.Machine.execSra r rd ra rb s
  | .shli r rd ra k => Sys2Proof.Machine.execShli r rd ra k s
  | .shri r rd ra k => Sys2Proof.Machine.execShri r rd ra k s
  | .srai r rd ra k => Sys2Proof.Machine.execSrai r rd ra k s
  | .mul r rd ra rb => Sys2Proof.Machine.execMul r rd ra rb s
  | .mulh r rd ra rb => Sys2Proof.Machine.execMulh r rd ra rb s
  | .mulhu r rd ra rb => Sys2Proof.Machine.execMulhu r rd ra rb s
  | .div r rd ra rb => Sys2Proof.Machine.execDiv r rd ra rb s
  | .divu r rd ra rb => Sys2Proof.Machine.execDivu r rd ra rb s
  | .rem r rd ra rb => Sys2Proof.Machine.execRem r rd ra rb s
  | .remu r rd ra rb => Sys2Proof.Machine.execRemu r rd ra rb s
  | .slt r rd ra rb => Sys2Proof.Machine.execSlt r rd ra rb s
  | .sltu r rd ra rb => Sys2Proof.Machine.execSltu r rd ra rb s
  | .sext r rd ra k => Sys2Proof.Machine.execSext r rd ra k s
  | .zext r rd ra k => Sys2Proof.Machine.execZext r rd ra k s
  | .addi r rd ra imm => Sys2Proof.Machine.execAddi r rd ra imm s
  | .andi r rd ra imm => Sys2Proof.Machine.execAndi r rd ra imm s
  | .ori r rd ra imm => Sys2Proof.Machine.execOri r rd ra imm s
  | .xori r rd ra imm => Sys2Proof.Machine.execXori r rd ra imm s
  | .lui r rd imm => Sys2Proof.Machine.execLui r rd imm s
  | .slti r rd ra imm => Sys2Proof.Machine.execSlti r rd ra imm s
  | .sltiu r rd ra imm => Sys2Proof.Machine.execSltiu r rd ra imm s
  | .qadd r rd ra rb => Sys2Proof.Machine.execQadd r rd ra rb s
  | .qsub r rd ra rb => Sys2Proof.Machine.execQsub r rd ra rb s
  | .qmul r rd ra rb => Sys2Proof.Machine.execQmul r rd ra rb s
  | .qmac r rd ra rb => Sys2Proof.Machine.execQmac r rd ra rb s
  | .qshli r rd ra k => Sys2Proof.Machine.execQshli r rd ra k s
  | .qshri r rd ra k => Sys2Proof.Machine.execQshri r rd ra k s
  | .qclamp r rd ra rb => Sys2Proof.Machine.execQclamp r rd ra rb s
  | .fadd r rd ra rb => Sys2Proof.Machine.execFadd r rd ra rb s
  | .fsub r rd ra rb => Sys2Proof.Machine.execFsub r rd ra rb s
  | .fmul r rd ra rb => Sys2Proof.Machine.execFmul r rd ra rb s
  | .fdiv r rd ra rb => Sys2Proof.Machine.execFdiv r rd ra rb s
  | .fsqrt r rd ra => Sys2Proof.Machine.execFsqrt r rd ra s
  | .fmin r rd ra rb => Sys2Proof.Machine.execFmin r rd ra rb s
  | .fmax r rd ra rb => Sys2Proof.Machine.execFmax r rd ra rb s
  | .flt r rd ra rb => Sys2Proof.Machine.execFlt r rd ra rb s
  | .feq r rd ra rb => Sys2Proof.Machine.execFeq r rd ra rb s
  | .fcvtqf r rd ra => Sys2Proof.Machine.execFcvtqf r rd ra s
  | .fcvtfq r rd ra => Sys2Proof.Machine.execFcvtfq r rd ra s
  | .fcvtif r rd ra => Sys2Proof.Machine.execFcvtif r rd ra s
  | .fcvtfi r rd ra => Sys2Proof.Machine.execFcvtfi r rd ra s
  | .ldb r rd ra imm => Sys2Proof.Machine.execLdb r rd ra imm s
  | .ldbu r rd ra imm => Sys2Proof.Machine.execLdbu r rd ra imm s
  | .ldh r rd ra imm => Sys2Proof.Machine.execLdh r rd ra imm s
  | .ldhu r rd ra imm => Sys2Proof.Machine.execLdhu r rd ra imm s
  | .ldw r rd ra imm => Sys2Proof.Machine.execLdw r rd ra imm s
  | .ldwu r rd ra imm => Sys2Proof.Machine.execLdwu r rd ra imm s
  | .ldd r rd ra imm => Sys2Proof.Machine.execLdd r rd ra imm s
  | .stb r rd ra imm => Sys2Proof.Machine.execStb r rd ra imm s
  | .sth r rd ra imm => Sys2Proof.Machine.execSth r rd ra imm s
  | .stw r rd ra imm => Sys2Proof.Machine.execStw r rd ra imm s
  | .std r rd ra imm => Sys2Proof.Machine.execStd r rd ra imm s
  | .beq r ra rb off => Sys2Proof.Machine.execBeq r ra rb off s
  | .bne r ra rb off => Sys2Proof.Machine.execBne r ra rb off s
  | .blt r ra rb off => Sys2Proof.Machine.execBlt r ra rb off s
  | .bge r ra rb off => Sys2Proof.Machine.execBge r ra rb off s
  | .bltu r ra rb off => Sys2Proof.Machine.execBltu r ra rb off s
  | .bgeu r ra rb off => Sys2Proof.Machine.execBgeu r ra rb off s
  | .j r off => Sys2Proof.Machine.execJ r off s
  | .call r off => Sys2Proof.Machine.execCall r off s
  | .callr r rb => Sys2Proof.Machine.execCallr r rb s
  | .ret r => Sys2Proof.Machine.execRet r s
  | .lockseq r => Sys2Proof.Machine.execLockseq r s
  | .endseq r => Sys2Proof.Machine.execEndseq r s
  | .brk r => Sys2Proof.Machine.execBrk r s
  | .time r rd k => Sys2Proof.Machine.execTime r rd k s
  | .post r rd ra rb => Sys2Proof.Machine.execPost r rd ra rb s
  | .take r rd ra rb k => Sys2Proof.Machine.execTake r rd ra rb k s
  | .waitt r => Sys2Proof.Machine.execWaitt r s
  | .delay r ra => Sys2Proof.Machine.execDelay r ra s
  | .yield r => Sys2Proof.Machine.execYield r s
  | .setpri r rd ra rb => Sys2Proof.Machine.execSetpri r rd ra rb s
  | .lock r k => Sys2Proof.Machine.execLock r k s
  | .unlock r k => Sys2Proof.Machine.execUnlock r k s
  | .tld r rd ra k => Sys2Proof.Machine.execTld r rd ra k s
  | .dst r rd ra rb => Sys2Proof.Machine.execDst r rd ra rb s
  | .mst r rd ra => Sys2Proof.Machine.execMst r rd ra s
  | .stile r rd => Sys2Proof.Machine.execStile r rd s
  | .sel r rd ra rb => Sys2Proof.Machine.execSel r rd ra rb s
  | .lekick r rd k => Sys2Proof.Machine.execLekick r rd k s
  | .lerd r rd ra k => Sys2Proof.Machine.execLerd r rd ra k s
  | .txn r rd ra rb => Sys2Proof.Machine.execTxn r rd ra rb s
  | .tagw r rd ra => Sys2Proof.Machine.execTagw r rd ra s
  | .createTask r rd rb => Sys2Proof.Machine.execCreateTask r rd rb s
  | .deleteTask r rd rb => Sys2Proof.Machine.execDeleteTask r rd rb s
  | .activateTask r rd rb => Sys2Proof.Machine.execActivateTask r rd rb s
  | .configureMailbox r rd rb => Sys2Proof.Machine.execConfigureMailbox r rd rb s
  | .configureLock r rd rb => Sys2Proof.Machine.execConfigureLock r rd rb s
  | .votedPhaseBegin die => Sys2Proof.Machine.execVotedPhaseBegin die s
  | .votedDispatch die => Sys2Proof.Machine.execVotedDispatch die s
  | .tickEvent => Sys2Proof.Machine.execTickEvent s
  | .delayExpiry die task => Sys2Proof.Machine.execDelayExpiry die task s
  | .sampleInstant => Sys2Proof.Machine.execSampleInstant s
  | .rideThroughLimit cause => Sys2Proof.Machine.execRideThroughLimit cause s
  | .cellSampleInstant p x blank => Sys2Proof.Machine.execCellSampleInstant p x blank s
  | .converterBSlot p first x blank => Sys2Proof.Machine.execConverterBSlot p first x blank s
  | .referenceStale u v => Sys2Proof.Machine.execReferenceStale u v s
  | .diagnosticRound u => Sys2Proof.Machine.execDiagnosticRound u s
  | .filteredResult u => Sys2Proof.Machine.execFilteredResult u s
  | .aqConversionSlot v slot x => Sys2Proof.Machine.execAqConversionSlot v slot x s
  | .tallyInsert p toward b => Sys2Proof.Machine.execTallyInsert p toward b s
  | .tallyClose => Sys2Proof.Machine.execTallyClose s
  | .tallyDelivery => Sys2Proof.Machine.execTallyDelivery s
  | .modeDecision => Sys2Proof.Machine.execModeDecision s
  | .stileVote => Sys2Proof.Machine.execStileVote s
  | .droveLaunch ring e => Sys2Proof.Machine.execDroveLaunch ring e s
  | .droveReceive p x pl h => Sys2Proof.Machine.execDroveReceive p x pl h s
  | .explicitReceive p x pl h => Sys2Proof.Machine.execExplicitReceive p x pl h s
  | .reloadInstant p => Sys2Proof.Machine.execReloadInstant p s
  | .votedMirrorReceive die src b => Sys2Proof.Machine.execVotedMirrorReceive die src b s
  | .energyPosting conv => Sys2Proof.Machine.execEnergyPosting conv s
  | .intervalClose conv => Sys2Proof.Machine.execIntervalClose conv s
  | .laneAdmission => Sys2Proof.Machine.execLaneAdmission s
  | .gateOpen die => Sys2Proof.Machine.execGateOpen die s
  | .hurdleOutRelease => Sys2Proof.Machine.execHurdleOutRelease s
  | .heartbeat pkg b => Sys2Proof.Machine.execHeartbeat pkg b s
  | .heartbeatMissing pkg => Sys2Proof.Machine.execHeartbeatMissing pkg s
  | .grantState granted partner => Sys2Proof.Machine.execGrantState granted partner s
  | .refereeGrant level => Sys2Proof.Machine.execRefereeGrant level s
  | .relayedDrove link ring pl crcOk => Sys2Proof.Machine.execRelayedDrove link ring pl crcOk s
  | .twinMirrorBlock link index b => Sys2Proof.Machine.execTwinMirrorBlock link index b s
  | .relayedTxnReq link pl => Sys2Proof.Machine.execRelayedTxnReq link pl s
  | .relayedTxnRsp link pl => Sys2Proof.Machine.execRelayedTxnRsp link pl s
  | .twinTime link roundTrip theta => Sys2Proof.Machine.execTwinTime link roundTrip theta s
  | .forwardedConfigurationWrite addr v => Sys2Proof.Machine.execForwardedConfigurationWrite addr v s
  | .twinLinkUp link roundTrip => Sys2Proof.Machine.execTwinLinkUp link roundTrip s
  | .twinLinkDown link => Sys2Proof.Machine.execTwinLinkDown link s
  | .handreq => Sys2Proof.Machine.execHandreq s
  | .retire dies => Sys2Proof.Machine.execRetire dies s
  | .ptpMessage m => Sys2Proof.Machine.execPtpMessage m s
  | .ptpSync theta => Sys2Proof.Machine.execPtpSync theta s
  | .rateChange => Sys2Proof.Machine.execRateChange s
  | .holdoverTimeout => Sys2Proof.Machine.execHoldoverTimeout s
  | .acquireTimeout => Sys2Proof.Machine.execAcquireTimeout s
  | .accept => Sys2Proof.Machine.execAccept s
  | .set => Sys2Proof.Machine.execSet s
  | .wallOffsetWrite v => Sys2Proof.Machine.execWallOffsetWrite v s
  | .receiverDetect q half miswired => Sys2Proof.Machine.execReceiverDetect q half miswired s
  | .clockLock q => Sys2Proof.Machine.execClockLock q s
  | .blockLock q => Sys2Proof.Machine.execBlockLock q s
  | .lockLoss q => Sys2Proof.Machine.execLockLoss q s
  | .forwardedClockFailure p x => Sys2Proof.Machine.execForwardedClockFailure p x s
  | .train q pl h => Sys2Proof.Machine.execTrain q pl h s
  | .enumerationStart ring => Sys2Proof.Machine.execEnumerationStart ring s
  | .capsQuery q b => Sys2Proof.Machine.execCapsQuery q b s
  | .capsReport ring e b => Sys2Proof.Machine.execCapsReport ring e b s
  | .capsAssign p b => Sys2Proof.Machine.execCapsAssign p b s
  | .capsNotice ring e b => Sys2Proof.Machine.execCapsNotice ring e b s
  | .ringUp ring => Sys2Proof.Machine.execRingUp ring s
  | .ringRepair ring hop => Sys2Proof.Machine.execRingRepair ring hop s
  | .timeLaunch p x b => Sys2Proof.Machine.execTimeLaunch p x b s
  | .timeLoop p x b turn => Sys2Proof.Machine.execTimeLoop p x b turn s
  | .timeEcho ring e b roundTrip => Sys2Proof.Machine.execTimeEcho ring e b roundTrip s
  | .timeStep p b => Sys2Proof.Machine.execTimeStep p b s
  | .timeSleep p x b => Sys2Proof.Machine.execTimeSleep p x b s
  | .timeWake p x b => Sys2Proof.Machine.execTimeWake p x b s
  | .idleReceive p x b => Sys2Proof.Machine.execIdleReceive p x b s
  | .txnReq p x pl h => Sys2Proof.Machine.execTxnReq p x pl h s
  | .txnRsp ring e b => Sys2Proof.Machine.execTxnRsp ring e b s
  | .txnRetry tag => Sys2Proof.Machine.execTxnRetry tag s
  | .tagTimeout tag => Sys2Proof.Machine.execTagTimeout tag s
  | .hubBlock ring e pl h => Sys2Proof.Machine.execHubBlock ring e pl h s
  | .recordBlock ring e pl h => Sys2Proof.Machine.execRecordBlock ring e pl h s
  | .blockAct p x pl h => Sys2Proof.Machine.execBlockAct p x pl h s
  | .blockTest ring e arrived => Sys2Proof.Machine.execBlockTest ring e arrived s
  | .reservedBlock rd ix b => Sys2Proof.Machine.execReservedBlock rd ix b s
  | .cycleConfigurationWrite v => Sys2Proof.Machine.execCycleConfigurationWrite v s
  | .cycleConfigurationEffect => Sys2Proof.Machine.execCycleConfigurationEffect s
  | .foldConfigurationWrite f v => Sys2Proof.Machine.execFoldConfigurationWrite f v s
  | .foldMapWrite c fold => Sys2Proof.Machine.execFoldMapWrite c fold s
  | .outOfServiceWrite c oos => Sys2Proof.Machine.execOutOfServiceWrite c oos s
  | .leParamGo v => Sys2Proof.Machine.execLeParamGo v s
  | .autotuneStart => Sys2Proof.Machine.execAutotuneStart s
  | .autotuneAbort => Sys2Proof.Machine.execAutotuneAbort s
  | .autotuneTimeout => Sys2Proof.Machine.execAutotuneTimeout s
  | .requestHub => Sys2Proof.Machine.execRequestHub s
  | .requestCommission debugEn => Sys2Proof.Machine.execRequestCommission debugEn s
  | .requestPrecharge => Sys2Proof.Machine.execRequestPrecharge s
  | .requestRun => Sys2Proof.Machine.execRequestRun s
  | .requestBlock => Sys2Proof.Machine.execRequestBlock s
  | .grid on => Sys2Proof.Machine.execGrid on s
  | .sleepRequest ring e => Sys2Proof.Machine.execSleepRequest ring e s
  | .wakeRequest ring e => Sys2Proof.Machine.execWakeRequest ring e s
  | .hubRequest rd v => Sys2Proof.Machine.execHubRequest rd v s
  | .fifoRead f bytes => Sys2Proof.Machine.execFifoRead f bytes s
  | .arm => Sys2Proof.Machine.execArm s
  | .armingComplete => Sys2Proof.Machine.execArmingComplete s
  | .fire => Sys2Proof.Machine.execFire s
  | .abort => Sys2Proof.Machine.execAbort s
  | .triggerDecision => Sys2Proof.Machine.execTriggerDecision s
  | .recordNotice u => Sys2Proof.Machine.execRecordNotice u s
  | .recordFreeze u => Sys2Proof.Machine.execRecordFreeze u s
  | .ownFreeze p => Sys2Proof.Machine.execOwnFreeze p s
  | .fetchStart => Sys2Proof.Machine.execFetchStart s
  | .recordFetch u => Sys2Proof.Machine.execRecordFetch u s
  | .fetchDone => Sys2Proof.Machine.execFetchDone s
  | .legacyAppend ofs v width => Sys2Proof.Machine.execLegacyAppend ofs v width s
  | .legacyEnd ofs v width => Sys2Proof.Machine.execLegacyEnd ofs v width s
  | .legacyPop r rd => Sys2Proof.Machine.execLegacyPop r rd s
  | .stationFrameReceive port bytes fcsOk => Sys2Proof.Machine.execStationFrameReceive port bytes fcsOk s
  | .stationFrameTransmit rd sp w => Sys2Proof.Machine.execStationFrameTransmit rd sp w s
  | .transmitStampPop rd sp => Sys2Proof.Machine.execTransmitStampPop rd sp s
  | .transactionSlotGo slot v => Sys2Proof.Machine.execTransactionSlotGo slot v s
  | .irqCauseClear fifoReg v => Sys2Proof.Machine.execIrqCauseClear fifoReg v s
  | .peekRead a => Sys2Proof.Machine.execPeekRead a s
  | .openreq => Sys2Proof.Machine.execOpenreq s
  | .close => Sys2Proof.Machine.execClose s
  | .debugCoresWrite v => Sys2Proof.Machine.execDebugCoresWrite v s
  | .halt die o => Sys2Proof.Machine.execHalt die o s
  | .resume die o => Sys2Proof.Machine.execResume die o s
  | .debugDataRead die => Sys2Proof.Machine.execDebugDataRead die s
  | .debugDataWrite die v => Sys2Proof.Machine.execDebugDataWrite die v s
  | .erase slotB => Sys2Proof.Machine.execErase slotB s
  | .imageData v => Sys2Proof.Machine.execImageData v s
  | .finish => Sys2Proof.Machine.execFinish s
  | .load slotB dies => Sys2Proof.Machine.execLoad slotB dies s
  | .imageOperationComplete readbackOk => Sys2Proof.Machine.execImageOperationComplete readbackOk s
  | .retry => Sys2Proof.Machine.execRetry s
  | .revive d => Sys2Proof.Machine.execRevive d s
  | .commit => Sys2Proof.Machine.execCommit s
  | .safetyConfirm v => Sys2Proof.Machine.execSafetyConfirm v s
  | .safetyReset pins => Sys2Proof.Machine.execSafetyReset pins s
  | .safetyDataWrite w v => Sys2Proof.Machine.execSafetyDataWrite w v s
  | .faultConfigurationWrite v => Sys2Proof.Machine.execFaultConfigurationWrite v s
  | .ledgerLengthWrite v => Sys2Proof.Machine.execLedgerLengthWrite v s
  | .aqChannelWrite c v => Sys2Proof.Machine.execAqChannelWrite c v s
  | .aqCfgd => Sys2Proof.Machine.execAqCfgd s
  | .partitionWrite die p v => Sys2Proof.Machine.execPartitionWrite die p v s
  | .rcRead t => Sys2Proof.Machine.execRcRead t s
  | .timeLatchRead p => Sys2Proof.Machine.execTimeLatchRead p s
  | .registerWrite t v => Sys2Proof.Machine.execRegisterWrite t v s
  | .cfgd p fb => Sys2Proof.Machine.execCfgd p fb s
  | .slcvConfigurationWrite p v => Sys2Proof.Machine.execSlcvConfigurationWrite p v s
  | .shadowWrite p tcmp v inTime => Sys2Proof.Machine.execShadowWrite p tcmp v inTime s
  | .semi p => Sys2Proof.Machine.execSemi p s
  | .semiRel p => Sys2Proof.Machine.execSemiRel p s
  | .bypassFire p key => Sys2Proof.Machine.execBypassFire p key s
  | .latchClear p mask persists => Sys2Proof.Machine.execLatchClear p mask persists s
  | .slcvClear p code12 => Sys2Proof.Machine.execSlcvClear p code12 s
  | .vinRise p => Sys2Proof.Machine.execVinRise p s
  | .vinLow p => Sys2Proof.Machine.execVinLow p s
  | .vinRecovery p => Sys2Proof.Machine.execVinRecovery p s
  | .dsatTrip p x => Sys2Proof.Machine.execDsatTrip p x s
  | .gdfltTrip p => Sys2Proof.Machine.execGdfltTrip p s
  | .outputShort p x => Sys2Proof.Machine.execOutputShort p x s
  | .slcvTrip x => Sys2Proof.Machine.execSlcvTrip x s
  | .slcvFiring x => Sys2Proof.Machine.execSlcvFiring x s
  | .bypassConfirmTimeout p => Sys2Proof.Machine.execBypassConfirmTimeout p s
  | .bypassSense p level => Sys2Proof.Machine.execBypassSense p level s
  | .slcvBranchTest p pass => Sys2Proof.Machine.execSlcvBranchTest p pass s
  | .safeReqDemand pin => Sys2Proof.Machine.execSafeReqDemand pin s
  | .safetyEvaluation => Sys2Proof.Machine.execSafetyEvaluation s
  | .blockRepeat => Sys2Proof.Machine.execBlockRepeat s
  | .safeStateTimeout => Sys2Proof.Machine.execSafeStateTimeout s
  | .safeReqTest pin stuck => Sys2Proof.Machine.execSafeReqTest pin stuck s
  | .discrepancyTimer => Sys2Proof.Machine.execDiscrepancyTimer s
  | .safetyWatchdog => Sys2Proof.Machine.execSafetyWatchdog s
  | .workingCopyCrc => Sys2Proof.Machine.execWorkingCopyCrc s
  | .storeCrcCheck => Sys2Proof.Machine.execStoreCrcCheck s
  | .testBlockSend => Sys2Proof.Machine.execTestBlockSend s
  | .faultNTestPulse readbackOk => Sys2Proof.Machine.execFaultNTestPulse readbackOk s
  | .outputReadbackShort => Sys2Proof.Machine.execOutputReadbackShort s
  | .pgLoss d => Sys2Proof.Machine.execPgLoss d s
  | .busNoAnswer d => Sys2Proof.Machine.execBusNoAnswer d s
  | .junctionOvertemperature d => Sys2Proof.Machine.execJunctionOvertemperature d s
  | .uncorrectableError d => Sys2Proof.Machine.execUncorrectableError d s
  | .launchConfirmationMissing rd => Sys2Proof.Machine.execLaunchConfirmationMissing rd s
  | .powerCycleOffEnd d => Sys2Proof.Machine.execPowerCycleOffEnd d s
  | .powerCyclePgTimeout d => Sys2Proof.Machine.execPowerCyclePgTimeout d s
  | .dieReturn d pass => Sys2Proof.Machine.execDieReturn d pass s
  | .powerUp pg => Sys2Proof.Machine.execPowerUp pg s
  | .startup env => Sys2Proof.Machine.execStartup env s
  | .resetAssert => Sys2Proof.Machine.execResetAssert s
  | .resetRelease env => Sys2Proof.Machine.execResetRelease env s
  | .vddhLoss => Sys2Proof.Machine.execVddhLoss s
  | .refclkLoss => Sys2Proof.Machine.execRefclkLoss s
  | .pcieReset => Sys2Proof.Machine.execPcieReset s
  | .timeBlockSend q sub id => Sys2Proof.Machine.execTimeBlockSend q sub id s
  | .forwardedClockReturn p x => Sys2Proof.Machine.execForwardedClockReturn p x s
  | .vinCollapse p => Sys2Proof.Machine.execVinCollapse p s
  | .hurdleInChange released => Sys2Proof.Machine.execHurdleInChange released s
  | .gateOutputEdge p => Sys2Proof.Machine.execGateOutputEdge p s
  | .firingPulseEnd p => Sys2Proof.Machine.execFiringPulseEnd p s
  | .reservedTwinFrame rd t => Sys2Proof.Machine.execReservedTwinFrame rd t s

end Sys2Proof.Machine
end

