-- ==== Sys2Proof/Safety.lean ====
section
/-!
DEFINITION. The terms in which statements speak of the machine: which commands name a unit that exists, when a core executes
an instruction word and what an instruction that writes one register leaves, the legal form of the state's stores, and the
queue a safe run may hold.
-/
namespace Sys2Proof.Machine

/-! ### Units that exist (R3, R38, R43) -/

def Dev.hasUnit (d : Dev) (u : MUnit) : Bool :=
  match u with
  | .cell p => d.hasPlace p
  | .aq => d.present 6

def Dev.hasTarget (d : Dev) (t : RegTarget) : Bool :=
  match t with
  | .cell p _ => d.hasPlace p
  | _ => true

def Dev.hasSender (d : Dev) (q : Sender) : Bool :=
  match q with
  | .ringEnd r e => d.hasRing r && d.ownsEnd e
  | .cell p _ => d.hasPlace p

/-- The dies, rings, ports and places that a command names exist in this package. -/
def Dev.names (s : Dev) (c : Instr) : Bool :=
  match c with
  | .add r _ _ _ => s.present r.die.idx
  | .sub r _ _ _ => s.present r.die.idx
  | .and r _ _ _ => s.present r.die.idx
  | .or r _ _ _ => s.present r.die.idx
  | .xor r _ _ _ => s.present r.die.idx
  | .shl r _ _ _ => s.present r.die.idx
  | .shr r _ _ _ => s.present r.die.idx
  | .sra r _ _ _ => s.present r.die.idx
  | .shli r _ _ _ => s.present r.die.idx
  | .shri r _ _ _ => s.present r.die.idx
  | .srai r _ _ _ => s.present r.die.idx
  | .mul r _ _ _ => s.present r.die.idx
  | .mulh r _ _ _ => s.present r.die.idx
  | .mulhu r _ _ _ => s.present r.die.idx
  | .div r _ _ _ => s.present r.die.idx
  | .divu r _ _ _ => s.present r.die.idx
  | .rem r _ _ _ => s.present r.die.idx
  | .remu r _ _ _ => s.present r.die.idx
  | .slt r _ _ _ => s.present r.die.idx
  | .sltu r _ _ _ => s.present r.die.idx
  | .sext r _ _ _ => s.present r.die.idx
  | .zext r _ _ _ => s.present r.die.idx
  | .addi r _ _ _ => s.present r.die.idx
  | .andi r _ _ _ => s.present r.die.idx
  | .ori r _ _ _ => s.present r.die.idx
  | .xori r _ _ _ => s.present r.die.idx
  | .lui r _ _ => s.present r.die.idx
  | .slti r _ _ _ => s.present r.die.idx
  | .sltiu r _ _ _ => s.present r.die.idx
  | .qadd r _ _ _ => s.present r.die.idx
  | .qsub r _ _ _ => s.present r.die.idx
  | .qmul r _ _ _ => s.present r.die.idx
  | .qmac r _ _ _ => s.present r.die.idx
  | .qshli r _ _ _ => s.present r.die.idx
  | .qshri r _ _ _ => s.present r.die.idx
  | .qclamp r _ _ _ => s.present r.die.idx
  | .fadd r _ _ _ => s.present r.die.idx
  | .fsub r _ _ _ => s.present r.die.idx
  | .fmul r _ _ _ => s.present r.die.idx
  | .fdiv r _ _ _ => s.present r.die.idx
  | .fsqrt r _ _ => s.present r.die.idx
  | .fmin r _ _ _ => s.present r.die.idx
  | .fmax r _ _ _ => s.present r.die.idx
  | .flt r _ _ _ => s.present r.die.idx
  | .feq r _ _ _ => s.present r.die.idx
  | .fcvtqf r _ _ => s.present r.die.idx
  | .fcvtfq r _ _ => s.present r.die.idx
  | .fcvtif r _ _ => s.present r.die.idx
  | .fcvtfi r _ _ => s.present r.die.idx
  | .ldb r _ _ _ => s.present r.die.idx
  | .ldbu r _ _ _ => s.present r.die.idx
  | .ldh r _ _ _ => s.present r.die.idx
  | .ldhu r _ _ _ => s.present r.die.idx
  | .ldw r _ _ _ => s.present r.die.idx
  | .ldwu r _ _ _ => s.present r.die.idx
  | .ldd r _ _ _ => s.present r.die.idx
  | .stb r _ _ _ => s.present r.die.idx
  | .sth r _ _ _ => s.present r.die.idx
  | .stw r _ _ _ => s.present r.die.idx
  | .std r _ _ _ => s.present r.die.idx
  | .beq r _ _ _ => s.present r.die.idx
  | .bne r _ _ _ => s.present r.die.idx
  | .blt r _ _ _ => s.present r.die.idx
  | .bge r _ _ _ => s.present r.die.idx
  | .bltu r _ _ _ => s.present r.die.idx
  | .bgeu r _ _ _ => s.present r.die.idx
  | .j r _ => s.present r.die.idx
  | .call r _ => s.present r.die.idx
  | .callr r _ => s.present r.die.idx
  | .ret r => s.present r.die.idx
  | .lockseq r => s.present r.die.idx
  | .endseq r => s.present r.die.idx
  | .brk r => s.present r.die.idx
  | .time r _ _ => s.present r.die.idx
  | .post r _ _ _ => s.present r.die.idx
  | .take r _ _ _ _ => s.present r.die.idx
  | .waitt r => s.present r.die.idx
  | .delay r _ => s.present r.die.idx
  | .yield r => s.present r.die.idx
  | .setpri r _ _ _ => s.present r.die.idx
  | .lock r _ => s.present r.die.idx
  | .unlock r _ => s.present r.die.idx
  | .tld r _ _ _ => s.present r.die.idx
  | .dst r _ _ _ => s.present r.die.idx
  | .mst r _ _ => s.present r.die.idx
  | .stile r _ => s.present r.die.idx
  | .sel r _ _ _ => s.present r.die.idx
  | .lekick r _ _ => s.present r.die.idx
  | .lerd r _ _ _ => s.present r.die.idx
  | .txn r _ _ _ => s.present r.die.idx
  | .tagw r _ _ => s.present r.die.idx
  | .createTask r _ _ => s.present r.die.idx
  | .deleteTask r _ _ => s.present r.die.idx
  | .activateTask r _ _ => s.present r.die.idx
  | .configureMailbox r _ _ => s.present r.die.idx
  | .configureLock r _ _ => s.present r.die.idx
  | .votedPhaseBegin die => s.present die.idx
  | .votedDispatch die => s.present die.idx
  | .delayExpiry die _ => s.present die.idx
  | .cellSampleInstant p _ _ => s.hasPlace p
  | .converterBSlot p _ _ _ => s.hasPlace p
  | .referenceStale u _ => s.hasUnit u
  | .diagnosticRound u => s.hasUnit u
  | .filteredResult u => s.hasUnit u
  | .aqConversionSlot _ _ _ => s.present 6
  | .tallyInsert p _ _ => s.hasPlace p
  | .droveLaunch ring _ => s.hasRing ring
  | .droveReceive p _ _ _ => s.hasPlace p
  | .explicitReceive p _ _ _ => s.hasPlace p
  | .reloadInstant p => s.hasPlace p
  | .votedMirrorReceive die src _ => s.present die.idx && s.present (4 + src.idx)
  | .gateOpen die => s.present die.idx
  | .relayedDrove _ ring _ _ => s.hasRing ring
  | .receiverDetect q _ _ => s.hasPort q
  | .clockLock q => s.hasPort q
  | .blockLock q => s.hasPort q
  | .lockLoss q => s.hasPort q
  | .forwardedClockFailure p _ => s.hasPlace p
  | .train q _ _ => s.hasPort q
  | .enumerationStart ring => s.hasRing ring
  | .capsQuery q _ => s.hasPort q
  | .capsReport ring _ _ => s.hasRing ring
  | .capsAssign p _ => s.hasPlace p
  | .capsNotice ring _ _ => s.hasRing ring
  | .ringUp ring => s.hasRing ring
  | .ringRepair ring hop => s.hasRing ring && decide (hop ≤ 64)
  | .timeLaunch p _ _ => s.hasPlace p
  | .timeLoop p _ _ _ => s.hasPlace p
  | .timeEcho ring _ _ _ => s.hasRing ring
  | .timeStep p _ => s.hasPlace p
  | .timeSleep p _ _ => s.hasPlace p
  | .timeWake p _ _ => s.hasPlace p
  | .idleReceive p _ _ => s.hasPlace p
  | .txnReq p _ _ _ => s.hasPlace p
  | .txnRsp ring _ _ => s.hasRing ring
  | .hubBlock ring _ _ _ => s.hasRing ring
  | .recordBlock ring _ _ _ => s.hasRing ring
  | .blockAct p _ _ _ => s.hasPlace p
  | .blockTest ring _ _ => s.hasRing ring
  | .reservedBlock rd ix _ => s.hasPort (.pkg rd ix)
  | .sleepRequest ring _ => s.hasRing ring
  | .wakeRequest ring _ => s.hasRing ring
  | .hubRequest rd _ => s.present (4 + rd.idx)
  | .recordNotice u => s.hasUnit u
  | .recordFreeze u => s.hasUnit u
  | .ownFreeze p => s.hasPlace p
  | .recordFetch u => s.hasUnit u
  | .legacyPop r _ => s.present r.die.idx
  | .stationFrameReceive port _ _ => s.present (4 + spDie port.val)
  | .stationFrameTransmit rd _ _ => s.present (4 + rd.idx)
  | .transmitStampPop rd _ => s.present (4 + rd.idx)
  | .halt die _ => s.present die.idx
  | .resume die _ => s.present die.idx
  | .revive d => s.present d.idx
  | .aqChannelWrite _ _ => s.present 6
  | .aqCfgd => s.present 6
  | .partitionWrite die _ _ => s.present die.idx
  | .rcRead t => s.hasTarget t
  | .timeLatchRead p => s.hasPlace p
  | .registerWrite t _ => s.hasTarget t
  | .cfgd p _ => s.hasPlace p
  | .slcvConfigurationWrite p _ => s.hasPlace p
  | .shadowWrite p _ _ _ => s.hasPlace p
  | .semi p => s.hasPlace p
  | .semiRel p => s.hasPlace p
  | .bypassFire p _ => s.hasPlace p
  | .latchClear p _ _ => s.hasPlace p
  | .slcvClear p _ => s.hasPlace p
  | .vinRise p => s.hasPlace p
  | .vinLow p => s.hasPlace p
  | .vinRecovery p => s.hasPlace p
  | .dsatTrip p _ => s.hasPlace p
  | .gdfltTrip p => s.hasPlace p
  | .outputShort p _ => s.hasPlace p
  | .slcvTrip ⟨p, _, _⟩ => s.hasPlace p
  | .slcvFiring ⟨p, _, _⟩ => s.hasPlace p
  | .bypassConfirmTimeout p => s.hasPlace p
  | .bypassSense p _ => s.hasPlace p
  | .slcvBranchTest p _ => s.hasPlace p
  | .pgLoss d => s.present d.idx
  | .busNoAnswer d => s.present d.idx
  | .junctionOvertemperature d => s.present d.idx
  | .uncorrectableError d => s.present d.idx
  | .launchConfirmationMissing rd => s.present (4 + rd.idx)
  | .powerCycleOffEnd d => s.present d.idx
  | .powerCyclePgTimeout d => s.present d.idx
  | .dieReturn d _ => s.present d.idx
  | .timeBlockSend q _ _ => s.hasSender q
  | .forwardedClockReturn p _ => s.hasPlace p
  | .vinCollapse p => s.hasPlace p
  | .gateOutputEdge p => s.hasPlace p
  | .firingPulseEnd p => s.hasPlace p
  | .reservedTwinFrame rd _ => s.present (4 + rd.idx)
  | _ => true

/-! ### One instruction on a core -/

/-- Core r executes the word for task t: the die runs, t is the task that runs there, its PC is aligned and in instruction
    memory, its open sequence admits the word, and its partition may execute it (R359, R360, R369, R375-R377). -/
def State.executes (s : State) (r : CoreRef) (t word : Nat) (perm : Perm) : Bool :=
  let k := (s.dev.cd r.die.idx).task t
  s.dev.present r.die.idx && decide (s.dev.runs r = some t) && decide (k.pc.toNat % 4 = 0) && decide (k.pc.toNat < 0x400000)
    && (s.dev.cd r.die.idx).seqAllows k word && perm.ok k.part

/-- A register as task t on core r sees it. -/
def State.reg (s : State) (r : CoreRef) (t : Nat) (x : Reg) : W64 := (s.dev.cd r.die.idx).reg r.core.val t x

/-- The context of task t of a die. -/
def State.task (s : State) (r : CoreRef) (t : Nat) : Task := (s.dev.cd r.die.idx).task t

/-- The block as an instruction's own effect finds it: the instruction is its task's last (R363). -/
def State.entered (s : State) (r : CoreRef) (t : Nat) : Dev := s.dev.issue r.die.idx t

/-- Register rd written, and the task at the following instruction. -/
def Dev.writes (e : Dev) (r : CoreRef) (t : Nat) (rd : Reg) (v : W64) : Dev :=
  (e.modCd r.die.idx (fun x => x.setReg r.core.val t rd v)).advance r.die.idx t

/-- What an instruction leaves that does nothing but write rd. -/
def State.wrote (s : State) (r : CoreRef) (t : Nat) (rd : Reg) (v : W64) : State :=
  { s with dev := (s.entered r t).writes r t rd v }

/-- The state with another block and the same queue. -/
def State.withDev (s : State) (d : Dev) : State := { s with dev := d }

/-- Where core r executes the word, command i does nothing but write rd with v. -/
def State.computes (s : State) (r : CoreRef) (t : Nat) (i : Instr) (word : Nat) (rd : Reg) (v : W64) : Prop :=
  s.executes r t word .both = true → exec i s = .next (s.wrote r t rd v)

/-- Command c completes, leaves the queue alone, and brings the block where P holds. -/
def State.goes (s : State) (c : Instr) (P : Dev → Prop) : Prop := ∃ d, exec c s = .next (s.withDev d) ∧ P d

/-- Command c completes and changes nothing but the cell at place p, of which P then holds. -/
def State.cellGoes (s : State) (p : Place) (c : Instr) (P : Cell → Prop) : Prop :=
  ∃ n, exec c s = .next (s.withDev (s.dev.setCell p n)) ∧ P n

/-- Command c completes: the cell at place p comes to instant t of its local time as it then is, and but for the passing of
    that time nothing changes outside the cell, of which P, given the cell as it comes, then holds. -/
def State.cellComes (s : State) (p : Place) (t : Nat) (c : Instr) (P : Cell → Cell → Prop) : Prop :=
  ∃ n, exec c s = .next (s.withDev ((s.dev.cellCome p t).setCell p n)) ∧ P ((s.dev.cellCome p t).cell p) n

/-- Of a block put out: its sender, type and payload; its position in the stream is not compared. -/
def Emission.sent : Emission → Option (Sender × BitVec 4 × Payload)
  | .block q _ ty pl => some (q, ty, pl)
  | _ => none

/-- Block d has put out what block s had, and since then the blocks given, the first of them first. -/
def Dev.sends (s d : Dev) (l : List (Sender × BitVec 4 × Payload)) : Prop :=
  d.out.drop l.length = s.out ∧ (d.out.take l.length).map Emission.sent = (l.map some).reverse

/-- The place exists and its cell is powered. -/
def State.cellOn (s : State) (p : Place) : Bool := s.dev.hasPlace p && (s.dev.cell p).powered

/-- A byte of a control die's data SRAM. -/
def Dev.byte (d : Dev) (i a : Nat) : Byte := (d.cd i).dmem.byte a

/-! ### Legal states -/

/-- Every store of the block has its canonical form: the registers, the cells, the rings, the cell ends, the data
    SRAM of every control die, and the images in boot memory. -/
def Dev.canonical (d : Dev) : Bool :=
  Store.wf regReset d.regs && Store.wf Cell.dflt d.cells && Store.wf ringDflt d.rings && Store.wf endDflt d.ends
    && (d.cd0.dmem.wf && d.cd1.dmem.wf && d.cd2.dmem.wf && d.cd3.dmem.wf) && d.nv.img.all (fun e => e.2.wf)

/-- Every waiting command is well formed. -/
def State.queueWf (s : State) : Bool := s.pending.all Instr.wf

end Sys2Proof.Machine
end

