-- ==== Sys2Proof/Certificates/Slice0/Obligations.lean ====
section
/-!
DEFINITION. The statements about the machine. Each docstring names the rules of the spec it speaks of; OBLIGATIONS.json
lists each with its tier, its kind and what it cites.
-/
open Sys2Proof Sys2Proof.Machine

/-- With a command c at the front of the queue, a step is exec of c on the state with the rest of the queue. The queue of
    waiting commands is the model's own form of the block (log entry 2). (spec/95_what_each_step_holds.md,
    spec/00_scope.md) -/
def Obligations.StepRunsFrontCommand : Prop :=
  ∀ (s : State) (c : Instr) (rest : List Instr),
    step { s with pending := c :: rest } = exec c { s with pending := rest }

/-- With no command waiting, a step answers a next state with the queue still empty, in which every control die, the rings
    and boot memory are as before; the shepherd's raw counter advances by one exactly when the timebase runs (the
    oscillator is present, the package is out of reset and time has started), and the local counter of a powered cell by
    one and the part of a nanosecond that its rate gives, of an unpowered one not at all. While no FIFO holds a packet
    that is only partly written, every register of the block, the event log and what was sent are as before too. That a
    step without a command is one nanosecond is the model's choice (log entry 2). (R449, R248) -/
def Obligations.EmptyQueueIsOneNanosecond : Prop :=
  ∀ (s : State), s.pending = [] →
    let part := fun (f : Nat) => ((s.dev.rd (s.dev.fifoRd f)).fifo (s.dev.fifoLoc f))
    ∃ d : Dev, step s = .next { dev := d, pending := [] } ∧
      d.cd0 = s.dev.cd0 ∧ d.cd1 = s.dev.cd1 ∧ d.cd2 = s.dev.cd2 ∧ d.cd3 = s.dev.cd3 ∧ d.rings = s.dev.rings ∧ d.nv = s.dev.nv ∧
      d.sh.clk.raw = s.dev.sh.clk.raw +
        (if s.dev.sh.clk.started && s.dev.sh.pin.refclk && !s.dev.sh.clk.inReset then 1 else 0) ∧
      (∀ p, (d.cell p).tm.time = if (s.dev.cell p).powered then
        ux 64 ((s.dev.cell p).tm.time + ((s.dev.cell p).tm.sub + 2 ^ 40 + sx 32 ((s.dev.cell p).fget SRB_TD_RATE_RATE)) / 2 ^ 40)
        else (s.dev.cell p).tm.time) ∧
      ((∀ f < 64, (part f).words.length ≤ (part f).visible) → d.regs = s.dev.regs ∧ d.sh.flt = s.dev.sh.flt ∧ d.out = s.dev.out)

/-- For every command and every state exec answers a next state with the queue untouched: no command is refused and none
    faults. Where a die, ring, port or place that the command names does not exist in this variant and pairing, the next
    state is the same state; that such a command has no effect is the model's choice (log entry 8). (R3, R38, R43) -/
def Obligations.EveryCommandCompletes : Prop :=
  ∀ (c : Instr) (s : State),
    (∃ d, exec c s = .next { s with dev := d }) ∧
    (s.dev.names c = false → exec c s = .next s)

/-- From every state whose waiting commands are all well formed, a step that answers a next state leaves waiting exactly
    the commands behind the one it took, all well formed still: no command of the block puts another one into the queue or
    takes one out of it. (spec/95_what_each_step_holds.md, spec/00_scope.md) -/
def Obligations.StepKeepsQueueWellFormed : Prop :=
  ∀ (s t : State), s.queueWf = true → step s = .next t →
    t.queueWf = true ∧ t.pending = s.pending.tail

/-- From every state whose register store, cells, rings, cell ends and data SRAMs list their keys in rising order with no
    entry that equals what an unlisted key reads as, every step that answers a next state leaves them in that form; and no
    step changes which variant of the family the package is (R3). (R3, R18, R364) -/
def Obligations.StepKeepsCanonicalStores : Prop :=
  ∀ (s t : State), s.dev.canonical = true → step s = .next t →
    t.dev.canonical = true ∧ t.dev.variant = s.dev.variant

/-- After reset the queue is empty and well formed, and every store has its canonical form. (R18, R364) -/
def Obligations.ResetIsLegal : Prop :=
  State.reset.queueWf = true ∧ State.reset.dev.canonical = true ∧ State.reset.pending = []

/-- After reset each register of the BAR0 map reads as the reset value of its row, a register without a row reads as zero,
    no interrupt cause is set, no event-log entry stands, no task exists on any control die, and the block has sent
    nothing. (R18, R644, R652, R662) -/
def Obligations.ResetRegisterValues : Prop :=
  (∀ a : Nat, State.reset.dev.rget a = regReset a) ∧
  (∀ a : Nat, pkgRowAt a = none → State.reset.dev.rget a = 0) ∧
  State.reset.dev.fget ⟨GLB_IRQ_STAT, 0, 64⟩ = 0 ∧
  State.reset.dev.sh.flt.log = [] ∧
  (∀ d t : Nat, ((State.reset.dev.cd d).task t).state = .free) ∧
  (∀ d c : Nat, ((State.reset.dev.cd d).core c).task = none) ∧
  State.reset.dev.out = []

/-- Where a core executes one of ADD, SUB, AND, OR, XOR, SHL, SHR, SRA, SHLI, SHRI, SRAI, SEXT, ZEXT, SLT, SLTU, ADDI,
    ANDI, ORI, XORI, LUI, SLTI, SLTIU, the instruction completes and its whole effect is that rd receives the value the
    table gives and the task goes on at the following instruction: wrapping sums, shifts by rb [5:0] or k6, the bits above
    bit k6 replaced by that bit or by zero, 1 or 0 for a comparison, and the immediate sign- or zero-extended. (R350,
    R373, R375) -/
def Obligations.IntegerResults : Prop :=
  ∀ (s : State) (r : CoreRef) (t : Nat) (rd ra rb : Reg) (k : BitVec 6) (imm : W16),
    let g := s.reg r t
    (s.computes r t (.add r rd ra rb) (encR 0x00 rd ra rb 0x00 0) rd
      (g ra + g rb)) ∧
    (s.computes r t (.sub r rd ra rb) (encR 0x00 rd ra rb 0x01 0) rd
      (g ra - g rb)) ∧
    (s.computes r t (.and r rd ra rb) (encR 0x00 rd ra rb 0x02 0) rd
      (g ra &&& g rb)) ∧
    (s.computes r t (.or r rd ra rb) (encR 0x00 rd ra rb 0x03 0) rd
      (g ra ||| g rb)) ∧
    (s.computes r t (.xor r rd ra rb) (encR 0x00 rd ra rb 0x04 0) rd
      (g ra ^^^ g rb)) ∧
    (s.computes r t (.shl r rd ra rb) (encR 0x00 rd ra rb 0x05 0) rd
      (g ra <<< ((g rb).toNat % 64))) ∧
    (s.computes r t (.shr r rd ra rb) (encR 0x00 rd ra rb 0x06 0) rd
      (g ra >>> ((g rb).toNat % 64))) ∧
    (s.computes r t (.sra r rd ra rb) (encR 0x00 rd ra rb 0x07 0) rd
      ((g ra).sshiftRight ((g rb).toNat % 64))) ∧
    (s.computes r t (.shli r rd ra k) (encR 0x00 rd ra noReg 0x08 k.toNat) rd
      (g ra <<< k.toNat)) ∧
    (s.computes r t (.shri r rd ra k) (encR 0x00 rd ra noReg 0x09 k.toNat) rd
      (g ra >>> k.toNat)) ∧
    (s.computes r t (.srai r rd ra k) (encR 0x00 rd ra noReg 0x0A k.toNat) rd
      ((g ra).sshiftRight k.toNat)) ∧
    (s.computes r t (.sext r rd ra k) (encR 0x00 rd ra noReg 0x14 k.toNat) rd
      (((g ra <<< (63 - k.toNat)).sshiftRight (63 - k.toNat)))) ∧
    (s.computes r t (.zext r rd ra k) (encR 0x00 rd ra noReg 0x15 k.toNat) rd
      ((g ra <<< (63 - k.toNat)) >>> (63 - k.toNat))) ∧
    (s.computes r t (.slt r rd ra rb) (encR 0x00 rd ra rb 0x12 0) rd
      (if (g ra).toInt < (g rb).toInt then 1 else 0)) ∧
    (s.computes r t (.sltu r rd ra rb) (encR 0x00 rd ra rb 0x13 0) rd
      (if (g ra).toNat < (g rb).toNat then 1 else 0)) ∧
    (s.computes r t (.addi r rd ra imm) (encI 0x01 rd ra imm) rd
      (g ra + imm.signExtend 64)) ∧
    (s.computes r t (.andi r rd ra imm) (encI 0x02 rd ra imm) rd
      (g ra &&& imm.setWidth 64)) ∧
    (s.computes r t (.ori r rd ra imm) (encI 0x03 rd ra imm) rd
      (g ra ||| imm.setWidth 64)) ∧
    (s.computes r t (.xori r rd ra imm) (encI 0x04 rd ra imm) rd
      (g ra ^^^ imm.setWidth 64)) ∧
    (s.computes r t (.lui r rd imm) (encI 0x05 rd noReg imm) rd
      (imm.signExtend 64 * 0x10000#64)) ∧
    (s.computes r t (.slti r rd ra imm) (encI 0x06 rd ra imm) rd
      (if (g ra).toInt < imm.toInt then 1 else 0)) ∧
    (s.computes r t (.sltiu r rd ra imm) (encI 0x07 rd ra imm) rd
      (if (g ra).toNat < (imm.signExtend 64).toNat then 1 else 0))

/-- Where a core executes ADD, SUB, ADDI, MUL, MULH, MULHU, DIV, DIVU, REM or REMU, the instruction completes and rd
    receives the exact sum, difference or low half of the product wrapped to 64 bits, or the high half of the product, or
    the quotient truncated toward zero or the remainder with the sign of ra; division by zero gives a quotient of zero and
    a remainder equal to ra, and the most negative value divided by -1 gives a quotient equal to the most negative value
    and a remainder of zero. (R367) -/
def Obligations.MultiplyAndDivideResults : Prop :=
  ∀ (s : State) (r : CoreRef) (t : Nat) (rd ra rb : Reg) (imm : W16),
    let a := (s.reg r t ra).toInt
    let b := (s.reg r t rb).toInt
    let m := (s.reg r t ra).toNat
    let n := (s.reg r t rb).toNat
    (s.computes r t (.add r rd ra rb) (encR 0x00 rd ra rb 0x00 0) rd
      (BitVec.ofInt 64 (a + b))) ∧
    (s.computes r t (.sub r rd ra rb) (encR 0x00 rd ra rb 0x01 0) rd
      (BitVec.ofInt 64 (a - b))) ∧
    (s.computes r t (.addi r rd ra imm) (encI 0x01 rd ra imm) rd
      (BitVec.ofInt 64 (a + imm.toInt))) ∧
    (s.computes r t (.mul r rd ra rb) (encR 0x00 rd ra rb 0x0B 0) rd
      (BitVec.ofInt 64 (a * b))) ∧
    (s.computes r t (.mulh r rd ra rb) (encR 0x00 rd ra rb 0x0C 0) rd
      (BitVec.ofInt 64 (a * b / 2 ^ 64))) ∧
    (s.computes r t (.mulhu r rd ra rb) (encR 0x00 rd ra rb 0x0D 0) rd
      (BitVec.ofNat 64 (m * n / 2 ^ 64))) ∧
    (s.computes r t (.div r rd ra rb) (encR 0x00 rd ra rb 0x0E 0) rd
      (if b = 0 then 0 else if a = -2 ^ 63 ∧ b = -1 then BitVec.ofInt 64 (-2 ^ 63) else BitVec.ofInt 64 (a.tdiv b))) ∧
    (s.computes r t (.divu r rd ra rb) (encR 0x00 rd ra rb 0x0F 0) rd
      (if n = 0 then 0 else BitVec.ofNat 64 (m / n))) ∧
    (s.computes r t (.rem r rd ra rb) (encR 0x00 rd ra rb 0x10 0) rd
      (if b = 0 then s.reg r t ra else if a = -2 ^ 63 ∧ b = -1 then 0 else BitVec.ofInt 64 (a.tmod b))) ∧
    (s.computes r t (.remu r rd ra rb) (encR 0x00 rd ra rb 0x11 0) rd
      (if n = 0 then s.reg r t ra else BitVec.ofNat 64 (m % n)))

/-- Where a core executes QADD, QSUB, QMUL, QMAC, QSHLI (k6 0-31), QSHRI (k6 1-31) or QCLAMP, the instruction completes:
    it takes the low 32 bits of each operand as a signed Q3.28 number, computes with the saturating sum and difference,
    the rounded product (P + 2^27) shifted right by 28 and saturated, and clamp(x, lo, hi) = min(max(x, lo), hi), and
    writes the 32-bit result sign-extended to 64 bits; QMAC rounds the product before the addition. (R365, R173) -/
def Obligations.QClassResults : Prop :=
  ∀ (s : State) (r : CoreRef) (t : Nat) (rd ra rb : Reg) (k : BitVec 6),
    let q := fun (x : Reg) => ((s.reg r t x).setWidth 32).toInt
    let sat := fun (x : Int) => max (-2 ^ 31) (min x (2 ^ 31 - 1))
    let rnd := fun (x y : Int) => sat ((x * y + 2 ^ 27) / 2 ^ 28)
    let w := fun (x : Int) => (BitVec.ofInt 32 x).signExtend 64
    (s.computes r t (.qadd r rd ra rb) (encR 0x08 rd ra rb 0x00 0) rd
      (w (sat (q ra + q rb)))) ∧
    (s.computes r t (.qsub r rd ra rb) (encR 0x08 rd ra rb 0x01 0) rd
      (w (sat (q ra - q rb)))) ∧
    (s.computes r t (.qmul r rd ra rb) (encR 0x08 rd ra rb 0x02 0) rd
      (w (rnd (q ra) (q rb)))) ∧
    (s.computes r t (.qmac r rd ra rb) (encR 0x08 rd ra rb 0x03 0) rd
      (w (sat (q rd + rnd (q ra) (q rb))))) ∧
    (k.toNat < 32 → s.computes r t (.qshli r rd ra k) (encR 0x08 rd ra noReg 0x04 k.toNat) rd
      (w (sat (q ra * 2 ^ k.toNat)))) ∧
    (0 < k.toNat ∧ k.toNat < 32 → s.computes r t (.qshri r rd ra k) (encR 0x08 rd ra noReg 0x05 k.toNat) rd
      (w ((q ra + 2 ^ (k.toNat - 1)) / 2 ^ k.toNat))) ∧
    (s.computes r t (.qclamp r rd ra rb) (encR 0x08 rd ra rb 0x06 0) rd
      (w (min (max (q rd) (q ra)) (q rb))))

/-- Where a core executes FADD, FSUB, FMUL, FDIV, FSQRT, FMIN, FMAX, FLT, FEQ, FCVTQF, FCVTFQ, FCVTIF or FCVTFI, the
    instruction completes without a trap: it takes the low 32 bits of each operand as binary32 (all 64 bits of ra for
    FCVTIF) and writes a binary32 result with the upper 32 bits zero, 0 or 1 for FLT and FEQ, a Q3.28 result sign-extended
    for FCVTFQ and the whole signed 64-bit result for FCVTFI, in the binary32 arithmetic of the model. (R366, R375) -/
def Obligations.FClassResults : Prop :=
  ∀ (s : State) (r : CoreRef) (t : Nat) (rd ra rb : Reg),
    let a := fun (x : Reg) => (s.reg r t x).toNat % 2 ^ 32
    (s.computes r t (.fadd r rd ra rb) (encR 0x09 rd ra rb 0x00 0) rd
      (fTo (f32.add (a ra) (a rb)))) ∧
    (s.computes r t (.fsub r rd ra rb) (encR 0x09 rd ra rb 0x01 0) rd
      (fTo (f32.sub (a ra) (a rb)))) ∧
    (s.computes r t (.fmul r rd ra rb) (encR 0x09 rd ra rb 0x02 0) rd
      (fTo (f32.mul (a ra) (a rb)))) ∧
    (s.computes r t (.fdiv r rd ra rb) (encR 0x09 rd ra rb 0x03 0) rd
      (fTo (f32.div (a ra) (a rb)))) ∧
    (s.computes r t (.fsqrt r rd ra) (encR 0x09 rd ra noReg 0x04 0) rd
      (fTo (f32.sqrt (a ra)))) ∧
    (s.computes r t (.fmin r rd ra rb) (encR 0x09 rd ra rb 0x05 0) rd
      (fTo (f32.minmax false (a ra) (a rb)))) ∧
    (s.computes r t (.fmax r rd ra rb) (encR 0x09 rd ra rb 0x06 0) rd
      (fTo (f32.minmax true (a ra) (a rb)))) ∧
    (s.computes r t (.flt r rd ra rb) (encR 0x09 rd ra rb 0x07 0) rd
      (if f32.lt (a ra) (a rb) then 1 else 0)) ∧
    (s.computes r t (.feq r rd ra rb) (encR 0x09 rd ra rb 0x08 0) rd
      (if f32.eq (a ra) (a rb) then 1 else 0)) ∧
    (s.computes r t (.fcvtqf r rd ra) (encR 0x09 rd ra noReg 0x09 0) rd
      (fTo (f32.ofInt ((s.reg r t ra).setWidth 32).toInt (-28)))) ∧
    (s.computes r t (.fcvtfq r rd ra) (encR 0x09 rd ra noReg 0x0A 0) rd
      ((BitVec.ofInt 32 (f32.toIntAway (a ra) 1 28 (-2 ^ 31) (2 ^ 31 - 1) 0)).signExtend 64)) ∧
    (s.computes r t (.fcvtif r rd ra) (encR 0x09 rd ra noReg 0x0B 0) rd
      (fTo (f32.ofInt (s.reg r t ra).toInt 0))) ∧
    (s.computes r t (.fcvtfi r rd ra) (encR 0x09 rd ra noReg 0x0C 0) rd
      (BitVec.ofInt 64 (f32.toIntTrunc (a ra) (-2 ^ 63) (2 ^ 63 - 1))))

/-- Every NaN result of a sum, difference, product, quotient or root is 0x7FC0_0000; an operand that is subnormal counts
    as zero of its sign in sums, products and comparisons; no sum, product or quotient is itself subnormal; a negative
    non-zero operand has no root; FMIN of -0 and +0 gives -0 and FMAX gives +0 in either order, one NaN operand yields the
    other operand and two yield 0x7FC0_0000; a comparison with a NaN is false. (R366, R375) -/
def Obligations.FloatingPointRules : Prop :=
  (∀ a b : Nat, a < 2 ^ 32 → b < 2 ^ 32 →
    let nan := fun (x : Nat) => decide (x / 2 ^ 23 % 256 = 255) && decide (x % 2 ^ 23 ≠ 0)
    let sub := fun (x : Nat) => decide (x / 2 ^ 23 % 256 = 0) && decide (x % 2 ^ 23 ≠ 0)
    let z := fun (x : Nat) => x / 2 ^ 31 * 2 ^ 31
    let results := [f32.add a b, f32.sub a b, f32.mul a b, f32.div a b]
    (∀ y ∈ f32.sqrt a :: results, (nan y = true → y = 0x7FC00000) ∧ sub y = false ∧ y < 2 ^ 32) ∧
    (sub a = true → f32.add a b = f32.add (z a) b ∧ f32.mul a b = f32.mul (z a) b ∧ f32.lt a b = f32.lt (z a) b ∧
      f32.eq a b = f32.eq (z a) b) ∧
    (2 ^ 31 ≤ a ∧ sub a = false ∧ a ≠ 2 ^ 31 → f32.sqrt a = 0x7FC00000) ∧
    (nan a = true ∨ nan b = true → f32.lt a b = false ∧ f32.eq a b = false) ∧
    (nan a = true ∧ nan b = true → f32.minmax false a b = 0x7FC00000 ∧ f32.minmax true a b = 0x7FC00000) ∧
    (nan a = true ∧ nan b = false ∧ sub b = false → f32.minmax false a b = b ∧ f32.minmax true b a = b)) ∧
  f32.minmax false 0x80000000 0 = 0x80000000 ∧ f32.minmax false 0 0x80000000 = 0x80000000 ∧
  f32.minmax true 0x80000000 0 = 0 ∧ f32.minmax true 0 0x80000000 = 0

/-- For a core whose globals and current window have their 16 registers, an instruction of the register-only shape leaves
    rd holding the new value (a write to g0 is discarded, and g0 reads zero), every other register of the task as before
    and the PC four further; every other task, the other cores' globals, the other control dies, all of data SRAM, the
    mailboxes and locks, every register of the block, the cells, the rings and the shepherd are unchanged. (R350, R351,
    R352, R374) -/
def Obligations.RegisterWriteFrame : Prop :=
  ∀ (s : State) (r : CoreRef) (t : Nat) (rd : Reg) (v : W64),
    let i := r.die.idx
    let u := s.wrote r t rd v
    ((s.dev.cd i).core r.core.val).g.length = 16 → ((s.dev.cd i).window r.core.val t).length = 16 →
      u.reg r t rd = (if rd = .g 0 then 0 else v) ∧ u.reg r t (.g 0) = 0 ∧
      (∀ q, q ≠ rd → u.reg r t q = s.reg r t q) ∧
      (u.task r t).pc = (s.task r t).pc + 4 ∧ (u.task r t).state = (s.task r t).state ∧
      (∀ t', t' ≠ t → u.task r t' = s.task r t') ∧
      (∀ c, c ≠ r.core.val → (u.dev.cd i).core c = (s.dev.cd i).core c) ∧
      (∀ d, d < 4 → d ≠ i → u.dev.cd d = s.dev.cd d) ∧
      (∀ a, u.dev.byte i a = s.dev.byte i a) ∧
      (u.dev.cd i).mboxes = (s.dev.cd i).mboxes ∧ (u.dev.cd i).locks = (s.dev.cd i).locks ∧
      u.dev.regs = s.dev.regs ∧ u.dev.cells = s.dev.cells ∧ u.dev.rings = s.dev.rings ∧ u.dev.sh = s.dev.sh ∧
      u.dev.rd0 = s.dev.rd0 ∧ u.dev.rd1 = s.dev.rd1 ∧ u.dev.aq = s.dev.aq ∧ u.dev.out = s.dev.out ∧ u.pending = s.pending

/-- On every core and for every task, reading g0 gives zero, writing g0 changes nothing at all, and every other global
    that the core holds takes the value written and gives it back. (R350) -/
def Obligations.GlobalZeroReadsZero : Prop :=
  ∀ (x : CtrlDie) (c t : Nat) (v : W64),
    x.reg c t (.g 0) = 0 ∧ x.setReg c t (.g 0) v = x ∧
    ∀ i : Fin 16, i ≠ 0 → (x.core c).g.length = 16 → (x.setReg c t (.g i) v).reg c t (.g i) = v

/-- When a core of a present die runs task t: a PC that is not a multiple of 4 raises cause 3 and one at or above
    0x0040_0000 raises cause 7, with the PC as the address; a k6 that QSHLI, QSHRI, TAKE, LEKICK or TIME does not permit,
    and a word that the open sequence does not admit, raise cause 2 with the word; an instruction that the partition may
    not use (DST, MST, STILE, SEL and LEKICK in a non-voted one; DELAY, YIELD, TXN, TAGW and TIME 3 and 4 in the voted
    one) raises cause 5. Each is a next state: the trap is taken. A core that runs no task does nothing. (R359, R374,
    R375, R376, R377, R397, R420) -/
def Obligations.FetchAndFieldTraps : Prop :=
  ∀ (s : State) (r : CoreRef) (t : Nat) (rd ra rb : Reg) (k : BitVec 6),
    let i := r.die.idx
    let trap := fun (cause : Nat) (w : W64) => (Host.Outcome.next (s.withDev ((s.entered r t).takeTrap i r.core.val t cause w)) : Out)
    let pc := (s.task r t).pc
    (s.dev.present i = true ∧ s.dev.runs r = none → exec (.add r rd ra rb) s = .next s ∧ exec (.waitt r) s = .next s) ∧
    (s.dev.present i = true ∧ s.dev.runs r = some t →
      (pc.toNat % 4 ≠ 0 → exec (.add r rd ra rb) s = trap 3 pc ∧ exec (.stile r rd) s = trap 3 pc) ∧
      (pc.toNat % 4 = 0 ∧ 0x400000 ≤ pc.toNat → exec (.add r rd ra rb) s = trap 7 pc ∧ exec (.stile r rd) s = trap 7 pc) ∧
      (pc.toNat % 4 = 0 ∧ pc.toNat < 0x400000 →
        (31 < k.toNat → exec (.qshli r rd ra k) s = trap 2 (BitVec.ofNat 64 (encR 8 rd ra noReg 4 k.toNat))) ∧
        (k = 0 ∨ 31 < k.toNat → exec (.qshri r rd ra k) s = trap 2 (BitVec.ofNat 64 (encR 8 rd ra noReg 5 k.toNat))) ∧
        (1 < k.toNat → exec (.take r rd ra rb k) s = trap 2 (BitVec.ofNat 64 (encR 0x21 rd ra rb 1 k.toNat))) ∧
        (3 < k.toNat → exec (.lekick r rd k) s = trap 2 (BitVec.ofNat 64 (encR 0x22 rd noReg noReg 5 k.toNat))) ∧
        (4 < k.toNat → exec (.time r rd k) s = trap 2 (BitVec.ofNat 64 (encR 0x20 rd noReg noReg 5 k.toNat))) ∧
        ((s.dev.cd i).seqAllows (s.task r t) (encR 0x21 noReg noReg noReg 2 0) = false →
          exec (.waitt r) s = trap 2 (BitVec.ofNat 64 (encR 0x21 noReg noReg noReg 2 0))) ∧
        ((s.task r t).seq = none →
          ((s.task r t).part ≠ 0 → exec (.dst r rd ra rb) s = trap 5 0 ∧ exec (.mst r rd ra) s = trap 5 0 ∧
            exec (.stile r rd) s = trap 5 0 ∧ exec (.sel r rd ra rb) s = trap 5 0 ∧
            (k.toNat < 4 → exec (.lekick r rd k) s = trap 5 0)) ∧
          ((s.task r t).part = 0 → exec (.delay r ra) s = trap 5 0 ∧ exec (.yield r) s = trap 5 0 ∧
            exec (.txn r rd ra rb) s = trap 5 0 ∧ exec (.tagw r rd ra) s = trap 5 0 ∧
            (k = 3 ∨ k = 4 → exec (.time r rd k) s = trap 5 0)))))

/-- When the image vectors the cause and the trap window is not current, taking a trap outside a sequence makes the trap
    window current with w0 the cause, w1 the address of the trapping instruction, w2 the value given, w3 the task number
    and w4-w15 zero, and execution continues at TRAPBASE + 64 x cause; the task keeps running, and memory and every
    register of the block are unchanged. Inside a sequence the held stores are discarded, w0 has bit 8 set, w1 is the
    address of LOCKSEQ and w2 that of the trapping instruction; a halt that waited for the end of the sequence then takes
    effect, and the scheduler decides anew. (R359, R360, R381) -/
def Obligations.VectoredTrapEntry : Prop :=
  ∀ (s : Dev) (d c t cause : Nat) (w2 : W64) (im : ImgInfo),
    let k := (s.cd d).task t
    (s.cd d).img = some im → im.trapen.getLsbD cause = true → (cause = 2 ∨ cause = 3 ∨ cause = 7) → k.inTrap = false → ∃ u : Dev,
      (s.takeTrap d c t cause w2 = if k.seq = none then u else (if k.haltReq = true then u.haltNow d t else u).resched d) ∧
      ((u.cd d).task t).inTrap = true ∧
      ((u.cd d).task t).pc = im.trapbase.setWidth 64 + BitVec.ofNat 64 (64 * cause) ∧
      ((u.cd d).task t).state = k.state ∧ ((u.cd d).task t).seq = none ∧
      (u.cd d).reg c t (.w 3) = BitVec.ofNat 64 t ∧
      (∀ i : Fin 16, 4 ≤ i.val → (u.cd d).reg c t (.w i) = 0) ∧
      (k.seq = none → (u.cd d).reg c t (.w 0) = BitVec.ofNat 64 cause ∧ (u.cd d).reg c t (.w 1) = k.pc ∧
        (u.cd d).reg c t (.w 2) = w2) ∧
      (∀ q, k.seq = some q → (u.cd d).reg c t (.w 0) = BitVec.ofNat 64 (cause + 256) ∧
        (u.cd d).reg c t (.w 1) = q.start ∧ (u.cd d).reg c t (.w 2) = k.pc) ∧
      (∀ a, u.byte d a = s.byte d a) ∧ u.regs = s.regs ∧ u.cells = s.cells ∧ u.rings = s.rings ∧ u.sh = s.sh

/-- A trap whose cause the image does not vector stops the task with that cause, and a trap of any cause raised while the
    trap window is current stops it with cause 9: an open sequence is discarded first; the task is reported in the event
    log, and its context is freed, and no core runs it; the scheduler then decides anew. (R359, R362, R363, R443) -/
def Obligations.UnvectoredTrapStopsTask : Prop :=
  ∀ (s : Dev) (d c t cause : Nat) (w2 : W64),
    let k := (s.cd d).task t
    let e := match k.seq with
      | some q => s.modCd d (fun x => x.discardSeq c t q)
      | none => s
    (k.inTrap = true → s.takeTrap d c t cause w2 = (e.killTask d t 9).resched d) ∧
    (k.inTrap = false → (s.cd d).vectored cause = false → s.takeTrap d c t cause w2 = (e.killTask d t cause).resched d) ∧
    ((cause ≠ 2 ∧ cause ≠ 3 ∧ cause ≠ 7) ∨ (s.cd d).img = none → (s.cd d).vectored cause = false) ∧
    ((s.killTask d t cause).cd d).task t = Task.empty ∧
    (∀ c', (((s.killTask d t cause).cd d).core c').task ≠ some t) ∧
    (s.killTask d t cause).fget SH_LOG_STAT_NEXT = (s.fget SH_LOG_STAT_NEXT + 1) % 2 ^ 32

/-- LDB, LDBU, LDH, LDHU, LDW, LDWU and LDD load n bytes at ra + sext(imm16). Where the access raises no cause and lies in
    data SRAM and its words have no double-bit error, the load completes: rd receives the bytes the task sees there, sign-
    or zero-extended, and the line counts as touched by an open sequence. Where it lies in die register space, which only
    LDW, LDWU and LDD can read, the load completes with the low 8n bits of the register as its access type gives a read.
    (R364, R368, R369, R375, R378, R379) -/
def Obligations.LoadResults : Prop :=
  ∀ (s : State) (r : CoreRef) (t : Nat) (rd ra : Reg) (imm : W16),
    let i := r.die.idx
    let e := s.entered r t
    let a := (s.reg r t ra + imm.signExtend 64).toNat
    let L := fun (c : Instr) (op n : Nat) (ext : Nat → W64) =>
      s.executes r t (encI op rd ra imm) .both = true → e.accessCheck i t false a n = none →
        (∀ f, inSram a = true → e.eccRead i a n = some f → exec c s = .next (s.withDev (Dev.writes
          (f.modCd i (fun x => x.modTask t (fun k => k.touch (a / 64)))) r t rd (ext ((f.cd i).seen t a n)))))
    let D := fun (c : Instr) (op n : Nat) (ext : Nat → W64) =>
      s.executes r t (encI op rd ra imm) .both = true → e.accessCheck i t false a n = none → inSram a = false →
        exec c s = .next (s.withDev (Dev.writes (e.dieLoad i (a - 0x30000000)).2 r t rd
          (ext ((e.dieLoad i (a - 0x30000000)).1.toNat % 2 ^ (8 * n)))))
    L (.ldb r rd ra imm) 0x0A 1 (fun v => (BitVec.ofNat 8 v).signExtend 64) ∧
    L (.ldbu r rd ra imm) 0x0B 1 (fun v => BitVec.ofNat 64 v) ∧
    L (.ldh r rd ra imm) 0x0C 2 (fun v => (BitVec.ofNat 16 v).signExtend 64) ∧
    L (.ldhu r rd ra imm) 0x0D 2 (fun v => BitVec.ofNat 64 v) ∧
    L (.ldw r rd ra imm) 0x0E 4 (fun v => (BitVec.ofNat 32 v).signExtend 64) ∧
    L (.ldwu r rd ra imm) 0x0F 4 (fun v => BitVec.ofNat 64 v) ∧
    L (.ldd r rd ra imm) 0x10 8 (fun v => BitVec.ofNat 64 v) ∧
    D (.ldw r rd ra imm) 0x0E 4 (fun v => (BitVec.ofNat 32 v).signExtend 64) ∧
    D (.ldwu r rd ra imm) 0x0F 4 (fun v => BitVec.ofNat 64 v) ∧
    D (.ldd r rd ra imm) 0x10 8 (fun v => BitVec.ofNat 64 v)

/-- Without an open sequence the n bytes a task sees at a are the sum of the bytes at a + j times 256^j. A store of the
    low n bytes of v makes byte a + j of memory the j-th byte of v for each j below n and changes no other byte, so that
    reading the n bytes back gives v modulo 256^n. Inside a sequence the task sees a held store at once, and memory does
    not change. (R364, R371, R379) -/
def Obligations.MemoryIsLittleEndian : Prop :=
  ∀ (x : CtrlDie) (c t a n v : Nat),
    ((x.task t).seq = none → x.seen t a n = ((List.range n).map (fun j => (x.dmem.byte (a + j)).toNat * 256 ^ j)).sum) ∧
    (∀ j, j < n → (x.poke c a n v).dmem.byte (a + j) = BitVec.ofNat 8 (v / 256 ^ j)) ∧
    (∀ b, b < a ∨ a + n ≤ b → (x.poke c a n v).dmem.byte b = x.dmem.byte b) ∧
    (x.poke c a n v).dmem.readLE a n = v % 256 ^ n ∧
    (∀ q, (x.setTask t { x.task t with seq := some (Seq.hold q a n v) }).seen t a n = v % 256 ^ n ∧
      (x.setTask t { x.task t with seq := some (Seq.hold q a n v) }).dmem = x.dmem)

/-- STB, STH, STW and STD store the low 8, 16, 32 or 64 bits of the rd-field register at ra + sext(imm16). Where the
    access raises no cause and lies in data SRAM: outside a sequence the bytes go to memory and the task goes on, unless
    another core's exclusive attempt holds the line, in which case the store waits; inside a sequence they are held back.
    Where it lies in die register space, which only STW and STD can write, the register is written as its access type
    gives, behind the PC's advance. (R364, R369, R375, R379, R380) -/
def Obligations.StoreResults : Prop :=
  ∀ (s : State) (r : CoreRef) (t : Nat) (rd ra : Reg) (imm : W16),
    let i := r.die.idx
    let e := s.entered r t
    let a := (s.reg r t ra + imm.signExtend 64).toNat
    let v := s.reg r t rd
    let S := fun (c : Instr) (op n : Nat) =>
      s.executes r t (encI op rd ra imm) .both = true → e.accessCheck i t true a n = none →
        (inSram a = true ∧ (s.task r t).seq = none ∧ (s.dev.cd i).lineHeld r.core.val (a / 64) = false →
          exec c s = .next (s.withDev ((e.modCd i (fun x => x.poke r.core.val a n v.toNat)).advance i t))) ∧
        (inSram a = true ∧ (s.task r t).seq = none ∧ (s.dev.cd i).lineHeld r.core.val (a / 64) = true →
          exec c s = .next (s.withDev e)) ∧
        (∀ q, inSram a = true ∧ (e.cd i |>.task t).seq = some q →
          exec c s = .next (s.withDev ((e.modCd i (fun x => x.setTask t
            (Task.touch { x.task t with seq := some (q.hold a n v.toNat) } (a / 64)))).advance i t)))
    let D := fun (c : Instr) (op n : Nat) =>
      s.executes r t (encI op rd ra imm) .both = true → e.accessCheck i t true a n = none → inSram a = false →
        exec c s = .next (s.withDev ((e.advance i t).dieStore i (s.task r t).part (a - 0x30000000) v))
    S (.stb r rd ra imm) 0x11 1 ∧
    S (.sth r rd ra imm) 0x12 2 ∧
    S (.stw r rd ra imm) 0x13 4 ∧
    S (.std r rd ra imm) 0x14 8 ∧
    D (.stw r rd ra imm) 0x13 4 ∧
    D (.std r rd ra imm) 0x14 8

/-- Where STB, STH, STW or STD completes on data SRAM outside a sequence: every byte outside the n bytes from the address
    ra + sext(imm16) reads as before, those bytes are the bytes of the rd-field register, every register of every task of
    the die is unchanged, the PC is four further, and no other control die, register of the block, mailbox, lock, cell or
    ring changes. (R364, R375) -/
def Obligations.StoreFrame : Prop :=
  ∀ (s : State) (r : CoreRef) (t : Nat) (rd ra : Reg) (imm : W16),
    let i := r.die.idx
    let a := (s.reg r t ra + imm.signExtend 64).toNat
    let F := fun (c : Instr) (op n : Nat) => ∀ u : State,
      s.executes r t (encI op rd ra imm) .both = true → (s.entered r t).accessCheck i t true a n = none → inSram a = true →
      (s.task r t).seq = none → (s.dev.cd i).lineHeld r.core.val (a / 64) = false → exec c s = .next u →
        (∀ b, b < a ∨ a + n ≤ b → u.dev.byte i b = s.dev.byte i b) ∧
        (∀ j, j < n → u.dev.byte i (a + j) = BitVec.ofNat 8 ((s.reg r t rd).toNat / 256 ^ j)) ∧
        (∀ c' t' q, (u.dev.cd i).reg c' t' q = (s.dev.cd i).reg c' t' q) ∧
        (u.task r t).pc = (s.task r t).pc + 4 ∧
        (∀ d, d < 4 → d ≠ i → u.dev.cd d = s.dev.cd d) ∧
        (u.dev.cd i).mboxes = (s.dev.cd i).mboxes ∧ (u.dev.cd i).locks = (s.dev.cd i).locks ∧
        u.dev.regs = s.dev.regs ∧ u.dev.cells = s.dev.cells ∧ u.dev.rings = s.dev.rings ∧ u.dev.sh = s.dev.sh
    F (.stb r rd ra imm) 0x11 1 ∧
    F (.sth r rd ra imm) 0x12 2 ∧
    F (.stw r rd ra imm) 0x13 4 ∧
    F (.std r rd ra imm) 0x14 8

/-- Where one of the seven loads completes on data SRAM whose words have no ECC error outside a sequence, the state is the
    one in which rd received the bytes, little-endian, sign- or zero-extended: no byte of memory changes, and the frame is
    that of an instruction that writes one register. (R364, R375) -/
def Obligations.LoadFrame : Prop :=
  ∀ (s : State) (r : CoreRef) (t : Nat) (rd ra : Reg) (imm : W16),
    let i := r.die.idx
    let a := (s.reg r t ra + imm.signExtend 64).toNat
    let L := fun (c : Instr) (op n : Nat) (ext : Nat → W64) =>
      s.executes r t (encI op rd ra imm) .both = true → (s.entered r t).accessCheck i t false a n = none → inSram a = true →
      (s.task r t).seq = none → (s.dev.cd i).ecc = [] →
        ∃ u, exec c s = .next u ∧
          u.reg r t rd = (s.wrote r t rd (ext ((s.dev.cd i).dmem.readLE a n))).reg r t rd ∧
          (∀ q, q ≠ rd → u.reg r t q = (s.wrote r t rd 0).reg r t q) ∧
          (∀ b, u.dev.byte i b = s.dev.byte i b) ∧ (u.task r t).pc = (s.task r t).pc + 4 ∧
          u.dev.regs = s.dev.regs ∧ u.dev.cells = s.dev.cells ∧ u.dev.sh = s.dev.sh
    L (.ldb r rd ra imm) 0x0A 1 (fun v => (BitVec.ofNat 8 v).signExtend 64) ∧
    L (.ldbu r rd ra imm) 0x0B 1 (fun v => BitVec.ofNat 64 v) ∧
    L (.ldh r rd ra imm) 0x0C 2 (fun v => (BitVec.ofNat 16 v).signExtend 64) ∧
    L (.ldhu r rd ra imm) 0x0D 2 (fun v => BitVec.ofNat 64 v) ∧
    L (.ldw r rd ra imm) 0x0E 4 (fun v => (BitVec.ofNat 32 v).signExtend 64) ∧
    L (.ldwu r rd ra imm) 0x0F 4 (fun v => BitVec.ofNat 64 v) ∧
    L (.ldd r rd ra imm) 0x10 8 (fun v => BitVec.ofNat 64 v)

/-- An access that is not naturally aligned raises cause 3; inside a sequence an access outside data SRAM raises 2, and so
    does a third line; a store from a non-voted partition into voted memory raises 4, an access of the voted partition to
    non-voted memory 5, an access outside the fences 4; an access to instruction SRAM or to an address not listed raises
    7; one of 1 or 2 bytes in die register space always raises a cause. Each load and store that raises a cause takes that
    trap with its address and does nothing else. (R364, R368, R369, R378, R400, R412) -/
def Obligations.AccessTraps : Prop :=
  (∀ (e : Dev) (d t : Nat) (store : Bool) (a n : Nat),
    let k := (e.cd d).task t
    (a % n ≠ 0 → e.accessCheck d t store a n = some 3) ∧
    (a % n = 0 → k.seq ≠ none → inSram a = false → e.accessCheck d t store a n = some 2) ∧
    (a % n = 0 → k.seq = none → a < 0x10000000 ∨ (0x12000000 ≤ a ∧ a < 0x30000000) ∨ 0x30200000 ≤ a →
      e.accessCheck d t store a n = some 7) ∧
    (a % n = 0 → 0x10000000 ≤ a → a < 0x11800000 → k.seq = none →
      e.accessCheck d t store a n = if store = true ∧ k.part ≠ 0 then some 4 else none) ∧
    (∀ q, a % n = 0 → 0x10000000 ≤ a → a < 0x11800000 → store = false ∨ k.part = 0 → k.seq = some q →
      e.accessCheck d t store a n = if a / 64 ∈ q.lines ∨ q.lines.length < 2 then none else some 2) ∧
    (n = 1 ∨ n = 2 → 0x30000000 ≤ a → a < 0x30200000 → e.accessCheck d t store a n ≠ none) ∧
    (a % n = 0 → 0x11800000 ≤ a → a < 0x12000000 → k.part = 0 → e.accessCheck d t store a n = some 5) ∧
    (a % n = 0 → 0x11800000 ≤ a → a < 0x12000000 → k.part ≠ 0 → k.seq = none →
      e.accessCheck d t store a n = if e.fenced d k.part a = true then none else some 4)) ∧
  (∀ (s : State) (r : CoreRef) (t : Nat) (rd ra : Reg) (imm : W16),
    let i := r.die.idx
    let e := s.entered r t
    let a := s.reg r t ra + imm.signExtend 64
    let T := fun (c : Instr) (op n : Nat) (store : Bool) => ∀ cause,
      s.executes r t (encI op rd ra imm) .both = true → e.accessCheck i t store a.toNat n = some cause →
        exec c s = .next (s.withDev (e.takeTrap i r.core.val t cause a))
    T (.ldb r rd ra imm) 0x0A 1 false ∧
    T (.ldbu r rd ra imm) 0x0B 1 false ∧
    T (.ldh r rd ra imm) 0x0C 2 false ∧
    T (.ldhu r rd ra imm) 0x0D 2 false ∧
    T (.ldw r rd ra imm) 0x0E 4 false ∧
    T (.ldwu r rd ra imm) 0x0F 4 false ∧
    T (.ldd r rd ra imm) 0x10 8 false ∧
    T (.stb r rd ra imm) 0x11 1 true ∧
    T (.sth r rd ra imm) 0x12 2 true ∧
    T (.stw r rd ra imm) 0x13 4 true ∧
    T (.std r rd ra imm) 0x14 8 true)

/-- Where a core executes BEQ, BNE, BLT, BGE, BLTU or BGEU, the task goes on at PC + 4 + 4 x sext(off16) if ra and rb
    stand in the relation (equal, not equal, less or not less, signed or unsigned) and at the following instruction if
    not; J goes to PC + 4 + 4 x sext(off26). Nothing but the PC, and the note of the address of the task's last
    instruction, changes. (R374, R375) -/
def Obligations.BranchResults : Prop :=
  ∀ (s : State) (r : CoreRef) (t : Nat) (ra rb : Reg) (off : W16) (far : BitVec 26),
    let g := s.reg r t
    let pc := (s.task r t).pc
    let at_ := fun (p : W64) => (Host.Outcome.next (s.withDev ((s.entered r t).jump r.die.idx t p)) : Out)
    let goal := pc + 4 + 4 * off.signExtend 64
    (s.executes r t (encB 0x18 ra rb off) .both = true →
      exec (.beq r ra rb off) s = if g ra = g rb then at_ goal else at_ (pc + 4)) ∧
    (s.executes r t (encB 0x19 ra rb off) .both = true →
      exec (.bne r ra rb off) s = if g ra ≠ g rb then at_ goal else at_ (pc + 4)) ∧
    (s.executes r t (encB 0x1A ra rb off) .both = true →
      exec (.blt r ra rb off) s = if (g ra).toInt < (g rb).toInt then at_ goal else at_ (pc + 4)) ∧
    (s.executes r t (encB 0x1B ra rb off) .both = true →
      exec (.bge r ra rb off) s = if (g rb).toInt ≤ (g ra).toInt then at_ goal else at_ (pc + 4)) ∧
    (s.executes r t (encB 0x1C ra rb off) .both = true →
      exec (.bltu r ra rb off) s = if (g ra).toNat < (g rb).toNat then at_ goal else at_ (pc + 4)) ∧
    (s.executes r t (encB 0x1D ra rb off) .both = true →
      exec (.bgeu r ra rb off) s = if (g rb).toNat ≤ (g ra).toNat then at_ goal else at_ (pc + 4)) ∧
    (s.executes r t (encJ 0x1E far) .both = true → exec (.j r far) s = at_ (pc + 4 + 4 * far.signExtend 64)) ∧
    (∀ p, let u := (s.entered r t).jump r.die.idx t p
      ((u.cd r.die.idx).task t).pc = p ∧ (∀ q, (u.cd r.die.idx).reg r.core.val t q = g q) ∧
      (∀ a, u.byte r.die.idx a = s.dev.byte r.die.idx a) ∧ u.regs = s.dev.regs ∧ u.sh = s.dev.sh)

/-- Where a core that holds fewer than 23 resident call windows and none for the next depth executes CALL, or CALLR with
    an aligned address in rb: the task runs on at the target in a window whose w0-w14 are zero and whose w15 is the
    address of the following instruction, one call deeper; its globals, memory, the windows that were resident and every
    register of the block are unchanged. (R353, R374) -/
def Obligations.CallResults : Prop :=
  ∀ (s : State) (r : CoreRef) (t : Nat) (off : BitVec 26) (rb : Reg),
    let i := r.die.idx
    let c := r.core.val
    let pc := (s.task r t).pc
    let ok := fun (i' : Instr) (goal : W64) => ∃ u, exec i' s = .next u ∧
      (u.task r t).pc = goal ∧ (u.task r t).depth = (s.task r t).depth + 1 ∧ (u.task r t).state = .running ∧
      u.reg r t (.w 15) = pc + 4 ∧ (∀ j : Fin 16, j.val < 15 → u.reg r t (.w j) = 0) ∧
      (∀ j, u.reg r t (.g j) = s.reg r t (.g j)) ∧
      ((u.dev.cd i).core c).wins.take ((s.dev.cd i).core c).wins.length = ((s.dev.cd i).core c).wins ∧
      (∀ a, u.dev.byte i a = s.dev.byte i a) ∧ u.dev.regs = s.dev.regs ∧ u.dev.sh = s.dev.sh
    ((s.dev.cd i).core c).wins.length < 23 → (s.dev.cd i).resident c t ((s.task r t).depth + 1) = false →
      (s.executes r t (encJ 0x1F off) .both = true → ok (.call r off) (pc + 4 + 4 * off.signExtend 64)) ∧
      (s.executes r t (encR 0x20 noReg noReg rb 0 0) .both = true → (s.reg r t rb).toNat % 4 = 0 →
        ok (.callr r rb) (s.reg r t rb))

/-- CALLR to an address that is not a multiple of 4 raises cause 3 with that address. A CALL without a free call window in
    the trap window is a trap of cause 0, which stops the task with cause 9. Elsewhere the oldest resident window other
    than the current one is spilled first: its 16 registers go to its owner's spill pointer as 128 bytes, the pointer
    grows by 128 and the window is freed, or, where that would pass the limit, nothing is written and its owner is stopped
    with cause 0xA. (R355, R357, R362, R374) -/
def Obligations.CallTrapsAndOverflow : Prop :=
  ∀ (s : State) (r : CoreRef) (t : Nat) (off : BitVec 26) (rb : Reg),
    let i := r.die.idx
    let c := r.core.val
    let e := s.entered r t
    (s.executes r t (encR 0x20 noReg noReg rb 0 0) .both = true → (s.reg r t rb).toNat % 4 ≠ 0 →
      exec (.callr r rb) s = .next (s.withDev (e.takeTrap i c t 3 (s.reg r t rb)))) ∧
    (s.executes r t (encJ 0x1F off) .both = true → (s.task r t).inTrap = true → 23 ≤ ((e.cd i).core c).wins.length →
      exec (.call r off) s = .next (s.withDev (e.takeTrap i c t 0 0))) ∧
    (∀ (d : Dev) (w : Win),
      let k := (d.cd i).task w.owner
      (k.splim.toNat < k.spptr.toNat + 128 → d.spill i c w = d.killTask i w.owner 0xA) ∧
      (k.spptr.toNat + 128 ≤ k.splim.toNat → w.regs.length = 16 →
        (∀ j, j < 16 → ((d.spill i c w).cd i).dmem.readLE (k.spptr.toNat + 8 * j) 8 = (regAt w.regs j).toNat) ∧
        (∀ a, a < k.spptr.toNat ∨ k.spptr.toNat + 128 ≤ a → (d.spill i c w).byte i a = d.byte i a) ∧
        (((d.spill i c w).cd i).task w.owner).spptr = k.spptr + 128 ∧
        w ∉ (((d.spill i c w).cd i).core c).wins))

/-- RET in a call window goes on at the address in w15 with the window freed and the caller's window, if it is resident,
    current again; the globals and memory are unchanged. RET in the window in which the activation began raises cause 2.
    RET in the trap window goes on at the address in w1 in the window that was current before the trap, or, if bit 63 of
    w0 is 1, stops the task with the cause in w0 [7:0]; the scheduler then decides anew. Where another core's exclusive
    attempt holds the memory that a spill must write, RET in the trap window waits. (R354, R356, R361, R362) -/
def Obligations.ReturnResults : Prop :=
  ∀ (s : State) (r : CoreRef) (t : Nat),
    let i := r.die.idx
    let c := r.core.val
    let e := s.entered r t
    let k := (e.cd i).task t
    let word := encR 0x20 noReg noReg noReg 1 0
    let held := !(e.cd i).resident c t k.depth && (e.cd i).roomHeld c t k.depth
    s.executes r t word .both = true →
      (k.trapUp = [] → 0 < k.depth → (s.dev.cd i).resident c t (k.depth - 1) = true →
        ∃ u w, exec (.ret r) s = .next u ∧ w ∈ ((s.dev.cd i).core c).wins ∧ w.owner = t ∧ w.depth = k.depth - 1 ∧
          (u.task r t).pc = s.reg r t (.w 15) ∧ (u.task r t).depth = k.depth - 1 ∧
          (∀ j : Fin 16, u.reg r t (.w j) = regAt w.regs j.val) ∧ (∀ j, u.reg r t (.g j) = s.reg r t (.g j)) ∧
          (u.dev.cd i).resident c t k.depth = false ∧ (∀ a, u.dev.byte i a = s.dev.byte i a) ∧ u.dev.regs = s.dev.regs) ∧
      (k.trapUp = [] → k.depth = 0 → exec (.ret r) s = .next (s.withDev (e.takeTrap i c t 2 (BitVec.ofNat 64 word)))) ∧
      (k.inTrap = true → (s.reg r t (.w 0)).getLsbD 63 = true →
        exec (.ret r) s = .next (s.withDev ((e.killTask i t ((s.reg r t (.w 0)).toNat % 256)).resched i))) ∧
      (k.inTrap = true → (s.reg r t (.w 0)).getLsbD 63 = false → held = true → exec (.ret r) s = .next (s.withDev e)) ∧
      (k.inTrap = true → (s.reg r t (.w 0)).getLsbD 63 = false → held = false →
        exec (.ret r) s = .next (s.withDev ((Dev.needWindow (e.modCd i (fun x => x.setTask t { k with
          trapUp := k.trapUp.tail, pc := s.reg r t (.w 1) })) i c t).resched i)))

/-- LOCKSEQ opens a sequence at its address that remembers the globals and the current window, with no line touched and no
    store held, and the task goes on; the fifth attempt in a row is exclusive, and waits while another core makes such an
    attempt or fell due earlier. ENDSEQ of a sequence that no other core broke makes every held byte, and no other, the
    contents of memory and closes the sequence; ENDSEQ of a broken one before the fifth attempt discards the held stores,
    gives the globals back their values at LOCKSEQ, counts the failure and executes again from LOCKSEQ. A halt that waited
    then takes effect, and the scheduler decides anew. ENDSEQ waits while another core's exclusive attempt holds a line of
    its stores. (R376, R379, R380, R399) -/
def Obligations.AtomicSequence : Prop :=
  ∀ (s : State) (r : CoreRef) (t : Nat),
    let i := r.die.idx
    let c := r.core.val
    let k := s.task r t
    let e := s.entered r t
    let fails := if k.seqAt = k.pc then k.seqFails else 0
    let mine := if k.seqDue = 0 then (e.cd i).duePlace else k.seqDue
    let turn := !((e.cd i).exclElse c || (e.cd i).earlierDue c mine)
    (s.executes r t (encR 0x20 noReg noReg noReg 2 0) .both = true →
      (fails < 4 ∨ turn = true → ∃ u q, exec (.lockseq r) s = .next u ∧ (u.task r t).seq = some q ∧ q.start = k.pc ∧
        q.lines = [] ∧ q.heldKeys = [] ∧ q.g = ((s.dev.cd i).core c).g ∧ q.w = (s.dev.cd i).window c t ∧ q.broken = false ∧
        q.fails = fails ∧ (u.task r t).pc = k.pc + 4 ∧
        (∀ x, u.reg r t x = s.reg r t x) ∧ (∀ a, u.dev.byte i a = s.dev.byte i a)) ∧
      (4 ≤ fails → turn = false → exec (.lockseq r) s = .next (s.withDev (e.modCd i (fun x =>
        x.modTask t (fun k => { k with seqDue := mine })))))) ∧
    (∀ q, s.executes r t (encR 0x20 noReg noReg noReg 3 0) .both = true → k.seq = some q →
      let held := q.heldKeys.any (fun a => (e.cd i).lineHeld c (a / 64))
      let next := fun (d : Dev) =>
        (Host.Outcome.next (s.withDev ((if k.haltReq = true then d.haltNow i t else d).resched i)) : Out)
      (q.broken = true → q.fails < 4 → exec (.endseq r) s = next (e.modCd i (fun x =>
        (x.discardSeq c t q).modTask t (fun k => { k with seqFails := q.fails + 1, seqAt := q.start })))) ∧
      (q.broken = false ∨ 4 ≤ q.fails → held = true → exec (.endseq r) s = .next (s.withDev e)) ∧
      (q.broken = false ∨ 4 ≤ q.fails → held = false → exec (.endseq r) s = next (e.modCd i (fun x =>
        (x.commitSeq c q).modTask t (fun k => { k with seq := none, seqFails := 0, seqAt := 0, pc := k.pc + 4 })))) ∧
      (∀ x : CtrlDie, (∀ a, (x.commitSeq c q).dmem.byte a = if a ∈ q.heldKeys then q.held.byte a else x.dmem.byte a)) ∧
      (∀ x : CtrlDie, ((x.discardSeq c t q).core c).g = q.g ∧ ((x.discardSeq c t q).task t).seq = none ∧
        ((x.discardSeq c t q).task t).pc = q.start ∧ (x.discardSeq c t q).dmem = x.dmem))

/-- BRK completes and does nothing else where debug access is not enabled for its core; where it is and the halt is no
    refused retirement, its core is halted before the next instruction; a refused halt only counts the refused write. TIME
    completes with the cycle count of the task's cycle (1), the station time now (3), its TS40 form (4), and t0 (0) or t0
    + APPLY (2) as the tally set of the activation gave them; where no set had been delivered when the activation began,
    the value is free (log entry 21). (R397, R398, R399, R322) -/
def Obligations.BreakAndTimeResults : Prop :=
  ∀ (s : State) (r : CoreRef) (t : Nat) (rd : Reg) (k : BitVec 6),
    let i := r.die.idx
    let c := r.core.val
    let e := s.entered r t
    (s.executes r t (encR 0x20 noReg noReg noReg 4 0) .both = true →
      (s.dev.debugCore i c = false → exec (.brk r) s = .next (s.withDev (e.advance i t))) ∧
      (∀ h, s.dev.debugCore i c = true → e.haltRetire i = some h →
        exec (.brk r) s = .next (s.withDev ((h.haltCore i c).advance i t)) ∧
        (((h.haltCore i c).advance i t).cd i |>.core c).halted = true) ∧
      (s.dev.debugCore i c = true → e.haltRetire i = none →
        exec (.brk r) s = .next (s.withDev ((e.finc SH_REFWR_COUNT).advance i t)))) ∧
    (k.toNat < 5 → s.executes r t (encR 0x20 rd noReg noReg 5 k.toNat) (if k.toNat < 3 then .both else .nonVoted) = true →
      (k = 1 → exec (.time r rd k) s = .next (s.wrote r t rd (BitVec.ofNat 64 (s.task r t).cycle))) ∧
      (k = 3 → exec (.time r rd k) s = .next (s.wrote r t rd s.dev.now)) ∧
      (k = 4 → exec (.time r rd k) s = .next (s.wrote r t rd
        (BitVec.ofNat 64 (s.dev.ts40 s.dev.sh.clk.raw s.dev.sh.clk.ofs)))) ∧
      (∀ at_, (s.task r t).inst = some at_ →
        (k = 0 → exec (.time r rd k) s = .next (s.wrote r t rd at_.1)) ∧
        (k = 2 → exec (.time r rd k) s = .next (s.wrote r t rd at_.2))) ∧
      ((s.task r t).inst = none → k = 0 ∨ k = 2 →
        exec (.time r rd k) s = .next (s.withDev (Dev.writes { e with freeCtr := s.dev.freeCtr + 1 } r t rd
          (Config.freeValue s.dev.freeCtr)))))

/-- POST to a mailbox number below 0x1_0000 completes. It is refused exactly when the mailbox is not enabled, not one the
    partition may use, full, a voted one of which the task is not the producer, or a non-voted one while the pool is
    empty; then rd := 1, POSTREF counts, and no message is queued. Otherwise rd := 0, and the message, with the cycle and
    phase of the task, goes behind those queued; at a non-voted mailbox with waiting tasks it goes instead to the one of
    highest effective priority, the longest waiting among equals, which waits no longer, and is ready unless halted. TAKE
    of the oldest message, if it is visible, completes with rb := the message and rd := 0 and takes it out; with no
    message, or none visible, and k6 [0] = 1 it completes with rb := 0 and rd := 1; with no message and k6 [0] = 0 a non-
    voted task leaves its core and waits at the mailbox. A voted TAKE with k6 [0] = 0, or by a task that is not the
    consumer of an enabled voted mailbox, raises cause 5. That a non-voted TAKE of a mailbox the task may not use answers
    as for an empty one is the model's reading (log entry 23). (R428, R429, R431, R420) -/
def Obligations.MailboxResults : Prop :=
  ∀ (s : State) (r : CoreRef) (t : Nat) (rd ra rb : Reg) (k : BitVec 6),
    let i := r.die.idx
    let c := r.core.val
    let e := s.entered r t
    let m := (s.reg r t ra).toNat
    let v := s.reg r t rb
    let y := e.cd i
    let a := e.advance i t
    let x := a.cd i
    let b := x.mbox m
    let msg : Msg := { val := v, cycle := (x.task t).cycle, phase := (x.task t).phase }
    let empty := exec (.take r rd ra rb k) s = .next (s.withDev ((e.modCd i (fun x =>
      (x.setReg c t rb 0).setReg c t rd 1)).advance i t))
    let barred := (y.task t).part = 0 ∧ (k = 0 ∨ 128 ≤ m ∨ b.en = false ∨ b.cons ≠ t)
    (s.executes r t (encR 0x21 rd ra rb 0 0) .both = true → m < 0x10000 →
      (x.postRefused t m = true ↔ b.en = false ∨ x.mayMbox (x.task t).part m = false ∨ ((x.task t).part = 0 ∧ b.prod ≠ t) ∨
        b.depth ≤ b.msgs.length + b.takenInPhase ∨ (128 ≤ m ∧ x.nfree = 0)) ∧
      (x.postRefused t m = true → ∃ u, exec (.post r rd ra rb) s = .next (s.withDev u) ∧
        u.regs = (a.finc (SCH_STAT_POSTREF i)).regs ∧ u.cd i = ((if b.en && b.isFull then
          x.setMbox m { b with full := min (b.full + 1) 0x7FFF } else x).setReg c t rd 1)) ∧
      (x.postRefused t m = false → m < 128 ∨ x.best b.waiters = none → exec (.post r rd ra rb) s =
        .next (s.withDev ((a.setCd i ((x.setReg c t rd 0).setMbox m { b with msgs := b.msgs ++ [msg] })).resched i))) ∧
      (∀ w, x.postRefused t m = false → 128 ≤ m → x.best b.waiters = some w → w ≠ t → ∃ z : CtrlDie,
        exec (.post r rd ra rb) s = .next (s.withDev ((a.setCd i z).resched i)) ∧
        w ∈ b.waiters ∧ (∀ o ∈ b.waiters, x.pri o ≤ x.pri w) ∧ w ∉ (z.mbox m).waiters ∧ (z.mbox m).msgs = b.msgs ∧
        (z.task w).deliver = [((x.task w).waitReg.2, v), ((x.task w).waitReg.1, 0)] ∧
        ((x.task w).state ≠ .halted → (z.task w).state = .ready ∧ w ∈ z.ready))) ∧
    (k.toNat < 2 → s.executes r t (encR 0x21 rd ra rb 1 k.toNat) .both = true →
      (barred → exec (.take r rd ra rb k) s = .next (s.withDev (e.takeTrap i c t 5 0))) ∧
      (¬ barred → y.mayMbox (y.task t).part m = false → empty) ∧
      (¬ barred → y.mayMbox (y.task t).part m = true →
        (∀ w rest, b.msgs = w :: rest → y.visible t m w = true → exec (.take r rd ra rb k) s = .next (s.withDev
          ((e.setCd i (((y.setMbox m { b with msgs := rest, takenInPhase := if m < 128 then b.takenInPhase + 1 else 0 }).setReg
            c t rb w.val).setReg c t rd 0)).advance i t))) ∧
        (∀ w rest, b.msgs = w :: rest → y.visible t m w = false → empty) ∧
        (b.msgs = [] → k = 1 → empty) ∧
        (b.msgs = [] → k = 0 → exec (.take r rd ra rb k) s = .next (s.withDev (Dev.waitOn
          (a.modCd i (fun x => x.modTask t (fun k => { k with waitReg := (rd.code, rb.code) }))) i c t .waitMbox m (fun x =>
            x.setMbox m { x.mbox m with waiters := (x.mbox m).waiters ++ [t] }))) ∧
          ((y.task t).deleting = false → ∃ d : Dev, exec (.take r rd ra rb k) s = .next (s.withDev (d.resched i)) ∧
            ((d.cd i).task t).state = .waitMbox ∧ t ∈ ((d.cd i).mbox m).waiters ∧ ∀ c', ((d.cd i).core c').task ≠ some t))))

/-- WAITT of a task that holds no non-voted lock ends the activation: the task waits for its next cycle if it is cycle-
    bound and is dormant if not, and leaves its core; of one that holds one it raises cause 5. DELAY of ra ticks puts the
    task into the delay list with the wake tick ticks + ra and takes it off its core; DELAY of 0 acts as YIELD. YIELD
    without a ready task of equal priority that may use the core only goes on; with one the task leaves its core and goes
    behind the ready tasks. After WAITT and a YIELD that offers the core the scheduler decides anew. SETPRI returns rd = 1
    and changes nothing else when the task does not exist or is FREE, the caller may not act on it or rb [63:6] is not
    zero; otherwise rd = 0, and the base priority of a non-voted task is the new one if it holds no lock and does not run,
    and the new one is pending if it does. (R414, R420, R426, R436, R437) -/
def Obligations.CoreOfferingResults : Prop :=
  ∀ (s : State) (r : CoreRef) (t : Nat) (rd ra rb : Reg),
    let i := r.die.idx
    let c := r.core.val
    let e := s.entered r t
    let a := e.advance i t
    let x := a.cd i
    let k := s.task r t
    let n := (s.reg r t ra).toNat
    let p := (s.reg r t rb).toNat
    let equal := fun u => decide (x.pri u = x.pri t) && (a.allowed i (x.task u).part).any (fun e => decide (e = c))
    let yields := fun (o : Out) =>
      (x.ready.any equal = false → o = .next (s.withDev a)) ∧
      (x.ready.any equal = true → k.deleting = false →
        o = .next (s.withDev (((a.leave i c t .ready).modCd i (fun x => { x with ready := x.ready ++ [t] })).resched i))) ∧
      (x.ready.any equal = true → k.deleting = true → o = .next (s.withDev ((a.leave i c t .ready).resched i)))
    (s.executes r t (encR 0x21 noReg noReg noReg 2 0) .both = true →
      (k.part ≠ 0 ∧ (x.held t) ≠ [] → exec (.waitt r) s = .next (s.withDev (e.takeTrap i c t 5 0))) ∧
      (k.part = 0 ∨ x.held t = [] → exec (.waitt r) s = .next (s.withDev ((a.endActivation i c t).resched i)) ∧
        a.endActivation i c t = Dev.leave (a.modCd i (fun x => x.dropWins t)) i c t (if k.cb then .waitCyc else .dormant) ∧
        (k.deleting = false → k.ppend = none →
          (((a.endActivation i c t).cd i).task t).state = (if k.cb then .waitCyc else .dormant)) ∧
        (∀ c', (((a.endActivation i c t).cd i).core c').task ≠ some t))) ∧
    (s.executes r t (encR 0x21 noReg ra noReg 3 0) .nonVoted = true →
      (0 < n → exec (.delay r ra) s = .next (s.withDev (Dev.waitOn
        (a.modCd i (fun x => x.modTask t (fun k => { k with wake := (s.dev.cd i).ticks + n }))) i c t .waitDelay 0
          (fun x => { x with delays := insertDelay x.delays ((s.dev.cd i).ticks + n) t })))) ∧
      (n = 0 → yields (exec (.delay r ra) s))) ∧
    (s.executes r t (encR 0x21 noReg noReg noReg 4 0) .nonVoted = true → yields (exec (.yield r) s)) ∧
    (s.executes r t (encR 0x21 rd ra rb 5 0) .both = true →
      (512 ≤ n ∨ (x.task n).state = .free ∨ mayTask k.part (x.task n).part = false ∨ 64 ≤ p →
        exec (.setpri r rd ra rb) s = .next (s.withDev (a.setCd i (x.setReg c t rd 1)))) ∧
      (n < 512 → (x.task n).state ≠ .free → mayTask k.part (x.task n).part = true → p < 64 →
        exec (.setpri r rd ra rb) s = .next (s.withDev ((a.setCd i ((x.setReg c t rd 0).setBase t n p)).resched i)) ∧
        ((x.task n).part ≠ 0 → (x.task n).state ≠ .running → x.held n = [] →
          ((x.setBase t n p).task n).base = p ∧ ((x.setBase t n p).task n).ppend = none) ∧
        ((x.task n).part ≠ 0 → (x.task n).state = .running ∨ x.held n ≠ [] →
          x.setBase t n p = x.setTask n { x.task n with ppend := some p })))

/-- A non-voted LOCK of an enabled lock of its partition whose ceiling is not below the task's base priority takes it if
    it is free and goes on, and waits at it in queue order, off its core, if it is held; a base priority above the ceiling
    raises cause 5, as does a lock that is not enabled or not the partition's (log entry 24). A voted LOCK of a lock that
    is not in LSET, or taken before in the activation, raises cause 5; of another one it takes the lock and goes on when
    the lock is free and every activation of the phase that ranks before it and names it has taken it, and else waits at
    it. UNLOCK of a lock the task holds releases it, a non-voted one to the waiter of highest effective priority, the
    longest waiting among equals, and goes on; of any other it raises cause 5. (R433, R434, R435, R436) -/
def Obligations.LockResults : Prop :=
  ∀ (s : State) (r : CoreRef) (t : Nat) (l : BitVec 6),
    let i := r.die.idx
    let c := r.core.val
    let e := s.entered r t
    let y := e.cd i
    let k := y.task t
    let b := y.lock l.toNat
    let trap := (Host.Outcome.next (s.withDev (e.takeTrap i c t 5 0)) : Out)
    (s.executes r t (encR 0x21 noReg noReg noReg 6 l.toNat) .both = true →
      (b.en = false ∨ y.mayLock k.part l.toNat = false → exec (.lock r l) s = trap) ∧
      (b.en = true → y.mayLock k.part l.toNat = true → k.part ≠ 0 →
        (b.ceil < k.base → exec (.lock r l) s = trap) ∧
        (k.base ≤ b.ceil → b.holder = none → ∃ u, exec (.lock r l) s = .next u ∧
          ((u.dev.cd i).lock l.toNat).holder = some t ∧ (u.task r t).pc = (s.task r t).pc + 4 ∧
          (∀ l', l' ≠ l.toNat → (u.dev.cd i).lock l' = y.lock l')) ∧
        (k.base ≤ b.ceil → b.holder ≠ none → exec (.lock r l) s = .next (s.withDev (Dev.waitOn (e.advance i t) i c t
          .waitLock (0x100 + l.toNat) (fun x => x.setLock l.toNat { x.lock l.toNat with
            waiters := (x.lock l.toNat).waiters ++ [t] }))))) ∧
      (b.en = true → y.mayLock k.part l.toNat = true → k.part = 0 →
        (k.lset.getLsbD l.toNat = false ∨ l.toNat ∈ k.taken → exec (.lock r l) s = trap) ∧
        (k.lset.getLsbD l.toNat = true → l.toNat ∉ k.taken →
          (y.votedGrant t l.toNat = true ↔ b.holder = none ∧ ∀ u ∈ y.active k.cycle k.phase, y.before u t = true →
            (y.task u).lset.getLsbD l.toNat = true → l.toNat ∈ (y.task u).taken) ∧
          (y.votedGrant t l.toNat = true → ∃ u, exec (.lock r l) s = .next u ∧
            ((u.dev.cd i).lock l.toNat).holder = some t ∧
            (u.task r t).taken = l.toNat :: k.taken ∧ (u.task r t).pc = (s.task r t).pc + 4) ∧
          (y.votedGrant t l.toNat = false → ∃ u, exec (.lock r l) s = .next u ∧ (u.task r t).state = .waitLock ∧
            (u.dev.cd i).lock l.toNat = { b with waiters := b.waiters ++ [t] } ∧ (u.task r t).pc = (s.task r t).pc + 4)))) ∧
    (s.executes r t (encR 0x21 noReg noReg noReg 7 l.toNat) .both = true →
      (b.holder ≠ some t → exec (.unlock r l) s = trap) ∧
      (b.holder = some t → exec (.unlock r l) s =
          .next (s.withDev (((e.advance i t).modCd i (fun x => x.release l.toNat false)).resched i)) ∧
        (b.waiters = [] ∨ l.toNat < 32 → ((y.release l.toNat false).lock l.toNat).holder = none) ∧
        (∀ w, 32 ≤ l.toNat → y.best b.waiters = some w → ((y.release l.toNat false).lock l.toNat).holder = some w ∧
          w ∈ b.waiters ∧ ∀ o ∈ b.waiters, y.pri o ≤ y.pri w)))

/-- CREATE_TASK, DELETE_TASK, ACTIVATE_TASK, CONFIGURE_MAILBOX and CONFIGURE_LOCK, posted with an aligned request block in
    data SRAM that the partition may write and that has no ECC error, complete: the reason of the check goes to byte 63 of
    the block and rd receives 0 for an accepted and 1 for a refused request; a refused one counts SVCREF and does nothing
    else; an accepted one of a non-voted task is applied at once, and one of a voted task waits, with its rank, for the
    end of its phase. POST to 0x1_0000 + n is service n in the same way, and of another n than these five it is refused
    with reason 4. A block that raises a cause traps with its address; while another core's exclusive attempt holds the
    line of byte 63, the request waits. (R438, R439, R440) -/
def Obligations.SchedulerServices : Prop :=
  ∀ (s : State) (r : CoreRef) (t n : Nat) (rd ra rb : Reg),
    let i := r.die.idx
    let c := r.core.val
    let e := s.entered r t
    let p := s.reg r t rb
    let held := (s.dev.cd i).lineHeld c ((p.toNat + 63) / 64)
    let V := fun (svc : Nat) (cmd : Instr) (q : Reg) => s.executes r t (encR 0x21 rd q rb 0 0) .both = true →
      (∀ cause, e.blockCheck i t true p.toNat 64 = some cause → exec cmd s = .next (s.withDev (e.takeTrap i c t cause p))) ∧
      (e.blockCheck i t true p.toNat 64 = none → held = true → exec cmd s = .next (s.withDev e)) ∧
      (∀ f, e.blockCheck i t true p.toNat 64 = none → held = false → e.eccRead i p.toNat 64 = some f →
        let a := f.advance i t
        let blk := (a.cd i).blockBytes p.toNat 64
        let why := a.svcReason i (s.task r t).part svc blk
        let g := a.modCd i (fun x => (x.poke c (p.toNat + 63) 1 why).setReg c t rd (if why = 0 then 0 else 1))
        (g.byte i (p.toNat + 63) = BitVec.ofNat 8 why) ∧
        (why ≠ 0 → exec cmd s = .next (s.withDev (g.finc (SCH_STAT_SVCREF i)))) ∧
        (why = 0 → (s.task r t).part ≠ 0 → exec cmd s = .next (s.withDev ((g.applyService i svc blk).resched i))) ∧
        (why = 0 → (s.task r t).part = 0 → exec cmd s = .next (s.withDev (g.modCd i (fun x => { x with
          vpend := insertRank x.vpend { rank := (s.task r t).rank t, svc := svc, blk := blk } })))))
    V 0 (.createTask r rd rb) noReg ∧ V 1 (.deleteTask r rd rb) noReg ∧ V 2 (.activateTask r rd rb) noReg ∧
      V 3 (.configureMailbox r rd rb) noReg ∧ V 4 (.configureLock r rd rb) noReg ∧
      ((s.reg r t ra).toNat = 0x10000 + n → V n (.post r rd ra rb) ra) ∧
      (∀ (d : Dev) (j part : Nat) (l : List Byte), 5 ≤ n → d.svcReason j part n l ≠ 0)

/-- Where a core executes TLD and the die holds the set of the task's cycle: index below 0x4000 and k6 0-7 gives 64-bit
    word k6 of the cell's entry, 0x4000 + v for v below 48 the AQ converter's foreground sample, 0x7FFF the SEQ of the set
    above its IDIG, and any other index zero, each written to rd with nothing else changed; an index with a bit of [63:16]
    set and a k6 above the range of its row raise cause 2 with the word. Of a cycle whose set the die no longer holds the
    value is free (log entry 21). (R382, R383) -/
def Obligations.TallyLoadResults : Prop :=
  ∀ (s : State) (r : CoreRef) (t : Nat) (rd ra : Reg) (k : BitVec 6),
    let i := r.die.idx
    let e := s.entered r t
    let a := (s.reg r t ra).toNat
    let word := encR 0x22 rd ra noReg 0 k.toNat
    let gives := fun (v : W64) => exec (.tld r rd ra k) s = .next (s.wrote r t rd v)
    s.executes r t word .both = true →
      (0x10000 ≤ a ∨ (a < 0x4000 ∧ 7 < k.toNat) ∨ (0x4000 ≤ a ∧ 0 < k.toNat) →
        exec (.tld r rd ra k) s = .next (s.withDev (e.takeTrap i r.core.val t 2 (BitVec.ofNat 64 word)))) ∧
      (∀ set, (s.dev.cd i).setOf (s.task r t).cycle = some set →
        (a < 0x4000 → k.toNat < 8 → gives (BitVec.ofNat 64 ((set.entry a).toNat / 2 ^ (64 * k.toNat)))) ∧
        (k = 0 → 0x4000 ≤ a → a < 0x4030 → gives (Store.get (fun _ => 0) set.aq (a - 0x4000))) ∧
        (k = 0 → a = 0x7FFF → gives (BitVec.ofNat 64 (set.idig.toNat + set.cycle % 65536 * 2 ^ 32))) ∧
        (k = 0 → 0x4030 ≤ a → a < 0x10000 → a ≠ 0x7FFF → gives 0)) ∧
      (a < 0x10000 → (a < 0x4000 ∧ k.toNat < 8 ∨ k = 0) → (s.dev.cd i).setOf (s.task r t).cycle = none →
        exec (.tld r rd ra k) s = .next (s.withDev (Dev.writes { e with freeCtr := s.dev.freeCtr + 1 } r t rd
          (Config.freeValue s.dev.freeCtr))))

/-- For a voted task whose cycle's set the die holds. DST answers 2 and stores nothing once the image is closed, 1 for a
    slot code that stores nothing, and otherwise, the block of 60 or 12 bytes read from memory without a cause, stores it
    and answers 0; DST of a staged explicit slot reads no memory. MST answers 2 once the image is closed, 1 and counts
    MSTREF when 2 + E + M exceeds the budget, and otherwise puts its block behind those stored and answers 0. STILE closes
    an open image, sends it to the voters and answers 0; for a closed one it answers 1 and does nothing. A block operand
    that raises a cause traps with its address, one with a double-bit error with cause 6. (R386, R388, R390, R687) -/
def Obligations.VoteImageResults : Prop :=
  ∀ (s : State) (r : CoreRef) (t : Nat) (rd ra rb : Reg) (set : TallySet),
    let i := r.die.idx
    let c := r.core.val
    let e := s.entered r t
    let cyc := (s.task r t).cycle
    let g := (e.cd i).image cyc
    let code := (s.reg r t ra).toNat
    let src := (s.reg r t rb).toNat
    let mem := (s.reg r t ra).toNat
    let word := encR 0x22 rd ra rb 1 0
    let trap := fun (cause : Nat) (w : W64) => (Host.Outcome.next (s.withDev (e.takeTrap i c t cause w)) : Out)
    let gives := fun (d : Dev) (v : W64) => (Host.Outcome.next (s.withDev (d.writes r t rd v)) : Out)
    (s.dev.cd i).setOf cyc = some set →
      (s.executes r t word .voted = true →
        (0x10000 ≤ code → exec (.dst r rd ra rb) s = trap 2 (BitVec.ofNat 64 word)) ∧
        (code < 0x10000 → g.closed = true → exec (.dst r rd ra rb) s = gives e 2) ∧
        (code < 0x10000 → g.closed = false →
          (dstBytes set code = none → exec (.dst r rd ra rb) s = gives e 1) ∧
          (dstBytes set code = some 0 → exec (.dst r rd ra rb) s = gives (e.modCd i (fun x => x.dst set code [])) 0) ∧
          (∀ n, dstBytes set code = some n → 0 < n →
            (∀ cause, e.blockCheck i t false src n = some cause →
              exec (.dst r rd ra rb) s = trap cause (BitVec.ofNat 64 src)) ∧
            (e.blockCheck i t false src n = none → e.eccRead i src n = none →
              exec (.dst r rd ra rb) s = .next (s.withDev ((e.eccFail i src).takeTrap i c t 6 0))) ∧
            (∀ f, e.blockCheck i t false src n = none → e.eccRead i src n = some f →
              exec (.dst r rd ra rb) s =
                gives (f.modCd i (fun x => x.dst set code ((f.cd i).blockBytes src n))) 0)))) ∧
      (∀ q, code = q → q < 12 → dstBytes set code = some 60 ∧ ∀ (x : CtrlDie) (l : List Byte),
        ((x.dst set code l).image set.cycle).dvalid.getLsbD q = true ∧
        ((x.dst set code l).image set.cycle).closed = (x.image set.cycle).closed) ∧
      (s.executes r t (encR 0x22 rd ra noReg 2 0) .voted = true →
        (g.closed = true → exec (.mst r rd ra) s = gives e 2) ∧
        (g.closed = false → mirBudget set.period < 2 + (e.cd i).engCount + g.mst.length →
          exec (.mst r rd ra) s = gives (e.finc (CDx_MIR_STAT_MSTREF i)) 1) ∧
        (∀ f, g.closed = false → 2 + (e.cd i).engCount + g.mst.length ≤ mirBudget set.period →
          e.blockCheck i t false mem 64 = none → e.eccRead i mem 64 = some f →
          exec (.mst r rd ra) s = gives (f.modCd i (fun x => x.setImage { g with
            mst := g.mst ++ [BitVec.ofNat 512 (numOf ((f.cd i).blockBytes mem 64))] })) 0) ∧
        (∀ cause, g.closed = false → 2 + (e.cd i).engCount + g.mst.length ≤ mirBudget set.period →
          e.blockCheck i t false mem 64 = some cause → exec (.mst r rd ra) s = trap cause (BitVec.ofNat 64 mem)) ∧
        (g.closed = false → 2 + (e.cd i).engCount + g.mst.length ≤ mirBudget set.period →
          e.blockCheck i t false mem 64 = none → e.eccRead i mem 64 = none →
          exec (.mst r rd ra) s = .next (s.withDev ((e.eccFail i mem).takeTrap i c t 6 0)))) ∧
      (s.executes r t (encR 0x22 rd noReg noReg 3 0) .voted = true →
        (g.closed = true → exec (.stile r rd) s = gives e 1) ∧
        (g.closed = false → exec (.stile r rd) s = gives ((e.closeImage i set).sendImage i set) 0 ∧
          (((e.closeImage i set).cd i).image set.cycle).closed = true))

/-- SEL of fold 0-11 with an 80-byte result and a 16-byte request that raise no cause and have no double-bit error runs
    the select unit on the set of the task's cycle: it writes no register, and no byte of memory outside the 80 of the
    result; a fold above 11 raises cause 2, an operand that raises a cause traps with its address, the result before the
    request, and while another core's exclusive attempt holds a line of the result the SEL waits. LEKICK of a phase kicked
    already in the cycle answers 1 and counts KICKREF; of another phase it marks the phase kicked, evaluates it and
    answers 0. LERD writes OUT of a slot, OUT of a group, POS or VEL of a generator, sign-extended; an index out of range
    or a k6 above 3 raises cause 2. (R385, R392, R687, R164, R166) -/
def Obligations.SelectAndEngineResults : Prop :=
  ∀ (s : State) (r : CoreRef) (t : Nat) (rd ra rb : Reg) (k : BitVec 6),
    let i := r.die.idx
    let c := r.core.val
    let e := s.entered r t
    let f := (s.reg r t ra).toNat
    let src := s.reg r t rb
    let dst := s.reg r t rd
    let held := (e.cd i).rangeHeld c dst.toNat 80
    let trap := fun (cause : Nat) (w : W64) => (Host.Outcome.next (s.withDev (e.takeTrap i c t cause w)) : Out)
    (s.executes r t (encR 0x22 rd ra rb 4 0) .voted = true →
      (12 ≤ f → exec (.sel r rd ra rb) s = trap 2 (BitVec.ofNat 64 (encR 0x22 rd ra rb 4 0))) ∧
      (∀ cause, f < 12 → e.blockCheck i t true dst.toNat 80 = some cause → exec (.sel r rd ra rb) s = trap cause dst) ∧
      (∀ cause, f < 12 → e.blockCheck i t true dst.toNat 80 = none → e.blockCheck i t false src.toNat 16 = some cause →
        exec (.sel r rd ra rb) s = trap cause src) ∧
      (f < 12 → e.blockCheck i t true dst.toNat 80 = none → e.blockCheck i t false src.toNat 16 = none →
        (held = true → exec (.sel r rd ra rb) s = .next (s.withDev e)) ∧
        (held = false → e.eccRead i src.toNat 16 = none →
          exec (.sel r rd ra rb) s = .next (s.withDev ((e.eccFail i src.toNat).takeTrap i c t 6 0)))) ∧
      (∀ d, f < 12 → e.blockCheck i t true dst.toNat 80 = none → e.blockCheck i t false src.toNat 16 = none →
        held = false → e.eccRead i src.toNat 16 = some d → ∃ u, exec (.sel r rd ra rb) s = .next u ∧
          u = s.withDev ((d.doSel i c t f src.toNat dst.toNat).advance i t) ∧ (∀ q, u.reg r t q = s.reg r t q) ∧
          (u.task r t).pc = (s.task r t).pc + 4 ∧
          (∀ a, a < dst.toNat ∨ dst.toNat + 80 ≤ a → u.dev.byte i a = s.dev.byte i a))) ∧
    (k.toNat < 4 → s.executes r t (encR 0x22 rd noReg noReg 5 k.toNat) .voted = true →
      let bit : Field := { (LE_STAT_KICKED i) with lo := k.toNat, width := 1 }
      (s.dev.fbit bit = true →
        exec (.lekick r rd k) s = .next (s.withDev ((e.finc (LE_STAT_KICKREF i)).writes r t rd 1))) ∧
      (s.dev.fbit bit = false →
        exec (.lekick r rd k) s = .next (s.withDev (((e.fset bit 1).kick i k.toNat).writes r t rd 0)))) ∧
    (s.executes r t (encR 0x22 rd ra noReg 6 k.toNat) .both = true →
      let word := fun (n : Nat) => (Store.get (fun _ => 0) (s.dev.cd i).le n).signExtend 64
      (k = 0 → f < 256 → exec (.lerd r rd ra k) s = .next (s.wrote r t rd (word (32 * f + 7)))) ∧
      (k = 1 → f < 32 → exec (.lerd r rd ra k) s =
        .next (s.wrote r t rd ((BitVec.ofNat 32 (s.dev.fget (LE_GRP_CTL_OUT i f))).signExtend 64))) ∧
      (k = 2 → f < 64 → exec (.lerd r rd ra k) s = .next (s.wrote r t rd (word (8192 + 16 * f + 6)))) ∧
      (k = 3 → f < 64 → exec (.lerd r rd ra k) s = .next (s.wrote r t rd (word (8192 + 16 * f + 7)))) ∧
      ((k = 0 ∧ 256 ≤ f) ∨ (k = 1 ∧ 32 ≤ f) ∨ (1 < k.toNat ∧ 64 ≤ f) ∨ 3 < k.toNat →
        exec (.lerd r rd ra k) s = trap 2 (BitVec.ofNat 64 (encR 0x22 rd ra noReg 6 k.toNat))))

/-- Where a core executes TXN in a non-voted partition with ra [63:32] and [15] zero: when a reason of R393 applies, rd
    receives [63] = 1 with one of the reasons that apply and no tag is taken; when none applies, rd receives a free tag of
    the ring die's pool in [9:0] and its new generation in [13:10], the tag is in use by the task, and the core waits for
    nothing. TAGW of a value that names no request of the task returns BADTAG; of one whose outcome is there it returns it
    and forgets the request; of one whose outcome is not there the task leaves its core and waits. Which of several
    reasons or free tags is taken is left open (log entry 4). (R393, R394, R395, R58) -/
def Obligations.TransactionInstructionResults : Prop :=
  ∀ (s : State) (r : CoreRef) (t : Nat) (rd ra rb : Reg),
    let i := r.die.idx
    let c := r.core.val
    let e := s.entered r t
    let a := (s.reg r t ra).toNat
    let word := encR 0x23 rd ra rb 0 0
    (s.executes r t word .nonVoted = true →
      let busy := decide (8 ≤ (((s.task r t).txns.filter (fun q => q.done.isNone)).length))
      let why := s.dev.txnReasons busy (a % 2 ^ 14) (a / 2 ^ 16 % 2 ^ 16)
      (2 ^ 32 ≤ a ∨ a / 2 ^ 15 % 2 = 1 →
        exec (.txn r rd ra rb) s = .next (s.withDev (e.takeTrap i c t 2 (BitVec.ofNat 64 word)))) ∧
      (a < 2 ^ 32 → a / 2 ^ 15 % 2 = 0 → why ≠ [] →
        ∃ n ∈ why, exec (.txn r rd ra rb) s = .next (s.withDev (Dev.writes { e with freeCtr := s.dev.freeCtr + 1 } r t rd
          (BitVec.ofNat 64 (2 ^ 63 + n))))) ∧
      (a < 2 ^ 32 → a / 2 ^ 15 % 2 = 0 → why = [] → ∃ u tag, exec (.txn r rd ra rb) s = .next u ∧
        tag ∈ s.dev.freeTags (s.dev.tagRd (a % 2 ^ 14)) ∧
        (let gen := ((s.dev.rd (s.dev.tagRd (a % 2 ^ 14))).gen tag + 1) % 16
         u.reg r t rd = (s.wrote r t rd (BitVec.ofNat 64 (tag + 1024 * gen))).reg r t rd ∧
         { tag := tag, gen := gen, done := none, waits := false } ∈ (u.task r t).txns ∧
         ∃ q, (tag, q) ∈ (u.dev.rd (s.dev.tagRd (a % 2 ^ 14))).tags ∧ q.owner = .task r.die t ∧ q.gen = gen))) ∧
    (s.executes r t (encR 0x23 rd ra noReg 1 0) .nonVoted = true →
      ((s.task r t).txns.find? (fun q => decide (a = q.tag + 1024 * q.gen)) = none →
        exec (.tagw r rd ra) s = .next (s.wrote r t rd (BitVec.ofNat 64 (2 ^ 35)))) ∧
      (∀ q v, (s.task r t).txns.find? (fun q => decide (a = q.tag + 1024 * q.gen)) = some q →
        (s.dev.rd (s.dev.rdOfTag q.tag)).gen q.tag = q.gen → q.done = some v →
        ∃ u, exec (.tagw r rd ra) s = .next u ∧ u.reg r t rd = (s.wrote r t rd v).reg r t rd ∧ q ∉ (u.task r t).txns ∧
          (u.task r t).pc = (s.task r t).pc + 4) ∧
      (∀ q, (s.task r t).txns.find? (fun q => decide (a = q.tag + 1024 * q.gen)) = some q →
        (s.dev.rd (s.dev.rdOfTag q.tag)).gen q.tag = q.gen → q.done = none → (s.task r t).deleting = false →
        ∃ d : Dev, exec (.tagw r rd ra) s = .next (s.withDev (d.resched i)) ∧
          ((d.cd i).task t).state = .waitTag ∧ (∀ c', ((d.cd i).core c').task ≠ some t)))

/-- At a powered cell of an existing place each event completes and changes that cell alone. VIN_LOW and VIN_RECOVERY set
    and clear VINLOW. DSAT_TRIP counts when the level is the asserted one of DSPOL and has lasted longer than FILT outside
    the mask after the pair's turn-on; then it latches DSA or DSB, exchanged by SWAP, and fires the mechanical bypass of a
    configured cell in semiconductor bypass; otherwise it latches nothing. GDFLT_TRIP latches GDF. OUTPUT_SHORT of a
    driven gate output whose ball has the other level latches SHRT with the output noted, and of BYP_FIRE low during a
    firing sets BYPFAIL. SLCV_TRIP with AIN0 above THR1 for longer than FILT latches SLCV once, with semiconductor bypass
    for cause 3, and fires the mechanical bypass while CFGD is 0; SLCV_FIRING with AIN0 above THR2 for 5.0 us fires it
    while SLCV is latched. FIRING_PULSE_END ends the first or the second pulse; BYPASS_CONFIRM_TIMEOUT without a
    confirmation begins the second pulse and then, with CFGD, sets BYPFAIL. BYPASS_SENSE takes the debounced level and,
    with CFGD, confirms a closed bypass, as unexpected without a firing. A passed branch test changes nothing, a failed
    one latches SLCV. (R223, R229, R234, R236, R238, R239, R241, R243, R245, R246, R247, R623) -/
def Obligations.CellProtectionEvents : Prop :=
  ∀ (s : State) (p : Place) (pairB level : Bool) (g : Gate) (code : BitVec 12) (held : Nat),
    let c := s.dev.cell p
    let b := pairB != c.pwm.swap
    let turnedOn := if b = true then c.pwm.onB else c.pwm.onA
    let from_ := match turnedOn with
      | some t => max (c.now40 - 25 * held) (t + 1000 * c.fget SRB_GD_CFG_MASK)
      | none => c.now40 - 25 * held
    let counts := level ≠ c.fbit SRB_GD_CFG_DSPOL ∧ 250 * c.fget SRB_GD_CFG_FILT < c.now40 - from_
    let thr := fun (lo : Nat) => sx 12 (bitsOf c.prot.slcvSet.1.toNat lo 12)
    let pulsing := c.prot.pulse = 1 ∨ c.prot.pulse = 2
    s.cellOn p = true →
      s.cellGoes p (.vinLow p) (fun n => n.fbit SRB_PROT_STAT_VINLOW = true ∧ n.prot = c.prot ∧ n.arm = c.arm) ∧
      s.cellGoes p (.vinRecovery p) (fun n => n.fbit SRB_PROT_STAT_VINLOW = false ∧ n.prot = c.prot ∧ n.arm = c.arm) ∧
      (counts → s.cellGoes p (.dsatTrip p ⟨pairB, level, held⟩) (fun n =>
        n.fbit (if b = true then SRB_PROT_STAT_DSB else SRB_PROT_STAT_DSA) = true ∧ n.latched = true ∧
        (c.prot.semi = false ∨ c.cfgd = false → n.prot = c.prot) ∧
        (c.prot.semi = true → c.cfgd = true → ¬ pulsing → c.prot.bypConf = false →
          n.prot = { c.prot with bfired := true, pulse := 1 }))) ∧
      (¬ counts → s.cellGoes p (.dsatTrip p ⟨pairB, level, held⟩) (fun n =>
        n.prot = c.prot ∧ n.rget SRB_PROT_STAT = c.rget SRB_PROT_STAT ∧ n.pwm = c.pwm)) ∧
      s.cellGoes p (.gdfltTrip p) (fun n => n.fbit SRB_PROT_STAT_GDF = true ∧ n.latched = true ∧ n.prot = c.prot) ∧
      (∀ w, c.balls = some w →
        (w.getLsbD g.idx ≠ level → s.cellGoes p (.outputShort p ⟨some g, level⟩) (fun n =>
          n.fbit SRB_PROT_STAT_SHRTL = true ∧ bitOf (n.fget SRB_PROT_STAT_SHRT) g.idx = true ∧ n.prot = c.prot)) ∧
        (w.getLsbD g.idx = level → s.cellGoes p (.outputShort p ⟨some g, level⟩) (fun n =>
          n.rget SRB_PROT_STAT = c.rget SRB_PROT_STAT ∧ n.prot = c.prot))) ∧
      (c.balls = none → s.cellGoes p (.outputShort p ⟨some g, level⟩) (fun n =>
        n.rget SRB_PROT_STAT = c.rget SRB_PROT_STAT ∧ n.prot = c.prot)) ∧
      (pulsing → s.cellGoes p (.outputShort p ⟨none, false⟩) (fun n => n.fbit SRB_BYP_STAT_BYPFAIL = true ∧ n.prot = c.prot)) ∧
      (level = true ∨ ¬ pulsing → s.cellGoes p (.outputShort p ⟨none, level⟩) (fun n =>
        n.rget SRB_BYP_STAT = c.rget SRB_BYP_STAT ∧ n.prot = c.prot)) ∧
      (c.prot.slcv = false → thr 4 < code.toInt → 10 * bitsOf c.prot.slcvSet.2.toNat 0 8 < held →
        s.cellGoes p (.slcvTrip ⟨p, code, held⟩) (fun n => n.prot.slcv = true ∧ n.prot.semi = true ∧
          n.prot.relReq = false ∧ n.fget SRB_STATE_SCAUSE = 3 ∧ (c.cfgd = true → n.prot.pulse = c.prot.pulse) ∧
          (c.cfgd = false → c.prot.bypConf = false → n.prot.bfired = true ∨ pulsing))) ∧
      (c.prot.slcv = true ∨ code.toInt ≤ thr 4 ∨ held ≤ 10 * bitsOf c.prot.slcvSet.2.toNat 0 8 →
        s.cellGoes p (.slcvTrip ⟨p, code, held⟩) (fun n => n.prot = { c.prot with ain0 := code })) ∧
      (c.prot.slcv = true → thr 20 < code.toInt → 5000 ≤ held → c.prot.bypConf = false → ¬ pulsing →
        s.cellGoes p (.slcvFiring ⟨p, code, held⟩) (fun n =>
          n.prot = { c.prot with ain0 := code, slcv2 := true, bfired := true, pulse := 1 })) ∧
      (c.prot.slcv = false ∨ code.toInt ≤ thr 20 ∨ held < 5000 →
        s.cellGoes p (.slcvFiring ⟨p, code, held⟩) (fun n => n.prot = { c.prot with ain0 := code })) ∧
      (c.prot.pulse = 1 → s.cellGoes p (.firingPulseEnd p) (fun n => n.prot = { c.prot with pulse := 3 })) ∧
      (c.prot.pulse = 2 → s.cellGoes p (.firingPulseEnd p) (fun n => n.prot = { c.prot with pulse := 4 })) ∧
      (¬ pulsing → s.cellGoes p (.firingPulseEnd p) (fun n => n.prot = c.prot)) ∧
      (c.prot.bfired = true → c.prot.bypConf = false →
        (c.prot.pulse = 1 ∨ c.prot.pulse = 3 →
          s.cellGoes p (.bypassConfirmTimeout p) (fun n => n.prot = { c.prot with pulse := 2 })) ∧
        (c.prot.pulse = 2 ∨ c.prot.pulse = 4 → c.cfgd = true →
          s.cellGoes p (.bypassConfirmTimeout p) (fun n => n.fbit SRB_BYP_STAT_BYPFAIL = true ∧ n.prot = c.prot))) ∧
      (c.prot.bfired = false ∨ c.prot.bypConf = true →
        s.cellGoes p (.bypassConfirmTimeout p) (fun n => n.prot = c.prot ∧ n.rget SRB_BYP_STAT = c.rget SRB_BYP_STAT)) ∧
      s.cellGoes p (.bypassSense p level) (fun n => n.prot.sense = level ∧
        (c.cfgd = true → (level != c.fbit SRB_BYP_CFG_SPOL) = true → c.prot.bypConf = false →
          n.prot.bypConf = true ∧ n.prot.bypUnx = (c.prot.bypUnx || !c.prot.bfired)) ∧
        (c.cfgd = false ∨ level = c.fbit SRB_BYP_CFG_SPOL → n.prot.bypConf = c.prot.bypConf)) ∧
      s.goes (.slcvBranchTest p true) (fun d => d = s.dev) ∧
      s.cellGoes p (.slcvBranchTest p false) (fun n => n.prot.slcv = true ∧ n.prot.semi = true)

/-- At a powered cell: SEMI of a configured cell and SEMI_REL of one in semiconductor bypass that neither SLCV nor a
    firing holds are pending until the reload instant, and any other is ignored; BYPASS_FIRE fires only with the key
    0xB1A5 at a configured cell; LATCH_CLEAR clears exactly the named latches whose condition has gone; SLCV_CLEAR with
    AIN0 below THR1 less HYS unlatches SLCV and asks for the release, and otherwise clears nothing.
    SLCV_CONFIGURATION_WRITE takes a valid set into force and VALID says so; a shadow write of an unlocked cell goes to
    the shadow set, of a locked one counts WREF. CFGD of a cell with a valid SLCV set sets CFGD and, outside COMMISSION,
    LOCK; without one it changes neither. An unpowered cell that VIN_RISE powers, and a cell that VIN_COLLAPSE takes down,
    have every register at reset; VIN_RISE at a powered cell changes nothing. (R212, R217, R218, R226, R233, R237, R238,
    R240, R242, R244, R246) -/
def Obligations.CellCommands : Prop :=
  ∀ (s : State) (p : Place) (mask persists : BitVec 5) (code : BitVec 12) (v : W32) (fb tcmp inTime : Bool) (key : W16),
    let c := s.dev.cell p
    let below := code.toInt < sx 12 (bitsOf c.prot.slcvSet.1.toNat 4 12) - (bitsOf c.prot.slcvSet.2.toNat 16 8 : Nat)
    let releasable := c.prot.semi = true ∧ c.prot.slcv = false ∧ c.prot.bfired = false ∧ c.prot.bypConf = false
    (s.cellOn p = true →
      (c.cfgd = true → s.cellGoes p (.semi p) (fun n => n.prot = { c.prot with semiReq := true })) ∧
      (c.cfgd = false → s.cellGoes p (.semi p) (fun n => n.prot = c.prot)) ∧
      (releasable → s.cellGoes p (.semiRel p) (fun n => n.prot = { c.prot with relReq := true })) ∧
      (¬ releasable → s.cellGoes p (.semiRel p) (fun n => n.prot = c.prot)) ∧
      (key ≠ 0xB1A5 ∨ c.cfgd = false → s.cellGoes p (.bypassFire p key) (fun n => n.prot = c.prot)) ∧
      (c.cfgd = true → c.prot.pulse ≠ 1 → c.prot.pulse ≠ 2 → c.prot.bypConf = false →
        s.cellGoes p (.bypassFire p 0xB1A5) (fun n => n.prot = { c.prot with bfired := true, pulse := 1 })) ∧
      s.cellGoes p (.latchClear p mask persists) (fun n => ∀ i, i < 5 →
        bitOf (n.rget SRB_PROT_STAT).toNat i =
          (bitOf (c.rget SRB_PROT_STAT).toNat i && !(mask.getLsbD i && !persists.getLsbD i))) ∧
      (c.prot.slcv = true → c.prot.bfired = false → below →
        s.cellGoes p (.slcvClear p code) (fun n =>
          n.prot = { c.prot with ain0 := code, slcv := false, slcv2 := false, relReq := true })) ∧
      (c.prot.slcv = false ∨ c.prot.bfired = true ∨ ¬ below →
        s.cellGoes p (.slcvClear p code) (fun n => n.prot = { c.prot with ain0 := code })) ∧
      s.cellGoes p (.slcvConfigurationWrite p v) (fun n =>
        n.rget SRB_SLCV_CFG &&& 0x007FFFFF = v &&& 0x007FFFFF ∧
        (n.fbit SRB_SLCV_CFG_VALID = true ↔ n.slcvValid = true) ∧
        (n.slcvValid = true ↔ n.fget SRB_SLCV_CFG_FILT ≤ 0x64 ∧ n.fget SRB_SLCV_CFG_SDT ≤ 0x40 ∧
          sx 16 (n.fget SRB_SLCV_THR_THR1) ≤ sx 16 (n.fget SRB_SLCV_THR_THR2)) ∧
        (n.slcvValid = true → n.prot.slcvSet.1 = n.rget SRB_SLCV_THR) ∧
        (n.slcvValid = false → n.prot.slcvSet = c.prot.slcvSet)) ∧
      (c.locked = false → s.cellGoes p (.shadowWrite p tcmp v inTime) (fun n => n.pwm.force = c.pwm.force ∧
        n.pwm.tcmp = c.pwm.tcmp ∧ n.pwm.shadowLate = (c.pwm.shadowLate || !inTime) ∧ n.pwm.shadow = some (
          let old := c.pwm.shadow.getD (c.pwm.force, c.pwm.tcmp)
          if tcmp = true then (old.1, v) else (v &&& 0xF, old.2)))) ∧
      (c.locked = true → s.cellGoes p (.shadowWrite p tcmp v inTime) (fun n => n.pwm.shadow = c.pwm.shadow ∧
        n.fget SRB_LOCK_WREF = min (c.fget SRB_LOCK_WREF + 1) (2 ^ SRB_LOCK_WREF.width - 1))) ∧
      (c.cfgd = false → c.fbit SRB_SLCV_CFG_VALID = true → s.cellGoes p (.cfgd p fb) (fun n =>
        n.cfgd = true ∧ (s.dev.mode ≠ 1 → n.locked = true) ∧ (s.dev.mode = 1 → n.locked = c.locked) ∧
        (c.locked = false → n.fb = fb))) ∧
      (c.fbit SRB_SLCV_CFG_VALID = false → s.cellGoes p (.cfgd p fb) (fun n =>
        n.cfgd = c.cfgd ∧ n.locked = c.locked ∧ n.fb = if c.locked = true then c.fb else fb))) ∧
    (s.dev.hasPlace p = true →
      (c.powered = false → s.cellGoes p (.vinRise p) (fun n =>
        n.powered = true ∧ n.regs = [] ∧ n.serial = c.serial ∧ n.v1 = c.v1 ∧ n.cfgd = false ∧ n.row = 1)) ∧
      (c.powered = true → s.cellGoes p (.vinRise p) (fun n => n = c)) ∧
      s.cellGoes p (.vinCollapse p) (fun n => n = Cell.off c.serial c.v1 c.fcoef ∧ n.powered = false ∧ n.row = 1))

/-- At a powered cell whose time is valid. A CELL_SAMPLE_INSTANT begins the cycle of the package's sequence with t0 at the
    cell's grid instant, moved by a step due at it: it takes waiting cycle settings, samples AIN0 (held, with its previous
    code, while BLANK is high), turns the chopper, plans the reload instant at t0 + APPLY, and freezes the record of
    sequence, key, full bridge and participation, and STATE. A RELOAD_INSTANT spends the requests that waited for it:
    after a release from semiconductor bypass the cell applies block and no drove; else of the blocks held in time, not
    done with and due, the one with the latest apply time sets the state by the rule of R134 (of R107 at a version-1 cell)
    and clears MISS; without one the miss is counted, the state is kept once, modulation ends at the second miss, and at
    NMISS the cell enters semiconductor bypass for cause 2. CONVERTER_B_SLOT: the first slot samples the foreground entry,
    a later one makes the reference that is due, or samples the next of the rotation, and after the last that fits no more
    come. A gate edge turns its output off at once, and on only while its partner is off. While the time has never been
    valid none of the three instants changes anything. (R107, R127, R134, R223, R225, R230, R233, R249, R260, R261, R268) -/
def Obligations.CellCycleEvents : Prop :=
  ∀ (s : State) (p : Place) (x : Adc) (blank first : Bool),
    let c := s.dev.cell p
    let k := s.dev.cellSeq c (c.nextT0 s.dev.seq)
    let t := c.nextT0 k
    let y := if blank = true then none else some x
    let sampled := fun (n : Cell) (b : Cell) (i : Nat) => (blank = true → (n.inp i).code = (b.inp i).code ∧ (n.inp i).flg.getLsbD 1 = true) ∧
      (blank = false → x.range = .none → (n.inp i).code = x.code ∧ (n.inp i).flg.getLsbD 1 = false)
    s.cellOn p = true →
      (c.tm.everTime = true →
        s.cellComes p t (.cellSampleInstant p x blank) (fun b n => n = b.act (fun c => c.atT0 k t y) ∧
          n.tm.k = k ∧ n.fe.chop = !b.fe.chop ∧
          n.tm.t0 = (match c.tm.delta with
            | some (d, q) => if q = k then moved d.toInt t else t
            | none => t) ∧
          (c.cycDue k = true → n.tm.cyc = c.rget SRB_CYC ∧ n.fbit SRB_CYC_EFF_PEND = false) ∧
          (c.cycDue k = false → n.tm.cyc = c.tm.cyc) ∧
          n.tm.t0 + 10 * n.applyOfs ∈ n.tm.reloads ∧ sampled n b 0 ∧
          n.arm.recs.head? = some {
            seq := k, key := BitVec.ofInt 32 (insKey n.vcap (n.fget SRB_KBASE_KBASE) n.arm.hys.toInt n.arm.lastIns n.arm.lastMod)
            fb := n.fb, part := decide (n.fget SRB_FOLD_PEN = 1) && decide (n.insNow.code < 4) && !n.lprot && !n.prot.slcv } ∧
          n.fget SRB_STATE_STATE = n.stateWord (256 * b2n ((n.inp 0).flg.getLsbD 0) + 128 * b2n ((n.inp 0).flg.getLsbD 2)
            + 64 * b2n ((n.inp 0).flg.getLsbD 1))) ∧
        (∀ r rest, c.tm.reloads = r :: rest → s.cellComes p r (.reloadInstant p) (fun b n =>
          let l := if b.v1 = true then b.arm.expl else b.arm.droves
          let fits := fun (h : Held) => !h.late && !h.done && b.applies r h.pl
          let misses := min (b.fget SRB_STATE_MISS + 1) 15
          n.tm.reloads = rest ∧ n.prot.semiReq = false ∧ n.prot.relReq = false ∧
          (b.prot.relReq = true → n.arm.ins = .block ∧ n.arm.modSt = none ∧ n.prot.semi = b.prot.semiReq ∧
            n.fget SRB_STATE_MISS = b.fget SRB_STATE_MISS) ∧
          (b.prot.relReq = false → (∀ h ∈ l, fits h = false) →
            (b.arm.appliedDrove = false → n.arm.ins = b.arm.ins ∧ n.fget SRB_STATE_MISS = b.fget SRB_STATE_MISS) ∧
            (b.arm.appliedDrove = true → n.fget SRB_STATE_MISS = misses ∧
              (b.arm.ins = .block ∨ misses = 1 ∨ b.arm.modSt = none → n.arm.ins = b.arm.ins) ∧
              (b.arm.ins ≠ .block → misses ≠ 1 → b.arm.modSt ≠ none → n.arm.ins = .bypass ∧ n.arm.modSt = none) ∧
              (b.arm.ins ≠ .block → misses ≠ 1 → b.nmiss ≤ misses → n.prot.semi = true ∧
                (b.prot.semi = false → b.prot.semiReq = false → n.fget SRB_STATE_SCAUSE = 2)))) ∧
          (b.prot.relReq = false → ∀ h ∈ l, fits h = true → ∃ q ∈ l, fits q = true ∧ applyIn h.pl r ≤ applyIn q.pl r ∧
            n.fget SRB_STATE_MISS = 0 ∧ n.arm.appliedDrove = true ∧
            (let d := q.pl
             let f := Pl.get d 1 8
             let own := b.id % 64
             let excluded := (List.range (min (Pl.get d 38 3) 6)).any (fun i => decide (Pl.get d (40 + 2 * i) 14 = b.id))
             n.arm.ins = if b.v1 = true then
               (if bitOf f 0 then .block
                else if bitOf f 1 then b.arm.ins
                else if bitOf d.toNat (64 + own) && bitOf d.toNat (128 + own) then .block
                else if bitOf f 2 && decide (Pl.get d 24 6 = own) then (if bitOf f 3 then .neg else .pos)
                else if bitOf d.toNat (64 + own) then .pos
                else if bitOf d.toNat (128 + own) then .neg
                else .bypass)
             else if bitOf f 0 || bitOf f 4 then .block
             else if bitOf f 1 then b.arm.ins
             else match b.arm.recs.find? (fun e => decide (e.seq = BitVec.ofNat 16 (Pl.get d 2 16))) with
               | none => .bypass
               | some e =>
                 if excluded then .bypass
                 else if !e.part then .block
                 else if bitOf f 5 && decide (Pl.get d 24 14 = b.id) then
                   (match modWay (Pl.get d 24 16 / 16384) with
                    | some neg => if neg then .neg else .pos
                    | none => .bypass)
                 else if pairAbove e.key.toInt b.id (sx 32 (Pl.get d 12 32)) (Pl.get d 16 14) then .pos
                 else if bitOf f 6 && e.fb && pairAbove (sx 32 (Pl.get d 18 32)) (Pl.get d 22 14) e.key.toInt b.id then .neg
                 else .bypass)))) ∧
        (c.tm.reloads = [] → s.goes (.reloadInstant p) (fun d => d = s.dev)) ∧
        (c.fe.conv.slotNo = 0 → ∀ i, c.fe.conv.list.head? = some i → i ≠ 0 → s.cellGoes p (.converterBSlot p true x blank) (fun n =>
          n.fe.conv.slotNo = 1 ∧ sampled n c i)) ∧
        (c.fe.conv.slotNo ≠ 0 → s.cellGoes p (.converterBSlot p true x blank) (fun n => n.fe = c.fe)) ∧
        (c.fe.conv.slotNo ≠ 0 → c.fe.conv.slotEnd = false → c.fe.conv.diag = [] →
          (c.slotItem = none → s.cellGoes p (.converterBSlot p false x blank) (fun n => n.fe.conv.slotEnd = true)) ∧
          (∀ at_, c.slotItem = some (.reference, at_) → blank = false → s.cellGoes p (.converterBSlot p false x blank) (fun n =>
            n.fe.conv.slotAt = at_ ∧ n.fe.conv.slotNo = c.fe.conv.slotNo + 1 ∧ n.fe.conv.refDone = true ∧ n.fe.conv.sinceRef = 0)) ∧
          (∀ i at_, c.slotItem = some (.rot i, at_) → i ≠ 0 → s.cellGoes p (.converterBSlot p false x blank) (fun n =>
            n.fe.conv.slotAt = at_ ∧ n.fe.conv.slotNo = c.fe.conv.slotNo + 1 ∧
            n.fe.conv.rot = (c.fe.conv.rot + 1) % max c.fe.conv.list.tail.length 1 ∧ sampled n c i))) ∧
        (c.fe.conv.slotEnd = true → s.cellGoes p (.converterBSlot p false x blank) (fun n => n.fe = c.fe))) ∧
      (c.tm.everTime = false →
        s.goes (.cellSampleInstant p x blank) (fun d => d = s.dev) ∧
        s.goes (.reloadInstant p) (fun d => d = s.dev) ∧
        s.cellGoes p (.converterBSlot p first x blank) (fun n => n.fe = c.fe ∧ n.tm = c.tm ∧ n.arm = c.arm ∧ n.prot = c.prot)) ∧
      (∀ at_ g on rest, c.pwm.edges = (at_, g, on) :: rest → s.cellComes p ((at_ + 24) / 25) (.gateOutputEdge p) (fun _ n =>
        n.pwm.edges = rest ∧
        (on = false → n.pwm.gates.getLsbD g.idx = false) ∧
        (on = true → n.pwm.gates.getLsbD g.idx =
          (c.pwm.gates.getLsbD g.idx || !c.pwm.gates.getLsbD (if g.idx % 2 = 0 then g.idx + 1 else g.idx - 1))) ∧
        (∀ h : Gate, h ≠ g → n.pwm.gates.getLsbD h.idx = c.pwm.gates.getLsbD h.idx))) ∧
      (c.pwm.edges = [] → s.goes (.gateOutputEdge p) (fun d => d = s.dev))

/-- On a running control die: a voted phase that has begun and is not ended does not begin again; where activations of
    later phases of the cycle remain, the next phase begins, with the services of R440 judged by the state at its
    beginning; where none of this cycle remain, or no phase has ever begun, phase 0 of the earliest cycle with an
    activation begins, once the generator step is complete and with pending priority changes applied. A dispatch puts the
    highest-ranked ready activation of the phase on the lowest-numbered free core of 0 to 7, and waits while another
    core's exclusive attempt holds a line that it writes. A tick event brings the raw counter to the instant of the next
    tick of any running die; exactly the dies due then count one tick, and have their next one 100 ns x TICK later. A
    delay whose wake tick has come leaves the delay list and its task becomes ready behind the others, one whose tick has
    not come stays. (R417, R418, R426, R427, R437, R440) -/
def Obligations.SchedulerEvents : Prop :=
  ∀ (s : State) (die : CDie) (task : Fin 512),
    let i := die.idx
    let x := s.dev.cd i
    let more := x.activeIf (fun k p => decide (k = x.vcycle) && decide (x.vphase < p))
    let later := (x.activeIf (fun k _ => !x.vever || decide (k ≠ x.vcycle))).map (fun t => (x.task t).cycle)
    let due := x.vready.filter (fun t => decide ((x.task t).cycle = x.vcycle) && decide ((x.task t).phase = x.vphase))
    let free := (List.range 8).find? (fun c => decide ((x.core c).task = none) && !(x.core c).halted)
    let runs := (List.range 4).filter s.dev.running
    (runs = [] → s.goes .tickEvent (fun d => d = s.dev)) ∧
    (∀ n, (runs.map s.dev.tickIn).min? = some n → s.dev.clockRuns = true → s.goes .tickEvent (fun d =>
      d.regs = s.dev.regs ∧ d.sh.clk.raw = s.dev.sh.clk.raw + BitVec.ofNat 64 n ∧ d.rings = s.dev.rings ∧ ∀ j, j < 4 →
        d.cd j = if s.dev.running j = true ∧ s.dev.tickIn j = n then { s.dev.cd j with
            ticks := (s.dev.cd j).ticks + 1
            tickAt := (s.dev.cd j).tickAt + BitVec.ofNat 64 (100 * max 1 (min 10000 (s.dev.fget (SCH_CFG_TICK j)))) }
          else s.dev.cd j)) ∧
    (s.dev.running i = true →
      (x.vbegun = true → s.goes (.votedPhaseBegin die) (fun d => d = s.dev)) ∧
      (x.vbegun = false → x.vever = true → more ≠ [] → s.goes (.votedPhaseBegin die) (fun d =>
        d = (s.dev.setCd i { x.snapshot with vphase := x.vphase + 1, vbegun := true }).resched i)) ∧
      (x.vbegun = false → x.vever = false ∨ more = [] →
        (later = [] → s.goes (.votedPhaseBegin die) (fun d => d = s.dev)) ∧
        ∀ k, later.min? = some k →
          (x.gensDone = true → s.goes (.votedPhaseBegin die) (fun d =>
            d = (s.dev.setCd i { x.applyVpri.snapshot with vcycle := k, vphase := 0, vbegun := true, vever := true }).resched i)) ∧
          (x.gensDone = false → s.goes (.votedPhaseBegin die) (fun d => d = s.dev))) ∧
      (∀ t c, x.vbegun = true → x.firstRank due = some t → free = some c →
        (x.dispatchHeld c t = false → s.goes (.votedDispatch die) (fun d => d = (s.dev.dispatch i c t).resched i)) ∧
        (x.dispatchHeld c t = true → s.goes (.votedDispatch die) (fun d => d = s.dev))) ∧
      (x.vbegun = false ∨ due = [] ∨ free = none → s.goes (.votedDispatch die) (fun d => d = s.dev)) ∧
      (∀ w rest, x.delays = (w, task.val) :: rest →
        (w ≤ x.ticks → s.goes (.delayExpiry die task) (fun d =>
          d = (s.dev.setCd i ({ x with delays := rest }.wake task.val)).resched i)) ∧
        (x.ticks < w → s.goes (.delayExpiry die task) (fun d => d = s.dev))))

/-- While the timebase runs, SAMPLE_INSTANT puts settings whose t0 has passed in force and begins the cycle after the
    present one (cycle 0 where the grid has not begun): the cycle count is the next, the grid stands, t0 is the next
    instant of the grid, moved by the steps of station time that take effect with that cycle, and exactly those steps are
    spent; the tallies received for cycles in assembly are kept. While it does not run nothing happens. RATE_CHANGE comes
    to the next raw microsecond boundary and puts the waiting rate in force there; with none waiting it changes nothing.
    (R62, R63, R64, R93, R467, R468, R451) -/
def Obligations.SampleInstantResults : Prop :=
  ∀ (s : State),
    let e := s.dev.cfgEffect
    let k := s.dev.nextCyc
    let due := s.dev.sh.clk.steps.filter (fun e => decide (e.cycle = k))
    (s.dev.clockRuns = true → s.goes .sampleInstant (fun d => d.sh.clk.cyc = k ∧ d.sh.clk.gridOn = true ∧
      (due = [] → d.sh.clk.t0 = BitVec.ofInt 64 e.nextT0) ∧
      (due ≠ [] → d.sh.clk.t0 = BitVec.ofInt 64 ((BitVec.ofInt 64 e.nextT0).toNat + (due.map (fun e => e.delta)).sum)) ∧
      d.sh.clk.steps = s.dev.sh.clk.steps.filter (fun e => !decide (e.cycle = k)) ∧
      d.sh.tly.copies = s.dev.sh.tly.copies)) ∧
    (s.dev.sh.clk.cfgPend = none → e = s.dev) ∧
    (∀ v eff, s.dev.sh.clk.cfgPend = some (v, eff) →
      (s.dev.sh.clk.gridOn = true → eff ≤ s.dev.sh.clk.cyc → e.sh.clk.cfgInForce = v ∧ e.sh.clk.cfgPend = none) ∧
      (s.dev.sh.clk.gridOn = false ∨ s.dev.sh.clk.cyc < eff → e = s.dev)) ∧
    (s.dev.clockRuns = false → s.goes .sampleInstant (fun d => d = s.dev)) ∧
    (s.dev.sh.crk.ratePend = none → s.goes .rateChange (fun d => d = s.dev)) ∧
    (∀ v, s.dev.sh.crk.ratePend = some v → s.goes .rateChange (fun d =>
      d.fget TIM_RATE_RATE = v.toNat ∧ d.sh.crk.ratePend = none ∧ d.sh.clk.cyc = s.dev.sh.clk.cyc ∧
      d.sh.clk.raw = s.dev.sh.clk.raw + (if s.dev.clockRuns = true then
        BitVec.ofNat 64 ((1000 - s.dev.sh.clk.raw.toNat % 1000) % 1000) else 0)))

/-- A cell whose slot instant has come fills the block of its slot, if its CRC is good, with its tally, sends it toward
    the end named, on an awake stream, once; a good one that reaches its ring end while its cycle is in assembly joins the
    set, a late one and one of another cycle count as late, one with a CRC error counts at the port, a lost one leaves no
    trace at the end. TALLY_CLOSE closes the cycle whose close is due exactly once: the merged set then has an entry for
    each enumerated cell and for no other. TALLY_DELIVERY delivers the set closed last, exactly once, to every powered
    control die: each holds it as its newest set, under the cycle's count, t0 and digest, and every running ring die holds
    the cycle's token. A second delivery or close of a cycle changes nothing. (R31, R32, R33, R70, R74, R75, R76, R113,
    R304, R333, R382) -/
def Obligations.TallyPath : Prop :=
  ∀ (s : State) (p : Place) (toward : End) (fate : Fate) (h : Rx) (t : OutTally) (c : CycRec),
    let toB := decide (toward = .b)
    let r := p / 64
    let x : CPort := if toB then .u else .d
    let a := s.dev.slotCome p toB
    let e := (a.modCell p (fun c => (c.rxCount x h).sendTally toB t)).emit (.repeated p x.other h.bseq 0x2 t.pl)
    let cp : Copy := { place := p, endB := toB, pl := t.pl }
    let arrives := e.endUp r toward && (e.ring r).toEnd (p % 64) toward
    let inTime := e.openSeq (BitVec.ofNat 16 (Pl.get t.pl 2 16))
    let counts := fun (d : Dev) => d = a.modCell p (fun c => if c.hears x then c.rxCount x h else c)
    (s.dev.hasPlace p = true →
      ((a.cell p).tallyDue toB = none ∨ a.carries r toward = false ∨ h.crcOk = false → s.goes (.tallyInsert p toward ⟨fate, h⟩) counts) ∧
      (a.carries r toward = true → h.crcOk = true → (a.cell p).tallyDue toB = some t →
        s.goes (.tallyInsert p toward ⟨.lost, h⟩) (fun d => d = e) ∧
        (arrives = false → s.goes (.tallyInsert p toward ⟨fate, h⟩) (fun d => d = e)) ∧
        (arrives = true → inTime = true → s.goes (.tallyInsert p toward ⟨.good, h⟩) (fun d =>
          d.sh.tly.copies = cp :: s.dev.sh.tly.copies ∧ d.regs = s.dev.regs ∧ d.out = e.out)) ∧
        (arrives = true → inTime = false → s.goes (.tallyInsert p toward ⟨.good, h⟩) (fun d =>
          d.sh.tly.copies = s.dev.sh.tly.copies ∧ d = e.lateTally r toward)) ∧
        (arrives = true → s.goes (.tallyInsert p toward ⟨.late, h⟩) (fun d => d = e.lateTally r toward)) ∧
        (arrives = true → s.goes (.tallyInsert p toward ⟨.crcBad, h⟩) (fun d =>
          d.sh.tly.copies = s.dev.sh.tly.copies ∧ d = e.portCrc (e.rdOfEnd r toward) (e.portOfEnd r toward))))) ∧
    (s.dev.ofsCycle s.dev.tclose = some c → s.dev.clockRuns = true → s.dev.running (4 + s.dev.master) = true →
      (s.dev.sh.tly.closed ≤ c.cycle → s.goes .tallyClose (fun d => d.sh.tly.closed = c.cycle + 1 ∧
        (∀ id, id ∈ Store.keys d.sh.tly.merged ↔ id ∈ s.dev.enumerated) ∧ d.sh.tly.delivered = s.dev.sh.tly.delivered)) ∧
      (c.cycle < s.dev.sh.tly.closed → s.goes .tallyClose (fun d => d = s.dev))) ∧
    (s.dev.sh.clk.recent.find? (fun c => decide (c.cycle + 1 = s.dev.sh.tly.closed)) = some c →
      (s.dev.sh.tly.delivered ≤ c.cycle → s.goes .tallyDelivery (fun d => d.sh.tly.delivered = c.cycle + 1 ∧
        (∀ i, i < 4 → s.dev.powered i = true → ∃ n, (d.cd i).tallies.head? = some n ∧ n.cycle = c.cycle ∧ n.t0 = c.t0 ∧
          n.idig = c.dig ∧ n.cells = s.dev.sh.tly.merged ∧ (d.cd i).gensDone = true) ∧
        (∀ n, n < 2 → s.dev.running (4 + n) = true → (d.rd n).tok = some c.cycle))) ∧
      (c.cycle < s.dev.sh.tly.delivered → s.goes .tallyDelivery (fun d => d = s.dev)))

/-- STILE_VOTE votes the cycle whose deadline is due exactly once. Of the images of the counting lanes that are present
    with the tally master's digest it agrees on a drove part by the rule of R306: the one image of a single lane, two
    identical ones of two lanes, a part that at least two of three lanes hold; the droves and explicit slots that go out
    are those of an agreeing image, and the mirror part is agreed where the agreeing lanes hold the same, or two of three
    lanes do. What is sent follows R314 and R315: n is zero with agreement and else one more than before; with agreement
    the agreed part goes out, without it a hold for n up to HOLDMAX and then the safe pulse block, which goes out in HUB,
    START and BLOCK and under a safety demand in any case. What the lanes sent for the next cycle starts anew.
    ENERGY_POSTING adds the energy of an agreed mirror once to the entry its cycle belongs to, in units of 2^-32 J with
    carry into whole joules, and counts the cycle. INTERVAL_CLOSE closes the oldest interval whose last posting is in: its
    OPEN bit clears and vector 40 has its cause. (R305, R306, R307, R308, R309, R314, R315, R316, R480, R482, R484) -/
def Obligations.StileAndLedgerResults : Prop :=
  ∀ (s : State) (c : CycRec) (conv : Fin 2) (g : Image),
    let n := (s.dev.voters c.cycle).length
    let l := s.dev.eligible c
    let a := agreeing n l
    let like := fun (q : Nat × Image) => l.filter (fun e => e.2.sameDrove q.2)
    let nn := if a = [] then s.dev.sh.mode.stileN + 1 else 0
    let i := s.dev.entryOf conv.val g.cycle % 32
    let x := s.dev.ledg conv.val
    let slot := Store.get (fun _ => 0) g.energy conv.val
    let sum := sx 64 (s.dev.fget (SH_LEDG_W1_EJ conv.val i)) * 2 ^ 32 + s.dev.fget (SH_LEDG_W2_EFRAC conv.val i) +
      (sx 64 slot.toNat * 2 ^ 32 + bitsOf slot.toNat 64 32)
    (∀ q ∈ l, q.1 ∈ s.dev.voters c.cycle ∧ s.dev.ballot c.cycle q.1 = some q.2 ∧ q.2.idig = c.dig) ∧
    (∀ q ∈ a, ∀ q' ∈ a, n ≤ 3 → q ∈ l ∧ (1 < n → q.2.droves = q'.2.droves ∧ q.2.expl = q'.2.expl ∧ q.2.marker = q'.2.marker)) ∧
    (n = 1 → a = l) ∧ (n = 2 → (a ≠ [] ↔ l.length = 2 ∧ ∀ q ∈ l, ∀ q' ∈ l, q.2.sameDrove q'.2 = true)) ∧
    (n = 3 → (a ≠ [] ↔ ∃ q ∈ l, 2 ≤ (like q).length)) ∧
    (s.dev.ofsCycle s.dev.stile = some c → s.dev.clockRuns = true → (s.dev.powered 4 || s.dev.powered 5) = true →
      (s.dev.sh.tly.voted ≤ c.cycle → s.goes .stileVote (fun d => d.sh.tly.voted = c.cycle + 1 ∧ d.sh.mode.stileN = nn ∧
        d.sh.vote.launched = [] ∧ d.sh.vote.arrive = [] ∧ d.sh.vote.agreedMirror = (agreedMirror n a l).isSome ∧
        (a = [] → d.sh.vote.agreedDrove = none) ∧
        (∀ q rest, a = q :: rest → ∃ w, d.sh.vote.agreedDrove = some w ∧ w.droves = q.2.droves ∧ w.expl = q.2.expl ∧
          w.dvalid = q.2.dvalid ∧ w.cycle = q.2.cycle ∧
          ∀ m, agreedMirror n a l = some m → w.energy = m.energy ∧ w.eng = m.eng ∧ w.mst = m.mst) ∧
        (c.mode = 7 → d.sh.vote.substitute = 3) ∧ (c.mode = 0 ∨ c.mode = 5 → d.sh.vote.substitute = 2) ∧
        (1 ≤ c.mode → c.mode ≤ 4 → s.dev.fbit SH_VOTE_STAT_SPB = false → s.dev.sh.vote.safeSpb = false →
          s.dev.fget SH_SAFE_STAT_ACT = 0 → d.sh.vote.substitute =
            if nn = 0 then 0 else if nn ≤ s.dev.fget SH_VOTE_CFG_HOLDMAX then 1 else 2) ∧
        (1 ≤ c.mode → c.mode ≤ 4 → (s.dev.fbit SH_VOTE_STAT_SPB || s.dev.sh.vote.safeSpb ||
          decide (s.dev.fget SH_SAFE_STAT_ACT ≠ 0)) = true → d.sh.vote.substitute = 2))) ∧
      (c.cycle < s.dev.sh.tly.voted → s.goes .stileVote (fun d => d = s.dev))) ∧
    (s.dev.clockRuns = false ∨ (s.dev.powered 4 || s.dev.powered 5) = false → s.goes .stileVote (fun d => d = s.dev)) ∧
    (s.dev.sh.vote.agreedDrove = some g →
      (s.dev.sh.vote.agreedMirror = true → x.opened = true → x.posted ≤ g.cycle →
        s.goes (.energyPosting conv) (fun d => d.fget (SH_LEDG_W1_EJ conv.val i) = ux 64 (sum / 2 ^ 32) ∧
          d.fget (SH_LEDG_W2_EFRAC conv.val i) = ux 32 sum ∧ (d.ledg conv.val).posted = g.cycle + 1 ∧
          d.fget (SH_LEDG_W5_NCYC conv.val i) = min (s.dev.fget (SH_LEDG_W5_NCYC conv.val i) + 1)
            (2 ^ (SH_LEDG_W5_NCYC conv.val i).width - 1) ∧
          d.fget (SH_LEDG_W0_LABEL conv.val i) = s.dev.fget (SH_LEDG_W0_LABEL conv.val i))) ∧
      (s.dev.sh.vote.agreedMirror = false ∨ x.opened = false ∨ g.cycle < x.posted →
        s.goes (.energyPosting conv) (fun d => d = s.dev))) ∧
    (s.dev.sh.vote.agreedDrove = none → s.goes (.energyPosting conv) (fun d => d = s.dev)) ∧
    (x.closing = [] → s.goes (.intervalClose conv) (fun d => d = s.dev)) ∧
    (∀ q rest, x.closing = q :: rest →
      (q.1 < x.posted → s.goes (.intervalClose conv) (fun d => (d.ledg conv.val).closing = rest ∧
        d.fget (SH_LEDG_W5_OPEN conv.val (q.2 % 32)) = 0 ∧ d.fbit ⟨GLB_IRQ_STAT, 40, 1⟩ = true)) ∧
      (x.posted ≤ q.1 → s.goes (.intervalClose conv) (fun d => d = s.dev)))

/-- A write of a mode code joins the requests that wait for their decision (COMMISSION with the level at DEBUG_EN noted).
    MODE_DECISION with none waiting changes nothing; where one waits, the request against which no reason of R582 stands
    is accepted: BUSY is 1, REFD 0, and it waits for its t0; one against which some stand is refused with one of those
    reasons in WHY, REFD is 1, the accepted request (if any) and BUSY are as before, and the mode is the same. GRID at a
    standby is refused with WHY 0xB; elsewhere it is recorded, as a cause only in PRECHARGE and RUN, at once or, in a duty
    with a link to its partner, as a write that both packages apply from a cycle to come. A limit of RIDE-THROUGH that is
    reached brings BLOCK at the next t0 unless something of higher precedence waits; in any other mode it changes nothing.
    (R339, R575, R576, R577, R578, R579, R581, R582) -/
def Obligations.ModeRequestResults : Prop :=
  ∀ (s : State) (debugEn on : Bool) (m : Nat) (cause : Fin 3) (at_ : W64),
    s.goes .requestHub (fun d => d = s.dev.md (fun x => { x with modeReqs := x.modeReqs ++ [0] })) ∧
    s.goes .requestPrecharge (fun d => d = s.dev.md (fun x => { x with modeReqs := x.modeReqs ++ [2] })) ∧
    s.goes .requestRun (fun d => d = s.dev.md (fun x => { x with modeReqs := x.modeReqs ++ [3] })) ∧
    s.goes .requestBlock (fun d => d = s.dev.md (fun x => { x with modeReqs := x.modeReqs ++ [5] })) ∧
    s.goes (.requestCommission debugEn) (fun d => d.sh.mode.modeReqs = s.dev.sh.mode.modeReqs ++ [1] ∧ d.sh.pin.debugEn = debugEn ∧ d.regs = s.dev.regs) ∧
    (s.dev.sh.mode.modeReqs = [] → s.goes .modeDecision (fun d => d = s.dev)) ∧
    (s.dev.sh.mode.modeReqs = [m] →
      (s.dev.modeReasons m = [] → s.goes .modeDecision (fun d => d.sh.mode.modeReqs = [] ∧ d.sh.mode.modeAcc = some m ∧
        d.fget SH_MODE_BUSY = 1 ∧ d.fget SH_MODE_REFD = 0 ∧ d.mode = s.dev.mode)) ∧
      (s.dev.modeReasons m ≠ [] → s.goes .modeDecision (fun d => d.sh.mode.modeReqs = [] ∧
        d.sh.mode.modeAcc = s.dev.sh.mode.modeAcc ∧ d.fget SH_MODE_WHY ∈ s.dev.modeReasons m ∧ d.fget SH_MODE_REFD = 1 ∧
        d.fget SH_MODE_REFCNT = min (s.dev.fget SH_MODE_REFCNT + 1) 255 ∧ d.fget SH_MODE_BUSY = s.dev.fget SH_MODE_BUSY ∧
        d.mode = s.dev.mode))) ∧
    (s.dev.standby = true → s.goes (.grid on) (fun d => d.fget SH_MODE_WHY = 0xB ∧ d.fget SH_MODE_REFD = 1 ∧
      d.fget SH_MODE_CFG_GRID = s.dev.fget SH_MODE_CFG_GRID ∧ d.sh.mode = s.dev.sh.mode)) ∧
    (s.dev.standby = false → s.goes (.grid on) (fun d =>
      (s.dev.forwardLink = none → s.dev.winUp SH_MODE_CFG = true → d.fget SH_MODE_CFG_GRID = b2n on ∧
        d.sh.mode.gridCause = (on && (s.dev.sh.mode.gridCause || decide (s.dev.mode = 2) || decide (s.dev.mode = 3)))) ∧
      (s.dev.forwardLink ≠ none → d.regs = s.dev.regs ∧ d.sh.mode = s.dev.sh.mode ∧ d.sh.tw.fwd = s.dev.sh.tw.fwd ++
        [(s.dev.effCycle, SH_MODE_CFG, BitVec.ofNat 64 (putBits (s.dev.settled SH_MODE_CFG).toNat 0 1 (b2n on)))]))) ∧
    (s.dev.sh.mode.rtStart.find? (fun e => decide (e.1 = cause.val)) = some (cause.val, at_) → s.dev.mode = 4 →
      bitOf (s.dev.fget SH_MODE_RTC) cause.val = true →
      at_.toNat - 1 + s.dev.rtLimit cause.val * 1000000000 ≤ s.dev.sh.clk.raw.toNat →
      s.goes (.rideThroughLimit cause) (fun d => d.mode = 4 ∧ d.regs = s.dev.regs ∧
        d.sh.mode.modeNext = match s.dev.sh.mode.modeNext with
          | some (p, t) => if 3 < p then some (3, 5) else some (p, t)
          | none => some (3, 5))) ∧
    (s.dev.mode ≠ 4 → s.goes (.rideThroughLimit cause) (fun d => d = s.dev))

/-- LANE_ADMISSION admits the lowest-numbered die whose guard holds, and only that one. The guard asks a SPARE, a free
    stile input, and fewer than three dies of the two states; it gives COUNTING while the package is quiet, and else
    PROBATION in modes below 5 with fewer than three counting, an age of at most 4 and the running signature. The die gets
    a free stile input and probation count 0, the first counting one sets the running signature, and never more than three
    dies are of the two states together; with no guard held nothing changes. A gate opens only for an entering die, on an
    input that no other gate holds, with HURDLE_IN released in a standalone package, from the first stile far enough
    ahead. RETIRE takes its dies lowest first: a counting lane goes to OUT with its input freed, or is refused and
    counted; a lane that does not count stays as it is. VOTED_MIRROR_RECEIVE brings a die out of the vote a copy of the
    agreed mirror, as much of it as has arrived. A copy that is whole is committed once both ring dies agree on it, or
    from the one that has power: it waits to be loaded, its age is 0, and a die in OUT is SPARE; copies that differ are
    dropped. HURDLE_OUT of a twin pair releases after 2 periods without a refresh. (R35, R309, R317, R320, R321, R322,
    R323, R332) -/
def Obligations.LaneResults : Prop :=
  ∀ (s : State) (die : CDie) (src : RDie) (dies : BitVec 4) (g : Image) (n : Nat) (bad : Option (Nat × Blk)) (old : List Blk),
    let i := die.idx
    let lane := fun (d : Dev) (j : Nat) => d.lane j
    let inp := s.dev.fget (SH_LANE_STAT_INPUT i)
    let v := s.dev.sh.vote
    let room := s.dev.freeInputs ≠ [] ∧ s.dev.counting.length + s.dev.probing.length < 3
    let opens := (lane s.dev i = 3 ∨ lane s.dev i = 4) ∧ inp < 3 ∧ Store.get (fun _ => 0) v.gateOf i = 0 ∧
      (∀ e ∈ v.gateOf, e.2 ≠ inp + 1) ∧ (s.dev.twin = true ∨ s.dev.sh.pin.hurdleIn = true)
    let one := fun (e : Dev) (j : Nat) => if e.lane j ≠ 4 then e else if e.retireRefused then e.refuseWr SH_LANE_CTL else e.planned j
    let l := match bad with
      | some (k, b) => (g.mirror.take n).set k b
      | none => g.mirror.take n
    let whole := ∃ hd rest, l = hd :: rest ∧ Blk.get hd 2 16 = rest.length
    let commits := fun (d : Dev) => (d.cd i).mirPend = some l ∧ d.fget (SH_LANE_STAT_MAGE i) = 0 ∧
      lane d i = if lane s.dev i = 1 then 2 else lane s.dev i
    let keeps := fun (d : Dev) => (d.cd i).mirPend = (s.dev.cd i).mirPend ∧ lane d i = lane s.dev i
    let receives := s.dev.running i = true ∧ s.dev.powered (4 + src.idx) = true ∧ v.agreedMirror = true ∧
      v.agreedDrove = some g ∧ (lane s.dev i = 1 ∨ lane s.dev i = 2 ∨ lane s.dev i = 3)
    let recv := Instr.votedMirrorReceive die src ⟨n, bad⟩
    (s.dev.admitTo i = some 4 ↔ lane s.dev i = 2 ∧ room ∧ s.dev.quiet = true) ∧
    (s.dev.admitTo i = some 3 ↔ lane s.dev i = 2 ∧ room ∧ s.dev.quiet = false ∧ s.dev.mode < 5 ∧ s.dev.counting.length < 3 ∧
      s.dev.fget (SH_LANE_STAT_MAGE i) ≤ 4 ∧ s.dev.vsigOf i = s.dev.fget SH_VOTE_SIG_RUN) ∧
    ((∀ j, j < 4 → s.dev.admitTo j = none) → s.goes .laneAdmission (fun d => d = s.dev)) ∧
    (∀ st, s.dev.admitTo i = some st → (∀ j, j < i → s.dev.admitTo j = none) → s.goes .laneAdmission (fun d =>
      lane d i = st ∧ (st = 3 ∨ st = 4) ∧ d.fget (SH_LANE_STAT_PCNT i) = 0 ∧ d.fget (SH_LANE_STAT_INPUT i) ∈ s.dev.freeInputs ∧
      (s.dev.counting = [] → d.fget SH_VOTE_SIG_RUN = s.dev.vsigOf i) ∧
      (∀ j, j < 4 → j ≠ i → lane d j = lane s.dev j) ∧ d.counting.length + d.probing.length ≤ 3)) ∧
    (s.dev.present i = true →
      (opens → s.goes (.gateOpen die) (fun d => Store.get (fun _ => 0) d.sh.vote.gateOf i = inp + 1 ∧ d.regs = s.dev.regs ∧
        Store.get (fun _ => 0) d.sh.vote.gateFrom i = s.dev.fromStile)) ∧
      (¬ opens → s.goes (.gateOpen die) (fun d => d = s.dev))) ∧
    s.goes (.retire dies) (fun d => d = [0, 1, 2, 3].foldl (fun e j => if dies.getLsbD j then one e j else e) s.dev) ∧
    (s.dev.retireRefused = false → lane s.dev i = 4 → s.goes (.retire (BitVec.ofNat 4 (2 ^ i))) (fun d =>
      lane d i = 1 ∧ d.fget (SH_LANE_STAT_INPUT i) = 3 ∧ d.fget (SH_LANE_STAT_PCNT i) = 0 ∧
      Store.get (fun _ => 0) d.sh.vote.gateOf i = 0 ∧ ∀ j, j < 4 → j ≠ i → lane d j = lane s.dev j)) ∧
    (s.dev.retireRefused = true ↔ (s.dev.mode = 2 ∨ s.dev.mode = 3 ∨ s.dev.mode = 4) ∧ s.dev.counting.length ≤ 2) ∧
    (s.dev.retireRefused = true → lane s.dev i = 4 → s.goes (.retire (BitVec.ofNat 4 (2 ^ i))) (fun d =>
      d = s.dev.refuseWr SH_LANE_CTL)) ∧
    (lane s.dev i ≠ 4 → s.goes (.retire (BitVec.ofNat 4 (2 ^ i))) (fun d => d = s.dev)) ∧
    (s.dev.present i = true → s.dev.present (4 + src.idx) = true →
      (receives →
        (s.dev.powered (4 + (1 - src.idx)) = false → (whole → s.goes recv commits) ∧ (¬ whole → s.goes recv keeps)) ∧
        (s.dev.powered (4 + (1 - src.idx)) = true →
          (∀ old, (s.dev.cd i).mirRx = none ∨ (s.dev.cd i).mirRx = some (src.idx, old) → s.goes recv (fun d =>
            (d.cd i).mirRx = some (src.idx, l) ∧ keeps d ∧ d.regs = s.dev.regs)) ∧
          ((s.dev.cd i).mirRx = some (1 - src.idx, old) →
            (old = l → whole → s.goes recv (fun d => (d.cd i).mirRx = none ∧ commits d)) ∧
            (old ≠ l ∨ ¬ whole → s.goes recv (fun d => (d.cd i).mirRx = none ∧ keeps d))))) ∧
      (s.dev.running i = false ∨ v.agreedMirror = false ∨ v.agreedDrove = none ∨ lane s.dev i = 4 →
        s.goes recv (fun d => d = s.dev))) ∧
    (s.dev.twin = true → s.dev.sh.clk.t0raw.toNat + (2 * s.dev.periodNs).toNat ≤ s.dev.sh.clk.raw.toNat →
      s.goes .hurdleOutRelease (fun d => d.sh.pin.hurdleOut = false ∧ d.sh.tw.refreshed = false ∧ d.regs = s.dev.regs)) ∧
    (s.dev.twin = false ∨ s.dev.sh.clk.raw.toNat < s.dev.sh.clk.t0raw.toNat + (2 * s.dev.periodNs).toNat →
      s.goes .hurdleOutRelease (fun d => d = s.dev))

/-- At a referee a heartbeat is kept as the newest of its package with no beat missing, and a missing one adds one to that
    package's count and is no longer fresh at the second; a package that is none ignores both. The first package heard is
    granted. The grant moves to the other package, the other line driven low first, exactly when the holder has missed
    HBMISS beats while its link is up, or its newest heartbeat reports no agreement, a single lane or a request, and the
    other is READY and fresh. In a twin pair the grant low makes the role STANDBY, releases HURDLE_OUT at once and the
    crook is TWIN; high, the role is DUTY, with own droves from the first stile far enough ahead if HURDLE_IN is released.
    A level as before changes nothing. GRANT_STATE keeps what the referee tells of the partner, shows PREADY and READY,
    and brings REFOK with the sixteenth good frame. HANDREQ at the duty with the referee link up and a READY partner sets
    the request flag and clears HREF, at any other package of the pair it sets HREF. HURDLE_IN shows in HIN, and its
    release lets own droves begin. (R331, R332, R340, R341, R344, R461, R523) -/
def Obligations.RefereeAndDuty : Prop :=
  ∀ (s : State) (pkg : Fin 2) (b : Beat) (granted level : Bool) (partner : Option Beat),
    let kept := s.dev.setRefPkg pkg.val { beat := some b, missed := 0, fresh := true, linkDown := false }
    let old := s.dev.refPkg pkg.val
    let lost := s.dev.setRefPkg pkg.val { old with missed := old.missed + 1, fresh := old.fresh && decide (old.missed = 0) }
    let asks := fun (x : RefPkg) => match x.beat with
      | some b => (b.noAgree || b.single || b.req) && decide (x.missed = 0)
      | none => false
    let bad := fun (d : Dev) (p : Nat) => (decide (min (max (s.dev.fget SH_TWIN_CFG_HBMISS) 1) 8 ≤ (d.refPkg p).missed) &&
      !(d.refPkg p).linkDown) || asks (d.refPkg p)
    let ready := fun (d : Dev) (p : Nat) => match (d.refPkg p).beat with
      | some b => b.ready && (d.refPkg p).fresh && decide ((d.refPkg p).missed = 0)
      | none => false
    let next := fun (d : Dev) => match s.dev.sh.tw.grantTo with
      | none => if (d.refPkg pkg.val).fresh then some pkg.val else none
      | some h => if bad d h && ready d (1 - h) then some (1 - h) else some h
    let drives := fun (d : Dev) => ∀ w, d.sh.tw.grantTo = some w → s.dev.sh.tw.grantTo ≠ some w →
      ∃ later more, d.out = later ++ .referee w true :: .referee (1 - w) false :: (more ++ s.dev.out)
    (s.dev.referee = false → s.goes (.heartbeat pkg b) (fun d => d = s.dev) ∧ s.goes (.heartbeatMissing pkg) (fun d => d = s.dev)) ∧
    (s.dev.referee = true →
      s.goes (.heartbeat pkg b) (fun d => d.sh.tw.refPkgs = kept.sh.tw.refPkgs ∧ d.regs = s.dev.regs ∧
        d.sh.tw.grantTo = next kept ∧ drives d) ∧
      s.goes (.heartbeatMissing pkg) (fun d => d.sh.tw.refPkgs = lost.sh.tw.refPkgs ∧
        d.sh.tw.grantTo = next lost ∧ drives d)) ∧
    (s.dev.twin = true →
      (s.dev.sh.pin.rfLevel = level → s.goes (.refereeGrant level) (fun d => d = s.dev)) ∧
      (s.dev.sh.pin.rfLevel = true → s.goes (.refereeGrant false) (fun d => d.role = 2 ∧ d.sh.pin.hurdleOut = false ∧
        d.crook = 4 ∧ d.fget SH_TWIN_STAT_GRANT = 0 ∧ d.sh.pin.rfLevel = false ∧ d.fbit ⟨GLB_IRQ_STAT, 41, 1⟩ = true)) ∧
      (s.dev.sh.pin.rfLevel = false → s.goes (.refereeGrant true) (fun d => d.role = 1 ∧ d.fget SH_TWIN_STAT_GRANT = 1 ∧
        d.sh.pin.rfLevel = true ∧ d.fbit ⟨GLB_IRQ_STAT, 41, 1⟩ = true ∧
        d.sh.tw.dutyFrom = if s.dev.sh.pin.hurdleIn = true then s.dev.fromStile else s.dev.sh.tw.dutyFrom)) ∧
      (s.dev.powered 4 = true → s.goes (.grantState granted partner) (fun d => d.sh.tw.partner = partner ∧
        d.fget SH_TWIN_STAT_PREADY = (match partner with | some b => b2n b.ready | none => 0) ∧ d.role = s.dev.role ∧
        d.fget SH_TWIN_STAT_READY = b2n d.readyNow ∧
        (15 ≤ Store.get (fun _ => 0) (s.dev.rd 0).twGood 1 → d.fbit SH_TWIN_STAT_REFOK = true))) ∧
      (s.dev.powered 4 = false → s.goes (.grantState granted partner) (fun d => d = s.dev)) ∧
      (s.dev.role = 1 → s.dev.fbit SH_TWIN_STAT_REFOK = true → s.dev.fbit SH_TWIN_STAT_PREADY = true →
        s.goes .handreq (fun d => d.fget SH_TWIN_STAT_HREF = 0 ∧ d.sh.tw.reqFlag = true ∧ d.role = 1)) ∧
      (s.dev.role ≠ 1 ∨ s.dev.fbit SH_TWIN_STAT_REFOK = false ∨ s.dev.fbit SH_TWIN_STAT_PREADY = false →
        s.goes .handreq (fun d => d = s.dev.fset SH_TWIN_STAT_HREF 1)) ∧
      s.goes (.hurdleInChange level) (fun d => d.sh.pin.hurdleIn = level ∧ d.fget SH_TWIN_STAT_HIN = b2n level ∧
        d.sh.tw.dutyFrom = if level = true ∧ s.dev.sh.pin.hurdleIn = false ∧ s.dev.role = 1 ∧ s.dev.sh.pin.rfLevel = true
          then s.dev.fromStile else s.dev.sh.tw.dutyFrom)) ∧
    (s.dev.twin = false → s.goes (.refereeGrant level) (fun d => d = s.dev) ∧ s.goes .handreq (fun d => d = s.dev) ∧
      s.goes (.grantState granted partner) (fun d => d = s.dev) ∧
      s.goes (.hurdleInChange level) (fun d => d = s.dev.pin (fun x => { x with hurdleIn := level })))

/-- A direct link that comes up shows in LINKS with a latency of half the round trip; one that goes down no longer shows,
    and is reported; the link to the referee shows in REFOK; at a referee a link is that of its package. TWIN_TIME keeps
    the latency, and at a standby in TWIN hands its offset to the crook. A relayed drove at a standby whose check fails
    counts at its port and is not sent. A good one of a known cycle is compared once per fold with the standby's own
    agreed drove, a difference counts, and it goes into the package's own end of the ring exactly if that end may launch
    the cycle, the fold is on the ring and its instant has not passed. A block of the twin mirror of the latest cycle is
    kept under its index, one of a newer cycle starts the mirror anew, an older one is dropped. A forwarded write waits
    for its cycle, and cycle settings become pending for it. A relayed request for a ring that exists is taken up at
    package A under a credit of the cell, and one that finds none is not sent; a relayed response frees the tag of its
    generation in the pool that issued it, and one of no such tag counts as late. Frames of a reserved type are counted
    and dropped. What comes over a link that is not up changes nothing. (R334, R335, R337, R338, R339, R342, R344, R472,
    R516, R523) -/
def Obligations.TwinLinkResults : Prop :=
  ∀ (s : State) (link : Fin 2) (any : Fin 3) (trip : Nat) (theta : Option Int) (ring index : Nat) (pl : Payload) (b : Blk) (v : W64)
    (rd : RDie) (t : Fin 2) (addr : Nat) (ok : Bool) (seq : W16) (c : CycRec),
    let up := fun (d : Dev) (x : Nat) => bitOf (d.fget SH_TWIN_STAT_LINKS) x
    let x := link.val
    let fold := bitsOf pl.toNat 4 4
    let id := Pl.get pl 0 14
    let tag := Pl.get pl 4 10
    let n := s.dev.rdOfTag tag
    let again := bitOf (Pl.get pl 3 8) 1
    let due := c.t0.toNat + 10 * cfgStile c.cfg + 15 + ceilDiv s.dev.dtw 10
    let seen := s.dev.sh.tw.relayed.any (fun e => decide (e.1 = fold) && decide (Pl.get e.2 2 16 = Pl.get pl 2 16))
    let differs := match s.dev.sh.vote.agreedDrove with
      | some g => decide (g.cycle = c.cycle) && !(g.dvalid.getLsbD fold && decide (Store.get plZero g.droves fold &&& droveBits = pl))
      | none => false
    (s.dev.referee = false →
      (s.dev.hasLink x = true →
        s.goes (.twinLinkUp link.castSucc trip) (fun d => up d x = true ∧ d.tlinkOf x = 5 * trip ∧
          d.fbit (RDn_TP_ERR_UP x 0) = true ∧ up d (1 - x) = up s.dev (1 - x)) ∧
        (up s.dev x = true → s.goes (.twinLinkDown link.castSucc) (fun d => up d x = false ∧
          d.fbit (RDn_TP_ERR_UP x 0) = false ∧ up d (1 - x) = up s.dev (1 - x) ∧
          (s.dev.role = 2 ∨ s.dev.role = 1 → d.role = s.dev.role))) ∧
        (up s.dev x = false → s.goes (.twinLinkDown link.castSucc) (fun d => d = s.dev))) ∧
      (s.dev.hasLink 0 = true →
        s.goes (.twinLinkUp 2 trip) (fun d => d.fbit SH_TWIN_STAT_REFOK = true ∧ d.fbit (RDn_TP_ERR_UP 0 1) = true) ∧
        (s.dev.fbit SH_TWIN_STAT_REFOK = true → s.goes (.twinLinkDown 2) (fun d =>
          d.fbit SH_TWIN_STAT_REFOK = false ∧ d.fbit (RDn_TP_ERR_UP 0 1) = false)) ∧
        (s.dev.fbit SH_TWIN_STAT_REFOK = false → s.goes (.twinLinkDown 2) (fun d => d = s.dev))) ∧
      (s.dev.twin = false → s.goes (.twinLinkUp any trip) (fun d => d = s.dev) ∧ s.goes (.twinLinkDown any) (fun d => d = s.dev))) ∧
    (s.dev.referee = true → s.dev.powered 4 = true →
      s.goes (.twinLinkUp link.castSucc trip) (fun d => (d.refPkg x).linkDown = false ∧ d.fbit (RDn_TP_ERR_UP 0 x) = true ∧
        d.sh.tw.grantTo = s.dev.sh.tw.grantTo) ∧
      s.goes (.twinLinkDown link.castSucc) (fun d => (d.refPkg x).linkDown = true ∧ d.fbit (RDn_TP_ERR_UP 0 x) = false ∧
        d.sh.tw.grantTo = s.dev.sh.tw.grantTo)) ∧
    (s.dev.linkUp x = true →
      (theta = none ∨ s.dev.standby = false ∨ s.dev.crook ≠ 4 → s.goes (.twinTime link trip theta) (fun d =>
        d.tlinkOf x = 5 * trip ∧ d.sh.crk = s.dev.sh.crk)) ∧
      (s.dev.standby = true → s.dev.crook = 4 → ∀ th, theta = some th → s.goes (.twinTime link trip theta) (fun d =>
        let i := clampRate (sx 32 (s.dev.fget TIM_RATE_I) - s.dev.fget TIM_SERVO_KI * th)
        d.tlinkOf x = 5 * trip ∧ d.fget TIM_JUMP_PEND = 0 ∧ d.sh.crk.crookRaw = d.sh.clk.raw ∧ d.fget TIM_RATE_I = ux 32 i ∧
        d.sh.crk.ratePend = some (BitVec.ofInt 32 (clampRate (i - s.dev.fget TIM_SERVO_KP * th))))) ∧
      (s.dev.standby = true → s.dev.hasRing ring = true →
        s.goes (.relayedDrove link ring pl false) (fun d => d = s.dev.finc (RDn_TP_ERR_CRC x 0)) ∧
        (s.dev.sh.clk.recent.find? (fun c => decide (c.cycle % 65536 = Pl.get pl 2 16)) = none →
          s.goes (.relayedDrove link ring pl true) (fun d => d = s.dev)) ∧
        (s.dev.sh.clk.recent.find? (fun c => decide (c.cycle % 65536 = Pl.get pl 2 16)) = some c →
          s.goes (.relayedDrove link ring pl true) (fun d =>
            d.fget SH_TWIN_STAT_CMPDIFF = (if (!seen && differs) = true then min (s.dev.fget SH_TWIN_STAT_CMPDIFF + 1)
              (2 ^ SH_TWIN_STAT_CMPDIFF.width - 1) else s.dev.fget SH_TWIN_STAT_CMPDIFF) ∧
            ((s.dev.mayLaunch ring s.dev.ownEnd c = true ∧ s.dev.now.toNat ≤ due ∧ fold ∈ s.dev.ringFolds ring) →
              ∃ n, d.out = .block (.ringEnd ring s.dev.ownEnd) n 0x1 pl :: s.dev.out) ∧
            (¬ (s.dev.mayLaunch ring s.dev.ownEnd c = true ∧ s.dev.now.toNat ≤ due ∧ fold ∈ s.dev.ringFolds ring) →
              d.out = s.dev.out)))) ∧
      (s.dev.follows s.dev.sh.tly.delivered = true →
        s.goes (.twinMirrorBlock link index ⟨seq, b⟩) (fun d => d.regs = s.dev.regs ∧
          d.sh.tw.twMirror = (if s.dev.sh.tw.twMirror = [] ∨ 0 < seqDiff seq s.dev.sh.tw.twSeq then [(index, b)]
            else if seq = s.dev.sh.tw.twSeq then Store.insert s.dev.sh.tw.twMirror index b else s.dev.sh.tw.twMirror))) ∧
      (s.dev.follows s.dev.sh.tly.delivered = false → s.goes (.twinMirrorBlock link index ⟨seq, b⟩) (fun d => d = s.dev))) ∧
    (s.dev.linkUp x = false → s.goes (.twinTime link trip theta) (fun d => d = s.dev) ∧
      s.goes (.twinMirrorBlock link index ⟨seq, b⟩) (fun d => d = s.dev) ∧
      (s.dev.hasRing ring = true → s.goes (.relayedDrove link ring pl ok) (fun d => d = s.dev))) ∧
    (s.dev.standby = true → s.dev.linksUp ≠ [] →
      (addr ≠ TIM_CYC_CFG → s.goes (.forwardedConfigurationWrite addr ⟨v, seq⟩) (fun d =>
        d.sh.tw.fwd = s.dev.sh.tw.fwd ++ [(s.dev.cycleOf seq, addr, v)] ∧ d.mode = s.dev.mode ∧
        d.fget SH_MODE_BUSY = if addr = SH_MODE then 1 else s.dev.fget SH_MODE_BUSY)) ∧
      s.goes (.forwardedConfigurationWrite TIM_CYC_CFG ⟨v, seq⟩) (fun d => d.fget TIM_CYC_STAT_PEND = 1 ∧
        d.sh.clk.cfgPend = some (cfgBits v, max (s.dev.cycleOf seq) s.dev.nextCyc) ∧
        d.sh.clk.cfgInForce = s.dev.sh.clk.cfgInForce)) ∧
    (s.dev.standby = false ∨ s.dev.linksUp = [] →
      s.goes (.forwardedConfigurationWrite addr ⟨v, seq⟩) (fun d => d = s.dev)) ∧
    (s.dev.twin = true → up s.dev x = true →
      (s.dev.ownsEnd .a = true → s.dev.hasRing (id / 64) = true → s.dev.powered (4 + s.dev.tagRd id) = true →
        (again = false → s.dev.cellThere id = true → (s.dev.cend id).wait = false → (s.dev.cend id).credits ≠ 0 →
          s.goes (.relayedTxnReq link pl) (fun d => (d.cend id).credits = (s.dev.cend id).credits - 1 ∧
            ∃ q, (1024 + tag, q) ∈ (d.rd (s.dev.tagRd id)).tags ∧ q.owner = .partner pl ∧
              q.gen = bitsOf (Pl.get pl 4 16) 10 4)) ∧
        (again = false → s.dev.cellThere id = false ∨ (s.dev.cend id).wait = true ∨ (s.dev.cend id).credits = 0 →
          s.goes (.relayedTxnReq link pl) (fun d => d = s.dev)) ∧
        (again = true → s.goes (.relayedTxnReq link pl) (fun d => d.ends = s.dev.ends ∧ d.regs = s.dev.regs))) ∧
      (s.dev.powered (4 + n) = true →
        (∀ e, (s.dev.rd n).tags.find? (fun e => decide (e.1 = tag) && decide (e.2.gen = bitsOf (Pl.get pl 4 16) 10 4)) = some e →
          s.goes (.relayedTxnRsp link pl) (fun d => ∀ e ∈ (d.rd n).tags, e.1 ≠ tag)) ∧
        ((s.dev.rd n).tags.find? (fun e => decide (e.1 = tag) && decide (e.2.gen = bitsOf (Pl.get pl 4 16) 10 4)) = none →
          s.goes (.relayedTxnRsp link pl) (fun d => d = s.dev.finc (RDn_TXN_STAT_LATE n (s.dev.ringIx (id / 64))))))) ∧
    (s.dev.twin = false ∨ up s.dev x = false → s.goes (.relayedTxnReq link pl) (fun d => d = s.dev) ∧
      s.goes (.relayedTxnRsp link pl) (fun d => d = s.dev)) ∧
    (s.dev.present (4 + rd.idx) = true → s.dev.powered (4 + rd.idx) = true →
      s.goes (.reservedTwinFrame rd t) (fun d => d = s.dev.finc (RDn_TP_ERR_RSVD rd.idx t.val)))

/-- A block that reaches a locked port of a powered cell is repeated unchanged, with its BSEQ, toward the other port; one
    with a CRC error is counted at its port and not used. A version-2 cell whose time is valid takes a DROVE block of its
    fold, of a cycle above the floor of R615, reserved bits left out: the first copy of a cycle is kept, in time or late
    as its apply instant lies 20 ns to 163.84 us ahead with fewer than four waiting, and a later copy that differs is
    noted in DMIS and not kept; a drove of a reserved subtype or fold is counted and not used. A version-1 cell takes
    EXPLICIT blocks in the same way and no droves. A BLOCK block with SUB 1 blocks the cell at once, turning its outputs
    off unless a row above it holds them, bars the cycles up to its SEQL, and ends modulation; with another SUB it does
    nothing. A port without lock hears nothing. (R68, R85, R86, R87, R105, R106, R107, R469, R496, R497, R614, R615) -/
def Obligations.CellDroveBlocks : Prop :=
  ∀ (s : State) (p : Place) (x : CPort) (pl : Payload) (h : Held) (rx : Rx),
    let c := s.dev.cell p
    let a := c.adjust (pl &&& droveBits)
    let b := c.adjust pl
    let inTime := fun (l : List Held) (q : Payload) => decide (20 ≤ c.untilApply q) && decide (c.untilApply q ≤ 163840) &&
      decide ((l.filter (fun h => !h.late && !h.done)).length < 4)
    let same := fun (l : List Held) (q : Payload) => l.find? (fun h => decide (plSeq h.pl = plSeq q))
    let sent := fun (ty : BitVec 4) (d : Dev) => d.out = .repeated p x.other rx.bseq ty pl :: s.dev.out ∧ d.regs = s.dev.regs
    let up1 := fun (f : Field) => min (c.fget f + 1) (2 ^ f.width - 1)
    let counted := fun (ty : BitVec 4) (d : Dev) => sent ty d ∧ (d.cell p).arm = c.arm ∧ (d.cell p).pwm = c.pwm ∧
      (d.cell p).fget (SRB_RP_CRC_N x.idx) = up1 (SRB_RP_CRC_N x.idx)
    let sub := bitsOf (Pl.get pl 0 8) 0 4
    let fold := bitsOf (Pl.get pl 0 8) 4 4
    s.dev.hasPlace p = true →
      (c.hears x = false → s.goes (.droveReceive p x pl rx) (fun d => d = s.dev) ∧
        s.goes (.explicitReceive p x pl rx) (fun d => d = s.dev) ∧ s.goes (.blockAct p x pl rx) (fun d => d = s.dev)) ∧
      (c.hears x = true → rx.crcOk = false →
        s.goes (.droveReceive p x pl rx) (counted 0x1) ∧ s.goes (.explicitReceive p x pl rx) (counted 0xB) ∧
        s.goes (.blockAct p x pl rx) (counted 0x8)) ∧
      (c.hears x = true → rx.crcOk = true →
        (rx.follows = false → sub = 2 → fold < 12 → s.goes (.droveReceive p x pl rx) (fun d =>
          (d.cell p).fget (SRB_RP_SYNC_BGAP x.idx) = up1 (SRB_RP_SYNC_BGAP x.idx))) ∧
        (c.v1 = false → sub ≠ 2 ∨ 12 ≤ fold → s.goes (.droveReceive p x pl rx) (fun d => sent 0x1 d ∧ (d.cell p).arm = c.arm ∧
          (rx.follows = true → (d.cell p).fget (SRB_RP_SYNC_BGAP x.idx) = up1 (SRB_RP_SYNC_BGAP x.idx)))) ∧
        (c.v1 = false → sub = 2 → fold < 12 → c.tm.everTime = true → c.aboveFloor pl = true → fold = c.fold →
          (same c.arm.droves a = none → s.goes (.droveReceive p x pl rx) (fun d => sent 0x1 d ∧
            ∃ n ∈ (d.cell p).arm.droves, n.pl = a ∧ n.done = false ∧ n.late = !inTime c.arm.droves a)) ∧
          (same c.arm.droves a = some h → s.goes (.droveReceive p x pl rx) (fun d => sent 0x1 d ∧
            (d.cell p).arm.droves = c.arm.droves ∧ (d.cell p).arm.dmis = (c.arm.dmis || decide (h.pl ≠ a))))) ∧
        (c.v1 = false → sub = 2 → fold < 12 → c.tm.everTime = false ∨ c.aboveFloor pl = false ∨ fold ≠ c.fold →
          s.goes (.droveReceive p x pl rx) (fun d => sent 0x1 d ∧ (d.cell p).arm = c.arm)) ∧
        (c.v1 = true → s.goes (.droveReceive p x pl rx) (fun d => sent 0x1 d ∧ (d.cell p).arm = c.arm)) ∧
        (c.v1 = true → c.tm.everTime = true → c.aboveFloor pl = true →
          (same c.arm.expl b = none → s.goes (.explicitReceive p x pl rx) (fun d => sent 0xB d ∧
            ∃ n ∈ (d.cell p).arm.expl, n.pl = b ∧ n.done = false ∧ n.late = !inTime c.arm.expl b)) ∧
          (same c.arm.expl b = some h → s.goes (.explicitReceive p x pl rx) (fun d => sent 0xB d ∧
            (d.cell p).arm.expl = c.arm.expl))) ∧
        (c.v1 = false ∨ c.tm.everTime = false ∨ c.aboveFloor pl = false →
          s.goes (.explicitReceive p x pl rx) (fun d => sent 0xB d ∧ (d.cell p).arm = c.arm)) ∧
        (sub = 1 → s.goes (.blockAct p x pl rx) (fun d => sent 0x8 d ∧
          (d.cell p).arm.ins = .block ∧ (d.cell p).arm.modSt = none ∧ (4 ≤ c.row → (d.cell p).pwm.gates = 0) ∧
          (∀ n ∈ (d.cell p).arm.droves, n.done = true ∨ 0 < seqDiff (plSeq n.pl) (plSeq pl)) ∧
          (d.cell p).arm.seqFloor = some (laterSeq c.arm.seqFloor (plSeq pl)))) ∧
        (sub ≠ 1 → s.goes (.blockAct p x pl rx) (fun d => sent 0x8 d ∧ (d.cell p).arm = c.arm)))

/-- At a locked port of a powered cell, of a block with a good CRC: a LAUNCH of an end port sets the local time to the
    time it gives with the delay kept for its end, the time is valid from then on, and a correction that drift cannot
    explain counts as a step; with no delay kept, or launched by a cell, it gives no time. A LOOP addressed to the cell
    queues one ECHO, another queues nothing. A STEP for a cycle not yet begun is kept, a later one is not. SLEEP and WAKE
    set and clear the state of the stream named. An ASSIGN with the cell's serial gives it its ID and the ring version. A
    QUERY is answered with a REPORT toward the querying end and goes on with HOP one higher; on the port of the other end
    it shows the ports reversed. An IDLE without grant is filled from the queue of the other port, TIME before CAPS before
    the rest, and passes on when that is empty; a grant to the cell is filled with up to three stream entries, or a record
    block, or nothing; a tally slot with the tally that is due. A request with the next RSEQ and a free buffer is accepted
    and answered, the one answered last is answered again, one out of turn or for another cell is only repeated. A block
    with a CRC error is counted and only repeated. A lost forwarded clock is noted, with REGEN while the data lane has
    lock on a ring of version 2.0 and else with loss of lock; its return clears both. (R248, R470, R471, R492, R498, R503,
    R507, R508, R509, R513, R520, R538) -/
def Obligations.CellLinkBlocks : Prop :=
  ∀ (s : State) (p : Place) (x : CPort) (pl : Payload) (turn : Nat) (h : Rx),
    let c := s.dev.cell p
    let n := fun (d : Dev) => d.cell p
    let dly := c.fget (if bitOf (Pl.get pl 0 8) 6 then SRB_TD_DLYB_D else SRB_TD_DLYA_D)
    let endB := bitOf (Pl.get pl 1 8) 0
    let want : CPort := if endB then .d else .u
    let q := Pl.get pl 2 8
    let last := c.fget SRB_RP_NEG_RSEQ
    let toMe := Pl.get pl 0 14 = c.id
    let mine := c.lnk.rspQ.filter (fun e => decide (e.1 = x.other))
    let first := match mine.find? (fun e => decide (e.2.1 = 0x7)) with
      | some e => some e
      | none => match mine.find? (fun e => decide (e.2.1 = 0x9)) with
        | some e => some e
        | none => mine.head?
    let grant := bitOf pl.toNat 15
    let tal := bitOf pl.toNat 14
    let ents := c.hub.gq ++ c.hub.pq
    let out := fun (ty : BitVec 4) (z : Payload) (d : Dev) => d.out = .repeated p x.other h.bseq ty z :: s.dev.out
    let up1 := fun (f : Field) => min (c.fget f + 1) (2 ^ f.width - 1)
    let errs := fun (d : Dev) => (n d).fget (SRB_RP_CRC_N x.idx) = up1 (SRB_RP_CRC_N x.idx) ∧ (n d).tm = c.tm ∧ (n d).lnk = c.lnk
    s.dev.hasPlace p = true →
      (c.hears x = true → h.crcOk = false →
        s.goes (.timeLaunch p x ⟨pl, h⟩) errs ∧ s.goes (.timeLoop p x ⟨pl, h⟩ turn) errs ∧ s.goes (.timeSleep p x ⟨pl, h⟩) errs ∧
        s.goes (.timeWake p x ⟨pl, h⟩) errs ∧ s.goes (.capsQuery (.cell p x) ⟨pl, h⟩) (fun d => errs d ∧ out 0x9 pl d) ∧
        s.goes (.idleReceive p x ⟨pl, h⟩) (fun d => errs d ∧ out 0x0 pl d) ∧
        s.goes (.txnReq p x pl h) (fun d => errs d ∧ out 0x3 pl d)) ∧
      (c.hears x = true → h.crcOk = true →
        (bitOf (Pl.get pl 0 8) 5 = false → dly ≠ 0 → s.goes (.timeLaunch p x ⟨pl, h⟩) (fun d =>
          (n d).tm.time = launchTime pl dly ∧ (n d).tm.everTime = true ∧ (n d).fget SRB_TD_RATE_RATE = Pl.get pl 16 32 ∧
          out 0x7 (c.timeRepeat x pl) d ∧ (n d).fget SRB_TD_STAT_STEPS =
            if (c.tm.everTime && c.stepped (launchTime pl dly)) = true then up1 SRB_TD_STAT_STEPS else c.fget SRB_TD_STAT_STEPS)) ∧
        (bitOf (Pl.get pl 0 8) 5 = true ∨ dly = 0 → s.goes (.timeLaunch p x ⟨pl, h⟩) (fun d =>
          (n d).tm = c.tm ∧ out 0x7 (c.timeRepeat x pl) d)) ∧
        (Pl.get pl 2 14 = c.id ∨ Pl.get pl 2 14 = 0x3FFF → s.goes (.timeLoop p x ⟨pl, h⟩ turn) (fun d =>
          (n d).lnk.rspQ = c.lnk.rspQ ++ [(x, 0x7, echoBlock pl c.id turn)] ∧ out 0x7 (c.timeRepeat x pl) d)) ∧
        (Pl.get pl 2 14 ≠ c.id → Pl.get pl 2 14 ≠ 0x3FFF → s.goes (.timeLoop p x ⟨pl, h⟩ turn) (fun d =>
          (n d).lnk.rspQ = c.lnk.rspQ)) ∧
        (c.tm.everTime = false ∨ 0 < seqDiff (BitVec.ofNat 16 (Pl.get pl 24 16)) c.tm.k → s.goes (.timeStep p ⟨pl, h⟩) (fun d =>
          (n d).tm.delta = some (BitVec.ofNat 64 (Pl.get pl 26 64), BitVec.ofNat 16 (Pl.get pl 24 16)) ∧
          (n d).tm.time = c.tm.time ∧ (n d).fget SRB_TD_STEP_PEND = 1)) ∧
        (c.tm.everTime = true → seqDiff (BitVec.ofNat 16 (Pl.get pl 24 16)) c.tm.k ≤ 0 → s.goes (.timeStep p ⟨pl, h⟩) (fun d =>
          (n d).tm = c.tm)) ∧
        s.goes (.timeSleep p x ⟨pl, h⟩) (fun d => out 0x7 (c.timeRepeat x pl) d ∧
          (if bitOf (Pl.get pl 0 8) 6 then (n d).lnk.sleepB else (n d).lnk.sleepA) = true) ∧
        s.goes (.timeWake p x ⟨pl, h⟩) (fun d => out 0x7 (c.timeRepeat x pl) d ∧
          (if bitOf (Pl.get pl 0 8) 6 then (n d).lnk.sleepB else (n d).lnk.sleepA) = false) ∧
        (x = want → Pl.get pl 4 48 = c.serial.toNat → s.goes (.capsAssign p ⟨pl, h⟩) (fun d => out 0x9 pl d ∧
          (n d).id = Pl.get pl 12 14 ∧ (n d).fget SRB_RP_NEG_RVER = Pl.get pl 10 8 ∧
          (n d).fget SRB_CELL_RV = if 0x20 ≤ Pl.get pl 10 8 then 2 else 1)) ∧
        (x = want → Pl.get pl 4 48 ≠ c.serial.toNat → s.goes (.capsAssign p ⟨pl, h⟩) (fun d => out 0x9 pl d ∧ (n d).id = c.id)) ∧
        s.goes (.capsQuery (.cell p x) ⟨pl, h⟩) (fun d =>
          d.out.head? = some (.repeated p want.other h.bseq 0x9 (Pl.put pl 2 8 (q + 1))) ∧
          (∃ z, (n d).lnk.rspQ = c.lnk.rspQ ++ [(want, 0x9, z)] ∧ Pl.get z 0 8 = 2 ∧ Pl.get z 2 8 = q ∧
            Pl.get z 3 8 = Pl.get pl 3 8 ∧ Pl.get z 4 48 = c.serial.toNat) ∧
          (endB = false → (n d).fget SRB_RP_NEG_HOPA = q % 2 ^ SRB_RP_NEG_HOPA.width) ∧
          (n d).fbit (SRB_RP_STAT_REV 0) = (c.fbit (SRB_RP_STAT_REV 0) != decide (x ≠ want))) ∧
        (grant = false →
          (first = none → s.goes (.idleReceive p x ⟨pl, h⟩) (fun d => out 0x0 pl d ∧ (n d).lnk = c.lnk)) ∧
          (∀ e, first = some e → s.goes (.idleReceive p x ⟨pl, h⟩) (fun d => out e.2.1 e.2.2 d ∧
            (n d).lnk.rspQ = c.lnk.rspQ.erase e ∧ (e.2.1 ≠ 0x4 → (n d).lnk.txns = c.lnk.txns) ∧
            (e.2.1 = 0x4 → ∀ t ∈ (n d).lnk.txns, Pl.get t.pl 2 8 ≠ Pl.get e.2.2 2 8)))) ∧
        (grant = true → tal = false →
          (¬ toMe → s.goes (.idleReceive p x ⟨pl, h⟩) (fun d => out 0x0 pl d ∧ (n d).hub = c.hub)) ∧
          (toMe → ents ≠ [] → s.goes (.idleReceive p x ⟨pl, h⟩) (fun d => (n d).hub.gq ++ (n d).hub.pq = ents.drop 3 ∧
            ∃ z, out 0x5 z d ∧ Pl.get z 0 14 = c.id ∧ ∀ i, i < 3 → Pl.get z (4 + 16 * i) 128 = (ents.getD i 0).toNat)) ∧
          (toMe → ents = [] → ∀ r rest, c.hub.recQ = r :: rest → s.goes (.idleReceive p x ⟨pl, h⟩) (fun d =>
            out 0x6 r d ∧ (n d).hub.recQ = rest)) ∧
          (toMe → ents = [] → c.hub.recQ = [] → s.goes (.idleReceive p x ⟨pl, h⟩) (fun d => out 0x0 0 d))) ∧
        (grant = true → tal = true → ∀ i, c.slotOf (decide (x = .u)) = some i →
          let due := (toMe ∨ Pl.get pl 0 14 = 0x3FFF) ∧ 100 * c.tm.t0 + i % (1000 * max c.period 1) ≤ 100 * c.tm.time + 400
          (∀ t, due → h.follows = true → c.tallyDue (decide (x = .u)) = some t →
            s.goes (.idleReceive p x ⟨pl, h⟩) (fun d => out 0x2 t.pl d)) ∧
          (¬ due → s.goes (.idleReceive p x ⟨pl, h⟩) (fun d => out 0x0 pl d ∧ (n d).lnk = c.lnk))) ∧
        (¬ toMe → s.goes (.txnReq p x pl h) (fun d =>
          d = (s.dev.modCell p (fun c => c.rxCount x h)).emit (.repeated p x.other h.bseq 0x3 pl))) ∧
        (toMe → (c.lnk.rseqAny = false ∨ q ≠ last) → q = (last + 1) % 256 → c.lnk.txns.length < 4 →
          s.goes (.txnReq p x pl h) (fun d => (n d).fget SRB_RP_NEG_RSEQ = q ∧ (n d).lnk.rseqAny = true ∧ out 0x3 pl d ∧
            ∃ r, (n d).lnk.rsp = some r ∧ (x, 0x4, r) ∈ (n d).lnk.rspQ ∧ Pl.get r 2 8 = q ∧ Pl.get r 0 14 = c.id ∧
              Pl.get r 4 16 = Pl.get pl 4 16 ∧ Pl.get r 6 16 = Pl.get pl 6 16)) ∧
        (toMe → c.lnk.rseqAny = true → q = last → ∀ r, c.lnk.rsp = some r → s.goes (.txnReq p x pl h) (fun d =>
          (n d).lnk = { c.lnk with rspQ := c.lnk.rspQ ++ [(x, 0x4, r)] } ∧ out 0x3 pl d)) ∧
        (toMe → (c.lnk.rseqAny = false ∨ q ≠ last) → q ≠ (last + 1) % 256 ∨ 4 ≤ c.lnk.txns.length →
          s.goes (.txnReq p x pl h) (fun d => (n d).lnk = c.lnk ∧ out 0x3 pl d))) ∧
      (c.hears x = false → s.goes (.timeLoop p x ⟨pl, h⟩ turn) (fun d => d = s.dev) ∧ s.goes (.idleReceive p x ⟨pl, h⟩) (fun d => d = s.dev) ∧
        s.goes (.txnReq p x pl h) (fun d => d = s.dev) ∧ s.goes (.timeSleep p x ⟨pl, h⟩) (fun d => d = s.dev) ∧
        s.goes (.timeWake p x ⟨pl, h⟩) (fun d => d = s.dev) ∧ s.goes (.capsQuery (.cell p x) ⟨pl, h⟩) (fun d => d = s.dev)) ∧
      (c.powered = true →
        (c.portLock x = true → c.fget SRB_RP_NEG_RVER = 0x20 → s.cellGoes p (.forwardedClockFailure p x) (fun m =>
          m.tm.rxClk.getLsbD x.idx = false ∧ m.fget (SRB_RP_STAT_REGEN x.idx) = 1 ∧ m.portLock x = true)) ∧
        (c.portLock x = false ∨ c.fget SRB_RP_NEG_RVER ≠ 0x20 → c.fget (SRB_RP_STAT_REGEN x.idx) = 0 →
          2 ≤ c.fget (SRB_RP_STAT_STATE x.idx) → c.fget (SRB_RP_STAT_STATE x.idx) ≤ 5 →
          s.goes (.forwardedClockFailure p x) (fun d => (n d).tm.rxClk.getLsbD x.idx = false ∧ (n d).portLock x = false ∧
            (n d).fget (SRB_RP_STAT_STATE x.idx) = 1)) ∧
        s.cellGoes p (.forwardedClockReturn p x) (fun m => m.tm.rxClk.getLsbD x.idx = true ∧
          m.fget (SRB_RP_STAT_REGEN x.idx) = 0))

/-- At a powered port (a package port must be enabled and have REFCLK): a forwarded clock at the port's own rate brings it
    from ABSENT to DETECT, or to MISWIRED where the lanes are crossed; a package port ignores one at the other rate, and a
    cell port changes to half rate at the first half-rate clock. Clock lock, block lock, a good TRAIN whose identity fits,
    and 16 TRAINs in a row with RXOK bring it on to CLOCK, ALIGN, IDENT and LINKED, each from the state before it alone; a
    package port that is LINKED has its block stream. A TRAIN whose identity does not fit makes the port MISWIRED, one
    with a CRC error leaves its state. Loss of lock brings a port in CLOCK to LINKED back to DETECT without lock, and a
    cell whose LINKED port did not sleep launches the stream onward; it changes no port in another state. A port without
    power, or not enabled, ignores them all. (R53, R73, R500, R505, R506, R507, R517, R686) -/
def Obligations.PortBringUp : Prop :=
  ∀ (s : State) (q : RxPort) (half miswired : Bool) (h : Rx) (pl : Payload),
    let st := s.dev.portState q
    let fits := match q with
      | .pkg rd i => decide (half = (s.dev.takeRate (s.dev.endOfPort rd.idx i).1).half (s.dev.endOfPort rd.idx i).1)
      | .cell p _ => half || !(s.dev.cell p).lnk.half
    let locked := fun (d : Dev) => match q with
      | .pkg rd i => d.fbit (RDn_RP_STAT_LOCK rd.idx i)
      | .cell p x => (d.cell p).portLock x
    let streams := fun (d : Dev) => match q with
      | .pkg rd i => (d.line (.ringEnd (s.dev.endOfPort rd.idx i).1 (s.dev.endOfPort rd.idx i).2)).isSome = true
      | .cell _ _ => True
    let onward := fun (d : Dev) => match q with
      | .pkg _ _ => True
      | .cell p x => st = 5 → s.dev.portSleeps q = false → (d.cell p).fbit (SRB_RP_STAT_LAUNCH x.other.idx) = true
    let at_ := fun (n : Nat) (d : Dev) => d.portState q = n
    s.dev.hasPort q = true →
      (s.dev.portOn q = false → s.goes (.receiverDetect q half miswired) (fun d => d = s.dev) ∧
        s.goes (.clockLock q) (fun d => d = s.dev) ∧ s.goes (.blockLock q) (fun d => d = s.dev) ∧
        s.goes (.lockLoss q) (fun d => d = s.dev) ∧ s.goes (.train q pl h) (fun d => d = s.dev)) ∧
      (s.dev.portOn q = true →
        (1 < st → s.goes (.receiverDetect q half miswired) (fun d => d = s.dev)) ∧
        (st ≤ 1 → fits = true → s.goes (.receiverDetect q half false) (at_ 1) ∧ s.goes (.receiverDetect q half true) (at_ 7)) ∧
        (st ≤ 1 → fits = false → s.goes (.receiverDetect q half miswired) (at_ st)) ∧
        (st = 1 → s.goes (.clockLock q) (at_ 2)) ∧ (st ≠ 1 → s.goes (.clockLock q) (fun d => d = s.dev)) ∧
        (st = 2 → s.goes (.blockLock q) (fun d => at_ 3 d ∧ locked d = true)) ∧
        (st ≠ 2 → s.goes (.blockLock q) (fun d => d = s.dev)) ∧
        (h.crcOk = true →
          (st = 3 → s.dev.identity q pl = none → s.goes (.train q pl h) (at_ 4)) ∧
          (st = 3 → s.dev.identity q pl ≠ none → s.goes (.train q pl h) (at_ 7)) ∧
          (st = 4 → (s.dev.trainCount q (bitOf (Pl.get pl 9 8) 0)).1 < 16 → s.goes (.train q pl h) (at_ 4)) ∧
          (st = 4 → 16 ≤ (s.dev.trainCount q (bitOf (Pl.get pl 9 8) 0)).1 → s.goes (.train q pl h) (fun d => at_ 5 d ∧ streams d)) ∧
          (st = 5 → s.goes (.train q pl h) (at_ 5))) ∧
        (h.crcOk = false → 3 ≤ st → st ≤ 5 → s.goes (.train q pl h) (at_ st)) ∧
        (st < 3 ∨ 5 < st → s.goes (.train q pl h) (fun d => d = s.dev)) ∧
        (2 ≤ st → st ≤ 5 → s.goes (.lockLoss q) (fun d => at_ 1 d ∧ locked d = false ∧ onward d)) ∧
        (st < 2 ∨ 5 < st → s.goes (.lockLoss q) (fun d => d = s.dev)))

/-- An enumeration starts on a ring that is not live with a LINKED end, at a package that is no referee: the ring is in
    ENUM with no cell, CHAIN is taken for this bring-up on a part with one ring die, and each linked end sends a QUERY;
    otherwise nothing happens. A REPORT of a powered cell of the ring is kept. RING_UP of a measured ring makes it live:
    SPLIT, UP, or CHAIN, with its cells, and a whole ring's order of serials is stored. A NOTICE 1 of an enumerated cell
    places a cut at the lost port's hop, a NOTICE 3 keeps the hop's delay while a break stands there. RING_REPAIR of a
    measured hop, if the joined ring fits, lets the hop join at the t0 for which the slot instants are written, one hop at
    a time, and otherwise leaves the ring and sets GROW. An end's QUERY that comes back at its own ring's other end is in
    order; any other shows crossed ends, and the ring stays DOWN. SLEEP and WAKE requests outside their conditions are
    refused or do nothing. At a ring end a reserved block counts as a block gap, and a block with a CRC error only counts.
    (R41, R42, R329, R497, R507, R508, R509, R511, R519, R520, R521, R525) -/
def Obligations.RingEnumerationResults : Prop :=
  ∀ (s : State) (r h : Nat) (e : End) (pl : Payload) (c : Nat × Enum) (rd : RDie) (i : Nat) (ty : BitVec 4) (rx : Rx),
    let x := s.dev.ring r
    let serial := Pl.get pl 4 48
    let portD := bitOf (Pl.get pl 17 8) 0
    let some_ := s.dev.powered 4 = true ∨ s.dev.powered 5 = true
    let idle := s.dev.live r = true ∨ s.dev.linkedEnds r = [] ∨ s.dev.ringState r = 6 ∨ s.dev.role = 3
    let here := s.dev.endRx r e rx
    let atPort := s.dev.hasPort (.pkg rd i) = true ∧ s.dev.endUp (s.dev.endOfPort rd.idx i).1 (s.dev.endOfPort rd.idx i).2 = true
    let ownQuery := fun (e' : End) => Pl.get pl 3 8 = r ∧ bitOf (Pl.get pl 1 8) 0 = decide (e' = .a)
    s.dev.hasRing r = true →
      (idle → s.goes (.enumerationStart r) (fun d => d = s.dev)) ∧
      (¬ idle → s.goes (.enumerationStart r) (fun d => d.ringState r = 1 ∧ (d.ring r).cells = [] ∧ (d.ring r).reports = [] ∧
        (d.ring r).up = false ∧
        (d.ring r).chain = (Config.singleRd s.dev.variant && s.dev.fbit (s.dev.rf RDn_RING_CTL_CHAIN r)) ∧
        ∀ e ∈ s.dev.linkedEnds r, ∃ n, .block (.ringEnd r e) n 0x9
          (Pl.mk [(0, 8, 1), (1, 8, b2n (decide (e = .b))), (3, 8, r)]) ∈ d.out)) ∧
      (s.dev.endHeard r e = false → s.goes (.capsReport r e ⟨pl, rx⟩) (fun d => d = s.dev) ∧
        s.goes (.capsNotice r e ⟨pl, rx⟩) (fun d => d = s.dev)) ∧
      (s.dev.endHeard r e = true → rx.crcOk = false → s.goes (.capsReport r e ⟨pl, rx⟩) (fun d => d = here) ∧
        s.goes (.capsNotice r e ⟨pl, rx⟩) (fun d => d = here)) ∧
      (∀ p, s.dev.ringState r = 1 → s.dev.endHeard r e = true → rx.crcOk = true → bitsOf (Pl.get pl 0 8) 0 4 = 2 →
        Pl.get pl 3 8 = r → s.dev.placeBySerial r serial = some p → s.goes (.capsReport r e ⟨pl, rx⟩) (fun d =>
          (rx.follows = true → d.regs = s.dev.regs) ∧ ∃ n ∈ (d.ring r).reports, n.place = p ∧ n.serial.toNat = serial ∧
            (if e = .a then n.hopA else n.hopB) = some (Pl.get pl 2 8))) ∧
      (s.dev.ringState r ≠ 1 → s.dev.endHeard r e = true → s.goes (.capsReport r e ⟨pl, rx⟩) (fun d => d = here)) ∧
      (some_ → s.dev.ringState r = 2 → s.dev.measured r = true → s.goes (.ringUp r) (fun d => (d.ring r).up = true ∧
        (d.ring r).cells = x.cells ∧ d.ringState r = (if x.chain then 5 else if x.whole then 3 else 4) ∧
        (x.whole = true → Store.get (fun _ => []) d.nv.orders r = (reportsA x.reports).map (fun q => q.2.serial)) ∧
        (x.whole = false → d.nv.orders = s.dev.nv.orders))) ∧
      (s.dev.ringState r ≠ 2 ∨ s.dev.measured r = false → s.goes (.ringUp r) (fun d => d = s.dev)) ∧
      (s.dev.endHeard r e = true → rx.crcOk = true → x.up = true → bitsOf (Pl.get pl 0 8) 0 4 = 4 →
        x.cells.find? (fun c => decide (c.2.serial.toNat = serial)) = some c →
          (Pl.get pl 16 8 = 1 → s.goes (.capsNotice r e ⟨pl, rx⟩) (fun d => (x.hopAt c.2.place portD, !portD) ∈ (d.ring r).cuts)) ∧
          (Pl.get pl 16 8 = 3 → x.hopAt c.2.place portD ∈ x.breaks → s.goes (.capsNotice r e ⟨pl, rx⟩) (fun d =>
            Store.get (fun _ => 0) (d.ring r).ready (x.hopAt c.2.place portD) = Pl.get pl 20 32 + 1 ∧ d.regs = here.regs))) ∧
      (h ≤ 64 → ∀ q, x.ready.find? (fun e => decide (e.1 = h)) = some q →
        (x.up = false ∨ h ∈ x.deadHops ∨ s.dev.ringState r = 5 ∨ x.joining ≠ none → s.goes (.ringRepair r h) (fun d => d = s.dev)) ∧
        (x.up = true → h ∉ x.deadHops → s.dev.ringState r ≠ 5 → x.joining = none →
          let t := s.dev.setRing r (s.dev.joined r h (q.2 - 1))
          ((s.dev.admitted r = false ∨ (t.admits r).1 = true) → s.goes (.ringRepair r h) (fun d =>
            (d.ring r).joining = some (h, q.2 - 1, s.dev.slotsFrom) ∧ (d.ring r).cuts = x.cuts ∧ (d.ring r).cells = x.cells)) ∧
          (s.dev.admitted r = true → (t.admits r).1 = false → some_ → s.goes (.ringRepair r h) (fun d =>
            d.ring r = x ∧ d.fbit (d.rf RDn_RPATH_GROW r) = true)))) ∧
      (h ≤ 64 → x.ready.find? (fun e => decide (e.1 = h)) = none → s.goes (.ringRepair r h) (fun d => d = s.dev)) ∧
      (s.dev.hasPort (.pkg rd i) = true → s.dev.portOn (.pkg rd i) = true → s.dev.fbit (RDn_RP_STAT_LOCK rd.idx i) = true →
        12 ≤ ty.toNat →
          (rx.crcOk = true → s.goes (.reservedBlock rd i ⟨ty, rx⟩) (fun d => d = (((s.dev.portRx rd.idx i rx).finc
            (RDn_RP_ERR_BGAP rd.idx i)).report .corr .port (pkgPort rd.idx i) 1 0))) ∧
          (rx.crcOk = false → s.goes (.reservedBlock rd i ⟨ty, rx⟩) (fun d => d = s.dev.portRx rd.idx i rx))) ∧
      (∀ e', atPort → s.dev.endOfPort rd.idx i = (r, e') →
        (rx.crcOk = false ∨ ownQuery e' ∨ s.dev.live r = true → s.goes (.capsQuery (.pkg rd i) ⟨pl, rx⟩) (fun d =>
          d = s.dev.portRx rd.idx i rx)) ∧
        (rx.crcOk = true → ¬ ownQuery e' → s.dev.live r = false → s.goes (.capsQuery (.pkg rd i) ⟨pl, rx⟩) (fun d =>
          d.fget (RDn_RP_STAT_FIND rd.idx i) = 5 ∧ d.ringState r = 0 ∧ (d.ring r).cells = []))) ∧
      (s.dev.fbit (s.dev.rf (slpCtl e) r) = false →
        (s.dev.mode ≠ 0 ∨ s.dev.live r = false ∨ s.dev.fbit (s.dev.rf (slpCtl (endOther e)) r) = true ∨
            s.dev.fget (s.dev.rf RDn_RING_STAT_RVER r) ≠ 0x20 →
          s.goes (.sleepRequest r e) (fun d => d = s.dev.refuseWr (RDn_RING_CTL (s.dev.ringRd r) (s.dev.ringIx r)))) ∧
        (s.dev.mode = 0 → s.dev.live r = true → s.dev.fget (s.dev.rf RDn_RING_STAT_RVER r) = 0x20 →
          s.dev.fbit (s.dev.rf (slpCtl (endOther e)) r) = false → some_ → s.goes (.sleepRequest r e) (fun d =>
            d.fbit (d.rf (slpCtl e) r) = true ∧ d.fbit (d.rf (slpStat e) r) = true)) ∧
        s.goes (.wakeRequest r e) (fun d => d = s.dev)) ∧
      (s.dev.fbit (s.dev.rf (slpCtl e) r) = true → some_ → s.goes (.wakeRequest r e) (fun d =>
        d.fbit (d.rf (slpCtl e) r) = false) ∧ s.goes (.sleepRequest r e) (fun d => d = s.dev))

/-- A response with a good CRC at a locked end whose tag and generation stand in the pool of its ring die, within 100 us
    of the first send, ends that tag and gives its answer to the owner: a slot shows it, a task holds it or leaves its
    wait for it; after that tick the tag ends as timed out, and the response counts as late, as does one of no tag. One
    with a CRC error is only counted at its port, and an end without lock hears nothing. A response to a relayed request
    ends the relayed tag and goes back over the link. A retry of a tag in use with fewer than two retries, 30 us after its
    latest send, counts it and sends the request again with RETRY; of a tag not in use, or retried twice, it does nothing.
    A timeout, once 100 us have passed, ends the tag and its owner learns it; with the tag free nothing happens. GO of a
    slot that is busy is counted; of a free slot it issues the request under a free tag or answers at once with ST = 3,
    the reason, and the cause of vector 43; a write without GO only writes the slot's fields. (R54, R55, R58, R394, R512,
    R514, R516, R647, R648, R649, R650) -/
def Obligations.TransactionResults : Prop :=
  ∀ (s : State) (r : Nat) (e : End) (pl : Payload) (h : Rx) (tag : Fin 1024) (g : Tag) (i : Fin 64) (v : W64),
    let n := s.dev.rdOfEnd r e
    let m := s.dev.rdOfTag tag.val
    let key := Pl.get pl 4 10
    let gen := bitsOf (Pl.get pl 4 16) 10 4
    let got := s.dev.endRx r e h
    let held := fun (d : Dev) (n : Nat) (t : Nat) => (d.rd n).tags.any (fun q => decide (q.1 = t))
    let relayed := (s.dev.rd n).tags.find? (fun q => decide (1024 ≤ q.1) && decide (Pl.get q.2.req 0 14 = Pl.get pl 0 14) &&
      decide (Pl.get q.2.req 2 8 = Pl.get pl 2 8))
    let up1 := fun (f : Field) => min (s.dev.fget f + 1) (2 ^ f.width - 1)
    let slotHas := fun (d : Dev) (k st data : Nat) => d.fget (GLB_TXS_RES_DONE k) = 1 ∧ d.fget (GLB_TXS_RES_BUSY k) = 0 ∧
      d.fget (GLB_TXS_RES_ST k) = st ∧ d.fget (GLB_TXS_RES_D k) = data ∧ d.fbit ⟨GLB_IRQ_STAT, 43, 1⟩ = true
    let taskHas := fun (d : Dev) (c : CDie) (t tag gen : Nat) (a : W64) =>
      ∀ q, ((s.dev.cd c.idx).task t).txns.find? (fun q => decide (q.tag = tag) && decide (q.gen = gen) && q.done.isNone) = some q →
        let rest := ((s.dev.cd c.idx).task t).txns.filter (fun r => decide (r ≠ q))
        (q.waits = false → ((d.cd c.idx).task t).txns = { q with done := some a } :: rest) ∧
        (q.waits = true → ((d.cd c.idx).task t).txns = rest)
    let learns := fun (d : Dev) (owner : TxnOwner) (tag gen st data : Nat) (a : W64) =>
      (∀ k < 64, owner = .slot k → slotHas d k st data) ∧ (∀ c t, owner = .task c t → taskHas d c t tag gen a)
    let w := s.dev.plainWrite (GLB_TXS_REQ i.val) v
    let go := (w.fset (GLB_TXS_RES_DONE i.val) 0).fset (GLB_TXS_RES_BUSY i.val) 1
    let id := go.fget (GLB_TXS_REQ_ID i.val)
    let why := go.txnReasons false id (go.fget (GLB_TXS_REQ_OFS i.val))
    let at_ : End := if g.toB then .b else .a
    let again := Pl.put g.req 3 8 (Pl.get g.req 3 8 % 2 + 2)
    (s.dev.hasRing r = true →
      (s.dev.endUp r e = false → s.goes (.txnRsp r e ⟨pl, h⟩) (fun d => d = s.dev)) ∧
      (s.dev.endUp r e = true → h.crcOk = false → s.goes (.txnRsp r e ⟨pl, h⟩) (fun d => d = got)) ∧
      (s.dev.endUp r e = true → h.crcOk = true →
        (∀ q, relayed = some q → s.goes (.txnRsp r e ⟨pl, h⟩) (fun d => held d n q.1 = false ∧
          d.out = (if s.dev.linkOf (Pl.get pl 0 14 / 64) ∈ s.dev.linksUp then
            [.twin (s.dev.linkOf (Pl.get pl 0 14 / 64)) 4 s.dev.seq (twinPl pl)] else []) ++ got.out)) ∧
        (relayed = none → ∀ q, (s.dev.rd n).tags.find? (fun q => decide (q.1 = key) && decide (q.2.gen = gen)) = some q →
          (s.dev.rdSince n q.2.sentAt ≤ 100000 → s.goes (.txnRsp r e ⟨pl, h⟩) (fun d => held d n key = false ∧
            (d.rd n).tagGen = (s.dev.rd n).tagGen ∧
            let data := if bitOf (Pl.get q.2.req 3 8) 0 then 0 else Pl.get pl 8 32
            learns d q.2.owner key gen (if Pl.get pl 3 3 = 0 then 0 else 1) data
              (pack [(34, 1, b2n (decide (Pl.get pl 3 3 ≠ 0))), (32, 1, 1), (0, 32, data)]))) ∧
          (100000 < s.dev.rdSince n q.2.sentAt → s.goes (.txnRsp r e ⟨pl, h⟩) (fun d => held d n key = false ∧
            learns d q.2.owner key gen 2 0 (pack [(33, 1, 1)]) ∧
            d.fget (RDn_TXN_STAT_LATE n (s.dev.ringIx r)) = up1 (RDn_TXN_STAT_LATE n (s.dev.ringIx r))))) ∧
        (relayed = none → (s.dev.rd n).tags.find? (fun q => decide (q.1 = key) && decide (q.2.gen = gen)) = none →
          s.goes (.txnRsp r e ⟨pl, h⟩) (fun d => d = got.finc (RDn_TXN_STAT_LATE n (s.dev.ringIx r)))))) ∧
    ((s.dev.rd m).tags.find? (fun q => decide (q.1 = tag.val)) = none →
      s.goes (.txnRetry tag) (fun d => d = s.dev) ∧ s.goes (.tagTimeout tag) (fun d => d = s.dev)) ∧
    ((s.dev.rd m).tags.find? (fun q => decide (q.1 = tag.val)) = some (tag.val, g) →
      (2 ≤ g.retries → s.goes (.txnRetry tag) (fun d => d = s.dev)) ∧
      (g.retries < 2 → s.goes (.txnRetry tag) (fun d =>
        (d.rd m).tags.find? (fun q => decide (q.1 = tag.val)) =
          some (tag.val, { g with retries := g.retries + 1, lastAt := (d.rd m).raw }) ∧
        d.fget (RDn_TXN_STAT_RETRY m (s.dev.ringIx g.ring)) = up1 (RDn_TXN_STAT_RETRY m (s.dev.ringIx g.ring)) ∧
        (s.dev.clockRuns = true → s.dev.running (4 + m) = true → 30000 ≤ d.rdSince m g.lastAt) ∧
        (s.dev.ownsEnd at_ = true → s.dev.sends d [(.ringEnd g.ring at_, 0x3, again)]) ∧
        (s.dev.ownsEnd at_ = false → d.out = (if s.dev.linkOf g.ring ∈ s.dev.linksUp then
          [.twin (s.dev.linkOf g.ring) 3 s.dev.seq (twinPl again)] else []) ++ s.dev.out))) ∧
      s.goes (.tagTimeout tag) (fun d => held d m tag.val = false ∧ (d.rd m).tagGen = (s.dev.rd m).tagGen ∧
        (s.dev.clockRuns = true → s.dev.running (4 + m) = true → 100000 < d.rdSince m g.sentAt) ∧
        learns d g.owner tag.val g.gen 2 0 (pack [(33, 1, 1)]))) ∧
    (v.getLsbD 63 = false → s.goes (.transactionSlotGo i v) (fun d => d = w)) ∧
    (v.getLsbD 63 = true → w.fbit (GLB_TXS_RES_BUSY i.val) = true → s.goes (.transactionSlotGo i v) (fun d =>
      d = w.finc GLB_HOST_SLOTREF)) ∧
    (v.getLsbD 63 = true → w.fbit (GLB_TXS_RES_BUSY i.val) = false →
      (why = [] → s.goes (.transactionSlotGo i v) (fun d => d.fget (GLB_TXS_RES_BUSY i.val) = 1 ∧
        d.fget (GLB_TXS_RES_DONE i.val) = 0 ∧ ∃ t ∈ s.dev.freeTags (s.dev.tagRd id), ∃ q,
          (d.rd (s.dev.tagRd id)).tags.find? (fun q => decide (q.1 = t)) = some (t, q) ∧ q.owner = .slot i.val ∧
          q.gen = ((s.dev.rd (s.dev.tagRd id)).gen t + 1) % 16 ∧ q.retries = 0)) ∧
      (why ≠ [] → s.goes (.transactionSlotGo i v) (fun d => slotHas d i.val 3 0 ∧
        d.fget (GLB_TXS_RES_WHY i.val) ∈ why)))

/-- A stream request of the powered tally master that its checks admit shows reason 0 and stands, one they refuse shows
    its reason, counts and changes no stream; a release of a unit that is named ends its stream; at another ring die, or
    without GO, only the fields are written. A FIFO read of 8 to 64 bytes in whole words returns the visible words in
    order and takes exactly those; any other size pops nothing, returns zeros and counts; at a FIFO without power it reads
    zeros, and pointers that differ reset it. A peek reads the same and leaves everything, and reads zeros while debug
    access is closed. A HUB block at a locked end delivers its entries, one with a CRC error counts. An end port that may
    launch sends the droves of the cycle voted last in order, once. A TIME LAUNCH carries the station time at which it
    starts, and a STEP and a LOOP go out, at a LINKED end that does not sleep; a cell sends LAUNCH only on a stream it
    launches, with its own time. An ECHO of an enumerated cell gives its delay, half the round trip less the turn. A TEST
    block that does not arrive on a whole ring makes it SPLIT and sets its diagnostic bit; when every end hears again the
    ring is UP. (R78, R333, R387, R471, R503, R529, R534, R544, R551, R556, R618, R659) -/
def Obligations.StreamAndRingEndResults : Prop :=
  ∀ (s : State) (r : Nat) (e : End) (pl : Payload) (h : Rx) (f : Fin 64) (bytes addr : Nat) (rd : RDie) (v : W64) (c : CycRec)
    (p : Place) (x : CPort) (sub : BitVec 4) (id : BitVec 14) (trip : Nat) (u : Nat × Enum) (arrived : Bool),
    let n := s.dev.fifoRd f.val
    let i := s.dev.fifoLoc f.val
    let q := (s.dev.rd n).fifo i
    let m := min (bytes / 8) q.visible
    let sizeOk := 0 < bytes ∧ bytes % 8 = 0 ∧ bytes ≤ 64
    let zeros := List.replicate (bytes / 8) (0 : W64)
    let up1 := fun (f : Field) => min (s.dev.fget f + 1) (2 ^ f.width - 1)
    let peeked := addr - 0x8000000
    let fp := (peeked - 0x2000000) / 0x10000
    let k := s.dev.rdOfEnd r e
    let key := 2 * r + b2n (decide (e = .b))
    let got := s.dev.endRx r e h
    let req := s.dev.plainWrite (RDn_HUB_REQ rd.idx) v
    let aq := req.fbit (RDn_HUB_REQ_AQ rd.idx)
    let cid := req.fget (RDn_HUB_REQ_ID rd.idx)
    let inp := req.fget (RDn_HUB_REQ_INP rd.idx)
    let six := if aq then aqStreamIx inp else cellStreamIx cid inp
    let new : Stream :=
      { mode := req.fget (RDn_HUB_REQ_MODE rd.idx), d := req.fget (RDn_HUB_REQ_D rd.idx),
        co := req.fbit (RDn_HUB_REQ_CO rd.idx), grant := req.fbit (RDn_HUB_REQ_CLASS rd.idx),
        fifo := req.fget (RDn_HUB_REQ_FIFO rd.idx), susp := false }
    let named := if aq then inp < 192 else inp < 8 ∧ cid < 8448
    let refused := fun (why : Nat) (d : Dev) => d.fget (RDn_HUB_RES_REASON rd.idx) = why ∧ d.streams = s.dev.streams ∧
      d.fget (RDn_HUB_RES_REFCNT rd.idx) = up1 (RDn_HUB_RES_REFCNT rd.idx)
    let eb := 64 * b2n (decide (e = .b))
    let rp := s.dev.rd (s.dev.rdOfEnd r e)
    let line := fun (d : Dev) (q : Sender) (n : Nat) => (d.line q).map (fun l => l.startOf (s.dev.tblk (lineRing q)) n)
    let linked := s.dev.ownsEnd e = true ∧ s.dev.endPortState r e = 5 ∧ s.dev.fbit (s.dev.rf (slpCtl e) r) = false
    let whole := (s.dev.ring r).up = true ∧ (s.dev.ring r).breaks = [] ∧ (s.dev.ring r).dark = none ∧
      (s.dev.ringState r = 3 ∨ s.dev.ringState r = 4)
    let bad := (if arrived then [] else [(r, decide (e = .b))]) ++
      s.dev.sh.safe.testBad.filter (fun y => decide (y ≠ (r, decide (e = .b))))
    (s.dev.powered (4 + n) = false → s.goes (.fifoRead f bytes) (fun d => d = s.dev.answer zeros)) ∧
    (s.dev.powered (4 + n) = true → sizeOk →
      (q.ptrBad = false → q.visible ≤ q.words.length → s.goes (.fifoRead f bytes) (fun d =>
        d.rdata = q.words.take m ++ List.replicate (bytes / 8 - m) 0 ∧
        (d.rd n).fifo i = { q with words := q.words.drop m, visible := (q.words.drop m).length } ∧
        (q.visible = q.words.length → d.regs = s.dev.regs))) ∧
      (q.ptrBad = true → s.goes (.fifoRead f bytes) (fun d => d.rdata = zeros ∧ (d.rd n).fifo i = Fifo.empty ∧
        d.fget (FIF_STAT_RST n i) = up1 (FIF_STAT_RST n i)))) ∧
    (s.dev.powered (4 + n) = true → ¬ sizeOk → s.goes (.fifoRead f bytes) (fun d =>
      d.rdata = zeros ∧ (d.rd n).fifo i = q ∧ d.fget (FIF_STAT_BADRD n i) = up1 (FIF_STAT_BADRD n i))) ∧
    (inAlias addr = true →
      (s.dev.debugOpen = false → aligned addr bytes = true → s.goes (.peekRead ⟨addr, bytes⟩) (fun d =>
        d = s.dev.answer (List.replicate (wordsOf bytes) 0))) ∧
      (s.dev.debugOpen = true → inPort peeked = true → aligned peeked bytes = true → sizeOk → s.dev.powered (4 + s.dev.fifoRd fp) = true →
        let b := (s.dev.rd (s.dev.fifoRd fp)).fifo (s.dev.fifoLoc fp)
        let l := b.words.take (min (bytes / 8) b.visible)
        s.goes (.peekRead ⟨addr, bytes⟩) (fun d => d = s.dev.answer (l ++ List.replicate (bytes / 8 - l.length) 0))) ∧
      (s.dev.debugOpen = true → inPort peeked = false → dbgDatAt peeked = none → peeked % 8 = 0 → bytes = 8 →
        s.goes (.peekRead ⟨addr, bytes⟩) (fun d => d = s.dev.answer [s.dev.view peeked]))) ∧
    (inAlias addr = false → exec (.peekRead ⟨addr, bytes⟩) s = exec (.rcRead (.bar0 addr bytes)) s) ∧
    (s.dev.present (4 + rd.idx) = true →
      (v.getLsbD 63 = false ∨ s.dev.winUp (RDn_HUB_REQ rd.idx) = false ∨ rd.idx ≠ s.dev.master → s.goes (.hubRequest rd v) (fun d => d = req)) ∧
      (v.getLsbD 63 = true → s.dev.winUp (RDn_HUB_REQ rd.idx) = true → rd.idx = s.dev.master →
        (req.fbit (RDn_HUB_REQ_EN rd.idx) = false →
          (named → s.goes (.hubRequest rd v) (fun d => d.fget (RDn_HUB_RES_REASON rd.idx) = 0 ∧ d.stream six = none)) ∧
          (¬ named → s.goes (.hubRequest rd v) (refused 1))) ∧
        (req.fbit (RDn_HUB_REQ_EN rd.idx) = true →
          (req.admitReason aq cid inp six new = 0 → s.goes (.hubRequest rd v) (fun d => d.fget (RDn_HUB_RES_REASON rd.idx) = 0 ∧
            d.stream six = some new ∧ d.fget (RDn_HUB_RES_REFCNT rd.idx) = s.dev.fget (RDn_HUB_RES_REFCNT rd.idx))) ∧
          (req.admitReason aq cid inp six new ≠ 0 → s.goes (.hubRequest rd v) (refused (req.admitReason aq cid inp six new)))))) ∧
    (s.dev.hasRing r = true →
      (s.dev.endUp r e = false → s.goes (.hubBlock r e pl h) (fun d => d = s.dev)) ∧
      (s.dev.endUp r e = true → h.crcOk = false → s.goes (.hubBlock r e pl h) (fun d =>
        d = got.finc (RDn_HUB_STAT_HUBCRC k (s.dev.ringIx r)))) ∧
      (s.dev.endUp r e = true → h.crcOk = true →
        s.goes (.hubBlock r e pl h) (fun d =>
          d = got.entriesIn k (Pl.get pl 0 14) [Pl.get pl 4 128, Pl.get pl 20 128, Pl.get pl 36 128]) ∧
        (∀ t, Pl.get pl 4 128 / 8 % 4 ≠ 0 → Pl.get pl 20 128 / 8 % 4 = 0 → Pl.get pl 36 128 / 8 % 4 = 0 →
          s.dev.stream (cellStreamIx (Pl.get pl 0 14) (Pl.get pl 4 128 % 8)) = some t →
          let b := (s.dev.rd (s.dev.fifoRd t.fifo)).fifo (s.dev.fifoLoc t.fifo)
          s.dev.powered (4 + s.dev.fifoRd t.fifo) = true → b.ptrBad = false → b.words.length + 4 ≤ Config.fifoWords →
          s.goes (.hubBlock r e pl h) (fun d => ((d.rd (s.dev.fifoRd t.fifo)).fifo (s.dev.fifoLoc t.fifo)).words = b.words ++
            packetWords (bytesOf 1 1 ++ bytesOf (Pl.get pl 0 14) 2 ++ bytesOf (Pl.get pl 4 128) 16)))) ∧
      (s.dev.sh.clk.recent.find? (fun c => decide (c.cycle + 1 = s.dev.sh.tly.voted)) = none →
        s.goes (.droveLaunch r e) (fun d => d = s.dev)) ∧
      (s.dev.sh.clk.recent.find? (fun c => decide (c.cycle + 1 = s.dev.sh.tly.voted)) = some c →
        (s.dev.mayLaunch r e c = true → s.dev.ownDroves c.cycle = true → key ∉ s.dev.sh.vote.launched →
          s.goes (.droveLaunch r e) (fun d => key ∈ d.sh.vote.launched ∧ d.regs = s.dev.regs ∧
            s.dev.sends d ((s.dev.ringBlocks c r).map (fun b => (.ringEnd r e, b.1, b.2))))) ∧
        (s.dev.mayLaunch r e c = false ∨ s.dev.ownDroves c.cycle = false ∨ key ∈ s.dev.sh.vote.launched →
          s.goes (.droveLaunch r e) (fun d => d = s.dev))) ∧
      (s.dev.endHeard r e = false → s.goes (.timeEcho r e ⟨pl, h⟩ trip) (fun d => d = s.dev)) ∧
      (s.dev.endHeard r e = true → h.crcOk = false → s.goes (.timeEcho r e ⟨pl, h⟩ trip) (fun d => d = got)) ∧
      (s.dev.endHeard r e = true → h.crcOk = true →
        ((s.dev.ring r).cells.find? (fun q => decide (64 * r + q.1 = Pl.get pl 2 14)) = none ∨ s.dev.ringState r < 2 →
          s.goes (.timeEcho r e ⟨pl, h⟩ trip) (fun d => d = got)) ∧
        ((s.dev.ring r).cells.find? (fun q => decide (64 * r + q.1 = Pl.get pl 2 14)) = some u → 2 ≤ s.dev.ringState r →
          s.goes (.timeEcho r e ⟨pl, h⟩ trip) (fun d =>
            dly (if e = .a then (d.ring r).distA else (d.ring r).distB) u.2.place = (trip - Pl.get pl 20 32) / 2 ∧
            ((s.dev.cell (64 * r + u.2.place)).powered = true →
              (d.cell (64 * r + u.2.place)).fget (if e = .a then SRB_TD_DLYA_D else SRB_TD_DLYB_D) =
                (trip - Pl.get pl 20 32) / 2 % 2 ^ SRB_TD_DLYA_D.width)))) ∧
      (¬ whole ∨ s.dev.endUp r e = false → s.goes (.blockTest r e arrived) (fun d => d = s.dev)) ∧
      (whole → s.dev.endUp r e = true → s.goes (.blockTest r e arrived) (fun d => d.sh.safe.testBad = bad ∧
        d.ringState r = (if bad.any (fun y => decide (y.1 = r)) then 4 else 3) ∧
        (arrived = false → d.fbit ⟨SH_SAFE_STAT, 40, 1⟩ = true) ∧
        (bad = [] → d.sh.safe.diagNow.getLsbD 8 = false ∧ d.rget SH_SAFE_STAT = s.dev.rget SH_SAFE_STAT))) ∧
      (¬ linked → s.goes (.timeBlockSend (.ringEnd r e) sub id) (fun d => d = s.dev)) ∧
      (linked →
        s.goes (.timeBlockSend (.ringEnd r e) 1 id) (fun d => d.regs = s.dev.regs ∧ ∃ n t, line d (.ringEnd r e) n = some t ∧
          let at_ := corr256 (s.dev.corr rp.raw rp.ofs) + (t - s.dev.raw10ps) * 256 / 100
          d.out = .block (.ringEnd r e) n 0x7 (Pl.mk [(0, 8, 1 + eb), (4, 64, ux 64 (at_ / 256)), (12, 8, (at_ % 256).toNat),
            (16, 32, s.dev.fget TIM_RATE_RATE)]) :: s.dev.out) ∧
        (2 ≤ s.dev.ringState r → s.goes (.timeBlockSend (.ringEnd r e) 2 id) (fun d => d.regs = s.dev.regs ∧
          s.dev.sends d [(.ringEnd r e, 0x7, Pl.mk [(0, 8, 2 + eb), (2, 14, id.toNat)])])) ∧
        (∀ q rest, s.dev.sh.clk.steps = q :: rest → s.goes (.timeBlockSend (.ringEnd r e) 4 id) (fun d =>
          s.dev.sends d [(.ringEnd r e, 0x7, Pl.mk [(0, 8, 4 + eb), (24, 16, q.cycle % 65536), (26, 64, ux 64 q.delta)])])) ∧
        (s.dev.sh.clk.steps = [] → s.goes (.timeBlockSend (.ringEnd r e) 4 id) (fun d => d = s.dev)) ∧
        (sub ≠ 1 → sub ≠ 2 → sub ≠ 4 → s.goes (.timeBlockSend (.ringEnd r e) sub id) (fun d => d = s.dev)))) ∧
    (s.dev.hasPlace p = true →
      let y := s.dev.cell p
      (y.powered = true → y.fbit (SRB_RP_STAT_LAUNCH x.idx) = true → s.goes (.timeBlockSend (.cell p x) 1 id) (fun d =>
        ∃ n t, line d (.cell p x) n = some t ∧
          let at_ := ((y.tm.time : Int) * 25600 + 256 * (t - s.dev.raw10ps)).toNat / 100
          d.out = .block (.cell p x) n 0x7 (Pl.mk [(0, 8, 0x21 + 64 * b2n (decide (x = .u))), (4, 64, at_ / 256), (12, 8, at_),
            (16, 32, y.fget SRB_TD_RATE_RATE)]) :: s.dev.out)) ∧
      (y.powered = false ∨ y.fbit (SRB_RP_STAT_LAUNCH x.idx) = false ∨ sub ≠ 1 →
        s.goes (.timeBlockSend (.cell p x) sub id) (fun d => d = s.dev)))

/-- ARM in IDLE or DONE begins ARMING with the next record number, elsewhere it is refused; ARMED follows once every
    reachable cell shows its arming. FIRE waits for the next t0, ABORT goes to IDLE. T_trig is the earliest trigger
    learnt; it is decided once, in FIRED, at t0 + TCLOSE + 20 us of the cycle that brought the first. A decided record's
    notice reaches an armed cell and the AQ; FETCH begins 1.00 ms after T_trig and the larger POST, and DONE, with the
    cause of vector 39, once every unit is fetched; each unit freezes when its window has passed, a cell without a notice
    by itself 1.00 ms later. A cell is fetched in its turn while the FIFO has room: header packet, then its blocks in BIDX
    order; one with no frozen record has a header alone. A RECORD block is written as a packet when it is the one
    expected, its CRC is good and the FIFO has room; of the cell whose turn it is, another with a higher BIDX, a CRC error
    or no room makes the ring die ask again from the missing one. Where no fetch runs, or the block is not of the cell
    whose turn it is, it is not taken. A legacy write of 2 bytes to an even offset is appended or ends the packet, whole
    or not at all, a packet without room being counted; another write counts in BADW. LEGACY_POP takes the head of the
    queue, and zero when it is empty. (R558, R560, R561, R562, R563, R564, R565, R567, R568, R569) -/
def Obligations.RecordAndLegacyResults : Prop :=
  ∀ (s : State) (p : Place) (r : Nat) (e : End) (pl : Payload) (h : Rx) (id : Nat) (t : W32) (src ofs : Nat) (v : W16)
    (k : CoreRef) (task : Nat) (rd : Reg) (w : Nat),
    let st := s.dev.recState
    let c := s.dev.cell p
    let cur := s.dev.sh.leg.legCur ++ bytesOf v.toNat 2
    let fits := s.dev.sh.leg.legQ.length + (packetWords cur).length ≤ Config.legqWords
    let up1 := fun (f : Field) => min (s.dev.fget f + 1) (2 ^ f.width - 1)
    let fifo := s.dev.fget SH_REC_SRC_FIFO
    let fn := s.dev.fifoRd fifo
    let fi := s.dev.fifoLoc fifo
    let room := fun (n : Nat) => s.dev.powered (4 + fn) = true ∧ ((s.dev.rd fn).fifo fi).words.length + n ≤ Config.fifoWords
    let adds := fun (d : Dev) (l : List Byte) => ((s.dev.rd fn).fifo fi).ptrBad = false →
      ((d.rd fn).fifo fi).words = ((s.dev.rd fn).fifo fi).words ++ packetWords l
    let head := fun (src fl count : Nat) => bytesOf 2 1 ++ bytesOf src 2 ++ bytesOf fl 1 ++ bytesOf (s.dev.fget SH_REC_STAT_RNUM) 2
      ++ bytesOf (s.dev.fget SH_REC_STAT_TTRIG) 4 ++ bytesOf count 4
    let pos := fun (d : Dev) (r : Nat) => Store.get (fun _ => 0) d.sh.rcd.recPos r
    let want := Store.get (fun _ => 0) s.dev.sh.rcd.recBidx r
    let turn := 64 * r + (pos s.dev r - 1)
    let runs := st = 4 ∧ pos s.dev r ≠ 0 ∧ turn ∉ s.dev.sh.rcd.recSeen
    let got := s.dev.endRx r e h
    let fired := s.dev.comeTo (s.dev.sh.rcd.recT0.toNat + 10 * s.dev.tclose + 20000)
    (st = 0 ∨ st = 5 → s.goes .arm (fun d => d.recState = 1 ∧ d.sh.rcd.recTrig = none ∧ d.sh.rcd.recSeen = [] ∧
      d.fget SH_REC_STAT_RNUM = (s.dev.fget SH_REC_STAT_RNUM + 1) % 2 ^ SH_REC_STAT_RNUM.width)) ∧
    (st ≠ 0 → st ≠ 5 → s.goes .arm (fun d => d = s.dev.refuseWr SH_REC_CTL)) ∧
    (st = 1 → s.dev.armed = true → s.goes .armingComplete (fun d => d = s.dev.fset SH_REC_STAT_STATE 2)) ∧
    (st ≠ 1 ∨ s.dev.armed = false → s.goes .armingComplete (fun d => d = s.dev)) ∧
    s.goes .fire (fun d => d = s.dev.rcd (fun x => { x with recFirePend := true })) ∧
    s.goes .abort (fun d => d.recState = 0 ∧ d.sh.rcd.recTrig = none ∧ d.sh.rcd.recFirePend = false) ∧
    (st = 3 → s.dev.sh.rcd.recTrig = some (t, src) → src < 8 → s.goes .triggerDecision (fun d => d.recState = 3 ∧
      d.fget SH_REC_STAT_TTRIG = t.toNat ∧ d.fget SH_REC_STAT_SRC = src ∧ d.sh.rcd.recTrig = none ∧
      d.sh.rcd.recFull = fired.now + (t - ts32 fired.now.toNat).signExtend 64 ∧ d.sh.clk = fired.sh.clk)) ∧
    (st ≠ 3 ∨ s.dev.sh.rcd.recTrig = none → s.goes .triggerDecision (fun d => d = s.dev)) ∧
    (s.dev.decided = true → s.dev.sh.rcd.recFull.toNat + s.dev.recPostMax + 1000000 ≤ s.dev.now.toNat →
      s.goes .fetchStart (fun d => d.recState = 4 ∧ d.sh.rcd.recSeen = [] ∧ d.sh.rcd.recPos = [])) ∧
    (s.dev.decided = false ∨ s.dev.now.toNat < s.dev.sh.rcd.recFull.toNat + s.dev.recPostMax + 1000000 →
      s.goes .fetchStart (fun d => d = s.dev)) ∧
    (st = 4 → (s.dev.recCells.all (fun id => decide (id ∈ s.dev.sh.rcd.recSeen))) = true →
      (s.dev.running 6 = false ∨ 16384 ∈ s.dev.sh.rcd.recSeen) → s.goes .fetchDone (fun d => d.recState = 5 ∧
        d.fbit ⟨GLB_IRQ_STAT, 39, 1⟩ = true)) ∧
    (st ≠ 4 ∨ (s.dev.recCells.all (fun id => decide (id ∈ s.dev.sh.rcd.recSeen))) = false ∨
      (s.dev.running 6 = true ∧ 16384 ∉ s.dev.sh.rcd.recSeen) → s.goes .fetchDone (fun d => d = s.dev)) ∧
    (s.dev.present 6 = true →
      (s.dev.decided = true → s.dev.running 6 = true → s.goes (.recordNotice .aq) (fun d =>
        d.aq.rcd.noticed = some ((s.dev.aqNow : Int) + (BitVec.ofNat 32 (s.dev.fget SH_REC_STAT_TTRIG) - ts32 s.dev.aqNow).toInt).toNat)) ∧
      (s.dev.decided = false ∨ s.dev.running 6 = false → s.goes (.recordNotice .aq) (fun d => d = s.dev)) ∧
      (∀ n, s.dev.aq.rcd.noticed = some n → n + s.dev.aqPost < s.dev.aqNow → s.goes (.recordFreeze .aq) (fun d =>
        d.aq.rcd.noticed = none ∧ d.aq.rcd.trigAt = n ∧ d.aq.rcd.full = (s.dev.aq.rcd.mem.filter (fun e =>
          decide (n ≤ e.time + s.dev.aqPre) && decide (e.time ≤ n + s.dev.aqPost))).reverse)) ∧
      (s.dev.aq.rcd.noticed = none → s.goes (.recordFreeze .aq) (fun d => d = s.dev)) ∧
      (st ≠ 4 ∨ s.dev.running 6 = false ∨ 16384 ∈ s.dev.sh.rcd.recSeen → s.goes (.recordFetch .aq) (fun d => d = s.dev)) ∧
      (st = 4 → s.dev.running 6 = true → 16384 ∉ s.dev.sh.rcd.recSeen → (∀ i ∈ s.dev.aqRecInputs, i < pos s.dev 256) →
        s.goes (.recordFetch .aq) (fun d => 16384 ∈ d.sh.rcd.recSeen ∧ d.regs = s.dev.regs))) ∧
    (s.dev.hasPlace p = true →
      (s.dev.decided = true → s.dev.recCells.find? (fun i => decide (s.dev.reach i = some p)) = some id → c.fbit SRB_REC_CTL_ARM = true →
        (c.fget SRB_REC_STAT_STATE = 1 ∨ c.fget SRB_REC_STAT_STATE = 2) → s.goes (.recordNotice (.cell p)) (fun d =>
          (d.cell p).hub.rcd.noticed = some (c.extend (BitVec.ofNat 32 (s.dev.fget SH_REC_STAT_TTRIG))) ∧
          (d.cell p).fget SRB_REC_STAT_STATE = 2)) ∧
      (s.dev.decided = false ∨ c.fbit SRB_REC_CTL_ARM = false → s.goes (.recordNotice (.cell p)) (fun d => d = s.dev)) ∧
      (c.powered = true → ∀ n, c.hub.rcd.noticed = some n → c.fget SRB_REC_STAT_STATE = 2 → n + c.recPost < c.tm.time →
        s.cellGoes p (.recordFreeze (.cell p)) (fun m => m.fget SRB_REC_STAT_STATE = 3 ∧
          m.hub.rcd.full = (c.hub.rcd.mem.filter (fun e =>
            decide (n ≤ e.time + c.recPre) && decide (e.time ≤ n + c.recPost))).reverse)) ∧
      (c.powered = true → c.hub.rcd.noticed = none → c.hub.rcd.fired = true → c.fget SRB_REC_STAT_STATE = 2 →
        c.hub.rcd.trigAt + c.recPost + 1000000 ≤ c.tm.time →
        s.cellGoes p (.ownFreeze p) (fun m => m.fget SRB_REC_STAT_STATE = 3 ∧ 8 ≤ m.fget SRB_REC_STAT_FL ∧
          m.hub.rcd.full = (c.hub.rcd.mem.filter (fun e => decide (c.hub.rcd.trigAt ≤ e.time + c.recPre) &&
            decide (e.time ≤ c.hub.rcd.trigAt + c.recPost))).reverse)) ∧
      (st ≠ 4 → s.goes (.recordFetch (.cell p)) (fun d => d = s.dev)) ∧
      (st = 4 → p / 64 = r → (pos s.dev r = 0 ∨ turn ∈ s.dev.sh.rcd.recSeen) → room 2 → s.dev.recTurn r = some id →
        s.dev.placeOf id = some p → s.goes (.recordFetch (.cell p)) (fun d =>
          pos d r = id % 64 + 1 ∧ Store.get (fun _ => 0) d.sh.rcd.recBidx r = 0 ∧
          (s.dev.reach id = some p → c.fget SRB_REC_STAT_STATE = 3 →
            adds d (head id (c.fget SRB_REC_STAT_FL) (c.fget SRB_REC_STAT_NENT)) ∧
            (d.cell p).hub.recQ = c.recBlocks ∧ (c.recBlocks = [] → id ∈ d.sh.rcd.recSeen)) ∧
          (s.dev.reach id = none ∨ c.fget SRB_REC_STAT_STATE ≠ 3 → adds d (head id 16 0) ∧ id ∈ d.sh.rcd.recSeen))) ∧
      (st = 4 → p / 64 = r → (pos s.dev r = 0 ∨ turn ∈ s.dev.sh.rcd.recSeen) → ¬ room 2 ∨ s.dev.recTurn r = none →
        s.goes (.recordFetch (.cell p)) (fun d => d = s.dev))) ∧
    (s.dev.hasRing r = true →
      (s.dev.endUp r e = false → s.goes (.recordBlock r e pl h) (fun d => d = s.dev)) ∧
      (s.dev.endUp r e = true → ¬ runs → s.goes (.recordBlock r e pl h) (fun d => d = got)) ∧
      (s.dev.endUp r e = true → runs → h.crcOk = true → Pl.get pl 0 14 ≠ turn ∨ Pl.get pl 6 16 < want →
        s.goes (.recordBlock r e pl h) (fun d => d = got)) ∧
      (s.dev.endUp r e = true → runs → h.crcOk = true → Pl.get pl 0 14 = turn → Pl.get pl 6 16 = want →
        room (packetWords (recordPacket pl)).length → s.goes (.recordBlock r e pl h) (fun d =>
          Store.get (fun _ => 0) d.sh.rcd.recBidx r = want + 1 ∧ adds d (recordPacket pl))) ∧
      (s.dev.endUp r e = true → runs → s.dev.reach turn = some p →
        (h.crcOk = false ∨ (Pl.get pl 0 14 = turn ∧ (want < Pl.get pl 6 16 ∨
          (Pl.get pl 6 16 = want ∧ ¬ room (packetWords (recordPacket pl)).length)))) → s.goes (.recordBlock r e pl h) (fun d =>
          d.sh.rcd = s.dev.sh.rcd ∧ (c.fget SRB_REC_STAT_STATE = 3 → want < 65536 →
            (d.cell p).hub.recQ = c.recBlocks.drop want)))) ∧
    (w ≠ 2 ∨ ofs % 2 ≠ 0 → (ofs < 0x8000 → s.goes (.legacyAppend ofs v w) (fun d => d = s.dev.finc SH_LEGQ_STAT_BADW)) ∧
      (0x8000 ≤ ofs → ofs < 0x10000 → s.goes (.legacyEnd ofs v w) (fun d => d = s.dev.finc SH_LEGQ_STAT_BADW))) ∧
    (ofs % 2 = 0 → fits →
      (ofs < 0x8000 → s.goes (.legacyAppend ofs v 2) (fun d => d = s.dev.leg (fun x => { x with legCur := cur }))) ∧
      (0x8000 ≤ ofs → ofs < 0x10000 → s.goes (.legacyEnd ofs v 2) (fun d => d = s.dev.leg (fun x => { x with
        legCur := [], legQ := x.legQ ++ packetWords cur, legVis := (x.legQ ++ packetWords cur).length })))) ∧
    (ofs % 2 = 0 → ¬ fits →
      let dropped := fun (d : Dev) => d.sh.leg = { s.dev.sh.leg with legCur := [] } ∧
        d.fget SH_LEGQ_STAT_DROP = up1 SH_LEGQ_STAT_DROP
      (ofs < 0x8000 → s.goes (.legacyAppend ofs v 2) dropped) ∧
      (0x8000 ≤ ofs → ofs < 0x10000 → s.goes (.legacyEnd ofs v 2) dropped)) ∧
    (s.executes k task (encI 0x10 rd noReg 0) .nonVoted = true →
      (0 < s.dev.sh.leg.legVis → s.dev.winUp (cdBase k.die.idx + 0x7F000) = true → s.goes (.legacyPop k rd) (fun d => d.sh.leg.legQ = s.dev.sh.leg.legQ.tail ∧
        d.sh.leg.legVis = s.dev.sh.leg.legVis - 1 ∧ d.regs = s.dev.regs ∧
        d.cd k.die.idx = ((s.entered k task).writes k task rd (s.dev.sh.leg.legQ.headD 0)).cd k.die.idx)) ∧
      (s.dev.sh.leg.legVis = 0 → s.goes (.legacyPop k rd) (fun d => d.sh.leg = s.dev.sh.leg ∧
        d.cd k.die.idx = ((s.entered k task).writes k task rd 0).cd k.die.idx)))

/-- TIM_CYC_CFG: a write is refused, counted and given the number of the first of R90's eight checks that fails, and
    changes no setting; one that passes them waits, with PEND 1, for the next t0, or in a twin pair, forwarded, for the
    one after it, with which it comes into force, PEND falling once the partner has come so far; at the duty the partner's
    minimums may refuse it still (what they are is open: log entry 46). A standby refuses it, as it refuses SH_FOLD_CFG
    and SH_FOLD_MAP. These two are refused and counted outside HUB, COMMISSION and BLOCK, for a fold number C to E, and
    where an enabled fold would be left with a key base of zero or more than 1,024 cells, once every accepted write has
    applied; else written, at once or, where they are forwarded, from the same cycle in both packages. OOS is written in
    any mode. SH_FLT_CFG only in COMMISSION, SH_LEDG_CFG only with divisors of 60, SH_LE_PARAM sent for the next cycle to
    every powered control die only when no write waits and R202 allows it, SCH_PART of a partition of 2 to 15 only while
    it has no task, AQ_CH_CFG only within the conversions of a cycle and with one foreground input. Auto-tune starts and
    aborts wait in order in every powered control die for the next cycle; a time-out ends every running test with state 3,
    cause 2. CFGD sets LOCK unless in COMMISSION. A refused write of the settings, the fold configuration and map,
    SH_FLT_CFG or SH_LEDG_CFG changes no register but the counter's. (R90, R93, R117, R119, R120, R201, R202, R206, R294,
    R339, R413, R479) -/
def Obligations.SettingsResults : Prop :=
  ∀ (s : State) (v : W64) (f : Fin 12) (c : Fin 8448) (fold : BitVec 4) (b : Bool) (die : CDie) (p : Fin 16) (ch : Fin 192),
    let e := s.dev
    let m := cfgBits v
    let refused := fun (a : Nat) (d : Dev) => d.fget SH_REFWR_ADDR = a ∧
      d.fget SH_REFWR_COUNT = min (e.fget SH_REFWR_COUNT + 1) 0xFFFFFFFF ∧
      (∀ x, x ≠ SH_REFWR → d.rget x = e.rget x) ∧ d.cd0 = e.cd0 ∧ d.cd1 = e.cd1 ∧ d.cd2 = e.cd2 ∧ d.cd3 = e.cd3
    let keeps := fun (k w : W64) => (k &&& ~~~w) ||| (v &&& w)
    let next := if e.sh.clk.gridOn then e.sh.clk.cyc + 1 else 0
    let eff := next + (if e.forwardLink = none then 0 else 1)
    let mins := e.minsOf e.minRings m
    let valid := e.fbit TIM_CYC_MIN_VALID
    let fails := fun (k : Nat) => match k with
      | 1 => !e.quiet
      | 2 => !(decide (200 ≤ cfgPeriod m) && decide (cfgPeriod m ≤ 10000) && decide (110 ≤ cfgEmit m) &&
          decide (cfgEmit m < cfgStile m) && decide (cfgStile m < cfgApply m))
      | 3 => valid && decide (cfgStile m < mins.stileMin)
      | 4 => valid && decide (cfgApply m < mins.applyMin)
      | 5 => valid && decide (cfgPeriod m < mins.periodMin)
      | 6 => decide (cfgPeriod m + (if valid then mins.tclose else cfgEmit m) + 40 < cfgStile m)
      | 7 => decide (4 * cfgPeriod m < cfgApply m)
      | _ => e.fbit TIM_CYC_STAT_PEND
    let why := (List.range' 1 8).find? fails
    let toldNo := fun (l : List Nat) (d : Dev) => d.fget TIM_CYC_STAT_REASON ∈ l ∧ d.sh.clk = e.sh.clk ∧
      d.fget TIM_CYC_STAT_REFUSE_CNT = min (e.fget TIM_CYC_STAT_REFUSE_CNT + 1) (2 ^ TIM_CYC_STAT_REFUSE_CNT.width - 1) ∧
      ∀ x, x ≠ TIM_CYC_STAT_REASON.reg → d.rget x = e.rget x
    let waits := fun (d : Dev) => d.fget TIM_CYC_STAT_PEND = 1 ∧ d.sh.clk.cfgPend = some (m, eff) ∧
      d.sh.clk.cfgInForce = e.sh.clk.cfgInForce
    let sent := fun (a : Nat) (w : W64) (d : Dev) =>
      ∀ x, e.forwardLink = some x → .twin x 6 e.seq (Blk.mk [(0, 64, a), (8, 64, w.toNat), (16, 16, eff)]) ∈ d.out
    let later := fun (a : Nat) (w : W64) (d : Dev) =>
      d.sh.tw.fwd = e.sh.tw.fwd ++ [(eff, a, w)] ∧ d.regs = e.regs ∧ sent a w d
    let map := e.settled (SH_FOLD_MAP c.val)
    let into := decide (fold.toNat < 12) && foldBad (e.settled (SH_FOLD_CFG fold.toNat))
      (e.settledMap fold.toNat + (if map.toNat % 16 = fold.toNat then 0 else 1))
    let sets := (aqFour e.aqCfg (ch.val / 4)).map (fun x => if x.1 = ch.val then
      (ch.val, (e.aqCfg ch.val &&& ~~~0xFEC7FFFF00000000#64) ||| (v &&& 0xFCC7FFFF00000000#64)) else x)
    let w := bitsOf v.toNat 40 5
    let x := e.cd e.firstCd
    let slot := bitsOf v.toNat 45 8
    let allowed := if v.getLsbD 32 then e.quiet || decide (w ∈ [1, 2, 3, 4, 5, 9])
      else if e.quiet then !(decide (w = 7) && !x.leExt slot) && !decide (w = 10)
      else if x.leExt slot then decide (w < 4)
      else decide (w ∈ [5, 6, 8, 9]) || (decide (11 ≤ w) && x.leListed slot w && !decide (w ∈ stateWords (x.ctrl slot 28 3)))
    let unchanged := fun (d : Dev) => d = e
    (e.standby = true →
      s.goes (.cycleConfigurationWrite v) (refused TIM_CYC_CFG) ∧
      s.goes (.foldConfigurationWrite f v) (refused (SH_FOLD_CFG f.val)) ∧
      s.goes (.foldMapWrite c fold) (refused (SH_FOLD_MAP c.val)) ∧
      s.goes (.outOfServiceWrite c b) (refused (SH_FOLD_MAP c.val))) ∧
    (e.standby = false →
      (∀ k, why = some k → s.goes (.cycleConfigurationWrite v) (toldNo [k])) ∧
      (why = none → e.role ≠ 1 → s.goes (.cycleConfigurationWrite v) waits) ∧
      (why = none → e.role = 1 → s.goes (.cycleConfigurationWrite v) (fun d =>
        (waits d ∧ sent TIM_CYC_CFG m d) ∨ toldNo [3, 4, 5, 6] d)) ∧
      (e.quiet = false ∨ foldBad v (e.settledMap f.val) = true →
        s.goes (.foldConfigurationWrite f v) (refused (SH_FOLD_CFG f.val))) ∧
      (e.quiet = true → foldBad v (e.settledMap f.val) = false → s.goes (.foldConfigurationWrite f v) (fun d =>
        (e.forwardLink = none → d.rget (SH_FOLD_CFG f.val) = v &&& 0xEF000000FFFFFFFF) ∧
        (e.forwardLink ≠ none → later (SH_FOLD_CFG f.val) v d))) ∧
      (e.quiet = false ∨ (12 ≤ fold.toNat ∧ fold.toNat < 15) ∨ into = true →
        s.goes (.foldMapWrite c fold) (refused (SH_FOLD_MAP c.val))) ∧
      (e.quiet = true → fold.toNat < 12 ∨ fold.toNat = 15 → into = false → s.goes (.foldMapWrite c fold) (fun d =>
        (e.forwardLink = none → d.foldOf c.val = fold.toNat) ∧
        (e.forwardLink ≠ none → later (SH_FOLD_MAP c.val) (BitVec.ofNat 64 (putBits map.toNat 0 4 fold.toNat)) d))) ∧
      s.goes (.outOfServiceWrite c b) (fun d => (e.forwardLink = none → d.fbit (SH_FOLD_MAP_OOS c.val) = b) ∧
        (e.forwardLink ≠ none → later (SH_FOLD_MAP c.val) (BitVec.ofNat 64 (putBits map.toNat 4 1 (b2n b))) d))) ∧
    (e.sh.clk.cfgPend = none → s.goes .cycleConfigurationEffect unchanged) ∧
    (∀ w k, e.sh.clk.cfgPend = some (w, k) →
      (e.sh.clk.gridOn = false ∨ e.sh.clk.cyc < k → s.goes .cycleConfigurationEffect unchanged) ∧
      (e.sh.clk.gridOn = true → k ≤ e.sh.clk.cyc → s.goes .cycleConfigurationEffect (fun d =>
        d.sh.clk.cfgInForce = w ∧ d.sh.clk.cfgPend = none ∧ d.sh.clk.realign = true ∧ d.rget TIM_CYC_CFG = w ∧
        d.fget TIM_CYC_STAT_PEND = if e.forwardLink ≠ none ∧ (∃ q ∈ e.sh.tw.partner.toList, seqDiff q.seq (BitVec.ofNat 16 k) < 0)
          then e.fget TIM_CYC_STAT_PEND else 0))) ∧
    (e.mode = 1 → e.winUp SH_FLT_CFG = true → s.goes (.faultConfigurationWrite v) (fun d =>
      d.rget SH_FLT_CFG = keeps (e.rget SH_FLT_CFG) 0xFFFFFFFFFF)) ∧
    (e.mode ≠ 1 → s.goes (.faultConfigurationWrite v) (refused SH_FLT_CFG)) ∧
    (ledgerLen (v.toNat % 256) = true ∧ ledgerLen (v.toNat / 256 % 256) = true → e.winUp SH_LEDG_CFG = true →
      s.goes (.ledgerLengthWrite v) (fun d => d.rget SH_LEDG_CFG = keeps (e.rget SH_LEDG_CFG) 0xFFFF)) ∧
    (ledgerLen (v.toNat % 256) = false ∨ ledgerLen (v.toNat / 256 % 256) = false →
      s.goes (.ledgerLengthWrite v) (refused SH_LEDG_CFG)) ∧
    (v.getLsbD 63 = true → e.fbit SH_LE_PARAM_BUSY = false → allowed = true →
      s.goes (.leParamGo v) (fun d => d.fget SH_LE_PARAM_BUSY = 1 ∧ d.fget SH_LE_PARAM_REFD = 0 ∧
        ∀ i < 4, (d.cd i).leReq = if e.powered i then some (v, next) else (e.cd i).leReq)) ∧
    (v.getLsbD 63 = true → e.fbit SH_LE_PARAM_BUSY = true ∨ allowed = false →
      s.goes (.leParamGo v) (fun d => d.fget SH_REFWR_ADDR = SH_LE_PARAM ∧
        d.fget SH_REFWR_COUNT = min (e.fget SH_REFWR_COUNT + 1) 0xFFFFFFFF ∧
        (e.fbit SH_LE_PARAM_BUSY = false → d.fget SH_LE_PARAM_REFD = 1) ∧ ∀ i < 4, d.cd i = e.cd i)) ∧
    (v.getLsbD 63 = false → e.winUp SH_LE_PARAM = true → s.goes (.leParamGo v) (fun d =>
      d.rget SH_LE_PARAM = keeps (e.rget SH_LE_PARAM) 0x1FFF01FFFFFFFF ∧ ∀ i < 4, d.cd i = e.cd i)) ∧
    s.goes .autotuneStart (fun d => d.regs = e.regs ∧ ∀ i < 4, d.cd i =
      if e.powered i then { e.cd i with tuneReq := (e.cd i).tuneReq ++ [(true, next)] } else e.cd i) ∧
    s.goes .autotuneAbort (fun d => d.regs = e.regs ∧ ∀ i < 4, d.cd i =
      if e.powered i then { e.cd i with tuneReq := (e.cd i).tuneReq ++ [(false, next)] } else e.cd i) ∧
    s.goes .autotuneTimeout (fun d => ∀ i < 4,
      (∀ a, (e.cd i).tune = some a → (d.cd i).tune = none ∧ (d.cd i).stat a.slot 24 = false ∧
        d.fget (LE_AT_STAT_STATE i) = 3 ∧ d.fget (LE_AT_STAT_WHY i) = 2) ∧
      ((e.cd i).tune = none → d.cd i = e.cd i)) ∧
    (e.present die.idx = true → e.powered die.idx = false → s.goes (.partitionWrite die p v) unchanged) ∧
    (e.present die.idx = true → e.winUp (SCH_PART die.idx 1) = true →
      (p.val = 0 → s.goes (.partitionWrite die p v) unchanged) ∧
      (2 ≤ p.val → (∃ t ∈ (e.cd die.idx).tasks, t.2.part = p.val ∧ t.2.state ≠ .free) →
        s.goes (.partitionWrite die p v) (fun d => d = e.finc (SCH_STAT_SVCREF die.idx))) ∧
      (2 ≤ p.val → (∀ t ∈ (e.cd die.idx).tasks, t.2.part = p.val → t.2.state = .free) →
        s.goes (.partitionWrite die p v) (fun d =>
          d.rget (SCH_PART die.idx p.val) = keeps (e.rget (SCH_PART die.idx p.val)) 0x07FF07FF0000FF00)) ∧
      (p.val = 1 → s.goes (.partitionWrite die p v) (fun d =>
          d.rget (SCH_PART die.idx 1) = keeps (e.rget (SCH_PART die.idx 1)) 0xFF00))) ∧
    (e.present 6 = true → e.powered 6 = false → s.goes (.aqChannelWrite ch v) unchanged ∧ s.goes .aqCfgd unchanged) ∧
    (e.present 6 = true → e.powered 6 = true →
      (aqFits sets e.period = true ∧ (sets.filter (fun x => decide (aqField x.2 AQ_CH_CFG_FG = 1))).length ≤ 1 →
        s.goes (.aqChannelWrite ch v) (fun d => d.rget (AQ_CH_CFG ch.val) =
          ((e.aqCfg ch.val &&& ~~~0xFEC7FFFF00000000#64) ||| (v &&& 0xFCC7FFFF00000000#64)))) ∧
      (aqFits sets e.period = false ∨ 1 < (sets.filter (fun x => decide (aqField x.2 AQ_CH_CFG_FG = 1))).length →
        s.goes (.aqChannelWrite ch v) (fun d => d = e.finc AQ_STAT_CFGREF)) ∧
      s.goes .aqCfgd (fun d => d.fget AQ_STAT_CFGD = 1 ∧
        d.fget AQ_STAT_LOCK = if e.mode = 1 then e.fget AQ_STAT_LOCK else 1))

/-- A PTP message is used only when the engine takes it: an Announce is what its port hears from then on, and the best
    master heard on the enabled ports is selected (the data set comparison is the standard's, outside the spec: log entry
    135); the end of a delay exchange of the mechanism in use on the selected port gives the mean path delay; a peer delay
    request is answered in one step or two. An offset is acted on only with EN 1, time started, and not in TWIN unless the
    package has duty, which leaves TWIN for LOCKED: the first one in ACQUIRE queues a step of minus the offset with I := 0
    and locks; one within JUMPTH makes the PI update of R462 and locks; another is held in TIM_JUMP with PEND 1. HOLDOVER
    is entered from LOCKED after HOLDTO, FREE from ACQUIRE. ACCEPT queues a step of minus OFS while PEND is 1 and does
    nothing otherwise; SET queues a step of TIM_SET, but in TWIN is refused. A write of TIM_WALL waits for the next t0. A
    converter with an accepted ratio older than 1,000 us becomes STALE. A diagnostic round waits while another runs. A
    filtered result draws one free value as die temperature (what it is the spec does not state: log entry 36) and gives
    each enabled input of a cell its mean. A disabled input takes no part and drops its sums. An AQ slot in order, one of
    the first Tc, gives the input due in it its result; a later one converts no held value, and one out of order or past
    the cycle changes nothing. (R457, R461, R462, R463, R464, R465, R466, R478, R267, R279, R284, R292) -/
def Obligations.TimeAndMeasurementResults : Prop :=
  ∀ (s : State) (m : PtpMsg) (θ : Int) (v : W64) (p : Place) (cv : Fin 48) (j : Nat) (x : Adc),
    let e := s.dev
    let c := e.cell p
    let hears := e.fbit TIM_PTP_CFG_EN = true ∧ e.sh.clk.started = true ∧ ¬ (e.crook = 4 ∧ e.role ≠ 1)
    let steps := fun (δ : Int) (host : Bool) (d : Dev) =>
      d.sh.clk.steps = e.sh.clk.steps ++ [{ delta := δ, cycle := e.stepCycle, host := host }]
    let i' := clampRate (sx 32 (e.fget TIM_RATE_I) - e.fget TIM_SERVO_KI * θ)
    let ports := (List.range 8).filter (fun q => bitOf (e.fget TIM_PTP_CFG_PORTS) q)
    let heard := Store.set (fun _ => none) e.sh.crk.ptpHeard m.port.val
      (some { dataset := m.dataset, gmId := m.gmId, utcOfs := m.utcOfs })
    let td : W16 := BitVec.ofNat 16 (Config.freeValue e.freeCtr).toNat
    let slotOk := e.running 6 = true ∧ j < aqTs e.period ∧ (e.aq.cv cv.val).slotNo ≤ j
    (e.ptpTakes m = false ∨ m.kind = .other → s.goes (.ptpMessage m) (fun d => d = e)) ∧
    (∀ q b, e.ptpTakes m = true → m.kind = .announce → bestMaster heard ports = some (q, b) →
      s.goes (.ptpMessage m) (fun d => d.sh.crk = { e.sh.crk with ptpHeard := heard } ∧
        d.fget TIM_PTP_GM_ID = b.gmId.toNat ∧ d.fget TIM_PTP_STAT_PORT = q ∧ d.fget TIM_PTP_STAT_VALID = 1 ∧
        d.fget TIM_PTP_STAT_UTCOFS = b.utcOfs.toNat)) ∧
    (∀ peer, e.ptpTakes m = true → m.kind = .delay peer → s.goes (.ptpMessage m) (fun d => d.fget TIM_PTP_STAT_MPD =
      if e.fget TIM_PTP_STAT_PORT = m.port.val ∧ peer = e.fbit TIM_PTP_CFG_P2P then m.meanPathDelay.toNat
      else e.fget TIM_PTP_STAT_MPD)) ∧
    (e.ptpTakes m = true → m.kind = .pdelayReq → s.goes (.ptpMessage m) (fun d => d.regs = e.regs ∧
      d.out = (if e.fbit TIM_PTP_CFG_P2P = false then [] else if e.fbit TIM_PTP_CFG_ONESTEP = true then [.pdelayResp m.port.val 0]
        else [.pdelayResp m.port.val 2, .pdelayResp m.port.val 1]) ++ e.out)) ∧
    (¬ hears → s.goes (.ptpSync θ) (fun d => d = e)) ∧
    (hears → e.crook = 1 → e.sh.crk.autoStep = false → s.goes (.ptpSync θ) (fun d =>
      steps (-θ) false d ∧ d.crook = 2 ∧ d.sh.crk.autoStep = true ∧ d.fget TIM_RATE_I = 0 ∧
      d.fget TIM_JUMP_PEND = 0 ∧ d.sh.crk.crookRaw = e.sh.clk.raw)) ∧
    (hears → e.crook ≠ 1 ∨ e.sh.crk.autoStep = true → e.withinJump θ = true → s.goes (.ptpSync θ) (fun d =>
      sx 32 (d.fget TIM_RATE_I) = i' ∧
      d.sh.crk.ratePend = some (BitVec.ofInt 32 (clampRate (i' - e.fget TIM_SERVO_KP * θ))) ∧
      d.fget TIM_JUMP_PEND = 0 ∧ d.crook = 2 ∧ d.sh.clk.steps = e.sh.clk.steps)) ∧
    (hears → e.crook ≠ 1 ∨ e.sh.crk.autoStep = true → e.withinJump θ = false → s.goes (.ptpSync θ) (fun d =>
      d.fget TIM_JUMP_OFS = ux 63 θ ∧ d.fget TIM_JUMP_PEND = 1 ∧ d.crook = (if e.crook = 4 then 2 else e.crook) ∧
      d.fget TIM_STAT_JCNT = min (e.fget TIM_STAT_JCNT + 1) 0xFFFF ∧ d.fget TIM_RATE_I = e.fget TIM_RATE_I ∧
      d.sh.crk = e.sh.crk ∧ d.sh.clk = e.sh.clk)) ∧
    ((e.crook = 2 ∨ (e.crook = 4 ∧ e.role = 1)) →
        e.sh.crk.crookRaw.toNat + e.holdTo * 1000000000 ≤ e.sh.clk.raw.toNat → s.goes .holdoverTimeout (fun d =>
      d.crook = 3 ∧ d.sh.crk.ratePend = some (BitVec.ofNat 32 (e.fget TIM_RATE_I)))) ∧
    (e.crook ≠ 2 ∧ ¬ (e.crook = 4 ∧ e.role = 1) ∨
        e.sh.clk.raw.toNat < e.sh.crk.crookRaw.toNat + e.holdTo * 1000000000 →
      s.goes .holdoverTimeout (fun d => d = e)) ∧
    (e.crook = 1 → s.goes .acquireTimeout (fun d => d.crook = 0)) ∧
    (e.crook ≠ 1 → s.goes .acquireTimeout (fun d => d = e)) ∧
    (e.fbit TIM_JUMP_PEND = true → s.goes .accept (fun d => steps (-(sx 63 (e.fget TIM_JUMP_OFS))) true d ∧
      d.fget TIM_JUMP_PEND = 0 ∧ d.crook = 2)) ∧
    (e.fbit TIM_JUMP_PEND = false → s.goes .accept (fun d => d = e)) ∧
    (e.crook = 4 → s.goes .set (fun d => d = e.refuseWr TIM_JUMP_CTL)) ∧
    (e.crook ≠ 4 → s.goes .set (fun d => steps (sx 64 (e.fget TIM_SET_D)) true d ∧ d.regs = e.regs)) ∧
    s.goes (.wallOffsetWrite v) (fun d => d.rget TIM_WALL = v ∧ d.sh.clk.wallPend = some v) ∧
    (s.cellOn p = true →
      s.cellGoes p (.referenceStale (.cell p) cv) (fun n => n.fget SRB_FE_REF_STALE =
        if c.fe.conv.accepted && decide (1000 < c.fe.conv.age c.tm.time) then 1 else c.fget SRB_FE_REF_STALE) ∧
      s.cellGoes p (.diagnosticRound (.cell p)) (fun n => (∀ a, n.rget a = c.rget a) ∧
        (c.fget SRB_FE_GLB_DIAGPER ≠ 0 → c.fe.conv.diag = [] → n.fe.conv.diag = c.diagList) ∧
        (c.fget SRB_FE_GLB_DIAGPER ≠ 0 → c.fe.conv.diag ≠ [] →
          n.fe.conv.diag = c.fe.conv.diag ∧ n.fe.conv.roundPend = true)) ∧
      s.goes (.filteredResult (.cell p)) (fun d => d.freeCtr = e.freeCtr + 1 ∧ d.regs = e.regs ∧
        (c.tm.everTime = false → ∀ a, (d.cell p).rget a = c.rget a) ∧
        (c.tm.everTime = true → (d.cell p).fget SRB_FE_TDIE_T = td.toNat ∧
          ∀ n < 8, (d.cell p).rget (SRB_FE_FILT n) =
            if c.fbit (SRB_FE_CH_EN n) then ((c.inp n).filtered (c.streamCfg n) (ts32 (msStart c.tm.time))).1
            else c.rget (SRB_FE_FILT n)) ∧
        (c.tm.everTime = true → ∀ n < 8, c.fbit (SRB_FE_CH_EN n) = false →
          (d.cell p).inp n = (c.inp n).unfiltered))) ∧
    (e.present 6 = true →
      (e.running 6 = true → s.goes (.filteredResult .aq) (fun d => d.aq.td = td)) ∧
      (e.running 6 = false → s.goes (.filteredResult .aq) (fun d => d.aq = e.aq ∧ d.freeCtr = e.freeCtr + 1)) ∧
      s.goes (.referenceStale .aq cv) (fun d => d.fbit (AQ_REF_STALE cv.val) = (e.fbit (AQ_REF_STALE cv.val) ||
        (e.running 6 && (e.aq.cv cv.val).accepted && decide (1000 < (e.aq.cv cv.val).age e.aqNow)))) ∧
      s.goes (.diagnosticRound .aq) (fun d => d.regs = e.regs ∧
        (e.running 6 = true → e.fget AQ_DIAG_DIAGPER ≠ 0 → (e.aq.cv cv.val).diag = [] →
          (d.aq.cv cv.val).diag = e.aqDiagList cv.val)) ∧
      (¬ slotOk → s.goes (.aqConversionSlot cv j x) (fun d => d = e)) ∧
      (slotOk → s.goes (.aqConversionSlot cv j x) (fun d => (d.aq.cv cv.val).slotNo = j + 1 ∧
        ∀ ch, (aqOrder (aqFour e.aqInForce cv.val) e.aq.k)[j]? = some ch →
          (j < aqTc e.period → d.fget (AQ_CH_RES_Y ch) = (d.aq.input ch).y.toNat ∧ d.fget (AQ_CH_RES_V ch) = 1) ∧
          (aqTc e.period ≤ j → d.regs = e.regs ∧ d.aq.input ch = e.aq.input ch))))

/-- While the shepherd runs, an asserted SAFE_REQ pin is a demand of SPB for both converters: unless it stands already it
    is counted, sets ACT and CONV, starts BLOCK blocks, sets the safety bit of the lanes' votes and asks for BLOCK mode.
    Each tally set is evaluated once; an enabled SLC channel acts when a source has been over its limit in its last N
    samples, when both sources are missing, and when they differ by more than its limit; the last two set their bits. A
    repeat sends the next copy from every live end while a decision stands, and a TEST block goes out at each live end of
    a whole ring. RST clears exactly the ACT bits whose demand has ended, and with none left CONV, SAFE_STATE and the
    blocks end. COMMIT and SH_SAFE_DATA are refused outside COMMISSION; a staging copy that fails R629 sets CREF and keeps
    the store; an accepted one is stored with its check value and CONFD cleared. A confirmation that matches sets CONFD,
    another clears it. A failed test sets the bit of its row, with SPB for rows 1 and 13; a passed one changes no
    register. A failed watchdog or working copy is package-fatal: outside a twin pair every live end sends a BLOCK block
    first; then every register is at reset but FAULT_n, and boot memory and cells stand. (R607, R612, R613, R616, R617,
    R618, R623, R628, R629, R632, R604) -/
def Obligations.SafetyChannelResults : Prop :=
  ∀ (s : State) (pin : Fin 2) (w : Fin 64) (v : W64) (c : W32) (pins : BitVec 2) (stuck : Bool) (j : Fin 4),
    let e := s.dev
    let st := e.sh.safe
    let row := fun (n : Nat) (d : Dev) => bitOf (d.fget SH_SAFE_STAT_DIAG) (n - 1) = true
    let acts := fun (fn : Nat) (d : Dev) => bitOf (d.fget SH_SAFE_STAT_ACT) fn = true
    let quietly := fun (d : Dev) => d.regs = e.regs ∧ d.out = e.out ∧ d.sh.safe.safeWork = st.safeWork
    let lost := fun (d : Dev) => d.nv = e.nv ∧ d.cells = e.cells ∧ d.fbit SH_SAFE_STAT_FAULTN = true ∧
      d.fget SH_SAFE_STAT_ACT = 0 ∧ (∀ a, a ≠ SH_SAFE_STAT → d.rget a = regReset a) ∧
      (e.twin = true → d.out = e.out) ∧ (e.twin = false → ∃ pl, Pl.get pl 0 8 = 1 ∧
        e.sends d (e.liveEnds.map (fun q => (.ringEnd q.1 q.2, 0x8, pl))))
    let ends := fun (l : List (Nat × End)) (pl : Payload) (d : Dev) => e.sends d (l.map (fun q => (.ringEnd q.1 q.2, 0x8, pl)))
    let pkgB := b2n (e.twin && decide (e.fget SH_TWIN_STAT_ID ≠ 0))
    let whole := fun (r : Nat) => (e.ring r).up && (e.ring r).breaks.isEmpty && (e.ring r).dark.isNone &&
      (decide (e.ringState r = 3) || decide (e.ringState r = 4))
    let lim := st.safeWork.f32 (chAt j.val + 4)
    let cnt := st.safeWork.u8 (chAt j.val + 3)
    let after := e.setPins pins
    let src := fun (k : Nat) => e.srcVal st.safeWork (st.safeWork.u8 (chAt j.val + k))
    (e.running 7 = false → s.goes (.safeReqDemand pin) (fun d => d = e)) ∧
    (e.running 7 = true → s.goes (.safeReqDemand pin) (fun d => d.sh.pin.safeReq.getLsbD pin.val = true ∧ acts 0 d ∧
      d.fget SH_SAFE_STAT_CONV = 3 ∧
      (bitOf (e.fget SH_SAFE_STAT_ACT) 0 = false ∨ e.fget SH_SAFE_STAT_CONV ≠ 3 →
        d.fget SH_SAFE_STAT_DEMCNT = min (e.fget SH_SAFE_STAT_DEMCNT + 1) 0xFFFFFFFF ∧ d.sh.safe.blkOn = true ∧
        d.sh.vote.safeSpb = true ∧ ∃ q m, d.sh.mode.modeNext = some (q, m) ∧ q ≤ 1))) ∧
    (e.running 7 = false ∨ e.sh.tly.closed ≤ st.safeCyc → s.goes .safetyEvaluation (fun d => d = e)) ∧
    (e.running 7 = true → st.safeCyc < e.sh.tly.closed → s.goes .safetyEvaluation (fun d =>
      d.sh.safe.safeCyc = e.sh.tly.closed ∧
      (st.safeOk = false → d.fget SH_SAFE_STAT_ACT = e.fget SH_SAFE_STAT_ACT) ∧
      (st.safeOk = true → st.safeWork.chOn j.val = true →
        (src 0 = none → src 1 = none → acts 1 d ∧ row 6 d) ∧
        (∀ k < 2, ∀ v, src k = some v → v.ovr = true ∨ f32.lt lim (f32.abs v.x) = true → cnt ≤ 64 →
          cnt ≤ e.overCount (2 * j.val + k) + 1 → acts 1 d) ∧
        (∀ v w, src 0 = some v → src 1 = some w → f32.lt (st.safeWork.f32 (chAt j.val + 8))
          (f32.abs (safeWord ((f32.read v.x).add (f32.read w.x).neg))) = true → acts 1 d ∧ row 7 d)))) ∧
    (st.blkOn = false → s.goes .blockRepeat (fun d => d = e)) ∧
    (st.blkOn = true → s.goes .blockRepeat (fun d => d.regs = e.regs ∧ d.sh.safe.blkN = (st.blkN + 1) % 65536 ∧
      ends e.liveEnds (Pl.mk [(0, 4, 1), (0, 8, 16 * e.fget SH_SAFE_STAT_ACT), (1, 8, pkgB), (2, 16, st.blkSeq.toNat),
        (4, 32, st.blkTdet.toNat), (8, 16, st.blkN)]) d)) ∧
    s.goes .testBlockSend (fun d => d.regs = e.regs ∧
      ends (e.liveEnds.filter (fun q => whole q.1)) (Pl.mk [(0, 8, 2), (1, 8, pkgB)]) d) ∧
    (e.fget SH_SAFE_STAT_ACT = 0 ∨ e.fbit SH_SAFE_STAT_SSTATE = true ∨ st.safeStateMiss = true →
      s.goes .safeStateTimeout (fun d => d = e)) ∧
    (e.fget SH_SAFE_STAT_ACT ≠ 0 → e.fbit SH_SAFE_STAT_SSTATE = false → st.safeStateMiss = false →
      s.goes .safeStateTimeout (fun d => d.sh.safe = { st with safeStateMiss := true } ∧
        d.fget SH_SAFE_STAT_SSTATE = 0)) ∧
    s.goes (.safetyReset pins) (fun d => d.sh.pin.safeReq = pins ∧
      (∀ fn < 4, bitOf (d.fget SH_SAFE_STAT_ACT) fn =
        (bitOf (e.fget SH_SAFE_STAT_ACT) fn && !after.demandOver fn)) ∧
      (d.fget SH_SAFE_STAT_ACT = 0 → d.fget SH_SAFE_STAT_CONV = 0 ∧ d.fget SH_SAFE_STAT_SSTATE = 0 ∧
        d.sh.safe.blkOn = false) ∧
      (d.fget SH_SAFE_STAT_ACT ≠ 0 → d.sh.safe.blkOn = st.blkOn)) ∧
    (e.mode ≠ 1 → s.goes .commit (fun d => d = e.refuseWr SH_SAFE_CTL) ∧
      s.goes (.safetyDataWrite w v) (fun d => d = e.refuseWr (SH_SAFE_DATA w.val))) ∧
    (e.mode = 1 →
      (e.staging.safeValid = false → s.goes .commit (fun d => d.fbit SH_SAFE_STAT_CREF = true ∧ d.nv = e.nv)) ∧
      (e.staging.safeValid = true → s.goes .commit (fun d => d.fbit SH_SAFE_STAT_CREF = false ∧
        d.nv.safe = e.staging ∧ d.nv.chk = e.staging.check ∧ d.nv.confd = false ∧
        d.sh.safe.safeNext = some e.staging ∧ d.sh.safe.safeWork = st.safeWork)) ∧
      s.goes (.safetyDataWrite w v) (fun d => d.rget (SH_SAFE_DATA w.val) = v ∧
        d.fget SH_SAFE_CHK_STAGED = d.staging.check.toNat ∧ d.nv = e.nv)) ∧
    s.goes (.safetyConfirm c) (fun d => (d.nv.confd = true ↔ c = e.nv.chk) ∧ d.nv.safe = e.nv.safe ∧ d.nv.chk = e.nv.chk) ∧
    s.goes (.safeReqTest pin stuck) (fun d => (stuck = true → row 1 d ∧ acts 0 d) ∧ (stuck = false → quietly d)) ∧
    s.goes .discrepancyTimer (fun d =>
      (e.sh.pin.safeReq = 1 ∨ e.sh.pin.safeReq = 2 → row 2 d ∧ d.sh.safe.safeWork = st.safeWork) ∧
      (e.sh.pin.safeReq = 0 ∨ e.sh.pin.safeReq = 3 → quietly d)) ∧
    s.goes .storeCrcCheck (fun d => d.sh.safe.safeWork = st.safeWork ∧ d.nv = e.nv ∧
      (e.nv.safeLen = 0 ∨ e.storeGood = true → quietly d) ∧ (e.nv.safeLen ≠ 0 → e.storeGood = false → row 5 d)) ∧
    (e.fbit SH_SAFE_STAT_FAULTN = true → s.goes (.faultNTestPulse stuck) (fun d => d = e)) ∧
    (e.fbit SH_SAFE_STAT_FAULTN = false → s.goes (.faultNTestPulse true) quietly ∧
      s.goes (.faultNTestPulse false) (fun d => row 13 d ∧ acts 0 d)) ∧
    s.goes .outputReadbackShort (fun d => d.fbit SH_SAFE_STAT_SHORT = true ∧ d.sh = e.sh ∧
      d.fget SH_SAFE_STAT_ACT = e.fget SH_SAFE_STAT_ACT) ∧
    (e.powered 7 = true → s.goes .safetyWatchdog lost) ∧ (e.powered 7 = false → s.goes .safetyWatchdog (fun d => d = e)) ∧
    (st.safeOk = true → st.safeNext = none → st.safeWork.check ≠ e.nv.chk → s.goes .workingCopyCrc lost) ∧
    (st.safeOk = false ∨ st.safeNext ≠ none ∨ st.safeWork.check = e.nv.chk → s.goes .workingCopyCrc (fun d => d = e))

/-- A received frame with a good FCS and a legal length that the PTP engine does not take goes whole, behind its type,
    port, stamp and length, to the FIFO of its port when that has room, and is counted as dropped when not; a bad FCS is
    counted. The words of a transmit packet gather, and its EOP word sends the frame padded to 60 bytes with its FCS, or
    counts a broken packet; a stamp asked for joins the queue, which a read pops. Clearing causes leaves exactly the
    others set. A read of an RC register returns the value and clears its RC bits (SYNC and EXCF of a cell are free, log
    entry 104); SRB_TIME_LO latches SRB_TIME_HI. A read of several registers reads each, BAR2 reads as zero, and the
    configuration space gives class and Bus Master Enable. A write of a register with a command of its own is that
    command, one into BAR2 that of the packing window; another changes the RW bits; RWL bits of a locked cell keep; a
    misaligned access is counted, and one to a window or a cell without power does nothing. Debug access opens only in
    COMMISSION with the strap, closes at any time, and only while open are cores enabled, halted, resumed and their
    registers and memory read and written; a counting lane is not halted where R322 refuses it. After a task is halted or
    resumed the scheduler decides anew. (R13, R14, R15, R254, R322, R398, R399, R444, R653, R654, R656, R658) -/
def Obligations.HostPortResults : Prop :=
  ∀ (s : State) (port : Fin 8) (l : List Byte) (rd : RDie) (i : Fin 4) (w v : W64) (a bytes : Nat) (row : RegRow) (p : Place)
    (rcell : RegRow) (die : CDie) (k : Fin 16) (t : Fin 512) (st : W64) (rest : List W64) (y1 : Fin 12) (y2 : Fin 64) (y3 : Fin 192),
    let e := s.dev
    let n := spDie port.val
    let ix := e.fifoLoc (spFifo port.val)
    let pkt := packetWords (bytesOf 5 1 ++ bytesOf port.val 1 ++
      bytesOf (ux 40 (e.spStamp port.val (TIM_SP_LAT_ING port.val))) 5 ++ bytesOf l.length 2 ++ l)
    let legal := 60 ≤ l.length ∧ l.length ≤ 1518 ∧ e.ptpConsumes port.val l = false
    let q := (e.rd rd.idx).sp i.val
    let sop := w.getLsbD 62
    let got := (if sop then [] else q.words) ++ [w]
    let whole := sop = true ∨ (q.words ≠ [] ∧ q.bad = false ∧ q.words.length < Config.txWords)
    let fr := got.flatMap wordBytes
    let body := fr.drop 2 ++ List.replicate (60 - (fr.drop 2).length) 0
    let c := e.cell p
    let o := a % 0x10000
    let x := e.cd die.idx
    let y := x.task t.val
    let sel := e.fget (CDx_DBG_SEL_A die.idx)
    let core := e.fget (CDx_DBG_SEL_CORE die.idx)
    let voting := e.lane die.idx = 3 ∨ e.lane die.idx = 4
    let badacc := fun (d : Dev) => d = e.finc GLB_HOST_BADACC
    (e.present (4 + n) = true →
      (e.powered (4 + n) = false → s.goes (.stationFrameReceive port l true) (fun d => d = e)) ∧
      (e.powered (4 + n) = true →
        s.goes (.stationFrameReceive port l false) (fun d => d.fget (RDn_SP_ERR_FCS n (spIdx port.val)) =
          min (e.fget (RDn_SP_ERR_FCS n (spIdx port.val)) + 1) 0xFFFFFFFF ∧ d.rd n = e.rd n) ∧
        (¬ legal → s.goes (.stationFrameReceive port l true) (fun d => d.rd n = e.rd n)) ∧
        (legal → ((e.rd n).fifo ix).ptrBad = false → pkt.length ≤ e.fifoFree (spFifo port.val) →
          s.goes (.stationFrameReceive port l true) (fun d =>
            ((d.rd n).fifo ix).words = ((e.rd n).fifo ix).words ++ pkt)) ∧
        (legal → ((e.rd n).fifo ix).ptrBad = false → e.fifoFree (spFifo port.val) < pkt.length →
          s.goes (.stationFrameReceive port l true) (fun d => ((d.rd n).fifo ix).words = ((e.rd n).fifo ix).words ∧
            d.fget (FIF_STAT_DROP n ix) = min (e.fget (FIF_STAT_DROP n ix) + 1) (2 ^ (FIF_STAT_DROP n ix).width - 1))))) ∧
    (e.present (4 + rd.idx) = true →
      (w.getLsbD 63 = false ∨ e.powered (4 + rd.idx) = false → s.goes (.stationFrameTransmit rd i w) (fun d => d = e)) ∧
      (w.getLsbD 63 = true → e.powered (4 + rd.idx) = true → whole →
        (w.getLsbD 61 = false → s.goes (.stationFrameTransmit rd i w) (fun d => d.out = e.out ∧
          ((d.rd rd.idx).sp i.val).words = got)) ∧
        (w.getLsbD 61 = true → (fr.drop 2).length ≤ 1518 → bitOf (fr.headD 0).toNat 1 = false →
          (bitOf (fr.headD 0).toNat 0 = false → s.goes (.stationFrameTransmit rd i w) (fun d =>
            d.out = .frame (4 * rd.idx + i.val) (body ++ ethFcs body) :: e.out ∧
            ((d.rd rd.idx).sp i.val) = { q with words := [], bad := false })) ∧
          (bitOf (fr.headD 0).toNat 0 = true → s.goes (.stationFrameTransmit rd i w) (fun d =>
            .frame (4 * rd.idx + i.val) (body ++ ethFcs body) ∈ d.out ∧
            ∃ m, ((d.rd rd.idx).sp i.val).stamps.getLast? = some m ∧ m.getLsbD 63 = true ∧
              bitsOf m.toNat 48 8 = (fr.getD 1 0).toNat)))) ∧
      (w.getLsbD 63 = true → e.powered (4 + rd.idx) = true → ¬ whole → w.getLsbD 61 = true →
        s.goes (.stationFrameTransmit rd i w) (fun d => d.out = e.out ∧ ((d.rd rd.idx).sp i.val) = { q with words := [], bad := false } ∧
          d.fget (RDn_SP_TXST_DROP rd.idx i.val) =
            min (e.fget (RDn_SP_TXST_DROP rd.idx i.val) + 1) (2 ^ (RDn_SP_TXST_DROP rd.idx i.val).width - 1))) ∧
      (e.winUp (RDn_SP_TXTS rd.idx i.val) = true → q.stamps = st :: rest → s.goes (.transmitStampPop rd i) (fun d =>
        ((d.rd rd.idx).sp i.val).stamps = rest ∧ ∃ m, d.rdata = [m] ∧ bitsOf m.toNat 0 62 = bitsOf st.toNat 0 62))) ∧
    (e.winUp GLB_IRQ_STAT = true → s.goes (.irqCauseClear false v) (fun d =>
      d.rget GLB_IRQ_STAT = e.rget GLB_IRQ_STAT &&& ~~~(v &&& 0xFFFF00000000) ∧
      ∀ j < 15, d.fbit ⟨GLB_IRQ_STAT, 32 + j, 1⟩ = true → e.fbit (GLB_MSIX_CTL_MASK (32 + j)) = false →
        e.sh.pin.busMaster = true → .msix (32 + j) ∈ d.out)) ∧
    (e.winUp GLB_FIFO_IRQ = true → s.goes (.irqCauseClear true v) (fun d => d.rget GLB_FIFO_IRQ = e.rget GLB_FIFO_IRQ &&& ~~~v)) ∧
    (a % 8 = 0 → a < 0x200000 → pkgRowAt a = some row → s.goes (.rcRead (.bar0 a 8)) (fun d => d.rdata = [e.view a] ∧
      d.rget a = e.rget a &&& ~~~(BitVec.ofNat 64 row.rc) ∧ ∀ b, b ≠ a → d.rget b = e.rget b)) ∧
    (aligned a bytes = true → a + bytes ≤ 0x200000 → s.goes (.rcRead (.bar0 a bytes)) (fun d =>
      d.rdata.length = bytes / 8 ∧ d.rdata.head? = some (e.view a))) ∧
    (aligned a bytes = false → inAlias a = false → inPort a = false → s.goes (.rcRead (.bar0 a bytes)) (fun d =>
      d = (e.finc GLB_HOST_BADACC).answer (List.replicate (wordsOf bytes) 0))) ∧
    s.goes (.rcRead (.bar2 a bytes)) (fun d => d = e.answer (List.replicate (wordsOf bytes) 0)) ∧
    s.goes (.rcRead (.config 4)) (fun d => d.regs = e.regs ∧ ∃ m, d.rdata = [m] ∧ m.getLsbD 2 = e.sh.pin.busMaster) ∧
    s.goes (.rcRead (.config 8)) (fun d => d.regs = e.regs ∧ ∃ m, d.rdata = [m] ∧ bitsOf m.toNat 8 24 = 0x118000) ∧
    (e.hasPlace p = true → c.powered = false → s.goes (.rcRead (.cell p o)) (fun d => d = e) ∧
      s.goes (.timeLatchRead p) (fun d => d = e) ∧ s.goes (.registerWrite (.cell p o) v) (fun d => d = e)) ∧
    (e.hasPlace p = true → c.powered = true →
      (findRow cellRows o = some rcell → o ∉ [SRB_TIME_LO, SRB_ALARM_LAT, SRB_RP_SYNC 0, SRB_RP_SYNC 1, SRB_FE_EXC] →
        s.goes (.rcRead (.cell p o)) (fun d =>
          d.rdata = [(c.view o).setWidth 64] ∧ (d.cell p).rget o = c.rget o &&& ~~~(BitVec.ofNat 32 rcell.rc))) ∧
      (o ∈ [SRB_RP_SYNC 0, SRB_RP_SYNC 1] → s.goes (.rcRead (.cell p o)) (fun d => (d.cell p).rget o = 0 ∧
        ∃ m, d.rdata = [m] ∧ m.toNat % 2 ^ 16 = (c.rget o).toNat % 2 ^ 16)) ∧
      s.goes (.rcRead (.cell p SRB_FE_EXC)) (fun d =>
        ∃ m, d.rdata = [m] ∧ m &&& ~~~0x100#64 = (c.rget SRB_FE_EXC).setWidth 64 &&& ~~~0x100#64) ∧
      s.goes (.timeLatchRead p) (fun d => d.rdata = [(ts32 c.tm.time).setWidth 64] ∧
        (d.cell p).rget SRB_TIME_HI = ts32 (c.tm.time / 2 ^ 32)) ∧
      s.goes (.registerWrite (.cell p SRB_OVW) v) (fun d => (d.cell p).rget SRB_OVW = v.setWidth 32) ∧
      s.goes (.registerWrite (.cell p SRB_PWM_CFG) v) (fun d => (d.cell p).rget SRB_PWM_CFG = if c.locked then c.rget SRB_PWM_CFG
        else (c.rget SRB_PWM_CFG &&& ~~~0xF1FFFF#32) ||| (v.setWidth 32 &&& 0xF1FFFF#32))) ∧
    (a % 8 ≠ 0 ∨ bytes ≠ 8 ∨ inAlias a = true → s.goes (.registerWrite (.bar0 a bytes) v) badacc) ∧
    (a % 8 = 0 → inAlias a = false → e.winUp a = false → s.goes (.registerWrite (.bar0 a 8) v) (fun d => d = e)) ∧
    (a < 0x10000 → exec (.registerWrite (.bar2 a bytes) v) s = exec (if 0x8000 ≤ a then .legacyEnd a (v.setWidth 16) bytes
      else .legacyAppend a (v.setWidth 16) bytes) s) ∧
    (∀ q ∈ [(TIM_CYC_CFG, Instr.cycleConfigurationWrite v), (SH_FOLD_CFG y1.val, .foldConfigurationWrite y1 v),
        (TIM_WALL, .wallOffsetWrite v), (SH_LE_PARAM, .leParamGo v), (SH_LEDG_CFG, .ledgerLengthWrite v),
        (SH_FLT_CFG, .faultConfigurationWrite v), (SH_SAFE_DATA y2.val, .safetyDataWrite y2 v),
        (SH_SAFE_CONFIRM, .safetyConfirm (v.setWidth 32)), (SH_IMG_DATA, .imageData v), (GLB_IRQ_STAT, .irqCauseClear false v),
        (GLB_FIFO_IRQ, .irqCauseClear true v), (GLB_DBG_CORES, .debugCoresWrite v), (GLB_TXS_REQ y2.val, .transactionSlotGo y2 v),
        (RDn_HUB_REQ rd.idx, .hubRequest rd v), (AQ_CH_CFG y3.val, .aqChannelWrite y3 v)],
      e.winUp q.1 = true → exec (.registerWrite (.bar0 q.1 8) v) s = exec q.2 s) ∧
    (a % 8 = 0 → a < 0x200000 → pkgRowAt a = some row → e.cycleRegWrite a v = none → e.packageRegWrite a v = none →
      e.portRegWrite a v = none → s.goes (.registerWrite (.bar0 a 8) v) (fun d => (∀ b, b ≠ a → d.rget b = e.rget b) ∧
        d.rget a = ((e.rget a &&& ~~~(BitVec.ofNat 64 row.rw)) ||| (v &&& BitVec.ofNat 64 row.rw)) &&&
          ~~~(v &&& BitVec.ofNat 64 row.w1c))) ∧
    s.goes (.registerWrite (.config 4) v) (fun d => d.sh.pin.busMaster = v.getLsbD 2 ∧ d.regs = e.regs) ∧
    (e.mode = 1 → e.fbit GLB_DBG_STRAP = true → s.goes .openreq (fun d => d.debugOpen = true)) ∧
    (e.mode ≠ 1 ∨ e.fbit GLB_DBG_STRAP = false → s.goes .openreq (fun d => d = e.refuseWr GLB_DBG)) ∧
    s.goes .close (fun d => d.debugOpen = false ∧ d.rget GLB_DBG_CORES = 0) ∧
    (e.debugOpen = true → s.goes (.debugCoresWrite v) (fun d => d.rget GLB_DBG_CORES = v)) ∧
    (e.debugOpen = false → s.goes (.debugCoresWrite v) badacc) ∧
    (e.present die.idx = true → e.powered die.idx = true →
      (e.debugOpen = false → s.goes (.halt die (.core k)) (fun d => d = e.finc (SCH_STAT_HOSTWR die.idx)) ∧
        s.goes (.resume die (.core k)) (fun d => d = e.finc (SCH_STAT_HOSTWR die.idx))) ∧
      (e.debugOpen = true →
        (e.debugCore die.idx k.val = true → e.lane die.idx ≠ 4 → s.goes (.halt die (.core k)) (fun d =>
          ((d.cd die.idx).core k.val).halted = true ∧ d.debugOpen = true)) ∧
        (e.debugCore die.idx k.val = true → e.lane die.idx = 4 → e.retireRefused = true →
          s.goes (.halt die (.core k)) (fun d => d = e.refuseWr (SCH_DBG die.idx))) ∧
        (y.part ≠ 0 ∨ e.lane die.idx ≠ 4 ∨ e.retireRefused = false →
          (y.state ∈ [.ready, .waitMbox, .waitDelay, .waitTag, .waitCyc, .waitLock, .running] → y.seq = none → y.deleting = false →
            s.goes (.halt die (.task t)) (fun d => ((d.cd die.idx).task t.val).state = .halted ∧
              ((d.cd die.idx).task t.val).hstate = y.state ∧ t.val ∉ (d.cd die.idx).ready ∧ t.val ∉ (d.cd die.idx).vready ∧
              ∃ b : Dev, d = b.resched die.idx)) ∧
          (y.state = .running → y.seq ≠ none → s.goes (.halt die (.task t)) (fun d =>
            ((d.cd die.idx).task t.val).state = .running ∧ ((d.cd die.idx).task t.val).haltReq = true))) ∧
        (y.part = 0 → y.state ≠ .free → e.lane die.idx = 4 → e.retireRefused = true →
          s.goes (.halt die (.task t)) (fun d => d = e.refuseWr (SCH_DBG die.idx))) ∧
        s.goes (.resume die (.core k)) (fun d =>
          ∃ x' : CtrlDie, d = (e.setCd die.idx x').resched die.idx ∧ (x'.core k.val).halted = false) ∧
        (y.state ≠ .halted → s.goes (.resume die (.task t)) (fun d => d = e)) ∧
        (y.state = .halted → s.goes (.resume die (.task t)) (fun d => ∃ x' : CtrlDie,
          d = (e.setCd die.idx x').resched die.idx ∧
          (y.hstate ∈ [.ready, .running] → (x'.task t.val).state = .ready ∧ t.val ∈ (if y.part = 0 then x'.vready else x'.ready)) ∧
          (y.hstate ∈ [.waitMbox, .waitLock, .waitDelay, .waitTag, .waitCyc] → (x'.task t.val).state = y.hstate)))) ∧
      (e.dbgOk die.idx = false → s.goes (.debugDataRead die) (fun d => d.rdata = [0] ∧ d.regs = e.regs) ∧
        s.goes (.debugDataWrite die v) badacc) ∧
      (e.dbgOk die.idx = true → e.fbit (CDx_DBG_SEL_MEM die.idx) = true → inSram sel = true →
        s.goes (.debugDataRead die) (fun d => d.rdata = [BitVec.ofNat 64 (x.dmem.readLE (sel - sel % 8) 8)]) ∧
        (voting ∧ sel < 0x11800000 → s.goes (.debugDataWrite die v) badacc) ∧
        (¬ voting ∨ 0x11800000 ≤ sel → s.goes (.debugDataWrite die v) (fun d =>
          (d.cd die.idx).dmem.readLE (sel - sel % 8) 8 = v.toNat))) ∧
      (e.dbgOk die.idx = true → e.fbit (CDx_DBG_SEL_MEM die.idx) = true → inSram sel = false →
        s.goes (.debugDataRead die) (fun d => d.rdata = [0] ∧ d.regs = e.regs) ∧ s.goes (.debugDataWrite die v) badacc) ∧
      (e.dbgOk die.idx = true → e.fbit (CDx_DBG_SEL_MEM die.idx) = false → (x.core core).task = some t.val →
        s.goes (.debugDataRead die) (fun d => d.rdata = [x.reg core t.val (Reg.ofCode sel)]) ∧
        (voting ∧ y.part = 0 → s.goes (.debugDataWrite die v) badacc) ∧
        (¬ voting ∨ y.part ≠ 0 → s.goes (.debugDataWrite die v) (fun d =>
          d.cd die.idx = x.setReg core t.val (Reg.ofCode sel) v))))

/-- ERASE empties a slot that no die uses and opens a write; each datum then stores 8 bytes and LEN counts; FINISH begins
    the check and its completion keeps a whole image with good CRCs; a busy port, a slot in use, a datum that does not fit
    are refused with their WHY. LOAD of an image that is not good, or that R327 or R328 refuses, is refused with its
    signature, a lane that does not count reloading what it ran; one that would leave too few counting lanes in a package
    that switches is refused with WHY 5; any other begins. At its completion, with the cause of vector 45, each die whose
    readback is good runs the image, and another is powered down. RETRY is kept in boot memory. A fatal fault of a die
    with power takes its power, notes its cause and begins the power cycle, or leaves it down the second time within 24 h;
    of the shepherd or the last ring die it is package-fatal: all but FAULT_n at reset. The power cycle, REVIVE and the
    die's return follow R601 and R602. Loss of VDDH resets all but boot memory, cells and pins, a reset keeps the power
    lines, fatal states and the event log, a PCIe reset clears its own range only. a reset keeps FAULT_n too. A start that
    reaches its end sets DONE and raises vector 42; the referee's strap and lines give its role, a SAFE_REQ_n pin that
    reads asserted at step 4 is a demand, step 10 fails without a good safety store, and step 9 is the last where the
    wiring is wrong; one without REFCLK stops at step 1, one with bad shepherd trims is package-fatal, one that fails its
    self-test stops at step 4 with FAULT_n low. (R584, R587, R588, R600, R601, R602, R604, R623, R638, R657, R674, R676) -/
def Obligations.ImagePowerAndResetResults : Prop :=
  ∀ (s : State) (b pass : Bool) (v : W64) (dies ok : BitVec 4) (die : Die) (rd : RDie) (pg : Byte) (env : StartEnv),
    let e := s.dev
    let n := b2n b
    let len := e.fget SH_IMG_CTL_LEN
    let busy := e.fbit SH_IMG_CTL_BUSY
    let why := fun (k : Nat) (d : Dev) => d.fget SH_IMG_CTL_WHY = k ∧ d.nv = e.nv
    let m := b2n e.sh.img.imgSlotB
    let named := e.loadDies dies.toNat
    let cnt := named.filter (fun j => decide (e.lane j = 4))
    let tooFew := cnt ≠ [] ∧ (e.mode = 2 ∨ e.mode = 3 ∨ e.mode = 4) ∧ e.counting.length < cnt.length + 2
    let i := die.idx
    let lost := fun (d : Dev) => d.nv = e.nv ∧ d.cells = e.cells ∧ d.fbit SH_SAFE_STAT_FAULTN = true ∧
      ∀ a, a ≠ SH_SAFE_STAT → d.rget a = regReset a
    let down := fun (cause : Nat) (d : Dev) => d.fget (GLB_DIE_FATAL i) = 1 ∧ d.fget (GLB_DIE_PWR i) = 0 ∧
      d.fget (GLB_DIE_PG i) = 0 ∧ d.fget (SH_FLT_DIE_CAUSE i) = cause ∧
      (e.againFatal i = false → d.fget (GLB_DIE_STATE i) = 4 ∧ d.fget (SH_FLT_DIE_PCYC i) = 1) ∧
      (e.againFatal i = true → d.fget (GLB_DIE_STATE i) = 5 ∧ d.fget (SH_FLT_DIE_LEFT i) = 1) ∧
      (∀ j < 4, j = i → d.cd j = CtrlDie.reset)
    let fatal := fun (c : Instr) (cause : Nat) =>
      (e.powered i = false → s.goes c (fun d => d = e)) ∧
      (e.powered i = true → i = 7 ∨ (i = 4 ∧ e.running 5 = false) ∨ (i = 5 ∧ e.running 4 = false) → s.goes c lost) ∧
      (e.powered i = true → i ≠ 7 → (i = 4 → e.running 5 = true) → (i = 5 → e.running 4 = true) → s.goes c (down cause))
    let left := fun (d : Dev) => d.fget (GLB_DIE_PWR i) = 0 ∧ d.fget (GLB_DIE_STATE i) = 5 ∧
      d.fget (SH_FLT_DIE_PCYC i) = 0 ∧ d.fget (SH_FLT_DIE_LEFT i) = 1
    let back := e.cycling i = true ∧ e.fbit (GLB_DIE_PWR i) = true
    let starts := e.powered 7 = true ∧ env.pgOk.getLsbD 7 = true ∧ e.fbit SH_BOOT_STAT_DONE = false ∧ e.mode = 7 ∧ e.fget SH_BOOT_STAT_STEP ≤ 1
    let demand := fun (d : Dev) => d.sh.pin.safeReq = env.safePins ∧ (env.safePins ≠ 0 → bitOf (d.fget SH_SAFE_STAT_ACT) 0 = true)
    (busy = true → s.goes (.erase b) (why 6) ∧ s.goes .finish (why 6) ∧
      (dies ≠ 0 → s.goes (.load b dies) (why 6)) ∧
      (e.sh.img.imgWrite = some b → s.goes (.imageData v) (why 2))) ∧
    (busy = false →
      (e.slotInUse n = true → s.goes (.erase b) (why 1)) ∧
      (e.slotInUse n = false → s.goes (.erase b) (fun d => d.slotMem n = [] ∧ d.slotLen n = 0 ∧
        d.sh.img.imgWrite = some b ∧ d.fget SH_IMG_CTL_LEN = 0 ∧ d.fbit SH_IMG_CTL_BUSY = true)) ∧
      (e.sh.img.imgWrite = some b →
        (len + 8 ≤ 0x2000000 → s.goes (.imageData v) (fun d => (d.slotMem n).readLE len 8 = v.toNat ∧
          d.fget SH_IMG_CTL_LEN = len + 8 ∧ ∀ a, a < len ∨ len + 8 ≤ a → (d.slotMem n).byte a = (e.slotMem n).byte a)) ∧
        (0x2000000 < len + 8 → s.goes (.imageData v) (why 3)) ∧
        s.goes .finish (fun d => d.fbit SH_IMG_CTL_BUSY = true ∧ d.sh.img.imgOp = 2 ∧ d.nv = e.nv)) ∧
      (e.sh.img.imgWrite = none → s.goes .finish (fun d => d = e)) ∧
      (dies ≠ 0 → e.imageGood n = false → s.goes (.load b dies) (fun d => d.fget SH_IMG_CTL_WHY = 4 ∧
        d.fget SH_VOTE_SIG_LAST = (e.slotMem n).vsig)) ∧
      (dies = 0 → s.goes (.load b dies) (fun d => d = e.fset SH_IMG_CTL_SLOT n)) ∧
      (dies ≠ 0 → e.imageGood n = true → e.slotUsable n = false → s.goes (.load b dies) (fun d => d.fget SH_IMG_CTL_WHY = 4 ∧
        d.fget SH_VOTE_SIG_LAST = (e.slotMem n).vsig ∧ (∀ j ∈ named, e.lane j ≠ 4 → (e.cd j).img ≠ none →
          d.fget (GLB_DIE_STATE j) = 2 ∧ d.sh.img.imgOp = 3 ∧ d.sh.img.imgGood = false))) ∧
      (dies ≠ 0 → e.slotUsable n = true → tooFew → s.goes (.load b dies) (fun d => d.fget SH_IMG_CTL_WHY = 5 ∧
        d.fget SH_REFWR_ADDR = SH_IMG_CTL ∧ d.nv = e.nv ∧ d.sh = e.sh)) ∧
      (dies ≠ 0 → e.slotUsable n = true → ¬ tooFew → s.goes (.load b dies) (fun d =>
        d.fbit SH_IMG_CTL_BUSY = true ∧ d.sh.img.imgOp = 3 ∧ d.sh.img.imgGood = true ∧
        ∀ j ∈ named, d.fget (GLB_DIE_STATE j) = 2)) ∧
      s.goes (.imageOperationComplete ok) (fun d => d = e)) ∧
    (e.sh.img.imgWrite = none → s.goes (.imageData v) (fun d => d = e)) ∧
    (busy = true → s.goes (.imageOperationComplete ok) (fun d => d.fbit SH_IMG_CTL_BUSY = false ∧ d.sh.img.imgOp = 0 ∧
      d.fbit ⟨GLB_IRQ_STAT, 45, 1⟩ = true)) ∧
    (busy = true → e.sh.img.imgOp = 2 → e.sh.img.imgBad = 0 → (e.slotMem m).imageLen ≤ len → len < (e.slotMem m).imageLen + 8 →
      (e.slotMem m).crcsGood = true → s.goes (.imageOperationComplete ok) (fun d =>
        d.slotLen m = (e.slotMem m).imageLen ∧ d.sh.img.imgWrite = none)) ∧
    (busy = true → e.sh.img.imgOp = 3 → e.sh.img.imgGood = true → s.goes (.imageOperationComplete ok) (fun d =>
      ∀ j ∈ e.loadDies e.sh.img.imgDies.toNat,
        (ok.getLsbD j = true → d.fget (GLB_DIE_STATE j) = 3 ∧ (d.cd j).img = some (ImgInfo.ofSlot (e.slotMem m) m) ∧
          ∀ a < (e.slotMem m).ilen, (d.cd j).imem.byte a = (e.slotMem m).byte (256 + a)) ∧
        (ok.getLsbD j = false → d.fget (GLB_DIE_STATE j) = 1 ∧ d.fget (GLB_DIE_PWR j) = 0))) ∧
    s.goes .retry (fun d => d.nv = { e.nv with retry := true } ∧ d.regs = e.regs) ∧
    (e.present i = true → fatal (.pgLoss die) 1 ∧ fatal (.busNoAnswer die) 2 ∧ fatal (.junctionOvertemperature die) 3 ∧
      fatal (.uncorrectableError die) 4 ∧
      (e.cycling i = false → s.goes (.powerCycleOffEnd die) (fun d => d = e) ∧
        s.goes (.powerCyclePgTimeout die) (fun d => d = e)) ∧
      (e.cycling i = true → s.goes (.powerCycleOffEnd die) (fun d => d.fget (GLB_DIE_PWR i) = 1) ∧
        s.goes (.powerCyclePgTimeout die) left) ∧
      (i < 7 → e.fbit (SH_FLT_DIE_LEFT i) = true → s.goes (.revive die) (fun d => d.fget (SH_FLT_DIE_LEFT i) = 0 ∧
        d.fget (SH_FLT_DIE_PCYC i) = 1 ∧ d.fget (GLB_DIE_PWR i) = 1 ∧ d.fget (GLB_DIE_STATE i) = 4)) ∧
      (i = 7 ∨ e.fbit (SH_FLT_DIE_LEFT i) = false → s.goes (.revive die) (fun d => d = e)) ∧
      (¬ back → s.goes (.dieReturn die pass) (fun d => d = e)) ∧
      (back → e.sh.clk.inReset = true → s.goes (.dieReturn die false) left ∧
        s.goes (.dieReturn die true) (fun d => d.fget (SH_FLT_DIE_PCYC i) = 0 ∧ d.fget (GLB_DIE_FATAL i) = 0 ∧
          d.fget (GLB_DIE_STATE i) = 2)) ∧
      (back → e.sh.clk.inReset = false →
        s.goes (.dieReturn die true) (fun d => d.fget (SH_FLT_DIE_PCYC i) = 0 ∧ d.fget (GLB_DIE_FATAL i) = 0 ∧
          d.fget (GLB_DIE_PG i) = 1 ∧ d.fget (GLB_DIE_STATE i) = 3) ∧
        s.goes (.dieReturn die false) (fun d => d.fget (GLB_DIE_PWR i) = 0 ∧ d.fget (GLB_DIE_FATAL i) = 0 ∧
          d.fget (GLB_DIE_STATE i) = 1))) ∧
    (e.present (4 + rd.idx) = true →
      (e.powered (4 + rd.idx) = false → s.goes (.launchConfirmationMissing rd) (fun d => d = e)) ∧
      (e.powered (4 + rd.idx) = true → e.running (5 - rd.idx) = true → s.goes (.launchConfirmationMissing rd) (fun d =>
        d.fget (GLB_DIE_FATAL (4 + rd.idx)) = 1 ∧ d.fget (SH_FLT_DIE_CAUSE (4 + rd.idx)) = 5 ∧
        d.fbit ⟨SH_SAFE_STAT, 40, 1⟩ = true)) ∧
      (e.powered (4 + rd.idx) = true → e.running (5 - rd.idx) = false → s.goes (.launchConfirmationMissing rd) lost)) ∧
    (¬ (∀ j < 8, e.fbit (GLB_DIE_PWR j) = false) → s.goes (.powerUp pg) (fun d => d = e)) ∧
    ((∀ j < 8, e.fbit (GLB_DIE_PWR j) = false) → s.goes (.powerUp pg) (fun d => d.sh.pin.vddh = true ∧
      d.sh.clk.started = pg.getLsbD 7 ∧ d.sh.clk.raw = 0 ∧
      ∀ j < 8, e.present j = true → d.fget (GLB_DIE_PWR j) = 1 ∧ d.fget (GLB_DIE_PG j) = (if pg.getLsbD j then 1 else 0) ∧
        d.fget (GLB_DIE_STATE j) = if pg.getLsbD j then 2 else 1)) ∧
    s.goes .vddhLoss (fun d => d.sh.pin.vddh = false ∧ d.nv = e.nv ∧ d.cells = e.cells ∧ ∀ a, d.rget a = regReset a) ∧
    (e.powered 7 = true → s.goes .refclkLoss lost) ∧
    (e.powered 7 = false → s.goes .refclkLoss (fun d => d.sh.pin.refclk = false ∧ d.regs = e.regs ∧ d.nv = e.nv)) ∧
    s.goes .resetAssert (fun d => d.sh.clk.inReset = true ∧ d.sh.flt.log = e.sh.flt.log ∧ d.nv = e.nv ∧ d.cells = e.cells ∧
      (∀ a, a ≠ SH_SAFE_STAT → (∀ j < 8, a ≠ GLB_DIE j ∧ a ≠ SH_FLT_DIE j) → d.rget a = regReset a) ∧
      d.fget SH_SAFE_STAT_FAULTN = e.fget SH_SAFE_STAT_FAULTN ∧ d.fget SH_SAFE_STAT_ACT = 0 ∧
      ∀ j < 8, d.fget (GLB_DIE_PWR j) = e.fget (GLB_DIE_PWR j) ∧ d.fget (GLB_DIE_FATAL j) = e.fget (GLB_DIE_FATAL j) ∧
        d.fget (SH_FLT_DIE_LEFT j) = e.fget (SH_FLT_DIE_LEFT j)) ∧
    s.goes .pcieReset (fun d => d.sh.pin.busMaster = false ∧ d.nv = e.nv ∧
      ∀ a, d.rget a = if 0x8000 ≤ a ∧ a < 0x9008 then regReset a else e.rget a) ∧
    (¬ starts → s.goes (.startup env) (fun d => d = e)) ∧
    (starts → env.refclkOk = false → s.goes (.startup env) (fun d => d.fget SH_BOOT_STAT_STEP = 1 ∧
      d.fget SH_BOOT_STAT_FAIL = 1 ∧ d.fbit SH_BOOT_STAT_DONE = false)) ∧
    (starts → env.refclkOk = true → env.trimOk.getLsbD 7 = false → s.goes (.startup env) (fun d => d.cells = e.cells ∧
      d.fbit SH_SAFE_STAT_FAULTN = true ∧ ∀ a, a ≠ SH_SAFE_STAT → d.rget a = regReset a)) ∧
    (starts → env.refclkOk = true → env.trimOk.getLsbD 7 = true → env.selfTestOk = false → s.goes (.startup env) (fun d =>
      d.fget SH_BOOT_STAT_STEP = 4 ∧ d.fbit SH_SAFE_STAT_FAULTN = true ∧ d.fbit SH_BOOT_STAT_DONE = false)) ∧
    (starts → env.refclkOk = true → env.trimOk.getLsbD 7 = true → env.selfTestOk = true → s.goes (.startup env) (fun d =>
      d.fbit SH_BOOT_STAT_DONE = true ∧ d.fget SH_BOOT_STAT_STEP = (if env.wiring = 0 then 10 else 9) ∧
      d.fbit SH_SAFE_STAT_FAULTN = false ∧ d.fbit ⟨GLB_IRQ_STAT, 42, 1⟩ = true ∧ demand d ∧
      (env.hurdleStrap = true → e.variant = .chm2 → d.role = 3) ∧
      (env.hurdleStrap = false → env.refLines ≠ 0 → d.role = 2 ∧
        d.fget SH_TWIN_STAT_ID = (if env.refLines.getLsbD 0 then 0 else 1)) ∧
      (env.wiring ≠ 0 → bitOf (d.fget SH_BOOT_STAT_FAIL) 8 = true) ∧
      (env.wiring = 0 → e.storeGood = false → bitOf (d.fget SH_BOOT_STAT_FAIL) 9 = true ∧
        d.fget SH_SAFE_STAT_STEP10 = e.fget SH_SAFE_STAT_STEP10))) ∧
    (e.sh.clk.inReset = false → s.goes (.resetRelease env) (fun d => d = e)) ∧
    (e.sh.clk.inReset = true → s.goes (.resetRelease env) (fun d => d.sh.clk.inReset = false))
end

