-- ==== Sys2Proof/Laws/Store.lean ====
section
/-!
SUPPORT. The laws of the sparse store: reading after a write, and the canonical form kept by every operation.
-/
namespace Sys2Proof.Machine

variable {α : Type} (dflt : Nat → α)

@[simp] theorem Store.get_nil (k : Nat) : Store.get dflt [] k = dflt k := rfl

/-! ### Reading after a write -/

@[simp] theorem Store.get_insert_same (m : Store α) (k : Nat) (x : α) : Store.get dflt (Store.insert m k x) k = x := by
  induction m with
  | nil => simp [Store.insert, Store.get]
  | cons e rest ih =>
    obtain ⟨j, v⟩ := e
    by_cases h : k < j
    · simp [Store.insert, Store.get, h]
    · by_cases h' : k = j
      · simp [Store.insert, Store.get, h']
      · simp [Store.insert, Store.get, h, h', Ne.symm h', ih]

theorem Store.get_insert_ne (m : Store α) {k j : Nat} (x : α) (h : j ≠ k) :
    Store.get dflt (Store.insert m k x) j = Store.get dflt m j := by
  induction m with
  | nil => simp [Store.insert, Store.get, Ne.symm h]
  | cons e rest ih =>
    obtain ⟨i, v⟩ := e
    by_cases h1 : k < i
    · simp [Store.insert, Store.get, h1, Ne.symm h]
    · by_cases h2 : k = i
      · subst h2
        simp [Store.insert, Store.get, Ne.symm h]
      · simp [Store.insert, Store.get, h1, h2, ih]

@[simp] theorem Store.get_erase_same (m : Store α) (k : Nat) : Store.get dflt (Store.erase m k) k = dflt k := by
  induction m with
  | nil => rfl
  | cons e rest ih =>
    obtain ⟨j, v⟩ := e
    by_cases h : j = k
    · simp [Store.erase, h, ih]
    · simp [Store.erase, Store.get, h, ih]

theorem Store.get_erase_ne (m : Store α) {k j : Nat} (h : j ≠ k) :
    Store.get dflt (Store.erase m k) j = Store.get dflt m j := by
  induction m with
  | nil => rfl
  | cons e rest ih =>
    obtain ⟨i, v⟩ := e
    by_cases h1 : i = k
    · subst h1
      simp [Store.erase, Store.get, ih, Ne.symm h]
    · simp [Store.erase, Store.get, h1, ih]

variable [DecidableEq α]

@[simp] theorem Store.get_set_same (m : Store α) (k : Nat) (x : α) : Store.get dflt (Store.set dflt m k x) k = x := by
  unfold Store.set
  split
  · next h => rw [Store.get_erase_same, h]
  · exact Store.get_insert_same dflt m k x

theorem Store.get_set_ne (m : Store α) {k j : Nat} (x : α) (h : j ≠ k) :
    Store.get dflt (Store.set dflt m k x) j = Store.get dflt m j := by
  unfold Store.set
  split
  · exact Store.get_erase_ne dflt m h
  · exact Store.get_insert_ne dflt m x h

theorem Store.get_set (m : Store α) (k j : Nat) (x : α) :
    Store.get dflt (Store.set dflt m k x) j = if j = k then x else Store.get dflt m j := by
  split
  · next h => rw [h, Store.get_set_same]
  · next h => exact Store.get_set_ne dflt m x h

/-! ### The canonical form -/

theorem Store.wfFrom_le {lo lo' : Nat} {m : Store α} (h : lo' ≤ lo) (w : Store.wfFrom dflt lo m = true) :
    Store.wfFrom dflt lo' m = true := by
  cases m with
  | nil => rfl
  | cons e rest =>
    simp only [Store.wfFrom, Bool.and_eq_true, decide_eq_true_eq] at w ⊢
    exact ⟨⟨h.trans w.1.1, w.1.2⟩, w.2⟩

theorem Store.wfFrom_erase {m : Store α} (lo k : Nat) (w : Store.wfFrom dflt lo m = true) :
    Store.wfFrom dflt lo (Store.erase m k) = true := by
  induction m generalizing lo with
  | nil => rfl
  | cons e rest ih =>
    obtain ⟨j, v⟩ := e
    simp only [Store.wfFrom, Bool.and_eq_true, decide_eq_true_eq] at w
    by_cases h : j = k
    · simp only [Store.erase, h, if_true]
      exact ih lo (Store.wfFrom_le dflt (by omega) w.2)
    · simp only [Store.erase, h, if_false, Store.wfFrom, Bool.and_eq_true, decide_eq_true_eq]
      exact ⟨w.1, ih _ w.2⟩

theorem Store.wfFrom_insert {m : Store α} (lo k : Nat) {x : α} (hx : x ≠ dflt k) (hk : lo ≤ k)
    (w : Store.wfFrom dflt lo m = true) : Store.wfFrom dflt lo (Store.insert m k x) = true := by
  induction m generalizing lo with
  | nil => simp [Store.insert, Store.wfFrom, hx, hk]
  | cons e rest ih =>
    obtain ⟨j, v⟩ := e
    simp only [Store.wfFrom, Bool.and_eq_true, decide_eq_true_eq] at w
    by_cases h : k < j
    · simp only [Store.insert, h, if_true, Store.wfFrom, Bool.and_eq_true, decide_eq_true_eq]
      exact ⟨⟨hk, hx⟩, ⟨by omega, w.1.2⟩, w.2⟩
    · by_cases h' : k = j
      · subst h'
        simp only [Store.insert, lt_irrefl, if_false, if_true, Store.wfFrom, Bool.and_eq_true, decide_eq_true_eq]
        exact ⟨⟨hk, hx⟩, w.2⟩
      · simp only [Store.insert, h, h', if_false, Store.wfFrom, Bool.and_eq_true, decide_eq_true_eq]
        exact ⟨w.1, ih _ (by omega) w.2⟩

theorem Store.wf_set {m : Store α} (k : Nat) (x : α) (w : Store.wf dflt m = true) :
    Store.wf dflt (Store.set dflt m k x) = true := by
  unfold Store.set Store.wf at *
  split
  · exact Store.wfFrom_erase dflt 0 k w
  · next h => exact Store.wfFrom_insert dflt 0 k h (Nat.zero_le _) w

theorem Store.wf_erase {m : Store α} (k : Nat) (w : Store.wf dflt m = true) : Store.wf dflt (Store.erase m k) = true :=
  Store.wfFrom_erase dflt 0 k w

theorem Store.wf_insert {m : Store α} (k : Nat) {x : α} (hx : x ≠ dflt k) (w : Store.wf dflt m = true) :
    Store.wf dflt (Store.insert m k x) = true :=
  Store.wfFrom_insert dflt 0 k hx (Nat.zero_le _) w

theorem Store.wf_nil : Store.wf dflt [] = true := rfl

theorem Store.wfFrom_filter {m : Store α} (lo : Nat) (p : Nat × α → Bool) (w : Store.wfFrom dflt lo m = true) :
    Store.wfFrom dflt lo (m.filter p) = true := by
  induction m generalizing lo with
  | nil => rfl
  | cons e rest ih =>
    obtain ⟨j, v⟩ := e
    simp only [Store.wfFrom, Bool.and_eq_true, decide_eq_true_eq] at w
    by_cases h : p (j, v) = true
    · simp only [List.filter_cons, h, if_true, Store.wfFrom, Bool.and_eq_true, decide_eq_true_eq]
      exact ⟨w.1, ih _ w.2⟩
    · simp only [List.filter_cons, h]
      exact ih lo (Store.wfFrom_le dflt (by omega) w.2)

theorem Store.wf_drop {m : Store α} (lo hi : Nat) (w : Store.wf dflt m = true) : Store.wf dflt (Store.drop m lo hi) = true :=
  Store.wfFrom_filter dflt 0 _ w

omit [DecidableEq α] in
theorem Store.get_filter (m : Store α) (p : Nat → Bool) (k : Nat) :
    Store.get dflt (m.filter (fun e => p e.1)) k = if p k then Store.get dflt m k else dflt k := by
  induction m with
  | nil => simp
  | cons e rest ih =>
    obtain ⟨j, v⟩ := e
    by_cases h : p j = true
    · by_cases hj : j = k
      · subst hj
        simp [h, Store.get]
      · simp [h, Store.get, hj, ih]
    · by_cases hj : j = k
      · subst hj
        simp [h, ih]
      · simp [h, Store.get, hj, ih]

omit [DecidableEq α] in
theorem Store.get_drop (m : Store α) (lo hi k : Nat) :
    Store.get dflt (Store.drop m lo hi) k = if k < lo ∨ hi ≤ k then Store.get dflt m k else dflt k := by
  unfold Store.drop
  rw [Store.get_filter dflt m (fun k => decide (k < lo) || decide (hi ≤ k))]
  simp

/-! ### Byte memory -/

@[simp] theorem Mem.byte_put_same (m : Mem) (a : Nat) (b : Byte) : (m.put a b).byte a = b := Store.get_set_same _ _ _ _

theorem Mem.byte_put_ne (m : Mem) {a c : Nat} (b : Byte) (h : c ≠ a) : (m.put a b).byte c = m.byte c :=
  Store.get_set_ne _ _ _ h

theorem Mem.wf_put {m : Mem} (a : Nat) (b : Byte) (w : m.wf = true) : (m.put a b).wf = true := Store.wf_set _ _ _ w

theorem Mem.wf_writeLE {m : Mem} (a n v : Nat) (w : m.wf = true) : (m.writeLE a n v).wf = true := by
  induction n generalizing m a v with
  | zero => exact w
  | succ n ih => exact ih _ _ (Mem.wf_put _ _ w)

/-- A write leaves every byte outside it alone. -/
theorem Mem.byte_writeLE_out (m : Mem) (a n v c : Nat) (h : c < a ∨ a + n ≤ c) : (m.writeLE a n v).byte c = m.byte c := by
  induction n generalizing m a v with
  | zero => rfl
  | succ n ih =>
    simp only [Mem.writeLE]
    rw [ih _ _ _ (by omega), Mem.byte_put_ne _ _ (by omega)]

theorem Mem.byte_writeLE_in (m : Mem) (a n v i : Nat) (h : i < n) :
    (m.writeLE a n v).byte (a + i) = BitVec.ofNat 8 (v / 256 ^ i) := by
  induction n generalizing m a v i with
  | zero => omega
  | succ n ih =>
    simp only [Mem.writeLE]
    cases i with
    | zero => rw [Nat.add_zero, Mem.byte_writeLE_out _ _ _ _ _ (by omega)]; simp
    | succ i =>
      rw [show a + (i + 1) = a + 1 + i by omega, ih _ _ _ _ (by omega), pow_succ, Nat.div_div_eq_div_mul, mul_comm]

/-- What was written is read back. -/
theorem Mem.readLE_writeLE (m : Mem) (a n v : Nat) : (m.writeLE a n v).readLE a n = v % 256 ^ n := by
  induction n generalizing m a v with
  | zero => simp [Mem.readLE, Nat.mod_one]
  | succ n ih =>
    simp only [Mem.writeLE, Mem.readLE]
    rw [ih, Mem.byte_writeLE_out _ _ _ _ _ (by omega), Mem.byte_put_same, BitVec.toNat_ofNat,
      show 256 ^ (n + 1) = 256 * 256 ^ n from by rw [Nat.pow_succ, Nat.mul_comm], Nat.mod_mul, show 2 ^ 8 = 256 from rfl]

end Sys2Proof.Machine
end

