-- ==== Sys2Proof/Laws/State.lean ====
section
/-!
SUPPORT. One lemma per field per update of the block, so that no proof unfolds a record update, and what a register field
reads after a write.
-/
namespace Sys2Proof.Machine

/-! ### Updates of one field -/

@[simp] theorem Dev.rset_variant (s : Dev) (a : Nat) (v : W64) : (s.rset a v).variant = s.variant := rfl
@[simp] theorem Dev.rset_cd0 (s : Dev) (a : Nat) (v : W64) : (s.rset a v).cd0 = s.cd0 := rfl
@[simp] theorem Dev.rset_cd1 (s : Dev) (a : Nat) (v : W64) : (s.rset a v).cd1 = s.cd1 := rfl
@[simp] theorem Dev.rset_cd2 (s : Dev) (a : Nat) (v : W64) : (s.rset a v).cd2 = s.cd2 := rfl
@[simp] theorem Dev.rset_cd3 (s : Dev) (a : Nat) (v : W64) : (s.rset a v).cd3 = s.cd3 := rfl
@[simp] theorem Dev.rset_rd0 (s : Dev) (a : Nat) (v : W64) : (s.rset a v).rd0 = s.rd0 := rfl
@[simp] theorem Dev.rset_rd1 (s : Dev) (a : Nat) (v : W64) : (s.rset a v).rd1 = s.rd1 := rfl
@[simp] theorem Dev.rset_aq (s : Dev) (a : Nat) (v : W64) : (s.rset a v).aq = s.aq := rfl
@[simp] theorem Dev.rset_sh (s : Dev) (a : Nat) (v : W64) : (s.rset a v).sh = s.sh := rfl
@[simp] theorem Dev.rset_nv (s : Dev) (a : Nat) (v : W64) : (s.rset a v).nv = s.nv := rfl
@[simp] theorem Dev.rset_rings (s : Dev) (a : Nat) (v : W64) : (s.rset a v).rings = s.rings := rfl
@[simp] theorem Dev.rset_ends (s : Dev) (a : Nat) (v : W64) : (s.rset a v).ends = s.ends := rfl
@[simp] theorem Dev.rset_streams (s : Dev) (a : Nat) (v : W64) : (s.rset a v).streams = s.streams := rfl
@[simp] theorem Dev.rset_cells (s : Dev) (a : Nat) (v : W64) : (s.rset a v).cells = s.cells := rfl
@[simp] theorem Dev.rset_freeCtr (s : Dev) (a : Nat) (v : W64) : (s.rset a v).freeCtr = s.freeCtr := rfl
@[simp] theorem Dev.rset_rdata (s : Dev) (a : Nat) (v : W64) : (s.rset a v).rdata = s.rdata := rfl
@[simp] theorem Dev.rset_out (s : Dev) (a : Nat) (v : W64) : (s.rset a v).out = s.out := rfl
@[simp] theorem Dev.fset_variant (s : Dev) (f : Field) (v : Nat) : (s.fset f v).variant = s.variant := rfl
@[simp] theorem Dev.fset_cd0 (s : Dev) (f : Field) (v : Nat) : (s.fset f v).cd0 = s.cd0 := rfl
@[simp] theorem Dev.fset_cd1 (s : Dev) (f : Field) (v : Nat) : (s.fset f v).cd1 = s.cd1 := rfl
@[simp] theorem Dev.fset_cd2 (s : Dev) (f : Field) (v : Nat) : (s.fset f v).cd2 = s.cd2 := rfl
@[simp] theorem Dev.fset_cd3 (s : Dev) (f : Field) (v : Nat) : (s.fset f v).cd3 = s.cd3 := rfl
@[simp] theorem Dev.fset_rd0 (s : Dev) (f : Field) (v : Nat) : (s.fset f v).rd0 = s.rd0 := rfl
@[simp] theorem Dev.fset_rd1 (s : Dev) (f : Field) (v : Nat) : (s.fset f v).rd1 = s.rd1 := rfl
@[simp] theorem Dev.fset_aq (s : Dev) (f : Field) (v : Nat) : (s.fset f v).aq = s.aq := rfl
@[simp] theorem Dev.fset_sh (s : Dev) (f : Field) (v : Nat) : (s.fset f v).sh = s.sh := rfl
@[simp] theorem Dev.fset_nv (s : Dev) (f : Field) (v : Nat) : (s.fset f v).nv = s.nv := rfl
@[simp] theorem Dev.fset_rings (s : Dev) (f : Field) (v : Nat) : (s.fset f v).rings = s.rings := rfl
@[simp] theorem Dev.fset_ends (s : Dev) (f : Field) (v : Nat) : (s.fset f v).ends = s.ends := rfl
@[simp] theorem Dev.fset_streams (s : Dev) (f : Field) (v : Nat) : (s.fset f v).streams = s.streams := rfl
@[simp] theorem Dev.fset_cells (s : Dev) (f : Field) (v : Nat) : (s.fset f v).cells = s.cells := rfl
@[simp] theorem Dev.fset_freeCtr (s : Dev) (f : Field) (v : Nat) : (s.fset f v).freeCtr = s.freeCtr := rfl
@[simp] theorem Dev.fset_rdata (s : Dev) (f : Field) (v : Nat) : (s.fset f v).rdata = s.rdata := rfl
@[simp] theorem Dev.fset_out (s : Dev) (f : Field) (v : Nat) : (s.fset f v).out = s.out := rfl
@[simp] theorem Dev.fadd_variant (s : Dev) (f : Field) (n : Nat) : (s.fadd f n).variant = s.variant := rfl
@[simp] theorem Dev.fadd_cd0 (s : Dev) (f : Field) (n : Nat) : (s.fadd f n).cd0 = s.cd0 := rfl
@[simp] theorem Dev.fadd_cd1 (s : Dev) (f : Field) (n : Nat) : (s.fadd f n).cd1 = s.cd1 := rfl
@[simp] theorem Dev.fadd_cd2 (s : Dev) (f : Field) (n : Nat) : (s.fadd f n).cd2 = s.cd2 := rfl
@[simp] theorem Dev.fadd_cd3 (s : Dev) (f : Field) (n : Nat) : (s.fadd f n).cd3 = s.cd3 := rfl
@[simp] theorem Dev.fadd_rd0 (s : Dev) (f : Field) (n : Nat) : (s.fadd f n).rd0 = s.rd0 := rfl
@[simp] theorem Dev.fadd_rd1 (s : Dev) (f : Field) (n : Nat) : (s.fadd f n).rd1 = s.rd1 := rfl
@[simp] theorem Dev.fadd_aq (s : Dev) (f : Field) (n : Nat) : (s.fadd f n).aq = s.aq := rfl
@[simp] theorem Dev.fadd_sh (s : Dev) (f : Field) (n : Nat) : (s.fadd f n).sh = s.sh := rfl
@[simp] theorem Dev.fadd_nv (s : Dev) (f : Field) (n : Nat) : (s.fadd f n).nv = s.nv := rfl
@[simp] theorem Dev.fadd_rings (s : Dev) (f : Field) (n : Nat) : (s.fadd f n).rings = s.rings := rfl
@[simp] theorem Dev.fadd_ends (s : Dev) (f : Field) (n : Nat) : (s.fadd f n).ends = s.ends := rfl
@[simp] theorem Dev.fadd_streams (s : Dev) (f : Field) (n : Nat) : (s.fadd f n).streams = s.streams := rfl
@[simp] theorem Dev.fadd_cells (s : Dev) (f : Field) (n : Nat) : (s.fadd f n).cells = s.cells := rfl
@[simp] theorem Dev.fadd_freeCtr (s : Dev) (f : Field) (n : Nat) : (s.fadd f n).freeCtr = s.freeCtr := rfl
@[simp] theorem Dev.fadd_rdata (s : Dev) (f : Field) (n : Nat) : (s.fadd f n).rdata = s.rdata := rfl
@[simp] theorem Dev.fadd_out (s : Dev) (f : Field) (n : Nat) : (s.fadd f n).out = s.out := rfl
@[simp] theorem Dev.finc_variant (s : Dev) (f : Field) : (s.finc f).variant = s.variant := rfl
@[simp] theorem Dev.finc_cd0 (s : Dev) (f : Field) : (s.finc f).cd0 = s.cd0 := rfl
@[simp] theorem Dev.finc_cd1 (s : Dev) (f : Field) : (s.finc f).cd1 = s.cd1 := rfl
@[simp] theorem Dev.finc_cd2 (s : Dev) (f : Field) : (s.finc f).cd2 = s.cd2 := rfl
@[simp] theorem Dev.finc_cd3 (s : Dev) (f : Field) : (s.finc f).cd3 = s.cd3 := rfl
@[simp] theorem Dev.finc_rd0 (s : Dev) (f : Field) : (s.finc f).rd0 = s.rd0 := rfl
@[simp] theorem Dev.finc_rd1 (s : Dev) (f : Field) : (s.finc f).rd1 = s.rd1 := rfl
@[simp] theorem Dev.finc_aq (s : Dev) (f : Field) : (s.finc f).aq = s.aq := rfl
@[simp] theorem Dev.finc_sh (s : Dev) (f : Field) : (s.finc f).sh = s.sh := rfl
@[simp] theorem Dev.finc_nv (s : Dev) (f : Field) : (s.finc f).nv = s.nv := rfl
@[simp] theorem Dev.finc_rings (s : Dev) (f : Field) : (s.finc f).rings = s.rings := rfl
@[simp] theorem Dev.finc_ends (s : Dev) (f : Field) : (s.finc f).ends = s.ends := rfl
@[simp] theorem Dev.finc_streams (s : Dev) (f : Field) : (s.finc f).streams = s.streams := rfl
@[simp] theorem Dev.finc_cells (s : Dev) (f : Field) : (s.finc f).cells = s.cells := rfl
@[simp] theorem Dev.finc_freeCtr (s : Dev) (f : Field) : (s.finc f).freeCtr = s.freeCtr := rfl
@[simp] theorem Dev.finc_rdata (s : Dev) (f : Field) : (s.finc f).rdata = s.rdata := rfl
@[simp] theorem Dev.finc_out (s : Dev) (f : Field) : (s.finc f).out = s.out := rfl
@[simp] theorem Dev.fwrap_variant (s : Dev) (f : Field) : (s.fwrap f).variant = s.variant := rfl
@[simp] theorem Dev.fwrap_cd0 (s : Dev) (f : Field) : (s.fwrap f).cd0 = s.cd0 := rfl
@[simp] theorem Dev.fwrap_cd1 (s : Dev) (f : Field) : (s.fwrap f).cd1 = s.cd1 := rfl
@[simp] theorem Dev.fwrap_cd2 (s : Dev) (f : Field) : (s.fwrap f).cd2 = s.cd2 := rfl
@[simp] theorem Dev.fwrap_cd3 (s : Dev) (f : Field) : (s.fwrap f).cd3 = s.cd3 := rfl
@[simp] theorem Dev.fwrap_rd0 (s : Dev) (f : Field) : (s.fwrap f).rd0 = s.rd0 := rfl
@[simp] theorem Dev.fwrap_rd1 (s : Dev) (f : Field) : (s.fwrap f).rd1 = s.rd1 := rfl
@[simp] theorem Dev.fwrap_aq (s : Dev) (f : Field) : (s.fwrap f).aq = s.aq := rfl
@[simp] theorem Dev.fwrap_sh (s : Dev) (f : Field) : (s.fwrap f).sh = s.sh := rfl
@[simp] theorem Dev.fwrap_nv (s : Dev) (f : Field) : (s.fwrap f).nv = s.nv := rfl
@[simp] theorem Dev.fwrap_rings (s : Dev) (f : Field) : (s.fwrap f).rings = s.rings := rfl
@[simp] theorem Dev.fwrap_ends (s : Dev) (f : Field) : (s.fwrap f).ends = s.ends := rfl
@[simp] theorem Dev.fwrap_streams (s : Dev) (f : Field) : (s.fwrap f).streams = s.streams := rfl
@[simp] theorem Dev.fwrap_cells (s : Dev) (f : Field) : (s.fwrap f).cells = s.cells := rfl
@[simp] theorem Dev.fwrap_freeCtr (s : Dev) (f : Field) : (s.fwrap f).freeCtr = s.freeCtr := rfl
@[simp] theorem Dev.fwrap_rdata (s : Dev) (f : Field) : (s.fwrap f).rdata = s.rdata := rfl
@[simp] theorem Dev.fwrap_out (s : Dev) (f : Field) : (s.fwrap f).out = s.out := rfl
@[simp] theorem Dev.setCell_variant (s : Dev) (p : Place) (c : Cell) : (s.setCell p c).variant = s.variant := rfl
@[simp] theorem Dev.setCell_regs (s : Dev) (p : Place) (c : Cell) : (s.setCell p c).regs = s.regs := rfl
@[simp] theorem Dev.setCell_cd0 (s : Dev) (p : Place) (c : Cell) : (s.setCell p c).cd0 = s.cd0 := rfl
@[simp] theorem Dev.setCell_cd1 (s : Dev) (p : Place) (c : Cell) : (s.setCell p c).cd1 = s.cd1 := rfl
@[simp] theorem Dev.setCell_cd2 (s : Dev) (p : Place) (c : Cell) : (s.setCell p c).cd2 = s.cd2 := rfl
@[simp] theorem Dev.setCell_cd3 (s : Dev) (p : Place) (c : Cell) : (s.setCell p c).cd3 = s.cd3 := rfl
@[simp] theorem Dev.setCell_rd0 (s : Dev) (p : Place) (c : Cell) : (s.setCell p c).rd0 = s.rd0 := rfl
@[simp] theorem Dev.setCell_rd1 (s : Dev) (p : Place) (c : Cell) : (s.setCell p c).rd1 = s.rd1 := rfl
@[simp] theorem Dev.setCell_aq (s : Dev) (p : Place) (c : Cell) : (s.setCell p c).aq = s.aq := rfl
@[simp] theorem Dev.setCell_sh (s : Dev) (p : Place) (c : Cell) : (s.setCell p c).sh = s.sh := rfl
@[simp] theorem Dev.setCell_nv (s : Dev) (p : Place) (c : Cell) : (s.setCell p c).nv = s.nv := rfl
@[simp] theorem Dev.setCell_rings (s : Dev) (p : Place) (c : Cell) : (s.setCell p c).rings = s.rings := rfl
@[simp] theorem Dev.setCell_ends (s : Dev) (p : Place) (c : Cell) : (s.setCell p c).ends = s.ends := rfl
@[simp] theorem Dev.setCell_streams (s : Dev) (p : Place) (c : Cell) : (s.setCell p c).streams = s.streams := rfl
@[simp] theorem Dev.setCell_freeCtr (s : Dev) (p : Place) (c : Cell) : (s.setCell p c).freeCtr = s.freeCtr := rfl
@[simp] theorem Dev.setCell_rdata (s : Dev) (p : Place) (c : Cell) : (s.setCell p c).rdata = s.rdata := rfl
@[simp] theorem Dev.setCell_out (s : Dev) (p : Place) (c : Cell) : (s.setCell p c).out = s.out := rfl
@[simp] theorem Dev.modCell_variant (s : Dev) (p : Place) (f : Cell → Cell) : (s.modCell p f).variant = s.variant := rfl
@[simp] theorem Dev.modCell_regs (s : Dev) (p : Place) (f : Cell → Cell) : (s.modCell p f).regs = s.regs := rfl
@[simp] theorem Dev.modCell_cd0 (s : Dev) (p : Place) (f : Cell → Cell) : (s.modCell p f).cd0 = s.cd0 := rfl
@[simp] theorem Dev.modCell_cd1 (s : Dev) (p : Place) (f : Cell → Cell) : (s.modCell p f).cd1 = s.cd1 := rfl
@[simp] theorem Dev.modCell_cd2 (s : Dev) (p : Place) (f : Cell → Cell) : (s.modCell p f).cd2 = s.cd2 := rfl
@[simp] theorem Dev.modCell_cd3 (s : Dev) (p : Place) (f : Cell → Cell) : (s.modCell p f).cd3 = s.cd3 := rfl
@[simp] theorem Dev.modCell_rd0 (s : Dev) (p : Place) (f : Cell → Cell) : (s.modCell p f).rd0 = s.rd0 := rfl
@[simp] theorem Dev.modCell_rd1 (s : Dev) (p : Place) (f : Cell → Cell) : (s.modCell p f).rd1 = s.rd1 := rfl
@[simp] theorem Dev.modCell_aq (s : Dev) (p : Place) (f : Cell → Cell) : (s.modCell p f).aq = s.aq := rfl
@[simp] theorem Dev.modCell_sh (s : Dev) (p : Place) (f : Cell → Cell) : (s.modCell p f).sh = s.sh := rfl
@[simp] theorem Dev.modCell_nv (s : Dev) (p : Place) (f : Cell → Cell) : (s.modCell p f).nv = s.nv := rfl
@[simp] theorem Dev.modCell_rings (s : Dev) (p : Place) (f : Cell → Cell) : (s.modCell p f).rings = s.rings := rfl
@[simp] theorem Dev.modCell_ends (s : Dev) (p : Place) (f : Cell → Cell) : (s.modCell p f).ends = s.ends := rfl
@[simp] theorem Dev.modCell_streams (s : Dev) (p : Place) (f : Cell → Cell) : (s.modCell p f).streams = s.streams := rfl
@[simp] theorem Dev.modCell_freeCtr (s : Dev) (p : Place) (f : Cell → Cell) : (s.modCell p f).freeCtr = s.freeCtr := rfl
@[simp] theorem Dev.modCell_rdata (s : Dev) (p : Place) (f : Cell → Cell) : (s.modCell p f).rdata = s.rdata := rfl
@[simp] theorem Dev.modCell_out (s : Dev) (p : Place) (f : Cell → Cell) : (s.modCell p f).out = s.out := rfl
@[simp] theorem Dev.setRing_variant (s : Dev) (r : Nat) (x : Ring) : (s.setRing r x).variant = s.variant := rfl
@[simp] theorem Dev.setRing_regs (s : Dev) (r : Nat) (x : Ring) : (s.setRing r x).regs = s.regs := rfl
@[simp] theorem Dev.setRing_cd0 (s : Dev) (r : Nat) (x : Ring) : (s.setRing r x).cd0 = s.cd0 := rfl
@[simp] theorem Dev.setRing_cd1 (s : Dev) (r : Nat) (x : Ring) : (s.setRing r x).cd1 = s.cd1 := rfl
@[simp] theorem Dev.setRing_cd2 (s : Dev) (r : Nat) (x : Ring) : (s.setRing r x).cd2 = s.cd2 := rfl
@[simp] theorem Dev.setRing_cd3 (s : Dev) (r : Nat) (x : Ring) : (s.setRing r x).cd3 = s.cd3 := rfl
@[simp] theorem Dev.setRing_rd0 (s : Dev) (r : Nat) (x : Ring) : (s.setRing r x).rd0 = s.rd0 := rfl
@[simp] theorem Dev.setRing_rd1 (s : Dev) (r : Nat) (x : Ring) : (s.setRing r x).rd1 = s.rd1 := rfl
@[simp] theorem Dev.setRing_aq (s : Dev) (r : Nat) (x : Ring) : (s.setRing r x).aq = s.aq := rfl
@[simp] theorem Dev.setRing_sh (s : Dev) (r : Nat) (x : Ring) : (s.setRing r x).sh = s.sh := rfl
@[simp] theorem Dev.setRing_nv (s : Dev) (r : Nat) (x : Ring) : (s.setRing r x).nv = s.nv := rfl
@[simp] theorem Dev.setRing_ends (s : Dev) (r : Nat) (x : Ring) : (s.setRing r x).ends = s.ends := rfl
@[simp] theorem Dev.setRing_streams (s : Dev) (r : Nat) (x : Ring) : (s.setRing r x).streams = s.streams := rfl
@[simp] theorem Dev.setRing_cells (s : Dev) (r : Nat) (x : Ring) : (s.setRing r x).cells = s.cells := rfl
@[simp] theorem Dev.setRing_freeCtr (s : Dev) (r : Nat) (x : Ring) : (s.setRing r x).freeCtr = s.freeCtr := rfl
@[simp] theorem Dev.setRing_rdata (s : Dev) (r : Nat) (x : Ring) : (s.setRing r x).rdata = s.rdata := rfl
@[simp] theorem Dev.setRing_out (s : Dev) (r : Nat) (x : Ring) : (s.setRing r x).out = s.out := rfl
@[simp] theorem Dev.modRing_variant (s : Dev) (r : Nat) (f : Ring → Ring) : (s.modRing r f).variant = s.variant := rfl
@[simp] theorem Dev.modRing_regs (s : Dev) (r : Nat) (f : Ring → Ring) : (s.modRing r f).regs = s.regs := rfl
@[simp] theorem Dev.modRing_cd0 (s : Dev) (r : Nat) (f : Ring → Ring) : (s.modRing r f).cd0 = s.cd0 := rfl
@[simp] theorem Dev.modRing_cd1 (s : Dev) (r : Nat) (f : Ring → Ring) : (s.modRing r f).cd1 = s.cd1 := rfl
@[simp] theorem Dev.modRing_cd2 (s : Dev) (r : Nat) (f : Ring → Ring) : (s.modRing r f).cd2 = s.cd2 := rfl
@[simp] theorem Dev.modRing_cd3 (s : Dev) (r : Nat) (f : Ring → Ring) : (s.modRing r f).cd3 = s.cd3 := rfl
@[simp] theorem Dev.modRing_rd0 (s : Dev) (r : Nat) (f : Ring → Ring) : (s.modRing r f).rd0 = s.rd0 := rfl
@[simp] theorem Dev.modRing_rd1 (s : Dev) (r : Nat) (f : Ring → Ring) : (s.modRing r f).rd1 = s.rd1 := rfl
@[simp] theorem Dev.modRing_aq (s : Dev) (r : Nat) (f : Ring → Ring) : (s.modRing r f).aq = s.aq := rfl
@[simp] theorem Dev.modRing_sh (s : Dev) (r : Nat) (f : Ring → Ring) : (s.modRing r f).sh = s.sh := rfl
@[simp] theorem Dev.modRing_nv (s : Dev) (r : Nat) (f : Ring → Ring) : (s.modRing r f).nv = s.nv := rfl
@[simp] theorem Dev.modRing_ends (s : Dev) (r : Nat) (f : Ring → Ring) : (s.modRing r f).ends = s.ends := rfl
@[simp] theorem Dev.modRing_streams (s : Dev) (r : Nat) (f : Ring → Ring) : (s.modRing r f).streams = s.streams := rfl
@[simp] theorem Dev.modRing_cells (s : Dev) (r : Nat) (f : Ring → Ring) : (s.modRing r f).cells = s.cells := rfl
@[simp] theorem Dev.modRing_freeCtr (s : Dev) (r : Nat) (f : Ring → Ring) : (s.modRing r f).freeCtr = s.freeCtr := rfl
@[simp] theorem Dev.modRing_rdata (s : Dev) (r : Nat) (f : Ring → Ring) : (s.modRing r f).rdata = s.rdata := rfl
@[simp] theorem Dev.modRing_out (s : Dev) (r : Nat) (f : Ring → Ring) : (s.modRing r f).out = s.out := rfl
@[simp] theorem Dev.setCend_variant (s : Dev) (i : Nat) (x : CellEnd) : (s.setCend i x).variant = s.variant := rfl
@[simp] theorem Dev.setCend_regs (s : Dev) (i : Nat) (x : CellEnd) : (s.setCend i x).regs = s.regs := rfl
@[simp] theorem Dev.setCend_cd0 (s : Dev) (i : Nat) (x : CellEnd) : (s.setCend i x).cd0 = s.cd0 := rfl
@[simp] theorem Dev.setCend_cd1 (s : Dev) (i : Nat) (x : CellEnd) : (s.setCend i x).cd1 = s.cd1 := rfl
@[simp] theorem Dev.setCend_cd2 (s : Dev) (i : Nat) (x : CellEnd) : (s.setCend i x).cd2 = s.cd2 := rfl
@[simp] theorem Dev.setCend_cd3 (s : Dev) (i : Nat) (x : CellEnd) : (s.setCend i x).cd3 = s.cd3 := rfl
@[simp] theorem Dev.setCend_rd0 (s : Dev) (i : Nat) (x : CellEnd) : (s.setCend i x).rd0 = s.rd0 := rfl
@[simp] theorem Dev.setCend_rd1 (s : Dev) (i : Nat) (x : CellEnd) : (s.setCend i x).rd1 = s.rd1 := rfl
@[simp] theorem Dev.setCend_aq (s : Dev) (i : Nat) (x : CellEnd) : (s.setCend i x).aq = s.aq := rfl
@[simp] theorem Dev.setCend_sh (s : Dev) (i : Nat) (x : CellEnd) : (s.setCend i x).sh = s.sh := rfl
@[simp] theorem Dev.setCend_nv (s : Dev) (i : Nat) (x : CellEnd) : (s.setCend i x).nv = s.nv := rfl
@[simp] theorem Dev.setCend_rings (s : Dev) (i : Nat) (x : CellEnd) : (s.setCend i x).rings = s.rings := rfl
@[simp] theorem Dev.setCend_streams (s : Dev) (i : Nat) (x : CellEnd) : (s.setCend i x).streams = s.streams := rfl
@[simp] theorem Dev.setCend_cells (s : Dev) (i : Nat) (x : CellEnd) : (s.setCend i x).cells = s.cells := rfl
@[simp] theorem Dev.setCend_freeCtr (s : Dev) (i : Nat) (x : CellEnd) : (s.setCend i x).freeCtr = s.freeCtr := rfl
@[simp] theorem Dev.setCend_rdata (s : Dev) (i : Nat) (x : CellEnd) : (s.setCend i x).rdata = s.rdata := rfl
@[simp] theorem Dev.setCend_out (s : Dev) (i : Nat) (x : CellEnd) : (s.setCend i x).out = s.out := rfl
@[simp] theorem Dev.setStream_variant (s : Dev) (i : Nat) (q : Option Stream) : (s.setStream i q).variant = s.variant := rfl
@[simp] theorem Dev.setStream_regs (s : Dev) (i : Nat) (q : Option Stream) : (s.setStream i q).regs = s.regs := rfl
@[simp] theorem Dev.setStream_cd0 (s : Dev) (i : Nat) (q : Option Stream) : (s.setStream i q).cd0 = s.cd0 := rfl
@[simp] theorem Dev.setStream_cd1 (s : Dev) (i : Nat) (q : Option Stream) : (s.setStream i q).cd1 = s.cd1 := rfl
@[simp] theorem Dev.setStream_cd2 (s : Dev) (i : Nat) (q : Option Stream) : (s.setStream i q).cd2 = s.cd2 := rfl
@[simp] theorem Dev.setStream_cd3 (s : Dev) (i : Nat) (q : Option Stream) : (s.setStream i q).cd3 = s.cd3 := rfl
@[simp] theorem Dev.setStream_rd0 (s : Dev) (i : Nat) (q : Option Stream) : (s.setStream i q).rd0 = s.rd0 := rfl
@[simp] theorem Dev.setStream_rd1 (s : Dev) (i : Nat) (q : Option Stream) : (s.setStream i q).rd1 = s.rd1 := rfl
@[simp] theorem Dev.setStream_aq (s : Dev) (i : Nat) (q : Option Stream) : (s.setStream i q).aq = s.aq := rfl
@[simp] theorem Dev.setStream_sh (s : Dev) (i : Nat) (q : Option Stream) : (s.setStream i q).sh = s.sh := rfl
@[simp] theorem Dev.setStream_nv (s : Dev) (i : Nat) (q : Option Stream) : (s.setStream i q).nv = s.nv := rfl
@[simp] theorem Dev.setStream_rings (s : Dev) (i : Nat) (q : Option Stream) : (s.setStream i q).rings = s.rings := rfl
@[simp] theorem Dev.setStream_ends (s : Dev) (i : Nat) (q : Option Stream) : (s.setStream i q).ends = s.ends := rfl
@[simp] theorem Dev.setStream_cells (s : Dev) (i : Nat) (q : Option Stream) : (s.setStream i q).cells = s.cells := rfl
@[simp] theorem Dev.setStream_freeCtr (s : Dev) (i : Nat) (q : Option Stream) : (s.setStream i q).freeCtr = s.freeCtr := rfl
@[simp] theorem Dev.setStream_rdata (s : Dev) (i : Nat) (q : Option Stream) : (s.setStream i q).rdata = s.rdata := rfl
@[simp] theorem Dev.setStream_out (s : Dev) (i : Nat) (q : Option Stream) : (s.setStream i q).out = s.out := rfl
@[simp] theorem Dev.modAq_variant (s : Dev) (f : AqDie → AqDie) : (s.modAq f).variant = s.variant := rfl
@[simp] theorem Dev.modAq_regs (s : Dev) (f : AqDie → AqDie) : (s.modAq f).regs = s.regs := rfl
@[simp] theorem Dev.modAq_cd0 (s : Dev) (f : AqDie → AqDie) : (s.modAq f).cd0 = s.cd0 := rfl
@[simp] theorem Dev.modAq_cd1 (s : Dev) (f : AqDie → AqDie) : (s.modAq f).cd1 = s.cd1 := rfl
@[simp] theorem Dev.modAq_cd2 (s : Dev) (f : AqDie → AqDie) : (s.modAq f).cd2 = s.cd2 := rfl
@[simp] theorem Dev.modAq_cd3 (s : Dev) (f : AqDie → AqDie) : (s.modAq f).cd3 = s.cd3 := rfl
@[simp] theorem Dev.modAq_rd0 (s : Dev) (f : AqDie → AqDie) : (s.modAq f).rd0 = s.rd0 := rfl
@[simp] theorem Dev.modAq_rd1 (s : Dev) (f : AqDie → AqDie) : (s.modAq f).rd1 = s.rd1 := rfl
@[simp] theorem Dev.modAq_sh (s : Dev) (f : AqDie → AqDie) : (s.modAq f).sh = s.sh := rfl
@[simp] theorem Dev.modAq_nv (s : Dev) (f : AqDie → AqDie) : (s.modAq f).nv = s.nv := rfl
@[simp] theorem Dev.modAq_rings (s : Dev) (f : AqDie → AqDie) : (s.modAq f).rings = s.rings := rfl
@[simp] theorem Dev.modAq_ends (s : Dev) (f : AqDie → AqDie) : (s.modAq f).ends = s.ends := rfl
@[simp] theorem Dev.modAq_streams (s : Dev) (f : AqDie → AqDie) : (s.modAq f).streams = s.streams := rfl
@[simp] theorem Dev.modAq_cells (s : Dev) (f : AqDie → AqDie) : (s.modAq f).cells = s.cells := rfl
@[simp] theorem Dev.modAq_freeCtr (s : Dev) (f : AqDie → AqDie) : (s.modAq f).freeCtr = s.freeCtr := rfl
@[simp] theorem Dev.modAq_rdata (s : Dev) (f : AqDie → AqDie) : (s.modAq f).rdata = s.rdata := rfl
@[simp] theorem Dev.modAq_out (s : Dev) (f : AqDie → AqDie) : (s.modAq f).out = s.out := rfl
@[simp] theorem Dev.emit_variant (s : Dev) (e : Emission) : (s.emit e).variant = s.variant := rfl
@[simp] theorem Dev.emit_regs (s : Dev) (e : Emission) : (s.emit e).regs = s.regs := rfl
@[simp] theorem Dev.emit_cd0 (s : Dev) (e : Emission) : (s.emit e).cd0 = s.cd0 := rfl
@[simp] theorem Dev.emit_cd1 (s : Dev) (e : Emission) : (s.emit e).cd1 = s.cd1 := rfl
@[simp] theorem Dev.emit_cd2 (s : Dev) (e : Emission) : (s.emit e).cd2 = s.cd2 := rfl
@[simp] theorem Dev.emit_cd3 (s : Dev) (e : Emission) : (s.emit e).cd3 = s.cd3 := rfl
@[simp] theorem Dev.emit_rd0 (s : Dev) (e : Emission) : (s.emit e).rd0 = s.rd0 := rfl
@[simp] theorem Dev.emit_rd1 (s : Dev) (e : Emission) : (s.emit e).rd1 = s.rd1 := rfl
@[simp] theorem Dev.emit_aq (s : Dev) (e : Emission) : (s.emit e).aq = s.aq := rfl
@[simp] theorem Dev.emit_sh (s : Dev) (e : Emission) : (s.emit e).sh = s.sh := rfl
@[simp] theorem Dev.emit_nv (s : Dev) (e : Emission) : (s.emit e).nv = s.nv := rfl
@[simp] theorem Dev.emit_rings (s : Dev) (e : Emission) : (s.emit e).rings = s.rings := rfl
@[simp] theorem Dev.emit_ends (s : Dev) (e : Emission) : (s.emit e).ends = s.ends := rfl
@[simp] theorem Dev.emit_streams (s : Dev) (e : Emission) : (s.emit e).streams = s.streams := rfl
@[simp] theorem Dev.emit_cells (s : Dev) (e : Emission) : (s.emit e).cells = s.cells := rfl
@[simp] theorem Dev.emit_freeCtr (s : Dev) (e : Emission) : (s.emit e).freeCtr = s.freeCtr := rfl
@[simp] theorem Dev.emit_rdata (s : Dev) (e : Emission) : (s.emit e).rdata = s.rdata := rfl
@[simp] theorem Dev.answer_variant (s : Dev) (l : List W64) : (s.answer l).variant = s.variant := rfl
@[simp] theorem Dev.answer_regs (s : Dev) (l : List W64) : (s.answer l).regs = s.regs := rfl
@[simp] theorem Dev.answer_cd0 (s : Dev) (l : List W64) : (s.answer l).cd0 = s.cd0 := rfl
@[simp] theorem Dev.answer_cd1 (s : Dev) (l : List W64) : (s.answer l).cd1 = s.cd1 := rfl
@[simp] theorem Dev.answer_cd2 (s : Dev) (l : List W64) : (s.answer l).cd2 = s.cd2 := rfl
@[simp] theorem Dev.answer_cd3 (s : Dev) (l : List W64) : (s.answer l).cd3 = s.cd3 := rfl
@[simp] theorem Dev.answer_rd0 (s : Dev) (l : List W64) : (s.answer l).rd0 = s.rd0 := rfl
@[simp] theorem Dev.answer_rd1 (s : Dev) (l : List W64) : (s.answer l).rd1 = s.rd1 := rfl
@[simp] theorem Dev.answer_aq (s : Dev) (l : List W64) : (s.answer l).aq = s.aq := rfl
@[simp] theorem Dev.answer_sh (s : Dev) (l : List W64) : (s.answer l).sh = s.sh := rfl
@[simp] theorem Dev.answer_nv (s : Dev) (l : List W64) : (s.answer l).nv = s.nv := rfl
@[simp] theorem Dev.answer_rings (s : Dev) (l : List W64) : (s.answer l).rings = s.rings := rfl
@[simp] theorem Dev.answer_ends (s : Dev) (l : List W64) : (s.answer l).ends = s.ends := rfl
@[simp] theorem Dev.answer_streams (s : Dev) (l : List W64) : (s.answer l).streams = s.streams := rfl
@[simp] theorem Dev.answer_cells (s : Dev) (l : List W64) : (s.answer l).cells = s.cells := rfl
@[simp] theorem Dev.answer_freeCtr (s : Dev) (l : List W64) : (s.answer l).freeCtr = s.freeCtr := rfl
@[simp] theorem Dev.answer_out (s : Dev) (l : List W64) : (s.answer l).out = s.out := rfl
@[simp] theorem Dev.clk_variant (s : Dev) (f : ShClk → ShClk) : (s.clk f).variant = s.variant := rfl
@[simp] theorem Dev.clk_regs (s : Dev) (f : ShClk → ShClk) : (s.clk f).regs = s.regs := rfl
@[simp] theorem Dev.clk_cd0 (s : Dev) (f : ShClk → ShClk) : (s.clk f).cd0 = s.cd0 := rfl
@[simp] theorem Dev.clk_cd1 (s : Dev) (f : ShClk → ShClk) : (s.clk f).cd1 = s.cd1 := rfl
@[simp] theorem Dev.clk_cd2 (s : Dev) (f : ShClk → ShClk) : (s.clk f).cd2 = s.cd2 := rfl
@[simp] theorem Dev.clk_cd3 (s : Dev) (f : ShClk → ShClk) : (s.clk f).cd3 = s.cd3 := rfl
@[simp] theorem Dev.clk_rd0 (s : Dev) (f : ShClk → ShClk) : (s.clk f).rd0 = s.rd0 := rfl
@[simp] theorem Dev.clk_rd1 (s : Dev) (f : ShClk → ShClk) : (s.clk f).rd1 = s.rd1 := rfl
@[simp] theorem Dev.clk_aq (s : Dev) (f : ShClk → ShClk) : (s.clk f).aq = s.aq := rfl
@[simp] theorem Dev.clk_nv (s : Dev) (f : ShClk → ShClk) : (s.clk f).nv = s.nv := rfl
@[simp] theorem Dev.clk_rings (s : Dev) (f : ShClk → ShClk) : (s.clk f).rings = s.rings := rfl
@[simp] theorem Dev.clk_ends (s : Dev) (f : ShClk → ShClk) : (s.clk f).ends = s.ends := rfl
@[simp] theorem Dev.clk_streams (s : Dev) (f : ShClk → ShClk) : (s.clk f).streams = s.streams := rfl
@[simp] theorem Dev.clk_cells (s : Dev) (f : ShClk → ShClk) : (s.clk f).cells = s.cells := rfl
@[simp] theorem Dev.clk_freeCtr (s : Dev) (f : ShClk → ShClk) : (s.clk f).freeCtr = s.freeCtr := rfl
@[simp] theorem Dev.clk_rdata (s : Dev) (f : ShClk → ShClk) : (s.clk f).rdata = s.rdata := rfl
@[simp] theorem Dev.clk_out (s : Dev) (f : ShClk → ShClk) : (s.clk f).out = s.out := rfl
@[simp] theorem Dev.pin_variant (s : Dev) (f : ShPin → ShPin) : (s.pin f).variant = s.variant := rfl
@[simp] theorem Dev.pin_regs (s : Dev) (f : ShPin → ShPin) : (s.pin f).regs = s.regs := rfl
@[simp] theorem Dev.pin_cd0 (s : Dev) (f : ShPin → ShPin) : (s.pin f).cd0 = s.cd0 := rfl
@[simp] theorem Dev.pin_cd1 (s : Dev) (f : ShPin → ShPin) : (s.pin f).cd1 = s.cd1 := rfl
@[simp] theorem Dev.pin_cd2 (s : Dev) (f : ShPin → ShPin) : (s.pin f).cd2 = s.cd2 := rfl
@[simp] theorem Dev.pin_cd3 (s : Dev) (f : ShPin → ShPin) : (s.pin f).cd3 = s.cd3 := rfl
@[simp] theorem Dev.pin_rd0 (s : Dev) (f : ShPin → ShPin) : (s.pin f).rd0 = s.rd0 := rfl
@[simp] theorem Dev.pin_rd1 (s : Dev) (f : ShPin → ShPin) : (s.pin f).rd1 = s.rd1 := rfl
@[simp] theorem Dev.pin_aq (s : Dev) (f : ShPin → ShPin) : (s.pin f).aq = s.aq := rfl
@[simp] theorem Dev.pin_nv (s : Dev) (f : ShPin → ShPin) : (s.pin f).nv = s.nv := rfl
@[simp] theorem Dev.pin_rings (s : Dev) (f : ShPin → ShPin) : (s.pin f).rings = s.rings := rfl
@[simp] theorem Dev.pin_ends (s : Dev) (f : ShPin → ShPin) : (s.pin f).ends = s.ends := rfl
@[simp] theorem Dev.pin_streams (s : Dev) (f : ShPin → ShPin) : (s.pin f).streams = s.streams := rfl
@[simp] theorem Dev.pin_cells (s : Dev) (f : ShPin → ShPin) : (s.pin f).cells = s.cells := rfl
@[simp] theorem Dev.pin_freeCtr (s : Dev) (f : ShPin → ShPin) : (s.pin f).freeCtr = s.freeCtr := rfl
@[simp] theorem Dev.pin_rdata (s : Dev) (f : ShPin → ShPin) : (s.pin f).rdata = s.rdata := rfl
@[simp] theorem Dev.pin_out (s : Dev) (f : ShPin → ShPin) : (s.pin f).out = s.out := rfl
@[simp] theorem Dev.md_variant (s : Dev) (f : ShMode → ShMode) : (s.md f).variant = s.variant := rfl
@[simp] theorem Dev.md_regs (s : Dev) (f : ShMode → ShMode) : (s.md f).regs = s.regs := rfl
@[simp] theorem Dev.md_cd0 (s : Dev) (f : ShMode → ShMode) : (s.md f).cd0 = s.cd0 := rfl
@[simp] theorem Dev.md_cd1 (s : Dev) (f : ShMode → ShMode) : (s.md f).cd1 = s.cd1 := rfl
@[simp] theorem Dev.md_cd2 (s : Dev) (f : ShMode → ShMode) : (s.md f).cd2 = s.cd2 := rfl
@[simp] theorem Dev.md_cd3 (s : Dev) (f : ShMode → ShMode) : (s.md f).cd3 = s.cd3 := rfl
@[simp] theorem Dev.md_rd0 (s : Dev) (f : ShMode → ShMode) : (s.md f).rd0 = s.rd0 := rfl
@[simp] theorem Dev.md_rd1 (s : Dev) (f : ShMode → ShMode) : (s.md f).rd1 = s.rd1 := rfl
@[simp] theorem Dev.md_aq (s : Dev) (f : ShMode → ShMode) : (s.md f).aq = s.aq := rfl
@[simp] theorem Dev.md_nv (s : Dev) (f : ShMode → ShMode) : (s.md f).nv = s.nv := rfl
@[simp] theorem Dev.md_rings (s : Dev) (f : ShMode → ShMode) : (s.md f).rings = s.rings := rfl
@[simp] theorem Dev.md_ends (s : Dev) (f : ShMode → ShMode) : (s.md f).ends = s.ends := rfl
@[simp] theorem Dev.md_streams (s : Dev) (f : ShMode → ShMode) : (s.md f).streams = s.streams := rfl
@[simp] theorem Dev.md_cells (s : Dev) (f : ShMode → ShMode) : (s.md f).cells = s.cells := rfl
@[simp] theorem Dev.md_freeCtr (s : Dev) (f : ShMode → ShMode) : (s.md f).freeCtr = s.freeCtr := rfl
@[simp] theorem Dev.md_rdata (s : Dev) (f : ShMode → ShMode) : (s.md f).rdata = s.rdata := rfl
@[simp] theorem Dev.md_out (s : Dev) (f : ShMode → ShMode) : (s.md f).out = s.out := rfl
@[simp] theorem Dev.flt_variant (s : Dev) (f : ShFlt → ShFlt) : (s.flt f).variant = s.variant := rfl
@[simp] theorem Dev.flt_regs (s : Dev) (f : ShFlt → ShFlt) : (s.flt f).regs = s.regs := rfl
@[simp] theorem Dev.flt_cd0 (s : Dev) (f : ShFlt → ShFlt) : (s.flt f).cd0 = s.cd0 := rfl
@[simp] theorem Dev.flt_cd1 (s : Dev) (f : ShFlt → ShFlt) : (s.flt f).cd1 = s.cd1 := rfl
@[simp] theorem Dev.flt_cd2 (s : Dev) (f : ShFlt → ShFlt) : (s.flt f).cd2 = s.cd2 := rfl
@[simp] theorem Dev.flt_cd3 (s : Dev) (f : ShFlt → ShFlt) : (s.flt f).cd3 = s.cd3 := rfl
@[simp] theorem Dev.flt_rd0 (s : Dev) (f : ShFlt → ShFlt) : (s.flt f).rd0 = s.rd0 := rfl
@[simp] theorem Dev.flt_rd1 (s : Dev) (f : ShFlt → ShFlt) : (s.flt f).rd1 = s.rd1 := rfl
@[simp] theorem Dev.flt_aq (s : Dev) (f : ShFlt → ShFlt) : (s.flt f).aq = s.aq := rfl
@[simp] theorem Dev.flt_nv (s : Dev) (f : ShFlt → ShFlt) : (s.flt f).nv = s.nv := rfl
@[simp] theorem Dev.flt_rings (s : Dev) (f : ShFlt → ShFlt) : (s.flt f).rings = s.rings := rfl
@[simp] theorem Dev.flt_ends (s : Dev) (f : ShFlt → ShFlt) : (s.flt f).ends = s.ends := rfl
@[simp] theorem Dev.flt_streams (s : Dev) (f : ShFlt → ShFlt) : (s.flt f).streams = s.streams := rfl
@[simp] theorem Dev.flt_cells (s : Dev) (f : ShFlt → ShFlt) : (s.flt f).cells = s.cells := rfl
@[simp] theorem Dev.flt_freeCtr (s : Dev) (f : ShFlt → ShFlt) : (s.flt f).freeCtr = s.freeCtr := rfl
@[simp] theorem Dev.flt_rdata (s : Dev) (f : ShFlt → ShFlt) : (s.flt f).rdata = s.rdata := rfl
@[simp] theorem Dev.flt_out (s : Dev) (f : ShFlt → ShFlt) : (s.flt f).out = s.out := rfl
@[simp] theorem Dev.vote_variant (s : Dev) (f : ShVote → ShVote) : (s.vote f).variant = s.variant := rfl
@[simp] theorem Dev.vote_regs (s : Dev) (f : ShVote → ShVote) : (s.vote f).regs = s.regs := rfl
@[simp] theorem Dev.vote_cd0 (s : Dev) (f : ShVote → ShVote) : (s.vote f).cd0 = s.cd0 := rfl
@[simp] theorem Dev.vote_cd1 (s : Dev) (f : ShVote → ShVote) : (s.vote f).cd1 = s.cd1 := rfl
@[simp] theorem Dev.vote_cd2 (s : Dev) (f : ShVote → ShVote) : (s.vote f).cd2 = s.cd2 := rfl
@[simp] theorem Dev.vote_cd3 (s : Dev) (f : ShVote → ShVote) : (s.vote f).cd3 = s.cd3 := rfl
@[simp] theorem Dev.vote_rd0 (s : Dev) (f : ShVote → ShVote) : (s.vote f).rd0 = s.rd0 := rfl
@[simp] theorem Dev.vote_rd1 (s : Dev) (f : ShVote → ShVote) : (s.vote f).rd1 = s.rd1 := rfl
@[simp] theorem Dev.vote_aq (s : Dev) (f : ShVote → ShVote) : (s.vote f).aq = s.aq := rfl
@[simp] theorem Dev.vote_nv (s : Dev) (f : ShVote → ShVote) : (s.vote f).nv = s.nv := rfl
@[simp] theorem Dev.vote_rings (s : Dev) (f : ShVote → ShVote) : (s.vote f).rings = s.rings := rfl
@[simp] theorem Dev.vote_ends (s : Dev) (f : ShVote → ShVote) : (s.vote f).ends = s.ends := rfl
@[simp] theorem Dev.vote_streams (s : Dev) (f : ShVote → ShVote) : (s.vote f).streams = s.streams := rfl
@[simp] theorem Dev.vote_cells (s : Dev) (f : ShVote → ShVote) : (s.vote f).cells = s.cells := rfl
@[simp] theorem Dev.vote_freeCtr (s : Dev) (f : ShVote → ShVote) : (s.vote f).freeCtr = s.freeCtr := rfl
@[simp] theorem Dev.vote_rdata (s : Dev) (f : ShVote → ShVote) : (s.vote f).rdata = s.rdata := rfl
@[simp] theorem Dev.vote_out (s : Dev) (f : ShVote → ShVote) : (s.vote f).out = s.out := rfl
@[simp] theorem Dev.tly_variant (s : Dev) (f : ShTly → ShTly) : (s.tly f).variant = s.variant := rfl
@[simp] theorem Dev.tly_regs (s : Dev) (f : ShTly → ShTly) : (s.tly f).regs = s.regs := rfl
@[simp] theorem Dev.tly_cd0 (s : Dev) (f : ShTly → ShTly) : (s.tly f).cd0 = s.cd0 := rfl
@[simp] theorem Dev.tly_cd1 (s : Dev) (f : ShTly → ShTly) : (s.tly f).cd1 = s.cd1 := rfl
@[simp] theorem Dev.tly_cd2 (s : Dev) (f : ShTly → ShTly) : (s.tly f).cd2 = s.cd2 := rfl
@[simp] theorem Dev.tly_cd3 (s : Dev) (f : ShTly → ShTly) : (s.tly f).cd3 = s.cd3 := rfl
@[simp] theorem Dev.tly_rd0 (s : Dev) (f : ShTly → ShTly) : (s.tly f).rd0 = s.rd0 := rfl
@[simp] theorem Dev.tly_rd1 (s : Dev) (f : ShTly → ShTly) : (s.tly f).rd1 = s.rd1 := rfl
@[simp] theorem Dev.tly_aq (s : Dev) (f : ShTly → ShTly) : (s.tly f).aq = s.aq := rfl
@[simp] theorem Dev.tly_nv (s : Dev) (f : ShTly → ShTly) : (s.tly f).nv = s.nv := rfl
@[simp] theorem Dev.tly_rings (s : Dev) (f : ShTly → ShTly) : (s.tly f).rings = s.rings := rfl
@[simp] theorem Dev.tly_ends (s : Dev) (f : ShTly → ShTly) : (s.tly f).ends = s.ends := rfl
@[simp] theorem Dev.tly_streams (s : Dev) (f : ShTly → ShTly) : (s.tly f).streams = s.streams := rfl
@[simp] theorem Dev.tly_cells (s : Dev) (f : ShTly → ShTly) : (s.tly f).cells = s.cells := rfl
@[simp] theorem Dev.tly_freeCtr (s : Dev) (f : ShTly → ShTly) : (s.tly f).freeCtr = s.freeCtr := rfl
@[simp] theorem Dev.tly_rdata (s : Dev) (f : ShTly → ShTly) : (s.tly f).rdata = s.rdata := rfl
@[simp] theorem Dev.tly_out (s : Dev) (f : ShTly → ShTly) : (s.tly f).out = s.out := rfl
@[simp] theorem Dev.img_variant (s : Dev) (f : ShImg → ShImg) : (s.img f).variant = s.variant := rfl
@[simp] theorem Dev.img_regs (s : Dev) (f : ShImg → ShImg) : (s.img f).regs = s.regs := rfl
@[simp] theorem Dev.img_cd0 (s : Dev) (f : ShImg → ShImg) : (s.img f).cd0 = s.cd0 := rfl
@[simp] theorem Dev.img_cd1 (s : Dev) (f : ShImg → ShImg) : (s.img f).cd1 = s.cd1 := rfl
@[simp] theorem Dev.img_cd2 (s : Dev) (f : ShImg → ShImg) : (s.img f).cd2 = s.cd2 := rfl
@[simp] theorem Dev.img_cd3 (s : Dev) (f : ShImg → ShImg) : (s.img f).cd3 = s.cd3 := rfl
@[simp] theorem Dev.img_rd0 (s : Dev) (f : ShImg → ShImg) : (s.img f).rd0 = s.rd0 := rfl
@[simp] theorem Dev.img_rd1 (s : Dev) (f : ShImg → ShImg) : (s.img f).rd1 = s.rd1 := rfl
@[simp] theorem Dev.img_aq (s : Dev) (f : ShImg → ShImg) : (s.img f).aq = s.aq := rfl
@[simp] theorem Dev.img_nv (s : Dev) (f : ShImg → ShImg) : (s.img f).nv = s.nv := rfl
@[simp] theorem Dev.img_rings (s : Dev) (f : ShImg → ShImg) : (s.img f).rings = s.rings := rfl
@[simp] theorem Dev.img_ends (s : Dev) (f : ShImg → ShImg) : (s.img f).ends = s.ends := rfl
@[simp] theorem Dev.img_streams (s : Dev) (f : ShImg → ShImg) : (s.img f).streams = s.streams := rfl
@[simp] theorem Dev.img_cells (s : Dev) (f : ShImg → ShImg) : (s.img f).cells = s.cells := rfl
@[simp] theorem Dev.img_freeCtr (s : Dev) (f : ShImg → ShImg) : (s.img f).freeCtr = s.freeCtr := rfl
@[simp] theorem Dev.img_rdata (s : Dev) (f : ShImg → ShImg) : (s.img f).rdata = s.rdata := rfl
@[simp] theorem Dev.img_out (s : Dev) (f : ShImg → ShImg) : (s.img f).out = s.out := rfl
@[simp] theorem Dev.crk_variant (s : Dev) (f : ShCrk → ShCrk) : (s.crk f).variant = s.variant := rfl
@[simp] theorem Dev.crk_regs (s : Dev) (f : ShCrk → ShCrk) : (s.crk f).regs = s.regs := rfl
@[simp] theorem Dev.crk_cd0 (s : Dev) (f : ShCrk → ShCrk) : (s.crk f).cd0 = s.cd0 := rfl
@[simp] theorem Dev.crk_cd1 (s : Dev) (f : ShCrk → ShCrk) : (s.crk f).cd1 = s.cd1 := rfl
@[simp] theorem Dev.crk_cd2 (s : Dev) (f : ShCrk → ShCrk) : (s.crk f).cd2 = s.cd2 := rfl
@[simp] theorem Dev.crk_cd3 (s : Dev) (f : ShCrk → ShCrk) : (s.crk f).cd3 = s.cd3 := rfl
@[simp] theorem Dev.crk_rd0 (s : Dev) (f : ShCrk → ShCrk) : (s.crk f).rd0 = s.rd0 := rfl
@[simp] theorem Dev.crk_rd1 (s : Dev) (f : ShCrk → ShCrk) : (s.crk f).rd1 = s.rd1 := rfl
@[simp] theorem Dev.crk_aq (s : Dev) (f : ShCrk → ShCrk) : (s.crk f).aq = s.aq := rfl
@[simp] theorem Dev.crk_nv (s : Dev) (f : ShCrk → ShCrk) : (s.crk f).nv = s.nv := rfl
@[simp] theorem Dev.crk_rings (s : Dev) (f : ShCrk → ShCrk) : (s.crk f).rings = s.rings := rfl
@[simp] theorem Dev.crk_ends (s : Dev) (f : ShCrk → ShCrk) : (s.crk f).ends = s.ends := rfl
@[simp] theorem Dev.crk_streams (s : Dev) (f : ShCrk → ShCrk) : (s.crk f).streams = s.streams := rfl
@[simp] theorem Dev.crk_cells (s : Dev) (f : ShCrk → ShCrk) : (s.crk f).cells = s.cells := rfl
@[simp] theorem Dev.crk_freeCtr (s : Dev) (f : ShCrk → ShCrk) : (s.crk f).freeCtr = s.freeCtr := rfl
@[simp] theorem Dev.crk_rdata (s : Dev) (f : ShCrk → ShCrk) : (s.crk f).rdata = s.rdata := rfl
@[simp] theorem Dev.crk_out (s : Dev) (f : ShCrk → ShCrk) : (s.crk f).out = s.out := rfl
@[simp] theorem Dev.ldg_variant (s : Dev) (f : ShLdg → ShLdg) : (s.ldg f).variant = s.variant := rfl
@[simp] theorem Dev.ldg_regs (s : Dev) (f : ShLdg → ShLdg) : (s.ldg f).regs = s.regs := rfl
@[simp] theorem Dev.ldg_cd0 (s : Dev) (f : ShLdg → ShLdg) : (s.ldg f).cd0 = s.cd0 := rfl
@[simp] theorem Dev.ldg_cd1 (s : Dev) (f : ShLdg → ShLdg) : (s.ldg f).cd1 = s.cd1 := rfl
@[simp] theorem Dev.ldg_cd2 (s : Dev) (f : ShLdg → ShLdg) : (s.ldg f).cd2 = s.cd2 := rfl
@[simp] theorem Dev.ldg_cd3 (s : Dev) (f : ShLdg → ShLdg) : (s.ldg f).cd3 = s.cd3 := rfl
@[simp] theorem Dev.ldg_rd0 (s : Dev) (f : ShLdg → ShLdg) : (s.ldg f).rd0 = s.rd0 := rfl
@[simp] theorem Dev.ldg_rd1 (s : Dev) (f : ShLdg → ShLdg) : (s.ldg f).rd1 = s.rd1 := rfl
@[simp] theorem Dev.ldg_aq (s : Dev) (f : ShLdg → ShLdg) : (s.ldg f).aq = s.aq := rfl
@[simp] theorem Dev.ldg_nv (s : Dev) (f : ShLdg → ShLdg) : (s.ldg f).nv = s.nv := rfl
@[simp] theorem Dev.ldg_rings (s : Dev) (f : ShLdg → ShLdg) : (s.ldg f).rings = s.rings := rfl
@[simp] theorem Dev.ldg_ends (s : Dev) (f : ShLdg → ShLdg) : (s.ldg f).ends = s.ends := rfl
@[simp] theorem Dev.ldg_streams (s : Dev) (f : ShLdg → ShLdg) : (s.ldg f).streams = s.streams := rfl
@[simp] theorem Dev.ldg_cells (s : Dev) (f : ShLdg → ShLdg) : (s.ldg f).cells = s.cells := rfl
@[simp] theorem Dev.ldg_freeCtr (s : Dev) (f : ShLdg → ShLdg) : (s.ldg f).freeCtr = s.freeCtr := rfl
@[simp] theorem Dev.ldg_rdata (s : Dev) (f : ShLdg → ShLdg) : (s.ldg f).rdata = s.rdata := rfl
@[simp] theorem Dev.ldg_out (s : Dev) (f : ShLdg → ShLdg) : (s.ldg f).out = s.out := rfl
@[simp] theorem Dev.safe_variant (s : Dev) (f : ShSafe → ShSafe) : (s.safe f).variant = s.variant := rfl
@[simp] theorem Dev.safe_regs (s : Dev) (f : ShSafe → ShSafe) : (s.safe f).regs = s.regs := rfl
@[simp] theorem Dev.safe_cd0 (s : Dev) (f : ShSafe → ShSafe) : (s.safe f).cd0 = s.cd0 := rfl
@[simp] theorem Dev.safe_cd1 (s : Dev) (f : ShSafe → ShSafe) : (s.safe f).cd1 = s.cd1 := rfl
@[simp] theorem Dev.safe_cd2 (s : Dev) (f : ShSafe → ShSafe) : (s.safe f).cd2 = s.cd2 := rfl
@[simp] theorem Dev.safe_cd3 (s : Dev) (f : ShSafe → ShSafe) : (s.safe f).cd3 = s.cd3 := rfl
@[simp] theorem Dev.safe_rd0 (s : Dev) (f : ShSafe → ShSafe) : (s.safe f).rd0 = s.rd0 := rfl
@[simp] theorem Dev.safe_rd1 (s : Dev) (f : ShSafe → ShSafe) : (s.safe f).rd1 = s.rd1 := rfl
@[simp] theorem Dev.safe_aq (s : Dev) (f : ShSafe → ShSafe) : (s.safe f).aq = s.aq := rfl
@[simp] theorem Dev.safe_nv (s : Dev) (f : ShSafe → ShSafe) : (s.safe f).nv = s.nv := rfl
@[simp] theorem Dev.safe_rings (s : Dev) (f : ShSafe → ShSafe) : (s.safe f).rings = s.rings := rfl
@[simp] theorem Dev.safe_ends (s : Dev) (f : ShSafe → ShSafe) : (s.safe f).ends = s.ends := rfl
@[simp] theorem Dev.safe_streams (s : Dev) (f : ShSafe → ShSafe) : (s.safe f).streams = s.streams := rfl
@[simp] theorem Dev.safe_cells (s : Dev) (f : ShSafe → ShSafe) : (s.safe f).cells = s.cells := rfl
@[simp] theorem Dev.safe_freeCtr (s : Dev) (f : ShSafe → ShSafe) : (s.safe f).freeCtr = s.freeCtr := rfl
@[simp] theorem Dev.safe_rdata (s : Dev) (f : ShSafe → ShSafe) : (s.safe f).rdata = s.rdata := rfl
@[simp] theorem Dev.safe_out (s : Dev) (f : ShSafe → ShSafe) : (s.safe f).out = s.out := rfl
@[simp] theorem Dev.rcd_variant (s : Dev) (f : ShRec → ShRec) : (s.rcd f).variant = s.variant := rfl
@[simp] theorem Dev.rcd_regs (s : Dev) (f : ShRec → ShRec) : (s.rcd f).regs = s.regs := rfl
@[simp] theorem Dev.rcd_cd0 (s : Dev) (f : ShRec → ShRec) : (s.rcd f).cd0 = s.cd0 := rfl
@[simp] theorem Dev.rcd_cd1 (s : Dev) (f : ShRec → ShRec) : (s.rcd f).cd1 = s.cd1 := rfl
@[simp] theorem Dev.rcd_cd2 (s : Dev) (f : ShRec → ShRec) : (s.rcd f).cd2 = s.cd2 := rfl
@[simp] theorem Dev.rcd_cd3 (s : Dev) (f : ShRec → ShRec) : (s.rcd f).cd3 = s.cd3 := rfl
@[simp] theorem Dev.rcd_rd0 (s : Dev) (f : ShRec → ShRec) : (s.rcd f).rd0 = s.rd0 := rfl
@[simp] theorem Dev.rcd_rd1 (s : Dev) (f : ShRec → ShRec) : (s.rcd f).rd1 = s.rd1 := rfl
@[simp] theorem Dev.rcd_aq (s : Dev) (f : ShRec → ShRec) : (s.rcd f).aq = s.aq := rfl
@[simp] theorem Dev.rcd_nv (s : Dev) (f : ShRec → ShRec) : (s.rcd f).nv = s.nv := rfl
@[simp] theorem Dev.rcd_rings (s : Dev) (f : ShRec → ShRec) : (s.rcd f).rings = s.rings := rfl
@[simp] theorem Dev.rcd_ends (s : Dev) (f : ShRec → ShRec) : (s.rcd f).ends = s.ends := rfl
@[simp] theorem Dev.rcd_streams (s : Dev) (f : ShRec → ShRec) : (s.rcd f).streams = s.streams := rfl
@[simp] theorem Dev.rcd_cells (s : Dev) (f : ShRec → ShRec) : (s.rcd f).cells = s.cells := rfl
@[simp] theorem Dev.rcd_freeCtr (s : Dev) (f : ShRec → ShRec) : (s.rcd f).freeCtr = s.freeCtr := rfl
@[simp] theorem Dev.rcd_rdata (s : Dev) (f : ShRec → ShRec) : (s.rcd f).rdata = s.rdata := rfl
@[simp] theorem Dev.rcd_out (s : Dev) (f : ShRec → ShRec) : (s.rcd f).out = s.out := rfl
@[simp] theorem Dev.leg_variant (s : Dev) (f : ShLeg → ShLeg) : (s.leg f).variant = s.variant := rfl
@[simp] theorem Dev.leg_regs (s : Dev) (f : ShLeg → ShLeg) : (s.leg f).regs = s.regs := rfl
@[simp] theorem Dev.leg_cd0 (s : Dev) (f : ShLeg → ShLeg) : (s.leg f).cd0 = s.cd0 := rfl
@[simp] theorem Dev.leg_cd1 (s : Dev) (f : ShLeg → ShLeg) : (s.leg f).cd1 = s.cd1 := rfl
@[simp] theorem Dev.leg_cd2 (s : Dev) (f : ShLeg → ShLeg) : (s.leg f).cd2 = s.cd2 := rfl
@[simp] theorem Dev.leg_cd3 (s : Dev) (f : ShLeg → ShLeg) : (s.leg f).cd3 = s.cd3 := rfl
@[simp] theorem Dev.leg_rd0 (s : Dev) (f : ShLeg → ShLeg) : (s.leg f).rd0 = s.rd0 := rfl
@[simp] theorem Dev.leg_rd1 (s : Dev) (f : ShLeg → ShLeg) : (s.leg f).rd1 = s.rd1 := rfl
@[simp] theorem Dev.leg_aq (s : Dev) (f : ShLeg → ShLeg) : (s.leg f).aq = s.aq := rfl
@[simp] theorem Dev.leg_nv (s : Dev) (f : ShLeg → ShLeg) : (s.leg f).nv = s.nv := rfl
@[simp] theorem Dev.leg_rings (s : Dev) (f : ShLeg → ShLeg) : (s.leg f).rings = s.rings := rfl
@[simp] theorem Dev.leg_ends (s : Dev) (f : ShLeg → ShLeg) : (s.leg f).ends = s.ends := rfl
@[simp] theorem Dev.leg_streams (s : Dev) (f : ShLeg → ShLeg) : (s.leg f).streams = s.streams := rfl
@[simp] theorem Dev.leg_cells (s : Dev) (f : ShLeg → ShLeg) : (s.leg f).cells = s.cells := rfl
@[simp] theorem Dev.leg_freeCtr (s : Dev) (f : ShLeg → ShLeg) : (s.leg f).freeCtr = s.freeCtr := rfl
@[simp] theorem Dev.leg_rdata (s : Dev) (f : ShLeg → ShLeg) : (s.leg f).rdata = s.rdata := rfl
@[simp] theorem Dev.leg_out (s : Dev) (f : ShLeg → ShLeg) : (s.leg f).out = s.out := rfl
@[simp] theorem Dev.tw_variant (s : Dev) (f : ShTw → ShTw) : (s.tw f).variant = s.variant := rfl
@[simp] theorem Dev.tw_regs (s : Dev) (f : ShTw → ShTw) : (s.tw f).regs = s.regs := rfl
@[simp] theorem Dev.tw_cd0 (s : Dev) (f : ShTw → ShTw) : (s.tw f).cd0 = s.cd0 := rfl
@[simp] theorem Dev.tw_cd1 (s : Dev) (f : ShTw → ShTw) : (s.tw f).cd1 = s.cd1 := rfl
@[simp] theorem Dev.tw_cd2 (s : Dev) (f : ShTw → ShTw) : (s.tw f).cd2 = s.cd2 := rfl
@[simp] theorem Dev.tw_cd3 (s : Dev) (f : ShTw → ShTw) : (s.tw f).cd3 = s.cd3 := rfl
@[simp] theorem Dev.tw_rd0 (s : Dev) (f : ShTw → ShTw) : (s.tw f).rd0 = s.rd0 := rfl
@[simp] theorem Dev.tw_rd1 (s : Dev) (f : ShTw → ShTw) : (s.tw f).rd1 = s.rd1 := rfl
@[simp] theorem Dev.tw_aq (s : Dev) (f : ShTw → ShTw) : (s.tw f).aq = s.aq := rfl
@[simp] theorem Dev.tw_nv (s : Dev) (f : ShTw → ShTw) : (s.tw f).nv = s.nv := rfl
@[simp] theorem Dev.tw_rings (s : Dev) (f : ShTw → ShTw) : (s.tw f).rings = s.rings := rfl
@[simp] theorem Dev.tw_ends (s : Dev) (f : ShTw → ShTw) : (s.tw f).ends = s.ends := rfl
@[simp] theorem Dev.tw_streams (s : Dev) (f : ShTw → ShTw) : (s.tw f).streams = s.streams := rfl
@[simp] theorem Dev.tw_cells (s : Dev) (f : ShTw → ShTw) : (s.tw f).cells = s.cells := rfl
@[simp] theorem Dev.tw_freeCtr (s : Dev) (f : ShTw → ShTw) : (s.tw f).freeCtr = s.freeCtr := rfl
@[simp] theorem Dev.tw_rdata (s : Dev) (f : ShTw → ShTw) : (s.tw f).rdata = s.rdata := rfl
@[simp] theorem Dev.tw_out (s : Dev) (f : ShTw → ShTw) : (s.tw f).out = s.out := rfl
@[simp] theorem Dev.setCd_variant (s : Dev) (d : Nat) (x : CtrlDie) : (s.setCd d x).variant = s.variant := by
  simp only [Dev.setCd]; split <;> rfl
@[simp] theorem Dev.setCd_regs (s : Dev) (d : Nat) (x : CtrlDie) : (s.setCd d x).regs = s.regs := by
  simp only [Dev.setCd]; split <;> rfl
@[simp] theorem Dev.setCd_rd0 (s : Dev) (d : Nat) (x : CtrlDie) : (s.setCd d x).rd0 = s.rd0 := by
  simp only [Dev.setCd]; split <;> rfl
@[simp] theorem Dev.setCd_rd1 (s : Dev) (d : Nat) (x : CtrlDie) : (s.setCd d x).rd1 = s.rd1 := by
  simp only [Dev.setCd]; split <;> rfl
@[simp] theorem Dev.setCd_aq (s : Dev) (d : Nat) (x : CtrlDie) : (s.setCd d x).aq = s.aq := by
  simp only [Dev.setCd]; split <;> rfl
@[simp] theorem Dev.setCd_sh (s : Dev) (d : Nat) (x : CtrlDie) : (s.setCd d x).sh = s.sh := by
  simp only [Dev.setCd]; split <;> rfl
@[simp] theorem Dev.setCd_nv (s : Dev) (d : Nat) (x : CtrlDie) : (s.setCd d x).nv = s.nv := by
  simp only [Dev.setCd]; split <;> rfl
@[simp] theorem Dev.setCd_rings (s : Dev) (d : Nat) (x : CtrlDie) : (s.setCd d x).rings = s.rings := by
  simp only [Dev.setCd]; split <;> rfl
@[simp] theorem Dev.setCd_ends (s : Dev) (d : Nat) (x : CtrlDie) : (s.setCd d x).ends = s.ends := by
  simp only [Dev.setCd]; split <;> rfl
@[simp] theorem Dev.setCd_streams (s : Dev) (d : Nat) (x : CtrlDie) : (s.setCd d x).streams = s.streams := by
  simp only [Dev.setCd]; split <;> rfl
@[simp] theorem Dev.setCd_cells (s : Dev) (d : Nat) (x : CtrlDie) : (s.setCd d x).cells = s.cells := by
  simp only [Dev.setCd]; split <;> rfl
@[simp] theorem Dev.setCd_freeCtr (s : Dev) (d : Nat) (x : CtrlDie) : (s.setCd d x).freeCtr = s.freeCtr := by
  simp only [Dev.setCd]; split <;> rfl
@[simp] theorem Dev.setCd_rdata (s : Dev) (d : Nat) (x : CtrlDie) : (s.setCd d x).rdata = s.rdata := by
  simp only [Dev.setCd]; split <;> rfl
@[simp] theorem Dev.setCd_out (s : Dev) (d : Nat) (x : CtrlDie) : (s.setCd d x).out = s.out := by
  simp only [Dev.setCd]; split <;> rfl
@[simp] theorem Dev.modCd_variant (s : Dev) (d : Nat) (f : CtrlDie → CtrlDie) : (s.modCd d f).variant = s.variant := by
  simp only [Dev.modCd, Dev.setCd]; split <;> rfl
@[simp] theorem Dev.modCd_regs (s : Dev) (d : Nat) (f : CtrlDie → CtrlDie) : (s.modCd d f).regs = s.regs := by
  simp only [Dev.modCd, Dev.setCd]; split <;> rfl
@[simp] theorem Dev.modCd_rd0 (s : Dev) (d : Nat) (f : CtrlDie → CtrlDie) : (s.modCd d f).rd0 = s.rd0 := by
  simp only [Dev.modCd, Dev.setCd]; split <;> rfl
@[simp] theorem Dev.modCd_rd1 (s : Dev) (d : Nat) (f : CtrlDie → CtrlDie) : (s.modCd d f).rd1 = s.rd1 := by
  simp only [Dev.modCd, Dev.setCd]; split <;> rfl
@[simp] theorem Dev.modCd_aq (s : Dev) (d : Nat) (f : CtrlDie → CtrlDie) : (s.modCd d f).aq = s.aq := by
  simp only [Dev.modCd, Dev.setCd]; split <;> rfl
@[simp] theorem Dev.modCd_sh (s : Dev) (d : Nat) (f : CtrlDie → CtrlDie) : (s.modCd d f).sh = s.sh := by
  simp only [Dev.modCd, Dev.setCd]; split <;> rfl
@[simp] theorem Dev.modCd_nv (s : Dev) (d : Nat) (f : CtrlDie → CtrlDie) : (s.modCd d f).nv = s.nv := by
  simp only [Dev.modCd, Dev.setCd]; split <;> rfl
@[simp] theorem Dev.modCd_rings (s : Dev) (d : Nat) (f : CtrlDie → CtrlDie) : (s.modCd d f).rings = s.rings := by
  simp only [Dev.modCd, Dev.setCd]; split <;> rfl
@[simp] theorem Dev.modCd_ends (s : Dev) (d : Nat) (f : CtrlDie → CtrlDie) : (s.modCd d f).ends = s.ends := by
  simp only [Dev.modCd, Dev.setCd]; split <;> rfl
@[simp] theorem Dev.modCd_streams (s : Dev) (d : Nat) (f : CtrlDie → CtrlDie) : (s.modCd d f).streams = s.streams := by
  simp only [Dev.modCd, Dev.setCd]; split <;> rfl
@[simp] theorem Dev.modCd_cells (s : Dev) (d : Nat) (f : CtrlDie → CtrlDie) : (s.modCd d f).cells = s.cells := by
  simp only [Dev.modCd, Dev.setCd]; split <;> rfl
@[simp] theorem Dev.modCd_freeCtr (s : Dev) (d : Nat) (f : CtrlDie → CtrlDie) : (s.modCd d f).freeCtr = s.freeCtr := by
  simp only [Dev.modCd, Dev.setCd]; split <;> rfl
@[simp] theorem Dev.modCd_rdata (s : Dev) (d : Nat) (f : CtrlDie → CtrlDie) : (s.modCd d f).rdata = s.rdata := by
  simp only [Dev.modCd, Dev.setCd]; split <;> rfl
@[simp] theorem Dev.modCd_out (s : Dev) (d : Nat) (f : CtrlDie → CtrlDie) : (s.modCd d f).out = s.out := by
  simp only [Dev.modCd, Dev.setCd]; split <;> rfl
@[simp] theorem Dev.setRd_variant (s : Dev) (n : Nat) (x : RingDie) : (s.setRd n x).variant = s.variant := by
  simp only [Dev.setRd]; split <;> rfl
@[simp] theorem Dev.setRd_regs (s : Dev) (n : Nat) (x : RingDie) : (s.setRd n x).regs = s.regs := by
  simp only [Dev.setRd]; split <;> rfl
@[simp] theorem Dev.setRd_cd0 (s : Dev) (n : Nat) (x : RingDie) : (s.setRd n x).cd0 = s.cd0 := by
  simp only [Dev.setRd]; split <;> rfl
@[simp] theorem Dev.setRd_cd1 (s : Dev) (n : Nat) (x : RingDie) : (s.setRd n x).cd1 = s.cd1 := by
  simp only [Dev.setRd]; split <;> rfl
@[simp] theorem Dev.setRd_cd2 (s : Dev) (n : Nat) (x : RingDie) : (s.setRd n x).cd2 = s.cd2 := by
  simp only [Dev.setRd]; split <;> rfl
@[simp] theorem Dev.setRd_cd3 (s : Dev) (n : Nat) (x : RingDie) : (s.setRd n x).cd3 = s.cd3 := by
  simp only [Dev.setRd]; split <;> rfl
@[simp] theorem Dev.setRd_aq (s : Dev) (n : Nat) (x : RingDie) : (s.setRd n x).aq = s.aq := by
  simp only [Dev.setRd]; split <;> rfl
@[simp] theorem Dev.setRd_sh (s : Dev) (n : Nat) (x : RingDie) : (s.setRd n x).sh = s.sh := by
  simp only [Dev.setRd]; split <;> rfl
@[simp] theorem Dev.setRd_nv (s : Dev) (n : Nat) (x : RingDie) : (s.setRd n x).nv = s.nv := by
  simp only [Dev.setRd]; split <;> rfl
@[simp] theorem Dev.setRd_rings (s : Dev) (n : Nat) (x : RingDie) : (s.setRd n x).rings = s.rings := by
  simp only [Dev.setRd]; split <;> rfl
@[simp] theorem Dev.setRd_ends (s : Dev) (n : Nat) (x : RingDie) : (s.setRd n x).ends = s.ends := by
  simp only [Dev.setRd]; split <;> rfl
@[simp] theorem Dev.setRd_streams (s : Dev) (n : Nat) (x : RingDie) : (s.setRd n x).streams = s.streams := by
  simp only [Dev.setRd]; split <;> rfl
@[simp] theorem Dev.setRd_cells (s : Dev) (n : Nat) (x : RingDie) : (s.setRd n x).cells = s.cells := by
  simp only [Dev.setRd]; split <;> rfl
@[simp] theorem Dev.setRd_freeCtr (s : Dev) (n : Nat) (x : RingDie) : (s.setRd n x).freeCtr = s.freeCtr := by
  simp only [Dev.setRd]; split <;> rfl
@[simp] theorem Dev.setRd_rdata (s : Dev) (n : Nat) (x : RingDie) : (s.setRd n x).rdata = s.rdata := by
  simp only [Dev.setRd]; split <;> rfl
@[simp] theorem Dev.setRd_out (s : Dev) (n : Nat) (x : RingDie) : (s.setRd n x).out = s.out := by
  simp only [Dev.setRd]; split <;> rfl
@[simp] theorem Dev.modRd_variant (s : Dev) (n : Nat) (f : RingDie → RingDie) : (s.modRd n f).variant = s.variant := by
  simp only [Dev.modRd, Dev.setRd]; split <;> rfl
@[simp] theorem Dev.modRd_regs (s : Dev) (n : Nat) (f : RingDie → RingDie) : (s.modRd n f).regs = s.regs := by
  simp only [Dev.modRd, Dev.setRd]; split <;> rfl
@[simp] theorem Dev.modRd_cd0 (s : Dev) (n : Nat) (f : RingDie → RingDie) : (s.modRd n f).cd0 = s.cd0 := by
  simp only [Dev.modRd, Dev.setRd]; split <;> rfl
@[simp] theorem Dev.modRd_cd1 (s : Dev) (n : Nat) (f : RingDie → RingDie) : (s.modRd n f).cd1 = s.cd1 := by
  simp only [Dev.modRd, Dev.setRd]; split <;> rfl
@[simp] theorem Dev.modRd_cd2 (s : Dev) (n : Nat) (f : RingDie → RingDie) : (s.modRd n f).cd2 = s.cd2 := by
  simp only [Dev.modRd, Dev.setRd]; split <;> rfl
@[simp] theorem Dev.modRd_cd3 (s : Dev) (n : Nat) (f : RingDie → RingDie) : (s.modRd n f).cd3 = s.cd3 := by
  simp only [Dev.modRd, Dev.setRd]; split <;> rfl
@[simp] theorem Dev.modRd_aq (s : Dev) (n : Nat) (f : RingDie → RingDie) : (s.modRd n f).aq = s.aq := by
  simp only [Dev.modRd, Dev.setRd]; split <;> rfl
@[simp] theorem Dev.modRd_sh (s : Dev) (n : Nat) (f : RingDie → RingDie) : (s.modRd n f).sh = s.sh := by
  simp only [Dev.modRd, Dev.setRd]; split <;> rfl
@[simp] theorem Dev.modRd_nv (s : Dev) (n : Nat) (f : RingDie → RingDie) : (s.modRd n f).nv = s.nv := by
  simp only [Dev.modRd, Dev.setRd]; split <;> rfl
@[simp] theorem Dev.modRd_rings (s : Dev) (n : Nat) (f : RingDie → RingDie) : (s.modRd n f).rings = s.rings := by
  simp only [Dev.modRd, Dev.setRd]; split <;> rfl
@[simp] theorem Dev.modRd_ends (s : Dev) (n : Nat) (f : RingDie → RingDie) : (s.modRd n f).ends = s.ends := by
  simp only [Dev.modRd, Dev.setRd]; split <;> rfl
@[simp] theorem Dev.modRd_streams (s : Dev) (n : Nat) (f : RingDie → RingDie) : (s.modRd n f).streams = s.streams := by
  simp only [Dev.modRd, Dev.setRd]; split <;> rfl
@[simp] theorem Dev.modRd_cells (s : Dev) (n : Nat) (f : RingDie → RingDie) : (s.modRd n f).cells = s.cells := by
  simp only [Dev.modRd, Dev.setRd]; split <;> rfl
@[simp] theorem Dev.modRd_freeCtr (s : Dev) (n : Nat) (f : RingDie → RingDie) : (s.modRd n f).freeCtr = s.freeCtr := by
  simp only [Dev.modRd, Dev.setRd]; split <;> rfl
@[simp] theorem Dev.modRd_rdata (s : Dev) (n : Nat) (f : RingDie → RingDie) : (s.modRd n f).rdata = s.rdata := by
  simp only [Dev.modRd, Dev.setRd]; split <;> rfl
@[simp] theorem Dev.modRd_out (s : Dev) (n : Nat) (f : RingDie → RingDie) : (s.modRd n f).out = s.out := by
  simp only [Dev.modRd, Dev.setRd]; split <;> rfl
@[simp] theorem Dev.free_variant (s : Dev) : s.free.2.variant = s.variant := rfl
@[simp] theorem Dev.free_regs (s : Dev) : s.free.2.regs = s.regs := rfl
@[simp] theorem Dev.free_cd0 (s : Dev) : s.free.2.cd0 = s.cd0 := rfl
@[simp] theorem Dev.free_cd1 (s : Dev) : s.free.2.cd1 = s.cd1 := rfl
@[simp] theorem Dev.free_cd2 (s : Dev) : s.free.2.cd2 = s.cd2 := rfl
@[simp] theorem Dev.free_cd3 (s : Dev) : s.free.2.cd3 = s.cd3 := rfl
@[simp] theorem Dev.free_rd0 (s : Dev) : s.free.2.rd0 = s.rd0 := rfl
@[simp] theorem Dev.free_rd1 (s : Dev) : s.free.2.rd1 = s.rd1 := rfl
@[simp] theorem Dev.free_aq (s : Dev) : s.free.2.aq = s.aq := rfl
@[simp] theorem Dev.free_sh (s : Dev) : s.free.2.sh = s.sh := rfl
@[simp] theorem Dev.free_nv (s : Dev) : s.free.2.nv = s.nv := rfl
@[simp] theorem Dev.free_rings (s : Dev) : s.free.2.rings = s.rings := rfl
@[simp] theorem Dev.free_ends (s : Dev) : s.free.2.ends = s.ends := rfl
@[simp] theorem Dev.free_streams (s : Dev) : s.free.2.streams = s.streams := rfl
@[simp] theorem Dev.free_cells (s : Dev) : s.free.2.cells = s.cells := rfl
@[simp] theorem Dev.free_rdata (s : Dev) : s.free.2.rdata = s.rdata := rfl
@[simp] theorem Dev.free_out (s : Dev) : s.free.2.out = s.out := rfl
@[simp] theorem Dev.free_freeCtr (s : Dev) : s.free.2.freeCtr = s.freeCtr + 1 := rfl
@[simp] theorem Dev.emit_out (s : Dev) (e : Emission) : (s.emit e).out = e :: s.out := rfl
@[simp] theorem Dev.answer_rdata (s : Dev) (l : List W64) : (s.answer l).rdata = l := rfl

/-! ### Parts of the shepherd -/

@[simp] theorem Dev.clk_sh_clk (s : Dev) (f : ShClk → ShClk) : (s.clk f).sh.clk = f s.sh.clk := rfl
@[simp] theorem Dev.clk_sh_pin (s : Dev) (f : ShClk → ShClk) : (s.clk f).sh.pin = s.sh.pin := rfl
@[simp] theorem Dev.clk_sh_mode (s : Dev) (f : ShClk → ShClk) : (s.clk f).sh.mode = s.sh.mode := rfl
@[simp] theorem Dev.clk_sh_flt (s : Dev) (f : ShClk → ShClk) : (s.clk f).sh.flt = s.sh.flt := rfl
@[simp] theorem Dev.clk_sh_vote (s : Dev) (f : ShClk → ShClk) : (s.clk f).sh.vote = s.sh.vote := rfl
@[simp] theorem Dev.clk_sh_tly (s : Dev) (f : ShClk → ShClk) : (s.clk f).sh.tly = s.sh.tly := rfl
@[simp] theorem Dev.clk_sh_img (s : Dev) (f : ShClk → ShClk) : (s.clk f).sh.img = s.sh.img := rfl
@[simp] theorem Dev.clk_sh_crk (s : Dev) (f : ShClk → ShClk) : (s.clk f).sh.crk = s.sh.crk := rfl
@[simp] theorem Dev.clk_sh_ldg (s : Dev) (f : ShClk → ShClk) : (s.clk f).sh.ldg = s.sh.ldg := rfl
@[simp] theorem Dev.clk_sh_safe (s : Dev) (f : ShClk → ShClk) : (s.clk f).sh.safe = s.sh.safe := rfl
@[simp] theorem Dev.clk_sh_rcd (s : Dev) (f : ShClk → ShClk) : (s.clk f).sh.rcd = s.sh.rcd := rfl
@[simp] theorem Dev.clk_sh_leg (s : Dev) (f : ShClk → ShClk) : (s.clk f).sh.leg = s.sh.leg := rfl
@[simp] theorem Dev.clk_sh_tw (s : Dev) (f : ShClk → ShClk) : (s.clk f).sh.tw = s.sh.tw := rfl
@[simp] theorem Dev.pin_sh_clk (s : Dev) (f : ShPin → ShPin) : (s.pin f).sh.clk = s.sh.clk := rfl
@[simp] theorem Dev.pin_sh_pin (s : Dev) (f : ShPin → ShPin) : (s.pin f).sh.pin = f s.sh.pin := rfl
@[simp] theorem Dev.pin_sh_mode (s : Dev) (f : ShPin → ShPin) : (s.pin f).sh.mode = s.sh.mode := rfl
@[simp] theorem Dev.pin_sh_flt (s : Dev) (f : ShPin → ShPin) : (s.pin f).sh.flt = s.sh.flt := rfl
@[simp] theorem Dev.pin_sh_vote (s : Dev) (f : ShPin → ShPin) : (s.pin f).sh.vote = s.sh.vote := rfl
@[simp] theorem Dev.pin_sh_tly (s : Dev) (f : ShPin → ShPin) : (s.pin f).sh.tly = s.sh.tly := rfl
@[simp] theorem Dev.pin_sh_img (s : Dev) (f : ShPin → ShPin) : (s.pin f).sh.img = s.sh.img := rfl
@[simp] theorem Dev.pin_sh_crk (s : Dev) (f : ShPin → ShPin) : (s.pin f).sh.crk = s.sh.crk := rfl
@[simp] theorem Dev.pin_sh_ldg (s : Dev) (f : ShPin → ShPin) : (s.pin f).sh.ldg = s.sh.ldg := rfl
@[simp] theorem Dev.pin_sh_safe (s : Dev) (f : ShPin → ShPin) : (s.pin f).sh.safe = s.sh.safe := rfl
@[simp] theorem Dev.pin_sh_rcd (s : Dev) (f : ShPin → ShPin) : (s.pin f).sh.rcd = s.sh.rcd := rfl
@[simp] theorem Dev.pin_sh_leg (s : Dev) (f : ShPin → ShPin) : (s.pin f).sh.leg = s.sh.leg := rfl
@[simp] theorem Dev.pin_sh_tw (s : Dev) (f : ShPin → ShPin) : (s.pin f).sh.tw = s.sh.tw := rfl
@[simp] theorem Dev.md_sh_clk (s : Dev) (f : ShMode → ShMode) : (s.md f).sh.clk = s.sh.clk := rfl
@[simp] theorem Dev.md_sh_pin (s : Dev) (f : ShMode → ShMode) : (s.md f).sh.pin = s.sh.pin := rfl
@[simp] theorem Dev.md_sh_mode (s : Dev) (f : ShMode → ShMode) : (s.md f).sh.mode = f s.sh.mode := rfl
@[simp] theorem Dev.md_sh_flt (s : Dev) (f : ShMode → ShMode) : (s.md f).sh.flt = s.sh.flt := rfl
@[simp] theorem Dev.md_sh_vote (s : Dev) (f : ShMode → ShMode) : (s.md f).sh.vote = s.sh.vote := rfl
@[simp] theorem Dev.md_sh_tly (s : Dev) (f : ShMode → ShMode) : (s.md f).sh.tly = s.sh.tly := rfl
@[simp] theorem Dev.md_sh_img (s : Dev) (f : ShMode → ShMode) : (s.md f).sh.img = s.sh.img := rfl
@[simp] theorem Dev.md_sh_crk (s : Dev) (f : ShMode → ShMode) : (s.md f).sh.crk = s.sh.crk := rfl
@[simp] theorem Dev.md_sh_ldg (s : Dev) (f : ShMode → ShMode) : (s.md f).sh.ldg = s.sh.ldg := rfl
@[simp] theorem Dev.md_sh_safe (s : Dev) (f : ShMode → ShMode) : (s.md f).sh.safe = s.sh.safe := rfl
@[simp] theorem Dev.md_sh_rcd (s : Dev) (f : ShMode → ShMode) : (s.md f).sh.rcd = s.sh.rcd := rfl
@[simp] theorem Dev.md_sh_leg (s : Dev) (f : ShMode → ShMode) : (s.md f).sh.leg = s.sh.leg := rfl
@[simp] theorem Dev.md_sh_tw (s : Dev) (f : ShMode → ShMode) : (s.md f).sh.tw = s.sh.tw := rfl
@[simp] theorem Dev.flt_sh_clk (s : Dev) (f : ShFlt → ShFlt) : (s.flt f).sh.clk = s.sh.clk := rfl
@[simp] theorem Dev.flt_sh_pin (s : Dev) (f : ShFlt → ShFlt) : (s.flt f).sh.pin = s.sh.pin := rfl
@[simp] theorem Dev.flt_sh_mode (s : Dev) (f : ShFlt → ShFlt) : (s.flt f).sh.mode = s.sh.mode := rfl
@[simp] theorem Dev.flt_sh_flt (s : Dev) (f : ShFlt → ShFlt) : (s.flt f).sh.flt = f s.sh.flt := rfl
@[simp] theorem Dev.flt_sh_vote (s : Dev) (f : ShFlt → ShFlt) : (s.flt f).sh.vote = s.sh.vote := rfl
@[simp] theorem Dev.flt_sh_tly (s : Dev) (f : ShFlt → ShFlt) : (s.flt f).sh.tly = s.sh.tly := rfl
@[simp] theorem Dev.flt_sh_img (s : Dev) (f : ShFlt → ShFlt) : (s.flt f).sh.img = s.sh.img := rfl
@[simp] theorem Dev.flt_sh_crk (s : Dev) (f : ShFlt → ShFlt) : (s.flt f).sh.crk = s.sh.crk := rfl
@[simp] theorem Dev.flt_sh_ldg (s : Dev) (f : ShFlt → ShFlt) : (s.flt f).sh.ldg = s.sh.ldg := rfl
@[simp] theorem Dev.flt_sh_safe (s : Dev) (f : ShFlt → ShFlt) : (s.flt f).sh.safe = s.sh.safe := rfl
@[simp] theorem Dev.flt_sh_rcd (s : Dev) (f : ShFlt → ShFlt) : (s.flt f).sh.rcd = s.sh.rcd := rfl
@[simp] theorem Dev.flt_sh_leg (s : Dev) (f : ShFlt → ShFlt) : (s.flt f).sh.leg = s.sh.leg := rfl
@[simp] theorem Dev.flt_sh_tw (s : Dev) (f : ShFlt → ShFlt) : (s.flt f).sh.tw = s.sh.tw := rfl
@[simp] theorem Dev.vote_sh_clk (s : Dev) (f : ShVote → ShVote) : (s.vote f).sh.clk = s.sh.clk := rfl
@[simp] theorem Dev.vote_sh_pin (s : Dev) (f : ShVote → ShVote) : (s.vote f).sh.pin = s.sh.pin := rfl
@[simp] theorem Dev.vote_sh_mode (s : Dev) (f : ShVote → ShVote) : (s.vote f).sh.mode = s.sh.mode := rfl
@[simp] theorem Dev.vote_sh_flt (s : Dev) (f : ShVote → ShVote) : (s.vote f).sh.flt = s.sh.flt := rfl
@[simp] theorem Dev.vote_sh_vote (s : Dev) (f : ShVote → ShVote) : (s.vote f).sh.vote = f s.sh.vote := rfl
@[simp] theorem Dev.vote_sh_tly (s : Dev) (f : ShVote → ShVote) : (s.vote f).sh.tly = s.sh.tly := rfl
@[simp] theorem Dev.vote_sh_img (s : Dev) (f : ShVote → ShVote) : (s.vote f).sh.img = s.sh.img := rfl
@[simp] theorem Dev.vote_sh_crk (s : Dev) (f : ShVote → ShVote) : (s.vote f).sh.crk = s.sh.crk := rfl
@[simp] theorem Dev.vote_sh_ldg (s : Dev) (f : ShVote → ShVote) : (s.vote f).sh.ldg = s.sh.ldg := rfl
@[simp] theorem Dev.vote_sh_safe (s : Dev) (f : ShVote → ShVote) : (s.vote f).sh.safe = s.sh.safe := rfl
@[simp] theorem Dev.vote_sh_rcd (s : Dev) (f : ShVote → ShVote) : (s.vote f).sh.rcd = s.sh.rcd := rfl
@[simp] theorem Dev.vote_sh_leg (s : Dev) (f : ShVote → ShVote) : (s.vote f).sh.leg = s.sh.leg := rfl
@[simp] theorem Dev.vote_sh_tw (s : Dev) (f : ShVote → ShVote) : (s.vote f).sh.tw = s.sh.tw := rfl
@[simp] theorem Dev.tly_sh_clk (s : Dev) (f : ShTly → ShTly) : (s.tly f).sh.clk = s.sh.clk := rfl
@[simp] theorem Dev.tly_sh_pin (s : Dev) (f : ShTly → ShTly) : (s.tly f).sh.pin = s.sh.pin := rfl
@[simp] theorem Dev.tly_sh_mode (s : Dev) (f : ShTly → ShTly) : (s.tly f).sh.mode = s.sh.mode := rfl
@[simp] theorem Dev.tly_sh_flt (s : Dev) (f : ShTly → ShTly) : (s.tly f).sh.flt = s.sh.flt := rfl
@[simp] theorem Dev.tly_sh_vote (s : Dev) (f : ShTly → ShTly) : (s.tly f).sh.vote = s.sh.vote := rfl
@[simp] theorem Dev.tly_sh_tly (s : Dev) (f : ShTly → ShTly) : (s.tly f).sh.tly = f s.sh.tly := rfl
@[simp] theorem Dev.tly_sh_img (s : Dev) (f : ShTly → ShTly) : (s.tly f).sh.img = s.sh.img := rfl
@[simp] theorem Dev.tly_sh_crk (s : Dev) (f : ShTly → ShTly) : (s.tly f).sh.crk = s.sh.crk := rfl
@[simp] theorem Dev.tly_sh_ldg (s : Dev) (f : ShTly → ShTly) : (s.tly f).sh.ldg = s.sh.ldg := rfl
@[simp] theorem Dev.tly_sh_safe (s : Dev) (f : ShTly → ShTly) : (s.tly f).sh.safe = s.sh.safe := rfl
@[simp] theorem Dev.tly_sh_rcd (s : Dev) (f : ShTly → ShTly) : (s.tly f).sh.rcd = s.sh.rcd := rfl
@[simp] theorem Dev.tly_sh_leg (s : Dev) (f : ShTly → ShTly) : (s.tly f).sh.leg = s.sh.leg := rfl
@[simp] theorem Dev.tly_sh_tw (s : Dev) (f : ShTly → ShTly) : (s.tly f).sh.tw = s.sh.tw := rfl
@[simp] theorem Dev.img_sh_clk (s : Dev) (f : ShImg → ShImg) : (s.img f).sh.clk = s.sh.clk := rfl
@[simp] theorem Dev.img_sh_pin (s : Dev) (f : ShImg → ShImg) : (s.img f).sh.pin = s.sh.pin := rfl
@[simp] theorem Dev.img_sh_mode (s : Dev) (f : ShImg → ShImg) : (s.img f).sh.mode = s.sh.mode := rfl
@[simp] theorem Dev.img_sh_flt (s : Dev) (f : ShImg → ShImg) : (s.img f).sh.flt = s.sh.flt := rfl
@[simp] theorem Dev.img_sh_vote (s : Dev) (f : ShImg → ShImg) : (s.img f).sh.vote = s.sh.vote := rfl
@[simp] theorem Dev.img_sh_tly (s : Dev) (f : ShImg → ShImg) : (s.img f).sh.tly = s.sh.tly := rfl
@[simp] theorem Dev.img_sh_img (s : Dev) (f : ShImg → ShImg) : (s.img f).sh.img = f s.sh.img := rfl
@[simp] theorem Dev.img_sh_crk (s : Dev) (f : ShImg → ShImg) : (s.img f).sh.crk = s.sh.crk := rfl
@[simp] theorem Dev.img_sh_ldg (s : Dev) (f : ShImg → ShImg) : (s.img f).sh.ldg = s.sh.ldg := rfl
@[simp] theorem Dev.img_sh_safe (s : Dev) (f : ShImg → ShImg) : (s.img f).sh.safe = s.sh.safe := rfl
@[simp] theorem Dev.img_sh_rcd (s : Dev) (f : ShImg → ShImg) : (s.img f).sh.rcd = s.sh.rcd := rfl
@[simp] theorem Dev.img_sh_leg (s : Dev) (f : ShImg → ShImg) : (s.img f).sh.leg = s.sh.leg := rfl
@[simp] theorem Dev.img_sh_tw (s : Dev) (f : ShImg → ShImg) : (s.img f).sh.tw = s.sh.tw := rfl
@[simp] theorem Dev.crk_sh_clk (s : Dev) (f : ShCrk → ShCrk) : (s.crk f).sh.clk = s.sh.clk := rfl
@[simp] theorem Dev.crk_sh_pin (s : Dev) (f : ShCrk → ShCrk) : (s.crk f).sh.pin = s.sh.pin := rfl
@[simp] theorem Dev.crk_sh_mode (s : Dev) (f : ShCrk → ShCrk) : (s.crk f).sh.mode = s.sh.mode := rfl
@[simp] theorem Dev.crk_sh_flt (s : Dev) (f : ShCrk → ShCrk) : (s.crk f).sh.flt = s.sh.flt := rfl
@[simp] theorem Dev.crk_sh_vote (s : Dev) (f : ShCrk → ShCrk) : (s.crk f).sh.vote = s.sh.vote := rfl
@[simp] theorem Dev.crk_sh_tly (s : Dev) (f : ShCrk → ShCrk) : (s.crk f).sh.tly = s.sh.tly := rfl
@[simp] theorem Dev.crk_sh_img (s : Dev) (f : ShCrk → ShCrk) : (s.crk f).sh.img = s.sh.img := rfl
@[simp] theorem Dev.crk_sh_crk (s : Dev) (f : ShCrk → ShCrk) : (s.crk f).sh.crk = f s.sh.crk := rfl
@[simp] theorem Dev.crk_sh_ldg (s : Dev) (f : ShCrk → ShCrk) : (s.crk f).sh.ldg = s.sh.ldg := rfl
@[simp] theorem Dev.crk_sh_safe (s : Dev) (f : ShCrk → ShCrk) : (s.crk f).sh.safe = s.sh.safe := rfl
@[simp] theorem Dev.crk_sh_rcd (s : Dev) (f : ShCrk → ShCrk) : (s.crk f).sh.rcd = s.sh.rcd := rfl
@[simp] theorem Dev.crk_sh_leg (s : Dev) (f : ShCrk → ShCrk) : (s.crk f).sh.leg = s.sh.leg := rfl
@[simp] theorem Dev.crk_sh_tw (s : Dev) (f : ShCrk → ShCrk) : (s.crk f).sh.tw = s.sh.tw := rfl
@[simp] theorem Dev.ldg_sh_clk (s : Dev) (f : ShLdg → ShLdg) : (s.ldg f).sh.clk = s.sh.clk := rfl
@[simp] theorem Dev.ldg_sh_pin (s : Dev) (f : ShLdg → ShLdg) : (s.ldg f).sh.pin = s.sh.pin := rfl
@[simp] theorem Dev.ldg_sh_mode (s : Dev) (f : ShLdg → ShLdg) : (s.ldg f).sh.mode = s.sh.mode := rfl
@[simp] theorem Dev.ldg_sh_flt (s : Dev) (f : ShLdg → ShLdg) : (s.ldg f).sh.flt = s.sh.flt := rfl
@[simp] theorem Dev.ldg_sh_vote (s : Dev) (f : ShLdg → ShLdg) : (s.ldg f).sh.vote = s.sh.vote := rfl
@[simp] theorem Dev.ldg_sh_tly (s : Dev) (f : ShLdg → ShLdg) : (s.ldg f).sh.tly = s.sh.tly := rfl
@[simp] theorem Dev.ldg_sh_img (s : Dev) (f : ShLdg → ShLdg) : (s.ldg f).sh.img = s.sh.img := rfl
@[simp] theorem Dev.ldg_sh_crk (s : Dev) (f : ShLdg → ShLdg) : (s.ldg f).sh.crk = s.sh.crk := rfl
@[simp] theorem Dev.ldg_sh_ldg (s : Dev) (f : ShLdg → ShLdg) : (s.ldg f).sh.ldg = f s.sh.ldg := rfl
@[simp] theorem Dev.ldg_sh_safe (s : Dev) (f : ShLdg → ShLdg) : (s.ldg f).sh.safe = s.sh.safe := rfl
@[simp] theorem Dev.ldg_sh_rcd (s : Dev) (f : ShLdg → ShLdg) : (s.ldg f).sh.rcd = s.sh.rcd := rfl
@[simp] theorem Dev.ldg_sh_leg (s : Dev) (f : ShLdg → ShLdg) : (s.ldg f).sh.leg = s.sh.leg := rfl
@[simp] theorem Dev.ldg_sh_tw (s : Dev) (f : ShLdg → ShLdg) : (s.ldg f).sh.tw = s.sh.tw := rfl
@[simp] theorem Dev.safe_sh_clk (s : Dev) (f : ShSafe → ShSafe) : (s.safe f).sh.clk = s.sh.clk := rfl
@[simp] theorem Dev.safe_sh_pin (s : Dev) (f : ShSafe → ShSafe) : (s.safe f).sh.pin = s.sh.pin := rfl
@[simp] theorem Dev.safe_sh_mode (s : Dev) (f : ShSafe → ShSafe) : (s.safe f).sh.mode = s.sh.mode := rfl
@[simp] theorem Dev.safe_sh_flt (s : Dev) (f : ShSafe → ShSafe) : (s.safe f).sh.flt = s.sh.flt := rfl
@[simp] theorem Dev.safe_sh_vote (s : Dev) (f : ShSafe → ShSafe) : (s.safe f).sh.vote = s.sh.vote := rfl
@[simp] theorem Dev.safe_sh_tly (s : Dev) (f : ShSafe → ShSafe) : (s.safe f).sh.tly = s.sh.tly := rfl
@[simp] theorem Dev.safe_sh_img (s : Dev) (f : ShSafe → ShSafe) : (s.safe f).sh.img = s.sh.img := rfl
@[simp] theorem Dev.safe_sh_crk (s : Dev) (f : ShSafe → ShSafe) : (s.safe f).sh.crk = s.sh.crk := rfl
@[simp] theorem Dev.safe_sh_ldg (s : Dev) (f : ShSafe → ShSafe) : (s.safe f).sh.ldg = s.sh.ldg := rfl
@[simp] theorem Dev.safe_sh_safe (s : Dev) (f : ShSafe → ShSafe) : (s.safe f).sh.safe = f s.sh.safe := rfl
@[simp] theorem Dev.safe_sh_rcd (s : Dev) (f : ShSafe → ShSafe) : (s.safe f).sh.rcd = s.sh.rcd := rfl
@[simp] theorem Dev.safe_sh_leg (s : Dev) (f : ShSafe → ShSafe) : (s.safe f).sh.leg = s.sh.leg := rfl
@[simp] theorem Dev.safe_sh_tw (s : Dev) (f : ShSafe → ShSafe) : (s.safe f).sh.tw = s.sh.tw := rfl
@[simp] theorem Dev.rcd_sh_clk (s : Dev) (f : ShRec → ShRec) : (s.rcd f).sh.clk = s.sh.clk := rfl
@[simp] theorem Dev.rcd_sh_pin (s : Dev) (f : ShRec → ShRec) : (s.rcd f).sh.pin = s.sh.pin := rfl
@[simp] theorem Dev.rcd_sh_mode (s : Dev) (f : ShRec → ShRec) : (s.rcd f).sh.mode = s.sh.mode := rfl
@[simp] theorem Dev.rcd_sh_flt (s : Dev) (f : ShRec → ShRec) : (s.rcd f).sh.flt = s.sh.flt := rfl
@[simp] theorem Dev.rcd_sh_vote (s : Dev) (f : ShRec → ShRec) : (s.rcd f).sh.vote = s.sh.vote := rfl
@[simp] theorem Dev.rcd_sh_tly (s : Dev) (f : ShRec → ShRec) : (s.rcd f).sh.tly = s.sh.tly := rfl
@[simp] theorem Dev.rcd_sh_img (s : Dev) (f : ShRec → ShRec) : (s.rcd f).sh.img = s.sh.img := rfl
@[simp] theorem Dev.rcd_sh_crk (s : Dev) (f : ShRec → ShRec) : (s.rcd f).sh.crk = s.sh.crk := rfl
@[simp] theorem Dev.rcd_sh_ldg (s : Dev) (f : ShRec → ShRec) : (s.rcd f).sh.ldg = s.sh.ldg := rfl
@[simp] theorem Dev.rcd_sh_safe (s : Dev) (f : ShRec → ShRec) : (s.rcd f).sh.safe = s.sh.safe := rfl
@[simp] theorem Dev.rcd_sh_rcd (s : Dev) (f : ShRec → ShRec) : (s.rcd f).sh.rcd = f s.sh.rcd := rfl
@[simp] theorem Dev.rcd_sh_leg (s : Dev) (f : ShRec → ShRec) : (s.rcd f).sh.leg = s.sh.leg := rfl
@[simp] theorem Dev.rcd_sh_tw (s : Dev) (f : ShRec → ShRec) : (s.rcd f).sh.tw = s.sh.tw := rfl
@[simp] theorem Dev.leg_sh_clk (s : Dev) (f : ShLeg → ShLeg) : (s.leg f).sh.clk = s.sh.clk := rfl
@[simp] theorem Dev.leg_sh_pin (s : Dev) (f : ShLeg → ShLeg) : (s.leg f).sh.pin = s.sh.pin := rfl
@[simp] theorem Dev.leg_sh_mode (s : Dev) (f : ShLeg → ShLeg) : (s.leg f).sh.mode = s.sh.mode := rfl
@[simp] theorem Dev.leg_sh_flt (s : Dev) (f : ShLeg → ShLeg) : (s.leg f).sh.flt = s.sh.flt := rfl
@[simp] theorem Dev.leg_sh_vote (s : Dev) (f : ShLeg → ShLeg) : (s.leg f).sh.vote = s.sh.vote := rfl
@[simp] theorem Dev.leg_sh_tly (s : Dev) (f : ShLeg → ShLeg) : (s.leg f).sh.tly = s.sh.tly := rfl
@[simp] theorem Dev.leg_sh_img (s : Dev) (f : ShLeg → ShLeg) : (s.leg f).sh.img = s.sh.img := rfl
@[simp] theorem Dev.leg_sh_crk (s : Dev) (f : ShLeg → ShLeg) : (s.leg f).sh.crk = s.sh.crk := rfl
@[simp] theorem Dev.leg_sh_ldg (s : Dev) (f : ShLeg → ShLeg) : (s.leg f).sh.ldg = s.sh.ldg := rfl
@[simp] theorem Dev.leg_sh_safe (s : Dev) (f : ShLeg → ShLeg) : (s.leg f).sh.safe = s.sh.safe := rfl
@[simp] theorem Dev.leg_sh_rcd (s : Dev) (f : ShLeg → ShLeg) : (s.leg f).sh.rcd = s.sh.rcd := rfl
@[simp] theorem Dev.leg_sh_leg (s : Dev) (f : ShLeg → ShLeg) : (s.leg f).sh.leg = f s.sh.leg := rfl
@[simp] theorem Dev.leg_sh_tw (s : Dev) (f : ShLeg → ShLeg) : (s.leg f).sh.tw = s.sh.tw := rfl
@[simp] theorem Dev.tw_sh_clk (s : Dev) (f : ShTw → ShTw) : (s.tw f).sh.clk = s.sh.clk := rfl
@[simp] theorem Dev.tw_sh_pin (s : Dev) (f : ShTw → ShTw) : (s.tw f).sh.pin = s.sh.pin := rfl
@[simp] theorem Dev.tw_sh_mode (s : Dev) (f : ShTw → ShTw) : (s.tw f).sh.mode = s.sh.mode := rfl
@[simp] theorem Dev.tw_sh_flt (s : Dev) (f : ShTw → ShTw) : (s.tw f).sh.flt = s.sh.flt := rfl
@[simp] theorem Dev.tw_sh_vote (s : Dev) (f : ShTw → ShTw) : (s.tw f).sh.vote = s.sh.vote := rfl
@[simp] theorem Dev.tw_sh_tly (s : Dev) (f : ShTw → ShTw) : (s.tw f).sh.tly = s.sh.tly := rfl
@[simp] theorem Dev.tw_sh_img (s : Dev) (f : ShTw → ShTw) : (s.tw f).sh.img = s.sh.img := rfl
@[simp] theorem Dev.tw_sh_crk (s : Dev) (f : ShTw → ShTw) : (s.tw f).sh.crk = s.sh.crk := rfl
@[simp] theorem Dev.tw_sh_ldg (s : Dev) (f : ShTw → ShTw) : (s.tw f).sh.ldg = s.sh.ldg := rfl
@[simp] theorem Dev.tw_sh_safe (s : Dev) (f : ShTw → ShTw) : (s.tw f).sh.safe = s.sh.safe := rfl
@[simp] theorem Dev.tw_sh_rcd (s : Dev) (f : ShTw → ShTw) : (s.tw f).sh.rcd = s.sh.rcd := rfl
@[simp] theorem Dev.tw_sh_leg (s : Dev) (f : ShTw → ShTw) : (s.tw f).sh.leg = s.sh.leg := rfl
@[simp] theorem Dev.tw_sh_tw (s : Dev) (f : ShTw → ShTw) : (s.tw f).sh.tw = f s.sh.tw := rfl

/-! ### Commands -/

@[simp] theorem State.upd_eq (s : State) (f : Dev → Dev) : s.upd f = .next { s with dev := f s.dev } := rfl

@[simp] theorem State.updIf_true (s : State) (f : Dev → Dev) : s.updIf true f = .next { s with dev := f s.dev } := rfl

@[simp] theorem State.updIf_false (s : State) (f : Dev → Dev) : s.updIf false f = .next s := rfl

/-- What a command that names a unit can do: its effect, or nothing where the unit is not there. -/
theorem State.updIf_cases (s : State) (ok : Bool) (f : Dev → Dev) :
    (ok = true ∧ s.updIf ok f = .next { s with dev := f s.dev }) ∨ (ok = false ∧ s.updIf ok f = .next s) := by
  cases ok <;> simp

/-! ### Registers -/

@[simp] theorem Dev.rget_rset_same (s : Dev) (a : Nat) (v : W64) : (s.rset a v).rget a = v := Store.get_set_same _ _ _ _

theorem Dev.rget_rset_ne (s : Dev) {a b : Nat} (v : W64) (h : b ≠ a) : (s.rset a v).rget b = s.rget b :=
  Store.get_set_ne _ _ _ h

theorem Dev.rget_congr {s t : Dev} (h : s.regs = t.regs) (a : Nat) : s.rget a = t.rget a := by simp only [Dev.rget, h]

theorem Dev.fget_congr {s t : Dev} (h : s.regs = t.regs) (f : Field) : s.fget f = t.fget f := by
  simp only [Dev.fget, Dev.rget, h]

theorem bitsOf_lt (x lo w : Nat) : bitsOf x lo w < 2 ^ w := Nat.mod_lt _ (Nat.two_pow_pos w)

theorem bitsOf_putBits_same (x lo w v : Nat) : bitsOf (putBits x lo w v) lo w = v % 2 ^ w := by
  unfold bitsOf putBits bitsOf
  have hx : x = x / 2 ^ lo / 2 ^ w * 2 ^ w * 2 ^ lo + x / 2 ^ lo % 2 ^ w * 2 ^ lo + x % 2 ^ lo := by
    rw [← Nat.add_mul, Nat.div_add_mod', Nat.div_add_mod']
  have e : x - x / 2 ^ lo % 2 ^ w * 2 ^ lo + v % 2 ^ w * 2 ^ lo
      = x % 2 ^ lo + 2 ^ lo * (v % 2 ^ w + 2 ^ w * (x / 2 ^ lo / 2 ^ w)) := by
    have : x - x / 2 ^ lo % 2 ^ w * 2 ^ lo = x / 2 ^ lo / 2 ^ w * 2 ^ w * 2 ^ lo + x % 2 ^ lo := by omega
    rw [this]; ring
  rw [e, Nat.add_mul_div_left _ _ (Nat.two_pow_pos lo), Nat.div_eq_of_lt (Nat.mod_lt _ (Nat.two_pow_pos lo)), Nat.zero_add,
    Nat.add_mul_mod_self_left, Nat.mod_mod]

/-- Bits below or above the field written stay. -/
theorem bitsOf_putBits_ne (x lo w v lo' w' : Nat) (h : lo' + w' ≤ lo ∨ lo + w ≤ lo') :
    bitsOf (putBits x lo w v) lo' w' = bitsOf x lo' w' := by
  have hx : x = x % 2 ^ lo + 2 ^ lo * (x / 2 ^ lo % 2 ^ w + 2 ^ w * (x / 2 ^ lo / 2 ^ w)) := by
    rw [Nat.mod_add_div, Nat.mod_add_div]
  have e : putBits x lo w v = x % 2 ^ lo + 2 ^ lo * (v % 2 ^ w + 2 ^ w * (x / 2 ^ lo / 2 ^ w)) := by
    unfold putBits bitsOf
    have : x - x / 2 ^ lo % 2 ^ w * 2 ^ lo = x % 2 ^ lo + 2 ^ lo * (2 ^ w * (x / 2 ^ lo / 2 ^ w)) := by
      have : x = x % 2 ^ lo + 2 ^ lo * (2 ^ w * (x / 2 ^ lo / 2 ^ w)) + x / 2 ^ lo % 2 ^ w * 2 ^ lo := by
        conv_lhs => rw [hx]
        ring
      omega
    rw [this]; ring
  have key : ∀ y lo'', lo'' ≤ lo' → ∀ a, a < 2 ^ lo'' → (a + 2 ^ lo'' * y) / 2 ^ lo' = y / 2 ^ (lo' - lo'') := by
    intro y l hl a ha
    rw [show 2 ^ lo' = 2 ^ l * 2 ^ (lo' - l) from by rw [← pow_add]; congr 1; omega, ← Nat.div_div_eq_div_mul,
      Nat.add_mul_div_left _ _ (Nat.two_pow_pos l), Nat.div_eq_of_lt ha, Nat.zero_add]
  unfold bitsOf
  rcases h with h | h
  · rw [e]
    conv_rhs => rw [hx]
    have low : ∀ y, (x % 2 ^ lo + 2 ^ lo * y) / 2 ^ lo' % 2 ^ w' = x % 2 ^ lo / 2 ^ lo' % 2 ^ w' := by
      intro y
      rw [show 2 ^ lo * y = 2 ^ lo' * (2 ^ w' * (2 ^ (lo - lo' - w') * y)) from by
        rw [← mul_assoc, ← mul_assoc, ← pow_add, ← pow_add]; congr 2; omega,
        Nat.add_mul_div_left _ _ (Nat.two_pow_pos lo'), Nat.add_mul_mod_self_left]
    rw [low, low]
  · rw [e]
    conv_rhs => rw [hx]
    have up : ∀ b, b < 2 ^ w → (x % 2 ^ lo + 2 ^ lo * (b + 2 ^ w * (x / 2 ^ lo / 2 ^ w))) / 2 ^ lo'
        = x / 2 ^ lo / 2 ^ w / 2 ^ (lo' - lo - w) := by
      intro b hb
      rw [key _ lo (by omega) _ (Nat.mod_lt _ (Nat.two_pow_pos lo)),
        show 2 ^ (lo' - lo) = 2 ^ w * 2 ^ (lo' - lo - w) from by rw [← pow_add]; congr 1; omega, ← Nat.div_div_eq_div_mul,
        Nat.add_mul_div_left _ _ (Nat.two_pow_pos w), Nat.div_eq_of_lt hb, Nat.zero_add]
    rw [up _ (Nat.mod_lt _ (Nat.two_pow_pos w)), up _ (Nat.mod_lt _ (Nat.two_pow_pos w))]

theorem putBits_lt {x lo w v n : Nat} (hx : x < 2 ^ n) (h : lo + w ≤ n) : putBits x lo w v < 2 ^ n := by
  by_contra hc
  have h1 := bitsOf_putBits_ne x lo w v n (putBits x lo w v + 1) (Or.inr h)
  unfold bitsOf at h1
  rw [Nat.div_eq_of_lt hx, Nat.zero_mod] at h1
  have h2 : putBits x lo w v / 2 ^ n < 2 ^ (putBits x lo w v + 1) :=
    lt_of_le_of_lt (Nat.div_le_self _ _) (lt_trans (Nat.lt_succ_self _) Nat.lt_two_pow_self)
  rw [Nat.mod_eq_of_lt h2, Nat.div_eq_zero_iff] at h1
  rcases h1 with h1 | h1
  · exact absurd h1 (Nat.two_pow_pos n).ne'
  · omega

theorem toNat_putBits (v : W64) (lo w x : Nat) (h : lo + w ≤ 64) :
    (BitVec.ofNat 64 (putBits v.toNat lo w x)).toNat = putBits v.toNat lo w x := by
  rw [BitVec.toNat_ofNat, Nat.mod_eq_of_lt (putBits_lt v.isLt h)]

/-- A field reads what was written to it. -/
theorem Dev.fget_fset_same (s : Dev) (f : Field) (v : Nat) (h : f.lo + f.width ≤ 64) :
    (s.fset f v).fget f = v % 2 ^ f.width := by
  simp only [Dev.fget, Dev.fset, Dev.rget_rset_same]
  rw [toNat_putBits _ _ _ _ h, bitsOf_putBits_same]

/-- A field of another register stays. -/
theorem Dev.fget_fset_reg (s : Dev) {f g : Field} (v : Nat) (h : g.reg ≠ f.reg) : (s.fset f v).fget g = s.fget g := by
  simp only [Dev.fget, Dev.fset, Dev.rget_rset_ne s _ h]

theorem Dev.rget_fset_reg (s : Dev) {f : Field} {a : Nat} (v : Nat) (h : a ≠ f.reg) : (s.fset f v).rget a = s.rget a :=
  Dev.rget_rset_ne s _ h

/-- Another field of the same register stays. -/
theorem Dev.fget_fset_bits (s : Dev) {f g : Field} (v : Nat) (hf : f.lo + f.width ≤ 64)
    (h : g.lo + g.width ≤ f.lo ∨ f.lo + f.width ≤ g.lo) (hr : g.reg = f.reg) : (s.fset f v).fget g = s.fget g := by
  simp only [Dev.fget, Dev.fset, hr, Dev.rget_rset_same]
  rw [toNat_putBits _ _ _ _ hf, bitsOf_putBits_ne _ _ _ _ _ _ h]

theorem Dev.rset_wf {s : Dev} (a : Nat) (v : W64) (w : Store.wf regReset s.regs = true) :
    Store.wf regReset (s.rset a v).regs = true := Store.wf_set _ _ _ w

/-! ### Dies, cells and rings -/

theorem Dev.cd_setCd_same (s : Dev) (d : Nat) (x : CtrlDie) : (s.setCd d x).cd d = x := by
  rcases d with _ | _ | _ | d <;> rfl

theorem Dev.cd_modCd_same (s : Dev) (d : Nat) (f : CtrlDie → CtrlDie) : (s.modCd d f).cd d = f (s.cd d) :=
  Dev.cd_setCd_same _ _ _

theorem Dev.cd_setCd_ne (s : Dev) {d e : Nat} (x : CtrlDie) (hd : d < 4) (he : e < 4) (h : e ≠ d) :
    (s.setCd d x).cd e = s.cd e := by
  interval_cases d <;> interval_cases e <;> first | rfl | exact absurd rfl h

theorem Dev.rd_setRd_same (s : Dev) (n : Nat) (x : RingDie) : (s.setRd n x).rd n = x := by
  rcases n with _ | n <;> rfl

@[simp] theorem Dev.cell_setCell_same (s : Dev) (p : Place) (c : Cell) : (s.setCell p c).cell p = c := Store.get_set_same _ _ _ _

theorem Dev.cell_setCell_ne (s : Dev) {p q : Place} (c : Cell) (h : q ≠ p) : (s.setCell p c).cell q = s.cell q :=
  Store.get_set_ne _ _ _ h

@[simp] theorem Dev.cell_modCell_same (s : Dev) (p : Place) (f : Cell → Cell) : (s.modCell p f).cell p = f (s.cell p) :=
  Dev.cell_setCell_same _ _ _

@[simp] theorem Dev.ring_setRing_same (s : Dev) (r : Nat) (x : Ring) : (s.setRing r x).ring r = x := Store.get_set_same _ _ _ _

theorem Dev.ring_setRing_ne (s : Dev) {r q : Nat} (x : Ring) (h : q ≠ r) : (s.setRing r x).ring q = s.ring q :=
  Store.get_set_ne _ _ _ h

@[simp] theorem Dev.cend_setCend_same (s : Dev) (i : Nat) (x : CellEnd) : (s.setCend i x).cend i = x := Store.get_set_same _ _ _ _

theorem Dev.cend_setCend_ne (s : Dev) {i j : Nat} (x : CellEnd) (h : j ≠ i) : (s.setCend i x).cend j = s.cend j :=
  Store.get_set_ne _ _ _ h

end Sys2Proof.Machine
end

