-- ==== Sys2Proof/Laws/Instr.lean ====
section
/-!
SUPPORT. What executing an instruction does, said once: where a core executes a word, `Dev.instr` is the instruction's own
effect on the block as it finds it; elsewhere it is one of the traps of R359. Register reads see through the note of the last
address.
-/
namespace Sys2Proof.Machine

/-- The facts that `State.executes` gathers. -/
theorem State.executes_iff (s : State) (r : CoreRef) (t word : Nat) (perm : Perm) :
    s.executes r t word perm = true ↔
      s.dev.present r.die.idx = true ∧ s.dev.runs r = some t ∧ (s.task r t).pc.toNat % 4 = 0 ∧
        (s.task r t).pc.toNat < 0x400000 ∧ (s.dev.cd r.die.idx).seqAllows (s.task r t) word = true ∧ perm.ok (s.task r t).part = true := by
  simp [State.executes, State.task, and_assoc]

/-- The sequence rule looks at instruction SRAM alone. -/
theorem CtrlDie.seqAllows_modTask (x : CtrlDie) (t : Nat) (f : Task → Task) (k : Task) (word : Nat) :
    (x.modTask t f).seqAllows k word = x.seqAllows k word := rfl

theorem Dev.seqAllows_issue (s : Dev) (d t : Nat) (k : Task) (word : Nat) :
    ((s.issue d t).cd d).seqAllows k word = (s.cd d).seqAllows k word := by
  rw [Dev.issue, Dev.cd_modCd_same]
  rfl

/-- How an instruction's own effect ends. -/
def Dev.finish (r : CoreRef) (t : Nat) (x : Ires) : Dev :=
  match x with
  | .done s => s.advance r.die.idx t
  | .goto s pc => s.jump r.die.idx t pc
  | .trap s cause w2 => s.takeTrap r.die.idx r.core.val t cause w2
  | .hold s => s

/-- Where a core executes a word with legal fields, the instruction is its own effect. -/
theorem Dev.instr_executes {s : State} {r : CoreRef} {t word : Nat} {perm : Perm} (legal : Bool) (body : Nat → Dev → Ires)
    (h : s.executes r t word perm = true) (hl : legal = true) :
    s.dev.instr r word legal perm body = Dev.finish r t (body t (s.entered r t)) := by
  obtain ⟨-, hr, ha, hp, hq, ho⟩ := (State.executes_iff s r t word perm).1 h
  simp only [State.task] at ha hp hq ho
  have hp' : ¬ (4194304 ≤ ((s.dev.cd r.die.idx).task t).pc.toNat) := by omega
  simp only [Dev.instr, hr, ha, Dev.seqAllows_issue, hq, ho, hl, hp', ne_eq, not_true_eq_false, if_false, Bool.not_true, Bool.or_self,
    Bool.false_eq_true]
  unfold Dev.finish State.entered
  cases body t _ <;> rfl

/-- Where a core executes a word whose fields are out of range, cause 2 is raised (R374). -/
theorem Dev.instr_illegal {s : State} {r : CoreRef} {t word : Nat} {perm : Perm} (body : Nat → Dev → Ires)
    (h : s.executes r t word perm = true) :
    s.dev.instr r word false perm body = (s.entered r t).takeTrap r.die.idx r.core.val t 2 (BitVec.ofNat 64 word) := by
  obtain ⟨-, hr, ha, hp, hq, ho⟩ := (State.executes_iff s r t word perm).1 h
  simp only [State.task] at ha hp hq ho
  have hp' : ¬ (4194304 ≤ ((s.dev.cd r.die.idx).task t).pc.toNat) := by omega
  simp [Dev.instr, hr, ha, hp', State.entered]

/-- A command to a core that executes it reaches the core's die. -/
theorem State.onCore_executes {s : State} {r : CoreRef} {t word : Nat} {perm : Perm} (f : Dev → Dev)
    (h : s.executes r t word perm = true) : s.onCore r f = .next (s.withDev (f s.dev)) := by
  obtain ⟨hp, -⟩ := (State.executes_iff s r t word perm).1 h
  simp [State.onCore, State.updIf, State.upd, State.withDev, hp]

/-! ### Reads through the note of the last address -/

theorem CtrlDie.task_setTask_same (x : CtrlDie) (t : Nat) (k : Task) : (x.setTask t k).task t = k := by
  simp [CtrlDie.task, CtrlDie.setTask]

theorem CtrlDie.task_setTask_ne (x : CtrlDie) (t u : Nat) (k : Task) (h : u ≠ t) : (x.setTask t k).task u = x.task u := by
  simp [CtrlDie.task, CtrlDie.setTask, Store.get_set, h]

theorem CtrlDie.core_setTask (x : CtrlDie) (t c : Nat) (k : Task) : (x.setTask t k).core c = x.core c := rfl

/-- A change of the task's context that keeps its depth and its traps keeps every register. -/
theorem CtrlDie.reg_modTask (x : CtrlDie) (c t : Nat) (f : Task → Task) (q : Reg)
    (hd : (f (x.task t)).depth = (x.task t).depth) (hu : (f (x.task t)).trapUp = (x.task t).trapUp) :
    (x.modTask t f).reg c t q = x.reg c t q := by
  cases q with
  | g i => rfl
  | w i =>
    simp only [CtrlDie.reg, CtrlDie.window, CtrlDie.modTask, CtrlDie.task_setTask_same, Task.inTrap, hu, hd,
      CtrlDie.core_setTask]
    rfl

/-- An instruction finds every register as it was. -/
theorem State.entered_reg (s : State) (r : CoreRef) (t : Nat) (q : Reg) :
    ((s.entered r t).cd r.die.idx).reg r.core.val t q = s.reg r t q := by
  rw [State.entered, Dev.issue, Dev.cd_modCd_same]
  exact CtrlDie.reg_modTask _ _ _ _ _ rfl rfl

/-- What an instruction that only computes does. -/
theorem Dev.alu_computes {s : State} {r : CoreRef} {t word : Nat} {legal : Bool} (rd : Reg) (f : (Reg → W64) → W64)
    (h : s.executes r t word .both = true) (hl : legal = true) :
    s.onCore r (fun d => d.alu r word legal rd f) = .next (s.wrote r t rd (f (s.reg r t))) := by
  rw [State.onCore_executes _ h]
  simp only [Dev.alu, Dev.instr_executes legal _ h hl, Dev.finish]
  simp only [State.withDev, State.wrote, Dev.writes, Dev.modCd]
  rw [show ((s.entered r t).cd r.die.idx).reg r.core.val t = s.reg r t from funext (fun q => State.entered_reg s r t q)]

end Sys2Proof.Machine
end

