-- ==== Sys2Proof/Machine/LineCode.lean ====
section
/-!
DEFINITION. The line code of a ring data lane (R489, R490, R495) and the shape its transmitter gives a symbol (R493): the bits of a
block, scrambled, Gray-mapped, precoded and sent as levels, and what a receiver makes of the levels.
-/
namespace Sys2Proof.Machine

/-! ### The block's bytes (R495) -/

/-- The 66 bytes of a block: `SYNC`, `TYPE`, `BSEQ`, the payload, and the CRC-32C of bytes 0-61. -/
def blockBytes (ty : BitVec 4) (bseq : Byte) (pl : Payload) : List Byte :=
  let b := bytesOf (0x9 + 16 * ty.toNat + 256 * bseq.toNat) 2 ++ bytesOf pl.toNat 60
  b ++ bytesOf (crc32c b).toNat 4

/-- The bits of a byte string, each byte least significant bit first. -/
def bitsLsb (l : List Byte) : List Bool := l.flatMap (fun b => (List.range 8).map (fun i => b.getLsbD i))

/-! ### Scrambler, Gray map, precoder (R489) -/

/-- One end of a hop: the latest 58 scrambled bits, newest at bit 0, and the latest precoded symbol. -/
structure LaneCode where
  scr : BitVec 58
  pre : BitVec 2
  deriving DecidableEq, Repr

/-- A lane that leaves reset; the spec gives the precoder's start and not the scrambler's, which is a free value. -/
def LaneCode.start : LaneCode := { scr := Config.scramblerStart, pre := 0 }

/-- The bit that x^58 + x^39 + 1 adds. -/
def LaneCode.tap (c : LaneCode) : Bool := c.scr.getLsbD 38 ^^ c.scr.getLsbD 57

/-- A scrambled bit joins the lane's history. -/
def LaneCode.push (c : LaneCode) (b : Bool) : LaneCode := { c with scr := (c.scr <<< 1) ||| BitVec.ofNat 58 (b2n b) }

/-- Scrambles bits in order. -/
def scramble (c : LaneCode) : List Bool → List Bool × LaneCode
  | [] => ([], c)
  | b :: bs =>
    let x := b ^^ c.tap
    let r := scramble (c.push x) bs
    (x :: r.1, r.2)

/-- Descrambles bits in order; the received bits are the history. -/
def descramble (c : LaneCode) : List Bool → List Bool × LaneCode
  | [] => ([], c)
  | x :: xs =>
    let r := descramble (c.push x) xs
    ((x ^^ c.tap) :: r.1, r.2)

/-- g(i) of the bits 2i and 2i + 1. -/
def gray (hi lo : Bool) : BitVec 2 :=
  match hi, lo with
  | false, false => 0
  | false, true => 1
  | true, true => 2
  | true, false => 3

def ungray (g : BitVec 2) : Bool × Bool := (g.getLsbD 1, g.getLsbD 1 ^^ g.getLsbD 0)

/-- Symbols precoded in order: p(i) := (g(i) - p(i - 1)) mod 4. -/
def precode (p : BitVec 2) : List Bool → List (BitVec 2) × BitVec 2
  | hi :: lo :: bs =>
    let q := gray hi lo - p
    let r := precode q bs
    (q :: r.1, r.2)
  | _ => ([], p)

/-- The bits of precoded symbols: g(i) := (p(i) + p(i - 1)) mod 4. -/
def decodeSym (p : BitVec 2) : List (BitVec 2) → List Bool
  | [] => []
  | q :: qs =>
    let b := ungray (q + p)
    b.1 :: b.2 :: decodeSym q qs

/-- The level of a precoded symbol. -/
def level (p : BitVec 2) : Int := 2 * p.toNat - 3

/-- Encodes a block's bits: all but the four of `SYNC` are scrambled. -/
def LaneCode.encode (c : LaneCode) (bits : List Bool) : List (BitVec 2) × LaneCode :=
  let (x, c) := scramble c (bits.drop 4)
  let (q, p) := precode c.pre (bits.take 4 ++ x)
  (q, { c with pre := p })

/-- What a receiver in step with the sender makes of a block's symbols. -/
def LaneCode.decode (c : LaneCode) (q : List (BitVec 2)) : List Bool :=
  let b := decodeSym c.pre q
  b.take 4 ++ (descramble c (b.drop 4)).1

/-- The lane of a launcher after n blocks of its stream. -/
def Dev.laneAfter (s : Dev) (q : Sender) : Nat → LaneCode
  | 0 => LaneCode.start
  | n + 1 =>
    match s.lineBlock q n with
    | some b => ((s.laneAfter q n).encode (bitsLsb (blockBytes b.1 b.2.1 b.2.2))).2
    | none => s.laneAfter q n

/-- The 264 levels on the lane in position n of a launcher's stream. -/
def Dev.lineLevels (s : Dev) (q : Sender) (n : Nat) : List Int :=
  match s.lineBlock q n with
  | some b => (((s.laneAfter q n).encode (bitsLsb (blockBytes b.1 b.2.1 b.2.2))).1).map level
  | none => []

/-! ### Transmit equalisation (R493) -/

/-- The weights of a transmitter in 1/100: pre-cursor, main, post-cursor; and its swing in millivolts. -/
structure TxShape where
  pre : Int
  main : Int
  post : Int
  swing : Nat
  deriving DecidableEq, Repr

def txShape (pre post swing : Nat) : TxShape :=
  { pre := -pre, main := 100 - (pre : Int) - 2 * post, post := -2 * (post : Int), swing := 400 + 100 * swing }

/-- The shape a port's settings give. -/
def Dev.portShape (s : Dev) : RxPort → TxShape
  | .pkg rd i => txShape (s.fget (RDn_RP_CFG_PRE rd.idx i)) (s.fget (RDn_RP_CFG_POST rd.idx i)) (s.fget (RDn_RP_CFG_SWING rd.idx i))
  | .cell p x =>
    let c := s.cell p
    txShape (c.fget (SRB_RP_CFG_PRE x.idx)) (c.fget (SRB_RP_CFG_POST x.idx)) (c.fget (SRB_RP_CFG_SWING x.idx))

/-- The transmitter's output at a symbol, in 1/300 of the swing: the taps over the levels before, at and after it. -/
def TxShape.out (x : TxShape) (before at_ after : Int) : Int := x.post * before + x.main * at_ + x.pre * after

end Sys2Proof.Machine
end

