-- ==== Sys2Proof/Tests/Slice0.lean ====
section
/-!
SUPPORT. Tests of the model on small states: ill-formed commands are refused by the well-formedness check, values the spec
works out or that follow from its formulas by hand, and for every statement with hypotheses a witness, a concrete state with
operands that meets them (one for each of its clauses).
-/
open Sys2Proof Sys2Proof.Machine

namespace Sys2Proof.Tests

set_option maxRecDepth 16000

/-! ### Small states -/

def st (d : Dev) : State := { dev := d, pending := [] }
def set (d : Dev) (l : List (Field × Nat)) : Dev := l.foldl (fun d e => d.fset e.1 e.2) d
def cset (c : Cell) (l : List (Field × Nat)) : Cell := l.foldl (fun c e => c.fset e.1 e.2) c

/-- Every die powered and running, time started. -/
def on : Dev :=
  (set Dev.reset ((List.range 8).flatMap (fun i => [(GLB_DIE_PWR i, 1), (GLB_DIE_STATE i, 3)]))).clk
    (fun x => { x with started := true })

/-- Globals g0-g3 given, the others zero. -/
def glb (a b c : W64) : List W64 := [0, a, b, c] ++ List.replicate 12 0
def task (part : Nat) : Task := { Task.empty with state := .running, part := part, base := 10, pc := 0x100, cycle := 5 }
/-- Core 0 (voted partition) or core 8 (another partition) of control die CD-A runs task 3 with the globals given. -/
def die (part : Nat) (g : List W64) : CtrlDie :=
  { CtrlDie.reset with
    cores := [(if part = 0 then 0 else 8, { Core.idle with task := some 3, g := g, wins := [{ owner := 3, depth := 0, regs := List.replicate 16 0 }] })]
    tasks := [(3, task part)] }
def cpu (part : Nat) (g : List W64) : State := st { on with cd0 := die part g }
/-- The same with a change of the die, of the task or of the block. -/
def cpuD (part : Nat) (g : List W64) (f : CtrlDie → CtrlDie) : State := st { on with cd0 := f (die part g) }
def cpuT (part : Nat) (g : List W64) (f : Task → Task) : State := cpuD part g (fun x => x.modTask 3 f)
/-- An open sequence that began at 0xFC. -/
def sq : Seq :=
  { start := 0xFC, lines := [], held := [], heldKeys := [], g := glb 1 2 3, w := List.replicate 16 0,
    broken := false, fails := 0 }
/-- An image that vectors causes 2, 3 and 7 to 0x4000. -/
def im : ImgInfo :=
  { slotB := false, vsig := 0, schk := 0, entryV := 0x100, entryN := 0x200, trapbase := 0x4000, trapen := 0x8C
    mirbase := 0x10001000 }
def vec (x : CtrlDie) : CtrlDie := { x with img := some im }
/-- Core 1 runs task 4, whose exclusive attempt holds the first lines of data SRAM and the last voted one. -/
def holds (x : CtrlDie) : CtrlDie :=
  (x.setCore 1 { Core.idle with task := some 4 }).setTask 4
    { task 0 with seq := some { sq with fails := 4, lines := [0x10000000 / 64, 0x117FFFF8 / 64] } }
/-- The trap window is current with w0 given. -/
def inTrap (w0 : W64) : State :=
  cpuD 0 (glb 0 0 0) (fun x => (x.modTask 3 (fun k => { k with trapUp := [0] })).modCore 0 (fun c => { c with
    trap := w0 :: List.replicate 15 0 }))
/-- A tally set of cycle 5. -/
def ts : TallySet :=
  { cycle := 5, t0 := 50000, period := 1000, apply := 540, stile := 380, map := [(0, 0)], cells := [(0, 7)], aq := [(3, 77)]
    idig := 0xABCD
    folds := List.replicate 12 0x80000000000003E8 }
/-- A service request of partition 0 or 1: its block at the start of the partition's data SRAM. -/
def svc (part : Nat) (f : CtrlDie → CtrlDie) (l : List Nat) : State :=
  let a := if part = 0 then 0x10000000 else 0x11800000
  cpuD part (glb (BitVec.ofNat 64 a) (BitVec.ofNat 64 (a + 4)) 0) (fun x => (f x).pokeBytes 0 a (l.map (BitVec.ofNat 8)))
/-- Task 4 of partition 1 is ready with the priority of task 3, and partition 1 may use core 8. -/
def rdy (s : State) : State :=
  st (Dev.fset { s.dev with cd0 := { s.dev.cd0.setTask 4 { task 1 with state := .ready } with ready := [4] } } (SCH_PART_CORES 0 1) 256)
/-- CD-A holds set 5, with a version-1 cell on ring 2, and its image changed by f. -/
def vote (g : List W64) (h : Dev → Dev) (f : Image → Image) : State :=
  st (h { on with cd0 := ({ die 0 g with tallies := [{ ts with map := [(128, 0x200)] }] } : CtrlDie).setImage (f { Image.fresh 5 0 0 with cycle := 5 }) })
/-- A powered cell at place p, its time valid, both ports LINKED with lock. -/
def pc (p : Nat) (l : List (Field × Nat)) : Cell :=
  cset { Cell.dflt p with powered := true, tm :=
      { CellTm.reset with time := 60000, everTime := true, k := 6, t0 := 60000, rxClk := 3 } }
    ([(SRB_CELL_ID, p), (SRB_RP_STAT_LOCK 0, 1), (SRB_RP_STAT_LOCK 1, 1), (SRB_RP_STAT_STATE 0, 5), (SRB_RP_STAT_STATE 1, 5),
      (SRB_TD_DLYA_D, 100), (SRB_TD_DLYB_D, 200)] ++ l)
def en (p : Nat) : Enum :=
  { serial := (Cell.dflt p).serial, rpv := 0x20, fb := false, cfgd := true, hopA := some p, hopB := some (1 - p), place := p }
/-- Such a cell at place 0, its fields as listed and changed by f. -/
def cel (l : List (Field × Nat)) (f : Cell → Cell) : State := st { on with cells := [(0, f (pc 0 l))] }
def prot (f : CellProt → CellProt) (c : Cell) : Cell := { c with prot := f c.prot }
def cycRec (k : Nat) : CycRec :=
  { cycle := k, t0 := BitVec.ofNat 64 (10000 * k), cfg := 0x006E021C017C03E8, mode := 3, rtc := 0, step := 0, dig := 0xABCD
    tok := 3, aq := [] }
/-- Ring 0 is UP with the cells at places 0 and 1; the cycle before the present one is the last voted. -/
def net : Dev :=
  let d := { on with cells := [(0, pc 0 [(SRB_CELL_CFG_CFGD, 1)]), (1, pc 1 [])], rings := [(0,
    { Ring.down with
      reports := [en 0, en 1], cells := [(0, en 0), (1, en 1)], whole := true, up := true
      distA := [(0, 100), (1, 200)], distB := [(0, 200), (1, 100)] })] }
  let d := d.clk (fun x => { x with raw := 65000, cyc := 6, t0 := 60000, t0raw := 60000, gridOn := true, recent := [cycRec 6, cycRec 5] })
  let d := d.tly (fun x => { x with closed := 6, delivered := 6, voted := 5, merged := [(0, 1 <<< 511), (1, 1 <<< 511)] })
  set d [(RDn_RP_CFG_EN 0 0, 1), (RDn_RP_CFG_EN 1 0, 1), (RDn_RP_STAT_STATE 0 0, 5), (RDn_RP_STAT_STATE 1 0, 5),
    (RDn_RP_STAT_LOCK 0 0, 1), (RDn_RP_STAT_LOCK 1 0, 1), (RDn_RING_STAT_STATE 0 0, 3), (RDn_RING_STAT_STATE 1 0, 3),
    (SH_MODE_CUR, 3), (TIM_STAT_STATE, 2)]
/-- Task 3 holds a request with tag 3, generation 2, its outcome there or not. -/
def tagged (v : Option W64) : State :=
  st { net with
    cd0 := (die 1 (glb 0x803 0 0x7FF)).modTask 3 (fun k => { k with txns := [{ tag := 3, gen := 2, done := v, waits := false }] })
    rd0 := { net.rd0 with tagGen := [(3, 2)] } }
/-- Its block changed by f, its fields as listed. -/
def netS (l : List (Field × Nat)) (f : Dev → Dev) : State := st (f (set net l))
/-- Place 0 holds a cell whose tally toward end B of cycle 6 is due. -/
def due (c : Cell) : Cell :=
  { c with tm := { c.tm with cyc := 0x21C03E8, slotB := 0x80000000 }, lnk := { c.lnk with tallies := [{ seq := 6, pl := Pl.mk [(2, 16, 6)], sent := 0 }] } }
/-- Two counting lanes on inputs 0 and 1, two spare dies. -/
def lanes : List (Field × Nat) :=
  [(SH_LANE_STAT_STATE 0, 4), (SH_LANE_STAT_STATE 1, 4), (SH_LANE_STAT_STATE 2, 2), (SH_LANE_STAT_STATE 3, 1),
    (SH_LANE_STAT_INPUT 0, 0), (SH_LANE_STAT_INPUT 1, 1), (SH_LANE_STAT_INPUT 2, 3), (SH_LANE_STAT_INPUT 3, 3)]
/-- In a twin pair. -/
def paired (role : Nat) : List (Field × Nat) :=
  [(SH_TWIN_STAT_ROLE, role), (SH_TWIN_STAT_REFOK, 1), (SH_TWIN_STAT_PREADY, 1), (SH_TWIN_STAT_LINKS, 3), (SH_TWIN_STAT_TWM, 20)]
/-- An interval of ledger 0 whose last cycle is 5 waits; postings are in below the cycle given; the stile agreed on an
    image of cycle 5. -/
def posted (n : Nat) : State :=
  let l := { net.sh.ldg.ledg0 with opened := true, closing := [(5, 1)], posted := n }
  let v := { net.sh.vote with agreedDrove := some (Image.fresh 5 0 0), agreedMirror := true }
  st { net with sh := { net.sh with ldg := { net.sh.ldg with ledg0 := l }, vote := v } }
/-- The mirror is agreed; RD-1 with power or not; what CD-C has of it. -/
def mirror (pwr : Nat) (l : Option (Nat × List Blk)) (d : Dev) : Dev :=
  let d := (d.fset (GLB_DIE_PWR 5) pwr).vote (fun v => { v with agreedMirror := true, agreedDrove := some (Image.fresh 5 0 0) })
  { d with cd2 := { d.cd2 with mirRx := l } }
def okBeat : Beat :=
  { seq := 6, duty := true, mode := 3, ready := true, run := 0, schk := 0, req := false, noAgree := false, single := false }
/-- CD-A with task 3, voted, ready in phase 1 of cycle 5, no core busy. -/
def phased (f : CtrlDie → CtrlDie) : State :=
  st { on with cd0 := f { CtrlDie.reset with tasks := [(3, { task 0 with state := .ready, phase := 1 })] } }
def heldOf (q : Nat) : Held := { pl := Pl.mk [(0, 8, 0x12), (2, 16, q)], late := false, done := false }
/-- Port 0 of RD-0, enabled, and port U of the cell at place 0, both in a state of R505. -/
def port (n : Nat) : State :=
  netS [(RDn_RP_STAT_STATE 0 0, n)] (fun d => d.modCell 0 (fun c => c.fset (SRB_RP_STAT_STATE 0) n))
/-- Ring 0 in a state of R504, its contents changed by f. -/
def ringS (n : Nat) (l : List (Field × Nat)) (f : Ring → Ring) : State :=
  netS ([(RDn_RING_STAT_STATE 0 0, n), (RDn_RING_STAT_STATE 1 0, n)] ++ l) (fun d => d.setRing 0 (f (d.ring 0)))
/-- Tag 3 of RD-0 is in use, its request retried n times. -/
def held (n : Nat) : State :=
  netS [] (fun d => d.modRd 0 (fun x => { x with tagGen := [(3, 2)], tags :=
    [(3, { gen := 2, owner := .slot 1, req := 0, ring := 0, pos := 0, toB := false, retries := n, sentAt := 0, lastAt := 0 })] }))
/-- A RAW stream request of an input of cell 0 on ring r, or a query. -/
def hubReq (id en : Nat) (d : Nat) : W64 :=
  let x := set Dev.reset [(RDn_HUB_REQ_EN 0, en), (RDn_HUB_REQ_ID 0, id), (RDn_HUB_REQ_MODE 0, 1), (RDn_HUB_REQ_D 0, d)]
  x.rget (RDn_HUB_REQ 0) ||| 0x8000000000000000
/-- Both ring dies hold the token of the cycle voted last; FIFOs 0 and 63 hold two words, one of them visible. -/
def token (l : List Nat) (steps : List Step) : State :=
  let f := fun (k : Nat) (x : RingDie) => x.setFifo k { words := [7, 8], visible := 1, ptrBad := false }
  st (((((net.modRd 0 (fun x => f 0 { x with tok := some 4 })).modRd 1 (fun x => f 31 { x with tok := some 4 })).vote
    (fun v => { v with launched := l })).clk (fun x => { x with steps := steps, recent := [cycRec 5, cycRec 4] })).tly
      (fun x => { x with voted := 5 }))
/-- The record sequence in a state of R560, what it knows changed by f. -/
def recS (n : Nat) (f : ShRec → ShRec) : State :=
  netS [(SH_REC_STAT_STATE, n)] (fun d => (d.rcd f).clk (fun x => { x with raw := 2000000000, ofs := 0 }))
/-- Place 0's recorder armed, changed by f. -/
def recC (n : Nat) (f : RecSt → RecSt) : State :=
  netS [(SH_REC_STAT_STATE, n)] (fun d => d.modCell 0 (fun c => cset { c with
    tm := { c.tm with time := 20000000 }, hub := { c.hub with rcd := f c.hub.rcd } } [(SRB_REC_CTL_ARM, 1), (SRB_REC_STAT_STATE, 2)]))
/-- The tag is a task's that waits for it or not; it was sent n nanoseconds ago. -/
def heldTask (waits : Bool) (n : Nat) : State :=
  let s := tagged none
  let g : Tag := { gen := 2, owner := .task .a 3, req := 0, ring := 0, pos := 0, toB := false, retries := 2, sentAt := 0, lastAt := 0 }
  st { s.dev with
    cd0 := s.dev.cd0.modTask 3 (fun k => { k with txns := k.txns.map (fun q => { q with waits := waits }) })
    rd0 := { s.dev.rd0 with raw := BitVec.ofNat 64 n, tags := [(3, g)] } }
/-- Control die CD-A changed by f. -/
def cdA (s : State) (f : CtrlDie → CtrlDie) : State := st { s.dev with cd0 := f s.dev.cd0 }
/-- n counting lanes sent the same image for cycle 6, which has the mode given. -/
def voting (n mode : Nat) : State :=
  let i := List.range n
  netS (i.map (fun d => (SH_LANE_STAT_STATE d, 4))) (fun d =>
    (d.vote (fun v => { v with
      gateOf := i.map (fun d => (d, d + 1)), arrive := i.map (fun d => (d, 1)), voteImg := i.map (fun d => (d, Image.fresh 6 0xABCD 0)) })).clk
      (fun x => { x with recent := [{ cycRec 6 with mode := mode }] }))
/-- The legacy queue with words in it and bytes of a packet gathered. -/
def legacy (n : Nat) : State :=
  let l : ShLeg := { legCur := [1, 2], legQ := List.replicate n 0, legVis := n }
  st { net with cd0 := die 1 (glb 0 0 0), sh := { net.sh with leg := l } }
def tune : Autotune :=
  { slot := 10, u0 := 0, high := true, eprev := 0, started := false, since := 0, evals := 0, emin := 0, emax := 0, periods := [] }
/-- Memory with n-byte values at addresses. -/
def wr (l : List (Nat × Nat × Nat)) : Mem := l.foldl (fun m e => Mem.writeLE m e.1 e.2.1 e.2.2) []
/-- A safety parameter store that R629 accepts, with a byte more. -/
def store (a b : Nat) : Mem :=
  wr [(0, 4, 0x45464153), (4, 1, 1), (315, 1, 1), (331, 1, 1), (347, 1, 64), (363, 1, 64), (376, 1, 1), (384, 1, 64), (395, 1, 1),
    (411, 1, 64), (a, 1, b)]
/-- It lies in the staging registers. -/
def staged (m : Mem) (d : Dev) : Dev :=
  (List.range 64).foldl (fun d k => d.rset (SH_SAFE_DATA k) (BitVec.ofNat 64 (m.readLE (8 * k) 8))) d
/-- The safety channel as f leaves it. -/
def safe (l : List (Field × Nat)) (f : ShSafe → ShSafe) : State :=
  netS l (fun d => { d with sh := { d.sh with safe := f d.sh.safe } })
/-- An image of 768 bytes of instructions, its header as R403 wants it. -/
def image : Mem :=
  let m := wr [(0, 4, 0x444E524B), (4, 1, 1), (5, 1, 2), (20, 1, 1), (88, 4, 0x300), (96, 4, 0x10000000)]
  (m.writeLE 252 4 (crc32c (m.bytes 0 252)).toNat).writeLE 1024 4 (crc32c (List.replicate 768 0)).toNat
/-- Slot A holds the image; the write that is open; fields as listed. -/
def img (l : List (Field × Nat)) (len : Nat) (w : Option Bool) (op : Nat) : Dev :=
  { set on l with
    nv := { on.nv with img := [(0, image)], imgLen := if len = 0 then [] else [(0, len)] }
    sh := { on.sh with img := { on.sh.img with imgWrite := w, imgOp := op } } }
def ptp (domain : Byte) (k : PtpKind) : PtpMsg :=
  { kind := k, domain := domain, port := 0, dataset := 0, gmId := 1, utcOfs := 37, meanPathDelay := 100 }
/-- Debug access is open for core 8 and core 0 of CD-A, core 8 halted; the lane's state and that of task 3, whose data the
    selection points at. -/
def dbg (part lane : Nat) (k : TState) (l : List (Field × Nat)) : State :=
  let x := (die part (glb 1 2 3)).modTask 3 (fun x => { x with state := k, hstate := .waitMbox })
  netS ([(GLB_DBG_OPEN, 1), (GLB_DBG_CORES_EN, 0xFFFFFFFFFFFFFFFF), (SH_LANE_STAT_STATE 0, lane), (CDx_DBG_SEL_CORE 0, 8)] ++ l)
    (fun d => { d with cd0 := x.modCore 8 (fun c => { c with task := some 3, halted := true }) })
/-- Die d (8: none) is without power and down; fields as listed; in reset or not. -/
def down (d : Nat) (l : List (Field × Nat)) (r : Bool) : State :=
  st ((set on ((if d < 8 then [(GLB_DIE_PWR d, 0), (GLB_DIE_STATE d, 5)] else []) ++ l)).clk (fun x => { x with inReset := r }))
/-- What start-up finds: all good, but for REFCLK and the self-test as given. -/
def env (ref selfTest : Bool) : StartEnv :=
  { refclkOk := ref, pgOk := 255, idOk := 255, trimOk := 255, selfTestOk := selfTest, rdOk := 0x30, ringFail := [], wiring := 0
    hurdleStrap := false, refLines := 0, debugEn := false, theta := none, loadOk := 255, retired := 0
    partner := none, safePins := 0 }
/-- Lock l enabled for partition 0 or 1 with ceiling 20, held or free. -/
def lk (l : Nat) (h : Option Nat) (x : CtrlDie) : CtrlDie :=
  x.setLock l { HwLock.off with en := true, part := if l < 32 then 0 else 1, ceil := 20, holder := h }
def A0 : CoreRef := ⟨.a, 0⟩
def A8 : CoreRef := ⟨.a, 8⟩
/-- What one command leaves; the state itself where it stops. -/
def run (c : Instr) (s : State) : State :=
  match exec c s with
  | .next u => u
  | _ => s
def isNext (o : Out) : Bool :=
  match o with
  | .next _ => true
  | _ => false
def g (i : Fin 16) : Reg := .g i
/-- Global 1 of core 0 of CD-A after a command. -/
def g1 (c : Instr) (s : State) : W64 := (run c s).reg A0 3 (.g 1)
/-- The task's PC after a command. -/
def pcOf (s : State) : W64 := (s.task A0 3).pc

/-- The condition of `LaneResults` on a received mirror, as a computation: its first block counts the rest. -/
def wholeMirror : List Blk → Bool
  | [] => false
  | hd :: rest => Blk.get hd 2 16 == rest.length

/-- A tag that nobody waits for any more. -/
def lateTag : Tag :=
  { gen := 0, owner := .gone, req := 0, ring := 0, pos := 0, toB := false, retries := 0, sentAt := 0, lastAt := 0 }

end Sys2Proof.Tests
namespace Sys2Proof.Tests

set_option Elab.async false
set_option linter.unusedVariables false

/-! ### Well-formedness: an ill-formed term for each check (R3, R20, R38, R497, R567, R636, R654) -/

def rx : Rx := { crcOk := true, bseq := 0, follows := true }

theorem test_wf_refuses_places :
    ([.cellSampleInstant 8448 ⟨0, .none⟩ false, .converterBSlot 8448 true ⟨0, .none⟩ false, .referenceStale (.cell 8448) 0,
      .diagnosticRound (.cell 8448), .filteredResult (.cell 8448), .tallyInsert 8448 .a ⟨.good, rx⟩, .droveReceive 8448 .u 0 rx,
      .explicitReceive 8448 .u 0 rx, .reloadInstant 8448, .forwardedClockFailure 8448 .u, .capsAssign 8448 ⟨0, rx⟩,
      .timeLaunch 8448 .u ⟨0, rx⟩, .timeLoop 8448 .u ⟨0, rx⟩ 0, .timeStep 8448 ⟨0, rx⟩, .timeSleep 8448 .u ⟨0, rx⟩, .timeWake 8448 .u ⟨0, rx⟩,
      .idleReceive 8448 .u ⟨0, rx⟩, .txnReq 8448 .u 0 rx, .blockAct 8448 .u 0 rx, .recordNotice (.cell 8448),
      .recordFreeze (.cell 8448), .ownFreeze 8448, .recordFetch (.cell 8448), .timeLatchRead 8448, .cfgd 8448 false,
      .slcvConfigurationWrite 8448 0, .shadowWrite 8448 false 0 true, .semi 8448, .semiRel 8448, .bypassFire 8448 0,
      .latchClear 8448 0 0, .slcvClear 8448 0, .vinRise 8448, .vinLow 8448, .vinRecovery 8448, .dsatTrip 8448 ⟨false, true, 0⟩,
      .gdfltTrip 8448, .outputShort 8448 ⟨none, true⟩, .slcvTrip ⟨8448, 0, 0⟩, .slcvFiring ⟨8448, 0, 0⟩, .bypassConfirmTimeout 8448,
      .bypassSense 8448 false, .slcvBranchTest 8448 true, .forwardedClockReturn 8448 .u, .vinCollapse 8448,
      .gateOutputEdge 8448, .firingPulseEnd 8448] : List Instr).all (fun c => !c.wf) = true := by decide

theorem test_wf_refuses_rings_and_ports :
    ([.droveLaunch 132 .a, .relayedDrove 0 132 0 true, .enumerationStart 132, .capsReport 132 .a ⟨0, rx⟩, .capsNotice 132 .a ⟨0, rx⟩,
      .ringUp 132, .ringRepair 132 0, .ringRepair 0 65, .timeEcho 132 .a ⟨0, rx⟩ 0, .txnRsp 132 .a ⟨0, rx⟩, .hubBlock 132 .a 0 rx,
      .recordBlock 132 .a 0 rx, .blockTest 132 .a true, .sleepRequest 132 .a, .wakeRequest 132 .a,
      .receiverDetect (.pkg .rd0 66) false false, .clockLock (.pkg .rd0 66), .blockLock (.cell 8448 .u), .lockLoss (.pkg .rd1 66),
      .train (.cell 8448 .d) 0 rx, .capsQuery (.pkg .rd0 66) ⟨0, rx⟩, .timeBlockSend (.ringEnd 132 .a) 1 0,
      .timeBlockSend (.cell 8448 .u) 1 0, .reservedBlock .rd0 66 ⟨12, rx⟩, .reservedBlock .rd0 0 ⟨11, rx⟩] : List Instr).all
        (fun c => !c.wf) = true := by decide

theorem test_wf_refuses_ranges :
    ([.aqConversionSlot 0 100 ⟨0, .none⟩, .twinMirrorBlock 0 800 ⟨0, 0⟩, .legacyAppend 0x8000 0 2, .legacyEnd 0x7FFF 0 2,
      .legacyEnd 0x10000 0 2, .stationFrameReceive 0 (List.replicate 59 0) true, .peekRead ⟨0x7FFFFF8, 8⟩, .peekRead ⟨0xB000000, 8⟩, .peekRead ⟨0x8000000, 0⟩, .peekRead ⟨0x8000000, 65⟩,
      .forwardedConfigurationWrite 4 ⟨0, 0⟩, .forwardedConfigurationWrite 0x10000000 ⟨0, 0⟩, .rcRead (.bar0 0 0),
      .rcRead (.bar0 0x10000000 8), .rcRead (.bar2 0x10000 8), .rcRead (.bar2 0 65), .rcRead (.cell 0 0x10000), .rcRead (.cell 0 2), .rcRead (.cell 8448 0), .rcRead (.config 0x1000),
      .registerWrite (.config 2) 0, .registerWrite (.bar0 0 65) 0] : List Instr).all (fun c => !c.wf) = true := by decide

theorem test_wf_accepts_bounds :
    ([.semi 8447, .ringRepair 131 64, .clockLock (.pkg .rd0 65), .reservedBlock .rd0 65 ⟨12, rx⟩, .legacyAppend 0x7FFF 0 2,
      .peekRead ⟨0xAFFFFFF, 64⟩, .rcRead (.bar2 0xFFFF 1), .rcRead (.cell 8447 0xFFFC), .aqConversionSlot 0 99 ⟨0, .none⟩] : List Instr).all Instr.wf = true := by
  decide

theorem test_wf_refuses_long_frame : (Instr.stationFrameReceive 0 (List.replicate 1519 0) true).wf = false := by decide +kernel

end Sys2Proof.Tests
namespace Sys2Proof.Tests

set_option Elab.async false

/-! ### Words, written out from the table of 08_kraind_instruction_set.md's worked routine -/

theorem test_words_of_the_drove_routine :
    [encR 0x22 (.w 0) noReg noReg 5 1, encR 0x22 (.w 1) (.g 9) noReg 6 1, encR 0 (.w 2) (.w 1) (.g 10) 0x0B 0,
      encR 0 (.w 2) (.w 2) noReg 0x0A 12, encI 0x13 (.w 2) (.g 11) 0, encR 0x22 (.g 12) (.g 1) (.g 11) 4 0,
      encR 0x22 (.w 3) (.g 13) (.g 12) 1 0, encR 0x22 (.w 4) noReg noReg 3 0]
      = [0x8A000141, 0x8A290181, 0x025152C0, 0x0252028C, 0x4E4B0000, 0x89815900, 0x8A6D6040, 0x8A8000C0] := by decide +kernel

/-! ### Kraind arithmetic (R365-R367, R375) -/

/-- 128,580,583 × 600, and SRAI by 12 of the product, from the worked routine. -/
theorem test_mul_routine : g1 (.mul A0 (g 1) (g 1) (g 2)) (cpu 0 (glb 128580583 600 0)) = 77148349800 := by decide +kernel
theorem test_srai_routine : g1 (.srai A0 (g 1) (g 1) 12) (cpu 0 (glb 77148349800 0 0)) = 0x011F6666 := by decide +kernel
theorem test_div_truncates : g1 (.div A0 (g 1) (g 1) (g 2)) (cpu 0 (glb (-7) 2 0)) = -3 := by decide +kernel
theorem test_div_corners : g1 (.div A0 (g 1) (g 1) (g 2)) (cpu 0 (glb 0x8000000000000000 (-1) 0)) = 0x8000000000000000 ∧
    g1 (.div A0 (g 1) (g 1) (g 2)) (cpu 0 (glb 7 0 0)) = 0 := by decide +kernel
theorem test_rem_sign : g1 (.rem A0 (g 1) (g 1) (g 2)) (cpu 0 (glb (-7) 2 0)) = -1 := by decide +kernel
theorem test_rem_corners : g1 (.rem A0 (g 1) (g 1) (g 2)) (cpu 0 (glb 0x8000000000000000 (-1) 0)) = 0 ∧
    g1 (.rem A0 (g 1) (g 1) (g 2)) (cpu 0 (glb 7 0 0)) = 7 := by decide +kernel
theorem test_divu_remu : g1 (.divu A0 (g 1) (g 1) (g 2)) (cpu 0 (glb (-1) 16 0)) = 0x0FFFFFFFFFFFFFFF ∧
    g1 (.remu A0 (g 1) (g 1) (g 2)) (cpu 0 (glb 7 0 0)) = 7 := by decide +kernel
theorem test_mulh : g1 (.mulh A0 (g 1) (g 1) (g 2)) (cpu 0 (glb (-1) (-1) 0)) = 0 ∧
    g1 (.mulhu A0 (g 1) (g 1) (g 2)) (cpu 0 (glb (-1) (-1) 0)) = 0xFFFFFFFFFFFFFFFE := by decide +kernel
theorem test_add_wraps : g1 (.add A0 (g 1) (g 1) (g 2)) (cpu 0 (glb (-1) 2 0)) = 1 := by decide +kernel
theorem test_g0_discards : (run (.add A0 (g 0) (g 1) (g 2)) (cpu 0 (glb 5 2 0))).reg A0 3 (.g 0) = 0 ∧
    pcOf (run (.add A0 (g 0) (g 1) (g 2)) (cpu 0 (glb 5 2 0))) = 0x104 := by decide +kernel
theorem test_sub_dest_is_source : g1 (.sub A0 (g 1) (g 2) (g 1)) (cpu 0 (glb 5 2 0)) = -3 := by decide +kernel
theorem test_shift_by_64_is_by_0 : g1 (.shl A0 (g 1) (g 1) (g 2)) (cpu 0 (glb 5 64 0)) = 5 ∧
    g1 (.sra A0 (g 1) (g 1) (g 2)) (cpu 0 (glb (-8) 2 0)) = -2 := by decide +kernel
theorem test_sext_zext : g1 (.sext A0 (g 1) (g 1) 7) (cpu 0 (glb 0x180 0 0)) = -128 ∧
    g1 (.zext A0 (g 1) (g 1) 7) (cpu 0 (glb 0x180 0 0)) = 0x80 := by decide +kernel
theorem test_immediates : g1 (.addi A0 (g 1) (g 1) 0xFFFF) (cpu 0 (glb 5 0 0)) = 4 ∧
    g1 (.ori A0 (g 1) (g 1) 0x8000) (cpu 0 (glb 1 0 0)) = 0x8001 ∧
    g1 (.lui A0 (g 1) 0x8000) (cpu 0 (glb 0 0 0)) = 0xFFFFFFFF80000000 ∧
    g1 (.sltiu A0 (g 1) (g 1) 0xFFFF) (cpu 0 (glb 5 0 0)) = 1 ∧ g1 (.slti A0 (g 1) (g 1) 0xFFFF) (cpu 0 (glb 5 0 0)) = 0 := by
  decide +kernel
theorem test_q_saturates : g1 (.qadd A0 (g 1) (g 1) (g 2)) (cpu 0 (glb 0x7FFFFFFF 1 0)) = 0x7FFFFFFF ∧
    g1 (.qsub A0 (g 1) (g 1) (g 2)) (cpu 0 (glb 0x80000000 1 0)) = 0xFFFFFFFF80000000 := by decide +kernel
/-- A half rounds up: 2^-28 × 0.5 is 2^-28, and -2^-28 × 0.5 is 0. -/
theorem test_qmul_rounds : g1 (.qmul A0 (g 1) (g 1) (g 2)) (cpu 0 (glb 1 0x8000000 0)) = 1 ∧
    g1 (.qmul A0 (g 1) (g 1) (g 2)) (cpu 0 (glb (-1) 0x8000000 0)) = 0 := by decide +kernel
theorem test_qshri_rounds : g1 (.qshri A0 (g 1) (g 1) 1) (cpu 0 (glb 3 0 0)) = 2 := by decide +kernel
theorem test_qclamp : g1 (.qclamp A0 (g 1) (g 2) (g 3)) (cpu 0 (glb 9 1 5)) = 5 := by decide +kernel
theorem test_fadd : g1 (.fadd A0 (g 1) (g 1) (g 2)) (cpu 0 (glb 0x3F800000 0x40000000 0)) = 0x40400000 := by decide +kernel
theorem test_fdiv_by_zero : g1 (.fdiv A0 (g 1) (g 1) (g 2)) (cpu 0 (glb 0xBF800000 0 0)) = 0xFF800000 ∧
    g1 (.fdiv A0 (g 1) (g 1) (g 2)) (cpu 0 (glb 0 0 0)) = 0x7FC00000 := by decide +kernel
theorem test_fsqrt : g1 (.fsqrt A0 (g 1) (g 1)) (cpu 0 (glb 0x40800000 0 0)) = 0x40000000 := by decide +kernel
theorem test_fcvt : g1 (.fcvtqf A0 (g 1) (g 1)) (cpu 0 (glb 0x10000000 0 0)) = 0x3F800000 ∧
    g1 (.fcvtfi A0 (g 1) (g 1)) (cpu 0 (glb 0xC0200000 0 0)) = -2 := by decide +kernel

/-! ### Memory and control (R364, R368, R374) -/

theorem test_store_little_endian :
    (run (.stw A0 (g 2) (g 1) 4) (cpu 0 (glb 0x10000000 0x11223344 0))).dev.byte 0 0x10000004 = 0x44 ∧
    (run (.stw A0 (g 2) (g 1) 4) (cpu 0 (glb 0x10000000 0x11223344 0))).dev.byte 0 0x10000007 = 0x11 := by decide +kernel
theorem test_ldb_sign : g1 (.ldb A0 (g 1) (g 1) 1) (run (.sth A0 (g 2) (g 1) 0) (cpu 0 (glb 0x10000000 0x80FF 0)))
    = 0xFFFFFFFFFFFFFF80 := by decide +kernel
theorem test_misaligned_stops_unvectored : ((run (.ldw A0 (g 1) (g 1) 2) (cpu 0 (glb 0x10000000 0 0))).task A0 3).state = .free := by
  decide +kernel
theorem test_branch_back : pcOf (run (.beq A0 (g 1) (g 2) 0xFFFE) (cpu 0 (glb 5 5 0))) = 0xFC := by decide +kernel
theorem test_branch_not_taken : pcOf (run (.blt A0 (g 1) (g 2) 0xFFFE) (cpu 0 (glb 5 5 0))) = 0x104 := by decide +kernel
theorem test_j : pcOf (run (.j A0 3) (cpu 0 (glb 0 0 0))) = 0x110 := by decide +kernel
theorem test_call_then_ret : pcOf (run (.ret A0) (run (.call A0 3) (cpu 0 (glb 0 0 0)))) = 0x104 := by decide +kernel

/-! ### The worked figures of the cycle, the cell and the engines -/

/-- The monopole's ring of 60 cells (02_station_cycle.md): delays in units of 10 ps, one fold, STILE 3.80 µs, EMIT 1.10 µs,
    PERIOD 2.00 µs. -/
def monoRing : Ring :=
  let hop := fun (p : Nat) => 14700 + 1550 * p
  { Ring.down with
    cells := (List.range 60).map (fun p => (p,
      { serial := BitVec.ofNat 48 (p + 1), rpv := 0x20, fb := false, cfgd := true, hopA := some p, hopB := some (59 - p)
        place := p }))
    up := true
    distA := (List.range 60).map (fun p => (p, hop p)), distB := (List.range 60).map (fun p => (p, hop (59 - p))) }
def mono : Dev := Dev.fset { on with rings := [(0, monoRing)] } (SH_FOLD_MAP_FOLD 0) 1
def monoCfg : W64 := BitVec.ofNat 64 (110 * 2 ^ 48 + 540 * 2 ^ 32 + 380 * 2 ^ 16 + 200)
/-- TCLOSE 2.54 µs, STILE_MIN 3.44, APPLY_MIN 4.94, PERIOD_MIN 1.54. -/
theorem test_monopole_minimums : let m := mono.minsOf [0] monoCfg
    (m.tclose, m.stileMin, m.applyMin, m.periodMin) = (254, 344, 494, 154) := by decide +kernel
/-- Edge placement for cell 3:17 over three periods (03_arm_synthesis.md). -/
theorem test_modulated_edges : modPeriod 5000 0 12500 3750 true = (4375, 8750, 625) ∧
    modPeriod 5000 625 12500 3750 true = (3125, 9062, -312) ∧ modPeriod 5000 (-312) 12500 3750 true = (4375, 8594, 469) := by
  decide +kernel
/-- A cell at 1.03 pu, inserted, in discharge and in charge order. -/
theorem test_insertion_keys : insKey 24720000 24000000 0x00147AE1 1 false = 0x108F5C28 ∧
    ux 32 (insKey 24720000 24000000 (-0x00147AE1) 1 false) = 0xEF99999A := by decide +kernel
/-- 287.4 cells and -7.25 cells: MOD_CMP of 03_arm_synthesis.md. -/
theorem test_mod_cmp : (26214 * p160 200 + 2 ^ 15) / 2 ^ 16 = 5000 ∧ (16384 * p160 1000 + 2 ^ 15) / 2 ^ 16 = 15625 := by decide +kernel
/-- A RAW stream at D = 1 in a 2 µs cycle beside three FILT streams: no PIGGY, and g16 = 1 as GRANT (12_sensor_hub.md). -/
def rawStream (grant : Bool) : List (Nat × Stream) :=
  [0, 1, 2, 3].map (fun i => (cellStreamIx 0x45E i, if i = 3 then
    { mode := 1, d := 1, co := false, grant := grant, fifo := 1, susp := false } else
    { mode := 3, d := 1, co := false, grant := false, fifo := 1, susp := false }))
theorem test_stream_admission : piggyOk 200 (rawStream false) 0x45E = false ∧ piggyOk 200 (rawStream true) 0x45E = true ∧
    leastG16 200 (rawStream true) 0x45E = some 1 := by decide +kernel

end Sys2Proof.Tests
namespace Sys2Proof.Tests

/-! ### Witnesses: concrete states and operands that meet the hypotheses of each statement, clause by clause (`witness_<Name>`;
    one conjunct per state where clauses exclude one another) -/

set_option Elab.async false
set_option linter.unusedVariables false
set_option maxRecDepth 16000
set_option synthInstance.maxSize 1024

theorem witness_EveryCommandCompletes :
    (st net).dev.names (.semi 0) = true ∧ (st net).dev.names (.semi 8448) = false ∧ (st net).dev.names (.sampleInstant) = true
      := by decide +kernel

theorem witness_EmptyQueueIsOneNanosecond : (st net).pending = [] := by decide +kernel

theorem witness_StepKeepsQueueWellFormed :
    let s : State := { st net with pending := [.semi 0, .sampleInstant] };
    s.queueWf = true ∧ isNext (step s) = true := by decide +kernel

theorem witness_StepKeepsCanonicalStores :
    let s : State := { st net with pending := [.semi 0, .sampleInstant] };
    s.dev.canonical = true ∧ isNext (step s) = true := by decide +kernel

theorem witness_ResetRegisterValues :
      let a2 : Nat := 256;
      pkgRowAt a2 = none := by decide +kernel

theorem witness_IntegerResults :
      let s : State := cpu 0 (glb 5 7 0);
      let r : CoreRef := A0;
      let t : Nat := 3;
      let rd : Reg := g 2;
      let ra : Reg := g 3;
      let rb : Reg := g 3;
      let k : BitVec 6 := 63;
      let imm : W16 := 0;
      s.executes r t (encR 0 rd ra rb 0 0) Perm.both = true ∧ s.executes r t (encR 0 rd ra rb 1 0) Perm.both = true ∧
        s.executes r t (encR 0 rd ra rb 2 0) Perm.both = true ∧ s.executes r t (encR 0 rd ra rb 3 0) Perm.both = true ∧
        s.executes r t (encR 0 rd ra rb 4 0) Perm.both = true ∧ s.executes r t (encR 0 rd ra rb 5 0) Perm.both = true ∧
        s.executes r t (encR 0 rd ra rb 6 0) Perm.both = true ∧ s.executes r t (encR 0 rd ra rb 7 0) Perm.both = true ∧
        s.executes r t (encR 0 rd ra noReg 8 k.toNat) Perm.both = true ∧ s.executes r t (encR 0 rd ra noReg 9 k.toNat)
        Perm.both = true ∧ s.executes r t (encR 0 rd ra noReg 10 k.toNat) Perm.both = true ∧ s.executes r t (encR 0 rd
        ra noReg 20 k.toNat) Perm.both = true ∧ s.executes r t (encR 0 rd ra noReg 21 k.toNat) Perm.both = true ∧
        s.executes r t (encR 0 rd ra rb 18 0) Perm.both = true ∧ s.executes r t (encR 0 rd ra rb 19 0) Perm.both = true
        ∧ s.executes r t (encI 1 rd ra imm) Perm.both = true ∧ s.executes r t (encI 2 rd ra imm) Perm.both = true ∧
        s.executes r t (encI 3 rd ra imm) Perm.both = true ∧ s.executes r t (encI 4 rd ra imm) Perm.both = true ∧
        s.executes r t (encI 5 rd noReg imm) Perm.both = true ∧ s.executes r t (encI 6 rd ra imm) Perm.both = true ∧
        s.executes r t (encI 7 rd ra imm) Perm.both = true := by decide +kernel

theorem witness_MultiplyAndDivideResults :
      let s : State := cpu 0 (glb 5 7 0);
      let r : CoreRef := A0;
      let t : Nat := 3;
      let rd : Reg := g 3;
      let ra : Reg := g 2;
      let rb : Reg := g 3;
      let imm : W16 := 1;
      s.executes r t (encR 0 rd ra rb 0 0) Perm.both = true ∧ s.executes r t (encR 0 rd ra rb 1 0) Perm.both = true ∧
        s.executes r t (encI 1 rd ra imm) Perm.both = true ∧ s.executes r t (encR 0 rd ra rb 11 0) Perm.both = true ∧
        s.executes r t (encR 0 rd ra rb 12 0) Perm.both = true ∧ s.executes r t (encR 0 rd ra rb 13 0) Perm.both = true
        ∧ s.executes r t (encR 0 rd ra rb 14 0) Perm.both = true ∧ s.executes r t (encR 0 rd ra rb 15 0) Perm.both =
        true ∧ s.executes r t (encR 0 rd ra rb 16 0) Perm.both = true ∧ s.executes r t (encR 0 rd ra rb 17 0) Perm.both
        = true := by decide +kernel

theorem witness_QClassResults :
      let s : State := cpu 0 (glb 5 7 0);
      let r : CoreRef := A0;
      let t : Nat := 3;
      let rd : Reg := g 3;
      let ra : Reg := g 2;
      let rb : Reg := g 3;
      let k : BitVec 6 := 31;
      s.executes r t (encR 8 rd ra rb 0 0) Perm.both = true ∧ s.executes r t (encR 8 rd ra rb 1 0) Perm.both = true ∧
        s.executes r t (encR 8 rd ra rb 2 0) Perm.both = true ∧ s.executes r t (encR 8 rd ra rb 3 0) Perm.both = true ∧
        k.toNat < 32 ∧ s.executes r t (encR 8 rd ra noReg 4 k.toNat) Perm.both = true ∧ 0 < k.toNat ∧ k.toNat < 32 ∧
        s.executes r t (encR 8 rd ra noReg 5 k.toNat) Perm.both = true ∧ s.executes r t (encR 8 rd ra rb 6 0) Perm.both
        = true := by decide +kernel

theorem witness_FClassResults :
      let s : State := cpu 0 (glb 5 7 0);
      let r : CoreRef := A0;
      let t : Nat := 3;
      let rd : Reg := g 2;
      let ra : Reg := g 1;
      let rb : Reg := g 3;
      s.executes r t (encR 9 rd ra rb 0 0) Perm.both = true ∧ s.executes r t (encR 9 rd ra rb 1 0) Perm.both = true ∧
        s.executes r t (encR 9 rd ra rb 2 0) Perm.both = true ∧ s.executes r t (encR 9 rd ra rb 3 0) Perm.both = true ∧
        s.executes r t (encR 9 rd ra noReg 4 0) Perm.both = true ∧ s.executes r t (encR 9 rd ra rb 5 0) Perm.both = true
        ∧ s.executes r t (encR 9 rd ra rb 6 0) Perm.both = true ∧ s.executes r t (encR 9 rd ra rb 7 0) Perm.both = true
        ∧ s.executes r t (encR 9 rd ra rb 8 0) Perm.both = true ∧ s.executes r t (encR 9 rd ra noReg 9 0) Perm.both =
        true ∧ s.executes r t (encR 9 rd ra noReg 10 0) Perm.both = true ∧ s.executes r t (encR 9 rd ra noReg 11 0)
        Perm.both = true ∧ s.executes r t (encR 9 rd ra noReg 12 0) Perm.both = true := by decide +kernel

theorem witness_FloatingPointRules :
    (let a : Nat := 0xFFFFFFFF;
      let b : Nat := 0x3F800000;
      let y : Nat := 0x7FC00000;
      a < 2 ^ 32 ∧ b < 2 ^ 32 ∧ y ∈ [f32.sqrt a, f32.add a b, f32.sub a b, f32.mul a b, f32.div a b] ∧ ((fun x => decide
        (x / 2 ^ 23 % 256 = 255) && decide (x % 2 ^ 23 ≠ 0)) y = true) ∧ (2 ^ 31 ≤ a ∧ (fun x => decide (x / 2 ^ 23 %
        256 = 0) && decide (x % 2 ^ 23 ≠ 0)) a = false ∧ a ≠ 2 ^ 31) ∧ ((fun x => decide (x / 2 ^ 23 % 256 = 255) &&
        decide (x % 2 ^ 23 ≠ 0)) a = true ∨ (fun x => decide (x / 2 ^ 23 % 256 = 255) && decide (x % 2 ^ 23 ≠ 0)) b =
        true) ∧ ((fun x => decide (x / 2 ^ 23 % 256 = 255) && decide (x % 2 ^ 23 ≠ 0)) a = true ∧ (fun x => decide (x /
        2 ^ 23 % 256 = 255) && decide (x % 2 ^ 23 ≠ 0)) b = false ∧ (fun x => decide (x / 2 ^ 23 % 256 = 0) && decide (x
        % 2 ^ 23 ≠ 0)) b = false)) ∧
    (let a : Nat := 1;
      let b : Nat := 0x7FC00000;
      a < 2 ^ 32 ∧ b < 2 ^ 32 ∧ ((fun x => decide (x / 2 ^ 23 % 256 = 0) && decide (x % 2 ^ 23 ≠ 0)) a = true)) ∧
    (let a : Nat := 0xFFFFFFFF;
      let b : Nat := 0x7FC00000;
      a < 2 ^ 32 ∧ b < 2 ^ 32 ∧ ((fun x => decide (x / 2 ^ 23 % 256 = 255) && decide (x % 2 ^ 23 ≠ 0)) a = true ∧ (fun x
        => decide (x / 2 ^ 23 % 256 = 255) && decide (x % 2 ^ 23 ≠ 0)) b = true)) := by
  iterate 2 (refine ⟨by decide +kernel, ?_⟩)
  decide +kernel

theorem witness_RegisterWriteFrame :
      let s : State := cpu 1 (glb 5 7 0);
      let r : CoreRef := A8;
      let t : Nat := 3;
      let rd : Reg := .g 0;
      let q : Reg := .w 15;
      let t' : Nat := 0;
      let c : Nat := 1;
      let d : Nat := 1;
      let x1 := s.dev.cd r.die.idx;
      (x1.core ↑r.core).g.length = 16 ∧ (x1.window (↑r.core) t).length = 16 ∧ q ≠ rd ∧ t' ≠ t ∧ c ≠ ↑r.core ∧ d < 4 ∧ d
        ≠ r.die.idx := by decide +kernel

theorem witness_GlobalZeroReadsZero :
      let x : CtrlDie := die 1 (glb 5 7 0);
      let c : Nat := 0;
      let i : Fin 16 := 15;
      i ≠ 0 ∧ (x.core c).g.length = 16 := by decide +kernel

theorem witness_FetchAndFieldTraps :
    (let s : State := cpuT 1 (List.replicate 16 0) (fun k => { k with seq := some sq });
      let r : CoreRef := A8;
      let t : Nat := 3;
      let k : BitVec 6 := 63;
      s.dev.present r.die.idx = true ∧ s.dev.runs r = some t ∧ BitVec.toNat (s.task r t).pc % 4 = 0 ∧ BitVec.toNat
        (s.task r t).pc < 4194304 ∧ 31 < k.toNat ∧ (k = 0 ∨ 31 < k.toNat) ∧ 1 < k.toNat ∧ 3 < k.toNat ∧ 4 < k.toNat ∧
        (s.dev.cd r.die.idx).seqAllows (s.task r t) (encR 33 noReg noReg noReg 2 0) = false) ∧
    (let s : State := cpuT 1 (List.replicate 16 0) (fun k => { k with pc := 0x3FFFFE });
      let r : CoreRef := A8;
      let t : Nat := 3;
      s.dev.present r.die.idx = true ∧ s.dev.runs r = some t ∧ BitVec.toNat (s.task r t).pc % 4 ≠ 0) ∧
    (let s : State := cpuT 1 (List.replicate 16 0) (fun k => { k with pc := 0x3FFFFE });
      let r : CoreRef := A0;
      s.dev.present r.die.idx = true ∧ s.dev.runs r = none) ∧
    (let s : State := cpuT 1 (List.replicate 16 0) (fun k => { k with pc := 0x400000 });
      let r : CoreRef := A8;
      let t : Nat := 3;
      s.dev.present r.die.idx = true ∧ s.dev.runs r = some t ∧ BitVec.toNat (s.task r t).pc % 4 = 0 ∧ 4194304 ≤
        BitVec.toNat (s.task r t).pc) ∧
    (let s : State := cpuT 1 (List.replicate 16 0) (fun k => { k with pc := 0x3FFFFC });
      let r : CoreRef := A8;
      let t : Nat := 3;
      let k : BitVec 6 := 0;
      s.dev.present r.die.idx = true ∧ s.dev.runs r = some t ∧ BitVec.toNat (s.task r t).pc % 4 = 0 ∧ BitVec.toNat
        (s.task r t).pc < 4194304 ∧ (s.task r t).seq = none ∧ (s.task r t).part ≠ 0 ∧ k.toNat < 4) ∧
    (let s : State := cpu 0 (List.replicate 16 0);
      let r : CoreRef := A0;
      let t : Nat := 3;
      let k : BitVec 6 := 4;
      s.dev.present r.die.idx = true ∧ s.dev.runs r = some t ∧ BitVec.toNat (s.task r t).pc % 4 = 0 ∧ BitVec.toNat
        (s.task r t).pc < 4194304 ∧ (s.task r t).seq = none ∧ (s.task r t).part = 0 ∧ (k = 3 ∨ k = 4)) := by
  iterate 5 (refine ⟨by decide +kernel, ?_⟩)
  decide +kernel

theorem witness_VectoredTrapEntry :
    (let s : Dev := { on with cd0 := vec (die 1 (List.replicate 16 0)) };
      let d : Nat := 0;
      let t : Nat := 3;
      let cause : Nat := 3;
      let im : ImgInfo := im;
      let i : Fin 16 := 4;
      let x1 := (s.cd d).task t;
      (s.cd d).img = some im ∧ BitVec.getLsbD im.trapen cause = true ∧ (cause = 2 ∨ cause = 3 ∨ cause = 7) ∧ x1.inTrap =
        false ∧ 4 ≤ ↑i ∧ x1.seq = none) ∧
    (let s : Dev :=
        { on with cd0 := vec ((die 1 (List.replicate 16 0)).modTask 3 (fun k => { k with seq := some sq })) };
      let d : Nat := 0;
      let t : Nat := 3;
      let cause : Nat := 3;
      let im : ImgInfo := im;
      let q : Machine.Seq := sq;
      let x1 := (s.cd d).task t;
      (s.cd d).img = some im ∧ BitVec.getLsbD im.trapen cause = true ∧ (cause = 2 ∨ cause = 3 ∨ cause = 7) ∧ x1.inTrap =
        false ∧ x1.seq = some q) := by
  iterate 1 (refine ⟨by decide +kernel, ?_⟩)
  decide +kernel

theorem witness_UnvectoredTrapStopsTask :
    (let s : Dev := { on with cd0 := die 1 (List.replicate 16 0) };
      let d : Nat := 3;
      let t : Nat := 2;
      let cause : Nat := 3;
      ((s.cd d).task t).inTrap = false ∧ (s.cd d).vectored cause = false ∧ (cause ≠ 2 ∧ cause ≠ 3 ∧ cause ≠ 7 ∨ (s.cd
        d).img = none)) ∧
    (let s : Dev :=
        { on with cd0 := vec ((die 1 (List.replicate 16 0)).modTask 3 (fun k => { k with trapUp := [0] })) };
      let d : Nat := 0;
      let t : Nat := 3;
      ((s.cd d).task t).inTrap = true) := by
  iterate 1 (refine ⟨by decide +kernel, ?_⟩)
  decide +kernel

theorem witness_LoadResults :
    (let s : State := cpu 1 (glb 0x30000000 0x11FFFFF8 0x301FFFF8);
      let r : CoreRef := A8;
      let t : Nat := 3;
      let rd : Reg := g 3;
      let ra : Reg := g 2;
      let imm : W16 := 0;
      let x1 := BitVec.toNat (s.reg r t ra + BitVec.signExtend 64 imm);
      let x2 := s.entered r t;
      let x3 := x2.eccRead r.die.idx x1 1;
      let x4 := x2.eccRead r.die.idx x1 2;
      let x5 := x2.eccRead r.die.idx x1 4;
      s.executes r t (encI 10 rd ra imm) Perm.both = true ∧ x2.accessCheck r.die.idx t false x1 1 = none ∧ inSram x1 =
        true ∧ x3.isSome = true ∧ s.executes r t (encI 11 rd ra imm) Perm.both = true ∧ x3.isSome = true ∧ s.executes r
        t (encI 12 rd ra imm) Perm.both = true ∧ x2.accessCheck r.die.idx t false x1 2 = none ∧ x4.isSome = true ∧
        s.executes r t (encI 13 rd ra imm) Perm.both = true ∧ x4.isSome = true ∧ s.executes r t (encI 14 rd ra imm)
        Perm.both = true ∧ x2.accessCheck r.die.idx t false x1 4 = none ∧ x5.isSome = true ∧ s.executes r t (encI 15 rd
        ra imm) Perm.both = true ∧ x5.isSome = true ∧ s.executes r t (encI 16 rd ra imm) Perm.both = true ∧
        x2.accessCheck r.die.idx t false x1 8 = none ∧ (x2.eccRead r.die.idx x1 8).isSome = true) ∧
    (let s : State := cpu 1 (glb 0x30000000 0x30060000 0x30050100);
      let r : CoreRef := A8;
      let t : Nat := 3;
      let rd : Reg := g 3;
      let ra : Reg := g 2;
      let imm : W16 := 0;
      let x1 := BitVec.toNat (s.reg r t ra + BitVec.signExtend 64 imm);
      s.executes r t (encI 14 rd ra imm) Perm.both = true ∧ (s.entered r t).accessCheck r.die.idx t false x1 4 = none ∧
        inSram x1 = false ∧ s.executes r t (encI 15 rd ra imm) Perm.both = true) ∧
    (let s : State := cpu 1 (glb 0x30000000 0x30060000 0x30050100);
      let r : CoreRef := A8;
      let t : Nat := 3;
      let rd : Reg := g 1;
      let ra : Reg := g 3;
      let imm : W16 := 0;
      let x1 := BitVec.toNat (s.reg r t ra + BitVec.signExtend 64 imm);
      s.executes r t (encI 16 rd ra imm) Perm.both = true ∧ (s.entered r t).accessCheck r.die.idx t false x1 8 = none ∧
        inSram x1 = false) := by
  iterate 2 (refine ⟨by decide +kernel, ?_⟩)
  decide +kernel

theorem witness_MemoryIsLittleEndian :
      let x : CtrlDie := die 1 (glb 5 7 0);
      let t : Nat := 3;
      let a : Nat := 3;
      let n : Nat := 8;
      let j : Nat := 3;
      let b : Nat := 0;
      (x.task t).seq = none ∧ j < n ∧ (b < a ∨ a + n ≤ b) := by decide +kernel

theorem witness_StoreResults :
    (let s : State := cpuD 0 (glb 0x10000000 0x117FFFF8 0) holds;
      let r : CoreRef := A0;
      let t : Nat := 3;
      let rd : Reg := g 3;
      let ra : Reg := g 1;
      let imm : W16 := 0;
      let x2 := s.reg r t ra + BitVec.signExtend 64 imm;
      let x1 := BitVec.toNat x2;
      let x3 := s.entered r t;
      s.executes r t (encI 17 rd ra imm) Perm.both = true ∧ x3.accessCheck r.die.idx t true x1 1 = none ∧ inSram x1 =
        true ∧ (s.task r t).seq = none ∧ (s.dev.cd r.die.idx).lineHeld (↑r.core) (BitVec.toNat x2 / 64) = true ∧
        s.executes r t (encI 18 rd ra imm) Perm.both = true ∧ x3.accessCheck r.die.idx t true x1 2 = none ∧ s.executes r
        t (encI 19 rd ra imm) Perm.both = true ∧ x3.accessCheck r.die.idx t true x1 4 = none ∧ s.executes r t (encI 20
        rd ra imm) Perm.both = true ∧ x3.accessCheck r.die.idx t true x1 8 = none) ∧
    (let s : State := cpu 0 (glb 0x30060000 0x117FFFF8 0x30050100);
      let r : CoreRef := A0;
      let t : Nat := 3;
      let rd : Reg := g 2;
      let ra : Reg := g 2;
      let imm : W16 := 0;
      let x2 := s.reg r t ra + BitVec.signExtend 64 imm;
      let x1 := BitVec.toNat x2;
      let x3 := s.entered r t;
      s.executes r t (encI 17 rd ra imm) Perm.both = true ∧ x3.accessCheck r.die.idx t true x1 1 = none ∧ inSram x1 =
        true ∧ (s.task r t).seq = none ∧ (s.dev.cd r.die.idx).lineHeld (↑r.core) (BitVec.toNat x2 / 64) = false ∧
        s.executes r t (encI 18 rd ra imm) Perm.both = true ∧ x3.accessCheck r.die.idx t true x1 2 = none ∧ s.executes r
        t (encI 19 rd ra imm) Perm.both = true ∧ x3.accessCheck r.die.idx t true x1 4 = none ∧ s.executes r t (encI 20
        rd ra imm) Perm.both = true ∧ x3.accessCheck r.die.idx t true x1 8 = none) ∧
    (let s : State := cpuT 0 (glb 0x10000000 0x117FFFF8 0) (fun k => { k with seq := some sq });
      let r : CoreRef := A0;
      let t : Nat := 3;
      let rd : Reg := g 3;
      let ra : Reg := g 1;
      let imm : W16 := 0;
      let q : Machine.Seq := sq;
      let q2 : Machine.Seq := sq;
      let q3 : Machine.Seq := sq;
      let q4 : Machine.Seq := sq;
      let x1 := BitVec.toNat (s.reg r t ra + BitVec.signExtend 64 imm);
      let x3 := s.entered r t;
      let x2 := (x3.cd r.die.idx).task t;
      s.executes r t (encI 17 rd ra imm) Perm.both = true ∧ x3.accessCheck r.die.idx t true x1 1 = none ∧ inSram x1 =
        true ∧ x2.seq = some q ∧ s.executes r t (encI 18 rd ra imm) Perm.both = true ∧ x3.accessCheck r.die.idx t true
        x1 2 = none ∧ inSram x1 = true ∧ x2.seq = some q2 ∧ s.executes r t (encI 19 rd ra imm) Perm.both = true ∧
        x3.accessCheck r.die.idx t true x1 4 = none ∧ inSram x1 = true ∧ x2.seq = some q3 ∧ s.executes r t (encI 20 rd
        ra imm) Perm.both = true ∧ x3.accessCheck r.die.idx t true x1 8 = none ∧ inSram x1 = true ∧ x2.seq = some q4) ∧
    (let s : State := cpu 0 (glb 0x30060000 0x117FFFF8 0x30050100);
      let r : CoreRef := A0;
      let t : Nat := 3;
      let rd : Reg := g 3;
      let ra : Reg := g 3;
      let imm : W16 := 0;
      let x1 := BitVec.toNat (s.reg r t ra + BitVec.signExtend 64 imm);
      s.executes r t (encI 20 rd ra imm) Perm.both = true ∧ (s.entered r t).accessCheck r.die.idx t true x1 8 = none ∧
        inSram x1 = false) ∧
    (let s : State := cpu 0 (glb 0x30060000 0x117FFFF8 0x30050100);
      let r : CoreRef := A0;
      let t : Nat := 3;
      let rd : Reg := g 3;
      let ra : Reg := g 1;
      let imm : W16 := 0;
      let x1 := BitVec.toNat (s.reg r t ra + BitVec.signExtend 64 imm);
      s.executes r t (encI 19 rd ra imm) Perm.both = true ∧ (s.entered r t).accessCheck r.die.idx t true x1 4 = none ∧
        inSram x1 = false) := by
  iterate 4 (refine ⟨by decide +kernel, ?_⟩)
  decide +kernel

theorem witness_StoreFrame :
    (let s : State := cpu 0 (glb 0x10000000 0x117FFFF8 0x30050008);
      let r : CoreRef := A0;
      let t : Nat := 3;
      let rd : Reg := g 3;
      let ra : Reg := g 1;
      let imm : W16 := 0;
      let b : Nat := 0;
      let j : Nat := 0;
      let d : Nat := 3;
      let b2 : Nat := 0;
      let d2 : Nat := 3;
      let b3 : Nat := 0;
      let j3 : Nat := 0;
      let d3 : Nat := 3;
      let b4 : Nat := 3;
      let j4 : Nat := 0;
      let d4 : Nat := 3;
      let x1 := s.reg r t ra + BitVec.signExtend 64 imm;
      let x2 := BitVec.toNat x1;
      let x3 := s.entered r t;
      s.executes r t (encI 17 rd ra imm) Perm.both = true ∧ x3.accessCheck r.die.idx t true x2 1 = none ∧ inSram x2 =
        true ∧ (s.task r t).seq = none ∧ (s.dev.cd r.die.idx).lineHeld (↑r.core) (BitVec.toNat x1 / 64) = false ∧ isNext
        (exec (Instr.stb r rd ra imm) s) = true ∧ (b < BitVec.toNat x1 ∨ BitVec.toNat x1 + 1 ≤ b) ∧ j < 1 ∧ d < 4 ∧ d ≠
        r.die.idx ∧ s.executes r t (encI 18 rd ra imm) Perm.both = true ∧ x3.accessCheck r.die.idx t true x2 2 = none ∧
        isNext (exec (Instr.sth r rd ra imm) s) = true ∧ (b2 < BitVec.toNat x1 ∨ BitVec.toNat x1 + 2 ≤ b2) ∧ d2 < 4 ∧ d2
        ≠ r.die.idx ∧ s.executes r t (encI 19 rd ra imm) Perm.both = true ∧ x3.accessCheck r.die.idx t true x2 4 = none
        ∧ isNext (exec (Instr.stw r rd ra imm) s) = true ∧ (b3 < BitVec.toNat x1 ∨ BitVec.toNat x1 + 4 ≤ b3) ∧ j3 < 4 ∧
        d3 < 4 ∧ d3 ≠ r.die.idx ∧ s.executes r t (encI 20 rd ra imm) Perm.both = true ∧ x3.accessCheck r.die.idx t true
        x2 8 = none ∧ isNext (exec (Instr.std r rd ra imm) s) = true ∧ (b4 < BitVec.toNat x1 ∨ BitVec.toNat x1 + 8 ≤ b4)
        ∧ j4 < 8 ∧ d4 < 4 ∧ d4 ≠ r.die.idx) ∧
    (let s : State := cpu 0 (glb 0x30060000 0x117FFFF8 0x30050100);
      let r : CoreRef := A0;
      let t : Nat := 3;
      let rd : Reg := g 1;
      let ra : Reg := g 2;
      let imm : W16 := 0;
      let j2 : Nat := 0;
      let x1 := s.reg r t ra + BitVec.signExtend 64 imm;
      let x2 := BitVec.toNat x1;
      s.executes r t (encI 18 rd ra imm) Perm.both = true ∧ (s.entered r t).accessCheck r.die.idx t true x2 2 = none ∧
        inSram x2 = true ∧ (s.task r t).seq = none ∧ (s.dev.cd r.die.idx).lineHeld (↑r.core) (BitVec.toNat x1 / 64) =
        false ∧ isNext (exec (Instr.sth r rd ra imm) s) = true ∧ j2 < 2) := by
  iterate 1 (refine ⟨by decide +kernel, ?_⟩)
  decide +kernel

theorem witness_LoadFrame :
      let s : State := cpu 0 (glb 0x10000000 0x11FFFFF8 0);
      let r : CoreRef := A0;
      let t : Nat := 3;
      let rd : Reg := g 3;
      let ra : Reg := g 1;
      let imm : W16 := 0;
      let q : Reg := g 1;
      let q2 : Reg := g 2;
      let q3 : Reg := g 1;
      let q4 : Reg := g 1;
      let q5 : Reg := g 2;
      let q6 : Reg := g 2;
      let q7 : Reg := g 2;
      let x1 := BitVec.toNat (s.reg r t ra + BitVec.signExtend 64 imm);
      let x2 := s.entered r t;
      s.executes r t (encI 10 rd ra imm) Perm.both = true ∧ x2.accessCheck r.die.idx t false x1 1 = none ∧ inSram x1 =
        true ∧ (s.task r t).seq = none ∧ (s.dev.cd r.die.idx).ecc = [] ∧ q ≠ rd ∧ s.executes r t (encI 11 rd ra imm)
        Perm.both = true ∧ q2 ≠ rd ∧ s.executes r t (encI 12 rd ra imm) Perm.both = true ∧ x2.accessCheck r.die.idx t
        false x1 2 = none ∧ q3 ≠ rd ∧ s.executes r t (encI 13 rd ra imm) Perm.both = true ∧ q4 ≠ rd ∧ s.executes r t
        (encI 14 rd ra imm) Perm.both = true ∧ x2.accessCheck r.die.idx t false x1 4 = none ∧ q5 ≠ rd ∧ s.executes r t
        (encI 15 rd ra imm) Perm.both = true ∧ q6 ≠ rd ∧ s.executes r t (encI 16 rd ra imm) Perm.both = true ∧
        x2.accessCheck r.die.idx t false x1 8 = none ∧ q7 ≠ rd := by decide +kernel

theorem witness_AccessTraps :
    (let e : Dev := { on with cd0 := (die 0 []).modTask 3 (fun k => { k with seq := some sq }) };
      let d : Nat := 0x10000000;
      let t : Nat := 3;
      let a : Nat := 2;
      let n : Nat := 1;
      let s : State := cpu 2 (glb 0x117FFFFF 0x117FFFFF 0x117FFFFF);
      let r : CoreRef := A8;
      let t2 : Nat := 3;
      let rd : Reg := g 1;
      let ra : Reg := g 3;
      let imm : W16 := 1;
      let cause : Nat := 4;
      let cause2 : Nat := 4;
      let cause3 : Nat := 4;
      let cause4 : Nat := 4;
      let cause5 : Nat := 4;
      let cause6 : Nat := 4;
      let cause7 : Nat := 4;
      let cause8 : Nat := 4;
      let cause9 : Nat := 4;
      let cause10 : Nat := 4;
      let cause11 : Nat := 4;
      let x1 := BitVec.toNat (s.reg r t2 ra + BitVec.signExtend 64 imm);
      let x2 := s.entered r t2;
      a % n = 0 ∧ ((e.cd d).task t).seq = none ∧ (a < 268435456 ∨ 301989888 ≤ a ∧ a < 805306368 ∨ 807403520 ≤ a) ∧
        s.executes r t2 (encI 10 rd ra imm) Perm.both = true ∧ x2.accessCheck r.die.idx t2 false x1 1 = some cause ∧
        s.executes r t2 (encI 11 rd ra imm) Perm.both = true ∧ x2.accessCheck r.die.idx t2 false x1 1 = some cause2 ∧
        s.executes r t2 (encI 12 rd ra imm) Perm.both = true ∧ x2.accessCheck r.die.idx t2 false x1 2 = some cause3 ∧
        s.executes r t2 (encI 13 rd ra imm) Perm.both = true ∧ x2.accessCheck r.die.idx t2 false x1 2 = some cause4 ∧
        s.executes r t2 (encI 14 rd ra imm) Perm.both = true ∧ x2.accessCheck r.die.idx t2 false x1 4 = some cause5 ∧
        s.executes r t2 (encI 15 rd ra imm) Perm.both = true ∧ x2.accessCheck r.die.idx t2 false x1 4 = some cause6 ∧
        s.executes r t2 (encI 16 rd ra imm) Perm.both = true ∧ x2.accessCheck r.die.idx t2 false x1 8 = some cause7 ∧
        s.executes r t2 (encI 17 rd ra imm) Perm.both = true ∧ x2.accessCheck r.die.idx t2 true x1 1 = some cause8 ∧
        s.executes r t2 (encI 18 rd ra imm) Perm.both = true ∧ x2.accessCheck r.die.idx t2 true x1 2 = some cause9 ∧
        s.executes r t2 (encI 19 rd ra imm) Perm.both = true ∧ x2.accessCheck r.die.idx t2 true x1 4 = some cause10 ∧
        s.executes r t2 (encI 20 rd ra imm) Perm.both = true ∧ x2.accessCheck r.die.idx t2 true x1 8 = some cause11) ∧
    (let e : Dev :=
        { on with cd0 := (die 0 []).modTask 3 (fun k => { k with seq := some { sq with lines := [0, 1] } }) };
      let d : Nat := 0;
      let t : Nat := 3;
      let a : Nat := 0x30000000;
      let n : Nat := 1;
      a % n = 0 ∧ ((e.cd d).task t).seq ≠ none ∧ inSram a = false ∧ (n = 1 ∨ n = 2) ∧ 805306368 ≤ a ∧ a < 807403520) ∧
    (let e : Dev := { on with cd0 := (die 0 []).modTask 3 (fun k => { k with seq := some sq }) };
      let d : Nat := 0x12000000;
      let t : Nat := 3;
      let a : Nat := 0x117FFFF8;
      let n : Nat := 4;
      a % n = 0 ∧ 268435456 ≤ a ∧ a < 293601280 ∧ ((e.cd d).task t).seq = none) ∧
    (let e : Dev := { on with cd0 := die 2 [] };
      let d : Nat := 0;
      let t : Nat := 3;
      let a : Nat := 0x11800000;
      let n : Nat := 4;
      let x1 := (e.cd d).task t;
      a % n = 0 ∧ 293601280 ≤ a ∧ a < 301989888 ∧ x1.part ≠ 0 ∧ x1.seq = none) ∧
    (let a : Nat := 0x301FFFFF;
      let n : Nat := 8;
      a % n ≠ 0) ∧
    (let e : Dev := { on with cd0 := (die 0 []).modTask 3 (fun k => { k with seq := some sq }) };
      let d : Nat := 0;
      let t : Nat := 3;
      let store : Bool := true;
      let a : Nat := 0x117FFFF8;
      let n : Nat := 1;
      let q : Machine.Seq := sq;
      let x1 := (e.cd d).task t;
      a % n = 0 ∧ 268435456 ≤ a ∧ a < 293601280 ∧ (store = false ∨ x1.part = 0) ∧ x1.seq = some q) ∧
    (let e : Dev := { on with cd0 := die 0 [] };
      let d : Nat := 1;
      let t : Nat := 3;
      let a : Nat := 0x11FFFFF8;
      let n : Nat := 8;
      a % n = 0 ∧ 293601280 ≤ a ∧ a < 301989888 ∧ ((e.cd d).task t).part = 0) := by
  iterate 6 (refine ⟨by decide +kernel, ?_⟩)
  decide +kernel

theorem witness_BranchResults :
      let s : State := cpu 0 (glb 5 7 0);
      let r : CoreRef := A0;
      let t : Nat := 3;
      let ra : Reg := g 2;
      let rb : Reg := g 1;
      let off : W16 := 32768;
      let far : BitVec 26 := 33554432;
      s.executes r t (encB 24 ra rb off) Perm.both = true ∧ s.executes r t (encB 25 ra rb off) Perm.both = true ∧
        s.executes r t (encB 26 ra rb off) Perm.both = true ∧ s.executes r t (encB 27 ra rb off) Perm.both = true ∧
        s.executes r t (encB 28 ra rb off) Perm.both = true ∧ s.executes r t (encB 29 ra rb off) Perm.both = true ∧
        s.executes r t (encJ 30 far) Perm.both = true := by decide +kernel

theorem witness_CallResults :
      let s : State := cpu 0 (glb 0x104 0 0);
      let r : CoreRef := A0;
      let t : Nat := 3;
      let off : BitVec 26 := 33554432;
      let rb : Reg := g 3;
      let j : Fin 16 := 3;
      let j3 : Fin 16 := 1;
      let x1 := s.dev.cd r.die.idx;
      (x1.core ↑r.core).wins.length < 23 ∧ x1.resident (↑r.core) t ((s.task r t).depth + 1) = false ∧ s.executes r t
        (encJ 31 off) Perm.both = true ∧ ↑j < 15 ∧ s.executes r t (encR 32 noReg noReg rb 0 0) Perm.both = true ∧
        BitVec.toNat (s.reg r t rb) % 4 = 0 ∧ ↑j3 < 15 := by decide +kernel

theorem witness_CallTrapsAndOverflow :
    (let s : State := cpuD 0 (glb 0x100 0 0) (fun x => (x.modTask 3 (fun k => { k with trapUp := [0] })).modCore 0 (fun
        c =>
        { c with wins := (List.range 23).map (fun d => { owner := 3, depth := d, regs := List.replicate 16 0 }) }));
      let r : CoreRef := A0;
      let t : Nat := 3;
      let off : BitVec 26 := 33554432;
      let d : Dev :=
        { on with cd0 := (die 1 []).modTask 3 (fun k => { k with spptr := 0x11801000, splim := 0x11801080 }) };
      let w : Win := { owner := 3, depth := 0, regs := List.replicate 16 1 };
      let j : Nat := 0;
      let a : Nat := 15;
      let x1 := (d.cd r.die.idx).task w.owner;
      s.executes r t (encJ 31 off) Perm.both = true ∧ (s.task r t).inTrap = true ∧ 23 ≤ (((s.entered r t).cd
        r.die.idx).core ↑r.core).wins.length ∧ BitVec.toNat x1.spptr + 128 ≤ BitVec.toNat x1.splim ∧ w.regs.length = 16
        ∧ j < 16 ∧ (a < BitVec.toNat x1.spptr ∨ BitVec.toNat x1.spptr + 128 ≤ a)) ∧
    (let s : State := cpu 0 (glb 0x103 0 0);
      let r : CoreRef := A0;
      let t : Nat := 3;
      let rb : Reg := g 1;
      let d : Dev :=
        { on with cd0 := (die 1 []).modTask 3 (fun k => { k with spptr := 0x11801000, splim := 0x1180107F }) };
      let w : Win := { owner := 3, depth := 0, regs := List.replicate 16 1 };
      let x1 := (d.cd r.die.idx).task w.owner;
      s.executes r t (encR 32 noReg noReg rb 0 0) Perm.both = true ∧ BitVec.toNat (s.reg r t rb) % 4 ≠ 0 ∧ BitVec.toNat
        x1.splim < BitVec.toNat x1.spptr + 128) := by
  iterate 1 (refine ⟨by decide +kernel, ?_⟩)
  decide +kernel

theorem witness_ReturnResults :
    (let s : State := inTrap 0x8000000000000003;
      let r : CoreRef := A0;
      let t : Nat := 3;
      s.executes r t (encR 32 noReg noReg noReg 1 0) Perm.both = true ∧ (((s.entered r t).cd r.die.idx).task t).inTrap =
        true ∧ BitVec.getLsbD (s.reg r t (Reg.w 0)) 63 = true) ∧
    (let s : State := cpu 0 (List.replicate 16 0);
      let r : CoreRef := A0;
      let t : Nat := 3;
      let x1 := ((s.entered r t).cd r.die.idx).task t;
      s.executes r t (encR 32 noReg noReg noReg 1 0) Perm.both = true ∧ x1.trapUp = [] ∧ x1.depth = 0) ∧
    (let s : State := cpuD 0 (List.replicate 16 0) (fun x => (x.modTask 3 (fun k => { k with depth := 1 })).modCore 0
        (fun c => { c with wins := [⟨3, 0, List.replicate 16 0⟩, ⟨3, 1, List.replicate 16 0x200⟩] }));
      let r : CoreRef := A0;
      let t : Nat := 3;
      let x1 := ((s.entered r t).cd r.die.idx).task t;
      s.executes r t (encR 32 noReg noReg noReg 1 0) Perm.both = true ∧ x1.trapUp = [] ∧ 0 < x1.depth ∧ (s.dev.cd
        r.die.idx).resident (↑r.core) t (x1.depth - 1) = true) ∧
    (let s : State := cdA (inTrap 3) (fun x => (holds (x.modCore 0 (fun c =>
        { c with wins := List.replicate 23 ⟨5, 1, []⟩ }))).setTask 5 { task 0 with spptr := 0x10000000 });
      let r : CoreRef := A0;
      let t : Nat := 3;
      let x1 := (s.entered r t).cd r.die.idx;
      s.executes r t (encR 32 noReg noReg noReg 1 0) Perm.both = true ∧ (x1.task t).inTrap = true ∧ BitVec.getLsbD
        (s.reg r t (Reg.w 0)) 63 = false ∧ (!x1.resident (↑r.core) t (x1.task t).depth && x1.roomHeld (↑r.core) t
        (x1.task t).depth) = true) ∧
    (let s : State := inTrap 3;
      let r : CoreRef := A0;
      let t : Nat := 3;
      let x1 := (s.entered r t).cd r.die.idx;
      s.executes r t (encR 32 noReg noReg noReg 1 0) Perm.both = true ∧ (x1.task t).inTrap = true ∧ BitVec.getLsbD
        (s.reg r t (Reg.w 0)) 63 = false ∧ (!x1.resident (↑r.core) t (x1.task t).depth && x1.roomHeld (↑r.core) t
        (x1.task t).depth) = false) := by
  iterate 4 (refine ⟨by decide +kernel, ?_⟩)
  decide +kernel

theorem witness_AtomicSequence :
    (let s : State := cpuT 0 (List.replicate 16 0) (fun k => { k with seqAt := k.pc, seqFails := 3 });
      let r : CoreRef := A0;
      let t : Nat := 3;
      let x1 := (s.entered r t).cd r.die.idx;
      s.executes r t (encR 32 noReg noReg noReg 2 0) Perm.both = true ∧ ((if (s.task r t).seqAt = (s.task r t).pc then
        (s.task r t).seqFails else 0) < 4 ∨ (!(x1.exclElse ↑r.core || x1.earlierDue (↑r.core) (if (s.task r t).seqDue =
        0 then x1.duePlace else (s.task r t).seqDue))) = true)) ∧
    (let s : State := cpuD 0 (List.replicate 16 0) (fun x => holds (x.modTask 3 (fun k =>
        { k with seq := some { sq with heldKeys := [0x10000000] } })));
      let r : CoreRef := A0;
      let t : Nat := 3;
      let q : Machine.Seq := { sq with heldKeys := [0x10000000] };
      s.executes r t (encR 32 noReg noReg noReg 3 0) Perm.both = true ∧ (s.task r t).seq = some q ∧ (q.broken = false ∨
        4 ≤ q.fails) ∧ ((q.heldKeys.any fun a => ((s.entered r t).cd r.die.idx).lineHeld (↑r.core) (a / 64)) = true)) ∧
    (let s : State := cpuD 0 (List.replicate 16 0) (fun x => holds (x.modTask 3 (fun k =>
        { k with seqAt := k.pc, seqFails := 4 })));
      let r : CoreRef := A0;
      let t : Nat := 3;
      let x1 := (s.entered r t).cd r.die.idx;
      s.executes r t (encR 32 noReg noReg noReg 2 0) Perm.both = true ∧ (4 ≤ if (s.task r t).seqAt = (s.task r t).pc
        then (s.task r t).seqFails else 0) ∧ ((!(x1.exclElse ↑r.core || x1.earlierDue (↑r.core) (if (s.task r t).seqDue
        = 0 then x1.duePlace else (s.task r t).seqDue))) = false)) ∧
    (let s : State := cpuT 0 (List.replicate 16 0) (fun k =>
        { k with seq := some { sq with broken := true, fails := 4 } });
      let r : CoreRef := A0;
      let t : Nat := 3;
      let q : Machine.Seq := { sq with broken := true, fails := 4 };
      s.executes r t (encR 32 noReg noReg noReg 3 0) Perm.both = true ∧ (s.task r t).seq = some q ∧ (q.broken = false ∨
        4 ≤ q.fails) ∧ ((q.heldKeys.any fun a => ((s.entered r t).cd r.die.idx).lineHeld (↑r.core) (a / 64)) = false)) ∧
    (let s : State := cpuT 0 (List.replicate 16 0) (fun k =>
        { k with seq := some { sq with broken := true, fails := 3 } });
      let r : CoreRef := A0;
      let t : Nat := 3;
      let q : Machine.Seq := { sq with broken := true, fails := 3 };
      s.executes r t (encR 32 noReg noReg noReg 3 0) Perm.both = true ∧ (s.task r t).seq = some q ∧ q.broken = true ∧
        q.fails < 4) := by
  iterate 4 (refine ⟨by decide +kernel, ?_⟩)
  decide +kernel

theorem witness_BreakAndTimeResults :
    (let s : State := st (set { on with cd0 := die 1 (List.replicate 16 0) } [(GLB_DBG_OPEN, 1), (GLB_DBG_CORES_EN,
        256), (SH_LANE_STAT_STATE 0, 4), (SH_MODE_CUR, 3)]);
      let r : CoreRef := A8;
      let t : Nat := 3;
      let rd : Reg := g 1;
      let k : BitVec 6 := 4;
      s.executes r t (encR 32 noReg noReg noReg 4 0) Perm.both = true ∧ s.dev.debugCore r.die.idx ↑r.core = true ∧
        (s.entered r t).haltRetire r.die.idx = none ∧ k.toNat < 5 ∧ (s.executes r t (encR 32 rd noReg noReg 5 k.toNat)
        (if k.toNat < 3 then Perm.both else Perm.nonVoted) = true) ∧ k = 4) ∧
    (let s : State := cpuT 0 (List.replicate 16 0) (fun k => { k with inst := some (7, 9) });
      let r : CoreRef := A0;
      let t : Nat := 3;
      let rd : Reg := g 2;
      let k : BitVec 6 := 1;
      s.executes r t (encR 32 noReg noReg noReg 4 0) Perm.both = true ∧ s.dev.debugCore r.die.idx ↑r.core = false ∧
        k.toNat < 5 ∧ (s.executes r t (encR 32 rd noReg noReg 5 k.toNat) (if k.toNat < 3 then Perm.both else
        Perm.nonVoted) = true) ∧ k = 1) ∧
    (let s : State := st (set { on with cd0 := die 1 (List.replicate 16 0) } [(GLB_DBG_OPEN, 1), (GLB_DBG_CORES_EN,
        256)]);
      let r : CoreRef := A8;
      let t : Nat := 3;
      let rd : Reg := g 1;
      let k : BitVec 6 := 0;
      s.executes r t (encR 32 noReg noReg noReg 4 0) Perm.both = true ∧ s.dev.debugCore r.die.idx ↑r.core = true ∧
        ((s.entered r t).haltRetire r.die.idx).isSome = true ∧ k.toNat < 5 ∧ (s.executes r t (encR 32 rd noReg noReg 5
        k.toNat) (if k.toNat < 3 then Perm.both else Perm.nonVoted) = true) ∧ (s.task r t).inst = none ∧ (k = 0 ∨ k = 2)) ∧
    (let s : State := cpuT 0 (List.replicate 16 0) (fun k => { k with inst := some (7, 9) });
      let r : CoreRef := A0;
      let t : Nat := 3;
      let rd : Reg := g 1;
      let k : BitVec 6 := 0;
      let at_ : W64 × W64 := (7, 9);
      k.toNat < 5 ∧ (s.executes r t (encR 32 rd noReg noReg 5 k.toNat) (if k.toNat < 3 then Perm.both else
        Perm.nonVoted) = true) ∧ (s.task r t).inst = some at_ ∧ k = 0) ∧
    (let s : State := cpuT 0 (List.replicate 16 0) (fun k => { k with inst := some (7, 9) });
      let r : CoreRef := A0;
      let t : Nat := 3;
      let rd : Reg := g 1;
      let k : BitVec 6 := 2;
      let at_ : W64 × W64 := (7, 9);
      k.toNat < 5 ∧ (s.executes r t (encR 32 rd noReg noReg 5 k.toNat) (if k.toNat < 3 then Perm.both else
        Perm.nonVoted) = true) ∧ (s.task r t).inst = some at_ ∧ k = 2) ∧
    (let s : State := st (set { on with cd0 := die 1 (List.replicate 16 0) } [(GLB_DBG_OPEN, 1), (GLB_DBG_CORES_EN,
        256)]);
      let r : CoreRef := A8;
      let t : Nat := 3;
      let rd : Reg := g 1;
      let k : BitVec 6 := 3;
      k.toNat < 5 ∧ (s.executes r t (encR 32 rd noReg noReg 5 k.toNat) (if k.toNat < 3 then Perm.both else
        Perm.nonVoted) = true) ∧ k = 3) := by
  iterate 5 (refine ⟨by decide +kernel, ?_⟩)
  decide +kernel

theorem witness_MailboxResults :
    (let s : State := cpuD 1 (glb 128 255 0) (fun x => x.setMbox 128
        { Mbox.off with en := true, part := 1, depth := 1, waiters := [4] });
      let r : CoreRef := A8;
      let t : Nat := 3;
      let rd : Reg := g 1;
      let ra : Reg := g 1;
      let rb : Reg := g 1;
      let k : BitVec 6 := 1;
      let w : Nat := 4;
      let o : Nat := 4;
      let x2 := ((s.entered r t).advance r.die.idx t).cd r.die.idx;
      let x3 := (s.entered r t).cd r.die.idx;
      let x4 := BitVec.toNat (s.reg r t ra);
      let x1 := x2.mbox x4;
      s.executes r t (encR 33 rd ra rb 0 0) Perm.both = true ∧ BitVec.toNat (s.reg r t ra) < 65536 ∧ x2.postRefused t x4
        = false ∧ 128 ≤ BitVec.toNat (s.reg r t ra) ∧ x2.best x1.waiters = some w ∧ w ≠ t ∧ o ∈ x1.waiters ∧ (x2.task
        w).state ≠ TState.halted ∧ k.toNat < 2 ∧ s.executes r t (encR 33 rd ra rb 1 k.toNat) Perm.both = true ∧
        (¬((x3.task t).part = 0 ∧ (k = 0 ∨ 128 ≤ BitVec.toNat (s.reg r t ra) ∨ x1.en = false ∨ x1.cons ≠ t))) ∧
        x3.mayMbox (x3.task t).part x4 = true ∧ x1.msgs = [] ∧ k = 1) ∧
    (let s : State := cpu 1 (glb 5 6 0);
      let r : CoreRef := A8;
      let t : Nat := 3;
      let rd : Reg := g 1;
      let ra : Reg := g 2;
      let rb : Reg := g 2;
      let k : BitVec 6 := 1;
      let x1 := ((s.entered r t).advance r.die.idx t).cd r.die.idx;
      let x2 := BitVec.toNat (s.reg r t ra);
      let x3 := (s.entered r t).cd r.die.idx;
      s.executes r t (encR 33 rd ra rb 0 0) Perm.both = true ∧ BitVec.toNat (s.reg r t ra) < 65536 ∧ x1.postRefused t x2
        = true ∧ k.toNat < 2 ∧ s.executes r t (encR 33 rd ra rb 1 k.toNat) Perm.both = true ∧ (¬((x3.task t).part = 0 ∧
        (k = 0 ∨ 128 ≤ BitVec.toNat (s.reg r t ra) ∨ (x1.mbox x2).en = false ∨ (x1.mbox x2).cons ≠ t))) ∧ x3.mayMbox
        (x3.task t).part x2 = false) ∧
    (let s : State := cpuD 0 (glb 0 127 0) (fun x => x.setMbox 127
        { Mbox.off with en := true, depth := 1, prod := 3, cons := 3 });
      let r : CoreRef := A0;
      let t : Nat := 3;
      let rd : Reg := g 2;
      let ra : Reg := g 2;
      let rb : Reg := g 2;
      let k : BitVec 6 := 0;
      let x1 := ((s.entered r t).advance r.die.idx t).cd r.die.idx;
      let x2 := BitVec.toNat (s.reg r t ra);
      s.executes r t (encR 33 rd ra rb 0 0) Perm.both = true ∧ BitVec.toNat (s.reg r t ra) < 65536 ∧ x1.postRefused t x2
        = false ∧ (BitVec.toNat (s.reg r t ra) < 128 ∨ x1.best (x1.mbox x2).waiters = none) ∧ k.toNat < 2 ∧ s.executes r
        t (encR 33 rd ra rb 1 k.toNat) Perm.both = true ∧ ((((s.entered r t).cd r.die.idx).task t).part = 0 ∧ (k = 0 ∨
        128 ≤ BitVec.toNat (s.reg r t ra) ∨ (x1.mbox x2).en = false ∨ (x1.mbox x2).cons ≠ t))) ∧
    (let s : State := cpuD 0 (glb 127 127 0) (fun x => x.setMbox 127
        { Mbox.off with en := true, depth := 1, prod := 3, cons := 3, msgs := [⟨9, 5, 0⟩] });
      let r : CoreRef := A0;
      let t : Nat := 3;
      let rd : Reg := g 2;
      let ra : Reg := g 2;
      let rb : Reg := g 1;
      let k : BitVec 6 := 1;
      let w3 : Msg := { val := 9, cycle := 5, phase := 0 };
      let rest2 : List Msg := [];
      let x2 := (s.entered r t).cd r.die.idx;
      let x3 := BitVec.toNat (s.reg r t ra);
      let x1 := (((s.entered r t).advance r.die.idx t).cd r.die.idx).mbox x3;
      k.toNat < 2 ∧ s.executes r t (encR 33 rd ra rb 1 k.toNat) Perm.both = true ∧ (¬((x2.task t).part = 0 ∧ (k = 0 ∨
        128 ≤ BitVec.toNat (s.reg r t ra) ∨ x1.en = false ∨ x1.cons ≠ t))) ∧ x2.mayMbox (x2.task t).part x3 = true ∧
        x1.msgs = w3 :: rest2 ∧ x2.visible t x3 w3 = false) ∧
    (let s : State := cpuD 1 (glb 128 255 0) (fun x => x.setMbox 255
        { Mbox.off with en := true, part := 1, depth := 2, msgs := [⟨9, 5, 0⟩] });
      let r : CoreRef := A8;
      let t : Nat := 3;
      let rd : Reg := g 2;
      let ra : Reg := g 2;
      let rb : Reg := g 1;
      let k : BitVec 6 := 0;
      let w2 : Msg := { val := 9, cycle := 5, phase := 0 };
      let rest : List Msg := [];
      let x2 := (s.entered r t).cd r.die.idx;
      let x3 := BitVec.toNat (s.reg r t ra);
      let x1 := (((s.entered r t).advance r.die.idx t).cd r.die.idx).mbox x3;
      k.toNat < 2 ∧ s.executes r t (encR 33 rd ra rb 1 k.toNat) Perm.both = true ∧ (¬((x2.task t).part = 0 ∧ (k = 0 ∨
        128 ≤ BitVec.toNat (s.reg r t ra) ∨ x1.en = false ∨ x1.cons ≠ t))) ∧ x2.mayMbox (x2.task t).part x3 = true ∧
        x1.msgs = w2 :: rest ∧ x2.visible t x3 w2 = true) ∧
    (let s : State := cpuD 1 (glb 128 255 0) (fun x => x.setMbox 128
        { Mbox.off with en := true, part := 1, depth := 1, waiters := [4] });
      let r : CoreRef := A8;
      let t : Nat := 3;
      let rd : Reg := g 1;
      let ra : Reg := g 2;
      let rb : Reg := g 2;
      let k : BitVec 6 := 0;
      let x2 := (s.entered r t).cd r.die.idx;
      let x3 := BitVec.toNat (s.reg r t ra);
      let x1 := (((s.entered r t).advance r.die.idx t).cd r.die.idx).mbox x3;
      k.toNat < 2 ∧ s.executes r t (encR 33 rd ra rb 1 k.toNat) Perm.both = true ∧ (¬((x2.task t).part = 0 ∧ (k = 0 ∨
        128 ≤ BitVec.toNat (s.reg r t ra) ∨ x1.en = false ∨ x1.cons ≠ t))) ∧ x2.mayMbox (x2.task t).part x3 = true ∧
        x1.msgs = [] ∧ k = 0 ∧ (x2.task t).deleting = false) := by
  iterate 5 (refine ⟨by decide +kernel, ?_⟩)
  decide +kernel

theorem witness_CoreOfferingResults :
    (let s : State := rdy (cpu 1 (glb 4 63 64));
      let r : CoreRef := A8;
      let t : Nat := 3;
      let rd : Reg := g 1;
      let ra : Reg := g 1;
      let rb : Reg := g 3;
      let x3 := (s.entered r t).advance r.die.idx t;
      let x1 := x3.cd r.die.idx;
      let x2 := x1.task (BitVec.toNat (s.reg r t ra));
      s.executes r t (encR 33 noReg noReg noReg 2 0) Perm.both = true ∧ ((s.task r t).part = 0 ∨ x1.held t = []) ∧
        (s.task r t).deleting = false ∧ (s.task r t).ppend = none ∧ s.executes r t (encR 33 noReg ra noReg 3 0)
        Perm.nonVoted = true ∧ 0 < BitVec.toNat (s.reg r t ra) ∧ s.executes r t (encR 33 noReg noReg noReg 4 0)
        Perm.nonVoted = true ∧ ((x1.ready.any fun u => decide (x1.pri u = x1.pri t) && (x3.allowed r.die.idx (x1.task
        u).part).any fun e => decide (e = ↑r.core)) = true) ∧ s.executes r t (encR 33 rd ra rb 5 0) Perm.both = true ∧
        (512 ≤ BitVec.toNat (s.reg r t ra) ∨ x2.state = TState.free ∨ mayTask (s.task r t).part x2.part = false ∨ 64 ≤
        BitVec.toNat (s.reg r t rb))) ∧
    (let s : State := cpuD 1 (glb 3 63 64) (lk 32 (some 3));
      let r : CoreRef := A8;
      let t : Nat := 3;
      let ra : Reg := g 0;
      let x2 := (s.entered r t).advance r.die.idx t;
      let x1 := x2.cd r.die.idx;
      s.executes r t (encR 33 noReg noReg noReg 2 0) Perm.both = true ∧ (s.task r t).part ≠ 0 ∧ x1.held t ≠ [] ∧
        s.executes r t (encR 33 noReg ra noReg 3 0) Perm.nonVoted = true ∧ BitVec.toNat (s.reg r t ra) = 0 ∧
        ((x1.ready.any fun u => decide (x1.pri u = x1.pri t) && (x2.allowed r.die.idx (x1.task u).part).any fun e =>
        decide (e = ↑r.core)) = false) ∧ s.executes r t (encR 33 noReg noReg noReg 4 0) Perm.nonVoted = true) ∧
    (let s : State := rdy (cpuT 1 (glb 4 63 64) (fun k => { k with deleting := true }));
      let r : CoreRef := A8;
      let t : Nat := 3;
      let ra : Reg := g 0;
      let x2 := (s.entered r t).advance r.die.idx t;
      let x1 := x2.cd r.die.idx;
      s.executes r t (encR 33 noReg ra noReg 3 0) Perm.nonVoted = true ∧ BitVec.toNat (s.reg r t ra) = 0 ∧
        ((x1.ready.any fun u => decide (x1.pri u = x1.pri t) && (x2.allowed r.die.idx (x1.task u).part).any fun e =>
        decide (e = ↑r.core)) = true) ∧ (s.task r t).deleting = true ∧ s.executes r t (encR 33 noReg noReg noReg 4 0)
        Perm.nonVoted = true) ∧
    (let s : State := rdy (cpu 1 (glb 4 63 64));
      let r : CoreRef := A8;
      let t : Nat := 3;
      let rd : Reg := g 1;
      let ra : Reg := g 1;
      let rb : Reg := g 2;
      let x2 := ((s.entered r t).advance r.die.idx t).cd r.die.idx;
      let x3 := BitVec.toNat (s.reg r t ra);
      let x1 := x2.task x3;
      s.executes r t (encR 33 rd ra rb 5 0) Perm.both = true ∧ BitVec.toNat (s.reg r t ra) < 512 ∧ x1.state ≠
        TState.free ∧ mayTask (s.task r t).part x1.part = true ∧ BitVec.toNat (s.reg r t rb) < 64 ∧ x1.part ≠ 0 ∧
        x1.state ≠ TState.running ∧ x2.held x3 = []) ∧
    (let s : State := rdy (cpu 1 (glb 4 63 64));
      let r : CoreRef := A8;
      let t : Nat := 3;
      let ra : Reg := g 0;
      let x2 := (s.entered r t).advance r.die.idx t;
      let x1 := x2.cd r.die.idx;
      s.executes r t (encR 33 noReg ra noReg 3 0) Perm.nonVoted = true ∧ BitVec.toNat (s.reg r t ra) = 0 ∧
        ((x1.ready.any fun u => decide (x1.pri u = x1.pri t) && (x2.allowed r.die.idx (x1.task u).part).any fun e =>
        decide (e = ↑r.core)) = true) ∧ (s.task r t).deleting = false) ∧
    (let s : State := cpuD 1 (glb 3 63 64) (lk 32 (some 3));
      let r : CoreRef := A8;
      let t : Nat := 3;
      let rd : Reg := g 3;
      let ra : Reg := g 1;
      let rb : Reg := g 2;
      let x2 := ((s.entered r t).advance r.die.idx t).cd r.die.idx;
      let x3 := BitVec.toNat (s.reg r t ra);
      let x1 := x2.task x3;
      s.executes r t (encR 33 rd ra rb 5 0) Perm.both = true ∧ BitVec.toNat (s.reg r t ra) < 512 ∧ x1.state ≠
        TState.free ∧ mayTask (s.task r t).part x1.part = true ∧ BitVec.toNat (s.reg r t rb) < 64 ∧ x1.part ≠ 0 ∧
        (x1.state = TState.running ∨ x2.held x3 ≠ [])) := by
  iterate 5 (refine ⟨by decide +kernel, ?_⟩)
  decide +kernel

theorem witness_LockResults :
    (let s : State := cpuD 1 (List.replicate 16 0) (fun x => x.setLock 63
        { HwLock.off with en := true, part := 1, ceil := 20, holder := some 3, waiters := [4] });
      let r : CoreRef := A8;
      let t : Nat := 3;
      let l : BitVec 6 := 0;
      let x1 := (s.entered r t).cd r.die.idx;
      let x2 := x1.lock l.toNat;
      s.executes r t (encR 33 noReg noReg noReg 6 l.toNat) Perm.both = true ∧ (x2.en = false ∨ x1.mayLock (x1.task
        t).part l.toNat = false) ∧ s.executes r t (encR 33 noReg noReg noReg 7 l.toNat) Perm.both = true ∧ x2.holder ≠
        some t) ∧
    (let s : State := cpuD 1 (List.replicate 16 0) (lk 63 (some 3));
      let r : CoreRef := A8;
      let t : Nat := 3;
      let l : BitVec 6 := 63;
      let x1 := (s.entered r t).cd r.die.idx;
      let x2 := x1.lock l.toNat;
      s.executes r t (encR 33 noReg noReg noReg 6 l.toNat) Perm.both = true ∧ x2.en = true ∧ x1.mayLock (x1.task t).part
        l.toNat = true ∧ (x1.task t).part ≠ 0 ∧ (x1.task t).base ≤ x2.ceil ∧ x2.holder ≠ none ∧ s.executes r t (encR 33
        noReg noReg noReg 7 l.toNat) Perm.both = true ∧ x2.holder = some t ∧ (x2.waiters = [] ∨ l.toNat < 32)) ∧
    (let s : State := cpuD 1 (List.replicate 16 0) (lk 32 none);
      let r : CoreRef := A8;
      let t : Nat := 3;
      let l : BitVec 6 := 32;
      let l' : Nat := 3;
      let x1 := (s.entered r t).cd r.die.idx;
      let x2 := x1.lock l.toNat;
      s.executes r t (encR 33 noReg noReg noReg 6 l.toNat) Perm.both = true ∧ x2.en = true ∧ x1.mayLock (x1.task t).part
        l.toNat = true ∧ (x1.task t).part ≠ 0 ∧ (x1.task t).base ≤ x2.ceil ∧ x2.holder = none ∧ l' ≠ l.toNat) ∧
    (let s : State := cpuD 1 (List.replicate 16 0) (fun x => lk 63 none (x.modTask 3 (fun k =>
        { k with base := 63 })));
      let r : CoreRef := A8;
      let t : Nat := 3;
      let l : BitVec 6 := 63;
      let x1 := (s.entered r t).cd r.die.idx;
      let x2 := x1.lock l.toNat;
      s.executes r t (encR 33 noReg noReg noReg 6 l.toNat) Perm.both = true ∧ x2.en = true ∧ x1.mayLock (x1.task t).part
        l.toNat = true ∧ (x1.task t).part ≠ 0 ∧ x2.ceil < (x1.task t).base) ∧
    (let s : State := cpuD 0 (List.replicate 16 0) (fun x => lk 31 (some 4) (x.modTask 3 (fun k =>
        { k with lset := 0x80000000 })));
      let r : CoreRef := A0;
      let t : Nat := 3;
      let l : BitVec 6 := 31;
      let x1 := (s.entered r t).cd r.die.idx;
      s.executes r t (encR 33 noReg noReg noReg 6 l.toNat) Perm.both = true ∧ (x1.lock l.toNat).en = true ∧ x1.mayLock
        (x1.task t).part l.toNat = true ∧ (x1.task t).part = 0 ∧ BitVec.getLsbD (x1.task t).lset l.toNat = true ∧
        (¬l.toNat ∈ (x1.task t).taken) ∧ x1.votedGrant t l.toNat = false) ∧
    (let s : State := cpuD 0 (List.replicate 16 0) (fun x => lk 31 none (x.modTask 3 (fun k =>
        { k with lset := 0x80000000 })));
      let r : CoreRef := A0;
      let t : Nat := 3;
      let l : BitVec 6 := 31;
      let x1 := (s.entered r t).cd r.die.idx;
      s.executes r t (encR 33 noReg noReg noReg 6 l.toNat) Perm.both = true ∧ (x1.lock l.toNat).en = true ∧ x1.mayLock
        (x1.task t).part l.toNat = true ∧ (x1.task t).part = 0 ∧ BitVec.getLsbD (x1.task t).lset l.toNat = true ∧
        (¬l.toNat ∈ (x1.task t).taken) ∧ x1.votedGrant t l.toNat = true) ∧
    (let s : State := cpuD 1 (List.replicate 16 0) (fun x => x.setLock 63
        { HwLock.off with en := true, part := 1, ceil := 20, holder := some 3, waiters := [4] });
      let r : CoreRef := A8;
      let t : Nat := 3;
      let l : BitVec 6 := 63;
      let w : Nat := 4;
      let o : Nat := 4;
      let x2 := (s.entered r t).cd r.die.idx;
      let x1 := x2.lock l.toNat;
      s.executes r t (encR 33 noReg noReg noReg 7 l.toNat) Perm.both = true ∧ x1.holder = some t ∧ 32 ≤ l.toNat ∧
        x2.best x1.waiters = some w ∧ o ∈ x1.waiters) ∧
    (let s : State := cpuD 0 (List.replicate 16 0) (lk 31 none);
      let r : CoreRef := A0;
      let t : Nat := 3;
      let l : BitVec 6 := 31;
      let x1 := (s.entered r t).cd r.die.idx;
      s.executes r t (encR 33 noReg noReg noReg 6 l.toNat) Perm.both = true ∧ (x1.lock l.toNat).en = true ∧ x1.mayLock
        (x1.task t).part l.toNat = true ∧ (x1.task t).part = 0 ∧ (BitVec.getLsbD (x1.task t).lset l.toNat = false ∨
        l.toNat ∈ (x1.task t).taken)) := by
  iterate 7 (refine ⟨by decide +kernel, ?_⟩)
  decide +kernel

theorem witness_SchedulerServices :
    (let s : State := svc 0 id [7, 0, 0, 10, 1, 0, 0, 0, 0, 1, 0, 0, 0, 0, 1, 16, 0, 16, 1, 16];
      let r : CoreRef := A0;
      let t : Nat := 3;
      let n : Nat := 5;
      let rd : Reg := g 2;
      let rb : Reg := g 2;
      let cause : Nat := 3;
      let cause2 : Nat := 3;
      let cause3 : Nat := 3;
      let cause4 : Nat := 3;
      let cause5 : Nat := 3;
      let x1 := BitVec.toNat (s.reg r t rb);
      let x2 := s.entered r t;
      s.executes r t (encR 33 rd noReg rb 0 0) Perm.both = true ∧ x2.blockCheck r.die.idx t true x1 64 = some cause ∧
        x2.blockCheck r.die.idx t true x1 64 = some cause2 ∧ x2.blockCheck r.die.idx t true x1 64 = some cause3 ∧
        x2.blockCheck r.die.idx t true x1 64 = some cause4 ∧ x2.blockCheck r.die.idx t true x1 64 = some cause5 ∧ 5 ≤ n) ∧
    (let s : State := cpuD 0 (glb 0x10000000 0x10003 0) holds;
      let r : CoreRef := A0;
      let t : Nat := 3;
      let n : Nat := 3;
      let rd : Reg := g 2;
      let ra : Reg := g 2;
      let rb : Reg := g 1;
      s.executes r t (encR 33 rd noReg rb 0 0) Perm.both = true ∧ (s.entered r t).blockCheck r.die.idx t true
        (BitVec.toNat (s.reg r t rb)) 64 = none ∧ (s.dev.cd r.die.idx).lineHeld (↑r.core) ((BitVec.toNat (s.reg r t rb)
        + 63) / 64) = true ∧ BitVec.toNat (s.reg r t ra) = 65536 + n ∧ s.executes r t (encR 33 rd ra rb 0 0) Perm.both =
        true) ∧
    (let s : State := cdA (svc 1 (fun x => x.setTask 4 { Task.empty with state := .dormant, part := 1 }) [4]) (fun x =>
        x.modCore 8 (fun c => { c with g := glb 0x11800000 0x10001 0 }));
      let r : CoreRef := A8;
      let t : Nat := 3;
      let n : Nat := 1;
      let rd : Reg := g 1;
      let ra : Reg := g 2;
      let rb : Reg := g 1;
      let f : Dev := ((s.entered r t).eccRead r.die.idx (BitVec.toNat (s.reg r t rb)) 64).getD s.dev;
      let f2 : Dev := ((s.entered r t).eccRead r.die.idx (BitVec.toNat (s.reg r t rb)) 64).getD s.dev;
      let f3 : Dev := ((s.entered r t).eccRead r.die.idx (BitVec.toNat (s.reg r t rb)) 64).getD s.dev;
      let f4 : Dev := ((s.entered r t).eccRead r.die.idx (BitVec.toNat (s.reg r t rb)) 64).getD s.dev;
      let f5 : Dev := ((s.entered r t).eccRead r.die.idx (BitVec.toNat (s.reg r t rb)) 64).getD s.dev;
      let f6 : Dev := ((s.entered r t).eccRead r.die.idx (BitVec.toNat (s.reg r t rb)) 64).getD s.dev;
      let x2 := BitVec.toNat (s.reg r t rb);
      let x1 := (s.entered r t).eccRead r.die.idx x2 64;
      let x3 := f2.advance r.die.idx t;
      let x4 := f3.advance r.die.idx t;
      let x5 := f4.advance r.die.idx t;
      let x6 := f5.advance r.die.idx t;
      let x7 := f6.advance r.die.idx t;
      let x8 := f.advance r.die.idx t;
      s.executes r t (encR 33 rd noReg rb 0 0) Perm.both = true ∧ (s.entered r t).blockCheck r.die.idx t true x2 64 =
        none ∧ (s.dev.cd r.die.idx).lineHeld (↑r.core) ((BitVec.toNat (s.reg r t rb) + 63) / 64) = false ∧ x1.isSome =
        true ∧ x8.svcReason r.die.idx (s.task r t).part 0 ((x8.cd r.die.idx).blockBytes x2 64) ≠ 0 ∧ x1.isSome = true ∧
        x3.svcReason r.die.idx (s.task r t).part 1 ((x3.cd r.die.idx).blockBytes x2 64) = 0 ∧ (s.task r t).part ≠ 0 ∧
        x1.isSome = true ∧ x4.svcReason r.die.idx (s.task r t).part 2 ((x4.cd r.die.idx).blockBytes x2 64) = 0 ∧
        x1.isSome = true ∧ x5.svcReason r.die.idx (s.task r t).part 3 ((x5.cd r.die.idx).blockBytes x2 64) ≠ 0 ∧
        x1.isSome = true ∧ x6.svcReason r.die.idx (s.task r t).part 4 ((x6.cd r.die.idx).blockBytes x2 64) ≠ 0 ∧
        BitVec.toNat (s.reg r t ra) = 65536 + n ∧ s.executes r t (encR 33 rd ra rb 0 0) Perm.both = true ∧ x1.isSome =
        true ∧ x7.svcReason r.die.idx (s.task r t).part n ((x7.cd r.die.idx).blockBytes x2 64) = 0) ∧
    (let s : State := svc 0 (fun x => { x.setTask 4 { Task.empty with state := .dormant } with vsBusy := [4] }) [4];
      let r : CoreRef := A0;
      let t : Nat := 3;
      let rd : Reg := g 1;
      let rb : Reg := g 1;
      let f2 : Dev := ((s.entered r t).eccRead r.die.idx (BitVec.toNat (s.reg r t rb)) 64).getD s.dev;
      let f3 : Dev := ((s.entered r t).eccRead r.die.idx (BitVec.toNat (s.reg r t rb)) 64).getD s.dev;
      let f4 : Dev := ((s.entered r t).eccRead r.die.idx (BitVec.toNat (s.reg r t rb)) 64).getD s.dev;
      let f5 : Dev := ((s.entered r t).eccRead r.die.idx (BitVec.toNat (s.reg r t rb)) 64).getD s.dev;
      let x1 := BitVec.toNat (s.reg r t rb);
      let x2 := (s.entered r t).eccRead r.die.idx x1 64;
      let x3 := f2.advance r.die.idx t;
      let x4 := f3.advance r.die.idx t;
      let x5 := f4.advance r.die.idx t;
      let x6 := f5.advance r.die.idx t;
      s.executes r t (encR 33 rd noReg rb 0 0) Perm.both = true ∧ (s.entered r t).blockCheck r.die.idx t true x1 64 =
        none ∧ (s.dev.cd r.die.idx).lineHeld (↑r.core) ((BitVec.toNat (s.reg r t rb) + 63) / 64) = false ∧ x2.isSome =
        true ∧ x3.svcReason r.die.idx (s.task r t).part 1 ((x3.cd r.die.idx).blockBytes x1 64) = 0 ∧ (s.task r t).part =
        0 ∧ x2.isSome = true ∧ x4.svcReason r.die.idx (s.task r t).part 2 ((x4.cd r.die.idx).blockBytes x1 64) = 0 ∧
        x2.isSome = true ∧ x5.svcReason r.die.idx (s.task r t).part 3 ((x5.cd r.die.idx).blockBytes x1 64) = 0 ∧
        x2.isSome = true ∧ x6.svcReason r.die.idx (s.task r t).part 4 ((x6.cd r.die.idx).blockBytes x1 64) = 0) ∧
    (let s : State := svc 1 id [32, 0, 20, 0, 1];
      let r : CoreRef := A8;
      let t : Nat := 3;
      let rd : Reg := g 2;
      let rb : Reg := g 1;
      let f2 : Dev := ((s.entered r t).eccRead r.die.idx (BitVec.toNat (s.reg r t rb)) 64).getD s.dev;
      let f3 : Dev := ((s.entered r t).eccRead r.die.idx (BitVec.toNat (s.reg r t rb)) 64).getD s.dev;
      let f5 : Dev := ((s.entered r t).eccRead r.die.idx (BitVec.toNat (s.reg r t rb)) 64).getD s.dev;
      let x1 := BitVec.toNat (s.reg r t rb);
      let x2 := (s.entered r t).eccRead r.die.idx x1 64;
      let x3 := f2.advance r.die.idx t;
      let x4 := f3.advance r.die.idx t;
      let x5 := f5.advance r.die.idx t;
      s.executes r t (encR 33 rd noReg rb 0 0) Perm.both = true ∧ (s.entered r t).blockCheck r.die.idx t true x1 64 =
        none ∧ (s.dev.cd r.die.idx).lineHeld (↑r.core) ((BitVec.toNat (s.reg r t rb) + 63) / 64) = false ∧ x2.isSome =
        true ∧ x3.svcReason r.die.idx (s.task r t).part 1 ((x3.cd r.die.idx).blockBytes x1 64) ≠ 0 ∧ x2.isSome = true ∧
        x4.svcReason r.die.idx (s.task r t).part 2 ((x4.cd r.die.idx).blockBytes x1 64) ≠ 0 ∧ x2.isSome = true ∧
        x5.svcReason r.die.idx (s.task r t).part 4 ((x5.cd r.die.idx).blockBytes x1 64) = 0 ∧ (s.task r t).part ≠ 0) ∧
    (let s : State := svc 1 id [7, 0, 1, 10, 0, 0, 0, 0, 0, 1, 0, 0, 0, 16, 128, 17, 0, 32, 128, 17];
      let r : CoreRef := A8;
      let t : Nat := 3;
      let rd : Reg := g 2;
      let rb : Reg := g 1;
      let f : Dev := ((s.entered r t).eccRead r.die.idx (BitVec.toNat (s.reg r t rb)) 64).getD s.dev;
      let x1 := BitVec.toNat (s.reg r t rb);
      let x2 := f.advance r.die.idx t;
      s.executes r t (encR 33 rd noReg rb 0 0) Perm.both = true ∧ (s.entered r t).blockCheck r.die.idx t true x1 64 =
        none ∧ (s.dev.cd r.die.idx).lineHeld (↑r.core) ((BitVec.toNat (s.reg r t rb) + 63) / 64) = false ∧ ((s.entered r
        t).eccRead r.die.idx x1 64).isSome = true ∧ x2.svcReason r.die.idx (s.task r t).part 0 ((x2.cd
        r.die.idx).blockBytes x1 64) = 0 ∧ (s.task r t).part ≠ 0) ∧
    (let s : State := svc 1 id [128, 0, 4, 0, 1];
      let r : CoreRef := A8;
      let t : Nat := 3;
      let rd : Reg := g 1;
      let rb : Reg := g 1;
      let f4 : Dev := ((s.entered r t).eccRead r.die.idx (BitVec.toNat (s.reg r t rb)) 64).getD s.dev;
      let x1 := BitVec.toNat (s.reg r t rb);
      let x2 := f4.advance r.die.idx t;
      s.executes r t (encR 33 rd noReg rb 0 0) Perm.both = true ∧ (s.entered r t).blockCheck r.die.idx t true x1 64 =
        none ∧ (s.dev.cd r.die.idx).lineHeld (↑r.core) ((BitVec.toNat (s.reg r t rb) + 63) / 64) = false ∧ ((s.entered r
        t).eccRead r.die.idx x1 64).isSome = true ∧ x2.svcReason r.die.idx (s.task r t).part 3 ((x2.cd
        r.die.idx).blockBytes x1 64) = 0 ∧ (s.task r t).part ≠ 0) ∧
    (let s : State := cpu 1 (glb 0x11800000 0x10005 0);
      let r : CoreRef := A8;
      let t : Nat := 3;
      let n : Nat := 5;
      let rd : Reg := g 2;
      let ra : Reg := g 2;
      let rb : Reg := g 2;
      let cause6 : Nat := 3;
      BitVec.toNat (s.reg r t ra) = 65536 + n ∧ s.executes r t (encR 33 rd ra rb 0 0) Perm.both = true ∧ (s.entered r
        t).blockCheck r.die.idx t true (BitVec.toNat (s.reg r t rb)) 64 = some cause6) ∧
    (let s : State := cpu 0 (glb 0x10000000 0x10003 0);
      let r : CoreRef := A0;
      let t : Nat := 3;
      let n : Nat := 3;
      let rd : Reg := g 2;
      let ra : Reg := g 2;
      let rb : Reg := g 1;
      let f6 : Dev := ((s.entered r t).eccRead r.die.idx (BitVec.toNat (s.reg r t rb)) 64).getD s.dev;
      let x1 := BitVec.toNat (s.reg r t rb);
      let x2 := f6.advance r.die.idx t;
      BitVec.toNat (s.reg r t ra) = 65536 + n ∧ s.executes r t (encR 33 rd ra rb 0 0) Perm.both = true ∧ (s.entered r
        t).blockCheck r.die.idx t true x1 64 = none ∧ (s.dev.cd r.die.idx).lineHeld (↑r.core) ((BitVec.toNat (s.reg r t
        rb) + 63) / 64) = false ∧ ((s.entered r t).eccRead r.die.idx x1 64).isSome = true ∧ x2.svcReason r.die.idx
        (s.task r t).part n ((x2.cd r.die.idx).blockBytes x1 64) = 0 ∧ (s.task r t).part = 0) ∧
    (let s : State := cpu 1 (glb 0x11800000 0x10005 0);
      let r : CoreRef := A8;
      let t : Nat := 3;
      let n : Nat := 5;
      let rd : Reg := g 2;
      let ra : Reg := g 2;
      let rb : Reg := g 1;
      let f6 : Dev := ((s.entered r t).eccRead r.die.idx (BitVec.toNat (s.reg r t rb)) 64).getD s.dev;
      let x1 := BitVec.toNat (s.reg r t rb);
      let x2 := f6.advance r.die.idx t;
      BitVec.toNat (s.reg r t ra) = 65536 + n ∧ s.executes r t (encR 33 rd ra rb 0 0) Perm.both = true ∧ (s.entered r
        t).blockCheck r.die.idx t true x1 64 = none ∧ (s.dev.cd r.die.idx).lineHeld (↑r.core) ((BitVec.toNat (s.reg r t
        rb) + 63) / 64) = false ∧ ((s.entered r t).eccRead r.die.idx x1 64).isSome = true ∧ x2.svcReason r.die.idx
        (s.task r t).part n ((x2.cd r.die.idx).blockBytes x1 64) ≠ 0) ∧
    (let s : State := svc 0 id [7, 0, 0, 10, 1, 0, 0, 0, 0, 1, 0, 0, 0, 0, 1, 16, 0, 16, 1, 16];
      let r : CoreRef := A0;
      let t : Nat := 3;
      let rd : Reg := g 2;
      let rb : Reg := g 1;
      let f : Dev := ((s.entered r t).eccRead r.die.idx (BitVec.toNat (s.reg r t rb)) 64).getD s.dev;
      let x1 := BitVec.toNat (s.reg r t rb);
      let x2 := f.advance r.die.idx t;
      s.executes r t (encR 33 rd noReg rb 0 0) Perm.both = true ∧ (s.entered r t).blockCheck r.die.idx t true x1 64 =
        none ∧ (s.dev.cd r.die.idx).lineHeld (↑r.core) ((BitVec.toNat (s.reg r t rb) + 63) / 64) = false ∧ ((s.entered r
        t).eccRead r.die.idx x1 64).isSome = true ∧ x2.svcReason r.die.idx (s.task r t).part 0 ((x2.cd
        r.die.idx).blockBytes x1 64) = 0 ∧ (s.task r t).part = 0) := by
  iterate 10 (refine ⟨by decide +kernel, ?_⟩)
  decide +kernel

theorem witness_TallyLoadResults :
    (let s : State := cpuD 1 (glb 0x3FFF 0x4000 0x402F) (fun x => { x with tallies := [ts] });
      let r : CoreRef := A8;
      let t : Nat := 3;
      let rd : Reg := g 1;
      let ra : Reg := g 3;
      let k : BitVec 6 := 0;
      let set : TallySet := ts;
      s.executes r t (encR 34 rd ra noReg 0 k.toNat) Perm.both = true ∧ (s.dev.cd r.die.idx).setOf (s.task r t).cycle =
        some set ∧ k = 0 ∧ 16384 ≤ BitVec.toNat (s.reg r t ra) ∧ BitVec.toNat (s.reg r t ra) < 16432) ∧
    (let s : State := cpuD 0 (glb 0x7FFF 0x4030 0xFFFF) (fun x => { x with tallies := [ts] });
      let r : CoreRef := A0;
      let t : Nat := 3;
      let rd : Reg := g 2;
      let ra : Reg := g 3;
      let k : BitVec 6 := 0;
      let set : TallySet := ts;
      s.executes r t (encR 34 rd ra noReg 0 k.toNat) Perm.both = true ∧ (s.dev.cd r.die.idx).setOf (s.task r t).cycle =
        some set ∧ k = 0 ∧ 16432 ≤ BitVec.toNat (s.reg r t ra) ∧ BitVec.toNat (s.reg r t ra) < 65536 ∧ BitVec.toNat
        (s.reg r t ra) ≠ 32767) ∧
    (let s : State := cpu 0 (glb 0x3FFF 0xFFFF 0x10000);
      let r : CoreRef := A0;
      let t : Nat := 3;
      let rd : Reg := g 3;
      let ra : Reg := g 3;
      let k : BitVec 6 := 1;
      s.executes r t (encR 34 rd ra noReg 0 k.toNat) Perm.both = true ∧ (65536 ≤ BitVec.toNat (s.reg r t ra) ∨
        BitVec.toNat (s.reg r t ra) < 16384 ∧ 7 < k.toNat ∨ 16384 ≤ BitVec.toNat (s.reg r t ra) ∧ 0 < k.toNat)) ∧
    (let s : State := cpuD 1 (glb 0x3FFF 0x4000 0x402F) (fun x => { x with tallies := [ts] });
      let r : CoreRef := A8;
      let t : Nat := 3;
      let rd : Reg := g 1;
      let ra : Reg := g 1;
      let k : BitVec 6 := 7;
      let set : TallySet := ts;
      s.executes r t (encR 34 rd ra noReg 0 k.toNat) Perm.both = true ∧ (s.dev.cd r.die.idx).setOf (s.task r t).cycle =
        some set ∧ BitVec.toNat (s.reg r t ra) < 16384 ∧ k.toNat < 8) ∧
    (let s : State := cpu 0 (glb 0x3FFF 0xFFFF 0x10000);
      let r : CoreRef := A0;
      let t : Nat := 3;
      let rd : Reg := g 1;
      let ra : Reg := g 2;
      let k : BitVec 6 := 0;
      s.executes r t (encR 34 rd ra noReg 0 k.toNat) Perm.both = true ∧ BitVec.toNat (s.reg r t ra) < 65536 ∧
        (BitVec.toNat (s.reg r t ra) < 16384 ∧ k.toNat < 8 ∨ k = 0) ∧ (s.dev.cd r.die.idx).setOf (s.task r t).cycle =
        none) ∧
    (let s : State := cpuD 0 (glb 0x7FFF 0x4030 0xFFFF) (fun x => { x with tallies := [ts] });
      let r : CoreRef := A0;
      let t : Nat := 3;
      let rd : Reg := g 3;
      let ra : Reg := g 1;
      let k : BitVec 6 := 0;
      let set : TallySet := ts;
      s.executes r t (encR 34 rd ra noReg 0 k.toNat) Perm.both = true ∧ (s.dev.cd r.die.idx).setOf (s.task r t).cycle =
        some set ∧ k = 0 ∧ BitVec.toNat (s.reg r t ra) = 32767) := by
  iterate 5 (refine ⟨by decide +kernel, ?_⟩)
  decide +kernel

theorem witness_VoteImageResults :
    (let s : State := cdA (vote (glb 11 0x10000000 0xFFFF) id id) (fun x => { x with ecc := [(0x10000000, 2)] });
      let r : CoreRef := A0;
      let t : Nat := 3;
      let rd : Reg := g 2;
      let ra : Reg := g 1;
      let rb : Reg := g 2;
      let set : TallySet := { ts with map := [(128, 0x200)] };
      let n : Nat := 60;
      let q : Nat := 11;
      let cause2 : Nat := 3;
      let x1 := s.entered r t;
      let x3 := BitVec.toNat (s.reg r t ra);
      let x4 := BitVec.toNat (s.reg r t rb);
      let x5 := x1.cd r.die.idx;
      let x2 := x5.image (s.task r t).cycle;
      (s.dev.cd r.die.idx).setOf (s.task r t).cycle = some set ∧ s.executes r t (encR 34 rd ra rb 1 0) Perm.voted = true
        ∧ BitVec.toNat (s.reg r t ra) < 65536 ∧ x2.closed = false ∧ dstBytes set x3 = some n ∧ 0 < n ∧ x1.blockCheck
        r.die.idx t false x4 n = none ∧ x1.eccRead r.die.idx x4 n = none ∧ BitVec.toNat (s.reg r t ra) = q ∧ q < 12 ∧
        s.executes r t (encR 34 rd ra noReg 2 0) Perm.voted = true ∧ 2 + x5.engCount + x2.mst.length ≤ mirBudget
        set.period ∧ x1.blockCheck r.die.idx t false x3 64 = some cause2 ∧ s.executes r t (encR 34 rd noReg noReg 3 0)
        Perm.voted = true) ∧
    (let s : State := vote (glb 11 0x10000000 0xFFFF) id (fun g => { g with closed := true });
      let r : CoreRef := A0;
      let t : Nat := 3;
      let rd : Reg := g 2;
      let ra : Reg := g 2;
      let rb : Reg := g 1;
      let set : TallySet := { ts with map := [(128, 0x200)] };
      (s.dev.cd r.die.idx).setOf (s.task r t).cycle = some set ∧ s.executes r t (encR 34 rd ra rb 1 0) Perm.voted = true
        ∧ 65536 ≤ BitVec.toNat (s.reg r t ra) ∧ s.executes r t (encR 34 rd ra noReg 2 0) Perm.voted = true ∧
        (((s.entered r t).cd r.die.idx).image (s.task r t).cycle).closed = true ∧ s.executes r t (encR 34 rd noReg noReg
        3 0) Perm.voted = true) ∧
    (let s : State := cdA (vote (glb 11 0x10000000 0xFFFF) id id) (fun x =>
        { x with tallies := x.tallies.map (fun e => { e with period := 1 }) });
      let r : CoreRef := A0;
      let t : Nat := 3;
      let rd : Reg := g 2;
      let ra : Reg := g 3;
      let rb : Reg := g 3;
      let set : TallySet := { ts with map := [(128, 0x200)], period := 1 };
      let x1 := (s.entered r t).cd r.die.idx;
      let x2 := x1.image (s.task r t).cycle;
      (s.dev.cd r.die.idx).setOf (s.task r t).cycle = some set ∧ s.executes r t (encR 34 rd ra rb 1 0) Perm.voted = true
        ∧ BitVec.toNat (s.reg r t ra) < 65536 ∧ x2.closed = false ∧ dstBytes set (BitVec.toNat (s.reg r t ra)) = none ∧
        s.executes r t (encR 34 rd ra noReg 2 0) Perm.voted = true ∧ mirBudget set.period < 2 + x1.engCount +
        x2.mst.length) ∧
    (let s : State := cdA (vote (glb 0x1002 0x117FFFC0 0x3002) id id) (fun x => { x with ecc := [(0x117FFFC0, 2)] });
      let r : CoreRef := A0;
      let t : Nat := 3;
      let rd : Reg := g 3;
      let ra : Reg := g 2;
      let set : TallySet := { ts with map := [(128, 0x200)] };
      let x3 := BitVec.toNat (s.reg r t ra);
      let x4 := s.entered r t;
      let x1 := x4.cd r.die.idx;
      let x2 := x1.image (s.task r t).cycle;
      (s.dev.cd r.die.idx).setOf (s.task r t).cycle = some set ∧ s.executes r t (encR 34 rd ra noReg 2 0) Perm.voted =
        true ∧ x2.closed = false ∧ 2 + x1.engCount + x2.mst.length ≤ mirBudget set.period ∧ x4.blockCheck r.die.idx t
        false x3 64 = none ∧ x4.eccRead r.die.idx x3 64 = none) ∧
    (let s : State := vote (glb 11 0x10000000 0xFFFF) id id;
      let r : CoreRef := A0;
      let t : Nat := 3;
      let rd : Reg := g 3;
      let ra : Reg := g 2;
      let set : TallySet := { ts with map := [(128, 0x200)] };
      let x3 := BitVec.toNat (s.reg r t ra);
      let x4 := s.entered r t;
      let x1 := x4.cd r.die.idx;
      let x2 := x1.image (s.task r t).cycle;
      (s.dev.cd r.die.idx).setOf (s.task r t).cycle = some set ∧ s.executes r t (encR 34 rd ra noReg 2 0) Perm.voted =
        true ∧ x2.closed = false ∧ 2 + x1.engCount + x2.mst.length ≤ mirBudget set.period ∧ x4.blockCheck r.die.idx t
        false x3 64 = none ∧ (x4.eccRead r.die.idx x3 64).isSome = true) ∧
    (let s : State := vote (glb 0x1002 0x117FFFC0 0x3002) id id;
      let r : CoreRef := A0;
      let t : Nat := 3;
      let rd : Reg := g 1;
      let ra : Reg := g 3;
      let rb : Reg := g 1;
      let set : TallySet := { ts with map := [(128, 0x200)] };
      (s.dev.cd r.die.idx).setOf (s.task r t).cycle = some set ∧ s.executes r t (encR 34 rd ra rb 1 0) Perm.voted = true
        ∧ BitVec.toNat (s.reg r t ra) < 65536 ∧ (((s.entered r t).cd r.die.idx).image (s.task r t).cycle).closed = false
        ∧ dstBytes set (BitVec.toNat (s.reg r t ra)) = some 0) ∧
    (let s : State := vote (glb 11 0x10000000 0xFFFF) id (fun g => { g with closed := true });
      let r : CoreRef := A0;
      let t : Nat := 3;
      let rd : Reg := g 2;
      let ra : Reg := g 1;
      let rb : Reg := g 2;
      let set : TallySet := { ts with map := [(128, 0x200)] };
      (s.dev.cd r.die.idx).setOf (s.task r t).cycle = some set ∧ s.executes r t (encR 34 rd ra rb 1 0) Perm.voted = true
        ∧ BitVec.toNat (s.reg r t ra) < 65536 ∧ (((s.entered r t).cd r.die.idx).image (s.task r t).cycle).closed = true) ∧
    (let s : State := cdA (vote (glb 11 0x10000000 0xFFFF) id id) (fun x =>
        { x with tallies := x.tallies.map (fun e => { e with period := 1 }) });
      let r : CoreRef := A0;
      let t : Nat := 3;
      let rd : Reg := g 1;
      let ra : Reg := g 1;
      let rb : Reg := g 3;
      let set : TallySet := { ts with map := [(128, 0x200)], period := 1 };
      let n : Nat := 60;
      let cause : Nat := 3;
      (s.dev.cd r.die.idx).setOf (s.task r t).cycle = some set ∧ s.executes r t (encR 34 rd ra rb 1 0) Perm.voted = true
        ∧ BitVec.toNat (s.reg r t ra) < 65536 ∧ (((s.entered r t).cd r.die.idx).image (s.task r t).cycle).closed = false
        ∧ dstBytes set (BitVec.toNat (s.reg r t ra)) = some n ∧ 0 < n ∧ (s.entered r t).blockCheck r.die.idx t false
        (BitVec.toNat (s.reg r t rb)) n = some cause) ∧
    (let s : State := vote (glb 11 0x10000000 0xFFFF) id id;
      let r : CoreRef := A0;
      let t : Nat := 3;
      let rd : Reg := g 1;
      let ra : Reg := g 1;
      let rb : Reg := g 2;
      let set : TallySet := { ts with map := [(128, 0x200)] };
      let n : Nat := 60;
      let x1 := BitVec.toNat (s.reg r t rb);
      let x2 := s.entered r t;
      (s.dev.cd r.die.idx).setOf (s.task r t).cycle = some set ∧ s.executes r t (encR 34 rd ra rb 1 0) Perm.voted = true
        ∧ BitVec.toNat (s.reg r t ra) < 65536 ∧ ((x2.cd r.die.idx).image (s.task r t).cycle).closed = false ∧ dstBytes
        set (BitVec.toNat (s.reg r t ra)) = some n ∧ 0 < n ∧ x2.blockCheck r.die.idx t false x1 n = none ∧ (x2.eccRead
        r.die.idx x1 n).isSome = true) := by
  iterate 8 (refine ⟨by decide +kernel, ?_⟩)
  decide +kernel

theorem witness_SelectAndEngineResults :
    (let s : State := cpu 0 (glb 11 0x10000000 0x117FFFB0);
      let r : CoreRef := A0;
      let t : Nat := 3;
      let rd : Reg := g 2;
      let ra : Reg := g 3;
      let rb : Reg := g 3;
      let k : BitVec 6 := 3;
      s.executes r t (encR 34 rd ra rb 4 0) Perm.voted = true ∧ 12 ≤ BitVec.toNat (s.reg r t ra) ∧ k.toNat < 4 ∧
        s.executes r t (encR 34 rd noReg noReg 5 k.toNat) Perm.voted = true ∧ s.dev.fbit
        ({ LE_STAT_KICKED r.die.idx with lo := k.toNat, width := 1 }) = false ∧ s.executes r t (encR 34 rd ra noReg 6
        k.toNat) Perm.both = true ∧ (k = 0 ∧ 256 ≤ BitVec.toNat (s.reg r t ra) ∨ k = 1 ∧ 32 ≤ BitVec.toNat (s.reg r t
        ra) ∨ 1 < k.toNat ∧ 64 ≤ BitVec.toNat (s.reg r t ra) ∨ 3 < k.toNat)) ∧
    (let s : State := st ((cpu 0 (List.replicate 16 0)).dev.fset ⟨LE_STAT 0, 0, 4⟩ 15);
      let r : CoreRef := A0;
      let t : Nat := 3;
      let rd : Reg := g 2;
      let ra : Reg := g 2;
      let rb : Reg := g 3;
      let k : BitVec 6 := 0;
      let cause : Nat := 7;
      s.executes r t (encR 34 rd ra rb 4 0) Perm.voted = true ∧ BitVec.toNat (s.reg r t ra) < 12 ∧ (s.entered r
        t).blockCheck r.die.idx t true (BitVec.toNat (s.reg r t rd)) 80 = some cause ∧ k.toNat < 4 ∧ s.executes r t
        (encR 34 rd noReg noReg 5 k.toNat) Perm.voted = true ∧ s.dev.fbit
        ({ LE_STAT_KICKED r.die.idx with lo := k.toNat, width := 1 }) = true ∧ s.executes r t (encR 34 rd ra noReg 6
        k.toNat) Perm.both = true ∧ k = 0 ∧ BitVec.toNat (s.reg r t ra) < 256) ∧
    (let s : State := cpuD 0 (glb 11 0x10000000 0x117FFFB0) (fun x => { x with ecc := [(0x10000000, 2)] });
      let r : CoreRef := A0;
      let t : Nat := 3;
      let rd : Reg := g 2;
      let ra : Reg := g 1;
      let rb : Reg := g 1;
      let k : BitVec 6 := 3;
      let cause2 : Nat := 3;
      s.executes r t (encR 34 rd ra rb 4 0) Perm.voted = true ∧ BitVec.toNat (s.reg r t ra) < 12 ∧ (s.entered r
        t).blockCheck r.die.idx t true (BitVec.toNat (s.reg r t rd)) 80 = none ∧ (s.entered r t).blockCheck r.die.idx t
        false (BitVec.toNat (s.reg r t rb)) 16 = some cause2 ∧ s.executes r t (encR 34 rd ra noReg 6 k.toNat) Perm.both
        = true ∧ k = 3 ∧ BitVec.toNat (s.reg r t ra) < 64) ∧
    (let s : State := cpu 0 (glb 11 0x10000000 0x117FFFB0);
      let r : CoreRef := A0;
      let t : Nat := 3;
      let rd : Reg := g 2;
      let ra : Reg := g 1;
      let rb : Reg := g 3;
      let k : BitVec 6 := 2;
      let a : Nat := 0;
      let x1 := s.entered r t;
      let x2 := BitVec.toNat (s.reg r t rd);
      let x3 := BitVec.toNat (s.reg r t rb);
      s.executes r t (encR 34 rd ra rb 4 0) Perm.voted = true ∧ BitVec.toNat (s.reg r t ra) < 12 ∧ x1.blockCheck
        r.die.idx t true x2 80 = none ∧ x1.blockCheck r.die.idx t false x3 16 = none ∧ (x1.cd r.die.idx).rangeHeld
        (↑r.core) x2 80 = false ∧ (x1.eccRead r.die.idx x3 16).isSome = true ∧ (a < BitVec.toNat (s.reg r t rd) ∨
        BitVec.toNat (s.reg r t rd) + 80 ≤ a) ∧ s.executes r t (encR 34 rd ra noReg 6 k.toNat) Perm.both = true ∧ k = 2
        ∧ BitVec.toNat (s.reg r t ra) < 64) ∧
    (let s : State := cpuD 0 (glb 11 0x10000000 0x117FFFB0) (fun x => { x with ecc := [(0x10000000, 2)] });
      let r : CoreRef := A0;
      let t : Nat := 3;
      let rd : Reg := g 2;
      let ra : Reg := g 1;
      let rb : Reg := g 2;
      let k : BitVec 6 := 1;
      let x1 := s.entered r t;
      let x2 := BitVec.toNat (s.reg r t rd);
      let x3 := BitVec.toNat (s.reg r t rb);
      s.executes r t (encR 34 rd ra rb 4 0) Perm.voted = true ∧ BitVec.toNat (s.reg r t ra) < 12 ∧ x1.blockCheck
        r.die.idx t true x2 80 = none ∧ x1.blockCheck r.die.idx t false x3 16 = none ∧ (x1.cd r.die.idx).rangeHeld
        (↑r.core) x2 80 = false ∧ x1.eccRead r.die.idx x3 16 = none ∧ s.executes r t (encR 34 rd ra noReg 6 k.toNat)
        Perm.both = true ∧ k = 1 ∧ BitVec.toNat (s.reg r t ra) < 32) ∧
    (let s : State := cpuD 0 (glb 11 0x10000000 0x117FFFB0) holds;
      let r : CoreRef := A0;
      let t : Nat := 3;
      let rd : Reg := g 3;
      let ra : Reg := g 1;
      let rb : Reg := g 3;
      let x1 := BitVec.toNat (s.reg r t rd);
      let x2 := s.entered r t;
      s.executes r t (encR 34 rd ra rb 4 0) Perm.voted = true ∧ BitVec.toNat (s.reg r t ra) < 12 ∧ x2.blockCheck
        r.die.idx t true x1 80 = none ∧ x2.blockCheck r.die.idx t false (BitVec.toNat (s.reg r t rb)) 16 = none ∧ (x2.cd
        r.die.idx).rangeHeld (↑r.core) x1 80 = true) := by
  iterate 5 (refine ⟨by decide +kernel, ?_⟩)
  decide +kernel

theorem witness_TransactionInstructionResults :
    (let s : State := tagged (some 0x99);
      let r : CoreRef := A8;
      let t : Nat := 3;
      let rd : Reg := g 1;
      let ra : Reg := g 3;
      let rb : Reg := g 2;
      let q : TxnRef := { tag := 3, gen := 2, done := none, waits := false };
      s.executes r t (encR 35 rd ra rb 0 0) Perm.nonVoted = true ∧ BitVec.toNat (s.reg r t ra) < 2 ^ 32 ∧ BitVec.toNat
        (s.reg r t ra) / 2 ^ 15 % 2 = 0 ∧ (s.dev.txnReasons (decide (8 ≤ (List.filter (fun q => q.done.isNone) (s.task r
        t).txns).length)) (BitVec.toNat (s.reg r t ra) % 2 ^ 14) (BitVec.toNat (s.reg r t ra) / 2 ^ 16 % 2 ^ 16) ≠ []) ∧
        s.executes r t (encR 35 rd ra noReg 1 0) Perm.nonVoted = true ∧ (List.find? (fun q => decide (BitVec.toNat
        (s.reg r t ra) = q.tag + 1024 * q.gen)) (s.task r t).txns = none)) ∧
    (let s : State := tagged none;
      let r : CoreRef := A8;
      let t : Nat := 3;
      let rd : Reg := g 2;
      let ra : Reg := g 2;
      let rb : Reg := g 1;
      let q : TxnRef := { tag := 3, gen := 2, done := none, waits := false };
      s.executes r t (encR 35 rd ra rb 0 0) Perm.nonVoted = true ∧ BitVec.toNat (s.reg r t ra) < 2 ^ 32 ∧ BitVec.toNat
        (s.reg r t ra) / 2 ^ 15 % 2 = 0 ∧ (s.dev.txnReasons (decide (8 ≤ (List.filter (fun q => q.done.isNone) (s.task r
        t).txns).length)) (BitVec.toNat (s.reg r t ra) % 2 ^ 14) (BitVec.toNat (s.reg r t ra) / 2 ^ 16 % 2 ^ 16) = [])) ∧
    (let s : State := cpu 1 (glb 0x100000000 0x8000 0xFFFF7FFF);
      let r : CoreRef := A8;
      let t : Nat := 3;
      let rd : Reg := g 3;
      let ra : Reg := g 2;
      let rb : Reg := g 3;
      s.executes r t (encR 35 rd ra rb 0 0) Perm.nonVoted = true ∧ (2 ^ 32 ≤ BitVec.toNat (s.reg r t ra) ∨ BitVec.toNat
        (s.reg r t ra) / 2 ^ 15 % 2 = 1)) ∧
    (let s : State := tagged none;
      let r : CoreRef := A8;
      let t : Nat := 3;
      let rd : Reg := g 2;
      let ra : Reg := g 1;
      let q : TxnRef := { tag := 3, gen := 2, done := none, waits := false };
      let q2 : TxnRef := { tag := 3, gen := 2, done := none, waits := false };
      s.executes r t (encR 35 rd ra noReg 1 0) Perm.nonVoted = true ∧ (List.find? (fun q => decide (BitVec.toNat (s.reg
        r t ra) = q.tag + 1024 * q.gen)) (s.task r t).txns = some q2) ∧ (s.dev.rd (s.dev.rdOfTag q2.tag)).gen q2.tag =
        q2.gen ∧ q2.done = none ∧ (s.task r t).deleting = false) ∧
    (let s : State := tagged (some 0x99);
      let r : CoreRef := A8;
      let t : Nat := 3;
      let rd : Reg := g 1;
      let ra : Reg := g 1;
      let q : TxnRef := { tag := 3, gen := 2, done := some 0x99, waits := false };
      let v : W64 := 0x99;
      s.executes r t (encR 35 rd ra noReg 1 0) Perm.nonVoted = true ∧ (List.find? (fun q => decide (BitVec.toNat (s.reg
        r t ra) = q.tag + 1024 * q.gen)) (s.task r t).txns = some q) ∧ (s.dev.rd (s.dev.rdOfTag q.tag)).gen q.tag =
        q.gen ∧ q.done = some v) := by
  iterate 4 (refine ⟨by decide +kernel, ?_⟩)
  decide +kernel

theorem witness_CellProtectionEvents :
    (let s : State := cel [] (prot (fun x => { x with bfired := true, pulse := 1 }));
      let p : Place := 0;
      let pairB : Bool := false;
      let level : Bool := true;
      let code : BitVec 12 := 2047;
      let held : Nat := 0;
      let x1 := BitVec.toNat (s.dev.cell p).prot.slcvSet.fst;
      s.cellOn p = true ∧ (¬(level ≠ (s.dev.cell p).fbit SRB_GD_CFG_DSPOL ∧ 250 * (s.dev.cell p).fget SRB_GD_CFG_FILT <
        (s.dev.cell p).now40 - match if (pairB != (s.dev.cell p).pwm.swap) = true then (s.dev.cell p).pwm.onB else
        (s.dev.cell p).pwm.onA with
        | some t => max ((s.dev.cell p).now40 - 25 * held) (t + 1000 * (s.dev.cell p).fget SRB_GD_CFG_MASK)
        | none => (s.dev.cell p).now40 - 25 * held)) ∧ (s.dev.cell p).balls = none ∧ ((s.dev.cell p).prot.pulse = 1 ∨
        (s.dev.cell p).prot.pulse = 2) ∧ (level = true ∨ ¬((s.dev.cell p).prot.pulse = 1 ∨ (s.dev.cell p).prot.pulse =
        2)) ∧ ((s.dev.cell p).prot.slcv = true ∨ code.toInt ≤ (fun lo => sx 12 (bitsOf x1 lo 12)) 4 ∨ held ≤ 10 * bitsOf
        (BitVec.toNat (s.dev.cell p).prot.slcvSet.snd) 0 8) ∧ ((s.dev.cell p).prot.slcv = false ∨ code.toInt ≤ (fun lo
        => sx 12 (bitsOf x1 lo 12)) 20 ∨ held < 5000) ∧ (s.dev.cell p).prot.pulse = 1 ∧ (s.dev.cell p).prot.bfired =
        true ∧ (s.dev.cell p).prot.bypConf = false ∧ ((s.dev.cell p).prot.pulse = 1 ∨ (s.dev.cell p).prot.pulse = 3) ∧
        ((s.dev.cell p).cfgd = false ∨ level = (s.dev.cell p).fbit SRB_BYP_CFG_SPOL)) ∧
    (let s : State := cel [(SRB_CELL_CFG_CFGD, 1)] (fun c =>
        { prot (fun x => { x with bfired := true, pulse := 4 }) c with pwm := { c.pwm with hiz := false } });
      let p : Place := 0;
      let pairB : Bool := false;
      let level : Bool := true;
      let g : Gate := .gbL;
      let code : BitVec 12 := 2047;
      let held : Nat := 50000;
      let w : BitVec 4 := 0;
      s.cellOn p = true ∧ (level ≠ (s.dev.cell p).fbit SRB_GD_CFG_DSPOL ∧ 250 * (s.dev.cell p).fget SRB_GD_CFG_FILT <
        (s.dev.cell p).now40 - match if (pairB != (s.dev.cell p).pwm.swap) = true then (s.dev.cell p).pwm.onB else
        (s.dev.cell p).pwm.onA with
        | some t => max ((s.dev.cell p).now40 - 25 * held) (t + 1000 * (s.dev.cell p).fget SRB_GD_CFG_MASK)
        | none => (s.dev.cell p).now40 - 25 * held) ∧ ((s.dev.cell p).prot.semi = false ∨ (s.dev.cell p).cfgd = false) ∧
        (s.dev.cell p).balls = some w ∧ w.getLsbD g.idx ≠ level ∧ (s.dev.cell p).prot.slcv = false ∧ ((fun lo => sx 12
        (bitsOf (BitVec.toNat (s.dev.cell p).prot.slcvSet.fst) lo 12)) 4 < code.toInt) ∧ 10 * bitsOf (BitVec.toNat
        (s.dev.cell p).prot.slcvSet.snd) 0 8 < held ∧ (s.dev.cell p).cfgd = true ∧ (¬((s.dev.cell p).prot.pulse = 1 ∨
        (s.dev.cell p).prot.pulse = 2)) ∧ (s.dev.cell p).prot.bfired = true ∧ (s.dev.cell p).prot.bypConf = false ∧
        ((s.dev.cell p).prot.pulse = 2 ∨ (s.dev.cell p).prot.pulse = 4) ∧ (level != (s.dev.cell p).fbit
        SRB_BYP_CFG_SPOL) = true) ∧
    (let s : State := cel [(SRB_CELL_CFG_CFGD, 1)] (prot (fun x => { x with semi := true, slcv := true }));
      let p : Place := 0;
      let pairB : Bool := false;
      let level : Bool := true;
      let code : BitVec 12 := 2047;
      let held : Nat := 50000;
      s.cellOn p = true ∧ (level ≠ (s.dev.cell p).fbit SRB_GD_CFG_DSPOL ∧ 250 * (s.dev.cell p).fget SRB_GD_CFG_FILT <
        (s.dev.cell p).now40 - match if (pairB != (s.dev.cell p).pwm.swap) = true then (s.dev.cell p).pwm.onB else
        (s.dev.cell p).pwm.onA with
        | some t => max ((s.dev.cell p).now40 - 25 * held) (t + 1000 * (s.dev.cell p).fget SRB_GD_CFG_MASK)
        | none => (s.dev.cell p).now40 - 25 * held) ∧ (s.dev.cell p).prot.semi = true ∧ (s.dev.cell p).cfgd = true ∧
        (¬((s.dev.cell p).prot.pulse = 1 ∨ (s.dev.cell p).prot.pulse = 2)) ∧ (s.dev.cell p).prot.bypConf = false ∧
        (s.dev.cell p).prot.slcv = true ∧ ((fun lo => sx 12 (bitsOf (BitVec.toNat (s.dev.cell p).prot.slcvSet.fst) lo
        12)) 20 < code.toInt) ∧ 5000 ≤ held ∧ ((s.dev.cell p).prot.bfired = false ∨ (s.dev.cell p).prot.bypConf = true)) ∧
    (let s : State := cel [] id;
      let p : Place := 0;
      let code : BitVec 12 := 2047;
      let held : Nat := 6000;
      s.cellOn p = true ∧ (s.dev.cell p).prot.slcv = false ∧ ((fun lo => sx 12 (bitsOf (BitVec.toNat (s.dev.cell
        p).prot.slcvSet.fst) lo 12)) 4 < code.toInt) ∧ 10 * bitsOf (BitVec.toNat (s.dev.cell p).prot.slcvSet.snd) 0 8 <
        held ∧ (s.dev.cell p).cfgd = false ∧ (s.dev.cell p).prot.bypConf = false) ∧
    (let s : State := cel [(SRB_CELL_CFG_CFGD, 1)] (prot (fun x =>
        { x with semi := true, bfired := true, pulse := 2 }));
      let p : Place := 0;
      s.cellOn p = true ∧ (s.dev.cell p).prot.pulse = 2) ∧
    (let s : State := cel [(SRB_CELL_CFG_CFGD, 1)] (fun c =>
        { prot (fun x => { x with bfired := true, pulse := 4 }) c with pwm := { c.pwm with hiz := false } });
      let p : Place := 0;
      let level : Bool := false;
      let g : Gate := .gaH;
      let w : BitVec 4 := 0;
      s.cellOn p = true ∧ (s.dev.cell p).balls = some w ∧ w.getLsbD g.idx = level) := by
  iterate 5 (refine ⟨by decide +kernel, ?_⟩)
  decide +kernel

theorem witness_CellCommands :
    (let s : State := cel [(SRB_SLCV_CFG_VALID, 1)] (prot (fun x => { x with slcv := true }));
      let p : Place := 0;
      let code : BitVec 12 := 2048;
      let key : W16 := 45476;
      let i : Nat := 0;
      s.cellOn p = true ∧ (s.dev.cell p).cfgd = false ∧ (¬((s.dev.cell p).prot.semi = true ∧ (s.dev.cell p).prot.slcv =
        false ∧ (s.dev.cell p).prot.bfired = false ∧ (s.dev.cell p).prot.bypConf = false)) ∧ (key ≠ 45477 ∨ (s.dev.cell
        p).cfgd = false) ∧ i < 5 ∧ (s.dev.cell p).prot.slcv = true ∧ (s.dev.cell p).prot.bfired = false ∧ code.toInt <
        sx 12 (bitsOf (BitVec.toNat (s.dev.cell p).prot.slcvSet.fst) 4 12) - ↑(bitsOf (BitVec.toNat (s.dev.cell
        p).prot.slcvSet.snd) 16 8) ∧ (s.dev.cell p).locked = false ∧ (s.dev.cell p).fbit SRB_SLCV_CFG_VALID = true ∧
        s.dev.mode ≠ 1 ∧ s.dev.hasPlace p = true ∧ (s.dev.cell p).powered = true) ∧
    (let s : State := cel [(SRB_CELL_CFG_CFGD, 1), (SRB_LOCK_LOCK, 1)] (prot (fun x => { x with semi := true }));
      let p : Place := 0;
      let code : BitVec 12 := 2048;
      s.cellOn p = true ∧ (s.dev.cell p).cfgd = true ∧ (s.dev.cell p).prot.semi = true ∧ (s.dev.cell p).prot.slcv =
        false ∧ (s.dev.cell p).prot.bfired = false ∧ (s.dev.cell p).prot.bypConf = false ∧ (s.dev.cell p).prot.pulse ≠ 1
        ∧ (s.dev.cell p).prot.pulse ≠ 2 ∧ (s.dev.cell p).prot.bypConf = false ∧ ((s.dev.cell p).prot.slcv = false ∨
        (s.dev.cell p).prot.bfired = true ∨ ¬code.toInt < sx 12 (bitsOf (BitVec.toNat (s.dev.cell p).prot.slcvSet.fst) 4
        12) - ↑(bitsOf (BitVec.toNat (s.dev.cell p).prot.slcvSet.snd) 16 8)) ∧ (s.dev.cell p).locked = true ∧
        (s.dev.cell p).fbit SRB_SLCV_CFG_VALID = false) ∧
    (let s : State := st { on with cells := [(0, Cell.off 1 false [])] };
      let p : Place := 0;
      s.dev.hasPlace p = true ∧ (s.dev.cell p).powered = false) ∧
    (let s : State := st (Dev.fset { on with cells := [(0, pc 0 [(SRB_SLCV_CFG_VALID, 1)])] } SH_MODE_CUR 1);
      let p : Place := 0;
      s.cellOn p = true ∧ (s.dev.cell p).cfgd = false ∧ (s.dev.cell p).fbit SRB_SLCV_CFG_VALID = true ∧ s.dev.mode = 1) := by
  iterate 3 (refine ⟨by decide +kernel, ?_⟩)
  decide +kernel

theorem witness_CellCycleEvents :
    (let s : State := cel [] (fun c => { c with fe := { c.fe with conv := { c.fe.conv with slotNo := 1 } } });
      let p : Place := 0;
      let x : Adc := ⟨0x7FFF, .none⟩;
      let blank : Bool := false;
      let at_ : Nat := 100;
      s.cellOn p = true ∧ (s.dev.cell p).tm.everTime = true ∧ (s.dev.cell p).cycDue (s.dev.cellSeq (s.dev.cell p)
        ((s.dev.cell p).nextT0 s.dev.seq)) = false ∧ blank = false ∧ x.range = Over.none ∧ (s.dev.cell p).tm.reloads =
        [] ∧ (s.dev.cell p).fe.conv.slotNo ≠ 0 ∧ (s.dev.cell p).fe.conv.slotEnd = false ∧ (s.dev.cell p).fe.conv.diag =
        [] ∧ (s.dev.cell p).slotItem = some (SlotItem.reference, at_) ∧ (s.dev.cell p).pwm.edges = []) ∧
    (let s : State := cel [] (fun c => { c with pwm := { c.pwm with edges := [(375000, .gaH, true)] } });
      let p : Place := 0;
      let blank : Bool := true;
      let at_3 : Nat := 375000;
      let g : Gate := Gate.gaH;
      let on : Bool := true;
      let rest2 : List (Nat × Gate × Bool) := [];
      let h2 : Gate := .gbL;
      s.cellOn p = true ∧ (s.dev.cell p).tm.everTime = true ∧ blank = true ∧ (s.dev.cell p).pwm.edges = (at_3, g, on) ::
        rest2 ∧ on = true ∧ h2 ≠ g) ∧
    (let s : State := cel [(SRB_CYC_EFF_PEND, 1)] id;
      let p : Place := 0;
      s.cellOn p = true ∧ (s.dev.cell p).tm.everTime = true ∧ (s.dev.cell p).cycDue (s.dev.cellSeq (s.dev.cell p)
        ((s.dev.cell p).nextT0 s.dev.seq)) = true) ∧
    (let s : State := cel [] (fun c =>
        { c with fe := { c.fe with conv := { c.fe.conv with slotNo := 1, slotAt := 2000 } } });
      let p : Place := 0;
      s.cellOn p = true ∧ (s.dev.cell p).tm.everTime = true ∧ (s.dev.cell p).fe.conv.slotNo ≠ 0 ∧ (s.dev.cell
        p).fe.conv.slotEnd = false ∧ (s.dev.cell p).fe.conv.diag = [] ∧ (s.dev.cell p).slotItem = none) ∧
    (let s : State := cel [] (fun c => { c with fe := { c.fe with conv := { c.fe.conv with list := [1, 2] } } });
      let p : Place := 0;
      let blank : Bool := true;
      let i : Nat := 1;
      s.cellOn p = true ∧ (s.dev.cell p).tm.everTime = true ∧ (s.dev.cell p).fe.conv.slotNo = 0 ∧ (s.dev.cell
        p).fe.conv.list.head? = some i ∧ i ≠ 0 ∧ blank = true) ∧
    (let s : State := cel [] (fun c => { c with tm := { c.tm with everTime := false } });
      let p : Place := 0;
      s.cellOn p = true ∧ (s.dev.cell p).tm.everTime = false) ∧
    (let s : State := cel [] (fun c =>
        { c with fe := { c.fe with conv := { c.fe.conv with slotNo := 1, slotEnd := true } } });
      let p : Place := 0;
      s.cellOn p = true ∧ (s.dev.cell p).tm.everTime = true ∧ (s.dev.cell p).fe.conv.slotEnd = true) ∧
    (let s : State := cel [] (fun c => { c with tm := { c.tm with reloads := [61000] } });
      let p : Place := 0;
      let r : Nat := 61000;
      let rest : List Nat := [];
      s.cellOn p = true ∧ (s.dev.cell p).tm.everTime = true ∧ (s.dev.cell p).tm.reloads = r :: rest) ∧
    (let s : State := cel [] (fun c => { c with fe := { c.fe with conv := { c.fe.conv with list := [1, 2] } } });
      let p : Place := 0;
      let x : Adc := ⟨0x7FFF, .none⟩;
      let blank : Bool := false;
      let i : Nat := 1;
      s.cellOn p = true ∧ (s.dev.cell p).tm.everTime = true ∧ (s.dev.cell p).fe.conv.slotNo = 0 ∧ (s.dev.cell
        p).fe.conv.list.head? = some i ∧ i ≠ 0 ∧ blank = false ∧ x.range = Over.none) ∧
    (let s : State := cel [] (fun c =>
        { c with fe := { c.fe with conv := { c.fe.conv with slotNo := 1, refDone := true, list := [0, 1] } } });
      let p : Place := 0;
      let x : Adc := ⟨0x7FFF, .none⟩;
      let blank : Bool := false;
      let i2 : Nat := 1;
      let at_2 : Nat := 100;
      s.cellOn p = true ∧ (s.dev.cell p).tm.everTime = true ∧ (s.dev.cell p).fe.conv.slotNo ≠ 0 ∧ (s.dev.cell
        p).fe.conv.slotEnd = false ∧ (s.dev.cell p).fe.conv.diag = [] ∧ (s.dev.cell p).slotItem = some (SlotItem.rot i2,
        at_2) ∧ i2 ≠ 0 ∧ blank = false ∧ x.range = Over.none) ∧
    (let s : State := cel [] (fun c => { c with pwm := { c.pwm with edges := [(375000, .gbL, false)] } });
      let p : Place := 0;
      let at_3 : Nat := 375000;
      let g : Gate := Gate.gbL;
      let on : Bool := false;
      let rest2 : List (Nat × Gate × Bool) := [];
      s.cellOn p = true ∧ (s.dev.cell p).pwm.edges = (at_3, g, on) :: rest2 ∧ on = false) ∧
    (let s : State := cel [] (fun c =>
        { c with fe := { c.fe with conv := { c.fe.conv with slotNo := 1, refDone := true, list := [0, 1] } } });
      let p : Place := 0;
      let blank : Bool := true;
      let i2 : Nat := 1;
      let at_2 : Nat := 100;
      s.cellOn p = true ∧ (s.dev.cell p).tm.everTime = true ∧ (s.dev.cell p).fe.conv.slotNo ≠ 0 ∧ (s.dev.cell
        p).fe.conv.slotEnd = false ∧ (s.dev.cell p).fe.conv.diag = [] ∧ (s.dev.cell p).slotItem = some (SlotItem.rot i2,
        at_2) ∧ i2 ≠ 0 ∧ blank = true) := by
  iterate 11 (refine ⟨by decide +kernel, ?_⟩)
  decide +kernel

theorem witness_SchedulerEvents :
    (let s : State := cpuD 1 (List.replicate 16 0) (fun x => { x with delays := [(7, 511)], ticks := 6 });
      let die : CDie := .a;
      let task : Fin 512 := 511;
      let n : Nat := 0;
      let j : Nat := 0;
      let k : Nat := 0;
      let t : Nat := 0;
      let c : Nat := 0;
      let w : Nat := 7;
      let rest : List (Nat × Nat) := [];
      let x1 := s.dev.cd die.idx;
      (List.map s.dev.tickIn (List.filter s.dev.running (List.range 4))).min? = some n ∧ s.dev.clockRuns = true ∧ j < 4
        ∧ s.dev.running die.idx = true ∧ x1.vbegun = false ∧ (x1.vever = false ∨ (x1.activeIf fun k p => decide (k =
        x1.vcycle) && decide (x1.vphase < p)) = []) ∧ (List.map (fun t => (x1.task t).cycle) (x1.activeIf fun k x =>
        !x1.vever || decide (k ≠ x1.vcycle)) = []) ∧ (x1.vbegun = false ∨ List.filter (fun t => decide ((x1.task
        t).cycle = x1.vcycle) && decide ((x1.task t).phase = x1.vphase)) x1.vready = [] ∨ List.find? (fun c => decide
        ((x1.core c).task = none) && !(x1.core c).halted) (List.range 8) = none) ∧ x1.delays = (w, ↑task) :: rest ∧
        x1.ticks < w) ∧
    (let s : State := phased (fun x => (holds (({ x with vcycle := 5, vphase := 1, vbegun := true, vready := [3] } :
        CtrlDie).setCore 0 { Core.idle with wins := List.replicate 23 ⟨5, 1, []⟩ })).setTask 5
        { task 0 with spptr := 0x10000000 });
      let die : CDie := .a;
      let t : Nat := 3;
      let c : Nat := 0;
      let x1 := s.dev.cd die.idx;
      s.dev.running die.idx = true ∧ x1.vbegun = true ∧ (x1.firstRank (List.filter (fun t => decide ((x1.task t).cycle =
        x1.vcycle) && decide ((x1.task t).phase = x1.vphase)) x1.vready) = some t) ∧ (List.find? (fun c => decide
        ((x1.core c).task = none) && !(x1.core c).halted) (List.range 8) = some c) ∧ x1.dispatchHeld c t = true) ∧
    (let s : State := phased (fun x => { x with vcycle := 5, vphase := 0, vever := true });
      let die : CDie := .a;
      let x1 := s.dev.cd die.idx;
      s.dev.running die.idx = true ∧ x1.vbegun = false ∧ x1.vever = true ∧ ((x1.activeIf fun k p => decide (k =
        x1.vcycle) && decide (x1.vphase < p)) ≠ [])) ∧
    (let s : State := phased (fun x => { x with vcycle := 5, vphase := 0 });
      let die : CDie := .a;
      let k : Nat := 5;
      let t : Nat := 0;
      let x1 := s.dev.cd die.idx;
      s.dev.running die.idx = true ∧ x1.vbegun = false ∧ (x1.vever = false ∨ (x1.activeIf fun k p => decide (k =
        x1.vcycle) && decide (x1.vphase < p)) = []) ∧ ((List.map (fun t => (x1.task t).cycle) (x1.activeIf fun k x =>
        !x1.vever || decide (k ≠ x1.vcycle))).min? = some k) ∧ x1.gensDone = false) ∧
    (let s : State := phased (fun x => { x with vcycle := 4, gensDone := true });
      let die : CDie := .a;
      let k : Nat := 5;
      let t : Nat := 0;
      let x1 := s.dev.cd die.idx;
      s.dev.running die.idx = true ∧ x1.vbegun = false ∧ (x1.vever = false ∨ (x1.activeIf fun k p => decide (k =
        x1.vcycle) && decide (x1.vphase < p)) = []) ∧ ((List.map (fun t => (x1.task t).cycle) (x1.activeIf fun k x =>
        !x1.vever || decide (k ≠ x1.vcycle))).min? = some k) ∧ x1.gensDone = true) ∧
    (let s : State := st Dev.reset;
      List.filter s.dev.running (List.range 4) = []) ∧
    (let s : State := phased (fun x => { x with vcycle := 5, vphase := 1, vbegun := true, vready := [3] });
      let die : CDie := .a;
      let t : Nat := 3;
      let c : Nat := 0;
      let x1 := s.dev.cd die.idx;
      s.dev.running die.idx = true ∧ x1.vbegun = true ∧ (x1.firstRank (List.filter (fun t => decide ((x1.task t).cycle =
        x1.vcycle) && decide ((x1.task t).phase = x1.vphase)) x1.vready) = some t) ∧ (List.find? (fun c => decide
        ((x1.core c).task = none) && !(x1.core c).halted) (List.range 8) = some c) ∧ x1.dispatchHeld c t = false) ∧
    (let s : State := cpuD 1 (List.replicate 16 0) (fun x => { x with delays := [(7, 511)], ticks := 7 });
      let die : CDie := .a;
      let task : Fin 512 := 511;
      let w : Nat := 7;
      let rest : List (Nat × Nat) := [];
      let x1 := s.dev.cd die.idx;
      s.dev.running die.idx = true ∧ x1.delays = (w, ↑task) :: rest ∧ w ≤ x1.ticks) := by
  iterate 7 (refine ⟨by decide +kernel, ?_⟩)
  decide +kernel

theorem witness_SampleInstantResults :
    (let s : State := st net;
      s.dev.clockRuns = true ∧ (List.filter (fun e => decide (e.cycle = s.dev.nextCyc)) s.dev.sh.clk.steps = []) ∧
        s.dev.sh.clk.cfgPend = none ∧ s.dev.sh.crk.ratePend = none) ∧
    (let s : State := st (net.clk (fun x => { x with cfgPend := some (0x006E021C017C03E8, 6) }));
      let v : W64 := 0x6E021C017C03E8;
      let eff : Nat := 6;
      s.dev.sh.clk.cfgPend = some (v, eff) ∧ s.dev.sh.clk.gridOn = true ∧ eff ≤ s.dev.sh.clk.cyc) ∧
    (let s : State := st { net with sh := { net.sh with crk := { net.sh.crk with ratePend := some 0x7FFFFFFF } } };
      let v2 : W32 := 0x7FFFFFFF;
      s.dev.sh.crk.ratePend = some v2) ∧
    (let s : State := st (net.clk (fun x => { x with cfgPend := some (0x006E021C017C03E8, 9) }));
      let v : W64 := 0x6E021C017C03E8;
      let eff : Nat := 9;
      s.dev.sh.clk.cfgPend = some (v, eff) ∧ (s.dev.sh.clk.gridOn = false ∨ s.dev.sh.clk.cyc < eff)) ∧
    (let s : State := st Dev.reset;
      s.dev.clockRuns = false) ∧
    (let s : State := st (net.clk (fun x => { x with steps := [{ delta := 1000, cycle := 7, host := false }] }));
      s.dev.clockRuns = true ∧ (List.filter (fun e => decide (e.cycle = s.dev.nextCyc)) s.dev.sh.clk.steps ≠ [])) := by
  iterate 5 (refine ⟨by decide +kernel, ?_⟩)
  decide +kernel

theorem witness_TallyPath :
    (let s : State := netS [] (fun d => (d.modCell 0 due).tly (fun x => { x with closed := 7, delivered := 7 }));
      let p : Place := 0;
      let toward : End := .b;
      let h : Rx := ⟨true, 7, false⟩;
      let t : OutTally := { seq := 6, pl := 0x60000, sent := 0 };
      let c : CycRec := cycRec 6;
      s.dev.hasPlace p = true ∧ (s.dev.slotCome p (decide (toward = End.b))).carries (p / 64) toward = true ∧ h.crcOk =
        true ∧ ((s.dev.slotCome p (decide (toward = End.b))).cell p).tallyDue (decide (toward = End.b)) = some t ∧
        (((((s.dev.slotCome p (decide (toward = End.b))).modCell p fun c => (c.rxCount (if decide (toward = End.b) =
        true then CPort.u else CPort.d) h).sendTally (decide (toward = End.b)) t).emit (Emission.repeated p (if decide
        (toward = End.b) = true then CPort.u else CPort.d).other h.bseq 2 t.pl)).endUp (p / 64) toward &&
        ((((s.dev.slotCome p (decide (toward = End.b))).modCell p fun c => (c.rxCount (if decide (toward = End.b) = true
        then CPort.u else CPort.d) h).sendTally (decide (toward = End.b)) t).emit (Emission.repeated p (if decide
        (toward = End.b) = true then CPort.u else CPort.d).other h.bseq 2 t.pl)).ring (p / 64)).toEnd (p % 64) toward) =
        true) ∧ ((((s.dev.slotCome p (decide (toward = End.b))).modCell p fun c => (c.rxCount (if decide (toward =
        End.b) = true then CPort.u else CPort.d) h).sendTally (decide (toward = End.b)) t).emit (Emission.repeated p (if
        decide (toward = End.b) = true then CPort.u else CPort.d).other h.bseq 2 t.pl)).openSeq (BitVec.ofNat 16 (Pl.get
        t.pl 2 16)) = false) ∧ s.dev.ofsCycle s.dev.tclose = some c ∧ s.dev.clockRuns = true ∧ s.dev.running (4 +
        s.dev.master) = true ∧ c.cycle < s.dev.sh.tly.closed ∧ (List.find? (fun c => decide (c.cycle + 1 =
        s.dev.sh.tly.closed)) s.dev.sh.clk.recent = some c) ∧ c.cycle < s.dev.sh.tly.delivered) ∧
    (let s : State := netS [(RDn_RP_STAT_LOCK 1 0, 0)] (fun d => (d.modCell 0 due).tly (fun x =>
        { x with delivered := 5, closed := 6 }));
      let p : Place := 0;
      let toward : End := .b;
      let h : Rx := ⟨true, 7, false⟩;
      let t : OutTally := { seq := 6, pl := 0x60000, sent := 0 };
      let c : CycRec := cycRec 5;
      let i : Nat := 0;
      let n : Nat := 0;
      s.dev.hasPlace p = true ∧ (s.dev.slotCome p (decide (toward = End.b))).carries (p / 64) toward = true ∧ h.crcOk =
        true ∧ ((s.dev.slotCome p (decide (toward = End.b))).cell p).tallyDue (decide (toward = End.b)) = some t ∧
        (((((s.dev.slotCome p (decide (toward = End.b))).modCell p fun c => (c.rxCount (if decide (toward = End.b) =
        true then CPort.u else CPort.d) h).sendTally (decide (toward = End.b)) t).emit (Emission.repeated p (if decide
        (toward = End.b) = true then CPort.u else CPort.d).other h.bseq 2 t.pl)).endUp (p / 64) toward &&
        ((((s.dev.slotCome p (decide (toward = End.b))).modCell p fun c => (c.rxCount (if decide (toward = End.b) = true
        then CPort.u else CPort.d) h).sendTally (decide (toward = End.b)) t).emit (Emission.repeated p (if decide
        (toward = End.b) = true then CPort.u else CPort.d).other h.bseq 2 t.pl)).ring (p / 64)).toEnd (p % 64) toward) =
        false) ∧ (List.find? (fun c => decide (c.cycle + 1 = s.dev.sh.tly.closed)) s.dev.sh.clk.recent = some c) ∧
        s.dev.sh.tly.delivered ≤ c.cycle ∧ i < 4 ∧ s.dev.powered i = true ∧ n < 2 ∧ s.dev.running (4 + n) = true) ∧
    (let s : State := netS [] (fun d => d.modCell 0 due);
      let p : Place := 0;
      let toward : End := .a;
      let h : Rx := ⟨false, 0, true⟩;
      let c : CycRec := cycRec 6;
      s.dev.hasPlace p = true ∧ (((s.dev.slotCome p (decide (toward = End.b))).cell p).tallyDue (decide (toward =
        End.b)) = none ∨ (s.dev.slotCome p (decide (toward = End.b))).carries (p / 64) toward = false ∨ h.crcOk = false)
        ∧ s.dev.ofsCycle s.dev.tclose = some c ∧ s.dev.clockRuns = true ∧ s.dev.running (4 + s.dev.master) = true ∧
        s.dev.sh.tly.closed ≤ c.cycle) ∧
    (let s : State := netS [] (fun d => d.modCell 0 due);
      let p : Place := 0;
      let toward : End := .b;
      let h : Rx := ⟨true, 7, false⟩;
      let t : OutTally := { seq := 6, pl := 0x60000, sent := 0 };
      let c : CycRec := cycRec 5;
      s.dev.hasPlace p = true ∧ (s.dev.slotCome p (decide (toward = End.b))).carries (p / 64) toward = true ∧ h.crcOk =
        true ∧ ((s.dev.slotCome p (decide (toward = End.b))).cell p).tallyDue (decide (toward = End.b)) = some t ∧
        (((((s.dev.slotCome p (decide (toward = End.b))).modCell p fun c => (c.rxCount (if decide (toward = End.b) =
        true then CPort.u else CPort.d) h).sendTally (decide (toward = End.b)) t).emit (Emission.repeated p (if decide
        (toward = End.b) = true then CPort.u else CPort.d).other h.bseq 2 t.pl)).endUp (p / 64) toward &&
        ((((s.dev.slotCome p (decide (toward = End.b))).modCell p fun c => (c.rxCount (if decide (toward = End.b) = true
        then CPort.u else CPort.d) h).sendTally (decide (toward = End.b)) t).emit (Emission.repeated p (if decide
        (toward = End.b) = true then CPort.u else CPort.d).other h.bseq 2 t.pl)).ring (p / 64)).toEnd (p % 64) toward) =
        true) ∧ ((((s.dev.slotCome p (decide (toward = End.b))).modCell p fun c => (c.rxCount (if decide (toward =
        End.b) = true then CPort.u else CPort.d) h).sendTally (decide (toward = End.b)) t).emit (Emission.repeated p (if
        decide (toward = End.b) = true then CPort.u else CPort.d).other h.bseq 2 t.pl)).openSeq (BitVec.ofNat 16 (Pl.get
        t.pl 2 16)) = true)) := by
  iterate 3 (refine ⟨by decide +kernel, ?_⟩)
  decide +kernel

theorem witness_StileAndLedgerResults :
    (let s : State := voting 3 0;
      let c : CycRec :=
        { cycle := 6, t0 := 0xEA60, cfg := 0x6E021C017C03E8, mode := 0, rtc := 0, step := 0, dig := 0xABCD, tok := 3, aq := [] };
      let conv : Fin 2 := 1;
      let q : Nat × Image := (1, Image.fresh 6 0xABCD 0);
      let q2 : Nat × Image := (0, Image.fresh 6 0xABCD 0);
      let q' : Nat × Image := (1, Image.fresh 6 0xABCD 0);
      let q3 : Nat × Image := (0, (Image.fresh 6 0xABCD 0));
      let rest : List (Nat × Image) := [(1, (Image.fresh 6 0xABCD 0)), (2, (Image.fresh 6 0xABCD 0))];
      let m : Image := Image.fresh 6 0xABCD 0;
      let x1 := s.dev.voters c.cycle;
      let x2 := s.dev.eligible c;
      q ∈ s.dev.eligible c ∧ q2 ∈ agreeing x1.length x2 ∧ q' ∈ agreeing x1.length x2 ∧ x1.length ≤ 3 ∧ 1 < x1.length ∧
        x1.length = 3 ∧ s.dev.ofsCycle s.dev.stile = some c ∧ s.dev.clockRuns = true ∧ (s.dev.powered 4 || s.dev.powered
        5) = true ∧ s.dev.sh.tly.voted ≤ c.cycle ∧ agreeing x1.length x2 = q3 :: rest ∧ agreedMirror x1.length (agreeing
        x1.length x2) x2 = some m ∧ (c.mode = 0 ∨ c.mode = 5) ∧ s.dev.sh.vote.agreedDrove = none ∧ (s.dev.ledg
        ↑conv).closing = []) ∧
    (let s : State := posted 6;
      let c : CycRec := cycRec 6;
      let conv : Fin 2 := 0;
      let g : Image := Image.fresh 5 0 0;
      let q4 : Nat × Nat := (5, 1);
      let rest2 : List (Nat × Nat) := [];
      let x1 := s.dev.ledg ↑conv;
      s.dev.ofsCycle s.dev.stile = some c ∧ s.dev.clockRuns = true ∧ (s.dev.powered 4 || s.dev.powered 5) = true ∧
        s.dev.sh.tly.voted ≤ c.cycle ∧ agreeing (s.dev.voters c.cycle).length (s.dev.eligible c) = [] ∧ 1 ≤ c.mode ∧
        c.mode ≤ 4 ∧ s.dev.fbit SH_VOTE_STAT_SPB = false ∧ s.dev.sh.vote.safeSpb = false ∧ s.dev.fget SH_SAFE_STAT_ACT =
        0 ∧ s.dev.sh.vote.agreedDrove = some g ∧ (s.dev.sh.vote.agreedMirror = false ∨ x1.opened = false ∨ g.cycle <
        x1.posted) ∧ x1.closing = q4 :: rest2 ∧ q4.fst < x1.posted) ∧
    (let s : State := st ((voting 2 3).dev.vote (fun v => { v with safeSpb := true }));
      let c : CycRec := cycRec 6;
      (s.dev.voters c.cycle).length = 2 ∧ s.dev.ofsCycle s.dev.stile = some c ∧ s.dev.clockRuns = true ∧ (s.dev.powered
        4 || s.dev.powered 5) = true ∧ s.dev.sh.tly.voted ≤ c.cycle ∧ 1 ≤ c.mode ∧ c.mode ≤ 4 ∧ (s.dev.fbit
        SH_VOTE_STAT_SPB || s.dev.sh.vote.safeSpb || decide (s.dev.fget SH_SAFE_STAT_ACT ≠ 0)) = true) ∧
    (let s : State := posted 5;
      let conv : Fin 2 := 0;
      let g : Image := Image.fresh 5 0 0;
      let q4 : Nat × Nat := (5, 1);
      let rest2 : List (Nat × Nat) := [];
      let x1 := s.dev.ledg ↑conv;
      s.dev.sh.vote.agreedDrove = some g ∧ s.dev.sh.vote.agreedMirror = true ∧ x1.opened = true ∧ x1.posted ≤ g.cycle ∧
        x1.closing = q4 :: rest2 ∧ x1.posted ≤ q4.fst) ∧
    (let s : State := voting 1 3;
      let c : CycRec := cycRec 6;
      (s.dev.voters c.cycle).length = 1) ∧
    (let s : State := st Dev.reset;
      (s.dev.clockRuns = false ∨ (s.dev.powered 4 || s.dev.powered 5) = false)) ∧
    (let s : State := netS lanes (fun d => d.vote (fun v =>
        { v with agreedDrove := some (Image.fresh 5 0 0), agreedMirror := true }) |>.tly (fun x =>
        { x with voted := 7 }));
      let c : CycRec := cycRec 6;
      s.dev.ofsCycle s.dev.stile = some c ∧ s.dev.clockRuns = true ∧ (s.dev.powered 4 || s.dev.powered 5) = true ∧
        c.cycle < s.dev.sh.tly.voted) ∧
    (let s : State := voting 2 7;
      let c : CycRec :=
        { cycle := 6, t0 := 0xEA60, cfg := 0x6E021C017C03E8, mode := 7, rtc := 0, step := 0, dig := 0xABCD, tok := 3, aq := [] };
      s.dev.ofsCycle s.dev.stile = some c ∧ s.dev.clockRuns = true ∧ (s.dev.powered 4 || s.dev.powered 5) = true ∧
        s.dev.sh.tly.voted ≤ c.cycle ∧ c.mode = 7) := by
  iterate 7 (refine ⟨by decide +kernel, ?_⟩)
  decide +kernel

theorem witness_ModeRequestResults :
    (let s : State := netS (paired 1) id;
      s.dev.sh.mode.modeReqs = [] ∧ s.dev.standby = false ∧ s.dev.forwardLink ≠ none ∧ s.dev.mode ≠ 4) ∧
    (let s : State := netS [] (fun d => d.md (fun x => { x with modeReqs := [0] }));
      let m : Nat := 0;
      s.dev.sh.mode.modeReqs = [m] ∧ s.dev.modeReasons m ≠ [] ∧ s.dev.standby = false ∧ s.dev.forwardLink = none ∧
        s.dev.winUp SH_MODE_CFG = true) ∧
    (let s : State := netS (paired 2) id;
      s.dev.standby = true) ∧
    (let s : State := netS [(SH_MODE_CUR, 4), (SH_MODE_RTC, 1)] (fun d => (d.md (fun x =>
        { x with rtStart := [(0, 1)] })).clk (fun x => { x with raw := 60000000000 }));
      let cause : Fin 3 := 0;
      let at_ : W64 := 1;
      (List.find? (fun e => decide (e.fst = ↑cause)) s.dev.sh.mode.rtStart = some (↑cause, at_)) ∧ s.dev.mode = 4 ∧
        bitOf (s.dev.fget SH_MODE_RTC) ↑cause = true ∧ BitVec.toNat at_ - 1 + s.dev.rtLimit ↑cause * 1000000000 ≤
        BitVec.toNat s.dev.sh.clk.raw) ∧
    (let s : State := netS [] (fun d => d.md (fun x => { x with modeReqs := [5] }));
      let m : Nat := 5;
      s.dev.sh.mode.modeReqs = [m] ∧ s.dev.modeReasons m = []) := by
  iterate 4 (refine ⟨by decide +kernel, ?_⟩)
  decide +kernel

theorem witness_LaneResults :
    (let s : State := netS (lanes ++ [(SH_LANE_STAT_STATE 0, 1), (SH_LANE_STAT_STATE 1, 1), (SH_LANE_STAT_INPUT 0, 3),
        (SH_LANE_STAT_INPUT 1, 3), (SH_MODE_CUR, 5)]) id;
      let die : CDie := .c;
      let src : RDie := .rd0;
      let st : Nat := 4;
      let j : Nat := 1;
      let x1 := SH_LANE_STAT_INPUT die.idx;
      s.dev.admitTo die.idx = some st ∧ (∀ (j : Nat), j < die.idx → s.dev.admitTo j = none) ∧ s.dev.counting = [] ∧ j <
        4 ∧ j ≠ die.idx ∧ s.dev.present die.idx = true ∧ (¬(((fun d j => d.lane j) s.dev die.idx = 3 ∨ (fun d j =>
        d.lane j) s.dev die.idx = 4) ∧ s.dev.fget x1 < 3 ∧ Store.get (fun x => 0) s.dev.sh.vote.gateOf die.idx = 0 ∧ (∀
        (e : Nat × Nat), e ∈ s.dev.sh.vote.gateOf → e.snd ≠ s.dev.fget x1 + 1) ∧ (s.dev.twin = true ∨
        s.dev.sh.pin.hurdleIn = true))) ∧ ((fun d j => d.lane j) s.dev die.idx ≠ 4) ∧ s.dev.present (4 + src.idx) = true
        ∧ (s.dev.running die.idx = false ∨ s.dev.sh.vote.agreedMirror = false ∨ s.dev.sh.vote.agreedDrove = none ∨ (fun
        d j => d.lane j) s.dev die.idx = 4) ∧ (s.dev.twin = false ∨ BitVec.toNat s.dev.sh.clk.raw < BitVec.toNat
        s.dev.sh.clk.t0raw + (2 * s.dev.periodNs).toNat)) ∧
    (let s : State := netS (lanes ++ paired 1) (fun d => d.clk (fun x => { x with raw := 80000 }));
      let die : CDie := .b;
      let x1 := SH_LANE_STAT_INPUT die.idx;
      (∀ (j : Nat), j < 4 → s.dev.admitTo j = none) ∧ s.dev.present die.idx = true ∧ (((fun d j => d.lane j) s.dev
        die.idx = 3 ∨ (fun d j => d.lane j) s.dev die.idx = 4) ∧ s.dev.fget x1 < 3 ∧ Store.get (fun x => 0)
        s.dev.sh.vote.gateOf die.idx = 0 ∧ (∀ (e : Nat × Nat), e ∈ s.dev.sh.vote.gateOf → e.snd ≠ s.dev.fget x1 + 1) ∧
        (s.dev.twin = true ∨ s.dev.sh.pin.hurdleIn = true)) ∧ s.dev.retireRefused = true ∧ ((fun d j => d.lane j) s.dev
        die.idx = 4) ∧ s.dev.twin = true ∧ BitVec.toNat s.dev.sh.clk.t0raw + (2 * s.dev.periodNs).toNat ≤ BitVec.toNat
        s.dev.sh.clk.raw) ∧
    (let s : State := netS (lanes ++ [(SH_MODE_CUR, 5)]) id;
      let die : CDie := .a;
      let j2 : Nat := 2;
      s.dev.retireRefused = false ∧ ((fun d j => d.lane j) s.dev die.idx = 4) ∧ j2 < 4 ∧ j2 ≠ die.idx) ∧
    (let s : State := netS lanes (mirror 0 none);
      let die : CDie := .c;
      let src : RDie := .rd0;
      let g : Image := Image.fresh 5 0 0;
      let n : Nat := 2;
      let bad : Option (Nat × Blk) := none;
      s.dev.present die.idx = true ∧ s.dev.present (4 + src.idx) = true ∧ (s.dev.running die.idx = true ∧ s.dev.powered
        (4 + src.idx) = true ∧ s.dev.sh.vote.agreedMirror = true ∧ s.dev.sh.vote.agreedDrove = some g ∧ ((fun d j =>
        d.lane j) s.dev die.idx = 1 ∨ (fun d j => d.lane j) s.dev die.idx = 2 ∨ (fun d j => d.lane j) s.dev die.idx =
        3)) ∧ s.dev.powered (4 + (1 - src.idx)) = false ∧ (wholeMirror (match bad with
        | some (k, b) => (List.take n g.mirror).set k b
        | none => List.take n g.mirror) = true)) ∧
    (let s : State := netS lanes (mirror 1 (some (1, [1])));
      let die : CDie := .c;
      let src : RDie := .rd0;
      let g : Image := Image.fresh 5 0 0;
      let n : Nat := 0;
      let bad : Option (Nat × Blk) := none;
      let old : List Blk := [1];
      let x1 := List.take n g.mirror;
      s.dev.present die.idx = true ∧ s.dev.present (4 + src.idx) = true ∧ (s.dev.running die.idx = true ∧ s.dev.powered
        (4 + src.idx) = true ∧ s.dev.sh.vote.agreedMirror = true ∧ s.dev.sh.vote.agreedDrove = some g ∧ ((fun d j =>
        d.lane j) s.dev die.idx = 1 ∨ (fun d j => d.lane j) s.dev die.idx = 2 ∨ (fun d j => d.lane j) s.dev die.idx =
        3)) ∧ s.dev.powered (4 + (1 - src.idx)) = true ∧ (s.dev.cd die.idx).mirRx = some (1 - src.idx, old) ∧ ((old ≠
        match bad with
        | some (k, b) => x1.set k b
        | none => List.take n g.mirror) ∨ ¬wholeMirror (match bad with
        | some (k, b) => x1.set k b
        | none => List.take n g.mirror) = true)) ∧
    (let s : State := netS lanes (mirror 0 none);
      let die : CDie := .c;
      let src : RDie := .rd0;
      let g : Image := Image.fresh 5 0 0;
      let n : Nat := 3;
      let bad : Option (Nat × Blk) := some (0, 0xFF0000);
      s.dev.present die.idx = true ∧ s.dev.present (4 + src.idx) = true ∧ (s.dev.running die.idx = true ∧ s.dev.powered
        (4 + src.idx) = true ∧ s.dev.sh.vote.agreedMirror = true ∧ s.dev.sh.vote.agreedDrove = some g ∧ ((fun d j =>
        d.lane j) s.dev die.idx = 1 ∨ (fun d j => d.lane j) s.dev die.idx = 2 ∨ (fun d j => d.lane j) s.dev die.idx =
        3)) ∧ s.dev.powered (4 + (1 - src.idx)) = false ∧ (¬wholeMirror (match bad with
        | some (k, b) => (List.take n g.mirror).set k b
        | none => List.take n g.mirror) = true)) ∧
    (let s : State := netS lanes (mirror 1 none);
      let die : CDie := .c;
      let src : RDie := .rd0;
      let g : Image := Image.fresh 5 0 0;
      let old2 : List Blk := [1];
      let x1 := s.dev.cd die.idx;
      s.dev.present die.idx = true ∧ s.dev.present (4 + src.idx) = true ∧ (s.dev.running die.idx = true ∧ s.dev.powered
        (4 + src.idx) = true ∧ s.dev.sh.vote.agreedMirror = true ∧ s.dev.sh.vote.agreedDrove = some g ∧ ((fun d j =>
        d.lane j) s.dev die.idx = 1 ∨ (fun d j => d.lane j) s.dev die.idx = 2 ∨ (fun d j => d.lane j) s.dev die.idx =
        3)) ∧ s.dev.powered (4 + (1 - src.idx)) = true ∧ (x1.mirRx = none ∨ x1.mirRx = some (src.idx, old2))) ∧
    (let s : State := netS lanes (mirror 1 (some (1, (Image.fresh 5 0 0).mirror)));
      let die : CDie := .c;
      let src : RDie := .rd0;
      let g : Image := Image.fresh 5 0 0;
      let n : Nat := 2;
      let bad : Option (Nat × Blk) := none;
      let old : List Blk := [5];
      let x1 := List.take n g.mirror;
      s.dev.present die.idx = true ∧ s.dev.present (4 + src.idx) = true ∧ (s.dev.running die.idx = true ∧ s.dev.powered
        (4 + src.idx) = true ∧ s.dev.sh.vote.agreedMirror = true ∧ s.dev.sh.vote.agreedDrove = some g ∧ ((fun d j =>
        d.lane j) s.dev die.idx = 1 ∨ (fun d j => d.lane j) s.dev die.idx = 2 ∨ (fun d j => d.lane j) s.dev die.idx =
        3)) ∧ s.dev.powered (4 + (1 - src.idx)) = true ∧ (s.dev.cd die.idx).mirRx = some (1 - src.idx, old) ∧ (old =
        match bad with
        | some (k, b) => x1.set k b
        | none => List.take n g.mirror) ∧ (wholeMirror (match bad with
        | some (k, b) => x1.set k b
        | none => List.take n g.mirror) = true)) := by
  iterate 7 (refine ⟨by decide +kernel, ?_⟩)
  decide +kernel

theorem witness_RefereeAndDuty :
    (let s : State := netS (paired 2 ++ [(GLB_DIE_PWR 4, 0)]) id;
      let level : Bool := false;
      s.dev.referee = false ∧ s.dev.twin = true ∧ s.dev.sh.pin.rfLevel = level ∧ s.dev.sh.pin.rfLevel = false ∧
        s.dev.powered 4 = false ∧ (s.dev.role ≠ 1 ∨ s.dev.fbit SH_TWIN_STAT_REFOK = false ∨ s.dev.fbit
        SH_TWIN_STAT_PREADY = false)) ∧
    (let s : State := netS [(SH_TWIN_STAT_ROLE, 3)] (fun d =>
        { d with sh := { d.sh with tw := { d.sh.tw with refPkgs := [(0, { beat := none, missed := 0, fresh := true, linkDown := false })] } } });
      let w : Nat := 0;
      let w2 : Nat := 0;
      s.dev.referee = true ∧ s.dev.sh.tw.grantTo ≠ some w ∧ s.dev.sh.tw.grantTo ≠ some w2 ∧ s.dev.twin = false) ∧
    (let s : State := netS (paired 1) (fun d => d.pin (fun x => { x with rfLevel := true }));
      s.dev.twin = true ∧ s.dev.sh.pin.rfLevel = true ∧ s.dev.role = 1 ∧ s.dev.fbit SH_TWIN_STAT_REFOK = true ∧
        s.dev.fbit SH_TWIN_STAT_PREADY = true) ∧
    (let s : State := netS (paired 2) (fun d => d.modRd 0 (fun x => { x with twGood := [(1, 15)] }));
      s.dev.twin = true ∧ s.dev.powered 4 = true ∧ (15 ≤ Store.get (fun x => 0) (s.dev.rd 0).twGood 1)) := by
  iterate 3 (refine ⟨by decide +kernel, ?_⟩)
  decide +kernel

theorem witness_TwinLinkResults :
    (let s : State := netS (paired 2 ++ [(TIM_STAT_STATE, 4)]) id;
      let link : Fin 2 := 1;
      let theta : Option Int := some (-1);
      let ring : Nat := 0;
      let pl : Payload := Pl.mk [(3, 8, 2)];
      let rd : RDie := .rd1;
      let addr : Nat := 0;
      let c : CycRec := { cycle := 0, t0 := 0, cfg := 0, mode := 0, rtc := 0, step := 0, dig := 0, tok := 0, aq := [] };
      let th : Int := -1;
      let e : Nat × Tag := (3, lateTag);
      let x1 := Pl.get pl 4 10;
      s.dev.referee = false ∧ s.dev.hasLink ↑link = true ∧ ((fun d x => bitOf (d.fget SH_TWIN_STAT_LINKS) x) s.dev ↑link
        = true) ∧ (s.dev.role = 2 ∨ s.dev.role = 1) ∧ s.dev.hasLink 0 = true ∧ s.dev.fbit SH_TWIN_STAT_REFOK = true ∧
        s.dev.linkUp ↑link = true ∧ s.dev.standby = true ∧ s.dev.crook = 4 ∧ theta = some th ∧ s.dev.hasRing ring = true
        ∧ (List.find? (fun c => decide (c.cycle % 65536 = Pl.get pl 2 16)) s.dev.sh.clk.recent = none) ∧ s.dev.follows
        s.dev.sh.tly.delivered = true ∧ s.dev.linksUp ≠ [] ∧ addr ≠ TIM_CYC_CFG ∧ s.dev.twin = true ∧ s.dev.ownsEnd
        End.a = true ∧ s.dev.hasRing (Pl.get pl 0 14 / 64) = true ∧ s.dev.powered (4 + s.dev.tagRd (Pl.get pl 0 14)) =
        true ∧ bitOf (Pl.get pl 3 8) 1 = true ∧ s.dev.powered (4 + s.dev.rdOfTag x1) = true ∧ (List.find? (fun e =>
        decide (e.fst = Pl.get pl 4 10) && decide (e.snd.gen = bitsOf (Pl.get pl 4 16) 10 4)) (s.dev.rd (s.dev.rdOfTag
        x1)).tags = none) ∧ s.dev.present (4 + rd.idx) = true ∧ s.dev.powered (4 + rd.idx) = true) ∧
    (let s : State := netS (paired 1 ++ [(SH_TWIN_STAT_REFOK, 0)]) id;
      let link : Fin 2 := 1;
      let theta : Option Int := some (-1);
      let pl : Payload := Pl.mk [(2, 16, 6)];
      let x1 := Pl.get pl 0 14;
      s.dev.referee = false ∧ s.dev.hasLink 0 = true ∧ s.dev.fbit SH_TWIN_STAT_REFOK = false ∧ s.dev.linkUp ↑link = true
        ∧ (theta = none ∨ s.dev.standby = false ∨ s.dev.crook ≠ 4) ∧ (s.dev.standby = false ∨ s.dev.linksUp = []) ∧
        s.dev.twin = true ∧ ((fun d x => bitOf (d.fget SH_TWIN_STAT_LINKS) x) s.dev ↑link = true) ∧ s.dev.ownsEnd End.a
        = true ∧ s.dev.hasRing (Pl.get pl 0 14 / 64) = true ∧ s.dev.powered (4 + s.dev.tagRd x1) = true ∧ bitOf (Pl.get
        pl 3 8) 1 = false ∧ s.dev.cellThere x1 = true ∧ (s.dev.cend x1).wait = false ∧ (s.dev.cend x1).credits ≠ 0) ∧
    (let s : State := netS (paired 2 ++ [(SH_TWIN_STAT_LINKS, 1)]) id;
      let link : Fin 2 := 1;
      let ring : Nat := 0;
      s.dev.referee = false ∧ s.dev.hasLink ↑link = true ∧ ((fun d x => bitOf (d.fget SH_TWIN_STAT_LINKS) x) s.dev ↑link
        = false) ∧ s.dev.linkUp ↑link = false ∧ s.dev.hasRing ring = true ∧ (s.dev.twin = false ∨ (fun d x => bitOf
        (d.fget SH_TWIN_STAT_LINKS) x) s.dev ↑link = false)) ∧
    (let s : State := netS (paired 1) (fun d => d.pin (fun x => { x with rfLevel := true }));
      let link : Fin 2 := 1;
      let pl : Payload := Pl.mk [(0, 14, 5)];
      let x1 := Pl.get pl 0 14;
      s.dev.linkUp ↑link = true ∧ s.dev.follows s.dev.sh.tly.delivered = false ∧ s.dev.twin = true ∧ ((fun d x => bitOf
        (d.fget SH_TWIN_STAT_LINKS) x) s.dev ↑link = true) ∧ s.dev.ownsEnd End.a = true ∧ s.dev.hasRing (Pl.get pl 0 14
        / 64) = true ∧ s.dev.powered (4 + s.dev.tagRd x1) = true ∧ bitOf (Pl.get pl 3 8) 1 = false ∧ (s.dev.cellThere x1
        = false ∨ (s.dev.cend x1).wait = true ∨ (s.dev.cend x1).credits = 0)) ∧
    (let s : State := st net;
      s.dev.referee = false ∧ s.dev.twin = false) ∧
    (let s : State := st (set (held 0).dev (paired 1));
      let link : Fin 2 := 1;
      let pl : Payload := Pl.mk [(4, 16, 0x803)];
      let e : Nat × Tag := (3,
        { gen := 2, owner := TxnOwner.slot 1, req := 0, ring := 0, pos := 0, toB := false, retries := 0, sentAt := 0, lastAt := 0 });
      let x1 := Pl.get pl 4 10;
      s.dev.twin = true ∧ ((fun d x => bitOf (d.fget SH_TWIN_STAT_LINKS) x) s.dev ↑link = true) ∧ s.dev.powered (4 +
        s.dev.rdOfTag x1) = true ∧ (List.find? (fun e => decide (e.fst = Pl.get pl 4 10) && decide (e.snd.gen = bitsOf
        (Pl.get pl 4 16) 10 4)) (s.dev.rd (s.dev.rdOfTag x1)).tags = some e)) ∧
    (let s : State := netS [(SH_TWIN_STAT_ROLE, 3)] id;
      s.dev.referee = true ∧ s.dev.powered 4 = true) ∧
    (let s : State := netS (paired 2 ++ [(TIM_STAT_STATE, 4)]) id;
      let link : Fin 2 := 1;
      let ring : Nat := 0;
      let pl : Payload := Pl.mk [(2, 16, 6)];
      let c : CycRec := cycRec 6;
      s.dev.linkUp ↑link = true ∧ s.dev.standby = true ∧ s.dev.hasRing ring = true ∧ (List.find? (fun c => decide
        (c.cycle % 65536 = Pl.get pl 2 16)) s.dev.sh.clk.recent = some c) ∧ (¬(s.dev.mayLaunch ring s.dev.ownEnd c =
        true ∧ BitVec.toNat s.dev.now ≤ BitVec.toNat c.t0 + 10 * cfgStile c.cfg + 15 + ceilDiv s.dev.dtw 10 ∧ bitsOf
        (BitVec.toNat pl) 4 4 ∈ s.dev.ringFolds ring))) ∧
    (let s : State := netS (paired 2 ++ [(SH_FOLD_MAP_FOLD 0, 0)]) (fun d =>
        { d.clk (fun x => { x with raw := 62000 }) with sh := { d.sh with clk := { d.sh.clk with raw := 62000 }, tw := { d.sh.tw with refreshed := true } } });
      let link : Fin 2 := 0;
      let ring : Nat := 0;
      let pl : Payload := Pl.mk [(2, 16, 6)];
      let c : CycRec := cycRec 6;
      s.dev.linkUp ↑link = true ∧ s.dev.standby = true ∧ s.dev.hasRing ring = true ∧ (List.find? (fun c => decide
        (c.cycle % 65536 = Pl.get pl 2 16)) s.dev.sh.clk.recent = some c) ∧ s.dev.mayLaunch ring s.dev.ownEnd c = true ∧
        BitVec.toNat s.dev.now ≤ BitVec.toNat c.t0 + 10 * cfgStile c.cfg + 15 + ceilDiv s.dev.dtw 10 ∧ bitsOf
        (BitVec.toNat pl) 4 4 ∈ s.dev.ringFolds ring) := by
  iterate 8 (refine ⟨by decide +kernel, ?_⟩)
  decide +kernel

theorem witness_CellDroveBlocks :
    (let s : State := cel [] (fun c => { c with v1 := true });
      let p : Place := 0;
      let x : CPort := .u;
      let pl : Payload := Pl.mk [(0, 8, 0x12), (2, 16, 7)];
      let h : Held := { pl := 0, late := false, done := false };
      let rx : Rx := ⟨true, 7, false⟩;
      let x1 := Pl.get pl 0 8;
      s.dev.hasPlace p = true ∧ (s.dev.cell p).hears x = true ∧ rx.crcOk = true ∧ rx.follows = false ∧ bitsOf x1 0 4 = 2
        ∧ bitsOf x1 4 4 < 12 ∧ (s.dev.cell p).v1 = true ∧ (s.dev.cell p).tm.everTime = true ∧ (s.dev.cell p).aboveFloor
        pl = true ∧ ((fun l q => List.find? (fun h => decide (plSeq h.pl = plSeq q)) l) (s.dev.cell p).arm.expl
        ((s.dev.cell p).adjust pl) = none) ∧ bitsOf x1 0 4 ≠ 1) ∧
    (let s : State := cel [(SRB_CELL_CFG_CFGD, 1)] id;
      let p : Place := 0;
      let x : CPort := .d;
      let pl : Payload := Pl.mk [(0, 8, 1)];
      let rx : Rx := ⟨true, 0, true⟩;
      let x1 := Pl.get pl 0 8;
      s.dev.hasPlace p = true ∧ (s.dev.cell p).hears x = true ∧ rx.crcOk = true ∧ (s.dev.cell p).v1 = false ∧ (bitsOf x1
        0 4 ≠ 2 ∨ 12 ≤ bitsOf x1 4 4) ∧ rx.follows = true ∧ ((s.dev.cell p).v1 = false ∨ (s.dev.cell p).tm.everTime =
        false ∨ (s.dev.cell p).aboveFloor pl = false) ∧ bitsOf x1 0 4 = 1 ∧ 4 ≤ (s.dev.cell p).row) ∧
    (let s : State := cel [(SRB_FOLD_FOLD, 1)] (fun c =>
        { c with arm := { c.arm with droves := [heldOf 7], seqFloor := some 6 } });
      let p : Place := 0;
      let x : CPort := .u;
      let rx : Rx := ⟨false, 0, true⟩;
      s.dev.hasPlace p = true ∧ (s.dev.cell p).hears x = true ∧ rx.crcOk = false) ∧
    (let s : State := st on;
      let p : Place := 0;
      let x : CPort := .u;
      s.dev.hasPlace p = true ∧ (s.dev.cell p).hears x = false) ∧
    (let s : State := cel [(SRB_CELL_CFG_CFGD, 1)] id;
      let p : Place := 0;
      let x : CPort := .d;
      let pl : Payload := Pl.mk [(0, 8, 0xB2), (2, 16, 8)];
      let rx : Rx := ⟨true, 7, false⟩;
      let x1 := Pl.get pl 0 8;
      s.dev.hasPlace p = true ∧ (s.dev.cell p).hears x = true ∧ rx.crcOk = true ∧ (s.dev.cell p).v1 = false ∧ bitsOf x1
        0 4 = 2 ∧ bitsOf x1 4 4 < 12 ∧ ((s.dev.cell p).tm.everTime = false ∨ (s.dev.cell p).aboveFloor pl = false ∨
        bitsOf x1 4 4 ≠ (s.dev.cell p).fold)) ∧
    (let s : State := cel [(SRB_FOLD_FOLD, 11)] id;
      let p : Place := 0;
      let x : CPort := .d;
      let pl : Payload := Pl.mk [(0, 8, 0xB2), (2, 16, 8)];
      let h : Held := { pl := 0, late := false, done := false };
      let rx : Rx := ⟨true, 7, false⟩;
      let x1 := Pl.get pl 0 8;
      s.dev.hasPlace p = true ∧ (s.dev.cell p).hears x = true ∧ rx.crcOk = true ∧ (s.dev.cell p).v1 = false ∧ bitsOf x1
        0 4 = 2 ∧ bitsOf x1 4 4 < 12 ∧ (s.dev.cell p).tm.everTime = true ∧ (s.dev.cell p).aboveFloor pl = true ∧ bitsOf
        x1 4 4 = (s.dev.cell p).fold ∧ ((fun l q => List.find? (fun h => decide (plSeq h.pl = plSeq q)) l) (s.dev.cell
        p).arm.droves ((s.dev.cell p).adjust (pl &&& droveBits)) = none)) ∧
    (let s : State := cel [(SRB_FOLD_FOLD, 1)] (fun c =>
        { c with arm := { c.arm with droves := [heldOf 7], seqFloor := some 6 } });
      let p : Place := 0;
      let x : CPort := .d;
      let pl : Payload := Pl.mk [(0, 8, 0x12), (2, 16, 7)];
      let h : Held := heldOf 7;
      let rx : Rx := ⟨true, 7, false⟩;
      let x1 := Pl.get pl 0 8;
      s.dev.hasPlace p = true ∧ (s.dev.cell p).hears x = true ∧ rx.crcOk = true ∧ (s.dev.cell p).v1 = false ∧ bitsOf x1
        0 4 = 2 ∧ bitsOf x1 4 4 < 12 ∧ (s.dev.cell p).tm.everTime = true ∧ (s.dev.cell p).aboveFloor pl = true ∧ bitsOf
        x1 4 4 = (s.dev.cell p).fold ∧ ((fun l q => List.find? (fun h => decide (plSeq h.pl = plSeq q)) l) (s.dev.cell
        p).arm.droves ((s.dev.cell p).adjust (pl &&& droveBits)) = some h)) ∧
    (let s : State := cel [] (fun c => { c with v1 := true, arm := { c.arm with expl := [heldOf 7] } });
      let p : Place := 0;
      let x : CPort := .u;
      let pl : Payload := Pl.mk [(0, 8, 0x12), (2, 16, 7)];
      let h : Held := heldOf 7;
      let rx : Rx := ⟨true, 7, false⟩;
      s.dev.hasPlace p = true ∧ (s.dev.cell p).hears x = true ∧ rx.crcOk = true ∧ (s.dev.cell p).v1 = true ∧ (s.dev.cell
        p).tm.everTime = true ∧ (s.dev.cell p).aboveFloor pl = true ∧ ((fun l q => List.find? (fun h => decide (plSeq
        h.pl = plSeq q)) l) (s.dev.cell p).arm.expl ((s.dev.cell p).adjust pl) = some h)) := by
  iterate 7 (refine ⟨by decide +kernel, ?_⟩)
  decide +kernel

theorem witness_CellLinkBlocks :
    (let s : State := cel [(SRB_RP_NEG_RSEQ, 1)] (fun c =>
        { c with lnk := { c.lnk with rseqAny := true, rsp := some 1 } });
      let p : Place := 0;
      let x : CPort := .u;
      let pl : Payload := Pl.mk [(0, 16, 0x8001)];
      let h : Rx := ⟨true, 0, true⟩;
      let x1 := SRB_RP_STAT_STATE x.idx;
      let x2 := BitVec.toNat pl;
      s.dev.hasPlace p = true ∧ (s.dev.cell p).hears x = true ∧ h.crcOk = true ∧ bitOf (Pl.get pl 0 8) 5 = false ∧
        ((s.dev.cell p).fget (if bitOf (Pl.get pl 0 8) 6 = true then SRB_TD_DLYB_D else SRB_TD_DLYA_D) ≠ 0) ∧ (Pl.get pl
        2 14 = (s.dev.cell p).id ∨ Pl.get pl 2 14 = 16383) ∧ (s.dev.cell p).tm.everTime = true ∧ seqDiff (BitVec.ofNat
        16 (Pl.get pl 24 16)) (s.dev.cell p).tm.k ≤ 0 ∧ (x = if bitOf (Pl.get pl 1 8) 0 = true then CPort.d else
        CPort.u) ∧ Pl.get pl 4 48 ≠ (s.dev.cell p).serial.toNat ∧ bitOf (Pl.get pl 1 8) 0 = false ∧ bitOf x2 15 = true ∧
        bitOf x2 14 = false ∧ (¬Pl.get pl 0 14 = (s.dev.cell p).id) ∧ (s.dev.cell p).powered = true ∧ ((s.dev.cell
        p).portLock x = false ∨ (s.dev.cell p).fget SRB_RP_NEG_RVER ≠ 32) ∧ (s.dev.cell p).fget (SRB_RP_STAT_REGEN
        x.idx) = 0 ∧ 2 ≤ (s.dev.cell p).fget x1 ∧ (s.dev.cell p).fget x1 ≤ 5) ∧
    (let s : State := cel [(SRB_RP_NEG_RSEQ, 254), (SRB_TD_DLYA_D, 0)] (fun c =>
        { c with lnk := { c.lnk with rseqAny := true, rspQ := [(.d, 0x4, 1)] } });
      let p : Place := 0;
      let x : CPort := .d;
      let pl : Payload := Pl.mk [(2, 8, 1), (24, 16, 7)];
      let h : Rx := ⟨true, 0, true⟩;
      let e : CPort × BitVec 4 × Payload := (CPort.u, 0, 0);
      s.dev.hasPlace p = true ∧ (s.dev.cell p).hears x = true ∧ h.crcOk = true ∧ (bitOf (Pl.get pl 0 8) 5 = true ∨
        (s.dev.cell p).fget (if bitOf (Pl.get pl 0 8) 6 = true then SRB_TD_DLYB_D else SRB_TD_DLYA_D) = 0) ∧ Pl.get pl 2
        14 ≠ (s.dev.cell p).id ∧ Pl.get pl 2 14 ≠ 16383 ∧ ((s.dev.cell p).tm.everTime = false ∨ 0 < seqDiff
        (BitVec.ofNat 16 (Pl.get pl 24 16)) (s.dev.cell p).tm.k) ∧ bitOf (BitVec.toNat pl) 15 = false ∧ ((match
        List.find? (fun e => decide (e.snd.fst = 7)) (List.filter (fun e => decide (e.fst = x.other)) (s.dev.cell
        p).lnk.rspQ) with
        | some e => some e
        | none => match List.find? (fun e => decide (e.snd.fst = 9)) (List.filter (fun e => decide (e.fst = x.other))
        (s.dev.cell p).lnk.rspQ) with
        | some e => some e
        | none => (List.filter (fun e => decide (e.fst = x.other)) (s.dev.cell p).lnk.rspQ).head?) = none) ∧ Pl.get pl 0
        14 = (s.dev.cell p).id ∧ ((s.dev.cell p).lnk.rseqAny = false ∨ Pl.get pl 2 8 ≠ (s.dev.cell p).fget
        SRB_RP_NEG_RSEQ) ∧ (Pl.get pl 2 8 ≠ ((s.dev.cell p).fget SRB_RP_NEG_RSEQ + 1) % 256 ∨ 4 ≤ (s.dev.cell
        p).lnk.txns.length)) ∧
    (let s : State := cel [] (fun c => { c with lnk := { c.lnk with rspQ := [(.d, 9, 1)] } });
      let p : Place := 0;
      let x : CPort := .u;
      let pl : Payload := Pl.mk [(2, 8, 1), (24, 16, 7)];
      let h : Rx := ⟨true, 0, true⟩;
      let e : CPort × BitVec 4 × Payload := (CPort.d, 9, 1);
      s.dev.hasPlace p = true ∧ (s.dev.cell p).hears x = true ∧ h.crcOk = true ∧ bitOf (BitVec.toNat pl) 15 = false ∧
        ((match List.find? (fun e => decide (e.snd.fst = 7)) (List.filter (fun e => decide (e.fst = x.other))
        (s.dev.cell p).lnk.rspQ) with
        | some e => some e
        | none => match List.find? (fun e => decide (e.snd.fst = 9)) (List.filter (fun e => decide (e.fst = x.other))
        (s.dev.cell p).lnk.rspQ) with
        | some e => some e
        | none => (List.filter (fun e => decide (e.fst = x.other)) (s.dev.cell p).lnk.rspQ).head?) = some e) ∧ e.snd.fst
        ≠ 4 ∧ Pl.get pl 0 14 = (s.dev.cell p).id ∧ ((s.dev.cell p).lnk.rseqAny = false ∨ Pl.get pl 2 8 ≠ (s.dev.cell
        p).fget SRB_RP_NEG_RSEQ) ∧ Pl.get pl 2 8 = ((s.dev.cell p).fget SRB_RP_NEG_RSEQ + 1) % 256 ∧ (s.dev.cell
        p).lnk.txns.length < 4) ∧
    (let s : State := cel [(SRB_RP_NEG_RVER, 32)] id;
      let p : Place := 0;
      let x : CPort := .u;
      let h : Rx := ⟨false, 0, true⟩;
      s.dev.hasPlace p = true ∧ (s.dev.cell p).hears x = true ∧ h.crcOk = false ∧ (s.dev.cell p).powered = true ∧
        (s.dev.cell p).portLock x = true ∧ (s.dev.cell p).fget SRB_RP_NEG_RVER = 32) ∧
    (let s : State := st on;
      let p : Place := 1;
      let x : CPort := .u;
      s.dev.hasPlace p = true ∧ (s.dev.cell p).hears x = false) ∧
    (let s : State := cel [(SRB_CELL_ID, 1)] (fun c => { c with tm := { c.tm with everTime := false } });
      let p : Place := 0;
      let x : CPort := .u;
      let pl : Payload := Pl.mk [(0, 16, 0x8001)];
      let h : Rx := ⟨true, 7, false⟩;
      let x1 := BitVec.toNat pl;
      s.dev.hasPlace p = true ∧ (s.dev.cell p).hears x = true ∧ h.crcOk = true ∧ bitOf x1 15 = true ∧ bitOf x1 14 =
        false ∧ Pl.get pl 0 14 = (s.dev.cell p).id ∧ (s.dev.cell p).hub.gq ++ (s.dev.cell p).hub.pq = [] ∧ (s.dev.cell
        p).hub.recQ = []) ∧
    (let s : State := cel [] (fun c =>
        { c with tm := { c.tm with slotA := 0x80000000, slotB := 0x80000000 }, arm := { c.arm with recs := [⟨6, 0, false, false⟩] } });
      let p : Place := 0;
      let x : CPort := .u;
      let pl : Payload := Pl.mk [(0, 16, 0xC001)];
      let h : Rx := ⟨true, 0, true⟩;
      let i2 : Nat := 0;
      let x1 := BitVec.toNat pl;
      s.dev.hasPlace p = true ∧ (s.dev.cell p).hears x = true ∧ h.crcOk = true ∧ bitOf x1 15 = true ∧ bitOf x1 14 = true
        ∧ (s.dev.cell p).slotOf (decide (x = CPort.u)) = some i2 ∧ (¬((Pl.get pl 0 14 = (s.dev.cell p).id ∨ Pl.get pl 0
        14 = 16383) ∧ 100 * (s.dev.cell p).tm.t0 + i2 % (1000 * max (s.dev.cell p).period 1) ≤ 100 * (s.dev.cell
        p).tm.time + 400))) ∧
    (let s : State := cel [(SRB_RP_NEG_RSEQ, 254), (SRB_TD_DLYA_D, 0)] (fun c =>
        { c with lnk := { c.lnk with rseqAny := true, rspQ := [(.d, 0x4, 1)] } });
      let p : Place := 0;
      let x : CPort := .u;
      let pl : Payload := Pl.mk [(2, 8, 255), (24, 16, 6)];
      let h : Rx := ⟨true, 0, true⟩;
      let e : CPort × BitVec 4 × Payload := (CPort.d, 4, 1);
      s.dev.hasPlace p = true ∧ (s.dev.cell p).hears x = true ∧ h.crcOk = true ∧ bitOf (BitVec.toNat pl) 15 = false ∧
        ((match List.find? (fun e => decide (e.snd.fst = 7)) (List.filter (fun e => decide (e.fst = x.other))
        (s.dev.cell p).lnk.rspQ) with
        | some e => some e
        | none => match List.find? (fun e => decide (e.snd.fst = 9)) (List.filter (fun e => decide (e.fst = x.other))
        (s.dev.cell p).lnk.rspQ) with
        | some e => some e
        | none => (List.filter (fun e => decide (e.fst = x.other)) (s.dev.cell p).lnk.rspQ).head?) = some e) ∧ e.snd.fst
        = 4) ∧
    (let s : State := cel [] (fun c => { c with hub := { c.hub with recQ := [5] } });
      let p : Place := 0;
      let x : CPort := .d;
      let pl : Payload := Pl.mk [(1, 8, 1), (4, 48, (Cell.dflt 0).serial.toNat)];
      let h : Rx := ⟨true, 7, false⟩;
      s.dev.hasPlace p = true ∧ (s.dev.cell p).hears x = true ∧ h.crcOk = true ∧ (x = if bitOf (Pl.get pl 1 8) 0 = true
        then CPort.d else CPort.u) ∧ Pl.get pl 4 48 = (s.dev.cell p).serial.toNat) ∧
    (let s : State := cel [(SRB_RP_NEG_RSEQ, 1)] (fun c =>
        { c with lnk := { c.lnk with rseqAny := true, rsp := some 1 } });
      let p : Place := 0;
      let x : CPort := .u;
      let pl : Payload := Pl.mk [(2, 8, 1), (24, 16, 7)];
      let h : Rx := ⟨true, 0, true⟩;
      let r2 : Payload := 1;
      s.dev.hasPlace p = true ∧ (s.dev.cell p).hears x = true ∧ h.crcOk = true ∧ Pl.get pl 0 14 = (s.dev.cell p).id ∧
        (s.dev.cell p).lnk.rseqAny = true ∧ Pl.get pl 2 8 = (s.dev.cell p).fget SRB_RP_NEG_RSEQ ∧ (s.dev.cell p).lnk.rsp
        = some r2) ∧
    (let s : State := cel [] (fun c =>
        { c with tm := { c.tm with slotA := 0x80000000, slotB := 0x80000000 }, arm := { c.arm with recs := [⟨6, 0, false, false⟩] } });
      let p : Place := 0;
      let x : CPort := .u;
      let pl : Payload := Pl.mk [(0, 16, 0xC000)];
      let h : Rx := ⟨true, 0, true⟩;
      let i2 : Nat := 0;
      let t2 : OutTally :=
        { seq := 6, pl := 0x60000000000000000000000000000000000000000000000000000000000000000000007FFFFFFF0004000004030000000000000000000000068000, sent := 0 };
      let x1 := BitVec.toNat pl;
      s.dev.hasPlace p = true ∧ (s.dev.cell p).hears x = true ∧ h.crcOk = true ∧ bitOf x1 15 = true ∧ bitOf x1 14 = true
        ∧ (s.dev.cell p).slotOf (decide (x = CPort.u)) = some i2 ∧ ((Pl.get pl 0 14 = (s.dev.cell p).id ∨ Pl.get pl 0 14
        = 16383) ∧ 100 * (s.dev.cell p).tm.t0 + i2 % (1000 * max (s.dev.cell p).period 1) ≤ 100 * (s.dev.cell p).tm.time
        + 400) ∧ h.follows = true ∧ (s.dev.cell p).tallyDue (decide (x = CPort.u)) = some t2) ∧
    (let s : State := cel [] (fun c => { c with hub := { c.hub with gq := [5] } });
      let p : Place := 0;
      let x : CPort := .u;
      let pl : Payload := Pl.mk [(0, 16, 0x8000)];
      let h : Rx := ⟨true, 7, false⟩;
      let i : Nat := 0;
      let x1 := BitVec.toNat pl;
      s.dev.hasPlace p = true ∧ (s.dev.cell p).hears x = true ∧ h.crcOk = true ∧ bitOf x1 15 = true ∧ bitOf x1 14 =
        false ∧ Pl.get pl 0 14 = (s.dev.cell p).id ∧ (s.dev.cell p).hub.gq ++ (s.dev.cell p).hub.pq ≠ [] ∧ i < 3) ∧
    (let s : State := cel [] (fun c => { c with hub := { c.hub with recQ := [5] } });
      let p : Place := 0;
      let x : CPort := .u;
      let pl : Payload := Pl.mk [(0, 16, 0x8000)];
      let h : Rx := ⟨true, 7, false⟩;
      let r : Payload := 5;
      let rest : List Payload := [];
      let x1 := BitVec.toNat pl;
      s.dev.hasPlace p = true ∧ (s.dev.cell p).hears x = true ∧ h.crcOk = true ∧ bitOf x1 15 = true ∧ bitOf x1 14 =
        false ∧ Pl.get pl 0 14 = (s.dev.cell p).id ∧ (s.dev.cell p).hub.gq ++ (s.dev.cell p).hub.pq = [] ∧ (s.dev.cell
        p).hub.recQ = r :: rest) := by
  iterate 12 (refine ⟨by decide +kernel, ?_⟩)
  decide +kernel

theorem witness_PortBringUp :
    (let s : State := port 3;
      let q : RxPort := .cell 0 .u;
      let h : Rx := ⟨false, 0, true⟩;
      s.dev.hasPort q = true ∧ s.dev.portOn q = true ∧ 1 < s.dev.portState q ∧ s.dev.portState q ≠ 1 ∧ s.dev.portState q
        ≠ 2 ∧ h.crcOk = false ∧ 3 ≤ s.dev.portState q ∧ s.dev.portState q ≤ 5 ∧ 2 ≤ s.dev.portState q) ∧
    (let s : State := port 1;
      let q : RxPort := .cell 0 .u;
      let half : Bool := false;
      s.dev.hasPort q = true ∧ s.dev.portOn q = true ∧ s.dev.portState q ≤ 1 ∧ ((match q with
          | RxPort.pkg rd i => decide (half = (s.dev.takeRate (s.dev.endOfPort rd.idx i).1).half (s.dev.endOfPort rd.idx i).1)
          | RxPort.cell p _ => half || !(s.dev.cell p).lnk.half) = true) ∧ s.dev.portState q = 1
        ∧ (s.dev.portState q < 3 ∨ 5 < s.dev.portState q) ∧ (s.dev.portState q < 2 ∨ 5 < s.dev.portState q)) ∧
    (let s : State := st on;
      let q : RxPort := .cell 0 .u;
      s.dev.hasPort q = true ∧ s.dev.portOn q = false) ∧
    (let s : State := port 5;
      let q : RxPort := .cell 0 .u;
      let h : Rx := ⟨true, 7, false⟩;
      s.dev.hasPort q = true ∧ s.dev.portOn q = true ∧ h.crcOk = true ∧ s.dev.portState q = 5) ∧
    (let s : State := port 2;
      let q : RxPort := .pkg .rd0 0;
      s.dev.hasPort q = true ∧ s.dev.portOn q = true ∧ s.dev.portState q = 2) ∧
    (let s : State := port 4;
      let q : RxPort := .cell 0 .u;
      let h : Rx := ⟨true, 0, true⟩;
      let pl : Payload := Pl.mk [(9, 8, 1)];
      s.dev.hasPort q = true ∧ s.dev.portOn q = true ∧ h.crcOk = true ∧ s.dev.portState q = 4 ∧ (s.dev.trainCount q
        (bitOf (Pl.get pl 9 8) 0)).fst < 16) ∧
    (let s : State := port 3;
      let q : RxPort := .cell 0 .u;
      let h : Rx := ⟨true, 7, false⟩;
      let pl : Payload := Pl.mk [(9, 8, 1)];
      s.dev.hasPort q = true ∧ s.dev.portOn q = true ∧ h.crcOk = true ∧ s.dev.portState q = 3 ∧ s.dev.identity q pl =
        none) ∧
    (let s : State := port 0;
      let q : RxPort := .pkg .rd0 0;
      let half : Bool := true;
      s.dev.hasPort q = true ∧ s.dev.portOn q = true ∧ s.dev.portState q ≤ 1 ∧ ((match q with
          | RxPort.pkg rd i => decide (half = (s.dev.takeRate (s.dev.endOfPort rd.idx i).1).half (s.dev.endOfPort rd.idx i).1)
          | RxPort.cell p _ => half || !(s.dev.cell p).lnk.half) = false)) ∧
    (let s : State := st ((port 4).dev.modRd 0 (fun x => { x with rpn := [(0, 15)] }));
      let q : RxPort := .pkg .rd0 0;
      let h : Rx := ⟨true, 7, false⟩;
      let pl : Payload := Pl.mk [(9, 8, 1)];
      s.dev.hasPort q = true ∧ s.dev.portOn q = true ∧ h.crcOk = true ∧ s.dev.portState q = 4 ∧ 16 ≤ (s.dev.trainCount q
        (bitOf (Pl.get pl 9 8) 0)).fst) ∧
    (let s : State := port 3;
      let q : RxPort := .pkg .rd0 0;
      let h : Rx := ⟨true, 0, true⟩;
      let pl : Payload := Pl.mk [(0, 8, 1), (1, 8, 1)];
      s.dev.hasPort q = true ∧ s.dev.portOn q = true ∧ h.crcOk = true ∧ s.dev.portState q = 3 ∧ s.dev.identity q pl ≠
        none) := by
  iterate 9 (refine ⟨by decide +kernel, ?_⟩)
  decide +kernel

theorem witness_RingEnumerationResults :
    (let s : State := netS [(RDn_RING_CTL_SLPA 0 0, 1), (RDn_RING_CTL_SLPA 1 0, 1)] id;
      let r : Nat := 0;
      let h : Nat := 1;
      let e : End := .a;
      let pl : Payload := Pl.mk [(0, 8, 2), (1, 8, 1), (4, 48, (Cell.dflt 0).serial.toNat)];
      let rd : RDie := .rd0;
      let i : Nat := 0;
      let ty : BitVec 4 := 15;
      let rx : Rx := ⟨false, 0, true⟩;
      let e' : End := .a;
      let x1 := RxPort.pkg rd i;
      let x2 := s.dev.endOfPort rd.idx i;
      s.dev.hasRing r = true ∧ (s.dev.live r = true ∨ s.dev.linkedEnds r = [] ∨ s.dev.ringState r = 6 ∨ s.dev.role = 3)
        ∧ s.dev.endHeard r e = true ∧ rx.crcOk = false ∧ s.dev.ringState r ≠ 1 ∧ (s.dev.ringState r ≠ 2 ∨ s.dev.measured
        r = false) ∧ h ≤ 64 ∧ (List.find? (fun e => decide (e.fst = h)) (s.dev.ring r).ready = none) ∧ s.dev.hasPort x1
        = true ∧ s.dev.portOn x1 = true ∧ s.dev.fbit (RDn_RP_STAT_LOCK rd.idx i) = true ∧ 12 ≤ ty.toNat ∧ s.dev.hasPort
        x1 = true ∧ s.dev.endUp x2.fst x2.snd = true ∧ s.dev.endOfPort rd.idx i = (r, e') ∧ (rx.crcOk = false ∨ (fun e'
        => Pl.get pl 3 8 = r ∧ bitOf (Pl.get pl 1 8) 0 = decide (e' = End.a)) e' ∨ s.dev.live r = true) ∧ s.dev.fbit
        (s.dev.rf (slpCtl e) r) = true ∧ (s.dev.powered 4 = true ∨ s.dev.powered 5 = true)) ∧
    (let s : State := ringS 2 [] (fun x => { x with up := false });
      let r : Nat := 0;
      let e : End := .b;
      let pl : Payload := Pl.mk [(0, 8, 4), (4, 48, (Cell.dflt 0).serial.toNat), (16, 8, 1), (17, 8, 1)];
      let rd : RDie := .rd0;
      let i : Nat := 0;
      let ty : BitVec 4 := 15;
      let rx : Rx := ⟨true, 7, false⟩;
      let e2 : End := .a;
      let e' : End := End.a;
      let x1 := RxPort.pkg rd i;
      let x2 := s.dev.endOfPort rd.idx i;
      s.dev.hasRing r = true ∧ (¬(s.dev.live r = true ∨ s.dev.linkedEnds r = [] ∨ s.dev.ringState r = 6 ∨ s.dev.role =
        3)) ∧ e2 ∈ s.dev.linkedEnds r ∧ (s.dev.powered 4 = true ∨ s.dev.powered 5 = true) ∧ s.dev.ringState r = 2 ∧
        s.dev.measured r = true ∧ (s.dev.ring r).whole = true ∧ s.dev.hasPort x1 = true ∧ s.dev.portOn x1 = true ∧
        s.dev.fbit (RDn_RP_STAT_LOCK rd.idx i) = true ∧ 12 ≤ ty.toNat ∧ rx.crcOk = true ∧ s.dev.hasPort x1 = true ∧
        s.dev.endUp x2.fst x2.snd = true ∧ s.dev.endOfPort rd.idx i = (r, e') ∧ (¬(fun e' => Pl.get pl 3 8 = r ∧ bitOf
        (Pl.get pl 1 8) 0 = decide (e' = End.a)) e') ∧ s.dev.live r = false ∧ s.dev.fbit (s.dev.rf (slpCtl e) r) = false
        ∧ (s.dev.mode ≠ 0 ∨ s.dev.live r = false ∨ s.dev.fbit (s.dev.rf (slpCtl (endOther e)) r) = true ∨ s.dev.fget
        (s.dev.rf RDn_RING_STAT_RVER r) ≠ 32)) ∧
    (let s : State := netS [(SH_MODE_CUR, 0), (RDn_RING_STAT_RVER 0 0, 0x20), (RDn_RING_STAT_RVER 1 0, 0x20)] id;
      let r : Nat := 0;
      let e : End := .a;
      let pl : Payload := Pl.mk [(0, 8, 4), (4, 48, (Cell.dflt 0).serial.toNat), (16, 8, 1), (17, 8, 1)];
      let c : Nat × Enum := (0, (en 0));
      let rx : Rx := ⟨true, 0, true⟩;
      s.dev.hasRing r = true ∧ s.dev.endHeard r e = true ∧ rx.crcOk = true ∧ (s.dev.ring r).up = true ∧ bitsOf (Pl.get
        pl 0 8) 0 4 = 4 ∧ (List.find? (fun c => decide (c.snd.serial.toNat = Pl.get pl 4 48)) (s.dev.ring r).cells =
        some c) ∧ Pl.get pl 16 8 = 1 ∧ s.dev.fbit (s.dev.rf (slpCtl e) r) = false ∧ s.dev.mode = 0 ∧ s.dev.live r = true
        ∧ s.dev.fget (s.dev.rf RDn_RING_STAT_RVER r) = 32 ∧ s.dev.fbit (s.dev.rf (slpCtl (endOther e)) r) = false ∧
        (s.dev.powered 4 = true ∨ s.dev.powered 5 = true)) ∧
    (let s : State := ringS 4 [(TIM_CYC_MIN_TCLOSE, 300)] (fun x =>
        { x with cuts := [(1, true), (1, false)], ready := [(1, 51)] });
      let r : Nat := 0;
      let h : Nat := 1;
      let e : End := .a;
      let pl : Payload := Pl.mk [(0, 8, 4), (4, 48, (Cell.dflt 0).serial.toNat), (16, 8, 3), (17, 8, 1)];
      let c : Nat × Enum := (0, (en 0));
      let rx : Rx := ⟨true, 0, true⟩;
      let q : Nat × Nat := (1, 51);
      s.dev.hasRing r = true ∧ s.dev.endHeard r e = true ∧ rx.crcOk = true ∧ (s.dev.ring r).up = true ∧ bitsOf (Pl.get
        pl 0 8) 0 4 = 4 ∧ (List.find? (fun c => decide (c.snd.serial.toNat = Pl.get pl 4 48)) (s.dev.ring r).cells =
        some c) ∧ Pl.get pl 16 8 = 3 ∧ (s.dev.ring r).hopAt c.snd.place (bitOf (Pl.get pl 17 8) 0) ∈ (s.dev.ring
        r).breaks ∧ h ≤ 64 ∧ (List.find? (fun e => decide (e.fst = h)) (s.dev.ring r).ready = some q) ∧ (¬h ∈
        (s.dev.ring r).deadHops) ∧ s.dev.ringState r ≠ 5 ∧ (s.dev.ring r).joining = none ∧ (s.dev.admitted r = false ∨
        ((s.dev.setRing r (s.dev.joined r h (q.snd - 1))).admits r).fst = true)) ∧
    (let s : State := ringS 4 [(TIM_CYC_MIN_TCLOSE, 300)] (fun x =>
        { x with cuts := [(1, true), (1, false)], ready := [(1, 51)] });
      let r : Nat := 64;
      let e : End := .b;
      s.dev.hasRing r = true ∧ s.dev.endHeard r e = false) ∧
    (let s : State := ringS 2 [] (fun x =>
        { x with up := false, whole := false, cells := [(0, { en 0 with hopB := none })] });
      let r : Nat := 0;
      s.dev.hasRing r = true ∧ (s.dev.powered 4 = true ∨ s.dev.powered 5 = true) ∧ s.dev.ringState r = 2 ∧
        s.dev.measured r = true ∧ (s.dev.ring r).whole = false) ∧
    (let s : State := ringS 4 [] (fun x => { x with up := false, ready := [(1, 51)] });
      let r : Nat := 0;
      let h : Nat := 1;
      let e : End := .a;
      let q : Nat × Nat := (1, 51);
      s.dev.hasRing r = true ∧ h ≤ 64 ∧ (List.find? (fun e => decide (e.fst = h)) (s.dev.ring r).ready = some q) ∧
        ((s.dev.ring r).up = false ∨ h ∈ (s.dev.ring r).deadHops ∨ s.dev.ringState r = 5 ∨ (s.dev.ring r).joining ≠
        none)) ∧
    (let s : State := ringS 4 [] (fun x => { x with cuts := [(1, true), (1, false)], ready := [(1, 10000001)] });
      let r : Nat := 0;
      let h : Nat := 1;
      let e : End := .b;
      let q : Nat × Nat := (1, 10000001);
      s.dev.hasRing r = true ∧ h ≤ 64 ∧ (List.find? (fun e => decide (e.fst = h)) (s.dev.ring r).ready = some q) ∧
        (s.dev.ring r).up = true ∧ (¬h ∈ (s.dev.ring r).deadHops) ∧ s.dev.ringState r ≠ 5 ∧ (s.dev.ring r).joining =
        none ∧ s.dev.admitted r = true ∧ ((s.dev.setRing r (s.dev.joined r h (q.snd - 1))).admits r).fst = false ∧
        (s.dev.powered 4 = true ∨ s.dev.powered 5 = true)) ∧
    (let s : State := ringS 1 [] (fun _ => Ring.down);
      let r : Nat := 0;
      let e : End := .a;
      let pl : Payload := Pl.mk [(0, 8, 2), (1, 8, 1), (4, 48, (Cell.dflt 0).serial.toNat)];
      let rx : Rx := ⟨true, 0, true⟩;
      let p : Nat := 0;
      s.dev.hasRing r = true ∧ s.dev.ringState r = 1 ∧ s.dev.endHeard r e = true ∧ rx.crcOk = true ∧ bitsOf (Pl.get pl 0
        8) 0 4 = 2 ∧ Pl.get pl 3 8 = r ∧ s.dev.placeBySerial r (Pl.get pl 4 48) = some p ∧ rx.follows = true) := by
  iterate 8 (refine ⟨by decide +kernel, ?_⟩)
  decide +kernel

theorem witness_TransactionResults :
    (let s : State := held 0;
      let r : Nat := 0;
      let e : End := .b;
      let pl : Payload := 0;
      let h : Rx := ⟨true, 0, true⟩;
      let tag : Fin 1024 := 3;
      let g : Tag :=
        { gen := 2, owner := TxnOwner.slot 1, req := 0, ring := 0, pos := 0, toB := false, retries := 0, sentAt := 0, lastAt := 0 };
      let i : Fin 64 := 63;
      let v : W64 := 0x8000046A00000024;
      let q : Nat × Tag := (0,
        { gen := 0, owner := TxnOwner.slot 0, req := 0, ring := 0, pos := 0, toB := false, retries := 0, sentAt := 0, lastAt := 0 });
      let k3 : Nat := 1;
      let x2 := s.dev.plainWrite (GLB_TXS_REQ ↑i) v;
      let x3 := s.dev.rd (s.dev.rdOfEnd r e);
      let x4 := GLB_TXS_RES_BUSY ↑i;
      let x1 := (x2.fset (GLB_TXS_RES_DONE ↑i) 0).fset x4 1;
      s.dev.hasRing r = true ∧ s.dev.endUp r e = true ∧ h.crcOk = true ∧ (List.find? (fun q => decide (1024 ≤ q.fst) &&
        decide (Pl.get q.snd.req 0 14 = Pl.get pl 0 14) && decide (Pl.get q.snd.req 2 8 = Pl.get pl 2 8)) x3.tags =
        none) ∧ (List.find? (fun q => decide (q.fst = Pl.get pl 4 10) && decide (q.snd.gen = bitsOf (Pl.get pl 4 16) 10
        4)) x3.tags = none) ∧ (List.find? (fun q => decide (q.fst = ↑tag)) (s.dev.rd (s.dev.rdOfTag ↑tag)).tags = some
        (↑tag, g)) ∧ g.retries < 2 ∧ s.dev.clockRuns = true ∧ s.dev.running (4 + s.dev.rdOfTag ↑tag) = true ∧
        (s.dev.ownsEnd (if g.toB = true then End.b else End.a) = true) ∧ k3 < 64 ∧ g.owner = TxnOwner.slot k3 ∧
        BitVec.getLsbD v 63 = true ∧ x2.fbit x4 = false ∧ x1.txnReasons false (x1.fget (GLB_TXS_REQ_ID ↑i)) (x1.fget
        (GLB_TXS_REQ_OFS ↑i)) ≠ []) ∧
    (let s : State := heldTask true 200000;
      let r : Nat := 0;
      let e : End := .a;
      let h : Rx := ⟨false, 0, true⟩;
      let tag : Fin 1024 := 3;
      let g : Tag :=
        { gen := 2, owner := TxnOwner.task .a 3, req := 0, ring := 0, pos := 0, toB := false, retries := 2, sentAt := 0, lastAt := 0 };
      let v : W64 := 0x7FFFFFFFFFFFFFFF;
      let c3 : CDie := .a;
      let t3 : Nat := 3;
      let q5 : TxnRef := { tag := 3, gen := 2, done := none, waits := true };
      s.dev.hasRing r = true ∧ s.dev.endUp r e = true ∧ h.crcOk = false ∧ (List.find? (fun q => decide (q.fst = ↑tag))
        (s.dev.rd (s.dev.rdOfTag ↑tag)).tags = some (↑tag, g)) ∧ 2 ≤ g.retries ∧ g.owner = TxnOwner.task c3 t3 ∧
        (List.find? (fun q => decide (q.tag = ↑tag) && decide (q.gen = g.gen) && q.done.isNone) ((s.dev.cd c3.idx).task
        t3).txns = some q5) ∧ q5.waits = true ∧ BitVec.getLsbD v 63 = false) ∧
    (let s : State := netS [(RDn_RP_STAT_LOCK 0 0, 0), (GLB_TXS_RES_BUSY 63, 1)] id;
      let r : Nat := 0;
      let e : End := .a;
      let tag : Fin 1024 := 1023;
      let i : Fin 64 := 0;
      let v : W64 := 0x8000000000200000;
      let x2 := s.dev.plainWrite (GLB_TXS_REQ ↑i) v;
      let x3 := GLB_TXS_RES_BUSY ↑i;
      let x1 := (x2.fset (GLB_TXS_RES_DONE ↑i) 0).fset x3 1;
      s.dev.hasRing r = true ∧ s.dev.endUp r e = false ∧ (List.find? (fun q => decide (q.fst = ↑tag)) (s.dev.rd
        (s.dev.rdOfTag ↑tag)).tags = none) ∧ BitVec.getLsbD v 63 = true ∧ x2.fbit x3 = false ∧ x1.txnReasons false
        (x1.fget (GLB_TXS_REQ_ID ↑i)) (x1.fget (GLB_TXS_REQ_OFS ↑i)) = []) ∧
    (let s : State := st (set ((held 0).dev.modRd 0 (fun x =>
        { x with tags := x.tags.map (fun e => (e.1, { e.2 with toB := true })) })) (paired 1));
      let r : Nat := 0;
      let e : End := .a;
      let pl : Payload := Pl.mk [(4, 16, 0x803)];
      let h : Rx := ⟨true, 0, true⟩;
      let tag : Fin 1024 := 3;
      let g : Tag :=
        { gen := 2, owner := TxnOwner.slot 1, req := 0, ring := 0, pos := 0, toB := true, retries := 0, sentAt := 0, lastAt := 0 };
      let q : Nat × Tag := (0,
        { gen := 0, owner := TxnOwner.slot 0, req := 0, ring := 0, pos := 0, toB := false, retries := 0, sentAt := 0, lastAt := 0 });
      let q2 : Nat × Tag := (3,
        { gen := 2, owner := TxnOwner.slot 1, req := 0, ring := 0, pos := 0, toB := true, retries := 0, sentAt := 0, lastAt := 0 });
      let k : Nat := 1;
      let x1 := s.dev.rdOfEnd r e;
      s.dev.hasRing r = true ∧ s.dev.endUp r e = true ∧ h.crcOk = true ∧ (List.find? (fun q => decide (1024 ≤ q.fst) &&
        decide (Pl.get q.snd.req 0 14 = Pl.get pl 0 14) && decide (Pl.get q.snd.req 2 8 = Pl.get pl 2 8)) (s.dev.rd
        x1).tags = none) ∧ (List.find? (fun q => decide (q.fst = Pl.get pl 4 10) && decide (q.snd.gen = bitsOf (Pl.get
        pl 4 16) 10 4)) (s.dev.rd x1).tags = some q2) ∧ s.dev.rdSince x1 q2.snd.sentAt ≤ 100000 ∧ k < 64 ∧ q2.snd.owner
        = TxnOwner.slot k ∧ (List.find? (fun q => decide (q.fst = ↑tag)) (s.dev.rd (s.dev.rdOfTag ↑tag)).tags = some
        (↑tag, g)) ∧ g.retries < 2 ∧ (s.dev.ownsEnd (if g.toB = true then End.b else End.a) = false)) ∧
    (let s : State := heldTask false 200000;
      let r : Nat := 0;
      let e : End := .a;
      let pl : Payload := Pl.mk [(4, 16, 0x803)];
      let h : Rx := ⟨true, 0, true⟩;
      let tag : Fin 1024 := 3;
      let g : Tag :=
        { gen := 2, owner := TxnOwner.task .a 3, req := 0, ring := 0, pos := 0, toB := false, retries := 2, sentAt := 0, lastAt := 0 };
      let q : Nat × Tag := (0,
        { gen := 0, owner := TxnOwner.slot 0, req := 0, ring := 0, pos := 0, toB := false, retries := 0, sentAt := 0, lastAt := 0 });
      let q2 : Nat × Tag := (3,
        { gen := 2, owner := TxnOwner.task .a 3, req := 0, ring := 0, pos := 0, toB := false, retries := 2, sentAt := 0, lastAt := 0 });
      let c2 : CDie := .a;
      let t2 : Nat := 3;
      let q4 : TxnRef := { tag := 3, gen := 2, done := none, waits := false };
      let c3 : CDie := .a;
      let t3 : Nat := 3;
      let q5 : TxnRef := { tag := 3, gen := 2, done := none, waits := false };
      let x1 := s.dev.rdOfEnd r e;
      let x2 := Pl.get pl 4 16;
      s.dev.hasRing r = true ∧ s.dev.endUp r e = true ∧ h.crcOk = true ∧ (List.find? (fun q => decide (1024 ≤ q.fst) &&
        decide (Pl.get q.snd.req 0 14 = Pl.get pl 0 14) && decide (Pl.get q.snd.req 2 8 = Pl.get pl 2 8)) (s.dev.rd
        x1).tags = none) ∧ (List.find? (fun q => decide (q.fst = Pl.get pl 4 10) && decide (q.snd.gen = bitsOf x2 10 4))
        (s.dev.rd x1).tags = some q2) ∧ 100000 < s.dev.rdSince x1 q2.snd.sentAt ∧ q2.snd.owner = TxnOwner.task c2 t2 ∧
        (List.find? (fun q => decide (q.tag = Pl.get pl 4 10) && decide (q.gen = bitsOf x2 10 4) && q.done.isNone)
        ((s.dev.cd c2.idx).task t2).txns = some q4) ∧ q4.waits = false ∧ (List.find? (fun q => decide (q.fst = ↑tag))
        (s.dev.rd (s.dev.rdOfTag ↑tag)).tags = some (↑tag, g)) ∧ g.owner = TxnOwner.task c3 t3 ∧ (List.find? (fun q =>
        decide (q.tag = ↑tag) && decide (q.gen = g.gen) && q.done.isNone) ((s.dev.cd c3.idx).task t3).txns = some q5) ∧
        q5.waits = false) ∧
    (let s : State := heldTask true 0;
      let r : Nat := 0;
      let e : End := .a;
      let pl : Payload := Pl.mk [(4, 16, 0x803)];
      let h : Rx := ⟨true, 7, false⟩;
      let q : Nat × Tag := (0,
        { gen := 0, owner := TxnOwner.slot 0, req := 0, ring := 0, pos := 0, toB := false, retries := 0, sentAt := 0, lastAt := 0 });
      let q2 : Nat × Tag := (3,
        { gen := 2, owner := TxnOwner.task .a 3, req := 0, ring := 0, pos := 0, toB := false, retries := 2, sentAt := 0, lastAt := 0 });
      let c : CDie := .a;
      let t : Nat := 3;
      let q3 : TxnRef := { tag := 3, gen := 2, done := none, waits := true };
      let x1 := s.dev.rdOfEnd r e;
      let x2 := Pl.get pl 4 16;
      s.dev.hasRing r = true ∧ s.dev.endUp r e = true ∧ h.crcOk = true ∧ (List.find? (fun q => decide (1024 ≤ q.fst) &&
        decide (Pl.get q.snd.req 0 14 = Pl.get pl 0 14) && decide (Pl.get q.snd.req 2 8 = Pl.get pl 2 8)) (s.dev.rd
        x1).tags = none) ∧ (List.find? (fun q => decide (q.fst = Pl.get pl 4 10) && decide (q.snd.gen = bitsOf x2 10 4))
        (s.dev.rd x1).tags = some q2) ∧ s.dev.rdSince x1 q2.snd.sentAt ≤ 100000 ∧ q2.snd.owner = TxnOwner.task c t ∧
        (List.find? (fun q => decide (q.tag = Pl.get pl 4 10) && decide (q.gen = bitsOf x2 10 4) && q.done.isNone)
        ((s.dev.cd c.idx).task t).txns = some q3) ∧ q3.waits = true) ∧
    (let s : State := st ((held 2).dev.modRd 0 (fun x => { x with raw := 200000 }));
      let r : Nat := 0;
      let e : End := .a;
      let pl : Payload := Pl.mk [(4, 16, 0x803)];
      let h : Rx := ⟨true, 0, true⟩;
      let q : Nat × Tag := (0,
        { gen := 0, owner := TxnOwner.slot 0, req := 0, ring := 0, pos := 0, toB := false, retries := 0, sentAt := 0, lastAt := 0 });
      let q2 : Nat × Tag := (3,
        { gen := 2, owner := TxnOwner.slot 1, req := 0, ring := 0, pos := 0, toB := false, retries := 2, sentAt := 0, lastAt := 0 });
      let k2 : Nat := 1;
      let x1 := s.dev.rdOfEnd r e;
      s.dev.hasRing r = true ∧ s.dev.endUp r e = true ∧ h.crcOk = true ∧ (List.find? (fun q => decide (1024 ≤ q.fst) &&
        decide (Pl.get q.snd.req 0 14 = Pl.get pl 0 14) && decide (Pl.get q.snd.req 2 8 = Pl.get pl 2 8)) (s.dev.rd
        x1).tags = none) ∧ (List.find? (fun q => decide (q.fst = Pl.get pl 4 10) && decide (q.snd.gen = bitsOf (Pl.get
        pl 4 16) 10 4)) (s.dev.rd x1).tags = some q2) ∧ 100000 < s.dev.rdSince x1 q2.snd.sentAt ∧ k2 < 64 ∧ q2.snd.owner
        = TxnOwner.slot k2) ∧
    (let s : State := st ((held 0).dev.modRd 0 (fun x => { x with tags := x.tags.map (fun e => (1027, e.2)) }));
      let r : Nat := 0;
      let e : End := .a;
      let pl : Payload := Pl.mk [(4, 16, 0x803)];
      let h : Rx := ⟨true, 7, false⟩;
      let q : Nat × Tag := (1027,
        { gen := 2, owner := TxnOwner.slot 1, req := 0, ring := 0, pos := 0, toB := false, retries := 0, sentAt := 0, lastAt := 0 });
      s.dev.hasRing r = true ∧ s.dev.endUp r e = true ∧ h.crcOk = true ∧ (List.find? (fun q => decide (1024 ≤ q.fst) &&
        decide (Pl.get q.snd.req 0 14 = Pl.get pl 0 14) && decide (Pl.get q.snd.req 2 8 = Pl.get pl 2 8)) (s.dev.rd
        (s.dev.rdOfEnd r e)).tags = some q)) ∧
    (let s : State := heldTask true 200000;
      let r : Nat := 0;
      let e : End := .a;
      let pl : Payload := Pl.mk [(4, 16, 0x803)];
      let h : Rx := ⟨true, 0, true⟩;
      let q : Nat × Tag := (0,
        { gen := 0, owner := TxnOwner.slot 0, req := 0, ring := 0, pos := 0, toB := false, retries := 0, sentAt := 0, lastAt := 0 });
      let q2 : Nat × Tag := (3,
        { gen := 2, owner := TxnOwner.task .a 3, req := 0, ring := 0, pos := 0, toB := false, retries := 2, sentAt := 0, lastAt := 0 });
      let c2 : CDie := .a;
      let t2 : Nat := 3;
      let q4 : TxnRef := { tag := 3, gen := 2, done := none, waits := true };
      let x1 := s.dev.rdOfEnd r e;
      let x2 := Pl.get pl 4 16;
      s.dev.hasRing r = true ∧ s.dev.endUp r e = true ∧ h.crcOk = true ∧ (List.find? (fun q => decide (1024 ≤ q.fst) &&
        decide (Pl.get q.snd.req 0 14 = Pl.get pl 0 14) && decide (Pl.get q.snd.req 2 8 = Pl.get pl 2 8)) (s.dev.rd
        x1).tags = none) ∧ (List.find? (fun q => decide (q.fst = Pl.get pl 4 10) && decide (q.snd.gen = bitsOf x2 10 4))
        (s.dev.rd x1).tags = some q2) ∧ 100000 < s.dev.rdSince x1 q2.snd.sentAt ∧ q2.snd.owner = TxnOwner.task c2 t2 ∧
        (List.find? (fun q => decide (q.tag = Pl.get pl 4 10) && decide (q.gen = bitsOf x2 10 4) && q.done.isNone)
        ((s.dev.cd c2.idx).task t2).txns = some q4) ∧ q4.waits = true) ∧
    (let s : State := heldTask false 0;
      let r : Nat := 0;
      let e : End := .a;
      let pl : Payload := Pl.mk [(4, 16, 0x803)];
      let h : Rx := ⟨true, 0, true⟩;
      let q : Nat × Tag := (0,
        { gen := 0, owner := TxnOwner.slot 0, req := 0, ring := 0, pos := 0, toB := false, retries := 0, sentAt := 0, lastAt := 0 });
      let q2 : Nat × Tag := (3,
        { gen := 2, owner := TxnOwner.task .a 3, req := 0, ring := 0, pos := 0, toB := false, retries := 2, sentAt := 0, lastAt := 0 });
      let c : CDie := .a;
      let t : Nat := 3;
      let q3 : TxnRef := { tag := 3, gen := 2, done := none, waits := false };
      let x1 := s.dev.rdOfEnd r e;
      let x2 := Pl.get pl 4 16;
      s.dev.hasRing r = true ∧ s.dev.endUp r e = true ∧ h.crcOk = true ∧ (List.find? (fun q => decide (1024 ≤ q.fst) &&
        decide (Pl.get q.snd.req 0 14 = Pl.get pl 0 14) && decide (Pl.get q.snd.req 2 8 = Pl.get pl 2 8)) (s.dev.rd
        x1).tags = none) ∧ (List.find? (fun q => decide (q.fst = Pl.get pl 4 10) && decide (q.snd.gen = bitsOf x2 10 4))
        (s.dev.rd x1).tags = some q2) ∧ s.dev.rdSince x1 q2.snd.sentAt ≤ 100000 ∧ q2.snd.owner = TxnOwner.task c t ∧
        (List.find? (fun q => decide (q.tag = Pl.get pl 4 10) && decide (q.gen = bitsOf x2 10 4) && q.done.isNone)
        ((s.dev.cd c.idx).task t).txns = some q3) ∧ q3.waits = false) ∧
    (let s : State := netS [(RDn_RP_STAT_LOCK 0 0, 0), (GLB_TXS_RES_BUSY 63, 1)] id;
      let i : Fin 64 := 63;
      let v : W64 := 0x8000046A00000024;
      BitVec.getLsbD v 63 = true ∧ (s.dev.plainWrite (GLB_TXS_REQ ↑i) v).fbit (GLB_TXS_RES_BUSY ↑i) = true) := by
  iterate 10 (refine ⟨by decide +kernel, ?_⟩)
  decide +kernel

theorem witness_StreamAndRingEndResults :
    (let s : State := netS [] (fun d => d.modCell 0 (fun c => (c.fset (SRB_RP_STAT_LAUNCH 0) 1).fset
        (SRB_RP_STAT_LAUNCH 1) 1));
      let r : Nat := 0;
      let e : End := .a;
      let h : Rx := ⟨false, 0, true⟩;
      let f : Fin 64 := 0;
      let bytes : Nat := 8;
      let addr : Nat := 167772160;
      let rd : RDie := .rd1;
      let v : W64 := hubReq 0 0 1;
      let c : CycRec := { cycle := 0, t0 := 0, cfg := 0, mode := 0, rtc := 0, step := 0, dig := 0, tok := 0, aq := [] };
      let p : Place := 0;
      let x : CPort := .d;
      let sub : BitVec 4 := 0;
      let arrived : Bool := false;
      let x1 := (s.dev.rd (s.dev.fifoRd ↑f)).fifo (s.dev.fifoLoc ↑f);
      let x2 := SRB_RP_STAT_LAUNCH x.idx;
      s.dev.powered (4 + s.dev.fifoRd ↑f) = true ∧ 0 < bytes ∧ bytes % 8 = 0 ∧ bytes ≤ 64 ∧ x1.ptrBad = false ∧
        x1.visible ≤ x1.words.length ∧ x1.visible = x1.words.length ∧ inAlias addr = true ∧ s.dev.debugOpen = false ∧
        aligned addr bytes = true ∧ s.dev.present (4 + rd.idx) = true ∧ (BitVec.getLsbD v 63 = false ∨ s.dev.winUp
        (RDn_HUB_REQ rd.idx) = false ∨ rd.idx ≠ s.dev.master) ∧ s.dev.hasRing r = true ∧ s.dev.endUp r e = true ∧
        h.crcOk = false ∧ (List.find? (fun c => decide (c.cycle + 1 = s.dev.sh.tly.voted)) s.dev.sh.clk.recent = none) ∧
        s.dev.endHeard r e = true ∧ ((s.dev.ring r).up = true ∧ (s.dev.ring r).breaks = [] ∧ (s.dev.ring r).dark = none
        ∧ (s.dev.ringState r = 3 ∨ s.dev.ringState r = 4)) ∧ arrived = false ∧ s.dev.ownsEnd e = true ∧
        s.dev.endPortState r e = 5 ∧ s.dev.fbit (s.dev.rf (slpCtl e) r) = false ∧ 2 ≤ s.dev.ringState r ∧
        s.dev.sh.clk.steps = [] ∧ sub ≠ 1 ∧ sub ≠ 2 ∧ sub ≠ 4 ∧ s.dev.hasPlace p = true ∧ (s.dev.cell p).powered = true
        ∧ (s.dev.cell p).fbit x2 = true ∧ ((s.dev.cell p).powered = false ∨ (s.dev.cell p).fbit x2 = false ∨ sub ≠ 1)) ∧
    (let s : State := token [] [{ delta := -1, cycle := 7, host := true }];
      let r : Nat := 0;
      let e : End := .b;
      let pl : Payload := Pl.mk [(2, 14, 5)];
      let h : Rx := ⟨true, 0, true⟩;
      let f : Fin 64 := 0;
      let bytes : Nat := 0;
      let addr : Nat := 0;
      let rd : RDie := .rd0;
      let v : W64 := hubReq 0 0 1;
      let c : CycRec := cycRec 4;
      let arrived : Bool := true;
      let q : Step := { delta := -1, cycle := 7, host := true };
      let rest : List Step := [];
      let x2 := RDn_HUB_REQ_INP rd.idx;
      let x3 := RDn_HUB_REQ rd.idx;
      let x1 := s.dev.plainWrite x3 v;
      s.dev.powered (4 + s.dev.fifoRd ↑f) = true ∧ (¬(0 < bytes ∧ bytes % 8 = 0 ∧ bytes ≤ 64)) ∧ inAlias addr = false ∧
        s.dev.present (4 + rd.idx) = true ∧ BitVec.getLsbD v 63 = true ∧ s.dev.winUp x3 = true ∧ rd.idx = s.dev.master ∧
        x1.fbit (RDn_HUB_REQ_EN rd.idx) = false ∧ (if x1.fbit (RDn_HUB_REQ_AQ rd.idx) = true then x1.fget x2 < 192 else
        x1.fget x2 < 8 ∧ x1.fget (RDn_HUB_REQ_ID rd.idx) < 8448) ∧ s.dev.hasRing r = true ∧ (List.find? (fun c => decide
        (c.cycle + 1 = s.dev.sh.tly.voted)) s.dev.sh.clk.recent = some c) ∧ s.dev.mayLaunch r e c = true ∧
        s.dev.ownDroves c.cycle = true ∧ (¬2 * r + b2n (decide (e = End.b)) ∈ s.dev.sh.vote.launched) ∧ s.dev.endHeard r
        e = true ∧ h.crcOk = true ∧ (List.find? (fun q => decide (64 * r + q.fst = Pl.get pl 2 14)) (s.dev.ring r).cells
        = none ∨ s.dev.ringState r < 2) ∧ ((s.dev.ring r).up = true ∧ (s.dev.ring r).breaks = [] ∧ (s.dev.ring r).dark =
        none ∧ (s.dev.ringState r = 3 ∨ s.dev.ringState r = 4)) ∧ s.dev.endUp r e = true ∧ ((if arrived = true then []
        else [(r, decide (e = End.b))]) ++ List.filter (fun y => decide (y ≠ (r, decide (e = End.b))))
        s.dev.sh.safe.testBad = []) ∧ s.dev.ownsEnd e = true ∧ s.dev.endPortState r e = 5 ∧ s.dev.fbit (s.dev.rf (slpCtl
        e) r) = false ∧ s.dev.sh.clk.steps = q :: rest) ∧
    (let s : State := netS [(GLB_DIE_PWR 4, 0), (GLB_DIE_PWR 5, 0)] id;
      let r : Nat := 0;
      let e : End := .b;
      let f : Fin 64 := 63;
      s.dev.powered (4 + s.dev.fifoRd ↑f) = false ∧ s.dev.hasRing r = true ∧ s.dev.endUp r e = false ∧ s.dev.endHeard r
        e = false ∧ (¬((s.dev.ring r).up = true ∧ (s.dev.ring r).breaks = [] ∧ (s.dev.ring r).dark = none ∧
        (s.dev.ringState r = 3 ∨ s.dev.ringState r = 4)) ∨ s.dev.endUp r e = false) ∧ (¬(s.dev.ownsEnd e = true ∧
        s.dev.endPortState r e = 5 ∧ s.dev.fbit (s.dev.rf (slpCtl e) r) = false))) ∧
    (let s : State := token [0, 1] [];
      let r : Nat := 0;
      let e : End := .b;
      let pl : Payload := Pl.mk [(2, 14, 0)];
      let h : Rx := ⟨true, 7, false⟩;
      let rd : RDie := .rd0;
      let v : W64 := hubReq 131 1 1;
      let c : CycRec := cycRec 4;
      let u : Nat × Enum := (0, (en 0));
      let q : Step := { delta := 0, cycle := 0, host := false };
      let x4 := RDn_HUB_REQ_AQ rd.idx;
      let x5 := RDn_HUB_REQ rd.idx;
      let x1 := s.dev.plainWrite x5 v;
      let x2 := x1.fget (RDn_HUB_REQ_INP rd.idx);
      let x3 := x1.fget (RDn_HUB_REQ_ID rd.idx);
      s.dev.present (4 + rd.idx) = true ∧ BitVec.getLsbD v 63 = true ∧ s.dev.winUp x5 = true ∧ rd.idx = s.dev.master ∧
        x1.fbit (RDn_HUB_REQ_EN rd.idx) = true ∧ (x1.admitReason (x1.fbit x4) x3 x2 (if x1.fbit x4 = true then
        aqStreamIx x2 else cellStreamIx x3 x2)
        { mode := x1.fget (RDn_HUB_REQ_MODE rd.idx), d := x1.fget (RDn_HUB_REQ_D rd.idx), co := x1.fbit (RDn_HUB_REQ_CO rd.idx), grant := x1.fbit (RDn_HUB_REQ_CLASS rd.idx), fifo := x1.fget (RDn_HUB_REQ_FIFO rd.idx), susp := false }
        ≠ 0) ∧ s.dev.hasRing r = true ∧ (List.find? (fun c => decide (c.cycle + 1 = s.dev.sh.tly.voted))
        s.dev.sh.clk.recent = some c) ∧ (s.dev.mayLaunch r e c = false ∨ s.dev.ownDroves c.cycle = false ∨ 2 * r + b2n
        (decide (e = End.b)) ∈ s.dev.sh.vote.launched) ∧ s.dev.endHeard r e = true ∧ h.crcOk = true ∧ (List.find? (fun q
        => decide (64 * r + q.fst = Pl.get pl 2 14)) (s.dev.ring r).cells = some u) ∧ 2 ≤ s.dev.ringState r ∧
        (s.dev.cell (64 * r + u.snd.place)).powered = true) ∧
    (let s : State := netS [(GLB_DBG_OPEN, 1)] id;
      let bytes : Nat := 8;
      let addr : Nat := 134217728;
      let rd : RDie := .rd0;
      let v : W64 := hubReq 0 1 1;
      let x3 := addr - 134217728;
      let x5 := RDn_HUB_REQ_AQ rd.idx;
      let x6 := RDn_HUB_REQ rd.idx;
      let x1 := s.dev.plainWrite x6 v;
      let x2 := x1.fget (RDn_HUB_REQ_INP rd.idx);
      let x4 := x1.fget (RDn_HUB_REQ_ID rd.idx);
      inAlias addr = true ∧ s.dev.debugOpen = true ∧ inPort x3 = false ∧ dbgDatAt x3 = none ∧ x3 % 8 = 0 ∧ bytes = 8 ∧
        s.dev.present (4 + rd.idx) = true ∧ BitVec.getLsbD v 63 = true ∧ s.dev.winUp x6 = true ∧ rd.idx = s.dev.master ∧
        x1.fbit (RDn_HUB_REQ_EN rd.idx) = true ∧ (x1.admitReason (x1.fbit x5) x4 x2 (if x1.fbit x5 = true then
        aqStreamIx x2 else cellStreamIx x4 x2)
        { mode := x1.fget (RDn_HUB_REQ_MODE rd.idx), d := x1.fget (RDn_HUB_REQ_D rd.idx), co := x1.fbit (RDn_HUB_REQ_CO rd.idx), grant := x1.fbit (RDn_HUB_REQ_CLASS rd.idx), fifo := x1.fget (RDn_HUB_REQ_FIFO rd.idx), susp := false }
        = 0)) ∧
    (let s : State := netS [] (fun d => d.setStream 0 (some
        { mode := 1, d := 1, co := false, grant := false, fifo := 0, susp := false }));
      let r : Nat := 0;
      let e : End := .a;
      let pl : Payload := Pl.mk [(4, 8, 8)];
      let h : Rx := ⟨true, 0, true⟩;
      let rd : RDie := .rd0;
      let v : W64 := hubReq 16383 0 1;
      let t : Machine.Stream := { mode := 1, d := 1, co := false, grant := false, fifo := 0, susp := false };
      let x2 := (s.dev.rd (s.dev.fifoRd t.fifo)).fifo (s.dev.fifoLoc t.fifo);
      let x3 := RDn_HUB_REQ_INP rd.idx;
      let x4 := RDn_HUB_REQ rd.idx;
      let x1 := s.dev.plainWrite x4 v;
      s.dev.present (4 + rd.idx) = true ∧ BitVec.getLsbD v 63 = true ∧ s.dev.winUp x4 = true ∧ rd.idx = s.dev.master ∧
        x1.fbit (RDn_HUB_REQ_EN rd.idx) = false ∧ (¬if x1.fbit (RDn_HUB_REQ_AQ rd.idx) = true then x1.fget x3 < 192 else
        x1.fget x3 < 8 ∧ x1.fget (RDn_HUB_REQ_ID rd.idx) < 8448) ∧ s.dev.hasRing r = true ∧ s.dev.endUp r e = true ∧
        h.crcOk = true ∧ Pl.get pl 4 128 / 8 % 4 ≠ 0 ∧ Pl.get pl 20 128 / 8 % 4 = 0 ∧ Pl.get pl 36 128 / 8 % 4 = 0 ∧
        s.dev.stream (cellStreamIx (Pl.get pl 0 14) (Pl.get pl 4 128 % 8)) = some t ∧ s.dev.powered (4 + s.dev.fifoRd
        t.fifo) = true ∧ x2.ptrBad = false ∧ x2.words.length + 4 ≤ Config.fifoWords) ∧
    (let s : State := netS [] (fun d => d.modRd 0 (fun x => x.setFifo 0
        { words := [7], visible := 1, ptrBad := true }));
      let f : Fin 64 := 0;
      let bytes : Nat := 64;
      s.dev.powered (4 + s.dev.fifoRd ↑f) = true ∧ 0 < bytes ∧ bytes % 8 = 0 ∧ bytes ≤ 64 ∧ ((s.dev.rd (s.dev.fifoRd
        ↑f)).fifo (s.dev.fifoLoc ↑f)).ptrBad = true) ∧
    (let s : State := netS [(GLB_DBG_OPEN, 1)] id;
      let bytes : Nat := 8;
      let addr : Nat := 167772160;
      let x1 := addr - 134217728;
      inAlias addr = true ∧ s.dev.debugOpen = true ∧ inPort x1 = true ∧ aligned x1 bytes = true ∧ 0 < bytes ∧ bytes % 8
        = 0 ∧ bytes ≤ 64 ∧ s.dev.powered (4 + s.dev.fifoRd ((addr - 134217728 - 33554432) / 65536)) = true) := by
  iterate 7 (refine ⟨by decide +kernel, ?_⟩)
  decide +kernel

theorem witness_RecordAndLegacyResults :
    (let s : State := st ((recS 4 id).dev.modCell 0 (fun c => c.fset SRB_REC_STAT_STATE 3));
      let p : Place := 0;
      let r : Nat := 0;
      let e : End := .a;
      let id : Nat := 0;
      let ofs : Nat := 32766;
      let v : W16 := 65535;
      let w : Nat := 1;
      let x2 := s.dev.fget SH_REC_SRC_FIFO;
      let x1 := (s.dev.rd (s.dev.fifoRd x2)).fifo (s.dev.fifoLoc x2);
      s.dev.recState ≠ 0 ∧ s.dev.recState ≠ 5 ∧ (s.dev.recState ≠ 1 ∨ s.dev.armed = false) ∧ (s.dev.recState ≠ 3 ∨
        s.dev.sh.rcd.recTrig = none) ∧ (s.dev.decided = false ∨ BitVec.toNat s.dev.now < BitVec.toNat
        s.dev.sh.rcd.recFull + s.dev.recPostMax + 1000000) ∧ (s.dev.recState ≠ 4 ∨ (s.dev.recCells.all fun id => decide
        (id ∈ s.dev.sh.rcd.recSeen)) = false ∨ s.dev.running 6 = true ∧ ¬16384 ∈ s.dev.sh.rcd.recSeen) ∧ s.dev.present 6
        = true ∧ (s.dev.decided = false ∨ s.dev.running 6 = false) ∧ s.dev.aq.rcd.noticed = none ∧ s.dev.recState = 4 ∧
        s.dev.running 6 = true ∧ (¬16384 ∈ s.dev.sh.rcd.recSeen) ∧ (∀ (i : Nat), i ∈ s.dev.aqRecInputs → i < (fun d r =>
        Store.get (fun x => 0) d.sh.rcd.recPos r) s.dev 256) ∧ s.dev.hasPlace p = true ∧ (s.dev.decided = false ∨
        (s.dev.cell p).fbit SRB_REC_CTL_ARM = false) ∧ p / 64 = r ∧ ((fun d r => Store.get (fun x => 0) d.sh.rcd.recPos
        r) s.dev r = 0 ∨ 64 * r + ((fun d r => Store.get (fun x => 0) d.sh.rcd.recPos r) s.dev r - 1) ∈
        s.dev.sh.rcd.recSeen) ∧ s.dev.powered (4 + s.dev.fifoRd x2) = true ∧ x1.words.length + 2 ≤ Config.fifoWords ∧
        s.dev.recTurn r = some id ∧ s.dev.placeOf id = some p ∧ s.dev.reach id = some p ∧ (s.dev.cell p).fget
        SRB_REC_STAT_STATE = 3 ∧ x1.ptrBad = false ∧ (s.dev.cell p).recBlocks = [] ∧ s.dev.hasRing r = true ∧
        s.dev.endUp r e = true ∧ (¬(s.dev.recState = 4 ∧ (fun d r => Store.get (fun x => 0) d.sh.rcd.recPos r) s.dev r ≠
        0 ∧ ¬64 * r + ((fun d r => Store.get (fun x => 0) d.sh.rcd.recPos r) s.dev r - 1) ∈ s.dev.sh.rcd.recSeen)) ∧ (w
        ≠ 2 ∨ ofs % 2 ≠ 0) ∧ ofs < 32768 ∧ ofs % 2 = 0 ∧ s.dev.sh.leg.legQ.length + (packetWords (s.dev.sh.leg.legCur ++
        bytesOf (BitVec.toNat v) 2)).length ≤ Config.legqWords) ∧
    (let s : State := netS [] (fun d =>
        { d with aq := { d.aq with rcd := { d.aq.rcd with noticed := some 0 }, raw := 2000000000 } });
      let p : Place := 0;
      let ofs : Nat := 65534;
      let v : W16 := 65535;
      let w : Nat := 1;
      let n : Nat := 0;
      (s.dev.recState = 0 ∨ s.dev.recState = 5) ∧ s.dev.present 6 = true ∧ s.dev.aq.rcd.noticed = some n ∧ n +
        s.dev.aqPost < s.dev.aqNow ∧ (s.dev.recState ≠ 4 ∨ s.dev.running 6 = false ∨ 16384 ∈ s.dev.sh.rcd.recSeen) ∧
        s.dev.hasPlace p = true ∧ s.dev.recState ≠ 4 ∧ (w ≠ 2 ∨ ofs % 2 ≠ 0) ∧ 32768 ≤ ofs ∧ ofs < 65536 ∧ ofs % 2 = 0 ∧
        s.dev.sh.leg.legQ.length + (packetWords (s.dev.sh.leg.legCur ++ bytesOf (BitVec.toNat v) 2)).length ≤
        Config.legqWords) ∧
    (let s : State := recC 3 id;
      let p : Place := 0;
      let id : Nat := 0;
      s.dev.present 6 = true ∧ s.dev.decided = true ∧ s.dev.running 6 = true ∧ s.dev.hasPlace p = true ∧ (List.find?
        (fun i => decide (s.dev.reach i = some p)) s.dev.recCells = some id) ∧ (s.dev.cell p).fbit SRB_REC_CTL_ARM =
        true ∧ ((s.dev.cell p).fget SRB_REC_STAT_STATE = 1 ∨ (s.dev.cell p).fget SRB_REC_STAT_STATE = 2)) ∧
    (let s : State := legacy 4096;
      let ofs : Nat := 32766;
      let v : W16 := 65535;
      let k : CoreRef := A8;
      let task : Nat := 3;
      let rd : Reg := g 3;
      ofs % 2 = 0 ∧ (¬s.dev.sh.leg.legQ.length + (packetWords (s.dev.sh.leg.legCur ++ bytesOf (BitVec.toNat v)
        2)).length ≤ Config.legqWords) ∧ ofs < 32768 ∧ s.executes k task (encI 16 rd noReg 0) Perm.nonVoted = true ∧ 0 <
        s.dev.sh.leg.legVis ∧ s.dev.winUp (cdBase k.die.idx + 520192) = true) ∧
    (let s : State := recS 4 (fun x => { x with recSeen := [0, 1, 16384] });
      let p : Place := 0;
      let r : Nat := 0;
      let id : Nat := 0;
      let n : Nat := 0;
      let x1 := s.dev.fget SH_REC_SRC_FIFO;
      s.dev.recState = 4 ∧ ((s.dev.recCells.all fun id => decide (id ∈ s.dev.sh.rcd.recSeen)) = true) ∧ (s.dev.running 6
        = false ∨ 16384 ∈ s.dev.sh.rcd.recSeen) ∧ s.dev.hasPlace p = true ∧ p / 64 = r ∧ ((fun d r => Store.get (fun x
        => 0) d.sh.rcd.recPos r) s.dev r = 0 ∨ 64 * r + ((fun d r => Store.get (fun x => 0) d.sh.rcd.recPos r) s.dev r -
        1) ∈ s.dev.sh.rcd.recSeen) ∧ (¬(fun n => s.dev.powered (4 + s.dev.fifoRd x1) = true ∧ ((s.dev.rd (s.dev.fifoRd
        x1)).fifo (s.dev.fifoLoc x1)).words.length + n ≤ Config.fifoWords) 2 ∨ s.dev.recTurn r = none)) ∧
    (let s : State := recC 0 (fun x => { x with noticed := none, fired := true, trigAt := 1000000 });
      let p : Place := 0;
      s.dev.hasPlace p = true ∧ (s.dev.cell p).powered = true ∧ (s.dev.cell p).hub.rcd.noticed = none ∧ (s.dev.cell
        p).hub.rcd.fired = true ∧ (s.dev.cell p).fget SRB_REC_STAT_STATE = 2 ∧ (s.dev.cell p).hub.rcd.trigAt +
        (s.dev.cell p).recPost + 1000000 ≤ (s.dev.cell p).tm.time) ∧
    (let s : State := recC 0 (fun x => { x with noticed := some 1000000 });
      let p : Place := 0;
      let n2 : Nat := 1000000;
      s.dev.hasPlace p = true ∧ (s.dev.cell p).powered = true ∧ (s.dev.cell p).hub.rcd.noticed = some n2 ∧ (s.dev.cell
        p).fget SRB_REC_STAT_STATE = 2 ∧ n2 + (s.dev.cell p).recPost < (s.dev.cell p).tm.time) ∧
    (let s : State := st ((recS 4 (fun x => { x with recPos := [(0, 1)], recBidx := [(0, 5)] })).dev.modCell 0 (fun c
        => c.fset SRB_REC_STAT_STATE 3));
      let r : Nat := 0;
      let e : End := .b;
      let pl : Payload := 0;
      let h : Rx := ⟨true, 0, true⟩;
      s.dev.hasRing r = true ∧ s.dev.endUp r e = true ∧ (s.dev.recState = 4 ∧ (fun d r => Store.get (fun x => 0)
        d.sh.rcd.recPos r) s.dev r ≠ 0 ∧ ¬64 * r + ((fun d r => Store.get (fun x => 0) d.sh.rcd.recPos r) s.dev r - 1) ∈
        s.dev.sh.rcd.recSeen) ∧ h.crcOk = true ∧ (Pl.get pl 0 14 ≠ 64 * r + ((fun d r => Store.get (fun x => 0)
        d.sh.rcd.recPos r) s.dev r - 1) ∨ Pl.get pl 6 16 < Store.get (fun x => 0) s.dev.sh.rcd.recBidx r)) ∧
    (let s : State := recS 3 (fun x => { x with recTrig := some (1000000, 7) });
      let t : W32 := 1000000;
      let src : Nat := 7;
      s.dev.recState = 3 ∧ s.dev.sh.rcd.recTrig = some (t, src) ∧ src < 8) ∧
    (let s : State := recS 4 id;
      let p : Place := 0;
      let r : Nat := 0;
      let id : Nat := 0;
      let x2 := s.dev.fget SH_REC_SRC_FIFO;
      let x1 := (s.dev.rd (s.dev.fifoRd x2)).fifo (s.dev.fifoLoc x2);
      s.dev.hasPlace p = true ∧ s.dev.recState = 4 ∧ p / 64 = r ∧ ((fun d r => Store.get (fun x => 0) d.sh.rcd.recPos r)
        s.dev r = 0 ∨ 64 * r + ((fun d r => Store.get (fun x => 0) d.sh.rcd.recPos r) s.dev r - 1) ∈
        s.dev.sh.rcd.recSeen) ∧ s.dev.powered (4 + s.dev.fifoRd x2) = true ∧ x1.words.length + 2 ≤ Config.fifoWords ∧
        s.dev.recTurn r = some id ∧ s.dev.placeOf id = some p ∧ (s.dev.reach id = none ∨ (s.dev.cell p).fget
        SRB_REC_STAT_STATE ≠ 3) ∧ x1.ptrBad = false) ∧
    (let s : State := legacy 4096;
      let ofs : Nat := 32768;
      let v : W16 := 65535;
      ofs % 2 = 0 ∧ (¬s.dev.sh.leg.legQ.length + (packetWords (s.dev.sh.leg.legCur ++ bytesOf (BitVec.toNat v)
        2)).length ≤ Config.legqWords) ∧ 32768 ≤ ofs ∧ ofs < 65536) ∧
    (let s : State := netS [(SH_REC_STAT_STATE, 1)] (fun d => (d.modCell 0 (fun c => c.fset SRB_REC_CTL_ARM 1)).modCell
        1 (fun c => c.fset SRB_REC_CTL_ARM 1));
      s.dev.recState = 1 ∧ s.dev.armed = true) ∧
    (let s : State := recS 3 (fun x => { x with recFull := 0 });
      s.dev.decided = true ∧ BitVec.toNat s.dev.sh.rcd.recFull + s.dev.recPostMax + 1000000 ≤ BitVec.toNat s.dev.now) ∧
    (let s : State := st ((recS 4 (fun x => { x with recPos := [(0, 1)], recBidx := [(0, 5)] })).dev.modCell 0 (fun c
        => c.fset SRB_REC_STAT_STATE 3));
      let r : Nat := 0;
      let e : End := .a;
      let pl : Payload := Pl.mk [(0, 14, 0), (6, 16, 5)];
      let h : Rx := ⟨true, 7, false⟩;
      let x2 := s.dev.fget SH_REC_SRC_FIFO;
      let x1 := (s.dev.rd (s.dev.fifoRd x2)).fifo (s.dev.fifoLoc x2);
      s.dev.hasRing r = true ∧ s.dev.endUp r e = true ∧ (s.dev.recState = 4 ∧ (fun d r => Store.get (fun x => 0)
        d.sh.rcd.recPos r) s.dev r ≠ 0 ∧ ¬64 * r + ((fun d r => Store.get (fun x => 0) d.sh.rcd.recPos r) s.dev r - 1) ∈
        s.dev.sh.rcd.recSeen) ∧ h.crcOk = true ∧ (Pl.get pl 0 14 = 64 * r + ((fun d r => Store.get (fun x => 0)
        d.sh.rcd.recPos r) s.dev r - 1)) ∧ (Pl.get pl 6 16 = Store.get (fun x => 0) s.dev.sh.rcd.recBidx r) ∧
        s.dev.powered (4 + s.dev.fifoRd x2) = true ∧ x1.words.length + (packetWords (recordPacket pl)).length ≤
        Config.fifoWords ∧ x1.ptrBad = false) ∧
    (let s : State := netS [(RDn_RP_STAT_LOCK 0 0, 0)] id;
      let r : Nat := 0;
      let e : End := .a;
      s.dev.hasRing r = true ∧ s.dev.endUp r e = false) ∧
    (let s : State := st ((recS 4 (fun x => { x with recPos := [(0, 1)], recBidx := [(0, 5)] })).dev.modCell 0 (fun c
        => c.fset SRB_REC_STAT_STATE 3));
      let p : Place := 0;
      let r : Nat := 0;
      let e : End := .b;
      let pl : Payload := Pl.mk [(0, 14, 0), (6, 16, 5)];
      let h : Rx := ⟨false, 0, true⟩;
      let n : Nat := 0;
      let x1 := s.dev.fget SH_REC_SRC_FIFO;
      s.dev.hasRing r = true ∧ s.dev.endUp r e = true ∧ (s.dev.recState = 4 ∧ (fun d r => Store.get (fun x => 0)
        d.sh.rcd.recPos r) s.dev r ≠ 0 ∧ ¬64 * r + ((fun d r => Store.get (fun x => 0) d.sh.rcd.recPos r) s.dev r - 1) ∈
        s.dev.sh.rcd.recSeen) ∧ (s.dev.reach (64 * r + ((fun d r => Store.get (fun x => 0) d.sh.rcd.recPos r) s.dev r -
        1)) = some p) ∧ (h.crcOk = false ∨ Pl.get pl 0 14 = 64 * r + ((fun d r => Store.get (fun x => 0) d.sh.rcd.recPos
        r) s.dev r - 1) ∧ (Store.get (fun x => 0) s.dev.sh.rcd.recBidx r < Pl.get pl 6 16 ∨ Pl.get pl 6 16 = Store.get
        (fun x => 0) s.dev.sh.rcd.recBidx r ∧ ¬(fun n => s.dev.powered (4 + s.dev.fifoRd x1) = true ∧ ((s.dev.rd
        (s.dev.fifoRd x1)).fifo (s.dev.fifoLoc x1)).words.length + n ≤ Config.fifoWords) (packetWords (recordPacket
        pl)).length)) ∧ (s.dev.cell p).fget SRB_REC_STAT_STATE = 3 ∧ (Store.get (fun x => 0) s.dev.sh.rcd.recBidx r <
        65536)) ∧
    (let s : State := legacy 0;
      let k : CoreRef := A8;
      let task : Nat := 3;
      let rd : Reg := g 3;
      s.executes k task (encI 16 rd noReg 0) Perm.nonVoted = true ∧ s.dev.sh.leg.legVis = 0) := by
  iterate 16 (refine ⟨by decide +kernel, ?_⟩)
  decide +kernel

theorem witness_SettingsResults :
    (let s : State := st on;
      let v : W64 := 0x80000AFF00000000;
      let f : Fin 12 := 1;
      let c : Fin 8448 := 8447;
      let fold : BitVec 4 := 11;
      let die : CDie := .a;
      let p : Fin 16 := 15;
      let ch : Fin 192 := 0;
      let k : Nat := 1;
      let x5 : Nat := 1;
      let x6 : Nat := 1;
      let x8 : Nat := 0;
      let x11 : Nat := 3;
      let x12 : Nat := 3;
      let i2 : Nat := 3;
      let i4 : Nat := 3;
      let i5 : Nat := 3;
      let i6 : Nat := 3;
      let x1 := BitVec.toNat v;
      let x2 := s.dev.minsOf s.dev.minRings (cfgBits v);
      let x3 := s.dev.cd s.dev.firstCd;
      let x4 := bitsOf x1 45 8;
      let x7 := aqFour s.dev.aqCfg (↑ch / 4);
      s.dev.standby = false ∧ (List.find? (fun k => match k with
        | 1 => !s.dev.quiet
        | 2 => !(decide (200 ≤ cfgPeriod (cfgBits v)) && decide (cfgPeriod (cfgBits v) ≤ 10000) && decide (110 ≤ cfgEmit
        (cfgBits v)) && decide (cfgEmit (cfgBits v) < cfgStile (cfgBits v)) && decide (cfgStile (cfgBits v) < cfgApply
        (cfgBits v)))
        | 3 => s.dev.fbit TIM_CYC_MIN_VALID && decide (cfgStile (cfgBits v) < x2.stileMin)
        | 4 => s.dev.fbit TIM_CYC_MIN_VALID && decide (cfgApply (cfgBits v) < x2.applyMin)
        | 5 => s.dev.fbit TIM_CYC_MIN_VALID && decide (cfgPeriod (cfgBits v) < x2.periodMin)
        | 6 => decide ((cfgPeriod (cfgBits v) + if s.dev.fbit TIM_CYC_MIN_VALID = true then x2.tclose else cfgEmit
        (cfgBits v)) + 40 < cfgStile (cfgBits v))
        | 7 => decide (4 * cfgPeriod (cfgBits v) < cfgApply (cfgBits v))
        | x => s.dev.fbit TIM_CYC_STAT_PEND) (List.range' 1 8) = some k) ∧ x5 ≠ TIM_CYC_STAT_REASON.reg ∧ (s.dev.quiet =
        false ∨ foldBad v (s.dev.settledMap ↑f) = true) ∧ x6 ≠ SH_REFWR ∧ (s.dev.quiet = false ∨ 12 ≤ fold.toNat ∧
        fold.toNat < 15 ∨ (decide (fold.toNat < 12) && foldBad (s.dev.settled (SH_FOLD_CFG fold.toNat))
        (s.dev.settledMap fold.toNat + if BitVec.toNat (s.dev.settled (SH_FOLD_MAP ↑c)) % 16 = fold.toNat then 0 else
        1)) = true) ∧ x8 ≠ SH_REFWR ∧ s.dev.forwardLink = none ∧ s.dev.sh.clk.cfgPend = none ∧ s.dev.mode ≠ 1 ∧ x11 ≠
        SH_REFWR ∧ (ledgerLen (BitVec.toNat v % 256) = false ∨ ledgerLen (BitVec.toNat v / 256 % 256) = false) ∧ x12 ≠
        SH_REFWR ∧ BitVec.getLsbD v 63 = true ∧ (s.dev.fbit SH_LE_PARAM_BUSY = true ∨ (if BitVec.getLsbD v 32 = true
        then s.dev.quiet || decide (bitsOf x1 40 5 ∈ [1, 2, 3, 4, 5, 9]) else if s.dev.quiet = true then !(decide
        (bitsOf x1 40 5 = 7) && !x3.leExt x4) && !decide (bitsOf x1 40 5 = 10) else if x3.leExt x4 = true then decide
        (bitsOf x1 40 5 < 4) else decide (bitsOf x1 40 5 ∈ [5, 6, 8, 9]) || decide (11 ≤ bitsOf x1 40 5) && x3.leListed
        x4 (bitsOf x1 40 5) && !decide (bitsOf x1 40 5 ∈ stateWords (x3.ctrl x4 28 3))) = false) ∧ s.dev.fbit
        SH_LE_PARAM_BUSY = false ∧ i2 < 4 ∧ i4 < 4 ∧ i5 < 4 ∧ i6 < 4 ∧ (s.dev.cd i6).tune = none ∧ s.dev.present die.idx
        = true ∧ s.dev.winUp (SCH_PART die.idx 1) = true ∧ 2 ≤ ↑p ∧ (∀ (t : Nat × Machine.Task), t ∈ (s.dev.cd
        die.idx).tasks → t.snd.part = ↑p → t.snd.state = TState.free) ∧ s.dev.present 6 = true ∧ s.dev.powered 6 = true
        ∧ (aqFits (List.map (fun x => if x.fst = ↑ch then (↑ch, s.dev.aqCfg ↑ch &&& ~~~18358923876680859648#64 ||| v &&&
        18214808688605003776#64) else x) x7) s.dev.period = true ∧ (List.filter (fun x => decide (aqField x.snd
        AQ_CH_CFG_FG = 1)) (List.map (fun x => if x.fst = ↑ch then (↑ch, s.dev.aqCfg ↑ch &&& ~~~18358923876680859648#64
        ||| v &&& 18214808688605003776#64) else x) x7)).length ≤ 1)) ∧
    (let s : State := netS (paired 2) id;
      let v : W64 := 0x3C3C;
      let die : CDie := .a;
      let p : Fin 16 := 0;
      let x : Nat := 3;
      let x2 : Nat := 0;
      let x3 : Nat := 0;
      let x4 : Nat := 1;
      let i3 : Nat := 1;
      s.dev.standby = true ∧ x ≠ SH_REFWR ∧ x2 ≠ SH_REFWR ∧ x3 ≠ SH_REFWR ∧ x4 ≠ SH_REFWR ∧ ledgerLen (BitVec.toNat v %
        256) = true ∧ ledgerLen (BitVec.toNat v / 256 % 256) = true ∧ s.dev.winUp SH_LEDG_CFG = true ∧ BitVec.getLsbD v
        63 = false ∧ s.dev.winUp SH_LE_PARAM = true ∧ i3 < 4 ∧ s.dev.present die.idx = true ∧ s.dev.winUp (SCH_PART
        die.idx 1) = true ∧ ↑p = 0) ∧
    (let s : State := netS (paired 1 ++ [(SH_MODE_CUR, 1)]) id;
      let v : W64 := 0x8000010B00000001;
      let f : Fin 12 := 11;
      let c : Fin 8448 := 1;
      let fold : BitVec 4 := 11;
      let die : CDie := .a;
      let p : Fin 16 := 1;
      let x7 : Nat := 0;
      let x9 : Nat := 0;
      let x10 : Nat := 0;
      let i : Nat := 1;
      let x1 := BitVec.toNat v;
      let x2 := s.dev.cd s.dev.firstCd;
      let x3 := bitsOf x1 45 8;
      s.dev.standby = false ∧ s.dev.quiet = true ∧ foldBad v (s.dev.settledMap ↑f) = false ∧ s.dev.forwardLink ≠ none ∧
        s.dev.forwardLink = some x7 ∧ (fold.toNat < 12 ∨ fold.toNat = 15) ∧ ((decide (fold.toNat < 12) && foldBad
        (s.dev.settled (SH_FOLD_CFG fold.toNat)) (s.dev.settledMap fold.toNat + if BitVec.toNat (s.dev.settled
        (SH_FOLD_MAP ↑c)) % 16 = fold.toNat then 0 else 1)) = false) ∧ s.dev.forwardLink = some x9 ∧ s.dev.forwardLink =
        some x10 ∧ s.dev.mode = 1 ∧ s.dev.winUp SH_FLT_CFG = true ∧ BitVec.getLsbD v 63 = true ∧ s.dev.fbit
        SH_LE_PARAM_BUSY = false ∧ ((if BitVec.getLsbD v 32 = true then s.dev.quiet || decide (bitsOf x1 40 5 ∈ [1, 2,
        3, 4, 5, 9]) else if s.dev.quiet = true then !(decide (bitsOf x1 40 5 = 7) && !x2.leExt x3) && !decide (bitsOf
        x1 40 5 = 10) else if x2.leExt x3 = true then decide (bitsOf x1 40 5 < 4) else decide (bitsOf x1 40 5 ∈ [5, 6,
        8, 9]) || decide (11 ≤ bitsOf x1 40 5) && x2.leListed x3 (bitsOf x1 40 5) && !decide (bitsOf x1 40 5 ∈
        stateWords (x2.ctrl x3 28 3))) = true) ∧ i < 4 ∧ s.dev.present die.idx = true ∧ s.dev.winUp (SCH_PART die.idx 1)
        = true ∧ ↑p = 1) ∧
    (let s : State := st (set on [(SH_MODE_CUR, 1), (SH_FOLD_CFG_EN 11, 1), (SH_LE_PARAM_BUSY, 1)]);
      let v : W64 := 0x006E021C017C03E8;
      let f : Fin 12 := 11;
      let c : Fin 8448 := 3;
      let fold : BitVec 4 := 0;
      let k : Nat := 0;
      let x1 := s.dev.minsOf s.dev.minRings (cfgBits v);
      s.dev.standby = false ∧ (List.find? (fun k => match k with
        | 1 => !s.dev.quiet
        | 2 => !(decide (200 ≤ cfgPeriod (cfgBits v)) && decide (cfgPeriod (cfgBits v) ≤ 10000) && decide (110 ≤ cfgEmit
        (cfgBits v)) && decide (cfgEmit (cfgBits v) < cfgStile (cfgBits v)) && decide (cfgStile (cfgBits v) < cfgApply
        (cfgBits v)))
        | 3 => s.dev.fbit TIM_CYC_MIN_VALID && decide (cfgStile (cfgBits v) < x1.stileMin)
        | 4 => s.dev.fbit TIM_CYC_MIN_VALID && decide (cfgApply (cfgBits v) < x1.applyMin)
        | 5 => s.dev.fbit TIM_CYC_MIN_VALID && decide (cfgPeriod (cfgBits v) < x1.periodMin)
        | 6 => decide ((cfgPeriod (cfgBits v) + if s.dev.fbit TIM_CYC_MIN_VALID = true then x1.tclose else cfgEmit
        (cfgBits v)) + 40 < cfgStile (cfgBits v))
        | 7 => decide (4 * cfgPeriod (cfgBits v) < cfgApply (cfgBits v))
        | x => s.dev.fbit TIM_CYC_STAT_PEND) (List.range' 1 8) = none) ∧ s.dev.role ≠ 1 ∧ s.dev.quiet = true ∧ foldBad v
        (s.dev.settledMap ↑f) = false ∧ s.dev.forwardLink = none ∧ (fold.toNat < 12 ∨ fold.toNat = 15) ∧ ((decide
        (fold.toNat < 12) && foldBad (s.dev.settled (SH_FOLD_CFG fold.toNat)) (s.dev.settledMap fold.toNat + if
        BitVec.toNat (s.dev.settled (SH_FOLD_MAP ↑c)) % 16 = fold.toNat then 0 else 1)) = false)) ∧
    (let s : State := st
        { set on [(AQ_CH_CFG_FG 189, 1), (AQ_CH_CFG_FG 190, 1)] with cd0 := die 2 [], cd1 := { CtrlDie.reset with tune := some tune } };
      let v : W64 := 0x8000010B00000001;
      let die : CDie := .a;
      let p : Fin 16 := 2;
      let ch : Fin 192 := 191;
      let i6 : Nat := 1;
      let a : Autotune := tune;
      let x1 := aqFour s.dev.aqCfg (↑ch / 4);
      i6 < 4 ∧ (s.dev.cd i6).tune = some a ∧ s.dev.present die.idx = true ∧ s.dev.winUp (SCH_PART die.idx 1) = true ∧ 2
        ≤ ↑p ∧ (∃ t, t ∈ (s.dev.cd die.idx).tasks ∧ t.snd.part = ↑p ∧ t.snd.state ≠ TState.free) ∧ s.dev.present 6 =
        true ∧ s.dev.powered 6 = true ∧ (aqFits (List.map (fun x => if x.fst = ↑ch then (↑ch, s.dev.aqCfg ↑ch &&&
        ~~~18358923876680859648#64 ||| v &&& 18214808688605003776#64) else x) x1) s.dev.period = false ∨ 1 <
        (List.filter (fun x => decide (aqField x.snd AQ_CH_CFG_FG = 1)) (List.map (fun x => if x.fst = ↑ch then (↑ch,
        s.dev.aqCfg ↑ch &&& ~~~18358923876680859648#64 ||| v &&& 18214808688605003776#64) else x) x1)).length)) ∧
    (let s : State := st Dev.reset;
      let die : CDie := .a;
      s.dev.present die.idx = true ∧ s.dev.powered die.idx = false ∧ s.dev.present 6 = true ∧ s.dev.powered 6 = false) ∧
    (let s : State := netS (paired 1 ++ [(SH_MODE_CUR, 1)]) id;
      let v : W64 := 0x006E021C017C03E8;
      let k : Nat := 1;
      let x1 := s.dev.minsOf s.dev.minRings (cfgBits v);
      s.dev.standby = false ∧ (List.find? (fun k => match k with
        | 1 => !s.dev.quiet
        | 2 => !(decide (200 ≤ cfgPeriod (cfgBits v)) && decide (cfgPeriod (cfgBits v) ≤ 10000) && decide (110 ≤ cfgEmit
        (cfgBits v)) && decide (cfgEmit (cfgBits v) < cfgStile (cfgBits v)) && decide (cfgStile (cfgBits v) < cfgApply
        (cfgBits v)))
        | 3 => s.dev.fbit TIM_CYC_MIN_VALID && decide (cfgStile (cfgBits v) < x1.stileMin)
        | 4 => s.dev.fbit TIM_CYC_MIN_VALID && decide (cfgApply (cfgBits v) < x1.applyMin)
        | 5 => s.dev.fbit TIM_CYC_MIN_VALID && decide (cfgPeriod (cfgBits v) < x1.periodMin)
        | 6 => decide ((cfgPeriod (cfgBits v) + if s.dev.fbit TIM_CYC_MIN_VALID = true then x1.tclose else cfgEmit
        (cfgBits v)) + 40 < cfgStile (cfgBits v))
        | 7 => decide (4 * cfgPeriod (cfgBits v) < cfgApply (cfgBits v))
        | x => s.dev.fbit TIM_CYC_STAT_PEND) (List.range' 1 8) = none) ∧ s.dev.role = 1) ∧
    (let s : State := st (net.clk (fun x => { x with cfgPend := some (1, 6) }));
      let w : W64 := 1;
      let k2 : Nat := 6;
      s.dev.sh.clk.cfgPend = some (w, k2) ∧ s.dev.sh.clk.gridOn = true ∧ k2 ≤ s.dev.sh.clk.cyc) ∧
    (let s : State := st (on.clk (fun x => { x with cfgPend := some (1, 6), cyc := 6 }));
      let w : W64 := 1;
      let k2 : Nat := 6;
      s.dev.sh.clk.cfgPend = some (w, k2) ∧ (s.dev.sh.clk.gridOn = false ∨ s.dev.sh.clk.cyc < k2)) := by
  iterate 8 (refine ⟨by decide +kernel, ?_⟩)
  decide +kernel

theorem witness_TimeAndMeasurementResults :
    (let s : State := cel [(SRB_FE_CH_EN 0, 0)] id;
      let m : PtpMsg := ptp 0 .other;
      let θ : Int := -1000;
      let p : Place := 0;
      let cv : Fin 48 := 1;
      let j : Nat := 10;
      let n : Nat := 0;
      let n2 : Nat := 0;
      let x1 := s.dev.aq.cv ↑cv;
      (s.dev.ptpTakes m = false ∨ m.kind = PtpKind.other) ∧ s.dev.fbit TIM_PTP_CFG_EN = true ∧ s.dev.sh.clk.started =
        true ∧ ¬(s.dev.crook = 4 ∧ s.dev.role ≠ 1) ∧ (s.dev.crook ≠ 1 ∨ s.dev.sh.crk.autoStep = true) ∧ s.dev.withinJump
        θ = true ∧ (s.dev.crook ≠ 2 ∧ ¬(s.dev.crook = 4 ∧ s.dev.role = 1) ∨ BitVec.toNat s.dev.sh.clk.raw < BitVec.toNat
        s.dev.sh.crk.crookRaw + s.dev.holdTo * 1000000000) ∧ s.dev.crook ≠ 1 ∧ s.dev.fbit TIM_JUMP_PEND = false ∧
        s.dev.crook ≠ 4 ∧ s.cellOn p = true ∧ (s.dev.cell p).fget SRB_FE_GLB_DIAGPER ≠ 0 ∧ (s.dev.cell p).fe.conv.diag =
        [] ∧ (s.dev.cell p).tm.everTime = true ∧ n < 8 ∧ n2 < 8 ∧ (s.dev.cell p).fbit (SRB_FE_CH_EN n2) = false ∧
        s.dev.present 6 = true ∧ s.dev.running 6 = true ∧ s.dev.fget AQ_DIAG_DIAGPER ≠ 0 ∧ x1.diag = [] ∧
        (¬(s.dev.running 6 = true ∧ j < aqTs s.dev.period ∧ x1.slotNo ≤ j))) ∧
    (let s : State := netS (paired 1 ++ [(TIM_STAT_STATE, 4)]) (fun d => d.modCell 0 (fun c =>
        { c.fset SRB_FE_GLB_DIAGPER 1 with fe := { c.fe with conv := { c.fe.conv with diag := [(0, 1)] } }, tm := { c.tm with everTime := false } }));
      let m : PtpMsg := ptp 0 .pdelayReq;
      let θ : Int := 10000000;
      let p : Place := 0;
      s.dev.ptpTakes m = true ∧ m.kind = PtpKind.pdelayReq ∧ s.dev.fbit TIM_PTP_CFG_EN = true ∧ s.dev.sh.clk.started =
        true ∧ ¬(s.dev.crook = 4 ∧ s.dev.role ≠ 1) ∧ (s.dev.crook ≠ 1 ∨ s.dev.sh.crk.autoStep = true) ∧ s.dev.withinJump
        θ = false ∧ s.dev.crook = 4 ∧ s.cellOn p = true ∧ (s.dev.cell p).fget SRB_FE_GLB_DIAGPER ≠ 0 ∧ (s.dev.cell
        p).fe.conv.diag ≠ [] ∧ (s.dev.cell p).tm.everTime = false) ∧
    (let s : State := netS [(TIM_PTP_CFG_EN, 1), (TIM_PTP_CFG_PORTS, 1), (TIM_STAT_STATE, 1)] id;
      let m : PtpMsg := ptp 0 .announce;
      let x : Adc := ⟨0x7FFF, .none⟩;
      let q : Nat := 0;
      let b : Master := { dataset := 0, gmId := 1, utcOfs := 0x25 };
      s.dev.ptpTakes m = true ∧ m.kind = PtpKind.announce ∧ (bestMaster (Store.set (fun x => none) s.dev.sh.crk.ptpHeard
        (↑m.port) (some { dataset := m.dataset, gmId := m.gmId, utcOfs := m.utcOfs })) (List.filter (fun q => bitOf
        (s.dev.fget TIM_PTP_CFG_PORTS) q) (List.range 8)) = some (q, b)) ∧ s.dev.fbit TIM_PTP_CFG_EN = true ∧
        s.dev.sh.clk.started = true ∧ ¬(s.dev.crook = 4 ∧ s.dev.role ≠ 1) ∧ s.dev.crook = 1 ∧ s.dev.sh.crk.autoStep =
        false) ∧
    (let s : State := netS [(TIM_PTP_CFG_EN, 1), (TIM_PTP_CFG_PORTS, 1), (TIM_STAT_STATE, 2), (TIM_JUMP_PEND, 1),
        (SRB_FE_GLB_DIAGPER, 0)] id;
      let m : PtpMsg := ptp 0 (.delay true);
      let peer : Bool := true;
      s.dev.ptpTakes m = true ∧ m.kind = PtpKind.delay peer ∧ s.dev.fbit TIM_JUMP_PEND = true) ∧
    (let s : State := netS [(AQ_DIAG_DIAGPER, 1), (TIM_PTP_CFG_EN, 0)] (fun d =>
        { d with aq := { d.aq with cfgAt := [(AQ_CH_CFG 0, 0x8000000000000000)] } });
      let cv : Fin 48 := 0;
      let j : Nat := 0;
      let ch : Nat := 0;
      (¬(s.dev.fbit TIM_PTP_CFG_EN = true ∧ s.dev.sh.clk.started = true ∧ ¬(s.dev.crook = 4 ∧ s.dev.role ≠ 1))) ∧
        s.dev.present 6 = true ∧ s.dev.running 6 = true ∧ j < aqTs s.dev.period ∧ (s.dev.aq.cv ↑cv).slotNo ≤ j ∧
        (aqOrder (aqFour s.dev.aqInForce ↑cv) s.dev.aq.k)[j]? = some ch ∧ j < aqTc s.dev.period) ∧
    (let s : State := netS [(AQ_DIAG_DIAGPER, 1), (GLB_DIE_PWR 6, 0), (GLB_DIE_STATE 6, 0)] id;
      s.dev.present 6 = true ∧ s.dev.running 6 = false) ∧
    (let s : State := netS [(TIM_STAT_STATE, 2)] (fun d => (d.clk (fun x => { x with raw := 3600000000000 })).modCell 0
        (fun c => c.fset SRB_FE_GLB_DIAGPER 1));
      (s.dev.crook = 2 ∨ s.dev.crook = 4 ∧ s.dev.role = 1) ∧ BitVec.toNat s.dev.sh.crk.crookRaw + s.dev.holdTo *
        1000000000 ≤ BitVec.toNat s.dev.sh.clk.raw) ∧
    (let s : State := netS [] (fun d =>
        { d.clk (fun x => { x with cfgInForce := 0x006E021C017C0064 }) with aq := { d.aq with cfgAt := [(AQ_CH_CFG 0, 0x8000000000000000)] } });
      let cv : Fin 48 := 0;
      let j : Nat := 0;
      let ch : Nat := 0;
      s.dev.present 6 = true ∧ s.dev.running 6 = true ∧ j < aqTs s.dev.period ∧ (s.dev.aq.cv ↑cv).slotNo ≤ j ∧ (aqOrder
        (aqFour s.dev.aqInForce ↑cv) s.dev.aq.k)[j]? = some ch ∧ aqTc s.dev.period ≤ j) := by
  iterate 7 (refine ⟨by decide +kernel, ?_⟩)
  decide +kernel

theorem witness_SafetyChannelResults :
    (let s : State := netS [] (fun d =>
        ({ d with sh := { d.sh with safe := { d.sh.safe with safeOk := true, safeWork := wr [(5, 1, 1), (184, 1, 2), (188, 4, 0x3F800000), (200, 1, 2), (202, 1, 1), (204, 4, 0x3F800000), (313, 1, 1), (314, 1, 0x80)] } } }
        : Dev).tly (fun x => { x with mergedAq := [(0, 0x80000005), (1, 0x80000002)] }));
      let stuck : Bool := false;
      let j : Fin 4 := 0;
      let k : Nat := 0;
      let v2 : SafeVal := { x := 1084227584, ovr := false, neg := false };
      let v3 : SafeVal := { x := 1084227584, ovr := false, neg := false };
      let w2 : SafeVal := { x := 1073741824, ovr := false, neg := false };
      let fn : Nat := 3;
      let a : Nat := 0;
      let a2 : Nat := 0;
      s.dev.running 7 = true ∧ (bitOf (s.dev.fget SH_SAFE_STAT_ACT) 0 = false ∨ s.dev.fget SH_SAFE_STAT_CONV ≠ 3) ∧
        s.dev.sh.safe.safeCyc < s.dev.sh.tly.closed ∧ s.dev.sh.safe.safeOk = true ∧ s.dev.sh.safe.safeWork.chOn ↑j =
        true ∧ k < 2 ∧ ((fun k => s.dev.srcVal s.dev.sh.safe.safeWork (s.dev.sh.safe.safeWork.u8 (chAt ↑j + k))) k =
        some v2) ∧ (v2.ovr = true ∨ f32.lt (s.dev.sh.safe.safeWork.f32 (chAt ↑j + 4)) (f32.abs v2.x) = true) ∧
        s.dev.sh.safe.safeWork.u8 (chAt ↑j + 3) ≤ 64 ∧ s.dev.sh.safe.safeWork.u8 (chAt ↑j + 3) ≤ s.dev.overCount (2 * ↑j
        + k) + 1 ∧ ((fun k => s.dev.srcVal s.dev.sh.safe.safeWork (s.dev.sh.safe.safeWork.u8 (chAt ↑j + k))) 0 = some
        v3) ∧ ((fun k => s.dev.srcVal s.dev.sh.safe.safeWork (s.dev.sh.safe.safeWork.u8 (chAt ↑j + k))) 1 = some w2) ∧
        f32.lt (s.dev.sh.safe.safeWork.f32 (chAt ↑j + 8)) (f32.abs (safeWord ((f32.read v3.x).add (f32.read w2.x).neg)))
        = true ∧ s.dev.sh.safe.blkOn = false ∧ (s.dev.fget SH_SAFE_STAT_ACT = 0 ∨ s.dev.fbit SH_SAFE_STAT_SSTATE = true
        ∨ s.dev.sh.safe.safeStateMiss = true) ∧ fn < 4 ∧ s.dev.mode ≠ 1 ∧ stuck = false ∧ (s.dev.sh.pin.safeReq = 0 ∨
        s.dev.sh.pin.safeReq = 3) ∧ (s.dev.nv.safeLen = 0 ∨ s.dev.storeGood = true) ∧ s.dev.fbit SH_SAFE_STAT_FAULTN =
        false ∧ s.dev.powered 7 = true ∧ a ≠ SH_SAFE_STAT ∧ s.dev.twin = false ∧ s.dev.sh.safe.safeNext = none ∧
        s.dev.sh.safe.safeWork.check ≠ s.dev.nv.chk ∧ a2 ≠ SH_SAFE_STAT) ∧
    (let s : State := netS [] (fun d =>
        { d.pin (fun x => { x with safeReq := 1 }) with nv := { d.nv with safeLen := 512, safe := store 5 1 } });
      let stuck : Bool := true;
      s.dev.running 7 = true ∧ s.dev.sh.safe.safeCyc < s.dev.sh.tly.closed ∧ s.dev.sh.safe.safeOk = false ∧ stuck = true
        ∧ (s.dev.sh.pin.safeReq = 1 ∨ s.dev.sh.pin.safeReq = 2) ∧ s.dev.nv.safeLen ≠ 0 ∧ s.dev.storeGood = false ∧
        (s.dev.sh.safe.safeOk = false ∨ s.dev.sh.safe.safeNext ≠ none ∨ s.dev.sh.safe.safeWork.check = s.dev.nv.chk)) ∧
    (let s : State := netS (paired 1 ++ [(SH_SAFE_STAT_ACT, 1)]) (fun d =>
        { d with sh := { d.sh with safe := { d.sh.safe with safeOk := true, safeWork := store 5 1 } } });
      s.dev.fget SH_SAFE_STAT_ACT ≠ 0 ∧ s.dev.fbit SH_SAFE_STAT_SSTATE = false ∧ s.dev.sh.safe.safeStateMiss = false ∧
        s.dev.powered 7 = true ∧ s.dev.twin = true ∧ s.dev.sh.safe.safeOk = true ∧ s.dev.sh.safe.safeNext = none ∧
        s.dev.sh.safe.safeWork.check ≠ s.dev.nv.chk) ∧
    (let s : State := st Dev.reset;
      s.dev.running 7 = false ∧ (s.dev.running 7 = false ∨ s.dev.sh.tly.closed ≤ s.dev.sh.safe.safeCyc) ∧ s.dev.powered
        7 = false) ∧
    (let s : State := safe [] (fun x =>
        { x with safeOk := true, blkOn := true, safeWork := (wr [(5, 1, 1), (314, 1, 0x80), (362, 1, 0x80)]) });
      let j : Fin 4 := 3;
      let k : Nat := 3;
      s.dev.running 7 = true ∧ s.dev.sh.safe.safeCyc < s.dev.sh.tly.closed ∧ s.dev.sh.safe.safeOk = true ∧
        s.dev.sh.safe.safeWork.chOn ↑j = true ∧ ((fun k => s.dev.srcVal s.dev.sh.safe.safeWork
        (s.dev.sh.safe.safeWork.u8 (chAt ↑j + k))) 0 = none) ∧ ((fun k => s.dev.srcVal s.dev.sh.safe.safeWork
        (s.dev.sh.safe.safeWork.u8 (chAt ↑j + k))) 1 = none) ∧ s.dev.sh.safe.blkOn = true) ∧
    (let s : State := netS [(SH_MODE_CUR, 1), (SH_SAFE_STAT_SSTATE, 1), (SH_SAFE_STAT_ACT, 1), (SH_SAFE_STAT_FAULTN,
        1)] (staged (store 5 1));
      s.dev.mode = 1 ∧ s.dev.staging.safeValid = true ∧ s.dev.fbit SH_SAFE_STAT_FAULTN = true) ∧
    (let s : State := netS [(SH_MODE_CUR, 1), (SH_SAFE_STAT_ACT, 1)] (staged (store 4 2));
      s.dev.mode = 1 ∧ s.dev.staging.safeValid = false) := by
  iterate 6 (refine ⟨by decide +kernel, ?_⟩)
  decide +kernel

theorem witness_HostPortResults :
    (let s : State := cdA (dbg 1 0 .running []) (fun x => x.modTask 3 (fun k => { k with seq := some sq }));
      let port : Fin 8 := 0;
      let l : List Byte := List.replicate 59 0;
      let rd : RDie := .rd0;
      let i : Fin 4 := 3;
      let w : W64 := 0xE000000000000000;
      let v : W64 := 0x7FFFFFFFFFFFFFFF;
      let a : Nat := 0;
      let bytes : Nat := 0;
      let row : RegRow :=
        { base := 0, stride := 8, count := 1, reset := 35656193, rw := 0, rwl := 0, w1c := 0, w1s := 0, wo := 0, rc := 0, rp := 0, cf := 0, ring := 0 };
      let p : Place := 0;
      let rcell : RegRow :=
        { base := 0, stride := 4, count := 1, reset := 1527034144, rw := 0, rwl := 0, w1c := 0, w1s := 0, wo := 0, rc := 0, rp := 0, cf := 0, ring := 0 };
      let die : CDie := .a;
      let k : Fin 16 := 0;
      let t : Fin 512 := 3;
      let y1 : Fin 12 := 1;
      let y2 : Fin 64 := 3;
      let y3 : Fin 192 := 0;
      let b : Nat := 14;
      let q : Nat × Instr := (TIM_CYC_CFG, .cycleConfigurationWrite 0x7FFFFFFFFFFFFFFF);
      let b2 : Nat := 8220;
      let x1 := (s.dev.rd rd.idx).sp ↑i;
      let x3 := s.dev.cd die.idx;
      let x2 := x3.task ↑t;
      let x4 := 4 + spDie ↑port;
      s.dev.present x4 = true ∧ s.dev.powered x4 = true ∧ (¬(60 ≤ l.length ∧ l.length ≤ 1518 ∧ s.dev.ptpConsumes (↑port)
        l = false)) ∧ s.dev.present (4 + rd.idx) = true ∧ BitVec.getLsbD w 63 = true ∧ s.dev.powered (4 + rd.idx) = true
        ∧ (BitVec.getLsbD w 62 = true ∨ x1.words ≠ [] ∧ x1.bad = false ∧ x1.words.length < Config.txWords) ∧
        BitVec.getLsbD w 61 = true ∧ ((List.drop 2 (List.flatMap wordBytes ((if BitVec.getLsbD w 62 = true then [] else
        x1.words) ++ [w]))).length ≤ 1518) ∧ (bitOf (BitVec.toNat ((List.flatMap wordBytes ((if BitVec.getLsbD w 62 =
        true then [] else x1.words) ++ [w])).headD 0)) 1 = false) ∧ (bitOf (BitVec.toNat ((List.flatMap wordBytes ((if
        BitVec.getLsbD w 62 = true then [] else x1.words) ++ [w])).headD 0)) 0 = false) ∧ s.dev.winUp GLB_FIFO_IRQ =
        true ∧ a % 8 = 0 ∧ a < 2097152 ∧ pkgRowAt a = some row ∧ b ≠ a ∧ aligned a bytes = false ∧ inAlias a = false ∧
        inPort a = false ∧ s.dev.hasPlace p = true ∧ (s.dev.cell p).powered = true ∧ findRow cellRows (a % 65536) = some
        rcell ∧ (¬a % 65536 ∈ [SRB_TIME_LO, SRB_ALARM_LAT, SRB_RP_SYNC 0, SRB_RP_SYNC 1, SRB_FE_EXC]) ∧ (a % 8 ≠ 0 ∨
        bytes ≠ 8 ∨ inAlias a = true) ∧ a < 65536 ∧ q ∈ [(TIM_CYC_CFG, Instr.cycleConfigurationWrite v), (SH_FOLD_CFG
        ↑y1, Instr.foldConfigurationWrite y1 v), (TIM_WALL, Instr.wallOffsetWrite v), (SH_LE_PARAM, Instr.leParamGo v),
        (SH_LEDG_CFG, Instr.ledgerLengthWrite v), (SH_FLT_CFG, Instr.faultConfigurationWrite v), (SH_SAFE_DATA ↑y2,
        Instr.safetyDataWrite y2 v), (SH_SAFE_CONFIRM, Instr.safetyConfirm (BitVec.setWidth 32 v)), (SH_IMG_DATA,
        Instr.imageData v), (GLB_IRQ_STAT, Instr.irqCauseClear false v), (GLB_FIFO_IRQ, Instr.irqCauseClear true v),
        (GLB_DBG_CORES, Instr.debugCoresWrite v), (GLB_TXS_REQ ↑y2, Instr.transactionSlotGo y2 v), (RDn_HUB_REQ rd.idx,
        Instr.hubRequest rd v), (AQ_CH_CFG ↑y3, Instr.aqChannelWrite y3 v)] ∧ s.dev.winUp q.fst = true ∧
        s.dev.cycleRegWrite a v = none ∧ s.dev.packageRegWrite a v = none ∧ s.dev.portRegWrite a v = none ∧ b2 ≠ a ∧
        (s.dev.mode ≠ 1 ∨ s.dev.fbit GLB_DBG_STRAP = false) ∧ s.dev.debugOpen = true ∧ s.dev.present die.idx = true ∧
        s.dev.powered die.idx = true ∧ s.dev.debugCore die.idx ↑k = true ∧ s.dev.lane die.idx ≠ 4 ∧ (x2.part ≠ 0 ∨
        s.dev.lane die.idx ≠ 4 ∨ s.dev.retireRefused = false) ∧ x2.state = TState.running ∧ x2.seq ≠ none ∧ x2.state ≠
        TState.halted ∧ s.dev.dbgOk die.idx = true ∧ s.dev.fbit (CDx_DBG_SEL_MEM die.idx) = false ∧ (x3.core (s.dev.fget
        (CDx_DBG_SEL_CORE die.idx))).task = some ↑t ∧ (¬(s.dev.lane die.idx = 3 ∨ s.dev.lane die.idx = 4) ∨ x2.part ≠ 0)) ∧
    (let s : State := st (on.modRd 0 (fun x => x.setSp 0 { SpTx.empty with words := [1], stamps := [5] }));
      let port : Fin 8 := 0;
      let l : List Byte := List.replicate 60 0;
      let rd : RDie := .rd0;
      let i : Fin 4 := 0;
      let w : W64 := 0xE000000000000001;
      let a : Nat := 0;
      let bytes : Nat := 64;
      let p : Place := 0;
      let die : CDie := .a;
      let st : W64 := 5;
      let rest : List W64 := [];
      let x1 := (s.dev.rd rd.idx).sp ↑i;
      let x2 := 4 + spDie ↑port;
      s.dev.present x2 = true ∧ s.dev.powered x2 = true ∧ 60 ≤ l.length ∧ l.length ≤ 1518 ∧ s.dev.ptpConsumes (↑port) l
        = false ∧ ((s.dev.rd (spDie ↑port)).fifo (s.dev.fifoLoc (spFifo ↑port))).ptrBad = false ∧ (packetWords (bytesOf
        5 1 ++ bytesOf (↑port) 1 ++ bytesOf (ux 40 (s.dev.spStamp (↑port) (TIM_SP_LAT_ING ↑port))) 5 ++ bytesOf l.length
        2 ++ l)).length ≤ s.dev.fifoFree (spFifo ↑port) ∧ s.dev.present (4 + rd.idx) = true ∧ BitVec.getLsbD w 63 = true
        ∧ s.dev.powered (4 + rd.idx) = true ∧ (BitVec.getLsbD w 62 = true ∨ x1.words ≠ [] ∧ x1.bad = false ∧
        x1.words.length < Config.txWords) ∧ BitVec.getLsbD w 61 = true ∧ ((List.drop 2 (List.flatMap wordBytes ((if
        BitVec.getLsbD w 62 = true then [] else x1.words) ++ [w]))).length ≤ 1518) ∧ (bitOf (BitVec.toNat ((List.flatMap
        wordBytes ((if BitVec.getLsbD w 62 = true then [] else x1.words) ++ [w])).headD 0)) 1 = false) ∧ (bitOf
        (BitVec.toNat ((List.flatMap wordBytes ((if BitVec.getLsbD w 62 = true then [] else x1.words) ++ [w])).headD 0))
        0 = true) ∧ s.dev.winUp (RDn_SP_TXTS rd.idx ↑i) = true ∧ x1.stamps = st :: rest ∧ aligned a bytes = true ∧ a +
        bytes ≤ 2097152 ∧ s.dev.hasPlace p = true ∧ (s.dev.cell p).powered = false ∧ s.dev.debugOpen = false ∧
        s.dev.present die.idx = true ∧ s.dev.powered die.idx = true ∧ s.dev.dbgOk die.idx = false) ∧
    (let s : State := dbg 1 4 .halted [(CDx_DBG_SEL_MEM 0, 1), (CDx_DBG_SEL_A 0, 0x117FFFF8)];
      let rd : RDie := .rd1;
      let w : W64 := 0x7FFFFFFFFFFFFFFF;
      let a : Nat := 8220;
      let p : Place := 0;
      let die : CDie := .a;
      let k : Fin 16 := 0;
      let t : Fin 512 := 3;
      let x1 := (s.dev.cd die.idx).task ↑t;
      let x2 := CDx_DBG_SEL_A die.idx;
      s.dev.present (4 + rd.idx) = true ∧ (BitVec.getLsbD w 63 = false ∨ s.dev.powered (4 + rd.idx) = false) ∧
        s.dev.hasPlace p = true ∧ (s.dev.cell p).powered = true ∧ a % 65536 ∈ [SRB_RP_SYNC 0, SRB_RP_SYNC 1] ∧
        s.dev.present die.idx = true ∧ s.dev.powered die.idx = true ∧ s.dev.debugOpen = true ∧ s.dev.debugCore die.idx
        ↑k = true ∧ s.dev.lane die.idx = 4 ∧ s.dev.retireRefused = true ∧ x1.state = TState.halted ∧ x1.hstate ∈
        [TState.waitMbox, TState.waitLock, TState.waitDelay, TState.waitTag, TState.waitCyc] ∧ s.dev.dbgOk die.idx =
        true ∧ s.dev.fbit (CDx_DBG_SEL_MEM die.idx) = true ∧ inSram (s.dev.fget x2) = true ∧ ((s.dev.lane die.idx = 3 ∨
        s.dev.lane die.idx = 4) ∧ s.dev.fget x2 < 293601280)) ∧
    (let s : State := dbg 0 4 .running [(CDx_DBG_SEL_A 0, 17)];
      let rd : RDie := .rd1;
      let i : Fin 4 := 1;
      let w : W64 := 0xC000000000000000;
      let die : CDie := .a;
      let t : Fin 512 := 3;
      let x2 := (s.dev.rd rd.idx).sp ↑i;
      let x3 := s.dev.cd die.idx;
      let x1 := x3.task ↑t;
      s.dev.present (4 + rd.idx) = true ∧ BitVec.getLsbD w 63 = true ∧ s.dev.powered (4 + rd.idx) = true ∧
        (BitVec.getLsbD w 62 = true ∨ x2.words ≠ [] ∧ x2.bad = false ∧ x2.words.length < Config.txWords) ∧
        BitVec.getLsbD w 61 = false ∧ s.dev.present die.idx = true ∧ s.dev.powered die.idx = true ∧ s.dev.debugOpen =
        true ∧ x1.part = 0 ∧ x1.state ≠ TState.free ∧ s.dev.lane die.idx = 4 ∧ s.dev.retireRefused = true ∧ s.dev.dbgOk
        die.idx = true ∧ s.dev.fbit (CDx_DBG_SEL_MEM die.idx) = false ∧ (x3.core (s.dev.fget (CDx_DBG_SEL_CORE
        die.idx))).task = some ↑t ∧ ((s.dev.lane die.idx = 3 ∨ s.dev.lane die.idx = 4) ∧ x1.part = 0)) ∧
    (let s : State := dbg 1 3 .running [(CDx_DBG_SEL_MEM 0, 1), (CDx_DBG_SEL_A 0, 0x11800000)];
      let rd : RDie := .rd0;
      let i : Fin 4 := 0;
      let w : W64 := 0xA000000000000000;
      let die : CDie := .a;
      let t : Fin 512 := 3;
      let x1 := (s.dev.cd die.idx).task ↑t;
      let x2 := (s.dev.rd rd.idx).sp ↑i;
      let x3 := CDx_DBG_SEL_A die.idx;
      s.dev.present (4 + rd.idx) = true ∧ BitVec.getLsbD w 63 = true ∧ s.dev.powered (4 + rd.idx) = true ∧
        (¬(BitVec.getLsbD w 62 = true ∨ x2.words ≠ [] ∧ x2.bad = false ∧ x2.words.length < Config.txWords)) ∧
        BitVec.getLsbD w 61 = true ∧ s.dev.present die.idx = true ∧ s.dev.powered die.idx = true ∧ s.dev.debugOpen =
        true ∧ (x1.part ≠ 0 ∨ s.dev.lane die.idx ≠ 4 ∨ s.dev.retireRefused = false) ∧ x1.state ∈ [TState.ready,
        TState.waitMbox, TState.waitDelay, TState.waitTag, TState.waitCyc, TState.waitLock, TState.running] ∧ x1.seq =
        none ∧ x1.deleting = false ∧ s.dev.dbgOk die.idx = true ∧ s.dev.fbit (CDx_DBG_SEL_MEM die.idx) = true ∧ inSram
        (s.dev.fget x3) = true ∧ (¬(s.dev.lane die.idx = 3 ∨ s.dev.lane die.idx = 4) ∨ 293601280 ≤ s.dev.fget x3)) ∧
    (let s : State := netS [(GLB_DIE_PWR 4, 0), (GLB_DIE_PWR 5, 0), (SH_MODE_CUR, 1), (GLB_DBG_STRAP, 1)] id;
      let port : Fin 8 := 0;
      let x1 := 4 + spDie ↑port;
      s.dev.present x1 = true ∧ s.dev.powered x1 = false ∧ s.dev.mode = 1 ∧ s.dev.fbit GLB_DBG_STRAP = true) ∧
    (let s : State := st (set on [(GLB_DIE_PWR 6, 0)]);
      let a : Nat := 4194304;
      a % 8 = 0 ∧ inAlias a = false ∧ s.dev.winUp a = false) ∧
    (let s : State := cdA (dbg 1 0 .halted []) (fun x => x.modTask 3 (fun k => { k with hstate := .ready }));
      let die : CDie := .a;
      let t : Fin 512 := 3;
      let x1 := (s.dev.cd die.idx).task ↑t;
      s.dev.present die.idx = true ∧ s.dev.powered die.idx = true ∧ s.dev.debugOpen = true ∧ x1.state = TState.halted ∧
        x1.hstate ∈ [TState.ready, TState.running]) ∧
    (let s : State := dbg 1 0 .halted [(CDx_DBG_SEL_MEM 0, 1), (CDx_DBG_SEL_A 0, 0)];
      let die : CDie := .a;
      s.dev.present die.idx = true ∧ s.dev.powered die.idx = true ∧ s.dev.dbgOk die.idx = true ∧ s.dev.fbit
        (CDx_DBG_SEL_MEM die.idx) = true ∧ inSram (s.dev.fget (CDx_DBG_SEL_A die.idx)) = false) ∧
    (let s : State := st (on.modRd 0 (fun x => x.setFifo 24
        { words := List.replicate 16384 0, visible := 0, ptrBad := false }));
      let port : Fin 8 := 0;
      let l : List Byte := List.replicate 60 0;
      let x1 := 4 + spDie ↑port;
      s.dev.present x1 = true ∧ s.dev.powered x1 = true ∧ 60 ≤ l.length ∧ l.length ≤ 1518 ∧ s.dev.ptpConsumes (↑port) l
        = false ∧ ((s.dev.rd (spDie ↑port)).fifo (s.dev.fifoLoc (spFifo ↑port))).ptrBad = false ∧ s.dev.fifoFree (spFifo
        ↑port) < (packetWords (bytesOf 5 1 ++ bytesOf (↑port) 1 ++ bytesOf (ux 40 (s.dev.spStamp (↑port) (TIM_SP_LAT_ING
        ↑port))) 5 ++ bytesOf l.length 2 ++ l)).length) ∧
    (let s : State := netS [(⟨GLB_IRQ_STAT, 46, 1⟩, 1), (GLB_MSIX_CTL_MASK 46, 0)] (fun d => d.pin (fun x =>
        { x with busMaster := true }));
      let j : Nat := 14;
      s.dev.winUp GLB_IRQ_STAT = true ∧ j < 15 ∧ s.dev.fbit (GLB_MSIX_CTL_MASK (32 + j)) = false ∧
        s.dev.sh.pin.busMaster = true) := by
  iterate 10 (refine ⟨by decide +kernel, ?_⟩)
  decide +kernel

theorem witness_ImagePowerAndResetResults :
    (let s : State := down 5 [(SH_FLT_DIE_PCYC 0, 1)] false;
      let b : Bool := false;
      let dies : BitVec 4 := 0;
      let die : Die := .cda;
      let rd : RDie := .rd1;
      let env : StartEnv := { env true true with safePins := 1 };
      let j4 : Nat := 0;
      let j5 : Nat := 0;
      let j6 : Nat := 0;
      let j7 : Nat := 0;
      let a9 : Nat := 1;
      let a10 : Nat := 0;
      let j9 : Nat := 7;
      s.dev.fbit SH_IMG_CTL_BUSY = false ∧ s.dev.slotInUse (b2n b) = false ∧ s.dev.sh.img.imgWrite = none ∧ dies = 0 ∧
        s.dev.present die.idx = true ∧ s.dev.powered die.idx = true ∧ die.idx ≠ 7 ∧ (die.idx = 4 → s.dev.running 5 =
        true) ∧ (die.idx = 5 → s.dev.running 4 = true) ∧ s.dev.againFatal die.idx = false ∧ j4 < 4 ∧ j4 = die.idx ∧ j5 <
        4 ∧ j5 = die.idx ∧ j6 < 4 ∧ j6 = die.idx ∧ j7 < 4 ∧ j7 = die.idx ∧ s.dev.cycling die.idx = true ∧ (die.idx = 7 ∨
        s.dev.fbit (SH_FLT_DIE_LEFT die.idx) = false) ∧ s.dev.cycling die.idx = true ∧ s.dev.fbit (GLB_DIE_PWR die.idx)
        = true ∧ s.dev.sh.clk.inReset = false ∧ s.dev.present (4 + rd.idx) = true ∧ s.dev.powered (4 + rd.idx) = false ∧
        (¬∀ (j : Nat), j < 8 → s.dev.fbit (GLB_DIE_PWR j) = false) ∧ s.dev.powered 7 = true ∧ a9 ≠ SH_SAFE_STAT ∧ a10 ≠
        SH_SAFE_STAT ∧ (∀ (j : Nat), j < 8 → a10 ≠ GLB_DIE j ∧ a10 ≠ SH_FLT_DIE j) ∧ j9 < 8 ∧ s.dev.powered 7 = true ∧
        BitVec.getLsbD env.pgOk 7 = true ∧ s.dev.fbit SH_BOOT_STAT_DONE = false ∧ s.dev.mode = 7 ∧ s.dev.fget
        SH_BOOT_STAT_STEP ≤ 1 ∧ env.refclkOk = true ∧ BitVec.getLsbD env.trimOk 7 = true ∧ env.selfTestOk = true ∧
        env.safePins ≠ 0 ∧ env.wiring = 0 ∧ s.dev.storeGood = false) ∧
    (let s : State := st (img [(SH_IMG_CTL_BUSY, 1), (SH_IMG_CTL_LEN, 1028)] 0 (some false) 2);
      let b : Bool := false;
      let dies : BitVec 4 := 14;
      let die : Die := .sh;
      let rd : RDie := .rd1;
      let env : StartEnv := env false true;
      let a3 : Nat := 7;
      let a4 : Nat := 0;
      let a5 : Nat := 0;
      let a6 : Nat := 0;
      let x1 := s.dev.slotMem (b2n s.dev.sh.img.imgSlotB);
      s.dev.fbit SH_IMG_CTL_BUSY = true ∧ dies ≠ 0 ∧ s.dev.sh.img.imgWrite = some b ∧ s.dev.sh.img.imgOp = 2 ∧
        s.dev.sh.img.imgBad = 0 ∧ x1.imageLen ≤ s.dev.fget SH_IMG_CTL_LEN ∧ s.dev.fget SH_IMG_CTL_LEN < x1.imageLen + 8
        ∧ x1.crcsGood = true ∧ s.dev.present die.idx = true ∧ s.dev.powered die.idx = true ∧ (die.idx = 7 ∨ die.idx = 4
        ∧ s.dev.running 5 = false ∨ die.idx = 5 ∧ s.dev.running 4 = false) ∧ a3 ≠ SH_SAFE_STAT ∧ a4 ≠ SH_SAFE_STAT ∧ a5
        ≠ SH_SAFE_STAT ∧ a6 ≠ SH_SAFE_STAT ∧ s.dev.cycling die.idx = false ∧ (¬(s.dev.cycling die.idx = true ∧
        s.dev.fbit (GLB_DIE_PWR die.idx) = true)) ∧ s.dev.present (4 + rd.idx) = true ∧ s.dev.powered (4 + rd.idx) =
        true ∧ s.dev.running (5 - rd.idx) = true ∧ s.dev.powered 7 = true ∧ BitVec.getLsbD env.pgOk 7 = true ∧
        s.dev.fbit SH_BOOT_STAT_DONE = false ∧ s.dev.mode = 7 ∧ s.dev.fget SH_BOOT_STAT_STEP ≤ 1 ∧ env.refclkOk = false) ∧
    (let s : State := down 8 [(SH_FLT_DIE_LEFT 0, 1), (SH_FLT_DIE_LEFT 6, 1)] true;
      let b : Bool := false;
      let dies : BitVec 4 := 14;
      let die : Die := .aq;
      let env : StartEnv := { env true true with hurdleStrap := true };
      s.dev.fbit SH_IMG_CTL_BUSY = false ∧ dies ≠ 0 ∧ s.dev.imageGood (b2n b) = false ∧ s.dev.present die.idx = true ∧
        s.dev.powered die.idx = false ∧ die.idx < 7 ∧ s.dev.fbit (SH_FLT_DIE_LEFT die.idx) = true ∧ s.dev.powered 7 =
        false ∧ (¬(s.dev.powered 7 = true ∧ BitVec.getLsbD env.pgOk 7 = true ∧ s.dev.fbit SH_BOOT_STAT_DONE = false ∧
        s.dev.mode = 7 ∧ s.dev.fget SH_BOOT_STAT_STEP ≤ 1)) ∧ s.dev.sh.clk.inReset = true) ∧
    (let s : State := st ((img [] 0 none 0).pin (fun x => { x with firstFatal := [(0, 1)] }));
      let die : Die := .cda;
      let env : StartEnv := { env true true with refLines := 1 };
      s.dev.present die.idx = true ∧ s.dev.powered die.idx = true ∧ die.idx ≠ 7 ∧ (die.idx = 4 → s.dev.running 5 = true)
        ∧ (die.idx = 5 → s.dev.running 4 = true) ∧ s.dev.againFatal die.idx = true ∧ s.dev.powered 7 = true ∧
        BitVec.getLsbD env.pgOk 7 = true ∧ s.dev.fbit SH_BOOT_STAT_DONE = false ∧ s.dev.mode = 7 ∧ s.dev.fget
        SH_BOOT_STAT_STEP ≤ 1 ∧ env.refclkOk = true ∧ BitVec.getLsbD env.trimOk 7 = true ∧ env.selfTestOk = true ∧
        env.hurdleStrap = false ∧ env.refLines ≠ 0) ∧
    (let s : State := st { img [] 1028 none 0 with cd0 := vec (die 0 []) };
      let b : Bool := false;
      let dies : BitVec 4 := 15;
      let env : StartEnv := { env true true with trimOk := 0x7F };
      let j2 : Nat := 1;
      let a12 : Nat := 7;
      let x1 := s.dev.loadDies dies.toNat;
      s.dev.fbit SH_IMG_CTL_BUSY = false ∧ s.dev.slotInUse (b2n b) = true ∧ dies ≠ 0 ∧ s.dev.slotUsable (b2n b) = true ∧
        (¬(List.filter (fun j => decide (s.dev.lane j = 4)) x1 ≠ [] ∧ (s.dev.mode = 2 ∨ s.dev.mode = 3 ∨ s.dev.mode = 4)
        ∧ s.dev.counting.length < (List.filter (fun j => decide (s.dev.lane j = 4)) x1).length + 2)) ∧ j2 ∈
        s.dev.loadDies dies.toNat ∧ s.dev.powered 7 = true ∧ BitVec.getLsbD env.pgOk 7 = true ∧ s.dev.fbit
        SH_BOOT_STAT_DONE = false ∧ s.dev.mode = 7 ∧ s.dev.fget SH_BOOT_STAT_STEP ≤ 1 ∧ env.refclkOk = true ∧
        BitVec.getLsbD env.trimOk 7 = false ∧ a12 ≠ SH_SAFE_STAT) ∧
    (let s : State := st (img [(SH_IMG_CTL_LEN, 0x1FFFFF8)] 0 (some false) 1);
      let b : Bool := false;
      let env : StartEnv := env true false;
      let a : Nat := 7;
      s.dev.fbit SH_IMG_CTL_BUSY = false ∧ s.dev.sh.img.imgWrite = some b ∧ s.dev.fget SH_IMG_CTL_LEN + 8 ≤ 33554432 ∧
        (a < s.dev.fget SH_IMG_CTL_LEN ∨ s.dev.fget SH_IMG_CTL_LEN + 8 ≤ a) ∧ s.dev.powered 7 = true ∧ BitVec.getLsbD
        env.pgOk 7 = true ∧ s.dev.fbit SH_BOOT_STAT_DONE = false ∧ s.dev.mode = 7 ∧ s.dev.fget SH_BOOT_STAT_STEP ≤ 1 ∧
        env.refclkOk = true ∧ BitVec.getLsbD env.trimOk 7 = true ∧ env.selfTestOk = false) ∧
    (let s : State := st (let d := img [(SH_IMG_CTL_BUSY, 1)] 1028 none 3;
        { d with sh := { d.sh with img := { d.sh.img with imgGood := true, imgDies := 1 } } });
      let ok : BitVec 4 := 1;
      let env : StartEnv := { env true true with wiring := 1 };
      let j3 : Nat := 0;
      let a2 : Nat := 7;
      s.dev.fbit SH_IMG_CTL_BUSY = true ∧ s.dev.sh.img.imgOp = 3 ∧ s.dev.sh.img.imgGood = true ∧ j3 ∈ s.dev.loadDies
        s.dev.sh.img.imgDies.toNat ∧ ok.getLsbD j3 = true ∧ a2 < (s.dev.slotMem (b2n s.dev.sh.img.imgSlotB)).ilen ∧
        s.dev.powered 7 = true ∧ BitVec.getLsbD env.pgOk 7 = true ∧ s.dev.fbit SH_BOOT_STAT_DONE = false ∧ s.dev.mode =
        7 ∧ s.dev.fget SH_BOOT_STAT_STEP ≤ 1 ∧ env.refclkOk = true ∧ BitVec.getLsbD env.trimOk 7 = true ∧ env.selfTestOk
        = true ∧ env.wiring ≠ 0) ∧
    (let s : State := st (img [(SH_IMG_CTL_LEN, 0x1FFFFF9)] 0 (some false) 1);
      let b : Bool := false;
      s.dev.fbit SH_IMG_CTL_BUSY = false ∧ s.dev.sh.img.imgWrite = some b ∧ 33554432 < s.dev.fget SH_IMG_CTL_LEN + 8) ∧
    (let s : State := st Dev.reset;
      let j8 : Nat := 1;
      (∀ (j : Nat), j < 8 → s.dev.fbit (GLB_DIE_PWR j) = false) ∧ j8 < 8 ∧ s.dev.present j8 = true) ∧
    (let s : State := down 4 [] false;
      let rd : RDie := .rd1;
      let a7 : Nat := 7;
      s.dev.present (4 + rd.idx) = true ∧ s.dev.powered (4 + rd.idx) = true ∧ s.dev.running (5 - rd.idx) = false ∧ a7 ≠
        SH_SAFE_STAT) ∧
    (let s : State := st (let d := img [(SH_IMG_CTL_BUSY, 1)] 1028 none 3;
        { d with sh := { d.sh with img := { d.sh.img with imgGood := true, imgDies := 1 } } });
      let ok : BitVec 4 := 14;
      let j3 : Nat := 0;
      s.dev.fbit SH_IMG_CTL_BUSY = true ∧ s.dev.sh.img.imgOp = 3 ∧ s.dev.sh.img.imgGood = true ∧ j3 ∈ s.dev.loadDies
        s.dev.sh.img.imgDies.toNat ∧ ok.getLsbD j3 = false) ∧
    (let s : State := down 5 [(SH_FLT_DIE_PCYC 0, 1)] true;
      let die : Die := .cda;
      s.dev.present die.idx = true ∧ s.dev.cycling die.idx = true ∧ s.dev.fbit (GLB_DIE_PWR die.idx) = true ∧
        s.dev.sh.clk.inReset = true) ∧
    (let s : State := st (img [(SH_MODE_CUR, 3), (SH_LANE_STAT_STATE 0, 4)] 1028 none 0);
      let b : Bool := false;
      let dies : BitVec 4 := 15;
      let x1 := s.dev.loadDies dies.toNat;
      s.dev.fbit SH_IMG_CTL_BUSY = false ∧ dies ≠ 0 ∧ s.dev.slotUsable (b2n b) = true ∧ (List.filter (fun j => decide
        (s.dev.lane j = 4)) x1 ≠ [] ∧ (s.dev.mode = 2 ∨ s.dev.mode = 3 ∨ s.dev.mode = 4) ∧ s.dev.counting.length <
        (List.filter (fun j => decide (s.dev.lane j = 4)) x1).length + 2)) ∧
    (let s : State := st
        { set Dev.reset [(GLB_DIE_PWR 7, 1), (GLB_DIE_STATE 7, 2), (SH_MODE_CUR, 7)] with variant := .chm2 };
      let env : StartEnv := { env true true with hurdleStrap := true };
      s.dev.powered 7 = true ∧ BitVec.getLsbD env.pgOk 7 = true ∧ s.dev.fbit SH_BOOT_STAT_DONE = false ∧ s.dev.mode = 7
        ∧ s.dev.fget SH_BOOT_STAT_STEP ≤ 1 ∧ env.refclkOk = true ∧ BitVec.getLsbD env.trimOk 7 = true ∧ env.selfTestOk =
        true ∧ env.hurdleStrap = true ∧ s.dev.variant = Variant.chm2) ∧
    (let s : State := st { img [(SH_MODE_CUR, 3), (SH_VOTE_SIG_RUN, 5)] 1028 none 0 with cd0 := vec (die 0 []) };
      let b : Bool := false;
      let dies : BitVec 4 := 15;
      let j : Nat := 0;
      s.dev.fbit SH_IMG_CTL_BUSY = false ∧ dies ≠ 0 ∧ s.dev.imageGood (b2n b) = true ∧ s.dev.slotUsable (b2n b) = false
        ∧ j ∈ s.dev.loadDies dies.toNat ∧ s.dev.lane j ≠ 4 ∧ (s.dev.cd j).img ≠ none) := by
  iterate 14 (refine ⟨by decide +kernel, ?_⟩)
  decide +kernel

end Sys2Proof.Tests
end

section
/-!
PROOFS for the family `00_scope`: the state after reset (O6, O7) and the commands that name an absent unit (O3).
-/
namespace Sys2Proof.Machine

/-! ### The state after reset -/

@[simp] theorem Dev.rget_reset (a : Nat) : Dev.reset.rget a = regReset a := rfl

theorem regReset_eq_zero {a : Nat} (h : pkgRowAt a = none) : regReset a = 0 := by simp [regReset, h]

theorem regReset_irqStat : regReset GLB_IRQ_STAT = 0 := by decide +kernel

theorem Dev.cd_reset (d : Nat) : Dev.reset.cd d = CtrlDie.reset := by
  rcases d with _ | _ | _ | d <;> rfl

/-- Settles O6: every store after reset is empty, and so is the queue. -/
theorem resetIsLegal : Obligations.ResetIsLegal := by
  unfold Obligations.ResetIsLegal
  decide

/-- Settles O7: the register store after reset is empty, so every register reads its reset value, and no store of a control die
    has an entry. -/
theorem resetRegisterValues : Obligations.ResetRegisterValues := by
  unfold Obligations.ResetRegisterValues State.reset
  refine ⟨Dev.rget_reset, fun a ha => ?_, ?_, rfl, fun d t => ?_, fun d c => ?_, rfl⟩
  · rw [Dev.rget_reset, regReset_eq_zero ha]
  · rw [Dev.fget, Dev.rget_reset, regReset_irqStat]
    rfl
  · rw [Dev.cd_reset]
    rfl
  · rw [Dev.cd_reset]
    rfl

/-! ### Commands that name an absent unit -/

theorem State.onCell_absent {s : State} {p : Place} (f : Cell → Cell) (h : s.dev.hasPlace p = false) : s.onCell p f = .next s := by
  rw [State.onCell, h, State.updIf_false]

/-- FILTERED_RESULT draws the die temperature (log entry 36) before it looks for its unit: where the place is absent the model's
    count of free values has advanced all the same. -/
theorem exec_filteredResult_absent {s : State} {p : Place} (h : s.dev.hasPlace p = false) :
    exec (.filteredResult (.cell p)) s = .next { s with dev := { s.dev with freeCtr := s.dev.freeCtr + 1 } } :=
  State.onCell_absent (s := { s with dev := s.dev.free.2 }) _ h

/-- Refutes O3: after reset the package is a CHM-8 with 66 rings, so place 4224 = 64 × 66 does not exist, and FILTERED_RESULT of
    the cell there still draws a free value. -/
theorem not_everyCommandCompletes : ¬ Obligations.EveryCommandCompletes := by
  unfold Obligations.EveryCommandCompletes
  intro h
  have absent : State.reset.dev.hasPlace 4224 = false := by decide
  have same := (h (.filteredResult (.cell 4224)) State.reset).2 absent
  rw [exec_filteredResult_absent absent, Host.Outcome.next.injEq] at same
  exact absurd (congrArg (fun s : State => s.dev.freeCtr) same) (by decide)

end Sys2Proof.Machine
end

section
/-!
PROOFS for the family `00_scope`: the host port (O59).
-/
namespace Sys2Proof.Machine
/-! ### A plain write to a package whose start-up failed (R584, R640) -/

/-- A host write to an address that does not answer changes nothing. -/
theorem exec_registerWrite_winDown {s : State} {a : Nat} (v : W64) (ha : a % 8 = 0) (hp : inAlias a = false)
    (hw : s.dev.winUp a = false) : exec (.registerWrite (.bar0 a 8) v) s = .next s := by
  simp [exec, execRegisterWrite, Dev.hostWrite, ha, hp, hw]

/-- The package after reset, but for step 4 of its start-up having failed: the host reads identity and journal only (R584). -/
def State.bootFailed : State := { State.reset with dev := { Dev.reset with regs := [(SH_BOOT_STAT, 0x2000000000000)] } }

theorem State.bootFailed_winUp_ledgAck : State.bootFailed.dev.winUp (SH_LEDG_ACK 0) = false := by decide

theorem State.bootFailed_rget_ledgAck : State.bootFailed.dev.rget (SH_LEDG_ACK 0) = 0xFFFF := by decide +kernel

/-- The row of `SH_LEDG_ACK`. -/
def ledgAckRow : RegRow := { base := SH_LEDG_ACK 0, stride := 8, count := 2, reset := 0xFFFF, rw := 0xFFFF }

/-- Refutes O59: its clause on a plain write of a package register does not ask that the address answers. Where step 4 of the
    start-up failed `SH_LEDG_ACK` does not, and a write of 0 to its RW bits leaves the reset value 0xFFFF. -/
theorem not_hostPortResults : ¬ Obligations.HostPortResults := by
  unfold Obligations.HostPortResults
  intro h
  obtain ⟨-, -, -, -, -, -, -, -, -, -, -, -, -, -, -, -, plainWrite, -⟩ :=
    h State.bootFailed 0 [] .rd0 0 0 0 (SH_LEDG_ACK 0) 8 ledgAckRow 0 ledgAckRow .a 0 0 0 [] 0 0 0
  obtain ⟨d, hd, -, written⟩ :=
    plainWrite (by decide) (by decide) (by decide +kernel) (by decide) (by decide) (by decide)
  rw [exec_registerWrite_winDown 0 (by decide) (by decide) State.bootFailed_winUp_ledgAck, Host.Outcome.next.injEq] at hd
  have same : State.bootFailed.dev = d := congrArg State.dev hd
  rw [← same, State.bootFailed_rget_ledgAck] at written
  exact absurd written (by decide)
end Sys2Proof.Machine
end

section
/-!
Legal blocks (O5): `Dev.Legal` says of a block that its stores have their canonical form and that it is a package of a given
variant. The stores are written by few operations only (`Dev.rset`, `Dev.setCell`, `Dev.setRing`, `Dev.setCend`, `Dev.setCd` and
the data SRAM's own), each of which has its rule here. Every other operation of the model is built from these, so it has a lemma
`Dev.Legal.<its name>`, whose proof follows the operation's definition: where that hands a block on, its lemma hands on the
block's legality (`h.fset.event` for `(s.fset ..).event`).
-/
namespace Sys2Proof.Machine

/-! ### Legal blocks: of one variant, with canonical stores -/

/-- The block is a package of the variant, and every store of it has its canonical form. -/
def Dev.Legal (vt : Variant) (s : Dev) : Prop := s.canonical = true ∧ s.variant = vt

/-- The data SRAM of the die has its canonical form. -/
def CtrlDie.Legal (c : CtrlDie) : Prop := c.dmem.wf = true

/-- The block that the effect of an instruction leaves is legal. -/
def Ires.Legal (vt : Variant) : Ires → Prop
  | .done s => s.Legal vt
  | .goto s _ => s.Legal vt
  | .trap s _ _ => s.Legal vt
  | .hold s => s.Legal vt

/-- A command completes with the queue as it was, and leaves a legal block. -/
def State.Leaves (s : State) (vt : Variant) (o : Out) : Prop := ∃ d, o = .next { s with dev := d } ∧ d.Legal vt

theorem Dev.legal_iff (vt : Variant) (s : Dev) :
    s.Legal vt ↔ (Store.wf regReset s.regs = true ∧ Store.wf Cell.dflt s.cells = true ∧ Store.wf ringDflt s.rings = true ∧
      Store.wf endDflt s.ends = true ∧ (s.cd0.Legal ∧ s.cd1.Legal ∧ s.cd2.Legal ∧ s.cd3.Legal) ∧
      s.nv.img.all (fun e => e.2.wf) = true) ∧ s.variant = vt := by
  simp only [Dev.Legal, CtrlDie.Legal, Dev.canonical, Bool.and_eq_true, and_assoc]

section
variable {vt : Variant} {s : Dev} {c : CtrlDie}

/-! ### How a block is put together -/

theorem Dev.Legal.ite {a b : Dev} {c : Prop} [Decidable c] (ha : a.Legal vt) (hb : b.Legal vt) :
    (if c then a else b).Legal vt := by
  split <;> assumption

theorem Dev.Legal.of_fst {α : Type} {p : Dev × α} {b : α} (h : p.1.Legal vt) (e : p = (s, b)) : s.Legal vt := by
  subst e
  exact h

theorem Dev.Legal.of_snd {α : Type} {p : α × Dev} {b : α} (h : p.2.Legal vt) (e : p = (b, s)) : s.Legal vt := by
  subst e
  exact h

/-- What is kept of an optional block with one more alternative before it. -/
theorem Dev.Legal.of_ite_some {t b : Dev} {p : Prop} [Decidable p] {o : Option Dev} (hb : b.Legal vt)
    (ho : o = some t → t.Legal vt) (e : (if p then some b else o) = some t) : t.Legal vt := by
  split at e
  · exact Option.some.inj e ▸ hb
  · exact ho e

/-- What each step of a fold keeps, the fold keeps. -/
theorem Dev.Legal.foldl {α : Type} {f : Dev → α → Dev} {l : List α} (h : s.Legal vt)
    (hf : ∀ t a, Dev.Legal vt t → (f t a).Legal vt) : (l.foldl f s).Legal vt := by
  induction l generalizing s with
  | nil => exact h
  | cons a l ih => exact ih (hf s a h)

theorem Dev.Legal.forAll {α : Type} {f : Dev → α → Dev} {l : List α} (h : s.Legal vt)
    (hf : ∀ t a, Dev.Legal vt t → (f t a).Legal vt) : (forAll l s f).Legal vt := h.foldl hf

theorem CtrlDie.Legal.ite {a b : CtrlDie} {c : Prop} [Decidable c] (ha : a.Legal) (hb : b.Legal) :
    (if c then a else b).Legal := by
  split <;> assumption

theorem CtrlDie.Legal.foldl {α : Type} {f : CtrlDie → α → CtrlDie} {l : List α} (h : c.Legal)
    (hf : ∀ t a, t.Legal → (f t a).Legal) : (l.foldl f c).Legal := by
  induction l generalizing c with
  | nil => exact h
  | cons a l ih => exact ih (hf c a h)

theorem CtrlDie.Legal.forAll {α : Type} {f : CtrlDie → α → CtrlDie} {l : List α} (h : c.Legal)
    (hf : ∀ t a, t.Legal → (f t a).Legal) : (Machine.forAll l c f).Legal := h.foldl hf

theorem Ires.Legal.ite {a b : Ires} {c : Prop} [Decidable c] (ha : a.Legal vt) (hb : b.Legal vt) :
    (if c then a else b).Legal vt := by
  split <;> assumption

theorem Dev.Legal.done (h : s.Legal vt) : (Ires.done s).Legal vt := h
theorem Dev.Legal.goto {pc : W64} (h : s.Legal vt) : (Ires.goto s pc).Legal vt := h
theorem Dev.Legal.trap {n : Nat} {w : W64} (h : s.Legal vt) : (Ires.trap s n w).Legal vt := h
theorem Dev.Legal.hold (h : s.Legal vt) : (Ires.hold s).Legal vt := h

/-! ### The stores -/

theorem Dev.Legal.setCd {i : Nat} (h : s.Legal vt) (hc : c.Legal) : (s.setCd i c).Legal vt := by
  rw [Dev.legal_iff] at h ⊢
  obtain ⟨⟨hr, hcells, hg, he, ⟨h0, h1, h2, h3⟩, hn⟩, hv⟩ := h
  rcases i with _ | _ | _ | i
  · exact ⟨⟨hr, hcells, hg, he, ⟨hc, h1, h2, h3⟩, hn⟩, hv⟩
  · exact ⟨⟨hr, hcells, hg, he, ⟨h0, hc, h2, h3⟩, hn⟩, hv⟩
  · exact ⟨⟨hr, hcells, hg, he, ⟨h0, h1, hc, h3⟩, hn⟩, hv⟩
  · exact ⟨⟨hr, hcells, hg, he, ⟨h0, h1, h2, hc⟩, hn⟩, hv⟩

theorem Dev.Legal.cd {i : Nat} (h : s.Legal vt) : (s.cd i).Legal := by
  obtain ⟨⟨-, -, -, -, ⟨h0, h1, h2, h3⟩, -⟩, -⟩ := (Dev.legal_iff vt s).1 h
  rcases i with _ | _ | _ | i
  exacts [h0, h1, h2, h3]

theorem Dev.Legal.modCd {i : Nat} {f : CtrlDie → CtrlDie} (h : s.Legal vt) (hf : ∀ c, c.Legal → (f c).Legal) :
    (s.modCd i f).Legal vt := h.setCd (hf _ h.cd)

theorem Dev.Legal.rset {a : Nat} {v : W64} (h : s.Legal vt) : (s.rset a v).Legal vt := by
  rw [Dev.legal_iff] at h ⊢
  exact ⟨⟨Dev.rset_wf a v h.1.1, h.1.2⟩, h.2⟩

/-- The registers of a range taken back to their reset values. -/
theorem Dev.Legal.drop {lo hi : Nat} (h : s.Legal vt) : Dev.Legal vt { s with regs := Store.drop s.regs lo hi } := by
  rw [Dev.legal_iff] at h ⊢
  exact ⟨⟨Store.wf_drop _ lo hi h.1.1, h.1.2⟩, h.2⟩

theorem Dev.Legal.setCell {p : Place} {c : Cell} (h : s.Legal vt) : (s.setCell p c).Legal vt := by
  rw [Dev.legal_iff] at h ⊢
  obtain ⟨⟨hr, hc, hrest⟩, hv⟩ := h
  exact ⟨⟨hr, Store.wf_set _ _ _ hc, hrest⟩, hv⟩

theorem Dev.Legal.setRing {r : Nat} {y : Ring} (h : s.Legal vt) : (s.setRing r y).Legal vt := by
  rw [Dev.legal_iff] at h ⊢
  obtain ⟨⟨hr, hc, hg, hrest⟩, hv⟩ := h
  exact ⟨⟨hr, hc, Store.wf_set _ _ _ hg, hrest⟩, hv⟩

theorem Dev.Legal.setCend {i : Nat} {y : CellEnd} (h : s.Legal vt) : (s.setCend i y).Legal vt := by
  rw [Dev.legal_iff] at h ⊢
  obtain ⟨⟨hr, hc, hg, he, hrest⟩, hv⟩ := h
  exact ⟨⟨hr, hc, hg, Store.wf_set _ _ _ he, hrest⟩, hv⟩

theorem Dev.Legal.setRd {n : Nat} {y : RingDie} (h : s.Legal vt) : (s.setRd n y).Legal vt := by
  rcases n with _ | n <;> exact h

/-! ### What lies in no store of the block -/

theorem Dev.Legal.sh {y : Shepherd} (h : s.Legal vt) : Dev.Legal vt { s with sh := y } := h

theorem Dev.Legal.aq {y : AqDie} (h : s.Legal vt) : Dev.Legal vt { s with aq := y } := h

/-- Boot memory with its images as they were. -/
theorem Dev.Legal.nv {y : BootMem} (h : s.Legal vt) (e : y.img = s.nv.img) : Dev.Legal vt { s with nv := y } := by
  rw [Dev.legal_iff] at h ⊢
  obtain ⟨⟨hr, hc, hg, he, hcd, hn⟩, hv⟩ := h
  exact ⟨⟨hr, hc, hg, he, hcd, e ▸ hn⟩, hv⟩

/-- A control die with its data SRAM as it was. -/
theorem CtrlDie.Legal.of_dmem {c' : CtrlDie} (h : c.Legal) (e : c'.dmem = c.dmem) : c'.Legal := by
  rwa [CtrlDie.Legal, e]

/-- Another setting under trial leaves the data SRAM alone. -/
theorem CtrlDie.Legal.tune {o : Option Autotune} (h : c.Legal) : CtrlDie.Legal { c with tune := o } := h

theorem CtrlDie.legal_reset : CtrlDie.reset.Legal := rfl
end

end Sys2Proof.Machine
end

section
/-!
What each operation of the block keeps, in the order of the model's files.
-/
namespace Sys2Proof.Machine
section
variable {vt : Variant} {s : Dev} {c : CtrlDie}

/-! ### Shared operations (`Machine/Ops`) -/

theorem Dev.Legal.modRd {n : Nat} {f : RingDie → RingDie} (h : s.Legal vt) : (s.modRd n f).Legal vt := h.setRd

theorem Dev.Legal.fset {f : Field} {v : Nat} (h : s.Legal vt) : (s.fset f v).Legal vt := h.rset

theorem Dev.Legal.fadd {f : Field} {n : Nat} (h : s.Legal vt) : (s.fadd f n).Legal vt := h.fset

theorem Dev.Legal.finc {f : Field} (h : s.Legal vt) : (s.finc f).Legal vt := h.fadd

theorem Dev.Legal.fwrap {f : Field} (h : s.Legal vt) : (s.fwrap f).Legal vt := h.fset

theorem Dev.Legal.modCell {p : Place} {f : Cell → Cell} (h : s.Legal vt) : (s.modCell p f).Legal vt := h.setCell

theorem Dev.Legal.modRing {r : Nat} {f : Ring → Ring} (h : s.Legal vt) : (s.modRing r f).Legal vt := h.setRing

theorem Dev.Legal.rfset {f : Nat → Nat → Field} {r v : Nat} (h : s.Legal vt) : (s.rfset f r v).Legal vt :=
  .ite h.fset (have h1 := h.fset; .ite h1 h1.fset)

theorem Dev.Legal.free (h : s.Legal vt) : s.free.2.Legal vt := h

theorem Dev.Legal.clk {f : ShClk → ShClk} (h : s.Legal vt) : (s.clk f).Legal vt := h.sh

theorem Dev.Legal.pin {f : ShPin → ShPin} (h : s.Legal vt) : (s.pin f).Legal vt := h.sh

theorem Dev.Legal.md {f : ShMode → ShMode} (h : s.Legal vt) : (s.md f).Legal vt := h.sh

theorem Dev.Legal.flt {f : ShFlt → ShFlt} (h : s.Legal vt) : (s.flt f).Legal vt := h.sh

theorem Dev.Legal.vote {f : ShVote → ShVote} (h : s.Legal vt) : (s.vote f).Legal vt := h.sh

theorem Dev.Legal.tly {f : ShTly → ShTly} (h : s.Legal vt) : (s.tly f).Legal vt := h.sh

theorem Dev.Legal.img {f : ShImg → ShImg} (h : s.Legal vt) : (s.img f).Legal vt := h.sh

theorem Dev.Legal.crk {f : ShCrk → ShCrk} (h : s.Legal vt) : (s.crk f).Legal vt := h.sh

theorem Dev.Legal.ldg {f : ShLdg → ShLdg} (h : s.Legal vt) : (s.ldg f).Legal vt := h.sh

theorem Dev.Legal.safe {f : ShSafe → ShSafe} (h : s.Legal vt) : (s.safe f).Legal vt := h.sh

theorem Dev.Legal.rcd {f : ShRec → ShRec} (h : s.Legal vt) : (s.rcd f).Legal vt := h.sh

theorem Dev.Legal.leg {f : ShLeg → ShLeg} (h : s.Legal vt) : (s.leg f).Legal vt := h.sh

theorem Dev.Legal.tw {f : ShTw → ShTw} (h : s.Legal vt) : (s.tw f).Legal vt := h.sh

theorem Dev.Legal.emit {e : Emission} (h : s.Legal vt) : (s.emit e).Legal vt := h

theorem Dev.Legal.answer {l : List W64} (h : s.Legal vt) : (s.answer l).Legal vt := h

theorem Dev.Legal.msix {v : Nat} (h : s.Legal vt) : (s.msix v).Legal vt := .ite h.fset (.ite h.emit h)

theorem Dev.Legal.irq {v : Nat} (h : s.Legal vt) : (s.irq v).Legal vt := .ite h h.fset.msix

theorem Dev.Legal.fifoIrq {f : Nat} (h : s.Legal vt) : (s.fifoIrq f).Legal vt :=
  have h1 := h.fset
  .ite h1 h1.msix

theorem Dev.Legal.refuseWr {addr : Nat} (h : s.Legal vt) : (s.refuseWr addr).Legal vt := h.finc.fset

theorem Dev.Legal.logWith {cls : Cls} {flags : Nat} {src : Src} {inst code dt : Nat} (h : s.Legal vt) :
    (s.logWith cls flags src inst code dt).Legal vt := by
  unfold Dev.logWith
  extract_lets +onlyGivenNames _ _ _ _ t1 t2 t3
  have h1 : t1.Legal vt := h.flt
  have h2 : t2.Legal vt := .ite h1.finc h1
  have h3 : t3.Legal vt := h2.fset
  split <;> exact h3.irq

theorem Dev.Legal.logEntry {cls : Cls} {flags : Nat} {src : Src} {inst code det : Nat} (h : s.Legal vt) :
    (s.logEntry cls flags src inst code det).Legal vt :=
  h.logWith

theorem Dev.Legal.history {src inst : Nat} (h : s.Legal vt) : (s.history src inst).1.Legal vt := by
  unfold Dev.history
  extract_lets +onlyGivenNames _ _ _ _ _ _ _ _
  exact h.flt

theorem Dev.Legal.event {cls : Cls} {src : Src} {inst code det : Nat} (h : s.Legal vt) :
    (s.event cls src inst code det).1.Legal vt := by
  unfold Dev.event
  split
  · rename_i t1 _ e2
    have h1 : t1.Legal vt := h.history.of_fst e2
    extract_lets +onlyGivenNames t3 t4
    have h2 : t3.Legal vt := h1.logEntry
    have h3 : t4.Legal vt := by
      unfold t4
      split
      · exact h2.finc
      · exact h2.finc
      · exact h2.finc
      · exact h2
    exact .ite h3.finc h3

theorem Dev.Legal.report {cls : Cls} {src : Src} {inst code det : Nat} (h : s.Legal vt) :
    (s.report cls src inst code det).Legal vt :=
  h.event

theorem Dev.Legal.info {src : Src} {inst code det : Nat} (h : s.Legal vt) : (s.info src inst code det).Legal vt :=
  h.logEntry

/-! ### Register reads and plain writes (`Machine/RegAcc`) -/

theorem CtrlDie.Legal.setCore {c' : Nat} {k : Core} (h : c.Legal) : (c.setCore c' k).Legal := h

theorem CtrlDie.Legal.modCore {c' : Nat} {f : Core → Core} (h : c.Legal) : (c.modCore c' f).Legal := h.setCore

theorem CtrlDie.Legal.setTask {t : Nat} {k : Task} (h : c.Legal) : (c.setTask t k).Legal := h

theorem CtrlDie.Legal.modTask {t : Nat} {f : Task → Task} (h : c.Legal) : (c.modTask t f).Legal := h.setTask

theorem CtrlDie.Legal.setMbox {m : Nat} {b : Mbox} (h : c.Legal) : (c.setMbox m b).Legal := h

theorem CtrlDie.Legal.setLock {l : Nat} {b : HwLock} (h : c.Legal) : (c.setLock l b).Legal := h

theorem CtrlDie.Legal.setLe {i : Nat} {v : W32} (h : c.Legal) : (c.setLe i v).Legal := h

theorem Dev.Legal.setStream {i : Nat} {q : Option Stream} (h : s.Legal vt) : (s.setStream i q).Legal vt := h

theorem Dev.Legal.legPop (h : s.Legal vt) : s.legPop.Legal vt := .ite h h.leg

theorem Dev.Legal.stampPop {n i : Nat} (h : s.Legal vt) : (s.stampPop n i).Legal vt := h.modRd

theorem Dev.Legal.readEffect {a : Nat} (h : s.Legal vt) : (s.readEffect a).Legal vt := by
  unfold Dev.readEffect
  refine .ite h ?_
  extract_lets +onlyGivenNames _ _
  refine .ite h.legPop ?_
  refine .ite (h.modCd fun _ h1 => h1.setMbox) ?_
  refine .ite h.stampPop ?_
  split
  · exact .ite h h.rset
  · exact h

theorem Dev.Legal.lineSeen {a : Nat} (h : s.Legal vt) : (s.lineSeen a).Legal vt := by
  unfold Dev.lineSeen
  extract_lets +onlyGivenNames _ _
  split
  · rename_i t1 e2
    have h1 : t1.Legal vt := h.free.of_snd e2
    exact .ite h (.ite (.ite (.ite h1.fadd (.ite h1.fset h.fset)) (.ite h1.fadd h)) (.ite h1.fadd h))

theorem Dev.Legal.readReg {a : Nat} {peek : Bool} (h : s.Legal vt) : (s.readReg a peek).2.Legal vt := by
  unfold Dev.readReg
  split
  · exact h
  · extract_lets +onlyGivenNames t1
    have h1 : t1.Legal vt := h.lineSeen
    exact h1.readEffect

theorem Dev.Legal.plainWrite {a : Nat} {v : W64} (h : s.Legal vt) : (s.plainWrite a v).Legal vt := by
  unfold Dev.plainWrite
  split
  · exact h
  · exact .ite h h.rset

/-! ### Lane states (`Machine/Lane`) -/

theorem Dev.Legal.hurdleStandalone (h : s.Legal vt) : s.hurdleStandalone.Legal vt := .ite h h.pin

theorem Dev.Legal.closeGate {d : Nat} (h : s.Legal vt) : (s.closeGate d).Legal vt := h.fset.vote.hurdleStandalone

theorem Dev.Legal.laneLeave {d st : Nat} (h : s.Legal vt) : (s.laneLeave d st).Legal vt := h.fset.fset.closeGate

theorem Dev.Legal.retireLane {d : Nat} (h : s.Legal vt) : (s.retireLane d).Legal vt := .ite h.laneLeave h

theorem Dev.Legal.planned {d : Nat} (h : s.Legal vt) : (s.planned d).Legal vt := h.laneLeave

theorem Dev.Legal.laneOff {d : Nat} (h : s.Legal vt) : (s.laneOff d).Legal vt := .ite h.laneLeave h

theorem Dev.Legal.offT0 (h : s.Legal vt) : s.offT0.Legal vt := h.forAll fun _ _ h1 => .ite h1 h1.laneOff

/-! ### Scheduler and call windows (`Machine/Sched`) -/

theorem CtrlDie.Legal.breakSeqs {c' line : Nat} (h : c.Legal) : (c.breakSeqs c' line).Legal := by
  unfold CtrlDie.breakSeqs
  refine CtrlDie.Legal.foldl ?_ fun _ _ h1 => ?_
  · exact h
  · refine .ite h1 ?_
    split
    · exact h1
    · split
      · exact h1
      · exact .ite h1.modTask h1

theorem CtrlDie.Legal.poke {c' a n v : Nat} (h : c.Legal) : (c.poke c' a n v).Legal :=
  CtrlDie.Legal.breakSeqs (Mem.wf_writeLE a n v h)

theorem CtrlDie.Legal.pokeWords {c' a : Nat} {l : List W64} (h : c.Legal) : (c.pokeWords c' a l).Legal := by
  induction l generalizing c a with
  | nil => exact h
  | cons v l ih => exact ih h.poke

theorem CtrlDie.Legal.offCore {t : Nat} (h : c.Legal) :
    (c.offCore t).Legal := h.foldl fun _ _ h1 => .ite h1.modCore h1

theorem CtrlDie.Legal.dropWins {t : Nat} (h : c.Legal) : (c.dropWins t).Legal := h.foldl fun _ _ h1 => h1.modCore

theorem CtrlDie.Legal.unqueue {t : Nat} (h : c.Legal) : (c.unqueue t).Legal := h

theorem CtrlDie.Legal.wake {t : Nat} (h : c.Legal) : (c.wake t).Legal := by
  unfold CtrlDie.wake
  split
  · exact h.modTask
  · extract_lets +onlyGivenNames t1
    have h1 : t1.Legal := h.modTask
    exact h1.of_dmem rfl

theorem CtrlDie.Legal.applyPpend {t : Nat} (h : c.Legal) : (c.applyPpend t).Legal := by
  unfold CtrlDie.applyPpend
  extract_lets +onlyGivenNames _
  split
  · exact h
  · exact .ite h (have h1 := h.setTask; .ite h1 h1)

theorem CtrlDie.Legal.release {l : Nat} {broken : Bool} (h : c.Legal) : (c.release l broken).Legal := by
  unfold CtrlDie.release
  extract_lets +onlyGivenNames _ _
  refine .ite h.setLock ?_
  split
  · exact h.setLock
  · exact h.setLock.wake

theorem CtrlDie.Legal.grantVoted {n : Nat} (h : c.Legal) : (c.grantVoted n).Legal := by
  induction n generalizing c with
  | zero => exact h
  | succ n ih =>
    unfold CtrlDie.grantVoted
    split
    · exact h
    · extract_lets _ _ _ _ c'
      have h' : c'.Legal := h.setLock.setTask
      exact ih (.ite h' (h'.of_dmem rfl))

theorem Dev.Legal.freeTask {d t : Nat} (h : s.Legal vt) : (s.freeTask d t).Legal vt :=
  (h.modCd fun _ h1 => h1.offCore.dropWins.unqueue.setTask).modRd.modRd

theorem Dev.Legal.killTask {d t cause : Nat} (h : s.Legal vt) : (s.killTask d t cause).Legal vt :=
  (h.freeTask.modCd fun _ h1 => h1.forAll fun _ _ h2 => h2.release).report

theorem Dev.Legal.spill {d c : Nat} {w : Win} (h : s.Legal vt) : (s.spill d c w).Legal vt :=
  .ite h.killTask (h.modCd fun _ h1 => h1.pokeWords.modCore.modTask)

theorem Dev.Legal.makeRoom {d c t depth : Nat} (h : s.Legal vt) : (s.makeRoom d c t depth).Legal vt := by
  unfold Dev.makeRoom
  split
  · exact h
  · exact h.spill

theorem CtrlDie.Legal.allocWin {c' t depth : Nat} {regs : List W64} (h : c.Legal) :
    (c.allocWin c' t depth regs).Legal :=
  h.modCore

theorem Dev.Legal.fill {d c t depth : Nat} (h : s.Legal vt) : (s.fill d c t depth).Legal vt := by
  unfold Dev.fill
  extract_lets +onlyGivenNames _
  split
  · exact .ite h.killTask (h.modCd fun _ h1 => h1.allocWin.setTask)
  · exact h.killTask

theorem CtrlDie.Legal.setWindow {c' t : Nat} {l : List W64} (h : c.Legal) : (c.setWindow c' t l).Legal :=
  .ite h.modCore h.modCore

theorem CtrlDie.Legal.setReg {c' t : Nat} {r : Reg} {v : W64} (h : c.Legal) : (c.setReg c' t r v).Legal := by
  unfold CtrlDie.setReg
  split
  · exact .ite h h.modCore
  · exact h.setWindow

theorem Dev.Legal.leave {d c t : Nat} {st : TState} (h : s.Legal vt) : (s.leave d c t st).Legal vt :=
  have h1 := h.modCd fun _ h2 => h2.modTask.offCore
  .ite h1.freeTask (h1.modCd fun _ h3 => h3.applyPpend)

theorem Dev.Legal.preempt {d c t : Nat} (h : s.Legal vt) : (s.preempt d c t).Legal vt := by
  unfold Dev.preempt
  extract_lets +onlyGivenNames _
  refine .ite h.killTask ?_
  extract_lets +onlyGivenNames t1
  have h1 : t1.Legal vt := h.modCd fun _ h2 => h2.pokeWords.modTask.offCore
  exact .ite h1.freeTask (h1.modCd fun _ h3 => h3.applyPpend)

theorem CtrlDie.Legal.loadGlobals {c' t : Nat} (h : c.Legal) : (c.loadGlobals c' t).Legal := by
  unfold CtrlDie.loadGlobals
  extract_lets +onlyGivenNames _
  split
  · exact h.modCore.setTask
  · exact h.modCore

theorem Dev.Legal.spillAll {d c t n : Nat} (h : s.Legal vt) : (s.spillAll d c t n).Legal vt := by
  induction n generalizing s with
  | zero => exact h
  | succ n ih =>
    unfold Dev.spillAll
    split
    · exact h
    · exact ih h.spill

theorem Dev.Legal.dispatch {d c t : Nat} (h : s.Legal vt) : (s.dispatch d c t).Legal vt := by
  unfold Dev.dispatch
  extract_lets +onlyGivenNames _ t1
  have h1 : t1.Legal vt := .ite h h.spillAll
  refine .ite h1 ?_
  extract_lets +onlyGivenNames t2 t3 _ t4
  have h2 : t2.Legal vt := by
    unfold t2
    refine Dev.Legal.modCd ?_ fun _ h3 => ?_
    · exact h1
    · extract_lets +onlyGivenNames t5 t6 t7
      have h4 : t5.Legal := h3.modCore
      have h5 : t6.Legal := h4.modTask
      have h6 : t7.Legal := h5.of_dmem rfl
      exact h6.loadGlobals
  have h7 : t3.Legal vt := h2.finc
  have h8 : t4.Legal vt := h7.makeRoom
  extract_lets +onlyGivenNames t8
  have h9 : t8.Legal vt := .ite h7 (.ite (h8.modCd fun _ h10 => h10.allocWin) h8.fill)
  exact .ite h9 (h9.modCd fun _ h11 => (h11.forAll fun _ _ h12 => h12.setReg).modTask)

theorem CtrlDie.Legal.activate {t cycle : Nat} (h : c.Legal) : (c.activate t cycle).Legal := by
  unfold CtrlDie.activate
  extract_lets +onlyGivenNames t1
  have h1 : t1.Legal := h.dropWins.modTask
  exact .ite (h1.of_dmem rfl) (h1.of_dmem rfl)

theorem Dev.Legal.endActivation {d c t : Nat} (h : s.Legal vt) : (s.endActivation d c t).Legal vt :=
  (h.modCd fun _ h1 => h1.dropWins).leave

theorem Dev.Legal.applyService {d svc : Nat} {l : List Byte} (h : s.Legal vt) :
    (s.applyService d svc l).Legal vt := by
  unfold Dev.applyService
  extract_lets +onlyGivenNames _
  split
  · extract_lets +onlyGivenNames t1
    have h1 : t1.Legal vt := h.modCd fun _ h2 => h2.setTask
    exact .ite (h1.modCd fun _ h3 => h3.activate) h1
  · exact .ite (h.modCd fun _ h4 => h4.modTask) h.freeTask
  · exact h.modCd fun _ h5 => h5.activate
  · exact h.modCd fun _ h6 => h6.setMbox
  · exact h.modCd fun _ h7 => h7.setLock

theorem Dev.Legal.applyPend {d : Nat} {done : List (Nat × Nat)} {l : List PendSvc} (h : s.Legal vt) :
    (s.applyPend d done l).Legal vt := by
  induction l generalizing s done with
  | nil => exact h
  | cons p l ih => exact .ite (ih h.finc) (ih h.applyService)

theorem Dev.Legal.phaseEnd {d : Nat} (h : s.Legal vt) : (s.phaseEnd d).Legal vt := by
  unfold Dev.phaseEnd
  refine .ite (Dev.Legal.applyPend ?_) h
  exact h.modCd fun _ hc => hc

theorem Dev.Legal.place {d n : Nat} (h : s.Legal vt) : (s.place d n).Legal vt := by
  induction n generalizing s with
  | zero => exact h
  | succ n ih =>
    unfold Dev.place
    split
    · exact h
    · refine ih (Dev.Legal.dispatch ?_)
      split
      · exact h.preempt
      · exact h

theorem Dev.Legal.resched {d : Nat} (h : s.Legal vt) : (s.resched d).Legal vt :=
  (h.modCd fun _ h1 => h1.grantVoted).phaseEnd.place

theorem Dev.Legal.haltNow {d t : Nat} (h : s.Legal vt) : (s.haltNow d t).Legal vt := by
  unfold Dev.haltNow
  extract_lets _ s1 s2
  have h1 : s1.Legal vt := h.modCd fun _ hc => hc.modTask
  have h2 : s2.Legal vt := .ite h1.leave h1
  refine .ite h2.resched (Dev.Legal.resched (Dev.Legal.info ?_))
  refine h2.modCd fun y hy => CtrlDie.Legal.of_dmem (c := (y.modTask t _).applyPpend t) ?_ rfl
  exact hy.modTask.applyPpend

/-! ### Traps and the run of one instruction (`Machine/Operands`) -/

theorem CtrlDie.Legal.discardSeq {c' t : Nat} {q : Seq} (h : c.Legal) : (c.discardSeq c' t q).Legal :=
  h.modCore.setWindow.modTask

theorem Dev.Legal.takeTrap {d c t cause : Nat} {w2 : W64} (h : s.Legal vt) :
    (s.takeTrap d c t cause w2).Legal vt := by
  unfold Dev.takeTrap
  extract_lets +onlyGivenNames _ t1 _ _ _
  have h1 : t1.Legal vt := by
    unfold t1
    split
    · exact h.modCd fun _ h2 => h2.discardSeq
    · exact h
  exact .ite h1.killTask.resched (.ite (have h3 := h1.modCd (fun _ h4 => h4.modCore.modTask);
    .ite h3 (Dev.Legal.ite h3.haltNow h3).resched) h1.killTask.resched)

theorem Dev.Legal.advance {d t : Nat} (h : s.Legal vt) : (s.advance d t).Legal vt := h.modCd fun _ h1 => h1.modTask

theorem Dev.Legal.jump {d t : Nat} {pc : W64} (h : s.Legal vt) : (s.jump d t pc).Legal vt :=
  h.modCd fun _ h1 => h1.modTask

theorem Dev.Legal.issue {d t : Nat} (h : s.Legal vt) : (s.issue d t).Legal vt := h.modCd fun _ h1 => h1.modTask

theorem Ires.Legal.finish {r : CoreRef} {t : Nat} {y : Ires} (h : y.Legal vt) : (Dev.finish r t y).Legal vt := by
  cases y with
  | done s => exact Dev.Legal.advance h
  | goto s pc => exact Dev.Legal.jump h
  | trap s n w => exact Dev.Legal.takeTrap h
  | hold s => exact h

theorem Dev.Legal.instr {r : CoreRef} {word : Nat} {legal : Bool} {perm : Perm} {body : Nat → Dev → Ires}
    (h : s.Legal vt)
    (hb : ∀ t d, Dev.Legal vt d → (body t d).Legal vt) : (s.instr r word legal perm body).Legal vt := by
  unfold Dev.instr
  split
  · exact h
  · rename_i t _
    exact .ite h.issue.takeTrap (.ite h.issue.takeTrap
      (.ite h.issue.takeTrap (.ite h.issue.takeTrap (hb t _ h.issue).finish)))

theorem Dev.Legal.alu {r : CoreRef} {word : Nat} {legal : Bool} {rd : Reg} {f : (Reg → W64) → W64} (h : s.Legal vt)
    :
    (s.alu r word legal rd f).Legal vt :=
  h.instr fun _ _ h1 => (h1.modCd fun _ h2 => h2.setReg).done

theorem Dev.Legal.eccRead {d a n : Nat} {t : Dev} (h : s.Legal vt) (e : s.eccRead d a n = some t) : t.Legal vt := by
  induction n generalizing s a with
  | zero =>
    cases e
    exact h
  | succ n ih =>
    unfold Dev.eccRead at e
    split at e
    · exact ih h e
    · extract_lets s1 at e
      have h1 : s1.Legal vt := h.modCd fun _ hc => hc
      split at e
      rename_i s2 _ heq
      have h2 : s2.Legal vt := h1.event.of_fst heq
      exact ih (.ite h2.retireLane h2) e
    · cases e

theorem Dev.Legal.eccFail {d a : Nat} (h : s.Legal vt) : (s.eccFail d a).Legal vt := by
  unfold Dev.eccFail
  split
  · rename_i t1 _ e2
    have h1 : t1.Legal vt := h.event.of_fst e2
    exact .ite h1.retireLane h1

theorem CtrlDie.Legal.pokeBytes {c' a : Nat} {l : List Byte} (h : c.Legal) : (c.pokeBytes c' a l).Legal := by
  induction l generalizing c a with
  | nil => exact h
  | cons v l ih => exact ih h.poke

/-! ### Debug halts (`Machine/Debug`) -/

theorem Dev.Legal.haltRetire {d : Nat} {t : Dev} (h : s.Legal vt) (e : s.haltRetire d = some t) : t.Legal vt := by
  unfold Dev.haltRetire at e
  split at e
  · split at e
    · cases e
    · cases e
      exact h.planned
  · cases e
    exact h

theorem Dev.Legal.haltCore {d c : Nat} (h : s.Legal vt) : (s.haltCore d c).Legal vt := by
  unfold Dev.haltCore
  extract_lets +onlyGivenNames t1
  have h1 : t1.Legal vt := by
    unfold t1
    refine Dev.Legal.modCd ?_ fun _ h2 => ?_
    · exact h
    · extract_lets +onlyGivenNames t2
      have h3 : t2.Legal := by
        unfold t2
        split
        · exact h2
        · split
          · exact h2.discardSeq
          · exact h2
      exact h3.modCore
  exact h1.info

theorem Dev.Legal.haltTask {d t : Nat} (h : s.Legal vt) : (s.haltTask d t).Legal vt := by
  unfold Dev.haltTask
  extract_lets +onlyGivenNames _
  split
  · exact h.haltNow
  · exact .ite (h.modCd fun _ h1 => h1.modTask) h.haltNow
  · exact h.haltNow
  · exact h.haltNow
  · exact h.haltNow
  · exact h.haltNow
  · exact h.haltNow
  · exact h

theorem Dev.Legal.resumeCore {d c : Nat} (h : s.Legal vt) : (s.resumeCore d c).Legal vt :=
  (h.modCd fun _ h1 => h1.modCore).resched

theorem Dev.Legal.resumeTask {d t : Nat} (h : s.Legal vt) : (s.resumeTask d t).Legal vt := by
  unfold Dev.resumeTask
  extract_lets +onlyGivenNames _
  refine .ite h ?_
  refine Dev.Legal.resched ?_
  refine Dev.Legal.modCd ?_ fun _ h1 => ?_
  · exact h
  · split
    · extract_lets +onlyGivenNames t1
      have h2 : t1.Legal := h1.modTask
      exact .ite (h2.of_dmem rfl) (h2.of_dmem rfl)
    · extract_lets +onlyGivenNames t2
      have h3 : t2.Legal := h1.modTask
      exact .ite (h3.of_dmem rfl) (h3.of_dmem rfl)
    · exact h1.modTask

theorem Dev.Legal.debugHalt {d : Nat} {o : DbgObj} (h : s.Legal vt) : (s.debugHalt d o).Legal vt := by
  unfold Dev.debugHalt
  split
  · split
    · exact h.refuseWr
    · rename_i t1 e2
      have h1 : t1.Legal vt := h.haltRetire e2
      exact h1.haltCore
  · refine .ite ?_ h.haltTask
    split
    · exact h.refuseWr
    · rename_i t3 e4
      have h2 : t3.Legal vt := h.haltRetire e4
      exact h2.haltTask

theorem Dev.Legal.debugResume {d : Nat} {o : DbgObj} (h : s.Legal vt) : (s.debugResume d o).Legal vt := by
  unfold Dev.debugResume
  split
  · exact h.resumeCore
  · exact h.resumeTask

theorem Dev.Legal.debugDo {d : Nat} {o : DbgObj} {halt resume : Bool} (h : s.Legal vt) :
    (s.debugDo d o halt resume).Legal vt :=
  .ite h.finc (have h1 := Dev.Legal.ite h.debugHalt h; .ite h1.debugResume h1)

theorem Dev.Legal.schDbgWrite {d : Nat} {v : W64} (h : s.Legal vt) : (s.schDbgWrite d v).Legal vt := h.debugDo

theorem Dev.Legal.resumeAll {d : Nat} (h : s.Legal vt) : (s.resumeAll d).Legal vt :=
  (h.forAll fun _ _ h1 => h1.resumeCore).forAll fun _ _ h2 => h2.resumeTask

theorem Dev.Legal.debugClose (h : s.Legal vt) :
    s.debugClose.Legal vt := h.fset.rset.forAll fun _ _ h1 => h1.resumeAll

theorem Dev.Legal.dbgWrite {d : Nat} {v : W64} (h : s.Legal vt) : (s.dbgWrite d v).Legal vt := by
  unfold Dev.dbgWrite
  extract_lets +onlyGivenNames _ _ _
  refine .ite h.finc ?_
  refine .ite (.ite h.finc (h.modCd fun _ h1 => h1.poke)) ?_
  split
  · exact h.modCd fun _ h2 => .ite h2 h2.modCore
  · exact .ite h.finc (h.modCd fun _ h3 => h3.setReg)

theorem Dev.Legal.openReq (h : s.Legal vt) : s.openReq.Legal vt := .ite h.fset.info h.refuseWr

theorem Dev.Legal.debugCoresWrite {v : W64} (h : s.Legal vt) : (s.debugCoresWrite v).Legal vt := .ite h.rset h.finc

/-! ### Loop engine (`Machine/LoopEngine`) -/

theorem CtrlDie.Legal.setLeI {i : Nat} {v : Int} (h : c.Legal) : (c.setLeI i v).Legal := h.setLe

theorem CtrlDie.Legal.setLeBits {i lo w v : Nat} (h : c.Legal) : (c.setLeBits i lo w v).Legal := h.setLe

theorem CtrlDie.Legal.setStat {s i : Nat} {b : Bool} (h : c.Legal) : (c.setStat s i b).Legal := h.setLeBits

theorem CtrlDie.Legal.setPctl {p lo w v : Nat} (h : c.Legal) : (c.setPctl p lo w v).Legal := h.setLeBits

theorem CtrlDie.Legal.leWrite {i : Nat} {v : W32} (h : c.Legal) : (c.leWrite i v).Legal := h.setLe

theorem Dev.Legal.leFetch {d i : Nat} (h : s.Legal vt) : (s.leFetch d i).Legal vt := h.setCd h.cd.setLe.setLe

theorem Dev.Legal.followErr {d i : Nat} {e : Int} (h : s.Legal vt) : (s.followErr d i e).Legal vt := by
  unfold Dev.followErr
  extract_lets +onlyGivenNames _
  refine .ite h ?_
  extract_lets _ _ _ _ s1 react _ s2 s3
  have h1 : s1.Legal vt := h.modCd fun _ hc => hc.setLeBits
  have h2 : s2.Legal vt := h1.modCd fun _ hc => hc.setStat
  have h3 : s3.Legal vt := by
    unfold s3
    clear_value react
    split
    · exact .ite (h2.modCd fun _ hc => hc.setPctl) h2
    · exact .ite (h2.modCd fun _ hc => hc.setPctl) h2
    · exact h2.fset
    · exact h2
  exact .ite h3.report h1

theorem CtrlDie.Legal.settleSlot {i : Nat} {u : Int} {win lost : Bool} (h : c.Legal) :
    (c.settleSlot i u win lost).Legal :=
  (h.forAll fun _ _ h1 => h1.setLeI).setStat.setStat.setStat.setStat.setStat

theorem Dev.Legal.resolve {d g : Nat} {mem : List Nat} (h : s.Legal vt) : (s.resolve d g mem).Legal vt := by
  unfold Dev.resolve
  split
  · exact h
  · exact (h.modCd fun _ h1 => h1.forAll fun _ _ h2 => h2.settleSlot).fset.fset.fset

theorem CtrlDie.Legal.tuneEnd {a : Autotune} (h : c.Legal) : (c.tuneEnd a).Legal := h.setLeI.setStat.tune

theorem Dev.Legal.tuneAbort {d why : Nat} (h : s.Legal vt) : (s.tuneAbort d why).Legal vt := by
  unfold Dev.tuneAbort
  split
  · exact h
  · exact (h.modCd fun _ h1 => h1.tuneEnd).fset.fset

theorem Dev.Legal.tuneDone {d : Nat} {a : Autotune} {ps : List (Nat × Int)} (h : s.Legal vt) :
    (s.tuneDone d a ps).Legal vt :=
  (h.modCd fun _ h1 => h1.tuneEnd).fset.fset.fset.fset.fset.fset.fset.fset.fset

theorem Dev.Legal.tuneEval {d : Nat} {a : Autotune} {e : Int} (h : s.Legal vt) : (s.tuneEval d a e).Legal vt :=
  .ite h.tuneAbort (have h1 := h.modCd (fun _ h2 => h2.setLeI); .ite h1.tuneDone (h1.modCd fun _ h3 => h3))

theorem Dev.Legal.tuneStart {d : Nat} (h : s.Legal vt) : (s.tuneStart d).Legal vt := by
  unfold Dev.tuneStart
  extract_lets _ i _ _ _ _ s1
  split
  · split
    · exact h
    · exact h.fset.fset
  · have h1 : s1.Legal vt := by
      unfold s1
      split
      · exact h.modCd fun _ hc => hc.tuneEnd
      · exact h
    exact Dev.Legal.fset (Dev.Legal.fset (h1.modCd fun _ hc => hc.setStat.tune))

theorem Dev.Legal.evalSlot {d : Nat} {slots : List Nat} {i : Nat} (h : s.Legal vt) :
    (s.evalSlot d slots i).Legal vt := by
  unfold Dev.evalSlot
  extract_lets +onlyGivenNames t1 _ _ _
  have h1 : t1.Legal := h.cd
  refine .ite (h.modCd fun _ h2 => h2.setStat).finc ?_
  extract_lets +onlyGivenNames t2 t3 _
  have h3 : t2.Legal vt := (h.modCd fun _ h4 => h4.setStat).leFetch
  have h5 : t3.Legal := h3.cd
  split
  · exact h3.tuneEval.followErr
  · extract_lets +onlyGivenNames _ _ t4 t5
    have h6 : t4.Legal vt := h3.modCd fun _ h7 => h7.setLeI
    have h8 : t5.Legal vt := h6.followErr
    exact .ite (h8.modCd fun _ h9 => h9.settleSlot) (.ite h8.resolve h8)

theorem Dev.Legal.kick {d p : Nat} (h : s.Legal vt) : (s.kick d p).Legal vt :=
  (h.forAll fun _ _ h1 => .ite h1.fset h1).forAll fun _ _ h2 => h2.evalSlot

theorem CtrlDie.Legal.setGw {p w : Nat} {v : Int} (h : c.Legal) : (c.setGw p w v).Legal := h.setLeI

theorem CtrlDie.Legal.genPut {p : Nat} {pos vel acc : Int} {arr : Bool} (h : c.Legal) :
    (c.genPut p pos vel acc arr).Legal :=
  h.setGw.setGw.setGw.setPctl

theorem CtrlDie.Legal.softStep {p : Nat} (h : c.Legal) : (c.softStep p).Legal := .ite h.genPut h.genPut

theorem CtrlDie.Legal.sStep {p : Nat} {t : Int} {stop : Bool} (h : c.Legal) : (c.sStep p t stop).Legal :=
  .ite h.genPut (.ite h.genPut h.genPut)

theorem CtrlDie.Legal.genStep {p : Nat} (h : c.Legal) : (c.genStep p).Legal :=
  .ite h.setGw.setGw.setPctl (.ite h.setLe.setPctl.setGw.setGw.softStep.setPctl
    (.ite h.softStep.setPctl (.ite h.sStep.setPctl
    (.ite h.sStep.setPctl (.ite h.sStep.setPctl
    (.ite h.sStep (.ite h.sStep (.ite h.sStep h.setGw.setGw.setPctl))))))))

theorem CtrlDie.Legal.genSteps (h : c.Legal) : c.genSteps.Legal := h.forAll fun _ _ h1 => .ite h1.genStep h1

theorem CtrlDie.Legal.genInv (h : c.Legal) : c.genInv.Legal := h.forAll fun _ _ h1 => .ite h1.setPctl h1

theorem CtrlDie.Legal.loadBlock {b : Blk} (h : c.Legal) : (c.loadBlock b).Legal :=
  .ite (h.setLe.setLe.setLe.forAll fun _ _ h1 => h1.setLe)
    (.ite (h.forAll fun _ _ h2 => h2.setLe.setLe.setLe.setLe) h)

theorem Dev.Legal.leParamGo {v : W64} (h : s.Legal vt) : (s.leParamGo v).Legal vt :=
  have h1 := h.plainWrite
  .ite h1 (.ite h1.refuseWr (.ite h1.fset.refuseWr
    (h1.fset.fset.forAll fun _ _ h2 => .ite (h2.modCd fun _ h3 => h3) h2)))

theorem CtrlDie.Legal.leApply {v : W64} (h : c.Legal) : (c.leApply v).Legal := .ite (.ite h.leWrite h) h.leWrite

theorem Dev.Legal.leDeliver {d k : Nat} (h : s.Legal vt) : (s.leDeliver d k).Legal vt := by
  unfold Dev.leDeliver
  extract_lets +onlyGivenNames t1
  have h1 : t1.Legal vt := by
    unfold t1
    split
    · exact .ite (h.modCd fun _ h2 => h2.leApply) h
    · exact h
  split
  · refine Dev.Legal.forAll ?_ fun _ _ h3 => .ite h3.tuneStart h3.tuneAbort
    exact h1.modCd fun _ h4 => h4

theorem Dev.Legal.tuneSend {start : Bool} (h : s.Legal vt) : (s.tuneSend start).Legal vt :=
  h.forAll fun _ _ h1 => .ite (h1.modCd fun _ h2 => h2) h1

/-! ### Loads and stores (`Machine/LoadStore`) -/

theorem Dev.Legal.partitionWrite {d p : Nat} {v : W64} (h : s.Legal vt) : (s.partitionWrite d p v).Legal vt :=
  .ite h (.ite h.finc h.plainWrite.resched)

theorem Dev.Legal.dieStore {d part o : Nat} {v : W64} (h : s.Legal vt) : (s.dieStore d part o v).Legal vt :=
  .ite (h.modCd fun _ h1 => h1.leWrite) (.ite (.ite h.plainWrite h)
    (.ite (.ite h.partitionWrite h) (.ite h.schDbgWrite (.ite h.dbgWrite h.plainWrite))))

theorem Dev.Legal.dieLoad {d o : Nat} (h : s.Legal vt) : (s.dieLoad d o).2.Legal vt := by
  unfold Dev.dieLoad
  split
  · exact h
  · split
    · exact h
    · exact h.readReg

theorem Dev.Legal.load {d c t : Nat} {rd : Reg} {a : W64} {n : Nat} {signed : Bool} (h : s.Legal vt) :
    (s.load d c t rd a n signed).Legal vt := by
  unfold Dev.load
  split
  · exact h.trap
  · split
    · split
      · exact h.eccFail.trap
      · rename_i t1 e2
        have h1 : t1.Legal vt := h.eccRead e2
        exact (h1.modCd fun _ h2 => h2.modTask.setReg).done
    · split
      · rename_i t3 e4
        have h3 : t3.Legal vt := h.dieLoad.of_snd e4
        exact (h3.modCd fun _ h4 => h4.setReg).done

theorem Dev.Legal.store {d c t : Nat} {a : W64} {n : Nat} {v : W64} (h : s.Legal vt) :
    (s.store d c t a n v).Legal vt := by
  unfold Dev.store
  split
  · exact h.trap
  · extract_lets +onlyGivenNames _
    refine .ite ?_ h.advance.dieStore.hold
    split
    · exact (h.modCd fun _ h1 => h1.setTask).done
    · exact .ite h.hold (h.modCd fun _ h2 => h2.poke).done

theorem Dev.Legal.loadI {r : CoreRef} {op : Nat} {rd ra : Reg} {imm : W16} {n : Nat} {signed : Bool}
    (h : s.Legal vt) :
    (s.loadI r op rd ra imm n signed).Legal vt :=
  h.instr fun _ _ h1 => h1.load

theorem Dev.Legal.storeI {r : CoreRef} {op : Nat} {rd ra : Reg} {imm : W16} {n : Nat} (h : s.Legal vt) :
    (s.storeI r op rd ra imm n).Legal vt :=
  h.instr fun _ _ h1 => h1.store

/-! ### Calls, returns, sequences and TIME (`Machine/Control`) -/

theorem Dev.Legal.branch {r : CoreRef} {op : Nat} {ra rb : Reg} {off : W16} {cond : W64 → W64 → Bool}
    (h : s.Legal vt) :
    (s.branch r op ra rb off cond).Legal vt :=
  h.instr fun _ _ h1 => .ite h1.goto h1.done

theorem Dev.Legal.doCall {d c t : Nat} {dest : W64} (h : s.Legal vt) : (s.doCall d c t dest).Legal vt :=
  .ite h.trap (.ite h.hold (have h1 := h.makeRoom;
    .ite h1.resched.hold (h1.modCd fun _ h2 => h2.allocWin.setTask).goto))

theorem Dev.Legal.needWindow {d c t : Nat} (h : s.Legal vt) : (s.needWindow d c t).Legal vt :=
  .ite h (have h1 := h.makeRoom; .ite h1 h1.fill)

theorem Dev.Legal.doRet {d c t word : Nat} (h : s.Legal vt) : (s.doRet d c t word).Legal vt :=
  .ite (.ite h.killTask.resched.hold (.ite h.hold (h.modCd fun _ h1 => h1.setTask).needWindow.resched.hold))
    (.ite h.trap (h.modCd fun _ h2 => h2.modCore.setTask).needWindow.hold)

theorem Dev.Legal.doLockseq {d c t : Nat} (h : s.Legal vt) : (s.doLockseq d c t).Legal vt :=
  .ite (h.modCd fun _ h1 => h1.setTask).hold (h.modCd fun _ h2 => h2.setTask).done

theorem CtrlDie.Legal.commitSeq {c' : Nat} {q : Seq} (h : c.Legal) : (c.commitSeq c' q).Legal :=
  (h.forAll fun _ _ h1 => h1.poke)

theorem Dev.Legal.doEndseq {d c t : Nat} (h : s.Legal vt) : (s.doEndseq d c t).Legal vt := by
  unfold Dev.doEndseq
  extract_lets +onlyGivenNames _
  split
  · exact h.trap
  · exact .ite (have h1 := h.modCd (fun _ h2 => h2.discardSeq.modTask); (Dev.Legal.ite h1.haltNow h1).resched.hold)
      (.ite h.hold (have h3 := h.modCd (fun _ h4 => h4.commitSeq.modTask);
      (Dev.Legal.ite h3.haltNow h3).resched.hold))

theorem Dev.Legal.timeValue {k : Nat} {y : Task} (h : s.Legal vt) : (s.timeValue k y).2.Legal vt := by
  unfold Dev.timeValue
  split
  · exact h
  · exact h
  · exact h
  · split
    · exact h
    · exact h.free

/-! ### Select unit (`Machine/Select`) -/

theorem Dev.Legal.theSet {d cycle : Nat} (h : s.Legal vt) : (s.theSet d cycle).2.Legal vt := by
  unfold Dev.theSet
  split
  · exact h
  · split
    · rename_i t1 e2
      have h1 : t1.Legal vt := h.free.of_snd e2
      exact h1

theorem CtrlDie.Legal.setStage {r : Nat} {p : Payload} (h : c.Legal) : (c.setStage r p).Legal := h

theorem CtrlDie.Legal.setSel {f : Nat} {y : FoldSel} (h : c.Legal) : (c.setSel f y).Legal := h

theorem CtrlDie.Legal.stageFold {e : TallySet} {f : Nat} {sel : Sel} {parts : List Part} (h : c.Legal) :
    (c.stageFold e f sel parts).Legal :=
  (((h.forAll fun _ _ h1 => h1.setStage).forAll fun _ _ h2 => h2.setStage).forAll fun _ _ h3 => h3.setStage).setSel

theorem Dev.Legal.selCount {d f : Nat} {x' : Sel} (h : s.Legal vt) : (s.selCount d f x').Legal vt :=
  have h1 := Dev.Legal.ite h.finc h
  have h2 := Dev.Legal.ite h1.finc h1
  have h3 := (Dev.Legal.ite h2.finc h2).fset
  .ite h3.fset.report h3

theorem CtrlDie.Legal.setImage {i : Image} (h : c.Legal) : (c.setImage i).Legal := h

theorem Dev.Legal.doSel {d c t f src dst : Nat} (h : s.Legal vt) : (s.doSel d c t f src dst).Legal vt := by
  unfold Dev.doSel
  split
  · rename_i t1 e2
    have h1 : t1.Legal vt := h.theSet.of_snd e2
    extract_lets +onlyGivenNames _ _ _ _ _ _ t3 t4
    have h2 : t3.Legal vt := h1.modCd fun _ h3 => h3.pokeBytes.setSel
    have h4 : t4.Legal vt := .ite h2 (h2.modCd fun _ h5 => h5.stageFold)
    exact .ite h4.selCount h4.fset

/-! ### Host FIFOs (`Machine/HubOps`) -/

theorem Dev.Legal.fifoCheck {f : Nat} (h : s.Legal vt) : (s.fifoCheck f).Legal vt := .ite h.modRd.fadd.finc.report h

theorem Dev.Legal.fifoShow {f v : Nat} (h : s.Legal vt) : (s.fifoShow f v).Legal vt :=
  have h1 := h.modRd
  .ite h1.fifoIrq h1

theorem Dev.Legal.fifoFinish {f : Nat} (h : s.Legal vt) : (s.fifoFinish f).Legal vt := .ite h.fifoShow h

theorem Dev.Legal.fifoCut {f n : Nat} (h : s.Legal vt) : (s.fifoCut f n).2.Legal vt := by
  unfold Dev.fifoCut
  extract_lets +onlyGivenNames _
  split
  · exact h
  · split
    · rename_i t1 e2
      have h1 : t1.Legal vt := h.free.of_snd e2
      extract_lets +onlyGivenNames _
      exact h1

theorem Dev.Legal.fifoPush {n f : Nat} {bytes : List Byte} (h : s.Legal vt) : (s.fifoPush n f bytes).Legal vt := by
  unfold Dev.fifoPush
  extract_lets +onlyGivenNames _ _
  refine .ite (.ite h h.finc) ?_
  extract_lets +onlyGivenNames t1 _
  have h1 : t1.Legal vt := (Dev.Legal.ite h h.finc).fifoCheck.fifoFinish
  refine .ite h1.finc ?_
  split
  · rename_i t2 e3
    have h2 : t2.Legal vt := h1.fifoCut.of_snd e3
    exact h2.modRd.fifoShow

theorem Dev.Legal.streamPacket {n f src : Nat} {e : BitVec 128} (h : s.Legal vt) :
    (s.streamPacket n f src e).Legal vt :=
  h.fifoPush

theorem Dev.Legal.entryIn {n idx src : Nat} {e : BitVec 128} (h : s.Legal vt) :
    (s.entryIn n idx src e).Legal vt := by
  unfold Dev.entryIn
  split
  · exact h.streamPacket
  · exact h

theorem Dev.Legal.entriesIn {n id : Nat} {l : List Nat} (h : s.Legal vt) : (s.entriesIn n id l).Legal vt :=
  h.foldl fun _ _ h1 => .ite h1 h1.entryIn

theorem Dev.Legal.recLearn {t : W32} {src : Nat} (h : s.Legal vt) : (s.recLearn t src).Legal vt := by
  unfold Dev.recLearn
  refine .ite h.fset.rcd.irq ?_
  refine .ite ?_ (.ite h.finc h)
  split
  · exact .ite h.rcd h
  · exact h.finc

theorem Cell.powered_count (c : Cell) (n : Nat) : (c.count n).powered = c.powered := rfl

theorem Cell.powered_formTally (c : Cell) : c.formTally.powered = c.powered := by
  unfold Cell.formTally
  split <;> rfl

theorem Cell.elapse_of_off {c : Cell} (n : Nat) (h : c.powered = false) : c.elapse n = c := by simp [Cell.elapse, h]

theorem Cell.powered_elapse (c : Cell) (n : Nat) : (c.elapse n).powered = c.powered := by
  unfold Cell.elapse
  split
  · dsimp only
    split
    · rw [Cell.powered_formTally, Cell.powered_count]
    · rfl
  · rfl

/-- A cell that is not as an untouched one does not come to be so as time passes: an untouched cell has no power. -/
theorem Cell.elapse_ne_dflt {c : Cell} {p : Place} (n : Nat) (h : c ≠ Cell.dflt p) : c.elapse n ≠ Cell.dflt p := by
  intro e
  have off : c.powered = false := by rw [← Cell.powered_elapse c n, e]; rfl
  exact h (Cell.elapse_of_off n off ▸ e)

/-- Values replaced one by one, none by what its key reads as unlisted, keep the canonical form. -/
theorem Store.wfFrom_map {α : Type} [DecidableEq α] {dflt : Nat → α} {f : α → α}
    (hf : ∀ k a, a ≠ dflt k → f a ≠ dflt k)
    {m : Store α} {lo : Nat} (w : Store.wfFrom dflt lo m = true) :
    Store.wfFrom dflt lo (m.map fun e => (e.1, f e.2)) = true := by
  induction m generalizing lo with
  | nil => rfl
  | cons e m ih =>
    simp only [Store.wfFrom, List.map_cons, Bool.and_eq_true, decide_eq_true_eq] at w ⊢
    exact ⟨⟨w.1.1, hf _ _ w.1.2⟩, ih w.2⟩

theorem Dev.Legal.elapseCells {n : Nat} (h : s.Legal vt) :
    Dev.Legal vt { s with cells := s.cells.map fun e => (e.1, e.2.elapse n) } := by
  rw [Dev.legal_iff] at h ⊢
  obtain ⟨⟨hr, hc, hrest⟩, hv⟩ := h
  exact ⟨⟨hr, Store.wfFrom_map (fun _ _ => Cell.elapse_ne_dflt n) hc, hrest⟩, hv⟩

/-! ### Measurement front ends (`Machine/FrontEnd`) -/

theorem Dev.Legal.elapse {n : Nat} (h : s.Legal vt) : (s.elapse n).Legal vt := by
  unfold Dev.elapse
  extract_lets _ _ s1 s2 s3 _ s4
  have h1 : s1.Legal vt := .ite h.clk h
  have h2 : s2.Legal vt := .ite h1.modRd h1
  have h3 : s3.Legal vt := .ite h2.modRd h2
  have h4 : s4.Legal vt := .ite h3.aq h3
  exact h4.elapseCells

theorem Dev.Legal.cellCome {p : Place} {t : Nat} (h : s.Legal vt) : (s.cellCome p t).Legal vt := h.elapse

theorem Dev.Legal.modAq {f : AqDie → AqDie} (h : s.Legal vt) : (s.modAq f).Legal vt := h.aq

theorem Dev.Legal.aqFlag {c bit : Nat} {b : Bool} (h : s.Legal vt) : (s.aqFlag c bit b).Legal vt :=
  have h1 := h.fset
  .ite h1.report h1

theorem Dev.Legal.aqEntry {c : Nat} {e : Option (BitVec 128)} (h : s.Legal vt) : (s.aqEntry c e).Legal vt := by
  unfold Dev.aqEntry
  split
  · exact h.entryIn
  · exact h

theorem Dev.Legal.aqTriggers {c time : Nat} (h : s.Legal vt) : (s.aqTriggers c time).Legal vt :=
  h.foldl fun _ _ h1 => .ite (have h2 := h1.modAq;
    .ite (have h3 := h2.modAq; have h4 := Dev.Legal.ite h3.modAq h3; .ite h4.recLearn h4) h2) h1

theorem Dev.Legal.aqMeasure {c : Nat} {x' : Adc} (h : s.Legal vt) : (s.aqMeasure c x').Legal vt := by
  unfold Dev.aqMeasure
  extract_lets +onlyGivenNames _
  split
  · extract_lets +onlyGivenNames t1 _ t2 t3 t4 _ t5
    have h1 : t1.Legal vt := h.modAq
    have h2 : t2.Legal vt := h1.rset
    have h3 : t3.Legal vt := by
      unfold t3
      split
      · exact h2.aqFlag
      · exact h2
    have h4 : t4.Legal vt := .ite h3.modAq h3
    have h5 : t5.Legal vt := h4.modAq
    exact h5.aqEntry.aqTriggers

theorem Dev.Legal.aqDiagResult {c : Nat} {r : Diag} (h : s.Legal vt) : (s.aqDiagResult c r).Legal vt := by
  unfold Dev.aqDiagResult
  split
  · exact h
  · exact h.aqFlag
  · exact h.fset.aqFlag

theorem Dev.Legal.aqBackground {v j : Nat} {x' : Adc} (h : s.Legal vt) : (s.aqBackground v j x').Legal vt := by
  unfold Dev.aqBackground
  extract_lets +onlyGivenNames _ t1 _
  have h1 : t1.Legal vt := by
    unfold t1
    split
    · split
      · exact h.modAq.aqDiagResult
      · exact h
    · exact h
  split
  · split
    · extract_lets +onlyGivenNames t2
      have h2 : t2.Legal vt := h1.modAq
      exact .ite h2.fset h2.fset
  · split
    · refine .ite ?_ h1
      split
      · exact h1.modAq.aqDiagResult
    · exact h1

theorem Dev.Legal.aqT0 {k : Nat} (h : s.Legal vt) : (s.aqT0 k).Legal vt := by
  unfold Dev.aqT0
  refine .ite h ?_
  extract_lets +onlyGivenNames _ t1 t2
  have h1 : t1.Legal vt := h.modAq
  have h2 : t2.Legal vt := by
    unfold t2
    refine Dev.Legal.foldl ?_ fun _ _ h3 => ?_
    · exact h1
    · split
      · extract_lets +onlyGivenNames t3
        have h4 : t3.Legal vt := h3.modAq
        exact .ite h4.fset.fset h4
  refine Dev.Legal.foldl ?_ fun _ _ h5 => ?_
  · exact h2
  · split
    · exact h5.modAq
    · exact h5

theorem Dev.Legal.aqSuspendInput {c : Nat} (h : s.Legal vt) : (s.aqSuspendInput c).Legal vt := h.fset.modAq

theorem Dev.Legal.aqSuspend (h : s.Legal vt) : s.aqSuspend.Legal vt :=
  h.foldl fun _ _ h1 => h1.foldl fun _ _ h2 => .ite h2.aqSuspendInput h2

theorem Dev.Legal.aqChannelWrite {c : Nat} {v : W64} (h : s.Legal vt) : (s.aqChannelWrite c v).Legal vt :=
  .ite h (.ite h.finc h.rset)

theorem Dev.Legal.aqSetCfgd (h : s.Legal vt) : s.aqSetCfgd.Legal vt := .ite h (have h1 := h.fset; .ite h1 h1.fset)

theorem Dev.Legal.aqFilterMs {td : W16} (h : s.Legal vt) : (s.aqFilterMs td).Legal vt := by
  unfold Dev.aqFilterMs
  extract_lets +onlyGivenNames t1
  have h1 : t1.Legal vt := h.modAq
  refine Dev.Legal.foldl ?_ fun _ _ h2 => ?_
  · exact h1
  · refine .ite ?_ h2.modAq
    split
    · exact h2.modAq.fset.aqEntry

theorem Dev.Legal.cellCfgd {p : Place} {cfgd fb : Bool} (h : s.Legal vt) :
    (s.cellCfgd p cfgd fb).Legal vt := h.modCell

/-! ### Ring blocks at a cell (`Machine/CellLink`) -/

theorem Dev.Legal.cellSeen {p : Place} {a : Nat} (h : s.Legal vt) : (s.cellSeen p a).Legal vt := by
  unfold Dev.cellSeen
  split
  · rename_i t1 e2
    have h1 : t1.Legal vt := h.free.of_snd e2
    exact .ite h1.modCell (.ite h1.modCell (.ite h1.modCell h))

theorem Dev.Legal.cellAccess {p : Place} {a : Nat} {w ring : Bool} {v : W32} (h : s.Legal vt) :
    (s.cellAccess p a w ring v).1.Legal vt := by
  unfold Dev.cellAccess
  split
  · rename_i t e
    have seen : (if !w then (0, s.cellSeen p a) else if a = SRB_PROT_CLR then s.free else (0, s)).2.Legal vt := by
      split
      · exact h.cellSeen
      · split
        · exact h.free
        · exact h
    exact (seen.of_snd e).modCell

theorem Dev.Legal.txnIn {p : Place} {x' : CPort} {pl : Payload} (h : s.Legal vt) : (s.txnIn p x' pl).Legal vt := by
  unfold Dev.txnIn
  extract_lets +onlyGivenNames _ _ _
  split
  · split
    · exact h.modCell
    · exact h
  · refine .ite ?_ h
    extract_lets +onlyGivenNames _
    split
    · rename_i t1 _ _ e2
      have h1 : t1.Legal vt := h.cellAccess.of_fst e2
      exact h1.modCell

theorem Dev.Legal.cellQuery {p : Place} {x' : CPort} {pl : Payload} {h' : Rx} (h : s.Legal vt) :
    (s.cellQuery p x' pl h').Legal vt :=
  .ite h (have h1 := h.modCell; .ite h1.emit (Dev.Legal.ite h1 h1.modCell.report).modCell.emit)

/-! ### Timetable of the rings (`Machine/RingMath`) -/

theorem Dev.Legal.twinShow (h : s.Legal vt) : s.twinShow.Legal vt := .ite h h.fset.fset

theorem Dev.Legal.setMins {m : Mins} (h : s.Legal vt) : (s.setMins m).Legal vt :=
  h.fset.fset.fset.fset.fset.fset.twinShow

theorem Dev.Legal.showPath {r : Nat} (h : s.Legal vt) : (s.showPath r).Legal vt := by
  unfold Dev.showPath
  split
  · exact h.rfset.rfset.rfset.rfset

theorem Dev.Legal.setLine {q : Sender} {l : Option Line} (h : s.Legal vt) : (s.setLine q l).Legal vt := by
  unfold Dev.setLine
  split
  · exact h.modRd
  · exact h.modCell

theorem Dev.Legal.newLine {q : Sender} (h : s.Legal vt) : (s.newLine q).2.Legal vt := by
  unfold Dev.newLine
  split
  · rename_i t1 e2
    have h1 : t1.Legal vt := h.free.of_snd e2
    extract_lets +onlyGivenNames _
    exact h1.setLine

theorem Dev.Legal.openLine {q : Sender} (h : s.Legal vt) : (s.openLine q).2.Legal vt := by
  unfold Dev.openLine
  split
  · exact h
  · exact h.newLine

theorem Dev.Legal.placeBlock {q : Sender} {ty : BitVec 4} {t : Int} (h : s.Legal vt) :
    (s.placeBlock q ty t).2.Legal vt := by
  unfold Dev.placeBlock
  split
  · rename_i t1 e2
    have h1 : t1.Legal vt := h.openLine.of_snd e2
    extract_lets +onlyGivenNames _
    split
    · exact h1.setLine
    · extract_lets +onlyGivenNames _ _
      split
      · exact h1.setLine
      · split
        · extract_lets +onlyGivenNames _
          exact h1.setLine
        · exact h1.setLine

theorem Dev.Legal.sendFrom {q : Sender} {ty : BitVec 4} {t : Int} {pl : Int → Payload} (h : s.Legal vt) :
    (s.sendFrom q ty t pl).Legal vt := by
  unfold Dev.sendFrom
  split
  · rename_i t1 e2
    have h1 : t1.Legal vt := h.placeBlock.of_snd e2
    split
    · exact h1.emit
    · exact h1

theorem Dev.Legal.send {q : Sender} {ty : BitVec 4} {pl : Payload} (h : s.Legal vt) : (s.send q ty pl).Legal vt :=
  h.sendFrom

theorem Dev.Legal.portCrc {n i : Nat} (h : s.Legal vt) : (s.portCrc n i).Legal vt := h.finc.report

theorem Dev.Legal.portGap {n i : Nat} (h : s.Legal vt) : (s.portGap n i).Legal vt := h.finc.report

theorem Dev.Legal.portRx {n i : Nat} {h' : Rx} (h : s.Legal vt) : (s.portRx n i h').Legal vt :=
  have h1 := Dev.Legal.ite h h.portCrc
  .ite h1 h1.portGap

theorem Dev.Legal.endRx {r : Nat} {e : End} {h' : Rx} (h : s.Legal vt) :
    (s.endRx r e h').Legal vt := .ite h.portRx h

theorem Dev.Legal.sendReq {id : Nat} {pl : Payload} (h : s.Legal vt) :
    (s.sendReq id pl).2.Legal vt := h.setCend.send

theorem Dev.Legal.ownWrite {p : Place} {a : Nat} {v : W32} (h : s.Legal vt) : (s.ownWrite p a v).Legal vt := by
  unfold Dev.ownWrite
  extract_lets +onlyGivenNames _
  split
  · rename_i t1 e2
    have h1 : t1.Legal vt := h.free.of_snd e2
    split
    · rename_i t3 e4
      have h2 : t3.Legal vt := h1.sendReq.of_snd e4
      exact h2.modCell

theorem Dev.Legal.writeSlots {r : Nat} {cfg : W64} {anch : Nat} {eff : W16} (h : s.Legal vt) :
    (s.writeSlots r cfg anch eff).Legal vt := by
  unfold Dev.writeSlots
  extract_lets +onlyGivenNames _
  refine Dev.Legal.forAll ?_ fun _ _ h1 => ?_
  · exact h
  · split
    · exact h1
    · exact h1.ownWrite.ownWrite.ownWrite.ownWrite.ownWrite

/-! ### Scheduler instructions and services (`Machine/SchedInstr`) -/

theorem CtrlDie.Legal.deliverMsg {u : Nat} {v : W64} (h : c.Legal) : (c.deliverMsg u v).Legal := h.modTask.wake

theorem CtrlDie.Legal.postTo {t m : Nat} {v : W64} (h : c.Legal) : (c.postTo t m v).Legal := by
  unfold CtrlDie.postTo
  extract_lets +onlyGivenNames _ _
  split
  · exact h.setMbox.deliverMsg
  · exact h.setMbox

theorem Dev.Legal.doPost {d c t : Nat} {rd : Reg} {m : Nat} {v : W64} (h : s.Legal vt) :
    (s.doPost d c t rd m v).Legal vt :=
  have h1 := h.advance
  have h2 := h1.cd
  .ite (h1.setCd (CtrlDie.Legal.ite h2.setMbox h2).setReg).finc.hold (h1.setCd h2.setReg.postTo).resched.hold

theorem Dev.Legal.waitOn {d c t : Nat} {st : TState} {obj : Nat} {queue : CtrlDie → CtrlDie} (h : s.Legal vt)
    (hq : ∀ y, y.Legal → (queue y).Legal) : (s.waitOn d c t st obj queue).Legal vt := by
  unfold Dev.waitOn
  extract_lets s1 s2 s3
  have h1 : s2.Legal vt := (h.modCd fun _ hc => hc.modTask).leave
  have h2 : s3.Legal vt := .ite h1 (h1.modCd hq)
  exact h2.resched

theorem Dev.Legal.doTake {d c t : Nat} {rd rb : Reg} {m : Nat} {noWait : Bool} (h : s.Legal vt) :
    (s.doTake d c t rd rb m noWait).Legal vt := by
  unfold Dev.doTake
  extract_lets +onlyGivenNames t1 _ _ _
  have h1 : t1.Legal := h.cd
  refine .ite h.trap ?_
  refine .ite (h.modCd fun _ h2 => h2.setReg.setReg).done ?_
  split
  · exact .ite (h.setCd h1.setMbox.setReg.setReg).done (h.modCd fun _ h3 => h3.setReg.setReg).done
  · exact .ite (h.modCd fun _ h4 => h4.setReg.setReg).done
      ((h.advance.modCd fun _ h5 => h5.modTask).waitOn fun _ h6 => h6.setMbox).hold

theorem Dev.Legal.doYield {d c t : Nat} (h : s.Legal vt) : (s.doYield d c t).Legal vt := by
  unfold Dev.doYield
  extract_lets +onlyGivenNames t1 t2
  have h1 : t1.Legal vt := h.advance
  have h2 : t2.Legal := h1.cd
  refine .ite ?_ h1.hold
  extract_lets +onlyGivenNames t3 t4
  have h3 : t3.Legal vt := h1.leave
  have h4 : t4.Legal vt := .ite h3 (h3.modCd fun _ h5 => h5)
  exact h4.resched.hold

theorem CtrlDie.Legal.setBase {t u p : Nat} (h : c.Legal) : (c.setBase t u p).Legal := .ite h h.modTask.applyPpend

theorem Dev.Legal.doLock {d c t l : Nat} (h : s.Legal vt) : (s.doLock d c t l).Legal vt :=
  have h1 := h.cd
  .ite h.trap (.ite (.ite h.trap (.ite (h.setCd h1.setLock.modTask).done (h.setCd h1.setLock.modTask).done))
    (.ite h.trap (.ite (h.setCd h1.setLock).done (h.advance.waitOn fun _ h2 => h2.setLock).hold)))

theorem Dev.Legal.doService {d c t : Nat} {rd : Reg} {svc : Nat} {a : W64} (h : s.Legal vt) :
    (s.doService d c t rd svc a).Legal vt := by
  unfold Dev.doService
  split
  · exact h.trap
  · refine .ite h.hold ?_
    split
    · exact h.eccFail.trap
    · rename_i s1 e
      have h1 : s1.Legal vt := h.eccRead e
      extract_lets s2 _ _ _ s3
      have h2 : s3.Legal vt := h1.advance.modCd fun _ hc => hc.poke.setReg
      refine .ite h2.finc.hold (.ite (Dev.Legal.hold ?_) h2.applyService.resched.hold)
      exact h2.modCd fun _ hc => hc

theorem Dev.Legal.serviceI {r : CoreRef} {rd rb : Reg} {svc : Nat} (h : s.Legal vt) :
    (s.serviceI r rd rb svc).Legal vt :=
  h.instr fun _ _ h1 => h1.doService

theorem CtrlDie.Legal.applyVpri (h : c.Legal) : c.applyVpri.Legal := (h.forAll fun _ _ h1 => .ite h1 h1.modTask)

theorem CtrlDie.Legal.snapshot (h : c.Legal) : c.snapshot.Legal := h

theorem Dev.Legal.phaseBegin {d : Nat} (h : s.Legal vt) : (s.phaseBegin d).Legal vt := by
  unfold Dev.phaseBegin
  extract_lets x
  have hx : x.Legal := h.cd
  clear_value x
  refine .ite h (.ite (Dev.Legal.resched (h.setCd (hx.snapshot.of_dmem rfl))) ?_)
  split
  · exact h
  · exact .ite h (Dev.Legal.resched (h.setCd (hx.applyVpri.snapshot.of_dmem rfl)))

theorem Dev.Legal.votedDispatch {d : Nat} (h : s.Legal vt) : (s.votedDispatch d).Legal vt := by
  unfold Dev.votedDispatch
  extract_lets +onlyGivenNames t1
  have h1 : t1.Legal := h.cd
  refine .ite h ?_
  extract_lets +onlyGivenNames _
  split
  · exact .ite h h.dispatch.resched
  · exact h

/-! ### A nanosecond, and the ticks of a control die (`Machine/Tick`) -/

theorem Dev.Legal.tick (h : s.Legal vt) : s.tick.Legal vt := h.elapse.forAll fun _ _ h1 => h1.fifoFinish

theorem Dev.Legal.tickStart {d : Nat} (h : s.Legal vt) : (s.tickStart d).Legal vt := h.modCd fun _ h1 => h1

theorem Dev.Legal.tickDie {d : Nat} (h : s.Legal vt) : (s.tickDie d).Legal vt := .ite (h.modCd fun _ h1 => h1) h

/-! ### Transactions (`Machine/Txn`) -/

theorem Dev.Legal.pick {l : List Nat} (h : s.Legal vt) : (s.pick l).2.Legal vt := by
  unfold Dev.pick
  split
  · rename_i t1 e2
    have h1 : t1.Legal vt := h.free.of_snd e2
    exact h1

theorem Dev.Legal.sendTwin {x' : Nat} {ty : Byte} {pl : Blk} (h : s.Legal vt) : (s.sendTwin x' ty pl).Legal vt :=
  .ite h.emit h

theorem Dev.Legal.issueTxn {owner : TxnOwner} {busy : Bool} {id : Nat} {w : Bool} {ofs data : Nat} (h : s.Legal vt)
    :
    (s.issueTxn owner busy id w ofs data).2.Legal vt := by
  unfold Dev.issueTxn
  split
  · extract_lets n
    split
    rename_i s1 e1
    have h1 : s1.Legal vt := h.pick.of_snd e1
    extract_lets gen pl
    split
    rename_i s2 e2
    have h2 : s2.Legal vt := by
      refine Dev.Legal.of_snd (p := if s1.relays id then _ else _) ?_ e2
      split
      · exact h1.sendTwin
      · exact h1.sendReq
    exact h2.modRd
  · split
    rename_i s1 e1
    exact h.pick.of_snd e1

theorem Dev.Legal.taskAnswer {d t tag gen : Nat} {e : TxnEnd} (h : s.Legal vt) :
    (s.taskAnswer d t tag gen e).Legal vt := by
  unfold Dev.taskAnswer
  extract_lets +onlyGivenNames _
  split
  · exact h
  · exact .ite (h.modCd fun _ h1 => h1.setTask.wake).resched (h.modCd fun _ h2 => h2.setTask)

theorem Dev.Legal.slotDone {i st why data : Nat} (h : s.Legal vt) :
    (s.slotDone i st why data).Legal vt := h.rset.irq

theorem Dev.Legal.deliverTxn {owner : TxnOwner} {tag gen : Nat} {e : TxnEnd} (h : s.Legal vt) :
    (s.deliverTxn owner tag gen e).Legal vt := by
  unfold Dev.deliverTxn
  split
  · exact h.taskAnswer
  · split <;> exact h.slotDone
  · exact h

theorem Dev.Legal.dropTag {n tag : Nat} (h : s.Legal vt) : (s.dropTag n tag).Legal vt := h.modRd

theorem Dev.Legal.noteNmiss {req pl : Payload} (h : s.Legal vt) : (s.noteNmiss req pl).Legal vt := .ite h.fset h

theorem Dev.Legal.tagExpire {n tag : Nat} {t : Tag} (h : s.Legal vt) : (s.tagExpire n tag t).Legal vt :=
  h.dropTag.report.deliverTxn

theorem Dev.Legal.rspOwn {n r : Nat} {pl : Payload} (h : s.Legal vt) : (s.rspOwn n r pl).Legal vt := by
  unfold Dev.rspOwn
  extract_lets +onlyGivenNames _ _ _
  split
  · exact .ite h.tagExpire.finc h.noteNmiss.dropTag.deliverTxn
  · exact h.finc

theorem Dev.Legal.rspIn {n r : Nat} {pl : Payload} (h : s.Legal vt) : (s.rspIn n r pl).Legal vt := by
  unfold Dev.rspIn
  extract_lets +onlyGivenNames _
  split
  · exact h.noteNmiss.dropTag.sendTwin
  · exact h.rspOwn

theorem Dev.Legal.relayReq {pl : Payload} (h : s.Legal vt) : (s.relayReq pl).Legal vt := by
  unfold Dev.relayReq
  extract_lets +onlyGivenNames _ _ _ _
  refine .ite h ?_
  split
  · split
    · exact h.send
    · exact h
  · refine .ite h ?_
    split
    · rename_i t1 e2
      have h1 : t1.Legal vt := h.sendReq.of_snd e2
      exact h1.modRd

theorem Dev.Legal.txnRetry {tag : Nat} (h : s.Legal vt) : (s.txnRetry tag).Legal vt := by
  unfold Dev.txnRetry
  extract_lets +onlyGivenNames _
  split
  · exact h
  · exact .ite h (have h1 := h.elapse.modRd.finc.report; .ite h1.send h1.sendTwin)

theorem Dev.Legal.tagTimeout {tag : Nat} (h : s.Legal vt) : (s.tagTimeout tag).Legal vt := by
  unfold Dev.tagTimeout
  extract_lets +onlyGivenNames _
  split
  · exact h
  · exact h.elapse.tagExpire

theorem Dev.Legal.slotGo {i : Nat} {v : W64} (h : s.Legal vt) : (s.slotGo i v).Legal vt := by
  unfold Dev.slotGo
  extract_lets +onlyGivenNames t1
  have h1 : t1.Legal vt := h.plainWrite
  refine .ite h1 ?_
  refine .ite h1.finc ?_
  extract_lets +onlyGivenNames t2
  have h2 : t2.Legal vt := h1.fset.fset
  split
  · rename_i t3 e4
    have h3 : t3.Legal vt := h2.issueTxn.of_snd e4
    split
    · exact h3.slotDone
    · exact h3

/-! ### Streams (`Machine/Hub`) -/

theorem Dev.Legal.showHub {r : Nat} (h : s.Legal vt) : (s.showHub r).Legal vt := h.rfset.rfset.rfset

theorem Dev.Legal.putStream {aq : Bool} {id inp i : Nat} {q : Option Stream} (h : s.Legal vt) :
    (s.putStream aq id inp i q).Legal vt := by
  unfold Dev.putStream
  extract_lets +onlyGivenNames t1
  have h1 : t1.Legal vt := h.setStream
  refine .ite h1.modAq ?_
  extract_lets +onlyGivenNames t2
  have h2 : t2.Legal vt := by
    unfold t2
    split
    · exact h1.ownWrite
    · exact h1.ownWrite
    · exact h1
  exact h2.showHub

theorem Dev.Legal.hubRequest {n : Nat} {v : W64} (h : s.Legal vt) : (s.hubRequest n v).Legal vt :=
  have h1 := h.plainWrite
  .ite h1 (have h2 := h1.fset; have h3 := Dev.Legal.ite h2.finc h2.putStream; .ite h3 h3.fset)

theorem Dev.Legal.cellStreams {id : Nat} (h : s.Legal vt) : (s.cellStreams id).Legal vt := by
  unfold Dev.cellStreams
  split
  · exact h
  · refine Dev.Legal.forAll ?_ fun _ _ h1 => ?_
    · exact h
    · extract_lets +onlyGivenNames _
      split
      · exact .ite h1 h1.putStream
      · exact .ite h1.putStream h1

theorem Dev.Legal.recheckLoop {n : Nat} (h : s.Legal vt) : (s.recheckLoop n).Legal vt := by
  induction n generalizing s with
  | zero => exact h
  | succ n ih =>
    unfold Dev.recheckLoop
    extract_lets
    split
    · exact h
    · refine ih (.ite h.setStream ?_)
      split
      · exact h.setStream.ownWrite
      · exact h.setStream

theorem Dev.Legal.recheckStreams (h : s.Legal vt) : s.recheckStreams.Legal vt :=
  h.recheckLoop.forAll fun _ _ h1 => h1.showHub

theorem Dev.Legal.grantOne {r id : Nat} (h : s.Legal vt) : (s.grantOne r id).Legal vt := by
  unfold Dev.grantOne
  split
  · exact h
  · split
    · rename_i t1 e2
      have h1 : t1.Legal vt := h.free.of_snd e2
      exact h1.send

theorem Dev.Legal.hubGrants (h : s.Legal vt) : s.hubGrants.Legal vt :=
  h.forAll fun _ _ h1 => .ite (h1.forAll fun _ _ h2 => h2.grantOne) h1

theorem Dev.Legal.recGrants (h : s.Legal vt) : s.recGrants.Legal vt :=
  .ite h (h.forAll fun _ _ h1 => .ite h1.grantOne h1)

theorem Dev.Legal.fifoRead {f bytes : Nat} {peek : Bool} (h : s.Legal vt) :
    (s.fifoRead f bytes peek).2.Legal vt := by
  unfold Dev.fifoRead
  extract_lets +onlyGivenNames _ _
  split
  · exact h
  · split
    · exact .ite h h.finc
    · extract_lets +onlyGivenNames _ t1 _ _
      have h1 : t1.Legal vt := .ite h h.fifoCheck
      exact .ite h1 h1.modRd.fifoFinish

/-! ### Operating modes (`Machine/Modes`) -/

theorem Dev.Legal.forward {addr : Nat} {v : W64} {eff : Nat} (h : s.Legal vt) :
    (s.forward addr v eff).Legal vt := by
  unfold Dev.forward
  split
  · exact h.sendTwin
  · exact h

theorem Dev.Legal.tuneTimeout {i : Nat} (h : s.Legal vt) : (s.tuneTimeout i).Legal vt := by
  unfold Dev.tuneTimeout
  split
  · exact h.elapse.tuneAbort
  · exact h

theorem Dev.Legal.sendSleep {r : Nat} {src e : End} {sub : Nat} (h : s.Legal vt) :
    (s.sendSleep r src e sub).Legal vt :=
  .ite (h.forAll fun _ _ h1 => h1.send) h

theorem Dev.Legal.sleepStream {r : Nat} {e : End} (h : s.Legal vt) : (s.sleepStream r e).Legal vt :=
  h.rfset.sendSleep.rfset.recheckStreams

theorem Dev.Legal.awake {r : Nat} {e : End} (h : s.Legal vt) : (s.awake r e).Legal vt := h.rfset.recheckStreams

theorem Dev.Legal.wakeStream {r : Nat} {e : End} (h : s.Legal vt) : (s.wakeStream r e).Legal vt :=
  have h1 := h.rfset.sendSleep
  .ite h1.awake h1

theorem Dev.Legal.sleepRequest {r : Nat} {e : End} (h : s.Legal vt) : (s.sleepRequest r e).Legal vt :=
  .ite h (.ite h.refuseWr h.sleepStream)

theorem Dev.Legal.wakeAll (h : s.Legal vt) : s.wakeAll.Legal vt :=
  h.forAll fun _ _ h1 => h1.forAll fun _ _ h2 => .ite h2.wakeStream h2

theorem Dev.Legal.lockAll {b : Bool} (h : s.Legal vt) : (s.lockAll b).Legal vt := by
  unfold Dev.lockAll
  extract_lets +onlyGivenNames t1
  have h1 : t1.Legal vt := by
    unfold t1
    refine Dev.Legal.forAll ?_ fun _ _ h2 => ?_
    · exact h
    · split
      · exact h2.modCell
      · exact h2
  exact .ite h1.fset h1

theorem Dev.Legal.genInvAll (h : s.Legal vt) : s.genInvAll.Legal vt :=
  h.forAll fun _ _ h1 => .ite (h1.modCd fun _ h2 => h2.genInv) h1

theorem Dev.Legal.setMode {m : Nat} (h : s.Legal vt) : (s.setMode m).Legal vt :=
  have h1 := h.fset.fset
  have h2 := Dev.Legal.ite (h1.lockAll.forAll fun _ _ h3 => h3.tuneAbort) h1
  have h4 := Dev.Legal.ite h2.lockAll.fset h2
  have h5 := Dev.Legal.ite h4.genInvAll h4
  have h6 := Dev.Legal.ite h5.fset.fset.md.vote h5
  have h7 := Dev.Legal.ite h6.fset h6
  (Dev.Legal.ite h7.fset.md h7).info.irq

theorem Dev.Legal.refuseMode {why : Nat} (h : s.Legal vt) : (s.refuseMode why).Legal vt := h.fset.fset.finc.irq

theorem Dev.Legal.modeRequest {m : Nat} (h : s.Legal vt) : (s.modeRequest m).Legal vt := h.md

theorem Dev.Legal.decideMode {m : Nat} (h : s.Legal vt) : (s.decideMode m).Legal vt := by
  unfold Dev.decideMode
  split
  · exact (Dev.Legal.ite h.wakeAll h).fset.fset.forward.md
  · split
    · rename_i t1 e2
      have h1 : t1.Legal vt := h.pick.of_snd e2
      exact h1.refuseMode

theorem Dev.Legal.modeDecision (h : s.Legal vt) : s.modeDecision.Legal vt := h.md.forAll fun _ _ h1 => h1.decideMode

theorem Dev.Legal.modeCfgSet {v : W64} (h : s.Legal vt) : (s.modeCfgSet v).Legal vt := h.plainWrite.md

theorem Dev.Legal.setCauses {l : List Nat} (h : s.Legal vt) : (s.setCauses l).Legal vt := h.fset.md

theorem Dev.Legal.autoMode {prec : Nat} (h : s.Legal vt) : (s.autoMode prec).Legal vt := h.md

theorem Dev.Legal.rtLimitHit {c : Nat} (h : s.Legal vt) : (s.rtLimitHit c).Legal vt := by
  unfold Dev.rtLimitHit
  split
  · exact .ite h.autoMode.vote h
  · exact h

theorem Dev.Legal.autoChange {m : Nat} (h : s.Legal vt) : (s.autoChange m).Legal vt :=
  have h1 := (Dev.Legal.ite h.fset.refuseMode h).md
  .ite h1 h1.setMode

theorem Dev.Legal.modeT0 (h : s.Legal vt) : s.modeT0.Legal vt := by
  unfold Dev.modeT0
  extract_lets auto _ s1 s2 s3
  have h1 : s1.Legal vt := h.md
  have h2 : s2.Legal vt := .ite h1.setCauses h1
  have h3 : s3.Legal vt := h2.fset.md
  clear_value auto
  split
  · exact h1.fset.autoChange
  · refine .ite h1.autoChange.setCauses ?_
    split
    · exact h1.autoChange
    · split
      · exact h2
      · exact .ite h2.md (Dev.Legal.setMode (.ite h3.fset h3))

/-! ### Station time (`Machine/Clock`) -/

theorem Dev.Legal.decideStep {delta : Int} {host : Bool} (h : s.Legal vt) :
    (s.decideStep delta host).Legal vt := h.clk

theorem Dev.Legal.addOfs {d : Int} (h : s.Legal vt) : (s.addOfs d).Legal vt := h.clk.modRd.modRd.aq

theorem Dev.Legal.takeStep {delta : Int} (h : s.Legal vt) :
    (s.takeStep delta).Legal vt := h.addOfs.aq.clk.fset.fwrap.irq

theorem Dev.Legal.setRate {v : W32} (h : s.Legal vt) : (s.setRate v).Legal vt := h.clk.modRd.modRd.aq.fset

theorem Dev.Legal.rateChange (h : s.Legal vt) : s.rateChange.Legal vt := by
  unfold Dev.rateChange
  split
  · exact h
  · exact h.elapse.setRate.crk

theorem Dev.Legal.setCrook {n : Nat} (h : s.Legal vt) : (s.setCrook n).Legal vt := .ite h h.fset.irq

theorem Dev.Legal.rateLater {v : Int} (h : s.Legal vt) : (s.rateLater v).Legal vt := h.crk

theorem Dev.Legal.thetaUsed (h : s.Legal vt) : s.thetaUsed.Legal vt := h.crk.fset

theorem Dev.Legal.piUpdate {theta : Int} (h : s.Legal vt) :
    (s.piUpdate theta).Legal vt := h.fset.rateLater.thetaUsed

theorem Dev.Legal.refuseTheta {theta : Int} (h : s.Legal vt) : (s.refuseTheta theta).Legal vt :=
  have h1 := h.fset.fset.finc.report
  .ite h1.irq h1

theorem Dev.Legal.crookOffset {theta : Int} (h : s.Legal vt) : (s.crookOffset theta).Legal vt :=
  have h1 := Dev.Legal.ite h.setCrook h
  .ite h1.decideStep.crk.fset.thetaUsed.setCrook (.ite h1.piUpdate.setCrook h1.refuseTheta)

theorem Dev.Legal.acceptJump (h : s.Legal vt) : s.acceptJump.Legal vt := .ite h.decideStep.thetaUsed.setCrook h

theorem Dev.Legal.hostStep (h : s.Legal vt) : s.hostStep.Legal vt := .ite h.refuseWr h.decideStep

theorem Dev.Legal.wallWrite {v : W64} (h : s.Legal vt) : (s.wallWrite v).Legal vt := h.rset.clk

theorem Dev.Legal.ptpSelect (h : s.Legal vt) : s.ptpSelect.Legal vt := by
  unfold Dev.ptpSelect
  extract_lets +onlyGivenNames _
  split
  · exact h.fset.fset.fset.fset
  · exact h.fset

theorem Dev.Legal.ptpAnnounce {m : PtpMsg} (h : s.Legal vt) : (s.ptpAnnounce m).Legal vt := h.crk.ptpSelect

theorem Dev.Legal.ptpCfgWrite {v : W64} (h : s.Legal vt) : (s.ptpCfgWrite v).Legal vt := h.plainWrite.crk.ptpSelect

theorem Dev.Legal.ptpAnswer {p : Nat} (h : s.Legal vt) :
    (s.ptpAnswer p).Legal vt := .ite h (.ite h.emit h.emit.emit)

/-! ### Cycle settings and folds (`Machine/Folds`) -/

theorem Dev.Legal.growCheck {r : Nat} (h : s.Legal vt) : (s.growCheck r).Legal vt :=
  .ite h (have h1 := h.rfset; .ite h1.report h1)

theorem Dev.Legal.pathChange {r : Nat} (h : s.Legal vt) : (s.pathChange r).Legal vt := h.showPath.growCheck

theorem Dev.Legal.penWrite {id : Nat} (h : s.Legal vt) : (s.penWrite id).Legal vt := by
  unfold Dev.penWrite
  split
  · exact h
  · exact .ite h h.ownWrite

theorem Dev.Legal.refold {id : Nat} {old : W64} (h : s.Legal vt) : (s.refold id old).Legal vt := by
  unfold Dev.refold
  extract_lets +onlyGivenNames t1
  have h1 : t1.Legal vt := h.fset
  refine .ite h1 ?_
  extract_lets +onlyGivenNames t2
  have h2 : t2.Legal vt := .ite h1 h1.tly
  split
  · exact h2.tly.report
  · exact h2.ownWrite.ownWrite.tly.fset

theorem Dev.Legal.foldCfgSet {f : Nat} {v : W64} (h : s.Legal vt) : (s.foldCfgSet f v).Legal vt :=
  have h1 := h.rset
  .ite (h1.forAll fun _ _ h2 => h2.refold) h1

theorem Dev.Legal.foldMapSet {id fold : Nat} (h : s.Legal vt) : (s.foldMapSet id fold).Legal vt :=
  .ite h (have h1 := h.fset.refold.twinShow; .ite h1.pathChange h1)

theorem Dev.Legal.oosSet {id : Nat} {oos : Bool} (h : s.Legal vt) : (s.oosSet id oos).Legal vt := h.fset.penWrite

theorem Dev.Legal.applyWrite {a : Nat} {v : W64} (h : s.Legal vt) : (s.applyWrite a v).Legal vt := by
  unfold Dev.applyWrite
  split
  · exact h.foldMapSet.oosSet
  · exact h.foldCfgSet
  · exact .ite h.plainWrite (.ite h.md (.ite h.modeCfgSet h))

theorem Dev.Legal.fwdWrite {a : Nat} {v : W64} (h : s.Legal vt) : (s.fwdWrite a v).Legal vt :=
  .ite h.forward.tw h.applyWrite

theorem Dev.Legal.fwdT0 (h : s.Legal vt) : s.fwdT0.Legal vt := by
  unfold Dev.fwdT0
  split
  · exact h.tw.forAll fun _ _ h1 => h1.applyWrite

theorem Dev.Legal.cfgAccept {v : W64} {eff : Nat} (h : s.Legal vt) : (s.cfgAccept v eff).Legal vt :=
  h.fset.clk.forAll fun _ _ h1 => h1.writeSlots

theorem Dev.Legal.newSlots {r : Nat} (h : s.Legal vt) : (s.newSlots r).Legal vt := by
  unfold Dev.newSlots
  split <;> exact h.writeSlots

theorem Dev.Legal.pendEnd (h : s.Legal vt) : s.pendEnd.Legal vt := by
  unfold Dev.pendEnd
  split
  · exact h
  · exact .ite h.fset.tw h

theorem Dev.Legal.cfgEffect (h : s.Legal vt) : s.cfgEffect.Legal vt := by
  unfold Dev.cfgEffect
  split
  · exact h
  · exact .ite h (have h1 := h.clk.rset.fset.tw.pendEnd;
      have h2 := (Dev.Legal.ite h1.setMins h1).forAll (fun _ _ h3 => h3.pathChange);
      (Dev.Legal.ite h2.aqSuspend h2).recheckStreams)

theorem Dev.Legal.showBreaks {r : Nat} (h : s.Legal vt) : (s.showBreaks r).Legal vt :=
  have h1 := h.rfset.rfset.rfset.rfset.rfset.rfset
  have h2 := Dev.Legal.ite h1 h1.rfset
  .ite h2.report h2

theorem Dev.Legal.stopLaunch {r n : Nat} (h : s.Legal vt) : (s.stopLaunch r n).Legal vt := by
  unfold Dev.stopLaunch
  extract_lets _ stop
  have hs : ∀ t p y, Dev.Legal vt t → (stop t p y).Legal vt := by
    intro t p y ht
    cases p with
    | none => exact ht
    | some p => exact ht.modCell
  exact hs _ _ _ (hs _ _ _ h)

/-! ### Interval ledger (`Machine/Ledger`) -/

theorem Dev.Legal.setLedg {c : Nat} {x' : LedgSt} (h : s.Legal vt) : (s.setLedg c x').Legal vt := h.ldg

theorem Dev.Legal.ledFlag {f : Field} {b : Bool} (h : s.Legal vt) : (s.ledFlag f b).Legal vt := .ite h.fset h

theorem Dev.Legal.ledStep {c i : Nat} {d : Int} (h : s.Legal vt) : (s.ledStep c i d).Legal vt := h.fset

theorem Dev.Legal.ledDur {c i : Nat} (h : s.Legal vt) : (s.ledDur c i).Legal vt := h.fset

theorem Dev.Legal.ledClear {c i : Nat} (h : s.Legal vt) :
    (s.ledClear c i).Legal vt := h.forAll fun _ _ h1 => h1.rset

theorem Dev.Legal.ledOpen {c n : Nat} {w l : Int} (h : s.Legal vt) : (s.ledOpen c n w l).Legal vt :=
  (Dev.Legal.ite h.finc h).ledClear.fset.fset.fset.ledFlag.ledFlag.fset.fset.setLedg

theorem Dev.Legal.ledgerT0 {c : Nat} {d : Int} (h : s.Legal vt) : (s.ledgerT0 c d).Legal vt :=
  (Dev.Legal.ite h.setLedg.ledOpen (have h1 := h.ledDur;
    .ite (.ite h1 h1.ledStep.fset) (Dev.Legal.ite h1 h1.ledStep.fset).setLedg.ledOpen)).ledFlag

theorem Dev.Legal.postedTo {c k : Nat} (h : s.Legal vt) : (s.postedTo c k).Legal vt := h.setLedg

theorem Dev.Legal.addEnergy {c i : Nat} {e : Int} (h : s.Legal vt) : (s.addEnergy c i e).Legal vt := h.fset.fset

theorem Dev.Legal.postEnergy {c k : Nat} {slot : BitVec 96} (h : s.Legal vt) : (s.postEnergy c k slot).Legal vt :=
  h.addEnergy.finc.postedTo

theorem Dev.Legal.noPosting {c k : Nat} {partner : Bool} (h : s.Legal vt) : (s.noPosting c k partner).Legal vt :=
  (Dev.Legal.ite h.fset h.finc).postedTo

theorem Dev.Legal.energyPosting {c : Nat} (h : s.Legal vt) : (s.energyPosting c).Legal vt := by
  unfold Dev.energyPosting
  split
  · exact .ite h.postEnergy h
  · exact h

theorem Dev.Legal.intervalClose {c : Nat} (h : s.Legal vt) : (s.intervalClose c).Legal vt := by
  unfold Dev.intervalClose
  split
  · exact h
  · exact .ite h.fset.setLedg.irq h

theorem Dev.Legal.ledgerLengthWrite {v : W64} (h : s.Legal vt) : (s.ledgerLengthWrite v).Legal vt :=
  .ite h.plainWrite h.refuseWr

/-! ### Station cycle (`Machine/Cycle`) -/

theorem Dev.Legal.comeTo {t : Int} (h : s.Legal vt) : (s.comeTo t).Legal vt := h.elapse

theorem Dev.Legal.comeOfs {ofs : Nat} (h : s.Legal vt) : (s.comeOfs ofs).Legal vt := h.comeTo

theorem Dev.Legal.stepsT0 (h : s.Legal vt) : s.stepsT0.2.2.Legal vt := by
  unfold Dev.stepsT0
  split
  extract_lets s1 _ s2
  have h1 : s2.Legal vt := .ite h.clk h.clk.takeStep
  split
  · exact h1
  · exact h1.clk

theorem Dev.Legal.masterT0 (h : s.Legal vt) : s.masterT0.Legal vt := .ite h.tly h

theorem Dev.Legal.noteT0 {step : Int} (h : s.Legal vt) : (s.noteT0 step).Legal vt := h.clk.vote.tw

theorem Dev.Legal.hurdleT0 (h : s.Legal vt) : s.hurdleT0.Legal vt := .ite h.pin.tw h

theorem Dev.Legal.fireT0 (h : s.Legal vt) : s.fireT0.Legal vt := .ite h.recLearn.rcd h

theorem Dev.Legal.safeT0 (h : s.Legal vt) : s.safeT0.Legal vt := by
  unfold Dev.safeT0
  split
  · exact h.safe
  · exact h

theorem Dev.Legal.turnEnd {id place : Nat} (h : s.Legal vt) : (s.turnEnd id place).Legal vt := .ite h h.setCend

theorem Dev.Legal.turnEnds {r : Nat} (h : s.Legal vt) : (s.turnEnds r).Legal vt := h.forAll fun _ _ h1 => h1.turnEnd

theorem Dev.Legal.joinRing {r : Nat} (h : s.Legal vt) : (s.joinRing r).Legal vt := by
  unfold Dev.joinRing
  split
  · exact h
  · exact .ite h h.setRing.stopLaunch.pathChange.showBreaks.turnEnds.recheckStreams

theorem Dev.Legal.joinT0 (h : s.Legal vt) : s.joinT0.Legal vt := h.forAll fun _ _ h1 => h1.joinRing

theorem Dev.Legal.sampleInstant (h : s.Legal vt) : s.sampleInstant.Legal vt := by
  unfold Dev.sampleInstant
  refine .ite h ?_
  extract_lets s1 _ _ s2 s3 s4
  have h1 : s4.Legal vt := h.cfgEffect.comeTo.clk.fset
  split
  rename_i sd d t e
  have ht : t.Legal vt := by
    have h2 := h1.stepsT0
    rwa [e] at h2
  extract_lets s5 s6 s7
  have h3 : s6.Legal vt := ht.masterT0.offT0.hurdleT0.fwdT0.joinT0.modeT0.noteT0.ledgerT0.ledgerT0
  have h4 : s7.Legal vt := .ite h3.aqT0 h3
  exact h4.safeT0.fireT0.hubGrants.recGrants

theorem Dev.Legal.lateTally {r : Nat} {e : End} (h : s.Legal vt) : (s.lateTally r e).Legal vt := h.finc

theorem Dev.Legal.tallyArrives {p : Place} {e : End} {fate : Fate} {pl : Payload} (h : s.Legal vt) :
    (s.tallyArrives p e fate pl).Legal vt := by
  unfold Dev.tallyArrives
  extract_lets +onlyGivenNames _
  refine .ite ?_ h
  split
  · exact .ite h.tly h.lateTally
  · exact h.portCrc
  · exact h.lateTally
  · exact h

theorem Dev.Legal.slotCome {p : Place} {towardB : Bool} (h : s.Legal vt) : (s.slotCome p towardB).Legal vt := by
  unfold Dev.slotCome
  extract_lets +onlyGivenNames _
  split
  · exact h.cellCome
  · exact h

theorem Dev.Legal.alignStat {l : List Blk} (h : s.Legal vt) : (s.alignStat l).Legal vt := h.fset.fset.fset

theorem Dev.Legal.cellFaults {id : Nat} {b : Blk} (h : s.Legal vt) : (s.cellFaults id b).Legal vt :=
  have h1 := h.tly
  ((Dev.Legal.ite h1.report h1).forAll fun _ _ h2 => .ite h2.report h2).forAll fun _ _ h3 => .ite h3.report h3

theorem Dev.Legal.cellTrigger {id : Nat} {b : Blk} (h : s.Legal vt) : (s.cellTrigger id b).Legal vt :=
  .ite h.recLearn.rcd h

theorem Dev.Legal.closeCell {k id place : Nat} (h : s.Legal vt) : (s.closeCell k id place).Legal vt := by
  unfold Dev.closeCell
  split
  · extract_lets +onlyGivenNames _ _ _ _ _ t1 t2 t3
    have h1 : t1.Legal vt := h.tly
    have h2 : t2.Legal vt := h1.turnEnd
    have h3 : t3.Legal vt := by
      unfold t3
      split
      · exact h2.setCend
      · exact h2
    refine .ite h3 ?_
    extract_lets +onlyGivenNames t4 t5
    have h4 : t4.Legal vt := by
      unfold t4
      split
      · exact .ite h3 h3.report
      · exact h3
    have h5 : t5.Legal vt := h4.entriesIn
    exact h5.cellFaults.cellTrigger

theorem Dev.Legal.closeCycle {r : CycRec} (h : s.Legal vt) : (s.closeCycle r).Legal vt :=
  (h.tly.forAll fun _ _ h1 => h1.closeCell).tly.alignStat.clk

theorem Dev.Legal.tallyClose (h : s.Legal vt) : s.tallyClose.Legal vt := by
  unfold Dev.tallyClose
  split
  · exact .ite h h.comeOfs.closeCycle
  · exact h

theorem Dev.Legal.mapDeliver (h : s.Legal vt) : s.mapDeliver.Legal vt := h.tly.forAll fun _ _ h1 => h1.penWrite

theorem CtrlDie.Legal.loadMirror {l : List Blk} (h : c.Legal) : (c.loadMirror l).Legal := by
  unfold CtrlDie.loadMirror
  split
  · exact h
  · exact (CtrlDie.Legal.ite h h.pokeWords.pokeWords).foldl fun _ _ h1 => h1.loadBlock

theorem Dev.Legal.mirrorDeliver {twin : Option (List Blk)} {d : Nat} (h : s.Legal vt) :
    (s.mirrorDeliver twin d).Legal vt := by
  unfold Dev.mirrorDeliver
  extract_lets +onlyGivenNames t1
  have h1 : t1.Legal vt := by
    unfold t1
    split
    · exact h.finc
    · refine Dev.Legal.modCd ?_ fun _ h2 => ?_
      · exact h
      · extract_lets +onlyGivenNames t2
        have h3 : t2.Legal := h2
        exact .ite h3 h3.loadMirror
  split
  · exact h1.modCd fun _ h4 => h4.loadMirror
  · exact h1

theorem Dev.Legal.skipped {d t : Nat} (h : s.Legal vt) : (s.skipped d t).Legal vt :=
  (h.modCd fun _ h1 => h1.modTask).finc.report

theorem Dev.Legal.overrun {d k t : Nat} (h : s.Legal vt) : (s.overrun d k t).Legal vt := by
  unfold Dev.overrun
  extract_lets +onlyGivenNames _
  refine .ite h ?_
  refine .ite ?_ (.ite h.killTask h)
  refine Dev.Legal.skipped ?_
  refine Dev.Legal.modCd ?_ fun _ h1 => ?_
  · exact h
  · refine CtrlDie.Legal.modTask ?_
    exact h1

theorem Dev.Legal.cycleTask {d k t : Nat} (h : s.Legal vt) : (s.cycleTask d k t).Legal vt :=
  .ite h (.ite (h.modCd fun _ h1 => h1.activate) h.skipped)

theorem CtrlDie.Legal.noteSet {e : TallySet} {iso : Store Nat} (h : c.Legal) : (c.noteSet e iso).Legal := h

theorem Dev.Legal.modeEntry {d : Nat} {c : CycRec} (h : s.Legal vt) :
    (s.modeEntry d c).Legal vt := h.fset.fset.fset.fset

theorem Dev.Legal.deliverTo {e : TallySet} {c : CycRec} {twin : Option (List Blk)} {d : Nat} (h : s.Legal vt) :
    (s.deliverTo e c twin d).Legal vt :=
  have h1 := h.fset.mirrorDeliver.leDeliver
  have h2 := ((Dev.Legal.ite (h1.modCd fun _ h3 => h3.genSteps) h1).modCd fun _ h4 => h4.noteSet).modeEntry
  .ite h2 ((h2.forAll fun _ _ h5 => h5.overrun).forAll fun _ _ h6 => h6.cycleTask).resched

theorem Dev.Legal.softDuty (h : s.Legal vt) : s.softDuty.Legal vt := .ite h.genInvAll h

theorem Dev.Legal.twinCommit {k : Nat} (h : s.Legal vt) : (s.twinCommit k).2.Legal vt := by
  unfold Dev.twinCommit
  split
  · exact h
  · extract_lets +onlyGivenNames _ t1 t2
    have h1 : t1.Legal vt := h.tw
    have h2 : t2.Legal vt := .ite h1.fset h1.finc
    exact .ite h2.softDuty h2

theorem Dev.Legal.handTokens {k : Nat} (h : s.Legal vt) : (s.handTokens k).Legal vt :=
  h.forAll fun _ _ h1 => .ite h1.modRd h1

theorem Dev.Legal.tallyDelivery (h : s.Legal vt) : s.tallyDelivery.Legal vt := by
  unfold Dev.tallyDelivery
  split
  · refine .ite h ?_
    extract_lets +onlyGivenNames t1
    have h1 : t1.Legal vt := h.tly
    split
    · rename_i t2 e3
      have h2 : t2.Legal vt := h1.mapDeliver.twinCommit.of_snd e3
      extract_lets +onlyGivenNames _ t4 _
      have h3 : t4.Legal vt := h2.forAll fun _ _ h4 => .ite h4.deliverTo h4
      exact (Dev.Legal.ite h3 h3.fset).handTokens
  · exact h

/-! ### Cycle instructions (`Machine/CycleInstr`) -/

theorem CtrlDie.Legal.dst {e : TallySet} {code : Nat} {l : List Byte} (h : c.Legal) : (c.dst e code l).Legal :=
  h.setImage

theorem Dev.Legal.blockRead {d t a n : Nat} (h : s.Legal vt) : (s.blockRead d t a n).1.Legal vt := by
  unfold Dev.blockRead
  split
  · exact h
  · split
    · exact h.eccFail
    · rename_i t1 e2
      have h1 : t1.Legal vt := h.eccRead e2
      exact h1

theorem Dev.Legal.closeImage {d : Nat} {e : TallySet} (h : s.Legal vt) : (s.closeImage d e).Legal vt :=
  (h.modCd fun _ h1 => h1.setImage).fadd.fset

theorem Dev.Legal.sendImage {d : Nat} {e : TallySet} (h : s.Legal vt) : (s.sendImage d e).Legal vt := .ite h h.vote

/-! ### Station-port frames (`Machine/Frames`) -/

theorem Dev.Legal.frameIn {p : Nat} {l : List Byte} {ok : Bool} (h : s.Legal vt) : (s.frameIn p l ok).Legal vt :=
  .ite h (have h1 := h.fset; .ite h1.finc (.ite h1 h1.fifoPush))

theorem Dev.Legal.frameOut {n i : Nat} {pkt : List Byte} (h : s.Legal vt) : (s.frameOut n i pkt).Legal vt :=
  .ite h.finc (have h1 := h.emit; .ite h1.modRd.irq h1)

theorem Dev.Legal.txWord {n i : Nat} {w : W64} (h : s.Legal vt) : (s.txWord n i w).Legal vt :=
  .ite h (have h1 := Dev.Legal.ite h.finc h; .ite h1.modRd (have h2 := h1.modRd; .ite h2.finc h2.frameOut))

theorem Dev.Legal.irqClear {v : W64} (h : s.Legal vt) : (s.irqClear v).Legal vt :=
  h.plainWrite.forAll fun _ _ h1 => .ite h1.msix h1

theorem Dev.Legal.fifoIrqClear {v : W64} (h : s.Legal vt) : (s.fifoIrqClear v).Legal vt :=
  h.plainWrite.forAll fun _ _ h1 => .ite h1.msix h1

/-! ### Stile and voted mirror (`Machine/Vote`) -/

theorem Dev.Legal.enterVote {d : Nat} (h : s.Legal vt) : (s.enterVote d).Legal vt :=
  .ite (h.modCd fun _ h1 => h1.genInv) h

theorem Dev.Legal.laneEvent {d cls : Nat} (h : s.Legal vt) : (s.laneEvent d cls).Legal vt := by
  unfold Dev.laneEvent
  extract_lets +onlyGivenNames t1 t2
  have h1 : t1.Legal vt := .ite h.finc h
  have h2 : t2.Legal vt := h1.finc
  split
  · rename_i t3 _ e4
    have h3 : t3.Legal vt := h2.event.of_fst e4
    exact .ite h3.retireLane h3

theorem Dev.Legal.probation {agreed : Bool} {cls d : Nat} (h : s.Legal vt) : (s.probation agreed cls d).Legal vt :=
  .ite (have h1 := h.fset; .ite h1.fset.enterVote h1) h.fset

theorem Dev.Legal.noteSlack {d : Nat} (h : s.Legal vt) : (s.noteSlack d).Legal vt :=
  h.forAll fun _ _ h1 => .ite h1.finc h1

theorem Dev.Legal.judgeLane {c : CycRec} {drove mirror : Option Image} {unclear : Bool} {d : Nat} (h : s.Legal vt) :
    (s.judgeLane c drove mirror unclear d).Legal vt :=
  have h1 := Dev.Legal.ite h.noteSlack h
  have h2 := Dev.Legal.ite h1.probation h1
  .ite h2 h2.laneEvent

theorem Dev.Legal.firstSpb {c : CycRec} {n : Nat} (h : s.Legal vt) : (s.firstSpb c n).Legal vt :=
  have h1 := h.fset
  have h2 := Dev.Legal.ite h1.autoMode h1
  .ite h2.recLearn h2

theorem Dev.Legal.noAgreement {mode : Nat} {drove mirror : Bool} (h : s.Legal vt) :
    (s.noAgreement mode drove mirror).Legal vt :=
  .ite (have h1 := h.finc; .ite h1.report h1) (.ite h.finc.report h)

theorem Dev.Legal.voteLedgers {k : Nat} {mirror : Bool} (h : s.Legal vt) : (s.voteLedgers k mirror).Legal vt :=
  .ite h (h.forAll fun _ _ h1 => .ite h1.noPosting h1)

theorem Dev.Legal.relay {c : CycRec} {mirror : Option Image} (h : s.Legal vt) : (s.relay c mirror).Legal vt := by
  unfold Dev.relay
  refine .ite ?_ h
  extract_lets +onlyGivenNames _ t1
  have h1 : t1.Legal vt := by
    unfold t1
    refine Dev.Legal.forAll ?_ fun _ _ h2 => ?_
    · exact h
    · refine Dev.Legal.forAll ?_ fun _ _ h3 => ?_
      · exact h2
      · split
        · exact h3.emit
        · exact h3
  split
  · exact h1
  · exact (h1.forAll fun _ _ h4 => h4.emit).forAll fun _ _ h5 => h5.emit

theorem Dev.Legal.sendBeat {k : Nat} {agreed : Bool} (h : s.Legal vt) : (s.sendBeat k agreed).Legal vt :=
  .ite h h.fset.emit.tw

theorem Dev.Legal.voteCycle {c : CycRec} (h : s.Legal vt) : (s.voteCycle c).Legal vt := by
  unfold Dev.voteCycle
  extract_lets +onlyGivenNames _ t1 t2 t3 _ _ _ _ _ _ t4 t5 _ _ t6 t7 _ t8 _ t9 t10 t11
  have h1 : t1.Legal vt := h.clk
  have h2 : t2.Legal vt := h1.forAll fun _ _ h3 => h3.modCd fun _ h4 => h4
  have h5 : t3.Legal vt := h2.energyPosting.energyPosting.tly
  have h6 : t4.Legal vt := h5.md
  have h7 : t5.Legal vt := h6.fset.fset
  have h8 : t6.Legal vt := h7.forAll fun _ _ h9 => h9.judgeLane
  have h10 : t7.Legal vt := h8.noAgreement
  have h11 : t8.Legal vt := .ite h10.firstSpb h10
  have h12 : t9.Legal vt := h11.vote
  have h13 : t10.Legal vt := h12.voteLedgers
  have h14 : t11.Legal vt := .ite h13.relay h13
  exact h14.sendBeat

theorem Dev.Legal.stileVote (h : s.Legal vt) : s.stileVote.Legal vt := by
  unfold Dev.stileVote
  split
  · exact .ite h h.comeOfs.voteCycle
  · exact h

theorem Dev.Legal.launchDroves {r : Nat} {e : End} (h : s.Legal vt) : (s.launchDroves r e).Legal vt := by
  unfold Dev.launchDroves
  split
  · exact .ite (h.vote.forAll fun _ _ h1 => h1.sendFrom) h
  · exact h

theorem Dev.Legal.commitMirror {d : Nat} {l : List Blk} (h : s.Legal vt) : (s.commitMirror d l).Legal vt := by
  unfold Dev.commitMirror
  split
  · exact h
  · extract_lets s1
    have h1 : s1.Legal vt := Dev.Legal.fset (h.modCd fun _ hc => hc)
    exact .ite (.ite h1.fset h1) h

theorem Dev.Legal.mirrorIn {d n : Nat} {l : List Blk} (h : s.Legal vt) : (s.mirrorIn d n l).Legal vt := by
  unfold Dev.mirrorIn
  refine .ite h.commitMirror ?_
  split
  · refine .ite (h.modCd fun _ h1 => h1) ?_
    extract_lets +onlyGivenNames t1
    have h2 : t1.Legal vt := h.modCd fun _ h3 => h3
    exact .ite h2.commitMirror h2.report
  · exact h.modCd fun _ h4 => h4

theorem Dev.Legal.admitLane (h : s.Legal vt) : s.admitLane.Legal vt := by
  unfold Dev.admitLane
  split
  · exact h
  · extract_lets +onlyGivenNames _ t1 t2
    have h1 : t1.Legal vt := .ite h.fset h
    have h2 : t2.Legal vt := h1.fset.fset.fset
    exact .ite h2.enterVote h2

theorem Dev.Legal.openGate {d : Nat} (h : s.Legal vt) : (s.openGate d).Legal vt := .ite h.vote.hurdleStandalone h

theorem Dev.Legal.retireWrite {dies : Nat} (h : s.Legal vt) : (s.retireWrite dies).Legal vt :=
  h.forAll fun _ _ h1 => .ite (.ite h1.refuseWr h1.planned) h1

/-! ### Writes of settings (`Machine/Settings`) -/

theorem Dev.Legal.cfgRefuse {why : Nat} (h : s.Legal vt) : (s.cfgRefuse why).Legal vt := h.finc.fset

theorem Dev.Legal.partnerRefuses (h : s.Legal vt) : s.partnerRefuses.2.Legal vt := by
  unfold Dev.partnerRefuses
  split
  · split
    · rename_i t1 e2
      have h1 : t1.Legal vt := h.free.of_snd e2
      split
      · split
        · rename_i t3 e4
          have h2 : t3.Legal vt := h1.pick.of_snd e4
          exact h2
      · exact h1
  · exact h

theorem Dev.Legal.cfgWrite {v : W64} (h : s.Legal vt) : (s.cfgWrite v).Legal vt := by
  unfold Dev.cfgWrite
  extract_lets +onlyGivenNames _
  refine .ite h.refuseWr ?_
  split
  · exact h.cfgRefuse
  · split
    · rename_i t1 e2
      have h1 : t1.Legal vt := h.partnerRefuses.of_snd e2
      split
      · exact h1.cfgRefuse
      · exact h1.forward.cfgAccept

theorem Dev.Legal.foldCfgWrite {f : Nat} {v : W64} (h : s.Legal vt) : (s.foldCfgWrite f v).Legal vt :=
  .ite h.refuseWr h.fwdWrite

theorem Dev.Legal.foldMapWrite {id fold : Nat} (h : s.Legal vt) : (s.foldMapWrite id fold).Legal vt :=
  .ite h.refuseWr h.fwdWrite

theorem Dev.Legal.oosWrite {id : Nat} {oos : Bool} (h : s.Legal vt) : (s.oosWrite id oos).Legal vt :=
  .ite h.refuseWr h.fwdWrite

theorem Dev.Legal.foldEntryWrite {id : Nat} {v : W64} (h : s.Legal vt) : (s.foldEntryWrite id v).Legal vt :=
  have h1 := Dev.Legal.ite h h.foldMapWrite
  .ite h1 h1.oosWrite

theorem Dev.Legal.voteCfgWrite {v : W64} (h : s.Legal vt) :
    (s.voteCfgWrite v).Legal vt := .ite h.refuseWr h.fwdWrite

theorem Dev.Legal.modeCfgWrite {v : W64} (h : s.Legal vt) : (s.modeCfgWrite v).Legal vt :=
  .ite h.refuseMode (.ite h.fwdWrite h.refuseWr.fwdWrite)

theorem Dev.Legal.gridWrite {on : Bool} (h : s.Legal vt) : (s.gridWrite on).Legal vt := h.modeCfgWrite

/-! ### Ring bring-up and repair (`Machine/RingUp`) -/

theorem Dev.Legal.atPort {q : RxPort} {f : Nat → Nat → Dev → Dev} {g : CPort → Cell → Cell} (h : s.Legal vt)
    (hf : ∀ n i t, Dev.Legal vt t → (f n i t).Legal vt) : (s.atPort q f g).Legal vt := by
  cases q with
  | pkg rd i => exact hf _ _ _ h
  | cell p y => exact h.modCell

theorem Dev.Legal.setPort {q : RxPort} {n : Nat} (h : s.Legal vt) : (s.setPort q n).Legal vt :=
  h.atPort fun _ _ _ h1 => h1.fset

theorem Dev.Legal.miswire {q : RxPort} {find other : Nat} (h : s.Legal vt) : (s.miswire q find other).Legal vt := by
  unfold Dev.miswire
  extract_lets +onlyGivenNames t1 t2
  have h1 : t1.Legal vt := h.setPort
  have h2 : t2.Legal vt := h1.atPort fun _ _ _ h3 => h3.fset.fset
  split
  · exact .ite h2 h2.rfset
  · exact h2

theorem Dev.Legal.takeRate {r : Nat} (h : s.Legal vt) : (s.takeRate r).Legal vt := .ite h h.rfset

theorem Dev.Legal.notDark {q : RxPort} (h : s.Legal vt) : (s.notDark q).Legal vt :=
  h.atPort fun _ _ _ h1 => .ite h1.fset h1

theorem Dev.Legal.detect {q : RxPort} {half miswired : Bool} (h : s.Legal vt) :
    (s.detect q half miswired).Legal vt := by
  unfold Dev.detect
  refine .ite h ?_
  extract_lets +onlyGivenNames t1 _
  have h1 : t1.Legal vt := by
    unfold t1
    split
    · exact h.takeRate
    · exact h.modCell
  exact .ite h1 (.ite h1.miswire (h1.notDark.setPort.atPort fun _ _ _ h2 => h2))

theorem Dev.Legal.blockLock {q : RxPort} (h : s.Legal vt) : (s.blockLock q).Legal vt := by
  unfold Dev.blockLock
  extract_lets +onlyGivenNames s1
  have h1 : s1.Legal vt := h.setPort.atPort fun _ _ _ ht => ht.fset
  clear_value s1
  split
  · split
    exact .ite h1.awake h1
  · exact h1

theorem Dev.Legal.addCut {r h' : Nat} {toB : Bool} (h : s.Legal vt) : (s.addCut r h' toB).Legal vt := by
  unfold Dev.addCut
  extract_lets +onlyGivenNames _
  refine .ite h ?_
  extract_lets +onlyGivenNames t1 t2
  have h1 : t1.Legal vt := h.setRing
  have h2 : t2.Legal vt := by
    unfold t2
    refine .ite h1 ?_
    split
    · rename_i t3 _ e4
      have h3 : t3.Legal vt := h1.event.of_fst e4
      exact .ite h3.modRing h3
  exact h2.showBreaks.turnEnds

theorem Dev.Legal.dropLock {q : RxPort} (h : s.Legal vt) : (s.dropLock q).Legal vt :=
  h.setPort.atPort fun _ _ _ h1 => (Dev.Legal.ite h1.finc h1).fset.modRd

theorem Dev.Legal.cellLaunch {p : Place} {y : CPort} {t : Int} (h : s.Legal vt) :
    (s.cellLaunch p y t).Legal vt := by
  unfold Dev.cellLaunch
  extract_lets +onlyGivenNames _ _ _ t1 _
  have h1 : t1.Legal vt := h.sendFrom
  split
  · exact .ite h1.modRing h1
  · exact h1

theorem Dev.Legal.splitLaunch {p : Place} {x' : CPort} (h : s.Legal vt) : (s.splitLaunch p x').Legal vt := by
  unfold Dev.splitLaunch
  extract_lets +onlyGivenNames _ t1 t2 _ t3
  have h1 : t1.Legal vt := by
    unfold t1
    split
    · exact h.setLine
    · exact h.newLine
  have h2 : t2.Legal vt := h1.modCell
  have h3 : t3.Legal vt := h2.cellLaunch
  exact h3.send

theorem Dev.Legal.darkLaunch {r : Nat} (h : s.Legal vt) : (s.darkLaunch r).Legal vt :=
  h.forAll fun _ _ h1 => h1.forAll fun _ _ h2 => .ite h2.splitLaunch h2

theorem Dev.Legal.loseLock {q : RxPort} (h : s.Legal vt) : (s.loseLock q).Legal vt := by
  unfold Dev.loseLock
  extract_lets +onlyGivenNames _
  refine .ite h ?_
  extract_lets +onlyGivenNames _ t1
  have h1 : t1.Legal vt := h.dropLock
  refine .ite h1 ?_
  split
  · split
    · exact h1.addCut
  · exact .ite h1.splitLaunch h1

theorem Dev.Legal.trainCount {q : RxPort} {ok : Bool} (h : s.Legal vt) : (s.trainCount q ok).2.Legal vt := by
  unfold Dev.trainCount
  split
  · extract_lets +onlyGivenNames _
    exact h.modRd
  · extract_lets +onlyGivenNames _ _
    exact h.modCell

theorem Dev.Legal.trainIn {q : RxPort} {pl : Payload} (h : s.Legal vt) : (s.trainIn q pl).Legal vt := by
  unfold Dev.trainIn
  extract_lets _
  split
  · split
    · exact h.miswire
    · exact h.trainCount.setPort
  · refine .ite ?_ h
    split
    rename_i s1 e
    have h1 : s1.Legal vt := h.trainCount.of_snd e
    refine .ite ?_ h1
    extract_lets s2
    have h2 : s2.Legal vt := h1.trainCount.setPort
    clear_value s2
    split
    · split
      exact h2.newLine
    · exact h2

theorem Dev.Legal.nameDark {r : Nat} (h : s.Legal vt) : (s.nameDark r).Legal vt :=
  (h.forAll fun _ _ h1 => .ite h1.fset h1).forAll fun _ _ h2 => h2.forAll fun _ _ h3 => .ite h3.modCell h3

theorem Dev.Legal.ringDown {r : Nat} (h : s.Legal vt) : (s.ringDown r).Legal vt := h.setRing.rfset.showBreaks.rfset

theorem Dev.Legal.enumStart {r : Nat} (h : s.Legal vt) : (s.enumStart r).Legal vt :=
  .ite h (have h1 := h.setRing.rfset; (Dev.Legal.ite h1 h1.nameDark).darkLaunch.forAll fun _ _ h2 => h2.send)

theorem Dev.Legal.queryAtEnd {rd i : Nat} {pl : Payload} (h : s.Legal vt) : (s.queryAtEnd rd i pl).Legal vt := by
  unfold Dev.queryAtEnd
  split
  · exact .ite h (have h1 := h.fset.fset.ringDown; .ite h1.fset.fset.ringDown h1)

theorem Dev.Legal.capsReport {r : Nat} {e : End} {pl : Payload} (h : s.Legal vt) :
    (s.capsReport r e pl).Legal vt := by
  unfold Dev.capsReport
  refine .ite h ?_
  split
  · exact h
  · exact h.setRing

theorem Dev.Legal.measureStart {r : Nat} (h : s.Legal vt) : (s.measureStart r).Legal vt := by
  unfold Dev.measureStart
  split
  · exact .ite h (((h.modRing.rfset.rfset.forAll fun _ _ h1 => .ite h1 h1.report).forAll fun _ _ h2 =>
      h2.info).forAll fun _ _ h3 => .ite h3.send h3).darkLaunch

theorem Dev.Legal.endTime {r : Nat} {e : End} {sub id : Nat} (h : s.Legal vt) :
    (s.endTime r e sub id).Legal vt := by
  unfold Dev.endTime
  extract_lets +onlyGivenNames _ _
  refine .ite h ?_
  split
  · exact h.sendFrom
  · extract_lets +onlyGivenNames t1
    have h1 : t1.Legal vt := .ite h.measureStart h
    exact .ite h1 h1.send
  · split
    · exact h
    · exact h.send
  · exact h

theorem Dev.Legal.timeEcho {r : Nat} {e : End} {pl : Payload} {roundTrip : Nat} (h : s.Legal vt) :
    (s.timeEcho r e pl roundTrip).Legal vt := by
  unfold Dev.timeEcho
  extract_lets +onlyGivenNames _
  split
  · exact h
  · exact .ite h (have h1 := h.setRing.modCell; .ite h1.pathChange h1)

theorem Dev.Legal.slcvFrom {w : Mem} {id : Nat} (h : s.Legal vt) : (s.slcvFrom w id).Legal vt := by
  unfold Dev.slcvFrom
  split
  · exact h.ownWrite.ownWrite
  · exact h

theorem Dev.Legal.slcvParams {id : Nat} (h : s.Legal vt) : (s.slcvParams id).Legal vt := .ite h.slcvFrom h

theorem Dev.Legal.armCell {p : Place} (h : s.Legal vt) : (s.armCell p).Legal vt := h.ownWrite.ownWrite

theorem Dev.Legal.enumFirst {id : Nat} {e : Enum} (h : s.Legal vt) : (s.enumFirst id e).Legal vt := by
  unfold Dev.enumFirst
  extract_lets +onlyGivenNames _ t1 t2
  have h1 : t1.Legal vt := h.setCend
  have h2 : t2.Legal vt := h1.fset
  split
  · exact h2.ownWrite
  · exact h2

theorem Dev.Legal.enumRest {id : Nat} {e : Enum} (h : s.Legal vt) : (s.enumRest id e).Legal vt := by
  unfold Dev.enumRest
  extract_lets +onlyGivenNames t1
  have h1 : t1.Legal vt := h.refold.slcvParams
  split
  · exact h1
  · extract_lets +onlyGivenNames t2 t3 t4
    have h2 : t2.Legal vt := .ite h1.fset h1
    have h3 : t3.Legal vt := .ite h2.modCell h2
    have h4 : t4.Legal vt := h3.penWrite
    exact .ite h4 (have h5 := h4.cellStreams; .ite h5.armCell h5)

theorem Dev.Legal.admitRing {r : Nat} (h : s.Legal vt) : (s.admitRing r).Legal vt := by
  unfold Dev.admitRing
  extract_lets +onlyGivenNames t1
  have h1 : t1.Legal vt := h.rfset
  split
  · exact h1.setMins
  · exact h1
  · exact h1.rfset

theorem Dev.Legal.ringUp {r : Nat} (h : s.Legal vt) : (s.ringUp r).Legal vt := by
  unfold Dev.ringUp
  refine .ite h ?_
  extract_lets x cuts s1 s2 s3 _ s4 s5 s6 s7 s8 s9
  have h1 : s3.Legal vt := h.safe.setRing.rfset.rfset
  have h2 : s4.Legal vt := h1.nv rfl
  have h3 : s6.Legal vt := h2.showBreaks.rfset.forAll fun _ _ ht => ht.enumFirst
  have h4 : s8.Legal vt := h3.admitRing.showPath.newSlots
  have h5 : s9.Legal vt := h4.forAll fun _ _ ht => ht.enumRest
  exact h5.twinShow.recheckStreams

theorem Dev.Legal.capsNotice {r : Nat} {e : End} {pl : Payload} (h : s.Legal vt) :
    (s.capsNotice r e pl).Legal vt := by
  unfold Dev.capsNotice
  extract_lets +onlyGivenNames _
  refine .ite h ?_
  split
  · exact h
  · extract_lets +onlyGivenNames _ _
    split
    · exact h.addCut
    · exact .ite h.setRing h
    · exact h

theorem Dev.Legal.ringRepair {r h' : Nat} (h : s.Legal vt) : (s.ringRepair r h').Legal vt := by
  unfold Dev.ringRepair
  extract_lets +onlyGivenNames _
  split
  · exact h
  · refine .ite h ?_
    extract_lets +onlyGivenNames t1
    have h1 : t1.Legal vt := h.setRing
    split
    · refine .ite h.rfset.report ?_
      extract_lets +onlyGivenNames t2 _
      have h2 : t2.Legal vt := by
        unfold t2
        split
        · exact h1.setMins
        · exact h1
      exact h2.newSlots.modRing

/-! ### Record and legacy window (`Machine/Record`) -/

theorem Dev.Legal.arm (h : s.Legal vt) : s.arm.Legal vt := by
  unfold Dev.arm
  refine .ite ?_ h.refuseWr
  extract_lets +onlyGivenNames t1 t2 t3
  have h1 : t1.Legal vt := h.fset.fwrap
  have h2 : t2.Legal vt := h1.rcd
  have h3 : t3.Legal vt := by
    unfold t3
    refine Dev.Legal.forAll ?_ fun _ _ h4 => ?_
    · exact h2
    · split
      · exact h4.armCell
      · exact h4
  exact h3.modAq

theorem Dev.Legal.recFire (h : s.Legal vt) : s.recFire.Legal vt := h.rcd

theorem Dev.Legal.recAbort (h : s.Legal vt) : s.recAbort.Legal vt := by
  unfold Dev.recAbort
  extract_lets +onlyGivenNames t1 t2
  have h1 : t1.Legal vt := h.fset.rcd
  have h2 : t2.Legal vt := by
    unfold t2
    refine Dev.Legal.forAll ?_ fun _ _ h3 => ?_
    · exact h1
    · split
      · exact h3.ownWrite
      · exact h3
  exact h2.modAq

theorem Dev.Legal.recCtlWrite {v : W64} (h : s.Legal vt) : (s.recCtlWrite v).Legal vt :=
  have h1 := Dev.Legal.ite h.arm h
  have h2 := Dev.Legal.ite h1.recFire h1
  .ite h2.recAbort h2

theorem Dev.Legal.triggerDecision (h : s.Legal vt) : s.triggerDecision.Legal vt := by
  unfold Dev.triggerDecision
  split
  · exact h.comeTo.fset.fset.rcd
  · exact h

theorem Dev.Legal.aqNotice (h : s.Legal vt) : s.aqNotice.Legal vt := .ite h h.modAq

theorem Dev.Legal.aqFreeze {t : Nat} (h : s.Legal vt) : (s.aqFreeze t).Legal vt := h.modAq

theorem Dev.Legal.recPacket {n : Nat} {l : List Byte} (h : s.Legal vt) : (s.recPacket n l).Legal vt := h.fifoPush

theorem Dev.Legal.recDone {id : Nat} (h : s.Legal vt) : (s.recDone id).Legal vt := h.rcd

theorem Dev.Legal.recGone {r : Nat} (h : s.Legal vt) : (s.recGone r).Legal vt := .ite h.recDone h

theorem Dev.Legal.fetchCell {id : Nat} (h : s.Legal vt) : (s.fetchCell id).Legal vt := by
  unfold Dev.fetchCell
  extract_lets +onlyGivenNames _ t1
  have h1 : t1.Legal vt := h.rcd
  split
  · exact .ite (have h2 := h1.recPacket.ownWrite; .ite h2.recDone h2) h1.recPacket.recDone
  · exact h1.recPacket.recDone

theorem Dev.Legal.aqSend {l : List (List Byte)} (h : s.Legal vt) : (s.aqSend l).1.Legal vt := by
  induction l generalizing s with
  | nil => exact h
  | cons a l ih =>
    unfold Dev.aqSend
    split
    · exact h
    · exact ih h.recPacket.modAq

theorem Dev.Legal.fetchAq (h : s.Legal vt) : s.fetchAq.Legal vt := by
  unfold Dev.fetchAq
  extract_lets +onlyGivenNames _
  split
  · exact h.recDone
  · split
    · rename_i t1 _ e2
      have h1 : t1.Legal vt := h.aqSend.of_fst e2
      exact .ite (have h2 := h1.modAq.rcd; .ite h2 h2.recDone) h1

theorem Dev.Legal.recordIn {r : Nat} {e : End} {pl : Payload} {h' : Rx} (h : s.Legal vt) :
    (s.recordIn r e pl h').Legal vt := by
  unfold Dev.recordIn
  extract_lets +onlyGivenNames _ t1 _ _
  have h1 : t1.Legal vt := h.endRx
  refine .ite h1 ?_
  extract_lets +onlyGivenNames _ _
  split
  · extract_lets +onlyGivenNames t2
    have h2 : t2.Legal vt := h1.recPacket.rcd
    split
    · exact .ite h2.recDone h2
    · exact h2
  · refine .ite h1 ?_
    split
    · exact h1.ownWrite
    · exact h1

theorem Dev.Legal.legacyWrite {ofs : Nat} {v : W16} {width : Nat} {fin : Bool} (h : s.Legal vt) :
    (s.legacyWrite ofs v width fin).Legal vt :=
  .ite h.finc (.ite h.finc.leg (.ite h.leg h.leg))

/-! ### Twin pair and referee (`Machine/Twin`) -/

theorem Dev.Legal.setRefPkg {p : Nat} {x' : RefPkg} (h : s.Legal vt) : (s.setRefPkg p x').Legal vt := h.tw

theorem Dev.Legal.grantPkg {p : Nat} (h : s.Legal vt) : (s.grantPkg p).Legal vt :=
  h.tw.emit.emit.forAll fun _ _ h1 => h1.emit

theorem Dev.Legal.refDecide {from_ : Nat} (h : s.Legal vt) : (s.refDecide from_).Legal vt := by
  unfold Dev.refDecide
  split <;> exact .ite h.grantPkg h

theorem Dev.Legal.dutyBegins (h : s.Legal vt) :
    s.dutyBegins.Legal vt := .ite (have h1 := h.tw; .ite h1.softDuty h1) h

theorem Dev.Legal.takeDuty (h : s.Legal vt) : s.takeDuty.Legal vt := h.crk.dutyBegins

theorem Dev.Legal.loseDuty (h : s.Legal vt) : s.loseDuty.Legal vt := h.pin.setCrook

theorem Dev.Legal.refereeLine {level : Bool} (h : s.Legal vt) : (s.refereeLine level).Legal vt :=
  .ite h (have h1 := h.pin.fset.fset.irq; .ite h1.takeDuty h1.loseDuty)

theorem Dev.Legal.goodFrame {n t : Nat} (h : s.Legal vt) : (s.goodFrame n t).Legal vt :=
  have h1 := h.modRd
  .ite h1.fset h1

theorem Dev.Legal.handReq (h : s.Legal vt) : s.handReq.Legal vt := .ite h (.ite h.fset.tw h.fset)

theorem Dev.Legal.linkChange (h : s.Legal vt) :
    s.linkChange.Legal vt := h.twinShow.forAll fun _ _ h1 => h1.pathChange

theorem Dev.Legal.setTlink {x' roundTrip : Nat} (h : s.Legal vt) :
    (s.setTlink x' roundTrip).Legal vt := h.tw.linkChange

theorem Dev.Legal.directUp {x' roundTrip : Nat} (h : s.Legal vt) : (s.directUp x' roundTrip).Legal vt :=
  h.fset.fset.setTlink

theorem Dev.Legal.directDown {x' : Nat} (h : s.Legal vt) : (s.directDown x').Legal vt :=
  h.fset.fset.report.linkChange.pendEnd.fset

theorem Dev.Legal.refLinkDown (h : s.Legal vt) : s.refLinkDown.Legal vt := h.fset.fset.modRd.report

theorem Dev.Legal.compareRelayed {k : Nat} {pl : Payload} (h : s.Legal vt) : (s.compareRelayed k pl).Legal vt := by
  unfold Dev.compareRelayed
  extract_lets +onlyGivenNames _ _
  refine .ite h ?_
  extract_lets +onlyGivenNames t1
  have h1 : t1.Legal vt := h.tw
  split
  · exact .ite h1.finc h1
  · exact h1

theorem Dev.Legal.relayedIn {r : Nat} {pl : Payload} (h : s.Legal vt) : (s.relayedIn r pl).Legal vt := by
  unfold Dev.relayedIn
  split
  · exact h
  · extract_lets +onlyGivenNames t1 _
    have h1 : t1.Legal vt := h.compareRelayed
    exact .ite h1.sendFrom h1

theorem Dev.Legal.mirrorBlock {seq : W16} {index : Nat} {b : Blk} (h : s.Legal vt) :
    (s.mirrorBlock seq index b).Legal vt :=
  .ite h.tw (.ite h.tw h)

theorem Dev.Legal.forwardedIn {a : Nat} {v : W64} {eff : W16} (h : s.Legal vt) : (s.forwardedIn a v eff).Legal vt :=
  .ite h.cfgAccept (Dev.Legal.ite h.fset h).tw

/-! ### Loss of a die (`Machine/Die`) -/

theorem Dev.Legal.eraseWin {d : Nat} (h : s.Legal vt) : (s.eraseWin d).Legal vt := h.drop

theorem Dev.Legal.tagsLost {n : Nat} (h : s.Legal vt) : (s.tagsLost n).Legal vt :=
  h.modRd.forAll fun _ _ h1 => h1.deliverTxn

theorem Dev.Legal.endsLost {n : Nat} (h : s.Legal vt) : (s.endsLost n).Legal vt :=
  .ite (h.forAll fun _ _ h1 => h1.ringDown) (h.forAll fun _ _ h2 => h2.forAll fun _ _ h3 => .ite h3.addCut.addCut
    h3)

theorem Dev.Legal.linksLost {n : Nat} (h : s.Legal vt) : (s.linksLost n).Legal vt :=
  .ite h (have h1 := Dev.Legal.ite h.fset.report.linkChange h; (Dev.Legal.ite h1.fset h1).fset)

theorem Dev.Legal.dieLost {d : Nat} (h : s.Legal vt) : (s.dieLost d).Legal vt :=
  .ite (h.setCd CtrlDie.legal_reset).eraseWin (.ite h.tagsLost.endsLost.linksLost.setRd.eraseWin
    (.ite h.aq.eraseWin h))

theorem Dev.Legal.dieDown {d state : Nat} (h : s.Legal vt) : (s.dieDown d state).Legal vt :=
  h.fset.fset.fset.dieLost.laneOff

/-! ### Images (`Machine/Images`) -/

theorem Dev.Legal.imageRefused {n : Nat} (h : s.Legal vt) : (s.imageRefused n).Legal vt := (h.nv rfl).fset

theorem Store.wfFrom_moved {α : Type} [DecidableEq α] {z : α} {a b : Nat} {m : Store α} {lo : Nat}
    (w : Store.wfFrom (fun _ => z) lo m = true) (ha : ∀ e ∈ m, a ≤ e.1) :
    Store.wfFrom (fun _ => z) (lo - a + b) (m.map fun e => (e.1 - a + b, e.2)) = true := by
  induction m generalizing lo with
  | nil => rfl
  | cons e m ih =>
    simp only [Store.wfFrom, List.map_cons, Bool.and_eq_true, decide_eq_true_eq] at w ⊢
    have he := ha e List.mem_cons_self
    have rest := ih w.2 fun e' h' => ha e' (List.mem_cons_of_mem _ h')
    exact ⟨⟨by omega, w.1.2⟩, Store.wfFrom_le _ (by omega) rest⟩

/-- A part of a memory moved elsewhere keeps the canonical form. -/
theorem Mem.wf_moved {m : Mem} (a n b : Nat) (w : m.wf = true) : (m.moved a n b).wf = true := by
  refine Store.wfFrom_le Mem.dflt (Nat.zero_le _)
    (Store.wfFrom_moved (Store.wfFrom_filter Mem.dflt 0 _ w) fun e he => ?_)
  simp only [List.mem_filter, Bool.and_eq_true, decide_eq_true_eq] at he
  exact he.2.1

theorem CtrlDie.Legal.loaded {m : Mem} {n : Nat} (w : m.wf = true) : (c.loaded m n).Legal := Mem.wf_moved _ _ _ w

theorem Store.get_of_all {α : Type} {dflt : Nat → α} {P : α → Bool} {m : Store α} (k : Nat) (hd : P (dflt k) = true)
    (h : m.all (fun e => P e.2) = true) : P (Store.get dflt m k) = true := by
  induction m with
  | nil => exact hd
  | cons e m ih =>
    simp only [List.all_cons, Bool.and_eq_true] at h
    unfold Store.get
    split
    · exact h.1
    · exact ih h.2

theorem Store.all_erase {α : Type} {P : α → Bool} {m : Store α} (k : Nat) (h : m.all (fun e => P e.2) = true) :
    (Store.erase m k).all (fun e => P e.2) = true := by
  induction m with
  | nil => rfl
  | cons e m ih =>
    simp only [List.all_cons, Bool.and_eq_true] at h
    unfold Store.erase
    split
    · exact ih h.2
    · simp only [List.all_cons, Bool.and_eq_true]
      exact ⟨h.1, ih h.2⟩

theorem Store.all_insert {α : Type} {P : α → Bool} {m : Store α} (k : Nat) {a : α} (ha : P a = true)
    (h : m.all (fun e => P e.2) = true) : (Store.insert m k a).all (fun e => P e.2) = true := by
  induction m with
  | nil => simpa [Store.insert] using ha
  | cons e m ih =>
    simp only [List.all_cons, Bool.and_eq_true] at h
    unfold Store.insert
    split
    · simp only [List.all_cons, Bool.and_eq_true]
      exact ⟨ha, h⟩
    · split
      · simp only [List.all_cons, Bool.and_eq_true]
        exact ⟨ha, h.2⟩
      · simp only [List.all_cons, Bool.and_eq_true]
        exact ⟨h.1, ih h.2⟩

theorem Store.all_set {α : Type} [DecidableEq α] {dflt : Nat → α} {P : α → Bool} {m : Store α} (k : Nat) {a : α}
    (ha : P a = true)
    (h : m.all (fun e => P e.2) = true) : (Store.set dflt m k a).all (fun e => P e.2) = true := by
  unfold Store.set
  split
  · exact Store.all_erase k h
  · exact Store.all_insert k ha h

theorem Dev.Legal.slotMem {n : Nat} (h : s.Legal vt) : (s.slotMem n).wf = true := by
  obtain ⟨⟨-, -, -, -, -, hn⟩, -⟩ := (Dev.legal_iff vt s).1 h
  exact Store.get_of_all (P := Mem.wf) n rfl hn

/-- Boot memory with one image replaced by a canonical one. -/
theorem Dev.Legal.nvImg {y : BootMem} {n : Nat} {m : Mem} (h : s.Legal vt) (w : m.wf = true)
    (e : y.img = Store.set (fun _ => []) s.nv.img n m) : Dev.Legal vt { s with nv := y } := by
  rw [Dev.legal_iff] at h ⊢
  obtain ⟨⟨hr, hc, hg, he, hcd, hn⟩, hv⟩ := h
  have hm : y.img.all (fun e => e.2.wf) = true := e ▸ Store.all_set (P := Mem.wf) n w hn
  exact ⟨⟨hr, hc, hg, he, hcd, hm⟩, hv⟩

theorem Dev.Legal.loadDie {d n : Nat} (h : s.Legal vt) : (s.loadDie d n).Legal vt := by
  unfold Dev.loadDie
  extract_lets m s1 s2 s3
  have h1 : s1.Legal vt := (h.modCd fun _ _ => .loaded h.slotMem).fset.tickStart
  have h2 : s2.Legal vt := h1.applyService.applyService.resched
  have h3 : s3.Legal vt := .ite h2 h2.laneLeave
  exact h3.info

theorem Dev.Legal.imgWhy {w : Nat} (h : s.Legal vt) : (s.imgWhy w).Legal vt := h.fset

theorem Dev.Legal.imgBusy {op n : Nat} (h : s.Legal vt) : (s.imgBusy op n).Legal vt := h.fset.img

theorem Dev.Legal.imgErase {n : Nat} (h : s.Legal vt) : (s.imgErase n).Legal vt := by
  unfold Dev.imgErase
  extract_lets s1 _ s2
  have h1 : s1.Legal vt := h.fset
  have h2 : s2.Legal vt := h1.nvImg (n := n) (m := []) (Store.wf_nil _) rfl
  exact .ite h1.imgWhy (.ite h1.imgWhy h2.fset.imgBusy.img)

theorem Dev.Legal.imgData {v : W64} (h : s.Legal vt) : (s.imgData v).Legal vt := by
  unfold Dev.imgData
  split
  · exact h
  · refine .ite h.imgWhy.img (.ite h.imgWhy.img ?_)
    exact (h.nvImg (Mem.wf_writeLE _ 8 _ h.slotMem) rfl).fset

theorem Dev.Legal.imgFinish (h : s.Legal vt) : s.imgFinish.Legal vt := by
  unfold Dev.imgFinish
  refine .ite h.imgWhy ?_
  split
  · exact h
  · exact h.imgBusy

theorem Dev.Legal.loadStart {n : Nat} {dies : List Nat} {good : Bool} (h : s.Legal vt) :
    (s.loadStart n dies good).Legal vt :=
  (h.forAll fun _ _ h1 => (Dev.Legal.ite h1.planned h1).fset).imgBusy.img

theorem Dev.Legal.imgLoad {n dies : Nat} (h : s.Legal vt) : (s.imgLoad n dies).Legal vt :=
  have h1 := h.fset
  .ite h1 (.ite h1.imgWhy (.ite h1.imgWhy.imageRefused
    (.ite (have h2 := h1.imgWhy.imageRefused; .ite h2 h2.loadStart) (.ite h1.imgWhy.refuseWr h1.loadStart))))

theorem Dev.Legal.finishEnd {n : Nat} (h : s.Legal vt) : (s.finishEnd n).Legal vt :=
  .ite (h.img.nvImg (Store.wfFrom_filter Mem.dflt 0 _ h.slotMem) rfl) h.img.imgWhy

theorem Dev.Legal.loadEnd {n : Nat} {ok : BitVec 4} (h : s.Legal vt) : (s.loadEnd n ok).Legal vt :=
  h.forAll fun _ _ h1 => .ite h1.loadDie h1.dieDown

theorem Dev.Legal.imgEnd {ok : BitVec 4} (h : s.Legal vt) : (s.imgEnd ok).Legal vt := by
  unfold Dev.imgEnd
  refine .ite h ?_
  extract_lets +onlyGivenNames _ t1
  have h1 : t1.Legal vt := by
    unfold t1
    split
    · exact h.finishEnd
    · exact h.loadEnd
    · exact h
  exact h1.fset.img.irq

theorem Dev.Legal.bootRetry (h : s.Legal vt) : s.bootRetry.Legal vt := h.nv rfl

/-! ### Safety channel (`Machine/Safety`) -/

theorem Dev.Legal.sendBlocks (h : s.Legal vt) : s.sendBlocks.Legal vt := (h.forAll fun _ _ h1 => h1.send).safe

theorem Dev.Legal.blockStart (h : s.Legal vt) : s.blockStart.Legal vt := (Dev.Legal.ite h h.safe).safe.sendBlocks

theorem Dev.Legal.safeAct {fn convs : Nat} (h : s.Legal vt) : (s.safeAct fn convs).Legal vt :=
  .ite h (have h1 := h.finc.fset.fset; have h2 := (Dev.Legal.ite h1 h1.irq).blockStart.vote.autoMode;
    .ite h2.recLearn h2)

theorem Dev.Legal.diagSet {n : Nat} {cls : Cls} (h : s.Legal vt) : (s.diagSet n cls).Legal vt :=
  have h1 := h.safe
  .ite h1 h1.fset.irq.report

theorem Dev.Legal.diagOver {n : Nat} (h : s.Legal vt) : (s.diagOver n).Legal vt := h.safe

theorem Dev.Legal.diagClear {v : W64} (h : s.Legal vt) : (s.diagClear v).Legal vt := h.fset

theorem Dev.Legal.setPins {v : BitVec 2} (h : s.Legal vt) : (s.setPins v).Legal vt :=
  have h1 := h.pin
  .ite h1 h1.diagOver

theorem Dev.Legal.safeReq {pin : Nat} (h : s.Legal vt) : (s.safeReq pin).Legal vt := h.setPins.safeAct

theorem Dev.Legal.showSrc {w : Mem} {i : Nat} (h : s.Legal vt) : (s.showSrc w i).Legal vt := by
  unfold Dev.showSrc
  split
  · exact h.fset.fset.fset
  · exact h.fset.fset

theorem Dev.Legal.noteRaw {k id : Nat} {b : Blk} (h : s.Legal vt) : (s.noteRaw k id b).Legal vt := by
  unfold Dev.noteRaw
  extract_lets +onlyGivenNames _
  split
  · exact h.safe

theorem Dev.Legal.showLeg {w : Mem} {k l : Nat} (h : s.Legal vt) : (s.showLeg w k l).Legal vt := .ite h.fset.fset h

theorem Dev.Legal.sampleCount {i : Nat} {o : Option Bool} (h : s.Legal vt) : (s.sampleCount i o).Legal vt := by
  unfold Dev.sampleCount
  split
  · exact h
  · exact h.safe

theorem Dev.Legal.slc {w : Mem} {j : Nat} (h : s.Legal vt) : (s.slc w j).Legal vt := by
  unfold Dev.slc
  refine .ite h ?_
  extract_lets _ _ _ a b s1 s2
  have h1 : s1.Legal vt := h.sampleCount.sampleCount
  have h2 : s2.Legal vt := .ite h1.safeAct h1
  clear_value a b
  cases a <;> cases b
  case none.none => exact h2.diagSet.safeAct
  case some.some => exact .ite h2.diagSet.safeAct h2
  all_goals exact h2

theorem Dev.Legal.slv {w : Mem} {k l : Nat} (h : s.Legal vt) : (s.slv w k l).Legal vt :=
  .ite h (have h1 := h.sampleCount; .ite h1.safeAct h1)

theorem Dev.Legal.sld {w : Mem} {k c : Nat} (h : s.Legal vt) : (s.sld w k c).Legal vt :=
  .ite h (have h1 := h.sampleCount; .ite h1.safeAct h1)

theorem Dev.Legal.safeState {k : Nat} (h : s.Legal vt) : (s.safeState k).Legal vt := .ite h.fset h

theorem Dev.Legal.safeTimeout (h : s.Legal vt) : s.safeTimeout.Legal vt := .ite h.safe.report h

theorem Dev.Legal.evaluate {k : Nat} (h : s.Legal vt) : (s.evaluate k).Legal vt :=
  have h1 := h.safe.forAll fun _ _ h2 => .ite h2.noteRaw h2
  have h3 := (Dev.Legal.ite h1.diagSet h1.diagOver).safeState
  .ite h3 (((((h3.forAll fun _ _ h4 => h4.showSrc).forAll fun _ _ h5 => h5.showLeg).diagOver.diagOver.forAll
    fun _ _ h6 => h6.slc).forAll fun _ _ h7 => h7.slv).forAll fun _ _ h8 => h8.sld)

theorem Dev.Legal.safeReset (h : s.Legal vt) : s.safeReset.Legal vt :=
  have h1 := h.fset
  .ite h1 h1.fset.fset.safe

theorem Dev.Legal.safeDataWrite {w : Nat} {v : W64} (h : s.Legal vt) : (s.safeDataWrite w v).Legal vt :=
  .ite h.rset.fset h.refuseWr

theorem Dev.Legal.safeCommit (h : s.Legal vt) : s.safeCommit.Legal vt := by
  unfold Dev.safeCommit
  refine .ite h.refuseWr (.ite h.fset ?_)
  extract_lets _ s1 s2
  have h1 : s1.Legal vt := h.nv rfl
  have h2 : s2.Legal vt := h1.fset.safe
  exact h2.forAll fun _ _ ht => ht.slcvFrom

theorem Dev.Legal.safeConfirm {v : W32} (h : s.Legal vt) : (s.safeConfirm v).Legal vt := h.fset.nv rfl

theorem Dev.Legal.fltCfgWrite {v : W64} (h : s.Legal vt) :
    (s.fltCfgWrite v).Legal vt := .ite h.plainWrite h.refuseWr

theorem Dev.Legal.blockTest {r : Nat} {e : End} {arrived : Bool} (h : s.Legal vt) :
    (s.blockTest r e arrived).Legal vt :=
  .ite h (have h1 := h.safe.rfset; .ite h1.diagOver (.ite h1 h1.diagSet))

/-! ### Fatal faults and resets (`Machine/Power`) -/

/-- The registers, the rings, the cell ends and the control dies are as after reset; boot memory and the cells stay. -/
theorem Dev.Legal.powerless (h : s.Legal vt) : s.powerless.Legal vt := by
  rw [Dev.legal_iff] at h ⊢
  obtain ⟨⟨-, hc, -, -, -, hn⟩, hv⟩ := h
  exact ⟨⟨rfl, hc, rfl, rfl, ⟨rfl, rfl, rfl, rfl⟩, hn⟩, hv⟩

theorem Dev.Legal.packageFatal (h : s.Legal vt) : s.packageFatal.Legal vt :=
  (Dev.Legal.ite h ((Dev.Legal.ite h h.safe).forAll fun _ _ h1 => h1.send)).powerless.fset

theorem Dev.Legal.fatal {d cause : Nat} (h : s.Legal vt) : (s.fatal d cause).Legal vt :=
  .ite h (.ite h.packageFatal (have h1 := h.logWith.finc.fset.finc;
    have h2 := (Dev.Legal.ite h1 h1.pin).dieLost.fset.fset.fset; have h3 := Dev.Legal.ite h2.fset.fset h2.fset.fset;
    .ite h3.packageFatal h3))

theorem Dev.Legal.cycleOn {d : Nat} (h : s.Legal vt) : (s.cycleOn d).Legal vt := .ite h.fset h

theorem Dev.Legal.leaveDown {d : Nat} (h : s.Legal vt) : (s.leaveDown d).Legal vt := h.fset.fset.fset.fset.fset

theorem Dev.Legal.revive {d : Nat} (h : s.Legal vt) : (s.revive d).Legal vt := .ite h.fset.fset.fset.fset h

theorem Dev.Legal.copyRings {n : Nat} (h : s.Legal vt) : (s.copyRings n).Legal vt :=
  h.forAll fun _ _ h1 => h1.forAll fun _ _ h2 => h2.rset

theorem Dev.Legal.startTime {d : Nat} (h : s.Legal vt) : (s.startTime d).Legal vt :=
  .ite h.modRd (.ite h.modRd (.ite h.aq h))

theorem Dev.Legal.dieUp {d : Nat} (h : s.Legal vt) : (s.dieUp d).Legal vt := h.fset.fset.fset.startTime

theorem Dev.Legal.dieBack {d : Nat} {pass : Bool} (h : s.Legal vt) : (s.dieBack d pass).Legal vt := by
  unfold Dev.dieBack
  extract_lets +onlyGivenNames t1 t2
  have h1 : t1.Legal vt := h.fset
  have h2 : t2.Legal vt := h1.info
  refine .ite h2.fset.dieDown ?_
  extract_lets +onlyGivenNames t3
  have h3 : t3.Legal vt := h2.dieUp
  refine .ite ?_ (.ite h3.copyRings h3)
  split
  · exact h3.loadDie
  · exact h3

theorem Dev.Legal.powerUp {pg : Byte} (h : s.Legal vt) : (s.powerUp pg).Legal vt :=
  .ite h (h.pin.forAll fun _ _ h1 => h1.fset.fset.fset).clk

theorem Dev.Legal.keepPower {old : Dev} {d : Nat} (h : s.Legal vt) : (s.keepPower old d).Legal vt :=
  h.fset.fset.fset.fset.fset.fset.fset

theorem Dev.Legal.resetAssert (h : s.Legal vt) : s.resetAssert.Legal vt :=
  h.powerless.flt.fset.pin.clk.forAll fun _ _ h1 => h1.keepPower

theorem Dev.Legal.pcieReset (h : s.Legal vt) : s.pcieReset.Legal vt := h.drop.pin

/-! ### Start-up (`Machine/Startup`) -/

theorem Dev.Legal.nextAlts (h : s.Legal vt) : s.nextAlts.Legal vt := by
  unfold Dev.nextAlts
  refine .ite (h.nv rfl) ?_
  split
  · exact h
  · refine .ite h (h.forAll fun t _ ht => ?_)
    split
    exact .ite (ht.nv rfl) ht

theorem Dev.Legal.writeBoot {b : Boot} (h : s.Legal vt) :
    (s.writeBoot b).Legal vt := h.fset.fset.fset.fset.fset.nv rfl

theorem Dev.Legal.bootPower {b : Boot} {ok : Byte} {pg : Bool} (h : s.Legal vt) :
    (s.bootPower b ok pg).1.Legal vt := by
  unfold Dev.bootPower
  extract_lets +onlyGivenNames _ _ t1
  have h1 : t1.Legal vt := .ite (h.forAll fun _ _ h2 => h2.fset) h
  exact h1.forAll fun _ _ h3 => h3.dieDown

theorem Dev.Legal.bootTrim {b : Boot} {env : StartEnv} (h : s.Legal vt) : (s.bootTrim b env).1.Legal vt := by
  unfold Dev.bootTrim
  extract_lets +onlyGivenNames _ _ _ t1 t2
  have h1 : t1.Legal vt := h.forAll fun _ _ h2 => h2.dieDown
  have h3 : t2.Legal vt := h1.forAll fun _ _ h4 => h4.dieUp
  exact h3

theorem Dev.Legal.bootRings {b : Boot} {env : StartEnv} (h : s.Legal vt) : (s.bootRings b env).1.Legal vt := by
  unfold Dev.bootRings
  extract_lets +onlyGivenNames _ _ _ t1 t2 t3
  have h1 : t1.Legal vt := h.forAll fun _ _ h2 => h2.dieDown
  have h3 : t2.Legal vt := h1.forAll fun _ _ h4 => h4.dieUp
  have h5 : t3.Legal vt := h3.tly
  exact h5

theorem Dev.Legal.bootEnum {b : Boot} {env : StartEnv} (h : s.Legal vt) : (s.bootEnum b env).1.Legal vt := by
  unfold Dev.bootEnum
  extract_lets +onlyGivenNames _ _ _ _ _ _ t1 t2 _
  have h1 : t1.Legal vt := h.forAll fun _ _ h2 => .ite h2.rfset h2.rfset
  have h3 : t2.Legal vt := h1.forAll fun _ _ h4 => h4.forAll fun _ _ h5 => .ite h5.fset h5
  exact h3.setMode

theorem Dev.Legal.bootTime {b : Boot} {env : StartEnv} (h : s.Legal vt) : (s.bootTime b env).1.Legal vt := by
  unfold Dev.bootTime
  split
  · exact h
  · split
    · exact h.setCrook.crookOffset
    · exact h

theorem Dev.Legal.bootLoad {b : Boot} {env : StartEnv} (h : s.Legal vt) : (s.bootLoad b env).1.Legal vt := by
  unfold Dev.bootLoad
  extract_lets t4 _ _ _ _ _ t5 _ _ _ t6 _ _ _ t7 _
  have h1 : t4.Legal vt := .ite h h.tw
  have h2 : t5.Legal vt := h1.forAll fun _ _ h3 => h3.dieDown
  have h4 : t6.Legal vt := .ite h2 h2.fset
  have h5 : t7.Legal vt := h4.forAll fun _ _ h6 => h6.dieDown
  split
  · exact h4.fset
  · extract_lets +onlyGivenNames t8
    have h7 : t8.Legal vt := h5.forAll fun _ _ h8 => h8.loadDie
    exact h7

theorem Dev.Legal.bootRole {env : StartEnv} (h : s.Legal vt) : (s.bootRole env).Legal vt :=
  have h1 := h.pin
  .ite (h1.forAll fun _ _ h2 => .ite h2 h2.ringDown).fset.irq (.ite h1.fset.fset.irq.fset.setCrook h1)

theorem Dev.Legal.bootLanes {b : Boot} {env : StartEnv} (h : s.Legal vt) : (s.bootLanes b env).1.Legal vt := by
  unfold Dev.bootLanes
  extract_lets +onlyGivenNames t1
  have h1 : t1.Legal vt := h.bootRole
  split
  · exact h1
  · extract_lets +onlyGivenNames _ _ t2 t3 t4 _ t5 t6
    have h2 : t2.Legal vt := h1.forAll fun _ _ h3 => h3.commitMirror
    have h4 : t3.Legal vt := h2.admitLane.admitLane.admitLane
    have h5 : t4.Legal vt := h4.forAll fun _ _ h6 => h6.openGate
    have h7 : t5.Legal vt := h5.forAll fun _ _ h8 => h8.retireLane
    have h9 : t6.Legal vt := .ite h7.md h7
    split <;> exact h9

theorem Dev.Legal.bootSafety {b : Boot} (h : s.Legal vt) : (s.bootSafety b).1.Legal vt := by
  unfold Dev.bootSafety
  extract_lets +onlyGivenNames _
  split
  · extract_lets +onlyGivenNames t1
    have h1 : t1.Legal vt := h.safe.fset
    exact h1.forAll fun _ _ h2 => h2.slcvParams
  · exact h

theorem Dev.Legal.bootDone (h : s.Legal vt) : s.bootDone.Legal vt := h.fset.fset.irq

/-- The pattern by which the last steps of a start hand on the block and their record, said by projections. -/
theorem Dev.bootLate_match : @Dev.bootLate.match_1 (fun _ => Dev) = fun p f => f p.1 p.2 := by
  funext p f
  cases p
  rfl

/-- Rewriting the whole function, before it is applied, keeps the kernel from running the steps. -/
theorem Dev.Legal.bootLate {b : Boot} {env : StartEnv} (h : s.Legal vt) : (s.bootLate b env).Legal vt := by
  generalize e : Dev.bootLate = f
  delta Dev.bootLate at e
  rw [Dev.bootLate_match] at e
  subst e
  beta_reduce
  exact .ite h.bootRings.bootEnum.bootTime.bootLoad.bootLanes.writeBoot.bootDone
    h.bootRings.bootEnum.bootTime.bootLoad.bootLanes.bootSafety.writeBoot.bootDone

theorem Dev.Legal.bootPins {pins : BitVec 2} (h : s.Legal vt) : (s.bootPins pins).Legal vt :=
  have h1 := h.setPins
  .ite h1 h1.safeAct

theorem Dev.Legal.bootRun {env : StartEnv} (h : s.Legal vt) : (s.bootRun env).Legal vt := by
  unfold Dev.bootRun
  extract_lets +onlyGivenNames t1
  have h1 : t1.Legal vt := h.pin
  refine .ite h1.writeBoot ?_
  split
  · rename_i t2 _ e3
    have h2 : t2.Legal vt := h1.bootPower.of_fst e3
    split
    · rename_i t4 _ e5
      have h3 : t4.Legal vt := h2.bootPower.of_fst e5
      refine .ite h3.writeBoot.packageFatal ?_
      split
      · rename_i t6 _ e7
        have h4 : t6.Legal vt := h3.bootTrim.of_fst e7
        exact .ite h4.writeBoot.fset h4.fset.fset.bootPins.bootLate

theorem Dev.Legal.startup {env : StartEnv} (h : s.Legal vt) : (s.startup env).Legal vt := by
  unfold Dev.startup
  refine .ite h (Dev.Legal.bootRun (Dev.Legal.clk ?_))
  exact .ite h (h.nextAlts.nv rfl)

/-! ### Host port (`Machine/HostPort`) -/

theorem Dev.Legal.tuneWrite {v : W64} (h : s.Legal vt) : (s.tuneWrite v).Legal vt :=
  have h1 := h.plainWrite
  have h2 := Dev.Legal.ite h1.tuneSend h1
  .ite h2.tuneSend h2

theorem Dev.Legal.recCfgWrite {v : W64} (h : s.Legal vt) :
    (s.recCfgWrite v).Legal vt := .ite h.refuseWr h.plainWrite

theorem Dev.Legal.jumpWrite {v : W64} (h : s.Legal vt) : (s.jumpWrite v).Legal vt :=
  have h1 := Dev.Legal.ite h.acceptJump h
  .ite h1.hostStep h1

theorem Dev.Legal.bootCfgWrite {v : W64} (h : s.Legal vt) : (s.bootCfgWrite v).Legal vt :=
  .ite (h.nv rfl).bootRetry (h.nv rfl)

theorem Dev.Legal.safeCtlWrite {v : W64} (h : s.Legal vt) : (s.safeCtlWrite v).Legal vt :=
  have h1 := Dev.Legal.ite h.safeReset h
  .ite h1.safeCommit h1

theorem Dev.Legal.dbgCtlWrite {v : W64} (h : s.Legal vt) : (s.dbgCtlWrite v).Legal vt :=
  have h1 := Dev.Legal.ite h.openReq h
  .ite h1.debugClose h1

theorem Dev.Legal.imgCtlWrite {v : W64} (h : s.Legal vt) : (s.imgCtlWrite v).Legal vt :=
  have h1 := h.plainWrite
  have h2 := Dev.Legal.ite h1.imgErase h1
  have h3 := Dev.Legal.ite h2.imgFinish h2
  .ite h3 h3.imgLoad

theorem Dev.Legal.msixWrite {i : Nat} {v : W64} (h : s.Legal vt) : (s.msixWrite i v).Legal vt :=
  have h1 := h.plainWrite
  .ite h1.fset.msix h1

theorem Dev.Legal.cycleRegWrite {a : Nat} {v : W64} {t : Dev} (h : s.Legal vt) (e : s.cycleRegWrite a v = some t) :
    t.Legal vt := by
  unfold Dev.cycleRegWrite at e
  split at e
  · exact Option.some.inj e ▸ h.foldEntryWrite
  · exact Option.some.inj e ▸ h.foldCfgWrite
  · refine .of_ite_some h.cfgWrite (.of_ite_some h.voteCfgWrite (.of_ite_some h.retireWrite (.of_ite_some
      (.ite h.plainWrite h.refuseWr) (.of_ite_some (.ite h.handReq h)
        (.of_ite_some h.jumpWrite (.of_ite_some h.wallWrite
      (.of_ite_some h.ptpCfgWrite (.of_ite_some h.modeRequest (.of_ite_some h.modeCfgWrite ?_))))))))) e
    intro e
    cases e

theorem Dev.Legal.packageRegWrite {a : Nat} {v : W64} {t : Dev} (h : s.Legal vt)
    (e : s.packageRegWrite a v = some t) :
    t.Legal vt := by
  unfold Dev.packageRegWrite at e
  split at e
  · exact Option.some.inj e ▸ h.safeDataWrite
  · exact Option.some.inj e ▸ .ite h.revive h
  · refine .of_ite_some h.leParamGo (.of_ite_some h.tuneWrite (.of_ite_some h.ledgerLengthWrite
      (.of_ite_some h.recCfgWrite (.of_ite_some h.recCtlWrite (.of_ite_some h.bootCfgWrite (.of_ite_some h.diagClear
      (.of_ite_some h.safeCtlWrite (.of_ite_some h.safeConfirm (.of_ite_some h.fltCfgWrite
      (.of_ite_some h.imgCtlWrite (.of_ite_some h.imgData ?_))))))))))) e
    intro e
    cases e

theorem Dev.Legal.portRegWrite {a : Nat} {v : W64} {t : Dev} (h : s.Legal vt) (e : s.portRegWrite a v = some t) :
    t.Legal vt := by
  unfold Dev.portRegWrite at e
  split_ifs at e <;> cases e
  exacts [h.irqClear, h.fifoIrqClear, h.dbgCtlWrite, h.debugCoresWrite, h.msixWrite, h.slotGo]

theorem Dev.Legal.glbWrite {a : Nat} {v : W64} (h : s.Legal vt) : (s.glbWrite a v).Legal vt := by
  unfold Dev.glbWrite
  cases hc : s.cycleRegWrite a v with
  | some t => exact h.cycleRegWrite hc
  | none =>
    cases hp : s.packageRegWrite a v with
    | some t => exact h.packageRegWrite hp
    | none =>
      cases hq : s.portRegWrite a v with
      | some t => exact h.portRegWrite hq
      | none => exact h.plainWrite

theorem Dev.Legal.portCfgWrite {rd : RDie} {i : Nat} {v : W64} (h : s.Legal vt) :
    (s.portCfgWrite rd i v).Legal vt := by
  unfold Dev.portCfgWrite
  extract_lets +onlyGivenNames _ t1 _ _
  have h1 : t1.Legal vt := h.plainWrite
  split
  · exact .ite (.ite h1 (have h2 := h1.loseLock.setPort; .ite h2.ringDown h2))
      (.ite (.ite h1 h1.loseLock.setPort) (.ite h1.setPort h1))

theorem Dev.Legal.ringCtlWrite {r : Nat} {v : W64} (h : s.Legal vt) : (s.ringCtlWrite r v).Legal vt :=
  have h1 := (Dev.Legal.ite h.rfset h).rfset
  .ite h1.refuseWr (have h2 := Dev.Legal.ite h1 (.ite h1.wakeStream h1);
    have h3 := Dev.Legal.ite h2 (.ite h2.wakeStream h2); .ite h3.sleepRequest (.ite h3.sleepRequest h3))

theorem Dev.Legal.rdWrite {n o : Nat} {v : W64} (h : s.Legal vt) : (s.rdWrite n o v).Legal vt :=
  .ite h.portCfgWrite (.ite (.ite h.ringCtlWrite h) (.ite h.hubRequest (.ite h.txWord h.plainWrite)))

theorem Dev.Legal.aqCoefWrite {a : Nat} {v : W64} (h : s.Legal vt) : (s.aqCoefWrite a v).Legal vt :=
  .ite h.finc h.rset.modAq

theorem Dev.Legal.aqWrite {o : Nat} {v : W64} (h : s.Legal vt) : (s.aqWrite o v).Legal vt :=
  .ite (.ite h.aqSetCfgd h) (.ite h.aqChannelWrite
    (.ite (.ite h.aqCoefWrite h) (.ite h.plainWrite.modAq h.plainWrite)))

theorem Dev.Legal.cdWrite {d o : Nat} {v : W64} (h : s.Legal vt) : (s.cdWrite d o v).Legal vt :=
  .ite h.schDbgWrite (.ite h.dbgWrite (.ite h.finc (.ite h (.ite h (.ite h.finc (.ite h.finc h.plainWrite))))))

theorem Dev.Legal.hostWrite {a n : Nat} {v : W64} (h : s.Legal vt) : (s.hostWrite a n v).Legal vt :=
  .ite h.finc (.ite h (.ite h.glbWrite (.ite h.rdWrite
    (.ite h.aqWrite (.ite h (.ite h.cdWrite (.ite h.glbWrite h)))))))

theorem Dev.Legal.hostRead1 {a : Nat} {peek : Bool} (h : s.Legal vt) : (s.hostRead1 a peek).2.Legal vt := by
  unfold Dev.hostRead1
  split
  · exact h
  · exact h.readReg

theorem Dev.Legal.hostReads {a : Nat} {peek : Bool} {n : Nat} (h : s.Legal vt) :
    (s.hostReads a peek n).2.Legal vt := by
  induction n generalizing s a with
  | zero => exact h
  | succ n ih => exact ih h.hostRead1

theorem Dev.Legal.hostRead {a n : Nat} {peek : Bool} (h : s.Legal vt) : (s.hostRead a n peek).2.Legal vt := by
  unfold Dev.hostRead
  split
  · extract_lets +onlyGivenNames _
    exact h.fifoRead
  · split
    · exact h.finc
    · exact h.hostReads

theorem Dev.Legal.bar0Read {a n : Nat} (h : s.Legal vt) : (s.bar0Read a n).2.Legal vt := by
  unfold Dev.bar0Read
  split
  · split
    · exact h.hostRead
    · exact .ite h h.finc
  · exact h.hostRead

theorem Dev.Legal.configRead {o : Nat} (h : s.Legal vt) : (s.configRead o).2.Legal vt := by
  unfold Dev.configRead
  split
  · rename_i t1 e2
    have h1 : t1.Legal vt := h.free.of_snd e2
    extract_lets +onlyGivenNames _
    split
    · exact h1
    · split
      · exact h1
      · split <;> exact h1

end
end Sys2Proof.Machine
end

section
/-!
What each command leaves: the command completes with the queue as it was, and the block it leaves is legal. Then O5.
-/
namespace Sys2Proof.Machine

section
variable {vt : Variant} {s : State}

theorem State.Leaves.upd {f : Dev → Dev} (hf : (f s.dev).Legal vt) : s.Leaves vt (s.upd f) := ⟨f s.dev, rfl, hf⟩

/-- A command that names a unit leaves the block as it was where the unit is absent. -/
theorem Dev.Legal.updIf {ok : Bool} {f : Dev → Dev} (h : s.dev.Legal vt) (hf : (f s.dev).Legal vt) :
    s.Leaves vt (s.updIf ok f) := .upd (.ite hf h)

theorem Dev.Legal.onCore {r : CoreRef} {f : Dev → Dev} (h : s.dev.Legal vt) (hf : (f s.dev).Legal vt) :
    s.Leaves vt (s.onCore r f) := h.updIf hf

theorem Dev.Legal.onCell {p : Place} {f : Cell → Cell} (h : s.dev.Legal vt) : s.Leaves vt (s.onCell p f) := h.updIf h.modCell

theorem Dev.Legal.cellEvent {p : Place} {a : Cell → Option Nat} {f : Cell → Nat → Cell} (h : s.dev.Legal vt) :
    s.Leaves vt (s.cellEvent p a f) := by
  refine h.updIf ?_
  split
  · exact h.cellCome.modCell
  · exact h

theorem Dev.Legal.onBlockAs {p : Place} {x : CPort} {ty : BitVec 4} {pl : Payload} {r : Rx} {f : Cell → Cell}
    {o : Cell → Payload} (h : s.dev.Legal vt) : s.Leaves vt (s.onBlockAs p x ty pl r f o) := h.updIf (.ite h.modCell.emit h)

theorem Dev.Legal.onBlock {p : Place} {x : CPort} {ty : BitVec 4} {pl : Payload} {r : Rx} {f : Cell → Cell}
    (h : s.dev.Legal vt) : s.Leaves vt (s.onBlock p x ty pl r f) := h.onBlockAs

theorem Dev.Legal.onTime {p : Place} {x : CPort} {pl : Payload} {r : Rx} {f : Cell → Cell} (h : s.dev.Legal vt) :
    s.Leaves vt (s.onTime p x pl r f) := h.onBlockAs

/-- A block that is heard at an end of its ring is counted there before it is used. -/
theorem Dev.Legal.atEnd {r : Nat} {e : End} {x : Rx} {f : Dev → Dev} (h : s.dev.Legal vt)
    (hf : ∀ d, Dev.Legal vt d → (f d).Legal vt) : s.Leaves vt (s.atEnd r e x f) :=
  h.updIf (.ite h (.ite (hf _ h.endRx) h.endRx))

/-- What a command leaves of a state that differs in the block alone, it leaves of the state itself. -/
theorem State.Leaves.of_dev {d : Dev} {o : Out} (h : State.Leaves { s with dev := d } vt o) : s.Leaves vt o := h

/-! ### Instructions with several outcomes -/

theorem Dev.Legal.execBrk {r : CoreRef} (h : s.dev.Legal vt) : s.Leaves vt (execBrk r s) := by
  refine h.onCore (h.instr fun t d hd => .ite hd.done ?_)
  split
  · exact hd.finc.done
  · rename_i e
    exact (hd.haltRetire e).haltCore.done

theorem Dev.Legal.execTime {r : CoreRef} {rd : Reg} {k : BitVec 6} (h : s.dev.Legal vt) :
    s.Leaves vt (execTime r rd k s) :=
  h.onCore (h.instr fun _ _ hd => (hd.timeValue.modCd fun _ hc => hc.setReg).done)

theorem Dev.Legal.execDelay {r : CoreRef} {ra : Reg} (h : s.dev.Legal vt) : s.Leaves vt (execDelay r ra s) := by
  refine h.onCore (h.instr fun t d hd => ?_)
  extract_lets _ n w d1
  have h1 : d1.Legal vt := hd.advance.modCd fun _ hc => hc.modTask
  clear_value n w d1
  exact .ite hd.doYield (Dev.Legal.hold (h1.waitOn fun _ hc => hc))

theorem Dev.Legal.execTld {r : CoreRef} {rd ra : Reg} {k : BitVec 6} (h : s.dev.Legal vt) :
    s.Leaves vt (execTld r rd ra k s) := by
  refine h.onCore (h.instr fun t d hd => .ite hd.trap (Dev.Legal.done (Dev.Legal.modCd ?_ fun _ hc => hc.setReg)))
  split
  · exact hd
  · exact hd.free

theorem Dev.Legal.execDst {r : CoreRef} {rd ra rb : Reg} (h : s.dev.Legal vt) :
    s.Leaves vt (execDst r rd ra rb s) := by
  refine h.onCore (h.instr fun t d hd => ?_)
  have put (y : Dev) (v : W64) (hy : y.Legal vt) :=
    (hy.modCd (i := r.die.idx) fun x hx => hx.setReg (c' := r.core.val) (t := t) (r := rd) (v := v)).done
  refine .ite hd.trap ?_
  have h1 := hd.theSet (d := r.die.idx) (cycle := ((d.cd r.die.idx).task t).cycle)
  refine .ite (put _ _ h1) ?_
  split
  · exact put _ _ h1
  · exact put _ _ (h1.modCd fun _ hc => hc.dst)
  · split
    · rename_i e
      exact (h1.blockRead.of_fst e).trap
    · rename_i e
      exact put _ _ ((h1.blockRead.of_fst e).modCd fun _ hc => hc.dst)

theorem Dev.Legal.execStile {r : CoreRef} {rd : Reg} (h : s.dev.Legal vt) : s.Leaves vt (execStile r rd s) :=
  h.onCore (h.instr fun _ _ hd => .ite (hd.theSet.modCd fun _ hc => hc.setReg).done
    (hd.theSet.closeImage.sendImage.modCd fun _ hc => hc.setReg).done)

theorem Dev.Legal.execLegacyPop {r : CoreRef} {rd : Reg} (h : s.dev.Legal vt) :
    s.Leaves vt (execLegacyPop r rd s) := by
  refine h.onCore (h.instr fun t d hd => ?_)
  split
  rename_i e
  exact ((hd.readReg.of_snd e).modCd fun _ hc => hc.setReg).done

theorem Dev.Legal.execSel {r : CoreRef} {rd ra rb : Reg} (h : s.dev.Legal vt) :
    s.Leaves vt (execSel r rd ra rb s) := by
  refine h.onCore (h.instr fun t d hd => .ite hd.trap ?_)
  split
  · exact hd.trap
  · exact hd.trap
  · refine .ite hd.hold ?_
    split
    · exact hd.eccFail.trap
    · rename_i e
      exact (hd.eccRead e).doSel.done

theorem Dev.Legal.execMst {r : CoreRef} {rd ra : Reg} (h : s.dev.Legal vt) : s.Leaves vt (execMst r rd ra s) := by
  refine h.onCore (h.instr fun t d hd => ?_)
  have h1 := hd.theSet (d := r.die.idx) (cycle := ((d.cd r.die.idx).task t).cycle)
  refine .ite (h1.modCd fun _ hc => hc.setReg).done (.ite (h1.finc.modCd fun _ hc => hc.setReg).done ?_)
  split
  · rename_i e
    exact (h1.blockRead.of_fst e).trap
  · rename_i e
    exact (((h1.blockRead.of_fst e).modCd fun _ hc => hc.setImage).modCd fun _ hc => hc.setReg).done

theorem Dev.Legal.execTxn {r : CoreRef} {rd ra rb : Reg} (h : s.dev.Legal vt) :
    s.Leaves vt (execTxn r rd ra rb s) := by
  refine h.onCore (h.instr fun t d hd => .ite hd.trap ?_)
  extract_lets data busy
  split
  rename_i e
  have h1 := hd.issueTxn.of_snd e
  split
  · exact (h1.modCd fun _ hc => hc.setReg).done
  · exact (h1.modCd fun _ hc => hc.setReg.modTask).done

theorem Dev.Legal.execTagw {r : CoreRef} {rd ra : Reg} (h : s.dev.Legal vt) : s.Leaves vt (execTagw r rd ra s) := by
  refine h.onCore (h.instr fun t d hd => ?_)
  extract_lets _ _ _ _ bad
  have put (y : Dev) (hy : y.Legal vt) : (bad y).Legal vt := (hy.modCd fun _ hc => hc.setReg).done
  clear_value bad
  split
  · exact put _ hd
  · refine .ite (put _ (hd.modCd fun _ hc => hc.setTask)) ?_
    split
    · exact (hd.modCd fun _ hc => hc.setTask.setReg).done
    · exact ((hd.free.advance.modCd fun _ hc => hc.modTask).waitOn fun _ hc => hc).hold

/-! ### Commands with several outcomes -/

theorem Dev.Legal.execTickEvent (h : s.dev.Legal vt) : s.Leaves vt (execTickEvent s) := by
  refine .upd ?_
  split
  · exact h.elapse.forAll fun _ _ hd => hd.tickDie
  · exact h

theorem Dev.Legal.execDelayExpiry {die : CDie} {task : Fin 512} (h : s.dev.Legal vt) :
    s.Leaves vt (execDelayExpiry die task s) := by
  refine h.updIf ?_
  extract_lets _
  split
  · refine .ite (Dev.Legal.resched (h.modCd fun y hy => CtrlDie.Legal.wake ?_)) h
    exact hy
  · exact h

theorem Dev.Legal.execCellSampleInstant {p : Place} {x : Adc} {blank : Bool} (h : s.dev.Legal vt) :
    s.Leaves vt (execCellSampleInstant p x blank s) := by
  unfold Machine.execCellSampleInstant
  exact h.cellEvent

theorem Dev.Legal.execReferenceStale {u : MUnit} {v : Fin 48} (h : s.dev.Legal vt) :
    s.Leaves vt (execReferenceStale u v s) := by
  cases u with
  | cell p => exact h.onCell
  | aq => exact h.updIf (.ite (.ite h h.fset.report) h)

theorem Dev.Legal.execDiagnosticRound {u : MUnit} (h : s.dev.Legal vt) : s.Leaves vt (execDiagnosticRound u s) := by
  cases u with
  | cell p => exact h.onCell
  | aq => exact h.updIf (.ite h (h.foldl fun _ _ hd => hd.modAq))

theorem Dev.Legal.execFilteredResult {u : MUnit} (h : s.dev.Legal vt) : s.Leaves vt (execFilteredResult u s) := by
  have h1 := h.free
  cases u with
  | cell p => exact State.Leaves.of_dev (h1.onCell (s := { s with dev := s.dev.free.2 }))
  | aq => exact State.Leaves.of_dev (h1.updIf (s := { s with dev := s.dev.free.2 }) (.ite h1.aqFilterMs h1))

theorem Dev.Legal.execTimeLaunch {p : Place} {x : CPort} {b : Rcvd} (h : s.dev.Legal vt) :
    s.Leaves vt (execTimeLaunch p x b s) :=
  State.Leaves.of_dev (h.free.onTime (s := { s with dev := s.dev.free.2 }))

theorem Dev.Legal.execAqConversionSlot {v : Fin 48} {j : Nat} {x : Adc} (h : s.dev.Legal vt) :
    s.Leaves vt (execAqConversionSlot v j x s) := by
  refine h.updIf (.ite h ?_)
  extract_lets d
  have h1 : d.Legal vt := h.modAq
  clear_value d
  split
  · exact .ite h1.aqMeasure h1
  · exact h1.aqBackground

theorem Dev.Legal.execTallyInsert {p : Place} {toward : End} {b : TallySlot} (h : s.dev.Legal vt) :
    s.Leaves vt (execTallyInsert p toward b s) := by
  refine h.updIf ?_
  extract_lets _ d _
  have h1 : d.Legal vt := h.slotCome
  clear_value d
  split
  · exact h1.modCell.emit.tallyArrives
  · exact h1.modCell

theorem Dev.Legal.execVotedMirrorReceive {die : CDie} {src : RDie} {b : MirrorCopy} (h : s.dev.Legal vt) :
    s.Leaves vt (execVotedMirrorReceive die src b s) := by
  refine h.updIf ?_
  split
  · exact .ite h.mirrorIn h
  · exact h

theorem Dev.Legal.execTwinTime {link : Fin 2} {roundTrip : Nat} {theta : Option Int} (h : s.dev.Legal vt) :
    s.Leaves vt (execTwinTime link roundTrip theta s) := by
  refine .upd (.ite ?_ h)
  split
  · exact .ite h.setTlink.piUpdate h.setTlink
  · exact h.setTlink

theorem Dev.Legal.execPtpMessage {m : PtpMsg} (h : s.dev.Legal vt) : s.Leaves vt (execPtpMessage m s) := by
  refine .upd (.ite ?_ h)
  split
  · exact h.ptpAnnounce
  · exact .ite h.fset h
  · exact h.ptpAnswer
  · exact h

theorem Dev.Legal.execCapsQuery {q : RxPort} {b : Rcvd} (h : s.dev.Legal vt) :
    s.Leaves vt (execCapsQuery q b s) := by
  refine h.updIf ?_
  split
  · exact .ite h (.ite h.portRx.queryAtEnd h.portRx)
  · exact h.cellQuery

theorem Dev.Legal.execFifoRead {f : Fin 64} {bytes : Nat} (h : s.dev.Legal vt) :
    s.Leaves vt (execFifoRead f bytes s) := by
  refine .upd ?_
  split
  rename_i e
  exact (h.fifoRead.of_snd e).answer

theorem Dev.Legal.execRecordNotice {u : MUnit} (h : s.dev.Legal vt) : s.Leaves vt (execRecordNotice u s) := by
  cases u with
  | cell p =>
    refine h.updIf ?_
    split
    · exact .ite h.ownWrite h
    · exact h
  | aq => exact h.updIf (.ite h.aqNotice h)

theorem Dev.Legal.execRecordFreeze {u : MUnit} (h : s.dev.Legal vt) : s.Leaves vt (execRecordFreeze u s) := by
  cases u with
  | cell p => exact h.onCell
  | aq =>
    refine h.updIf ?_
    split
    · exact .ite h.aqFreeze h
    · exact h

theorem Dev.Legal.execRecordFetch {u : MUnit} (h : s.dev.Legal vt) : s.Leaves vt (execRecordFetch u s) := by
  cases u with
  | cell p =>
    refine h.updIf ?_
    extract_lets d
    have h1 : d.Legal vt := .ite h.recGone h
    clear_value d
    split
    · exact .ite h1.fetchCell h1
    · exact h1
  | aq => exact h.updIf (.ite h.fetchAq h)

theorem Dev.Legal.execRcRead {t : RegTarget} (h : s.dev.Legal vt) : s.Leaves vt (execRcRead t s) := by
  unfold Machine.execRcRead
  split
  · refine .upd ?_
    extract_lets r
    have hr : r.2.Legal vt := h.bar0Read
    clear_value r
    exact hr.answer
  · exact .upd h.answer
  · refine h.updIf (.ite ?_ h)
    extract_lets r
    have hr : r.1.Legal vt := h.cellAccess
    clear_value r
    exact hr.answer
  · refine .upd ?_
    extract_lets r
    have hr : r.2.Legal vt := h.configRead
    clear_value r
    exact hr.answer

theorem Dev.Legal.execRegisterWrite {t : RegTarget} {v : W64} (h : s.dev.Legal vt) :
    s.Leaves vt (execRegisterWrite t v s) := by
  unfold Machine.execRegisterWrite
  split
  · exact .upd h.hostWrite
  · exact .upd h.legacyWrite
  · exact h.updIf (.ite h.cellAccess h)
  · exact .upd (.ite h.pin h)

theorem Dev.Legal.execTimeBlockSend {q : Sender} {sub : BitVec 4} {id : BitVec 14} (h : s.dev.Legal vt) :
    s.Leaves vt (execTimeBlockSend q sub id s) := by
  cases q with
  | ringEnd r e => exact h.updIf h.endTime
  | cell p x => exact h.updIf (.ite h.cellLaunch h)

/-! ### Every command -/

/-- Every command completes, keeps the queue, and leaves a legal block of a legal one. -/
theorem exec_leaves (i : Instr) (h : s.dev.Legal vt) : s.Leaves vt (exec i s) := by
  delta exec
  cases i with
  | add | sub | and | or | xor | shl | shr | sra | shli | shri | srai | mul | mulh | mulhu | div | divu | rem | remu
  | slt | sltu | sext | zext | addi | andi | ori | xori | lui | slti | sltiu | qadd | qsub | qmul | qmac | qshli | qshri
  | qclamp | fadd | fsub | fmul | fdiv | fsqrt | fmin | fmax | flt | feq | fcvtqf | fcvtfq | fcvtif | fcvtfi =>
    exact h.onCore h.alu
  | ldb | ldbu | ldh | ldhu | ldw | ldwu | ldd => exact h.onCore h.loadI
  | stb | sth | stw | std => exact h.onCore h.storeI
  | beq | bne | blt | bge | bltu | bgeu => exact h.onCore h.branch
  | j => exact h.onCore (h.instr fun _ _ h1 => h1.goto)
  | call => exact h.onCore (h.instr fun _ _ h1 => h1.doCall)
  | callr => exact h.onCore (h.instr fun _ _ h1 => .ite h1.trap h1.doCall)
  | ret => exact h.onCore (h.instr fun _ _ h1 => h1.doRet)
  | lockseq => exact h.onCore (h.instr fun _ _ h1 => h1.doLockseq)
  | endseq => exact h.onCore (h.instr fun _ _ h1 => h1.doEndseq)
  | brk => exact h.execBrk
  | time => exact h.execTime
  | post => exact h.onCore (h.instr fun _ _ h1 => .ite h1.doService h1.doPost)
  | take => exact h.onCore (h.instr fun _ _ h1 => h1.doTake)
  | waitt => exact h.onCore (h.instr fun _ _ h1 => .ite h1.trap h1.advance.endActivation.resched.hold)
  | delay => exact h.execDelay
  | yield => exact h.onCore (h.instr fun _ _ h1 => h1.doYield)
  | setpri =>
    exact h.onCore (h.instr fun _ _ h1 => have h2 := h1.advance; have h3 := h2.cd;
      .ite (h2.setCd h3.setReg).hold (h2.setCd h3.setReg.setBase).resched.hold)
  | lock => exact h.onCore (h.instr fun _ _ h1 => h1.doLock)
  | unlock =>
    exact h.onCore (h.instr fun _ _ h1 => .ite h1.trap (h1.advance.modCd fun _ h2 => h2.release).resched.hold)
  | tld => exact h.execTld
  | dst => exact h.execDst
  | mst => exact h.execMst
  | stile => exact h.execStile
  | sel => exact h.execSel
  | lekick =>
    exact h.onCore (h.instr fun _ _ h1 => .ite (h1.finc.modCd fun _ h2 => h2.setReg).done
      (h1.fset.kick.modCd fun _ h3 => h3.setReg).done)
  | lerd => exact h.onCore (h.instr fun _ _ h1 => .ite h1.trap (h1.setCd h1.cd.setReg).done)
  | txn => exact h.execTxn
  | tagw => exact h.execTagw
  | createTask | deleteTask | activateTask | configureMailbox | configureLock => exact h.onCore h.serviceI
  | votedPhaseBegin => exact h.updIf (.ite h.phaseBegin h)
  | votedDispatch => exact h.updIf (.ite h.votedDispatch h)
  | tickEvent => exact h.execTickEvent
  | delayExpiry => exact h.execDelayExpiry
  | sampleInstant => exact .upd h.sampleInstant
  | rideThroughLimit => exact .upd h.rtLimitHit
  | cellSampleInstant => exact h.execCellSampleInstant
  | converterBSlot | ownFreeze | slcvConfigurationWrite | shadowWrite | semi | semiRel | bypassFire | latchClear
  | slcvClear | vinLow | vinRecovery | dsatTrip | gdfltTrip | outputShort | slcvTrip | slcvFiring | bypassConfirmTimeout
  | bypassSense | forwardedClockReturn | firingPulseEnd => exact h.onCell
  | referenceStale => exact h.execReferenceStale
  | diagnosticRound => exact h.execDiagnosticRound
  | filteredResult => exact h.execFilteredResult
  | aqConversionSlot => exact h.execAqConversionSlot
  | tallyInsert => exact h.execTallyInsert
  | tallyClose => exact .upd h.tallyClose
  | tallyDelivery => exact .upd h.tallyDelivery
  | modeDecision => exact .upd h.modeDecision
  | stileVote => exact .upd h.stileVote
  | droveLaunch => exact h.updIf h.launchDroves
  | droveReceive | explicitReceive | capsAssign | blockAct => exact h.onBlock
  | reloadInstant | gateOutputEdge => exact h.cellEvent
  | votedMirrorReceive => exact h.execVotedMirrorReceive
  | energyPosting => exact .upd h.energyPosting
  | intervalClose => exact .upd h.intervalClose
  | laneAdmission => exact .upd h.admitLane
  | gateOpen => exact h.updIf h.openGate
  | hurdleOutRelease => exact .upd (.ite h.pin.tw h)
  | heartbeat => exact .upd (.ite h.setRefPkg.refDecide h)
  | heartbeatMissing => exact .upd (.ite h.setRefPkg.report.refDecide h)
  | grantState => exact .upd (.ite (have h1 := h.goodFrame; (Dev.Legal.ite h1.fset h1).tw.pendEnd.fset.fset) h)
  | refereeGrant => exact .upd h.refereeLine
  | relayedDrove => exact h.updIf (.ite (.ite h.relayedIn h.finc) h)
  | twinMirrorBlock => exact .upd (.ite h.mirrorBlock h)
  | relayedTxnReq => exact .upd (.ite h.relayReq h)
  | relayedTxnRsp => exact .upd (.ite h.rspOwn h)
  | twinTime => exact h.execTwinTime
  | forwardedConfigurationWrite => exact .upd (.ite h.forwardedIn h)
  | twinLinkUp => exact .upd (.ite h.fset.setRefPkg (.ite h.directUp (.ite h.fset.fset h)))
  | twinLinkDown => exact .upd (.ite h.fset.setRefPkg.report (.ite h.directDown (.ite h.refLinkDown h)))
  | handreq => exact .upd h.handReq
  | retire => exact .upd h.retireWrite
  | ptpMessage => exact h.execPtpMessage
  | ptpSync => exact .upd (.ite h.crookOffset h)
  | rateChange => exact .upd h.rateChange
  | holdoverTimeout => exact .upd (.ite h.rateLater.setCrook h)
  | acquireTimeout => exact .upd (.ite h.setCrook h)
  | accept => exact .upd h.acceptJump
  | set => exact .upd h.hostStep
  | wallOffsetWrite => exact .upd h.wallWrite
  | receiverDetect => exact h.updIf h.detect
  | clockLock => exact h.updIf (.ite h.setPort h)
  | blockLock => exact h.updIf (.ite h.blockLock h)
  | lockLoss => exact h.updIf (.ite h.loseLock h)
  | forwardedClockFailure => exact h.updIf (have h1 := h.modCell; .ite h1.loseLock h1)
  | train => exact h.updIf (.ite h (have h1 := h.atPort (fun _ _ _ h2 => h2.portRx); .ite h1.trainIn h1))
  | enumerationStart => exact h.updIf h.enumStart
  | capsQuery => exact h.execCapsQuery
  | capsReport => exact h.atEnd fun _ hd => hd.capsReport
  | capsNotice => exact h.atEnd fun _ hd => hd.capsNotice
  | ringUp => exact h.updIf h.ringUp
  | ringRepair => exact h.updIf h.ringRepair
  | timeLaunch => exact h.execTimeLaunch
  | timeLoop | timeStep | timeSleep | timeWake => exact h.onTime
  | timeEcho => exact h.atEnd fun _ hd => hd.timeEcho
  | idleReceive => exact h.updIf (.ite h.modCell.emit h)
  | txnReq => exact h.updIf (.ite (have h1 := h.modCell; (Dev.Legal.ite h1.txnIn h1).emit) h)
  | txnRsp => exact h.updIf (.ite h (have h1 := h.endRx; .ite h1.rspIn h1))
  | txnRetry => exact .upd h.txnRetry
  | tagTimeout => exact .upd h.tagTimeout
  | hubBlock => exact h.updIf (.ite h (have h1 := h.endRx; .ite h1.entriesIn h1.finc))
  | recordBlock => exact h.updIf (.ite h.recordIn h)
  | blockTest => exact h.updIf h.blockTest
  | reservedBlock => exact h.updIf (.ite (have h1 := h.portRx; .ite h1.finc.report h1) h)
  | cycleConfigurationWrite => exact .upd h.cfgWrite
  | cycleConfigurationEffect => exact .upd h.cfgEffect
  | foldConfigurationWrite => exact .upd h.foldCfgWrite
  | foldMapWrite => exact .upd h.foldMapWrite
  | outOfServiceWrite => exact .upd h.oosWrite
  | leParamGo => exact .upd h.leParamGo
  | autotuneStart | autotuneAbort => exact .upd h.tuneSend
  | autotuneTimeout => exact .upd (h.forAll fun _ _ h1 => h1.tuneTimeout)
  | requestHub | requestPrecharge | requestRun | requestBlock => exact .upd h.modeRequest
  | requestCommission => exact .upd h.pin.modeRequest
  | grid => exact .upd h.gridWrite
  | sleepRequest => exact h.updIf h.sleepRequest
  | wakeRequest => exact h.updIf (.ite h.wakeStream h)
  | hubRequest => exact h.updIf h.hubRequest
  | fifoRead => exact h.execFifoRead
  | arm => exact .upd h.arm
  | armingComplete => exact .upd (.ite h.fset h)
  | fire => exact .upd h.recFire
  | abort => exact .upd h.recAbort
  | triggerDecision => exact .upd h.triggerDecision
  | recordNotice => exact h.execRecordNotice
  | recordFreeze => exact h.execRecordFreeze
  | fetchStart => exact .upd (.ite h.fset.rcd h)
  | recordFetch => exact h.execRecordFetch
  | fetchDone => exact .upd (.ite h.fset.irq h)
  | legacyAppend | legacyEnd => exact .upd (.ite h.legacyWrite h)
  | legacyPop => exact h.execLegacyPop
  | stationFrameReceive => exact h.updIf h.frameIn
  | stationFrameTransmit => exact h.updIf h.txWord
  | transmitStampPop => exact h.updIf h.readReg.answer
  | transactionSlotGo => exact .upd h.slotGo
  | irqCauseClear => exact .upd (.ite h.fifoIrqClear h.irqClear)
  | peekRead => exact .upd h.bar0Read.answer
  | openreq => exact .upd h.openReq
  | close => exact .upd h.debugClose
  | debugCoresWrite => exact .upd h.debugCoresWrite
  | halt | resume => exact h.updIf (.ite h.debugDo h)
  | debugDataRead => exact .upd (.ite h.answer h.answer)
  | debugDataWrite => exact .upd (.ite h.dbgWrite h)
  | erase => exact .upd h.imgErase
  | imageData => exact .upd h.imgData
  | finish => exact .upd h.imgFinish
  | load => exact .upd h.imgLoad
  | imageOperationComplete => exact .upd h.imgEnd
  | retry => exact .upd h.bootRetry
  | revive => exact h.updIf h.revive
  | commit => exact .upd h.safeCommit
  | safetyConfirm => exact .upd h.safeConfirm
  | safetyReset => exact .upd h.setPins.safeReset
  | safetyDataWrite => exact .upd h.safeDataWrite
  | faultConfigurationWrite => exact .upd h.fltCfgWrite
  | ledgerLengthWrite => exact .upd h.ledgerLengthWrite
  | aqChannelWrite => exact h.updIf h.aqChannelWrite
  | aqCfgd => exact h.updIf h.aqSetCfgd
  | partitionWrite => exact h.updIf (.ite h.partitionWrite h)
  | rcRead => exact h.execRcRead
  | timeLatchRead => exact h.updIf (.ite h.setCell.answer h)
  | registerWrite => exact h.execRegisterWrite
  | cfgd => exact h.updIf h.cellCfgd
  | vinRise | vinCollapse => exact h.updIf h.modCell
  | slcvBranchTest => exact h.updIf (.ite h h.modCell)
  | safeReqDemand => exact .upd (.ite h.safeReq h)
  | safetyEvaluation => exact .upd (.ite h.evaluate h)
  | blockRepeat => exact .upd (.ite h.sendBlocks h)
  | safeStateTimeout => exact .upd h.safeTimeout
  | safeReqTest => exact .upd (.ite h.diagSet.safeAct h.diagOver)
  | discrepancyTimer => exact .upd (.ite h.diagSet h.diagOver)
  | safetyWatchdog | workingCopyCrc => exact .upd (.ite h.packageFatal h)
  | storeCrcCheck => exact .upd (.ite h (.ite h.diagOver h.diagSet))
  | testBlockSend => exact .upd (h.forAll fun _ _ h1 => .ite h1.send h1)
  | faultNTestPulse => exact .upd (.ite h (.ite h.diagOver h.diagSet.safeAct))
  | outputReadbackShort => exact .upd h.fset
  | pgLoss | busNoAnswer | junctionOvertemperature | uncorrectableError => exact h.updIf h.fatal
  | launchConfirmationMissing => exact h.updIf (.ite (have h1 := h.diagSet; (Dev.Legal.ite h1.diagOver h1).fatal) h)
  | powerCycleOffEnd => exact h.updIf h.cycleOn
  | powerCyclePgTimeout => exact h.updIf (.ite h.leaveDown h)
  | dieReturn => exact h.updIf (.ite h (.ite (.ite h.fset.fset.fset h.leaveDown) h.dieBack))
  | powerUp => exact .upd h.powerUp
  | startup => exact .upd h.startup
  | resetAssert => exact .upd h.resetAssert
  | resetRelease => exact .upd (.ite h.clk.startup h)
  | vddhLoss => exact .upd h.pin.powerless
  | refclkLoss => exact .upd (have h1 := h.pin; .ite h1.packageFatal h1)
  | pcieReset => exact .upd h.pcieReset
  | timeBlockSend => exact h.execTimeBlockSend
  | hurdleInChange => exact .upd (have h1 := h.pin; .ite (have h2 := h1.fset; .ite h2.dutyBegins h2) h1)
  | reservedTwinFrame => exact h.updIf (.ite h.finc h)
end

/-- Settles O5: a nanosecond is `Dev.Legal.tick`, and a command is `exec_leaves`. -/
theorem stepKeepsCanonicalStores : Obligations.StepKeepsCanonicalStores := by
  unfold Obligations.StepKeepsCanonicalStores
  intro s t hs e
  have h : s.dev.Legal s.dev.variant := ⟨hs, rfl⟩
  unfold step at e
  split at e
  · cases e
    exact h.tick
  · rename_i i rest _
    obtain ⟨d, ed, hd⟩ := exec_leaves (s := { s with pending := rest }) i h
    rw [ed] at e
    cases e
    exact hd

end Sys2Proof.Machine
end

section
/-!
PROOFS for the family `01_package_and_flock`: what follows from the variant and the role, block streams and what is sent on them,
and what the log of faults leaves alone.
-/
namespace Sys2Proof.Machine

/-! ### What the variant and the role decide -/

section
variable {o s : Dev}

theorem Dev.wide_congr (hv : s.variant = o.variant) (hr : s.role = o.role) : s.wide = o.wide := by
  simp only [Dev.wide, Dev.twin, hv, hr]

theorem Dev.ringCount_congr (hv : s.variant = o.variant) (hr : s.role = o.role) : s.ringCount = o.ringCount := by
  simp only [Dev.ringCount, Dev.wide_congr hv hr, hv]

theorem Dev.rdOfEnd_congr (hv : s.variant = o.variant) (hr : s.role = o.role) : s.rdOfEnd = o.rdOfEnd := by
  funext r e
  simp only [Dev.rdOfEnd, Dev.wide_congr hv hr, hv]

theorem Dev.portOfEnd_congr (hv : s.variant = o.variant) (hr : s.role = o.role) : s.portOfEnd = o.portOfEnd := by
  funext r e
  simp only [Dev.portOfEnd, Dev.wide_congr hv hr, hv]

end

theorem Dev.ownsEnd_congr {o s : Dev} (hv : s.variant = o.variant) (hr : s.rget SH_TWIN_STAT = o.rget SH_TWIN_STAT) :
    s.ownsEnd = o.ownsEnd := by
  funext e
  have same : ∀ f, Field.reg f = SH_TWIN_STAT → s.fget f = o.fget f := fun f hf => by simp only [Dev.fget, hf, hr]
  simp only [Dev.ownsEnd, Dev.wide_congr hv (same _ rfl), Dev.ownEnd, same SH_TWIN_STAT_ID rfl]
  congr

/-! ### Block streams -/

theorem Dev.role_congr {o s : Dev} (h : s.regs = o.regs) : s.role = o.role := Dev.fget_congr h _

@[simp] theorem Dev.setLine_regs (s : Dev) (q : Sender) (l : Option Line) : (s.setLine q l).regs = s.regs := by
  cases q <;> simp [Dev.setLine]

@[simp] theorem Dev.setLine_variant (s : Dev) (q : Sender) (l : Option Line) : (s.setLine q l).variant = s.variant := by
  cases q <;> simp [Dev.setLine]

@[simp] theorem Dev.setLine_out (s : Dev) (q : Sender) (l : Option Line) : (s.setLine q l).out = s.out := by
  cases q <;> simp [Dev.setLine]

/-- A sender's stream is the one it was last given. -/
theorem Dev.line_setLine_same (s : Dev) (q : Sender) (l : Option Line) : (s.setLine q l).line q = l := by
  cases q with
  | ringEnd r e =>
    have hv := Dev.setLine_variant s (.ringEnd r e) l
    have hr := Dev.role_congr (Dev.setLine_regs s (.ringEnd r e) l)
    simp only [Dev.line, Dev.rdOfEnd_congr hv hr, Dev.portOfEnd_congr hv hr]
    simp [Dev.setLine, Dev.modRd, Dev.rd_setRd_same]
  | cell p x => cases x <;> simp [Dev.line, Dev.setLine, Cell.setLine]

/-- The stream that has been opened stands. -/
theorem Dev.openLine_out (s : Dev) (q : Sender) : (s.openLine q).2.out = s.out := by
  unfold Dev.openLine Dev.newLine
  split <;> simp

theorem Dev.placeBlock_out (s : Dev) (q : Sender) (ty : BitVec 4) (t : Int) : (s.placeBlock q ty t).2.out = s.out := by
  simp only [Dev.placeBlock]
  split_ifs <;> simp [Dev.openLine_out]

theorem Dev.placeBlock_line (s : Dev) (q : Sender) (ty : BitVec 4) (t : Int) :
    ((s.placeBlock q ty t).2.line q).isSome = true := by
  simp only [Dev.placeBlock]
  split_ifs <;> simp [Dev.line_setLine_same]

/-- A block that is sent is the latest thing sent; its position is its stream's to choose. -/
theorem Dev.sendFrom_out (s : Dev) (q : Sender) (ty : BitVec 4) (t : Int) (pl : Int → Payload) :
    ∃ n u, (s.sendFrom q ty t pl).out = .block q n ty (pl u) :: s.out := by
  obtain ⟨l, hl⟩ := Option.isSome_iff_exists.1 (Dev.placeBlock_line s q ty t)
  simp only [Dev.sendFrom, hl, Dev.emit, Dev.placeBlock_out]
  exact ⟨_, _, rfl⟩

theorem Dev.send_out (s : Dev) (q : Sender) (ty : BitVec 4) (pl : Payload) :
    ∃ n, (s.send q ty pl).out = .block q n ty pl :: s.out := by
  obtain ⟨n, u, h⟩ := s.sendFrom_out q ty s.raw10ps (fun _ => pl)
  exact ⟨n, h⟩

/-! ### What the log of faults leaves alone -/

/-- The registers that a report of a fault, and a package port that counts a block, write. -/
def noteReg (a : Nat) : Prop :=
  a = GLB_IRQ_STAT ∨ a = GLB_MSIX_PBA ∨ a = SH_FLT_STAT ∨ a = SH_LOG_STAT ∨ ∃ n < 2, ∃ i < 66, a = RDn_RP_ERR n i

theorem noteReg_irq : noteReg GLB_IRQ_STAT := .inl rfl
theorem noteReg_pba : noteReg GLB_MSIX_PBA := .inr (.inl rfl)
theorem noteReg_flt : noteReg SH_FLT_STAT := .inr (.inr (.inl rfl))
theorem noteReg_log : noteReg SH_LOG_STAT := .inr (.inr (.inr (.inl rfl)))
theorem noteReg_err {n i : Nat} (hn : n < 2) (hi : i < 66) : noteReg (RDn_RP_ERR n i) :=
  .inr (.inr (.inr (.inr ⟨n, hn, i, hi, rfl⟩)))

/-- A register below the ring dies' windows (R642) is another one than these. -/
theorem not_noteReg_low {a : Nat} (ha : a < 0x200000) (hi : a ≠ GLB_IRQ_STAT) (hp : a ≠ GLB_MSIX_PBA) (hf : a ≠ SH_FLT_STAT)
    (hl : a ≠ SH_LOG_STAT) : ¬ noteReg a := by
  rintro (h | h | h | h | ⟨n, -, i, -, h⟩)
  · exact hi h
  · exact hp h
  · exact hf h
  · exact hl h
  · simp only [RDn_RP_ERR, rdBase] at h
    omega

/-- A register in a ring die's window that is no port's error register. -/
theorem not_noteReg_rd {a : Nat} (ha : 0x200000 ≤ a) (he : a % 0x100000 < 0x30000 ∨ a % 0x20 ≠ 0x10) : ¬ noteReg a := by
  rintro (h | h | h | h | ⟨n, -, i, hi, h⟩) <;>
    simp only [GLB_IRQ_STAT, GLB_MSIX_PBA, SH_FLT_STAT, SH_LOG_STAT, RDn_RP_ERR, rdBase] at h <;> omega

theorem not_noteReg_twin : ¬ noteReg SH_TWIN_STAT := not_noteReg_low (by decide) (by decide) (by decide) (by decide) (by decide)

/-- Block s is as o was but for the counts and the log of faults, and what of them has been sent. -/
structure Dev.Noted (o s : Dev) : Prop where
  eq : s = { o with regs := s.regs, sh := { o.sh with flt := s.sh.flt }, out := s.out }
  regs : ∀ a, ¬ noteReg a → s.rget a = o.rget a
  out : o.out <:+ s.out

section
variable {o s : Dev}

theorem Dev.Noted.refl (s : Dev) : s.Noted s := ⟨rfl, fun _ _ => rfl, List.suffix_rfl⟩

theorem Dev.Noted.ite {a b : Dev} {c : Prop} [Decidable c] (ha : o.Noted a) (hb : o.Noted b) : o.Noted (if c then a else b) := by
  split <;> assumption

theorem Dev.Noted.fset {f : Field} {v : Nat} (h : o.Noted s) (hf : noteReg f.reg) : o.Noted (s.fset f v) where
  eq := by rw [h.eq]; rfl
  regs a ha := by
    have hne : a ≠ f.reg := fun e => ha (e ▸ hf)
    rw [Dev.rget_fset_reg _ _ hne, h.regs a ha]
  out := h.out

theorem Dev.Noted.finc {f : Field} (h : o.Noted s) (hf : noteReg f.reg) : o.Noted (s.finc f) := h.fset hf

theorem Dev.Noted.flt {f : ShFlt → ShFlt} (h : o.Noted s) : o.Noted (s.flt f) where
  eq := by rw [h.eq]; rfl
  regs := h.regs
  out := h.out

theorem Dev.Noted.emit {e : Emission} (h : o.Noted s) : o.Noted (s.emit e) where
  eq := by rw [h.eq]; rfl
  regs := h.regs
  out := h.out.trans (List.suffix_cons _ _)

theorem Dev.Noted.msix {v : Nat} (h : o.Noted s) : o.Noted (s.msix v) := .ite (h.fset noteReg_pba) (.ite h.emit h)

theorem Dev.Noted.irq {v : Nat} (h : o.Noted s) : o.Noted (s.irq v) := .ite h (h.fset noteReg_irq).msix

theorem Dev.Noted.logWith {cls : Cls} {flags : Nat} {src : Src} {inst code dt : Nat} (h : o.Noted s) :
    o.Noted (s.logWith cls flags src inst code dt) := by
  unfold Dev.logWith
  extract_lets +onlyGivenNames _ _ _ _ t1 t2 t3
  have h1 : o.Noted t1 := h.flt
  have h2 : o.Noted t2 := .ite (h1.finc noteReg_log) h1
  have h3 : o.Noted t3 := h2.fset noteReg_log
  split <;> exact h3.irq

theorem Dev.Noted.logEntry {cls : Cls} {flags : Nat} {src : Src} {inst code det : Nat} (h : o.Noted s) :
    o.Noted (s.logEntry cls flags src inst code det) := h.logWith

theorem Dev.Noted.history {src inst : Nat} (h : o.Noted s) : o.Noted (s.history src inst).1 := by
  unfold Dev.history
  extract_lets +onlyGivenNames _ _ _ _ _ _ _ _
  dsimp only
  exact h.flt

theorem Dev.Noted.event {cls : Cls} {src : Src} {inst code det : Nat} (h : o.Noted s) :
    o.Noted (s.event cls src inst code det).1 := by
  simp only [Dev.event]
  have h1 : o.Noted (s.history src.code (inst + 65536 * src.kind code)).1 := h.history
  have h2 : ∀ fl, o.Noted ((s.history src.code (inst + 65536 * src.kind code)).1.logEntry cls fl src inst code det) :=
    fun _ => h1.logEntry
  refine .ite (Dev.Noted.finc ?_ noteReg_flt) ?_ <;>
  · cases cls
    · exact (h2 _).finc noteReg_flt
    · exact (h2 _).finc noteReg_flt
    · exact (h2 _).finc noteReg_flt
    · exact h2 _

theorem Dev.Noted.report {cls : Cls} {src : Src} {inst code det : Nat} (h : o.Noted s) :
    o.Noted (s.report cls src inst code det) := h.event

theorem Dev.Noted.info {src : Src} {inst code det : Nat} (h : o.Noted s) : o.Noted (s.info src inst code det) := h.logEntry

theorem Dev.Noted.portCrc {n i : Nat} (h : o.Noted s) (hn : n < 2) (hi : i < 66) : o.Noted (s.portCrc n i) :=
  (h.finc (noteReg_err hn hi)).report

theorem Dev.Noted.portGap {n i : Nat} (h : o.Noted s) (hn : n < 2) (hi : i < 66) : o.Noted (s.portGap n i) :=
  (h.finc (noteReg_err hn hi)).report

theorem Dev.Noted.portRx {n i : Nat} {x : Rx} (h : o.Noted s) (hn : n < 2) (hi : i < 66) : o.Noted (s.portRx n i x) :=
  have h1 := Dev.Noted.ite h (h.portCrc hn hi)
  .ite h1 (h1.portGap hn hi)

theorem Dev.Noted.fget (h : o.Noted s) {f : Field} (hf : ¬ noteReg f.reg) : s.fget f = o.fget f := by
  simp only [Dev.fget, h.regs _ hf]

theorem Dev.Noted.fbit (h : o.Noted s) {f : Field} (hf : ¬ noteReg f.reg) : s.fbit f = o.fbit f := by
  simp only [Dev.fbit, h.fget hf]

theorem Dev.Noted.variant (h : o.Noted s) : s.variant = o.variant := by rw [h.eq]
theorem Dev.Noted.cd (h : o.Noted s) : s.cd = o.cd := by rw [h.eq]; rfl
theorem Dev.Noted.rd (h : o.Noted s) : s.rd = o.rd := by rw [h.eq]; rfl
theorem Dev.Noted.cell (h : o.Noted s) : s.cell = o.cell := by rw [h.eq]; rfl
theorem Dev.Noted.rings (h : o.Noted s) : s.rings = o.rings := by rw [h.eq]
theorem Dev.Noted.ring (h : o.Noted s) : s.ring = o.ring := by rw [h.eq]; rfl
theorem Dev.Noted.clk (h : o.Noted s) : s.sh.clk = o.sh.clk := by rw [h.eq]
theorem Dev.Noted.pin (h : o.Noted s) : s.sh.pin = o.sh.pin := by rw [h.eq]
theorem Dev.Noted.tly (h : o.Noted s) : s.sh.tly = o.sh.tly := by rw [h.eq]
end

/-! ### What the passing of time leaves alone -/

/-- Block s is as o was but for what counts time: raw counters, the AQ and the cells. -/
def Dev.Timed (o s : Dev) : Prop :=
  s = { o with rd0 := s.rd0, rd1 := s.rd1, aq := s.aq, cells := s.cells, sh := { o.sh with clk := { o.sh.clk with raw := s.sh.clk.raw } } }

theorem Dev.Timed.ite {o a b : Dev} {c : Prop} [Decidable c] (ha : o.Timed a) (hb : o.Timed b) : o.Timed (if c then a else b) := by
  split <;> assumption

theorem Dev.Timed.modRd {o s : Dev} {n : Nat} {f : RingDie → RingDie} (h : o.Timed s) : o.Timed (s.modRd n f) := by
  unfold Dev.Timed at h ⊢
  rw [h]
  rcases n with _ | n <;> rfl

theorem Dev.elapse_timed (s : Dev) (n : Nat) : s.Timed (s.elapse n) := by
  unfold Dev.elapse
  extract_lets +onlyGivenNames w run t1 t2 t3
  have h1 : s.Timed t1 := .ite rfl rfl
  have h2 : s.Timed t2 := .ite h1.modRd h1
  have h3 : s.Timed t3 := .ite h2.modRd h2
  have h4 : s.Timed (if run && t3.running 6 then { t3 with aq := { t3.aq with raw := t3.aq.raw + w } } else t3) :=
    .ite (by unfold Dev.Timed at h3 ⊢; rw [h3]) h3
  unfold Dev.Timed at h4 ⊢
  rw [h4]

section
variable (s : Dev) (n : Nat)

@[simp] theorem Dev.elapse_variant : (s.elapse n).variant = s.variant := by
  rw [s.elapse_timed n]

@[simp] theorem Dev.elapse_regs : (s.elapse n).regs = s.regs := by
  rw [s.elapse_timed n]

@[simp] theorem Dev.elapse_rings : (s.elapse n).rings = s.rings := by
  rw [s.elapse_timed n]

@[simp] theorem Dev.elapse_out : (s.elapse n).out = s.out := by
  rw [s.elapse_timed n]

@[simp] theorem Dev.elapse_pin : (s.elapse n).sh.pin = s.sh.pin := by
  rw [s.elapse_timed n]

@[simp] theorem Dev.elapse_tly : (s.elapse n).sh.tly = s.sh.tly := by
  rw [s.elapse_timed n]
end

end Sys2Proof.Machine
end

section
/-!
PROOFS for the family `01_package_and_flock`: transactions (O53).
-/
namespace Sys2Proof.Machine

/-! ### A corrected fault is told to the host (R652, R653, R662) -/

/-- The block has sent l, bus mastering is on, and vector v is unmasked with none of its causes set. -/
structure Dev.Listens (v : Nat) (l : List Emission) (s : Dev) : Prop where
  master : s.sh.pin.busMaster = true
  cause : s.fbit ⟨GLB_IRQ_STAT, v, 1⟩ = false
  mask : s.fbit (GLB_MSIX_CTL_MASK v) = false
  out : s.out = l

section
variable {l : List Emission} {s : Dev} {v : Nat}

theorem Dev.fbit_fset_reg (s : Dev) {f g : Field} (x : Nat) (h : g.reg ≠ f.reg) : (s.fset f x).fbit g = s.fbit g := by
  simp only [Dev.fbit, Dev.fget_fset_reg s x h]

theorem Dev.Listens.flt {f : ShFlt → ShFlt} (h : s.Listens v l) : (s.flt f).Listens v l := ⟨h.master, h.cause, h.mask, h.out⟩

theorem Dev.Listens.fset {f : Field} {x : Nat} (h : s.Listens v l) (hf : f.reg ≠ GLB_IRQ_STAT) (hm : f.reg ≠ GLB_MSIX_CTL v) :
    (s.fset f x).Listens v l where
  master := h.master
  cause := (Dev.fbit_fset_reg s x hf.symm).trans h.cause
  mask := (Dev.fbit_fset_reg s x hm.symm).trans h.mask
  out := h.out

theorem Dev.Listens.ite {a b : Dev} {c : Prop} [Decidable c] (ha : a.Listens v l) (hb : b.Listens v l) :
    (if c then a else b).Listens v l := by
  split <;> assumption

theorem Dev.Listens.history {src inst : Nat} (h : s.Listens v l) : (s.history src inst).1.Listens v l := by
  unfold Dev.history
  extract_lets +onlyGivenNames _ _ _ _ _ _ _ _
  dsimp only
  exact h.flt

theorem Dev.Listens.msix (h : s.Listens v l) : (s.msix v).out = .msix v :: l := by
  simp only [Dev.msix, h.mask, h.master, ← h.out]
  rfl

/-- The vector's message goes out as its cause is raised. -/
theorem Dev.Listens.irq (h : s.Listens v l) (hv : GLB_MSIX_CTL v ≠ GLB_IRQ_STAT) : (s.irq v).out = .msix v :: l := by
  have unmasked : (s.fset ⟨GLB_IRQ_STAT, v, 1⟩ 1).fbit (GLB_MSIX_CTL_MASK v) = false :=
    (Dev.fbit_fset_reg s 1 hv).trans h.mask
  simp only [Dev.irq, h.cause, Bool.false_eq_true, if_false, Dev.msix, unmasked, Dev.fset_sh, h.master, if_true, Dev.emit, Dev.fset_out, h.out]

/-- The log entry of a corrected fault raises vector 33. -/
theorem Dev.Listens.logEntry {cls : Cls} {flags : Nat} {src : Src} {inst code det : Nat} (h : s.Listens 33 l)
    (hc : cls = .corr) : (s.logEntry cls flags src inst code det).out = .msix 33 :: l := by
  unfold Dev.logEntry Dev.logWith
  extract_lets +onlyGivenNames _ _ _ _ t1 t2 t3
  have h1 : t1.Listens 33 l := h.flt
  have h2 : t2.Listens 33 l := .ite (Dev.Listens.fset h1 (by decide) (by decide)) h1
  have h3 : t3.Listens 33 l := h2.fset (by decide) (by decide)
  split
  · exact absurd hc (by decide)
  · exact absurd hc (by decide)
  · exact h3.irq (by decide)

theorem Dev.Listens.report {src : Src} {inst code det : Nat} (h : s.Listens 33 l) :
    (s.report .corr src inst code det).out = .msix 33 :: l := by
  simp only [Dev.report, Dev.event]
  split
  · rw [Dev.finc_out, Dev.finc_out]
    exact h.history.logEntry rfl
  · rw [Dev.finc_out]
    exact h.history.logEntry rfl
end

/-! ### A retry -/

/-- A retry is a corrected fault, and the host is told of it before the request goes out. -/
theorem Dev.txnRetry_out {s : Dev} {tag : Nat} {l : List Emission} {e : Nat × Tag} (h : s.Listens 33 l)
    (hf : (s.rd (s.rdOfTag tag)).tags.find? (fun e => decide (e.1 = tag)) = some e) (hr : e.2.retries < 2)
    (own : s.ownsEnd (if e.2.toB then .b else .a) = true) : ∃ b, (s.txnRetry tag).out = b :: .msix 33 :: l := by
  have hr' : ¬ 2 ≤ e.2.retries := by omega
  simp only [Dev.txnRetry, hf, hr', if_false]
  generalize hu : ((s.elapse _).modRd _ _) = u
  have regs : u.regs = s.regs := by simp [← hu]
  have variant : u.variant = s.variant := by simp [← hu]
  have hu1 : (u.finc (RDn_TXN_STAT_RETRY (s.rdOfTag tag) (u.ringIx e.2.ring))).Listens 33 l := by
    refine Dev.Listens.fset ⟨?_, ?_, ?_, ?_⟩ ?_ ?_
    · simp [← hu, h.master]
    · simpa [Dev.fbit, Dev.fget_congr regs] using h.cause
    · simpa [Dev.fbit, Dev.fget_congr regs] using h.mask
    · simp [← hu, h.out]
    · simp only [RDn_TXN_STAT_RETRY, RDn_TXN_STAT, rdBase, GLB_IRQ_STAT]
      omega
    · simp only [RDn_TXN_STAT_RETRY, RDn_TXN_STAT, rdBase, GLB_MSIX_CTL]
      omega
  have owned : ∀ f, Field.reg f ≠ SH_TWIN_STAT →
      ((u.finc f).report .corr .txn e.2.ring 0 0).ownsEnd (if e.2.toB then .b else .a) = true := by
    intro f hf
    have noted := (Dev.Noted.refl (u.finc f)).report (cls := .corr) (src := .txn) (inst := e.2.ring) (code := 0) (det := 0)
    refine (congrFun (Dev.ownsEnd_congr (noted.variant.trans variant) ?_) _).trans own
    rw [noted.regs _ not_noteReg_twin, Dev.finc, Dev.fadd, Dev.rget_fset_reg _ _ hf.symm, Dev.rget_congr regs]
  rw [if_pos (owned _ ?_)]
  · obtain ⟨n, hn⟩ := Dev.send_out _ _ _ _
    exact ⟨_, by rw [hn, hu1.report]⟩
  · simp only [RDn_TXN_STAT_RETRY, RDn_TXN_STAT, rdBase, SH_TWIN_STAT]
    omega

/-- A tag in use, of a request that RD-0 sent on end A of ring 0. -/
def retryTag : Tag :=
  { gen := 1, owner := .slot 0, req := 0, ring := 0, pos := 0, toB := false, retries := 0, sentAt := 0, lastAt := 0 }

/-- The package after reset, with tag 0 in use, bus mastering on and vector 33 unmasked. -/
def State.retrying : State :=
  { State.reset with dev := { Dev.reset with
      regs := [(GLB_MSIX_CTL 33, 0)]
      rd0 := { RingDie.reset with tags := [(0, retryTag)] }
      sh := { Shepherd.reset with pin := { ShPin.reset with busMaster := true } } } }

theorem State.retrying_listens : State.retrying.dev.Listens 33 [] :=
  ⟨rfl, by decide +kernel, by decide +kernel, rfl⟩

/-- Refutes O53: a retry sends the request again, but its log entry has told the host of it first, so since the command began the
    block has sent a message of vector 33 beside the request. -/
theorem not_transactionResults : ¬ Obligations.TransactionResults := by
  unfold Obligations.TransactionResults
  intro h
  obtain ⟨-, -, retry, -⟩ := h State.retrying 0 .a 0 ⟨true, 0, true⟩ 0 retryTag 0 0
  obtain ⟨-, again, -⟩ := retry rfl
  obtain ⟨d, hd, -, -, -, own, -⟩ := again (by decide)
  obtain ⟨only, -⟩ := own (by decide +kernel)
  have same : State.retrying.dev.txnRetry 0 = d := congrArg State.dev (Host.Outcome.next.inj hd)
  obtain ⟨b, hb⟩ := Dev.txnRetry_out State.retrying_listens (tag := 0) (e := (0, retryTag)) rfl (by decide)
    (by decide +kernel)
  rw [← same, hb] at only
  exact absurd only (by simp [State.retrying, State.reset, Dev.reset])

end Sys2Proof.Machine
end

section
/-!
PROOFS for the family `01_package_and_flock`: admission, gates, retirement and mirrors of the lanes (O46).
-/
namespace Sys2Proof.Machine

/-! ### Commands that complete -/

theorem State.goes_upd {s : State} {c : Instr} {f : Dev → Dev} {P : Dev → Prop} (e : exec c s = s.upd f) (h : P (f s.dev)) :
    s.goes c P := ⟨f s.dev, e, h⟩

theorem State.goes_updIf {s : State} {c : Instr} {ok : Bool} {f : Dev → Dev} {P : Dev → Prop} (e : exec c s = s.updIf ok f)
    (hok : ok = true) (h : P (f s.dev)) : s.goes c P := by
  subst hok
  exact ⟨f s.dev, e, h⟩

theorem exec_laneAdmission (s : State) : exec .laneAdmission s = s.upd Dev.admitLane := rfl

theorem exec_gateOpen (s : State) (die : CDie) :
    exec (.gateOpen die) s = s.updIf (s.dev.present die.idx) (fun d => d.openGate die.idx) := rfl

theorem exec_retire (s : State) (dies : BitVec 4) : exec (.retire dies) s = s.upd (fun d => d.retireWrite dies.toNat) := rfl

theorem exec_votedMirrorReceive (s : State) (die : CDie) (src : RDie) (b : MirrorCopy) :
    exec (.votedMirrorReceive die src b) s = execVotedMirrorReceive die src b s := rfl

theorem exec_hurdleOutRelease (s : State) : exec .hurdleOutRelease s = execHurdleOutRelease s := rfl

/-! ### Fields of the lanes' registers -/

/-- A field that shares no bit with the one written stays. -/
theorem Dev.fget_fset_ne (s : Dev) {f g : Field} (v : Nat) (hf : f.lo + f.width ≤ 64)
    (h : g.reg ≠ f.reg ∨ g.lo + g.width ≤ f.lo ∨ f.lo + f.width ≤ g.lo) : (s.fset f v).fget g = s.fget g := by
  by_cases hr : g.reg = f.reg
  · exact Dev.fget_fset_bits s v hf (h.resolve_left (not_not.2 hr)) hr
  · exact Dev.fget_fset_reg s v hr

theorem SH_LANE_STAT_ne {i j : Nat} (h : j ≠ i) : SH_LANE_STAT j ≠ SH_LANE_STAT i := by
  simp only [SH_LANE_STAT]
  omega

theorem Dev.lane_congr {o s : Dev} (h : s.regs = o.regs) (j : Nat) : s.lane j = o.lane j := Dev.fget_congr h _

theorem Dev.lane_fset_ne (s : Dev) {i j : Nat} {f : Field} (v : Nat) (hr : f.reg = SH_LANE_STAT i) (h : j ≠ i) :
    (s.fset f v).lane j = s.lane j := Dev.fget_fset_reg s v (by rw [hr]; exact SH_LANE_STAT_ne h)

/-- The state of a lane stands in the three lowest bits of its register. -/
theorem Dev.lane_fset_high (s : Dev) {j : Nat} {f : Field} (v : Nat) (hf : f.lo + f.width ≤ 64) (h : 3 ≤ f.lo) :
    (s.fset f v).lane j = s.lane j := Dev.fget_fset_ne s v hf (.inr (.inl h))

theorem Dev.lane_fset_state (s : Dev) (i : Nat) {st : Nat} (h : st < 8) : (s.fset (SH_LANE_STAT_STATE i) st).lane i = st := by
  rw [Dev.lane, Dev.fget_fset_same _ _ _ (by simp [SH_LANE_STAT_STATE])]
  exact Nat.mod_eq_of_lt h

/-! ### Admission (R320, R321) -/

/-- What bars an admission in any mode. -/
theorem Dev.not_room_iff (s : Dev) (i : Nat) :
    (s.lane i ≠ 2 ∨ s.freeInputs.isEmpty = true ∨ 3 ≤ s.counting.length + s.probing.length) ↔
      ¬ (s.lane i = 2 ∧ s.freeInputs ≠ [] ∧ s.counting.length + s.probing.length < 3) := by
  rw [List.isEmpty_iff, ← Nat.not_lt]
  tauto

theorem Dev.admitTo_eq_four (s : Dev) (i : Nat) : s.admitTo i = some 4 ↔
    s.lane i = 2 ∧ (s.freeInputs ≠ [] ∧ s.counting.length + s.probing.length < 3) ∧ s.quiet = true := by
  have closed := s.not_room_iff i
  simp only [Dev.admitTo]
  split_ifs <;> simp_all

theorem Dev.admitTo_eq_three (s : Dev) (i : Nat) : s.admitTo i = some 3 ↔
    s.lane i = 2 ∧ (s.freeInputs ≠ [] ∧ s.counting.length + s.probing.length < 3) ∧ s.quiet = false ∧ s.mode < 5 ∧
      s.counting.length < 3 ∧ s.fget (SH_LANE_STAT_MAGE i) ≤ 4 ∧ s.vsigOf i = s.fget SH_VOTE_SIG_RUN := by
  have closed := s.not_room_iff i
  simp only [Dev.admitTo]
  split_ifs <;> simp_all

theorem Dev.admitTo_cases {s : Dev} {i st : Nat} (h : s.admitTo i = some st) : st = 3 ∨ st = 4 := by
  simp only [Dev.admitTo] at h
  split_ifs at h <;> simp_all

/-- What the guard of an admission asks in any mode. -/
theorem Dev.admitTo_room {s : Dev} {i st : Nat} (h : s.admitTo i = some st) :
    s.lane i = 2 ∧ s.freeInputs ≠ [] ∧ s.counting.length + s.probing.length < 3 := by
  rcases Dev.admitTo_cases h with rfl | rfl
  · obtain ⟨h1, ⟨h2, h3⟩, -⟩ := (s.admitTo_eq_three i).1 h
    exact ⟨h1, h2, h3⟩
  · obtain ⟨h1, ⟨h2, h3⟩, -⟩ := (s.admitTo_eq_four i).1 h
    exact ⟨h1, h2, h3⟩

theorem Dev.freeInputs_lt {s : Dev} {i : Nat} (h : i ∈ s.freeInputs) : i < 3 := List.mem_range.1 (List.mem_of_mem_filter h)

theorem Dev.admitLane_none {s : Dev} (h : ∀ j, j < 4 → s.admitTo j = none) : s.admitLane = s := by
  have none_holds : (List.range 4).find? (fun d => (s.admitTo d).isSome) = none := by
    rw [List.find?_eq_none]
    intro j hj
    simp [h j (List.mem_range.1 hj)]
  simp [Dev.admitLane, none_holds]

/-- The block as lane i is admitted to state st: its registers, and what its generators may add. -/
def Dev.admitted_ (s : Dev) (i st : Nat) : Dev :=
  let s := if s.counting.isEmpty then s.fset SH_VOTE_SIG_RUN (s.vsigOf i) else s
  ((s.fset (SH_LANE_STAT_STATE i) st).fset (SH_LANE_STAT_INPUT i) (s.freeInputs.headD 3)).fset (SH_LANE_STAT_PCNT i) 0

theorem Dev.enterVote_regs (s : Dev) (d : Nat) : (s.enterVote d).regs = s.regs := by
  unfold Dev.enterVote
  split <;> simp

theorem Dev.admitLane_regs {s : Dev} {i st : Nat} (hi : i < 4) (h : s.admitTo i = some st) (hlow : ∀ j, j < i → s.admitTo j = none) :
    s.admitLane.regs = (s.admitted_ i st).regs := by
  have first : (List.range 4).find? (fun d => (s.admitTo d).isSome) = some i := by
    rw [List.find?_range_eq_some]
    exact ⟨by simp [h], List.mem_range.2 hi, fun j hj => by simp [hlow j hj]⟩
  simp only [Dev.admitLane, first, h, Option.getD_some]
  split
  · exact Dev.enterVote_regs _ _
  · rfl

/-- The signature that the first counting lane sets lies in another register than the lanes. -/
theorem Dev.fget_sigRun (s : Dev) (v : Nat) {f : Field} {j : Nat} (hf : f.reg = SH_LANE_STAT j) (p : Prop) [Decidable p] :
    (if p then s.fset SH_VOTE_SIG_RUN v else s).fget f = s.fget f := by
  split
  · refine Dev.fget_fset_reg s v ?_
    rw [hf]
    simp only [SH_LANE_STAT, SH_VOTE_SIG_RUN, SH_VOTE_SIG]
    omega
  · rfl

theorem Dev.freeInputs_congr {o s : Dev} (h : ∀ j, s.fget (SH_LANE_STAT_INPUT j) = o.fget (SH_LANE_STAT_INPUT j)) :
    s.freeInputs = o.freeInputs := by
  simp only [Dev.freeInputs, h]

theorem Dev.lane_admitted_same (s : Dev) (i : Nat) {st : Nat} (h : st < 8) : (s.admitted_ i st).lane i = st := by
  simp only [Dev.admitted_]
  rw [Dev.lane_fset_high _ _ (by simp [SH_LANE_STAT_PCNT]) (by simp [SH_LANE_STAT_PCNT]),
    Dev.lane_fset_high _ _ (by simp [SH_LANE_STAT_INPUT]) (by simp [SH_LANE_STAT_INPUT]), Dev.lane_fset_state _ _ h]

theorem Dev.lane_admitted_ne (s : Dev) {i j st : Nat} (h : j ≠ i) : (s.admitted_ i st).lane j = s.lane j := by
  simp only [Dev.admitted_]
  rw [Dev.lane_fset_ne _ _ rfl h, Dev.lane_fset_ne _ _ rfl h, Dev.lane_fset_ne _ _ rfl h]
  exact Dev.fget_sigRun s _ rfl _

theorem Dev.pcnt_admitted (s : Dev) (i st : Nat) : (s.admitted_ i st).fget (SH_LANE_STAT_PCNT i) = 0 := by
  simp only [Dev.admitted_]
  rw [Dev.fget_fset_same _ _ _ (by simp [SH_LANE_STAT_PCNT])]
  rfl

theorem Dev.input_admitted {s : Dev} (i st : Nat) (h : s.freeInputs ≠ []) :
    (s.admitted_ i st).fget (SH_LANE_STAT_INPUT i) ∈ s.freeInputs := by
  have free := Dev.freeInputs_congr (fun j => s.fget_sigRun (s.vsigOf i) (f := SH_LANE_STAT_INPUT j) rfl (s.counting.isEmpty = true))
  obtain ⟨a, l, e⟩ := List.exists_cons_of_ne_nil h
  have ha : a ∈ s.freeInputs := by simp [e]
  have hlt : a < 2 ^ 2 := by have := Dev.freeInputs_lt ha; omega
  simp only [Dev.admitted_]
  rw [Dev.fget_fset_ne _ _ (by simp [SH_LANE_STAT_PCNT]) (.inr (.inl (by simp [SH_LANE_STAT_PCNT, SH_LANE_STAT_INPUT]))),
    Dev.fget_fset_same _ _ _ (by simp [SH_LANE_STAT_INPUT]), free, e, List.headD_cons, ← e]
  exact (Nat.mod_eq_of_lt hlt).symm ▸ ha

theorem Dev.sigRun_admitted {s : Dev} (i st : Nat) (h : s.counting = []) :
    (s.admitted_ i st).fget SH_VOTE_SIG_RUN = s.vsigOf i := by
  have other : ∀ f, Field.reg f = SH_LANE_STAT i → SH_VOTE_SIG_RUN.reg ≠ f.reg := by
    intro f hf
    rw [hf]
    simp only [SH_LANE_STAT, SH_VOTE_SIG_RUN, SH_VOTE_SIG]
    omega
  simp only [Dev.admitted_, h, List.isEmpty_nil, if_true]
  rw [Dev.fget_fset_reg _ _ (other _ rfl), Dev.fget_fset_reg _ _ (other _ rfl), Dev.fget_fset_reg _ _ (other _ rfl),
    Dev.fget_fset_same _ _ _ (by decide)]
  exact Nat.mod_eq_of_lt (BitVec.isLt _)

/-- How many of the four lanes are in a state. -/
theorem Dev.lanes_in (s : Dev) (n : Nat) : ((List.range 4).filter (fun d => decide (s.lane d = n))).length =
    b2n (decide (s.lane 0 = n)) + b2n (decide (s.lane 1 = n)) + b2n (decide (s.lane 2 = n)) + b2n (decide (s.lane 3 = n)) := by
  simp only [List.range, List.range.loop, List.filter_cons, List.filter_nil, b2n]
  split_ifs <;> simp_all

/-- One lane more is of the two states: that of the die admitted, which was a SPARE. -/
theorem Dev.counting_admitted {s d : Dev} {i st : Nat} (hi : i < 4) (hs : s.lane i = 2) (hd : d.lane i = st)
    (hst : st = 3 ∨ st = 4) (other : ∀ j, j < 4 → j ≠ i → d.lane j = s.lane j) :
    d.counting.length + d.probing.length = s.counting.length + s.probing.length + 1 := by
  simp only [Dev.counting, Dev.probing, Dev.lanes_in]
  interval_cases i <;> rcases hst with rfl | rfl <;> simp [other, hs, hd, b2n] <;> omega

/-- LANE_ADMISSION admits the lowest die whose guard holds. -/
theorem Dev.admitLane_spec {s : Dev} {i st : Nat} (hi : i < 4) (h : s.admitTo i = some st) (hlow : ∀ j, j < i → s.admitTo j = none) :
    let d := s.admitLane
    d.lane i = st ∧ (st = 3 ∨ st = 4) ∧ d.fget (SH_LANE_STAT_PCNT i) = 0 ∧ d.fget (SH_LANE_STAT_INPUT i) ∈ s.freeInputs ∧
      (s.counting = [] → d.fget SH_VOTE_SIG_RUN = s.vsigOf i) ∧ (∀ j, j < 4 → j ≠ i → d.lane j = s.lane j) ∧
      d.counting.length + d.probing.length ≤ 3 := by
  have hst := Dev.admitTo_cases h
  obtain ⟨spare, free, few⟩ := Dev.admitTo_room h
  have regs := Dev.admitLane_regs hi h hlow
  have lane : s.admitLane.lane i = st := (Dev.lane_congr regs i).trans (s.lane_admitted_same i (by omega))
  have others : ∀ j, j < 4 → j ≠ i → s.admitLane.lane j = s.lane j := fun j _ hj =>
    (Dev.lane_congr regs j).trans (s.lane_admitted_ne hj)
  have more := Dev.counting_admitted hi spare lane hst others
  refine ⟨lane, hst, (Dev.fget_congr regs _).trans (s.pcnt_admitted i st), ?_, fun hc => ?_, others, by omega⟩
  · rw [Dev.fget_congr regs]
    exact Dev.input_admitted i st free
  · rw [Dev.fget_congr regs]
    exact Dev.sigRun_admitted i st hc

/-! ### Gates (R323) -/

@[simp] theorem Dev.hurdleStandalone_regs (s : Dev) : s.hurdleStandalone.regs = s.regs := by
  unfold Dev.hurdleStandalone
  split <;> rfl

@[simp] theorem Dev.hurdleStandalone_vote (s : Dev) : s.hurdleStandalone.sh.vote = s.sh.vote := by
  unfold Dev.hurdleStandalone
  split <;> rfl

theorem Dev.openGate_spec {s : Dev} {i : Nat}
    (h : (s.lane i = 3 ∨ s.lane i = 4) ∧ s.fget (SH_LANE_STAT_INPUT i) < 3 ∧ Store.get (fun _ => 0) s.sh.vote.gateOf i = 0 ∧
      (∀ e ∈ s.sh.vote.gateOf, e.2 ≠ s.fget (SH_LANE_STAT_INPUT i) + 1) ∧ (s.twin = true ∨ s.sh.pin.hurdleIn = true)) :
    Store.get (fun _ => 0) (s.openGate i).sh.vote.gateOf i = s.fget (SH_LANE_STAT_INPUT i) + 1 ∧ (s.openGate i).regs = s.regs ∧
      Store.get (fun _ => 0) (s.openGate i).sh.vote.gateFrom i = s.fromStile := by
  obtain ⟨lane, inp, shut, free, hurdle⟩ := h
  have opens : (s.lane i = 3 ∨ s.lane i = 4) ∧ s.fget (SH_LANE_STAT_INPUT i) < 3 ∧ Store.get (fun _ => 0) s.sh.vote.gateOf i = 0 ∧
      s.sh.vote.gateOf.all (fun e => decide (e.2 ≠ s.fget (SH_LANE_STAT_INPUT i) + 1)) = true ∧
      (s.twin = true ∨ s.sh.pin.hurdleIn = true) := ⟨lane, inp, shut, by simpa using free, hurdle⟩
  simp only [Dev.openGate, if_pos opens]
  simp

theorem Dev.openGate_shut {s : Dev} {i : Nat}
    (h : ¬ ((s.lane i = 3 ∨ s.lane i = 4) ∧ s.fget (SH_LANE_STAT_INPUT i) < 3 ∧ Store.get (fun _ => 0) s.sh.vote.gateOf i = 0 ∧
      (∀ e ∈ s.sh.vote.gateOf, e.2 ≠ s.fget (SH_LANE_STAT_INPUT i) + 1) ∧ (s.twin = true ∨ s.sh.pin.hurdleIn = true))) :
    s.openGate i = s := by
  refine if_neg fun ⟨lane, inp, shut, free, hurdle⟩ => h ⟨lane, inp, shut, by simpa using free, hurdle⟩

/-! ### Planned retirement (R322) -/

theorem Dev.laneLeave_regs (s : Dev) (i st : Nat) : (s.laneLeave i st).regs =
    (((s.fset (SH_LANE_STAT_STATE i) st).fset (SH_LANE_STAT_PCNT i) 0).fset (SH_LANE_STAT_INPUT i) 3).regs := by
  simp [Dev.laneLeave, Dev.closeGate]

/-- A lane that leaves the vote: its state, its input freed, its probation count and its gate. -/
theorem Dev.laneLeave_spec (s : Dev) (i : Nat) {st : Nat} (h : st < 8) :
    (s.laneLeave i st).lane i = st ∧ (s.laneLeave i st).fget (SH_LANE_STAT_INPUT i) = 3 ∧
      (s.laneLeave i st).fget (SH_LANE_STAT_PCNT i) = 0 ∧ Store.get (fun _ => 0) (s.laneLeave i st).sh.vote.gateOf i = 0 ∧
      ∀ j, j < 4 → j ≠ i → (s.laneLeave i st).lane j = s.lane j := by
  have regs := s.laneLeave_regs i st
  refine ⟨?_, ?_, ?_, by simp [Dev.laneLeave, Dev.closeGate], fun j _ hj => ?_⟩
  · rw [Dev.lane_congr regs, Dev.lane_fset_high _ _ (by simp [SH_LANE_STAT_INPUT]) (by simp [SH_LANE_STAT_INPUT]),
      Dev.lane_fset_high _ _ (by simp [SH_LANE_STAT_PCNT]) (by simp [SH_LANE_STAT_PCNT]), Dev.lane_fset_state _ _ h]
  · rw [Dev.fget_congr regs, Dev.fget_fset_same _ _ _ (by simp [SH_LANE_STAT_INPUT])]
    rfl
  · rw [Dev.fget_congr regs,
      Dev.fget_fset_ne _ _ (by simp [SH_LANE_STAT_INPUT]) (.inr (.inr (by simp [SH_LANE_STAT_PCNT, SH_LANE_STAT_INPUT]))),
      Dev.fget_fset_same _ _ _ (by simp [SH_LANE_STAT_PCNT])]
    rfl
  · rw [Dev.lane_congr regs, Dev.lane_fset_ne _ _ rfl hj, Dev.lane_fset_ne _ _ rfl hj, Dev.lane_fset_ne _ _ rfl hj]

/-- What a bit of RETIRE does to its lane. -/
def Dev.retireOne (s : Dev) (j : Nat) : Dev :=
  if s.lane j ≠ 4 then s else if s.retireRefused then s.refuseWr SH_LANE_CTL else s.planned j

theorem Dev.retireWrite_eq (s : Dev) (dies : BitVec 4) :
    s.retireWrite dies.toNat = [0, 1, 2, 3].foldl (fun e j => if dies.getLsbD j then e.retireOne j else e) s := by
  simp only [Dev.retireWrite, forAll]
  congr 1
  funext e j
  have bit : bitOf dies.toNat j = dies.getLsbD j := by
    rw [bitOf, BitVec.getLsbD, Nat.testBit_eq_decide_div_mod_eq]
  by_cases hl : e.lane j = 4 <;> simp [bit, hl, Dev.retireOne]

/-- RETIRE of one die. -/
theorem Dev.retireWrite_single (s : Dev) {i : Nat} (hi : i < 4) : s.retireWrite (BitVec.ofNat 4 (2 ^ i)).toNat = s.retireOne i := by
  rw [Dev.retireWrite_eq]
  interval_cases i <;> rfl

theorem Dev.retireRefused_iff (s : Dev) : s.retireRefused = true ↔ (s.mode = 2 ∨ s.mode = 3 ∨ s.mode = 4) ∧ s.counting.length ≤ 2 := by
  simp [Dev.retireRefused, or_assoc]

/-! ### The voted mirror (R309, R317) -/

/-- The copy is whole: its header counts the blocks that follow it. -/
def wholeMirror (l : List Blk) : Prop := ∃ hd rest, l = hd :: rest ∧ Blk.get hd 2 16 = rest.length

/-- Copy l of the mirror is committed in die i of block s. -/
def Dev.commits (s : Dev) (i : Nat) (l : List Blk) (d : Dev) : Prop :=
  (d.cd i).mirPend = some l ∧ d.fget (SH_LANE_STAT_MAGE i) = 0 ∧ d.lane i = if s.lane i = 1 then 2 else s.lane i

/-- Block d commits nothing in die i that block s did not. -/
def Dev.keepsMirror (s : Dev) (i : Nat) (d : Dev) : Prop := (d.cd i).mirPend = (s.cd i).mirPend ∧ d.lane i = s.lane i

theorem Dev.cd_fset (s : Dev) (f : Field) (v : Nat) : (s.fset f v).cd = s.cd := rfl

theorem Dev.commitMirror_whole {s : Dev} {i : Nat} {l : List Blk} (h : wholeMirror l) :
    s.commits i l (s.commitMirror i l) ∧ ((s.commitMirror i l).cd i).mirRx = (s.cd i).mirRx := by
  obtain ⟨hd, rest, rfl, whole⟩ := h
  simp only [Dev.commitMirror, whole, if_true]
  generalize hm : s.modCd i (fun x => { x with mirPend := some (hd :: rest) }) = m
  have pend : (m.cd i).mirPend = some (hd :: rest) := by rw [← hm, Dev.cd_modCd_same]
  have rx : (m.cd i).mirRx = (s.cd i).mirRx := by rw [← hm, Dev.cd_modCd_same]
  have mage : (m.fset (SH_LANE_STAT_MAGE i) 0).fget (SH_LANE_STAT_MAGE i) = 0 := by
    rw [Dev.fget_fset_same _ _ _ (by simp [SH_LANE_STAT_MAGE])]
    rfl
  have lane : (m.fset (SH_LANE_STAT_MAGE i) 0).lane i = s.lane i :=
    (Dev.lane_fset_high m 0 (by simp [SH_LANE_STAT_MAGE]) (by simp [SH_LANE_STAT_MAGE])).trans
      (Dev.lane_congr (by simp [← hm]) i)
  rw [lane]
  split_ifs with out
  · simp only [Dev.commits, Dev.cd_fset]
    refine ⟨⟨pend, ?_, ?_⟩, rx⟩
    · rw [Dev.fget_fset_ne _ _ (by simp [SH_LANE_STAT_STATE]) (.inr (.inr (by simp [SH_LANE_STAT_MAGE, SH_LANE_STAT_STATE]))), mage]
    · rw [Dev.lane_fset_state _ _ (by omega), if_pos out]
  · simp only [Dev.commits, Dev.cd_fset]
    exact ⟨⟨pend, mage, by rw [lane, if_neg out]⟩, rx⟩

theorem Dev.commitMirror_partial {s : Dev} {i : Nat} {l : List Blk} (h : ¬ wholeMirror l) : s.commitMirror i l = s := by
  cases l with
  | nil => rfl
  | cons hd rest => exact if_neg fun e => h ⟨hd, rest, rfl, e⟩

theorem not_noteReg_lane (i : Nat) (hi : i < 4) : ¬ noteReg (SH_LANE_STAT i) := by
  refine not_noteReg_low ?_ ?_ ?_ ?_ ?_ <;>
    simp only [SH_LANE_STAT, GLB_IRQ_STAT, GLB_MSIX_PBA, SH_FLT_STAT, SH_LOG_STAT] <;> omega

/-- One copy alone, where the other ring die has no power. -/
theorem Dev.mirrorIn_alone {s : Dev} {i n : Nat} {l : List Blk} (h : s.powered (4 + (1 - n)) = false) :
    s.mirrorIn i n l = s.commitMirror i l := by
  simp [Dev.mirrorIn, h]

/-- The first of two copies waits for the other. -/
theorem Dev.mirrorIn_first {s : Dev} {i n : Nat} {l old : List Blk} (h : s.powered (4 + (1 - n)) = true)
    (hr : (s.cd i).mirRx = none ∨ (s.cd i).mirRx = some (n, old)) :
    s.mirrorIn i n l = s.modCd i (fun x => { x with mirRx := some (n, l) }) := by
  rcases hr with hr | hr <;> simp [Dev.mirrorIn, h, hr]

/-- The second of two copies decides. -/
theorem Dev.mirrorIn_second {s : Dev} {i n : Nat} {l old : List Blk} (h : s.powered (4 + (1 - n)) = true) (hn : n < 2)
    (hr : (s.cd i).mirRx = some (1 - n, old)) :
    s.mirrorIn i n l =
      let t := s.modCd i (fun x => { x with mirRx := none })
      if old = l then t.commitMirror i l else t.report .corr .mirror i 0 0 := by
  have other : 1 - n ≠ n := by omega
  simp [Dev.mirrorIn, h, hr, other]

section
variable {s : Dev} {i n : Nat} {l old : List Blk}

theorem Dev.mirrorIn_second_commits (h : s.powered (4 + (1 - n)) = true) (hn : n < 2) (hr : (s.cd i).mirRx = some (1 - n, l))
    (hw : wholeMirror l) : ((s.mirrorIn i n l).cd i).mirRx = none ∧ s.commits i l (s.mirrorIn i n l) := by
  rw [Dev.mirrorIn_second h hn hr]
  simp only [if_true]
  generalize ht : s.modCd i (fun x => { x with mirRx := none }) = t
  have rx : (t.cd i).mirRx = none := by rw [← ht, Dev.cd_modCd_same]
  have lane : t.lane i = s.lane i := Dev.lane_congr (by simp [← ht]) i
  obtain ⟨⟨pend, mage, state⟩, same⟩ := t.commitMirror_whole (i := i) hw
  exact ⟨same.trans rx, pend, mage, by rw [state, lane]⟩

theorem Dev.mirrorIn_second_drops (h : s.powered (4 + (1 - n)) = true) (hn : n < 2) (hi : i < 4)
    (hr : (s.cd i).mirRx = some (1 - n, old)) (hw : old ≠ l ∨ ¬ wholeMirror l) :
    ((s.mirrorIn i n l).cd i).mirRx = none ∧ s.keepsMirror i (s.mirrorIn i n l) := by
  rw [Dev.mirrorIn_second h hn hr]
  dsimp only
  generalize ht : s.modCd i (fun x => { x with mirRx := none }) = t
  have rx : (t.cd i).mirRx = none := by rw [← ht, Dev.cd_modCd_same]
  have pend : (t.cd i).mirPend = (s.cd i).mirPend := by rw [← ht, Dev.cd_modCd_same]
  have lane : t.lane i = s.lane i := Dev.lane_congr (by simp [← ht]) i
  split_ifs with e
  · rw [Dev.commitMirror_partial (hw.resolve_left (not_not.2 e))]
    exact ⟨rx, pend, lane⟩
  · have noted := (Dev.Noted.refl t).report (cls := .corr) (src := .mirror) (inst := i) (code := 0) (det := 0)
    refine ⟨?_, ?_, (noted.fget (not_noteReg_lane i hi)).trans lane⟩
    · rw [noted.cd, rx]
    · rw [noted.cd, pend]
end

/-- The dies of a variant are numbered from 0. -/
theorem cdie_lt (d : CDie) : d.idx < 4 := by cases d <;> decide
theorem rdie_lt (d : RDie) : d.idx < 2 := by cases d <;> decide

/-- A copy comes to a die that takes it. -/
theorem exec_mirror_taken {s : State} {die : CDie} {src : RDie} {g : Image} (b : MirrorCopy) {P : Dev → Prop}
    (hd : s.dev.present die.idx = true) (hs : s.dev.present (4 + src.idx) = true)
    (hr : s.dev.running die.idx = true ∧ s.dev.powered (4 + src.idx) = true ∧ s.dev.sh.vote.agreedMirror = true ∧
      s.dev.sh.vote.agreedDrove = some g ∧ (s.dev.lane die.idx = 1 ∨ s.dev.lane die.idx = 2 ∨ s.dev.lane die.idx = 3))
    (h : P (s.dev.mirrorIn die.idx src.idx (mirrorCopy g.mirror b.arrived b.bad))) : s.goes (.votedMirrorReceive die src b) P := by
  obtain ⟨run, pow, agreed, drove, lane⟩ := hr
  refine State.goes_updIf (exec_votedMirrorReceive s die src b) (by simp [hd, hs]) ?_
  simpa [agreed, drove, run, pow, lane] using h

/-- A copy comes to a die that takes none. -/
theorem exec_mirror_ignored {s : State} {die : CDie} {src : RDie} (b : MirrorCopy)
    (hd : s.dev.present die.idx = true) (hs : s.dev.present (4 + src.idx) = true)
    (h : s.dev.running die.idx = false ∨ s.dev.sh.vote.agreedMirror = false ∨ s.dev.sh.vote.agreedDrove = none ∨
      s.dev.lane die.idx = 4) : s.goes (.votedMirrorReceive die src b) (fun d => d = s.dev) := by
  refine State.goes_updIf (exec_votedMirrorReceive s die src b) (by simp [hd, hs]) ?_
  rcases h with h | h | h | h
  · simp only [h]
    split <;> simp
  · simp [h]
  · simp [h]
  · simp only [h]
    split <;> simp

/-! ### HURDLE_OUT of a twin pair (R332) -/

theorem exec_hurdleOut_release {s : State} (ht : s.dev.twin = true)
    (h : s.dev.sh.clk.t0raw.toNat + (2 * s.dev.periodNs).toNat ≤ s.dev.sh.clk.raw.toNat) :
    s.goes .hurdleOutRelease (fun d => d.sh.pin.hurdleOut = false ∧ d.sh.tw.refreshed = false ∧ d.regs = s.dev.regs) := by
  refine State.goes_upd (exec_hurdleOutRelease s) ?_
  rw [if_pos ⟨ht, h⟩]
  exact ⟨rfl, rfl, rfl⟩

theorem exec_hurdleOut_holds {s : State} (h : s.dev.twin = false ∨
    s.dev.sh.clk.raw.toNat < s.dev.sh.clk.t0raw.toNat + (2 * s.dev.periodNs).toNat) :
    s.goes .hurdleOutRelease (fun d => d = s.dev) := by
  refine State.goes_upd (exec_hurdleOutRelease s) (if_neg ?_)
  rintro ⟨twin, due⟩
  rcases h with h | h
  · simp [h] at twin
  · omega

/-- Settles O46: each command is its guard read off and then one operation on the device, whose own lemma above says
what it leaves behind. -/
theorem laneResults : Obligations.LaneResults := by
  unfold Obligations.LaneResults
  intro s die src dies g n bad old i lane inp v room opens one l whole commits keeps receives recv
  have hi : i < 4 := cdie_lt die
  have hn : src.idx < 2 := rdie_lt src
  refine ⟨s.dev.admitTo_eq_four i, s.dev.admitTo_eq_three i, fun h => ?_, fun st h hlow => ?_, fun hd => ⟨fun h => ?_, fun h => ?_⟩,
    ?_, fun hf h4 => ?_, s.dev.retireRefused_iff, fun hf h4 => ?_, fun h4 => ?_, fun hd hs => ⟨fun h => ?_, fun h => ?_⟩,
    exec_hurdleOut_release, exec_hurdleOut_holds⟩
  · exact State.goes_upd (exec_laneAdmission s) (Dev.admitLane_none h)
  · exact State.goes_upd (exec_laneAdmission s) (Dev.admitLane_spec hi h hlow)
  · exact State.goes_updIf (exec_gateOpen s die) hd (Dev.openGate_spec h)
  · exact State.goes_updIf (exec_gateOpen s die) hd (Dev.openGate_shut h)
  · exact State.goes_upd (exec_retire s dies) (Dev.retireWrite_eq s.dev dies)
  · refine State.goes_upd (exec_retire s _) ?_
    rw [Dev.retireWrite_single _ hi, Dev.retireOne, if_neg (not_not.2 h4), if_neg (by simp [hf])]
    exact s.dev.laneLeave_spec i (by decide)
  · refine State.goes_upd (exec_retire s _) ?_
    rw [Dev.retireWrite_single _ hi, Dev.retireOne, if_neg (not_not.2 h4), if_pos hf]
  · refine State.goes_upd (exec_retire s _) ?_
    rw [Dev.retireWrite_single _ hi, Dev.retireOne, if_pos h4]
  · refine ⟨fun ho => ⟨fun hw => ?_, fun hw => ?_⟩, fun ho => ⟨fun old' hr => ?_, fun hr => ⟨fun he hw => ?_, fun he => ?_⟩⟩⟩ <;>
      refine exec_mirror_taken _ hd hs h ?_
    · rw [Dev.mirrorIn_alone ho]
      exact (Dev.commitMirror_whole hw).1
    · have hw' : ¬ wholeMirror (mirrorCopy g.mirror n bad) := hw
      rw [Dev.mirrorIn_alone ho, Dev.commitMirror_partial hw']
      exact ⟨rfl, rfl⟩
    · rw [Dev.mirrorIn_first ho hr]
      have regs : (s.dev.modCd i (fun x => { x with mirRx := some (src.idx, l) })).regs = s.dev.regs := Dev.modCd_regs _ _ _
      refine ⟨?_, ⟨?_, Dev.lane_congr regs i⟩, regs⟩ <;> rw [Dev.cd_modCd_same]
      rfl
    · have hr' : (s.dev.cd i).mirRx = some (1 - src.idx, l) := by rw [← he]; exact hr
      exact Dev.mirrorIn_second_commits ho hn hr' hw
    · exact Dev.mirrorIn_second_drops ho hn hi hr he
  · exact exec_mirror_ignored _ hd hs h

end Sys2Proof.Machine
end

section
/-!
PROOFS for the family `01_package_and_flock`: what the writes of the ring dies into cells, of the hub, of the fold map and of the
timetable leave alone.
-/
namespace Sys2Proof.Machine

/-! ### A ring's field in every ring die that has it -/

section
variable (s : Dev) (f : Nat → Nat → Field) (r v : Nat)

@[simp] theorem Dev.rfset_variant : (s.rfset f r v).variant = s.variant := by
  simp only [Dev.rfset]
  split_ifs <;> simp

@[simp] theorem Dev.rfset_sh : (s.rfset f r v).sh = s.sh := by
  simp only [Dev.rfset]
  split_ifs <;> simp

@[simp] theorem Dev.rfset_rings : (s.rfset f r v).rings = s.rings := by
  simp only [Dev.rfset]
  split_ifs <;> simp

@[simp] theorem Dev.rfset_nv : (s.rfset f r v).nv = s.nv := by
  simp only [Dev.rfset]
  split_ifs <;> simp

/-- A register that is none of the ring's stays. -/
theorem Dev.rget_rfset {a : Nat} (hr : r < 132) (ha : ∀ n q, q < 132 → a ≠ (f n q).reg) : (s.rfset f r v).rget a = s.rget a := by
  simp only [Dev.rfset]
  split_ifs
  · exact Dev.rget_fset_reg _ _ (ha _ _ (by omega))
  · exact Dev.rget_fset_reg _ _ (ha _ _ hr)
  · rw [Dev.rget_fset_reg _ _ (ha _ _ hr), Dev.rget_fset_reg _ _ (ha _ _ hr)]
end

/-! ### What is kept -/

/-- The registers of the package's dies (`GLB_DIE`), of the rings' states and controls, and of the ring ports' states. -/
def keptReg (a : Nat) : Prop :=
  (0x40 ≤ a ∧ a < 0x80) ∨ (0x200000 ≤ a ∧ a < 0x400000 ∧ ((0x10800 ≤ a % 0x100000 ∧ a % 0x100000 < 0x11000) ∨
    (0x30000 ≤ a % 0x100000 ∧ a % 0x100000 < 0x40000 ∧ a % 0x20 = 8)))

/-- A register that is none of these, nor the one that holds the package's role. -/
def sideReg (a : Nat) : Prop := ¬ keptReg a ∧ a ≠ SH_TWIN_STAT

/-- A register below the ring dies' windows (R642). -/
theorem sideReg_low {a : Nat} (ha : a < 0x200000) (hd : a < 0x40 ∨ 0x80 ≤ a) (ht : a ≠ SH_TWIN_STAT) : sideReg a :=
  ⟨by unfold keptReg; omega, ht⟩

/-- A register above them. -/
theorem sideReg_high {a : Nat} (ha : 0x400000 ≤ a) : sideReg a := ⟨by unfold keptReg; omega, by simp only [SH_TWIN_STAT]; omega⟩

/-- A ring die's registers of one kind, 8 bytes for each ring, at an offset of its window. -/
theorem sideReg_array {n i b : Nat} (hi : i < 256) (hb : b + 0x7F8 < 0x10800 ∨ (0x11000 ≤ b ∧ b + 0x7F8 < 0x30000) ∨
    (0x40000 ≤ b ∧ b + 0x7F8 < 0x100000)) : sideReg (rdBase n + b + 8 * i) := by
  constructor
  · unfold keptReg rdBase
    omega
  · simp only [SH_TWIN_STAT, rdBase]
    omega

theorem sideReg_rpath {n i : Nat} (hi : i < 256) : sideReg (RDn_RPATH n i) := sideReg_array hi (by decide)
theorem sideReg_hub {n i : Nat} (hi : i < 256) : sideReg (RDn_HUB_STAT n i) := sideReg_array hi (by decide)
theorem sideReg_brk {n i : Nat} (hi : i < 256) : sideReg (RDn_BRK n i) := sideReg_array hi (by decide)

theorem sideReg_foldMap {i : Nat} (hi : i < 16384) : sideReg (SH_FOLD_MAP i) := by
  have ha : SH_FOLD_MAP i = 0x30000 + 8 * i := rfl
  refine sideReg_low ?_ ?_ ?_ <;> simp only [ha, SH_TWIN_STAT] <;> omega

/-- What a tally delivery leaves in a control die of the sets it was given. -/
def CtrlDie.notes (c : CtrlDie) : List TallySet × Bool := (c.tallies, c.gensDone)

/-- What is kept of the tallies' state. -/
def ShTly.notes (x : ShTly) : Bool × Nat × Nat × Store Blk := (x.masterB, x.closed, x.delivered, x.merged)

/-- Block s is as o was in its rings, its stored orders, the state of its dies, its ports and its tally sets; what o has sent stands
    first. -/
structure Dev.Keeps (o s : Dev) : Prop where
  variant : s.variant = o.variant
  rings : s.rings = o.rings
  orders : s.nv.orders = o.nv.orders
  inReset : s.sh.clk.inReset = o.sh.clk.inReset
  tlyNotes : s.sh.tly.notes = o.sh.tly.notes
  cdNotes : ∀ d, (s.cd d).notes = (o.cd d).notes
  role : s.role = o.role
  regs : ∀ a, keptReg a → s.rget a = o.rget a
  out : o.out <:+ s.out

theorem not_noteReg_kept {a : Nat} (h : keptReg a) : ¬ noteReg a := by
  rcases h with ⟨h1, h2⟩ | ⟨h1, h2, h3⟩
  · refine not_noteReg_low (by omega) ?_ ?_ ?_ ?_ <;> simp only [GLB_IRQ_STAT, GLB_MSIX_PBA, SH_FLT_STAT, SH_LOG_STAT] <;> omega
  · exact not_noteReg_rd h1 (by omega)

section
variable {o s : Dev}

theorem Dev.Keeps.refl (s : Dev) : s.Keeps s := ⟨rfl, rfl, rfl, rfl, rfl, fun _ => rfl, rfl, fun _ _ => rfl, List.suffix_rfl⟩

theorem Dev.Keeps.ite {a b : Dev} {c : Prop} [Decidable c] (ha : o.Keeps a) (hb : o.Keeps b) : o.Keeps (if c then a else b) := by
  split <;> assumption

/-- What each step of a run keeps, the run keeps. -/
theorem Dev.Keeps.forAll {α : Type} {f : Dev → α → Dev} {l : List α} (h : o.Keeps s)
    (hf : ∀ t, ∀ a ∈ l, o.Keeps t → o.Keeps (f t a)) : o.Keeps (forAll l s f) := by
  unfold Machine.forAll
  induction l generalizing s with
  | nil => exact h
  | cons a l ih => exact ih (hf s a (List.mem_cons_self ..) h) fun t b hb => hf t b (List.mem_cons_of_mem _ hb)

/-! ### Single parts of the block -/

theorem Dev.Keeps.noted {t : Dev} (h : o.Keeps s) (n : s.Noted t) : o.Keeps t where
  variant := n.variant.trans h.variant
  rings := n.rings.trans h.rings
  orders := by rw [n.eq]; exact h.orders
  inReset := by rw [n.clk]; exact h.inReset
  tlyNotes := by rw [n.tly]; exact h.tlyNotes
  cdNotes d := by rw [n.cd]; exact h.cdNotes d
  role := (n.fget not_noteReg_twin).trans h.role
  regs a ha := (n.regs a (not_noteReg_kept ha)).trans (h.regs a ha)
  out := h.out.trans n.out

theorem Dev.Keeps.report {cls : Cls} {src : Src} {inst code det : Nat} (h : o.Keeps s) :
    o.Keeps (s.report cls src inst code det) := h.noted (Dev.Noted.refl s).report

theorem Dev.Keeps.info {src : Src} {inst code det : Nat} (h : o.Keeps s) : o.Keeps (s.info src inst code det) :=
  h.noted (Dev.Noted.refl s).info

theorem Dev.Keeps.rset {a : Nat} {v : W64} (h : o.Keeps s) (ha : sideReg a) : o.Keeps (s.rset a v) where
  variant := h.variant
  rings := h.rings
  orders := h.orders
  inReset := h.inReset
  tlyNotes := h.tlyNotes
  cdNotes := h.cdNotes
  role := by
    have same : (s.rset a v).rget SH_TWIN_STAT = s.rget SH_TWIN_STAT := Dev.rget_rset_ne _ _ ha.2.symm
    refine Eq.trans ?_ h.role
    simp only [Dev.role, Dev.fget, SH_TWIN_STAT_ROLE, same]
  regs b hb :=
    have hne : b ≠ a := fun e => ha.1 (e ▸ hb)
    (Dev.rget_rset_ne _ _ hne).trans (h.regs b hb)
  out := h.out

theorem Dev.Keeps.fset {f : Field} {v : Nat} (h : o.Keeps s) (hf : sideReg f.reg) : o.Keeps (s.fset f v) := h.rset hf

theorem Dev.Keeps.finc {f : Field} (h : o.Keeps s) (hf : sideReg f.reg) : o.Keeps (s.finc f) := h.fset hf

/-- A field beside the role in its register. -/
theorem Dev.Keeps.fset_twin {f : Field} {v : Nat} (h : o.Keeps s) (hr : f.reg = SH_TWIN_STAT) (hf : f.lo + f.width ≤ 64)
    (hb : SH_TWIN_STAT_ROLE.lo + SH_TWIN_STAT_ROLE.width ≤ f.lo ∨ f.lo + f.width ≤ SH_TWIN_STAT_ROLE.lo) : o.Keeps (s.fset f v) where
  variant := h.variant
  rings := h.rings
  orders := h.orders
  inReset := h.inReset
  tlyNotes := h.tlyNotes
  cdNotes := h.cdNotes
  role := (Dev.fget_fset_bits s v hf hb hr.symm).trans h.role
  regs b hb := by
    refine (Dev.rget_fset_reg s v fun e => ?_).trans (h.regs b hb)
    rw [e, hr] at hb
    simp only [keptReg, SH_TWIN_STAT] at hb
    omega
  out := h.out

/-- A ring's field in side registers. -/
theorem Dev.Keeps.rfset {f : Nat → Nat → Field} {r v : Nat} (h : o.Keeps s) (hr : r < 256)
    (hf : ∀ {n i : Nat}, i < 256 → sideReg (f n i).reg) : o.Keeps (s.rfset f r v) :=
  .ite (h.fset (hf (by omega))) (have h1 := h.fset (hf hr); .ite h1 (h1.fset (hf hr)))

theorem Dev.Keeps.emit {e : Emission} (h : o.Keeps s) : o.Keeps (s.emit e) :=
  { h with out := h.out.trans (List.suffix_cons _ _) }

theorem Dev.Keeps.free (h : o.Keeps s) : o.Keeps s.free.2 := { h with }

theorem Dev.Keeps.setCell {p : Place} {c : Cell} (h : o.Keeps s) : o.Keeps (s.setCell p c) := { h with }

theorem Dev.Keeps.modCell {p : Place} {f : Cell → Cell} (h : o.Keeps s) : o.Keeps (s.modCell p f) := h.setCell

theorem Dev.Keeps.setCend {i : Nat} {x : CellEnd} (h : o.Keeps s) : o.Keeps (s.setCend i x) := { h with }

theorem Dev.Keeps.setStream {i : Nat} {q : Option Stream} (h : o.Keeps s) : o.Keeps (s.setStream i q) := { h with }

theorem Dev.Keeps.modAq {f : AqDie → AqDie} (h : o.Keeps s) : o.Keeps (s.modAq f) := { h with }

theorem Dev.Keeps.modRd {n : Nat} {f : RingDie → RingDie} (h : o.Keeps s) : o.Keeps (s.modRd n f) := by
  rcases n with _ | n <;> exact { h with }

theorem Dev.Keeps.modCd {d : Nat} {f : CtrlDie → CtrlDie} (h : o.Keeps s) (hf : ∀ c, (f c).notes = c.notes) :
    o.Keeps (s.modCd d f) := by
  have same : ∀ e, ((s.modCd d f).cd e).notes = (s.cd e).notes := by
    intro e
    rcases d with _ | _ | _ | d <;> rcases e with _ | _ | _ | e <;> simp [Dev.modCd, Dev.setCd, Dev.cd, hf]
  exact
    { variant := by rw [Dev.modCd_variant, h.variant]
      rings := by rw [Dev.modCd_rings, h.rings]
      orders := by rw [Dev.modCd_nv, h.orders]
      inReset := by rw [Dev.modCd_sh, h.inReset]
      tlyNotes := by rw [Dev.modCd_sh, h.tlyNotes]
      cdNotes := fun e => (same e).trans (h.cdNotes e)
      role := (Dev.role_congr (Dev.modCd_regs s d f)).trans h.role
      regs := fun a ha => (Dev.rget_congr (Dev.modCd_regs s d f) a).trans (h.regs a ha)
      out := by rw [Dev.modCd_out]; exact h.out }

theorem Dev.Keeps.tly {f : ShTly → ShTly} (hf : ∀ x, (f x).notes = x.notes) (h : o.Keeps s) : o.Keeps (s.tly f) :=
  { h with tlyNotes := (hf _).trans h.tlyNotes }

theorem Dev.Keeps.clk {f : ShClk → ShClk} (h : o.Keeps s) (hf : ∀ x, (f x).inReset = x.inReset) : o.Keeps (s.clk f) :=
  { h with inReset := (hf _).trans h.inReset }

theorem Dev.Keeps.tw {f : ShTw → ShTw} (h : o.Keeps s) : o.Keeps (s.tw f) := { h with }

/-! ### What is kept decides these -/

theorem Dev.Keeps.fget (h : o.Keeps s) {f : Field} (hf : keptReg f.reg) : s.fget f = o.fget f := by
  simp only [Dev.fget, h.regs _ hf]

theorem Dev.Keeps.fbit (h : o.Keeps s) {f : Field} (hf : keptReg f.reg) : s.fbit f = o.fbit f := by
  simp only [Dev.fbit, h.fget hf]

theorem keptReg_die {d : Nat} (h : d < 8) : keptReg (GLB_DIE d) := by
  simp only [keptReg, GLB_DIE]
  omega

theorem Dev.Keeps.powered (h : o.Keeps s) {d : Nat} (hd : d < 8) : s.powered d = o.powered d := by
  simp only [Dev.powered, Dev.present, h.variant, h.inReset, h.fbit (f := GLB_DIE_PWR d) (keptReg_die hd),
    h.fbit (f := GLB_DIE_FATAL d) (keptReg_die hd)]

theorem Dev.Keeps.running (h : o.Keeps s) {d : Nat} (hd : d < 8) : s.running d = o.running d := by
  simp only [Dev.running, h.powered hd, h.fget (f := GLB_DIE_STATE d) (keptReg_die hd)]

theorem Dev.Keeps.wide (h : o.Keeps s) : s.wide = o.wide := Dev.wide_congr h.variant h.role

theorem Dev.Keeps.ring (h : o.Keeps s) : s.ring = o.ring := by
  funext r
  simp only [Dev.ring, h.rings]

theorem Dev.Keeps.master (h : o.Keeps s) : s.master = o.master := by
  have hb : s.sh.tly.masterB = o.sh.tly.masterB := congrArg Prod.fst h.tlyNotes
  simp only [Dev.master, hb]

theorem Dev.master_lt (s : Dev) : s.master < 2 := by
  unfold Dev.master
  split <;> decide

theorem Dev.Keeps.ringRd (h : o.Keeps s) (r : Nat) : s.ringRd r = o.ringRd r := by
  have hm := o.master_lt
  have h4 := h.powered (d := 4 + o.master) (by omega)
  have h5 := h.powered (d := 5 - o.master) (by omega)
  simp only [Dev.ringRd, h.wide, h.master, h4, h5]

theorem Dev.Keeps.rf (h : o.Keeps s) (f : Nat → Nat → Field) (r : Nat) : s.rf f r = o.rf f r := by
  simp only [Dev.rf, h.ringRd, Dev.ringIx, h.wide]

theorem Dev.ringRd_lt (s : Dev) {r : Nat} (hr : r < 132) : s.ringRd r < 2 := by
  have hm := s.master_lt
  unfold Dev.ringRd
  split_ifs <;> omega

theorem Dev.ringCount_le (s : Dev) : s.ringCount ≤ 132 := by
  unfold Dev.ringCount
  split
  · exact le_rfl
  · cases s.variant <;> decide

end

theorem Dev.hasRing_lt {s : Dev} {r : Nat} (h : s.hasRing r = true) : r < 132 :=
  (of_decide_eq_true h).trans_le s.ringCount_le

section
variable {o s : Dev}

/-! ### Block streams and the ring dies' own writes -/

theorem Dev.Keeps.setLine {q : Sender} {l : Option Line} (h : o.Keeps s) : o.Keeps (s.setLine q l) := by
  unfold Dev.setLine
  cases q with
  | ringEnd r e => exact h.modRd
  | cell p x => exact h.modCell

theorem Dev.Keeps.newLine {q : Sender} (h : o.Keeps s) : o.Keeps (s.newLine q).2 := h.free.setLine

theorem Dev.Keeps.openLine {q : Sender} (h : o.Keeps s) : o.Keeps (s.openLine q).2 := by
  unfold Dev.openLine
  split
  · exact h
  · exact h.newLine

theorem Dev.Keeps.placeBlock {q : Sender} {ty : BitVec 4} {t : Int} (h : o.Keeps s) : o.Keeps (s.placeBlock q ty t).2 := by
  have h1 := h.openLine (q := q)
  simp only [Dev.placeBlock]
  split_ifs <;> exact h1.setLine

theorem Dev.Keeps.sendFrom {q : Sender} {ty : BitVec 4} {t : Int} {pl : Int → Payload} (h : o.Keeps s) :
    o.Keeps (s.sendFrom q ty t pl) := by
  have h1 := h.placeBlock (q := q) (ty := ty) (t := t)
  simp only [Dev.sendFrom]
  split
  · exact h1.emit
  · exact h1

theorem Dev.Keeps.send {q : Sender} {ty : BitVec 4} {pl : Payload} (h : o.Keeps s) : o.Keeps (s.send q ty pl) := h.sendFrom

theorem Dev.Keeps.ownWrite {p : Place} {a : Nat} {v : W32} (h : o.Keeps s) : o.Keeps (s.ownWrite p a v) :=
  h.free.setCend.send.modCell

/-! ### Timetable of the rings -/

theorem Dev.Keeps.twinShow (h : o.Keeps s) : o.Keeps s.twinShow :=
  .ite h ((h.fset_twin rfl (by decide) (by decide)).fset_twin rfl (by decide) (by decide))

theorem sideReg_cycMin : sideReg TIM_CYC_MIN := sideReg_low (by decide) (by decide) (by decide)
theorem sideReg_cycStat : sideReg TIM_CYC_STAT := sideReg_low (by decide) (by decide) (by decide)

theorem Dev.Keeps.setMins {m : Mins} (h : o.Keeps s) : o.Keeps (s.setMins m) :=
  have h1 := ((h.fset sideReg_cycMin).fset sideReg_cycMin).fset sideReg_cycMin
  (((h1.fset sideReg_cycMin).fset sideReg_cycMin).fset sideReg_cycStat).twinShow

theorem Dev.Keeps.showPath {r : Nat} (h : o.Keeps s) (hr : r < 256) : o.Keeps (s.showPath r) :=
  (((h.rfset hr sideReg_rpath).rfset hr sideReg_rpath).rfset hr sideReg_rpath).rfset hr sideReg_rpath

theorem Dev.Keeps.writeSlots {r : Nat} {cfg : W64} {anch : Nat} {eff : W16} (h : o.Keeps s) :
    o.Keeps (s.writeSlots r cfg anch eff) := by
  unfold Dev.writeSlots
  refine Dev.Keeps.forAll h fun t e _ h1 => ?_
  dsimp only
  split
  · exact h1
  · exact h1.ownWrite.ownWrite.ownWrite.ownWrite.ownWrite

theorem Dev.Keeps.newSlots {r : Nat} (h : o.Keeps s) : o.Keeps (s.newSlots r) := by
  unfold Dev.newSlots
  split <;> exact h.writeSlots

/-! ### Fold map -/

theorem Dev.Keeps.penWrite {id : Nat} (h : o.Keeps s) : o.Keeps (s.penWrite id) := by
  unfold Dev.penWrite
  split
  · exact h
  · exact .ite h h.ownWrite

theorem Dev.Keeps.refold {id : Nat} {old : W64} (h : o.Keeps s) (hid : id < 16384) : o.Keeps (s.refold id old) := by
  unfold Dev.refold
  extract_lets +onlyGivenNames t1
  have h1 : o.Keeps t1 := h.fset (sideReg_foldMap hid)
  refine .ite h1 ?_
  extract_lets +onlyGivenNames t2
  have h2 : o.Keeps t2 := .ite h1 (.tly (fun _ => rfl) h1)
  split
  · refine Dev.Keeps.report (.tly ?_ h2)
    exact fun _ => rfl
  · refine Dev.Keeps.fset (.tly ?_ h2.ownWrite.ownWrite) (sideReg_foldMap hid)
    exact fun _ => rfl

/-! ### Streams -/

theorem Dev.Keeps.showHub {r : Nat} (h : o.Keeps s) (hr : r < 256) : o.Keeps (s.showHub r) :=
  ((h.rfset hr sideReg_hub).rfset hr sideReg_hub).rfset hr sideReg_hub

theorem Dev.Keeps.putStream {aq : Bool} {id inp i : Nat} {q : Option Stream} (h : o.Keeps s) (hid : id < 16384) :
    o.Keeps (s.putStream aq id inp i q) := by
  unfold Dev.putStream
  extract_lets +onlyGivenNames t1
  have h1 : o.Keeps t1 := h.setStream
  refine .ite h1.modAq ?_
  extract_lets +onlyGivenNames t2
  have h2 : o.Keeps t2 := by
    unfold t2
    split
    · exact h1.ownWrite
    · exact h1.ownWrite
    · exact h1
  exact h2.showHub (by omega)

theorem Dev.Keeps.cellStreams {id : Nat} (h : o.Keeps s) (hid : id < 16384) : o.Keeps (s.cellStreams id) := by
  unfold Dev.cellStreams
  split
  · exact h
  · refine Dev.Keeps.forAll h fun t inp _ h1 => ?_
    dsimp only
    split
    · exact .ite h1 (h1.putStream hid)
    · exact .ite (h1.putStream hid) h1

theorem Dev.Keeps.recheckLoop {n : Nat} (h : o.Keeps s) : o.Keeps (s.recheckLoop n) := by
  induction n generalizing s with
  | zero => exact h
  | succ n ih =>
    unfold Dev.recheckLoop
    extract_lets
    split
    · exact h
    · refine ih (.ite h.setStream ?_)
      split
      · exact h.setStream.ownWrite
      · exact h.setStream

theorem Dev.Keeps.recheckStreams (h : o.Keeps s) : o.Keeps s.recheckStreams := by
  refine h.recheckLoop.forAll fun t r hr h1 => h1.showHub ?_
  have live : r < (s.recheckLoop s.streams.length).ringCount := List.mem_range.1 (List.mem_filter.1 hr).1
  exact (live.trans_le (Dev.ringCount_le _)).trans (by decide)

/-! ### Breaks -/

theorem Dev.Keeps.turnEnd {id place : Nat} (h : o.Keeps s) : o.Keeps (s.turnEnd id place) := .ite h h.setCend

theorem Dev.Keeps.turnEnds {r : Nat} (h : o.Keeps s) : o.Keeps (s.turnEnds r) := h.forAll fun _ _ _ h1 => h1.turnEnd

/-- The breaks that the registers of a ring show. -/
def Dev.shownBreaks (s : Dev) (r : Nat) : List Nat :=
  (s.ring r).breaks.filter (fun h => !(decide (s.ringState r = 5) && decide (some h = (s.ring r).dark)))

/-- The state that a ring's breaks give it. -/
def Dev.breakState (s : Dev) (r : Nat) : Nat :=
  if !(s.shownBreaks r).isEmpty || s.sh.safe.testBad.any (fun e => decide (e.1 = r)) then 4 else 3

/-- What a ring's registers show of its breaks, written beside its state; then the state, and a report. -/
theorem Dev.showBreaks_spec {r : Nat} (hr : r < 132) : ∃ t, s.Keeps t ∧
    (if !(s.ring r).up || decide (s.ringState r = 5) then t else t.rfset RDn_RING_STAT_STATE r (s.breakState r)).Noted
      (s.showBreaks r) := by
  have hq : r < 256 := hr.trans (by decide)
  unfold Dev.showBreaks
  extract_lets +onlyGivenNames x ch bs v lo hi n more t1 t2 t3 t4 t5 test t6
  have h1 : s.Keeps t1 := (Dev.Keeps.refl s).rfset hq sideReg_brk
  have h2 : s.Keeps t2 := h1.rfset hq sideReg_brk
  have h3 : s.Keeps t3 := h2.rfset hq sideReg_brk
  have h4 : s.Keeps t4 := (h3.rfset hq sideReg_brk).rfset hq sideReg_brk
  have h5 : s.Keeps t5 := h4.rfset hq sideReg_rpath
  refine ⟨t5, h5, ?_⟩
  have ht : t5.sh = s.sh := by simp only [t5, t4, t3, t2, t1, Dev.rfset_sh]
  have h6 : t6 = if !(s.ring r).up || decide (s.ringState r = 5) then t5 else t5.rfset RDn_RING_STAT_STATE r (s.breakState r) := by
    simp only [t6, test, ht]
    rfl
  rw [← h6]
  exact .ite (Dev.Noted.refl t6).report (.refl t6)
end

end Sys2Proof.Machine
end

section
/-!
PROOFS for the family `01_package_and_flock`: a ring port from detection to LINKED (O51).
-/
namespace Sys2Proof.Machine

/-! ### A cell's registers -/

theorem toNat_putBits32 (v : W32) (lo w x : Nat) (h : lo + w ≤ 32) :
    (BitVec.ofNat 32 (putBits v.toNat lo w x)).toNat = putBits v.toNat lo w x := by
  rw [BitVec.toNat_ofNat, Nat.mod_eq_of_lt (putBits_lt v.isLt h)]

/-- A cell's field reads what was written to it. -/
theorem Cell.fget_fset_same (c : Cell) (f : Field) (v : Nat) (h : f.lo + f.width ≤ 32) : (c.fset f v).fget f = v % 2 ^ f.width := by
  simp only [Cell.fget, Cell.fset, Cell.rget, Cell.rset, Store.get_set_same]
  rw [toNat_putBits32 _ _ _ _ h, bitsOf_putBits_same]

/-- A field that shares no bit with the one written stays. -/
theorem Cell.fget_fset_ne (c : Cell) {f g : Field} (v : Nat) (hf : f.lo + f.width ≤ 32)
    (h : g.reg ≠ f.reg ∨ g.lo + g.width ≤ f.lo ∨ f.lo + f.width ≤ g.lo) : (c.fset f v).fget g = c.fget g := by
  simp only [Cell.fget, Cell.fset, Cell.rget, Cell.rset]
  by_cases hr : g.reg = f.reg
  · rw [hr, Store.get_set_same, toNat_putBits32 _ _ _ _ hf, bitsOf_putBits_ne _ _ _ _ _ _ (h.resolve_left (not_not.2 hr))]
  · rw [Store.get_set_ne _ _ _ hr]

theorem Cell.fget_congr {b c : Cell} (h : b.regs = c.regs) {f : Field} : b.fget f = c.fget f := by
  simp only [Cell.fget, Cell.rget, h]

theorem Cell.fget_setClk (c : Cell) (x : CPort) (b : Bool) (f : Field) : (c.setClk x b).fget f = c.fget f := rfl

@[simp] theorem Cell.fset_lnk (c : Cell) (f : Field) (v : Nat) : (c.fset f v).lnk = c.lnk := rfl
@[simp] theorem Cell.fset_powered (c : Cell) (f : Field) (v : Nat) : (c.fset f v).powered = c.powered := rfl
@[simp] theorem Cell.finc_lnk (c : Cell) (f : Field) : (c.finc f).lnk = c.lnk := rfl
@[simp] theorem Cell.finc_powered (c : Cell) (f : Field) : (c.finc f).powered = c.powered := rfl

@[simp] theorem Cell.fget_lnk (c : Cell) (l : CellLnk) (f : Field) : Cell.fget { c with lnk := l } f = c.fget f := rfl

theorem Cell.driveBy_eq (c : Cell) (plan : List (Nat × BitVec 4)) (dt : Gate → Nat) :
    ∃ x, c.driveBy plan dt = { c with pwm := x } := by
  cases plan with
  | nil => exact ⟨c.pwm, rfl⟩
  | cons e rest => exact ⟨_, rfl⟩

theorem Cell.settle_eq (c : Cell) (dt : Nat) : ∃ x, c.settle dt = { c with pwm := x } := by
  simp only [Cell.settle]
  split
  · exact ⟨_, rfl⟩
  · exact c.driveBy_eq _ _
  · exact c.driveBy_eq _ _
  · exact c.driveBy_eq _ _
  · exact c.driveBy_eq _ _
  · exact c.driveBy_eq _ _

/-- The outputs follow a change; nothing else does. -/
theorem Cell.follow_eq (c old : Cell) : ∃ x, c.follow old = { c with pwm := x } := by
  unfold Cell.follow
  split
  · exact ⟨_, rfl⟩
  · split
    · exact ⟨c.pwm, rfl⟩
    · exact c.settle_eq _

/-- What a change of a powered cell leaves but for its outputs and alarm latches. -/
theorem Cell.act_eq {c : Cell} (h : c.powered = true) (f : Cell → Cell) :
    ∃ x v, c.act f = ({ f c with pwm := x } : Cell).rset SRB_ALARM_LAT v := by
  obtain ⟨x, hx⟩ := (f c).follow_eq c
  have shape : c.act f = ((f c).follow c).latchAlarm c := if_pos h
  rw [shape, hx]
  exact ⟨x, _, rfl⟩

theorem Cell.act_lnk {c : Cell} (h : c.powered = true) (f : Cell → Cell) : (c.act f).lnk = (f c).lnk := by
  obtain ⟨x, v, e⟩ := Cell.act_eq h f
  rw [e]
  rfl

theorem Cell.act_powered {c : Cell} (h : c.powered = true) (f : Cell → Cell) : (c.act f).powered = (f c).powered := by
  obtain ⟨x, v, e⟩ := Cell.act_eq h f
  rw [e]
  rfl

theorem Cell.act_serial {c : Cell} (h : c.powered = true) (f : Cell → Cell) : (c.act f).serial = (f c).serial := by
  obtain ⟨x, v, e⟩ := Cell.act_eq h f
  rw [e]
  rfl

theorem Cell.act_fget {c : Cell} (h : c.powered = true) (f : Cell → Cell) {g : Field} (hg : g.reg ≠ SRB_ALARM_LAT) :
    (c.act f).fget g = (f c).fget g := by
  obtain ⟨x, v, e⟩ := Cell.act_eq h f
  rw [e]
  simp only [Cell.fget, Cell.rget, Cell.rset, Store.get_set_ne _ _ _ hg]

theorem SRB_RP_STAT_ne_latch (x : Nat) : SRB_RP_STAT x ≠ SRB_ALARM_LAT := by
  simp only [SRB_RP_STAT, SRB_ALARM_LAT]
  omega

theorem SRB_RP_STAT_ne {x y : Nat} (h : x ≠ y) : SRB_RP_STAT x ≠ SRB_RP_STAT y := by
  simp only [SRB_RP_STAT]
  omega

theorem CPort.idx_other_ne (x : CPort) : x.idx ≠ x.other.idx := by cases x <;> decide

/-! ### What a port shows -/

theorem Dev.endOfPort_congr {s t : Dev} (hv : t.variant = s.variant) (hr : t.rget SH_TWIN_STAT = s.rget SH_TWIN_STAT) :
    t.endOfPort = s.endOfPort := by
  funext d i
  have same : ∀ f, Field.reg f = SH_TWIN_STAT → t.fget f = s.fget f := fun f hf => by simp only [Dev.fget, hf, hr]
  simp only [Dev.endOfPort, Dev.wide_congr hv (same _ rfl), Dev.ownEnd, same SH_TWIN_STAT_ID rfl, hv]

theorem RDie.idx_lt_two (d : RDie) : d.idx < 2 := by cases d <;> decide

theorem Dev.endOfPort_lt (s : Dev) (d : RDie) {i : Nat} (hi : i < 66) : (s.endOfPort d.idx i).1 < 132 := by
  have hd := RDie.idx_lt_two d
  simp only [Dev.endOfPort]
  split_ifs <;> dsimp only <;> omega

/-- The port's registers can be written: a package port's number is one, and a cell has power. -/
def Dev.portReady (s : Dev) : RxPort → Prop
  | .pkg _ i => i < 66
  | .cell p _ => (s.cell p).powered = true

theorem Dev.portReady_pkg (s : Dev) (d : RDie) (i : Nat) : s.portReady (.pkg d i) ↔ i < 66 := Iff.rfl

theorem Dev.portReady_cell (s : Dev) (p : Place) (x : CPort) : s.portReady (.cell p x) ↔ (s.cell p).powered = true := Iff.rfl

theorem Dev.portReady_of_on {s : Dev} {q : RxPort} (h : s.hasPort q = true) (on : s.portOn q = true) : s.portReady q := by
  cases q with
  | pkg d i =>
    rw [Dev.hasPort, Bool.and_eq_true, decide_eq_true_eq] at h
    exact h.2
  | cell p x => exact on

theorem rpStat_ne_ringStat {n n' i r : Nat} (hi : i < 66) (hr : r < 132) : RDn_RP_STAT n i ≠ RDn_RING_STAT n' r := by
  simp only [RDn_RP_STAT, RDn_RING_STAT, rdBase]
  omega

/-- A ring's field of `RDn_RING_STAT` is none of a port's. -/
theorem Dev.rget_rfset_ringStat (s : Dev) {f : Nat → Nat → Field} {r n i : Nat} (v : Nat) (hi : i < 66) (hr : r < 132)
    (hf : ∀ n r, (f n r).reg = RDn_RING_STAT n r) : (s.rfset f r v).rget (RDn_RP_STAT n i) = s.rget (RDn_RP_STAT n i) := by
  refine Dev.rget_rfset s f r v hr fun m q hq => ?_
  rw [hf]
  exact rpStat_ne_ringStat hi hq

theorem Dev.portState_congr_pkg {s t : Dev} {d : RDie} {i : Nat} (h : t.rget (RDn_RP_STAT d.idx i) = s.rget (RDn_RP_STAT d.idx i)) :
    t.portState (.pkg d i) = s.portState (.pkg d i) := by
  simp only [Dev.portState, Dev.fget, RDn_RP_STAT_STATE, h]

section
variable {s : Dev} {q : RxPort}

theorem Cell.of_ite {P : Cell → Prop} {a b : Cell} {c : Prop} [Decidable c] (ha : P a) (hb : P b) : P (if c then a else b) := by
  split <;> assumption

theorem Dev.of_ite {P : Dev → Prop} {a b : Dev} {c : Prop} [Decidable c] (ha : P a) (hb : P b) : P (if c then a else b) := by
  split <;> assumption

theorem Dev.atPort_pkg (s : Dev) (d : RDie) (i : Nat) (f : Nat → Nat → Dev → Dev) (g : CPort → Cell → Cell) :
    s.atPort (.pkg d i) f g = f d.idx i s := rfl

theorem Dev.atPort_cell (s : Dev) (p : Place) (x : CPort) (f : Nat → Nat → Dev → Dev) (g : CPort → Cell → Cell) :
    s.atPort (.cell p x) f g = s.modCell p (fun c => c.act (g x)) := rfl

/-- Another field of a package port's register leaves the state it shows. -/
theorem Dev.portState_fset_pkg {d : RDie} {i : Nat} {f : Field} (v : Nat) (hf : f.lo + f.width ≤ 60) :
    (s.fset f v).portState (.pkg d i) = s.portState (.pkg d i) :=
  Dev.fget_fset_ne s v (by omega) (.inr (.inr hf))

/-- Another field of a cell's port register leaves the state it shows. -/
theorem Cell.state_fset (c : Cell) {f : Field} (n v : Nat) (hf : f.lo + f.width ≤ 28) :
    (c.fset f v).fget (SRB_RP_STAT_STATE n) = c.fget (SRB_RP_STAT_STATE n) :=
  Cell.fget_fset_ne c v (by omega) (.inr (.inr hf))

/-- A change of a powered cell and what its port then shows. -/
theorem Dev.portState_act {p : Place} {x : CPort} {g : Cell → Cell} (h : (s.cell p).powered = true) :
    (s.modCell p (fun c => c.act g)).portState (.cell p x) = (g (s.cell p)).fget (SRB_RP_STAT_STATE x.idx) := by
  rw [Dev.portState, Dev.cell_modCell_same, Cell.act_fget h g (SRB_RP_STAT_ne_latch _)]

theorem Dev.cell_act_powered {p : Place} {g : Cell → Cell} (h : (s.cell p).powered = true) :
    ((s.modCell p (fun c => c.act g)).cell p).powered = (g (s.cell p)).powered := by
  rw [Dev.cell_modCell_same, Cell.act_powered h]

/-! ### A port is put into a state -/

theorem Dev.setPort_ready (h : s.portReady q) (n : Nat) : (s.setPort q n).portReady q := by
  cases q with
  | pkg d i =>
    rw [Dev.portReady_pkg] at h ⊢
    exact h
  | cell p x =>
    rw [Dev.portReady_cell] at h ⊢
    rw [Dev.setPort, Dev.atPort_cell, Dev.cell_act_powered h, Cell.fset_powered, h]

theorem Dev.setPort_state (h : s.portReady q) {n : Nat} (hn : n < 16) : (s.setPort q n).portState q = n := by
  cases q with
  | pkg d i =>
    rw [Dev.setPort, Dev.atPort_pkg, Dev.portState, Dev.fget_fset_same _ _ _ (by simp [RDn_RP_STAT_STATE])]
    exact Nat.mod_eq_of_lt hn
  | cell p x =>
    rw [Dev.setPort, Dev.atPort, Dev.portState_act h, Cell.fget_fset_same _ _ _ (by simp [SRB_RP_STAT_STATE])]
    exact Nat.mod_eq_of_lt hn

/-- A wiring fault leaves the port MISWIRED. -/
theorem Dev.miswire_state (h : s.portReady q) (find other : Nat) : (s.miswire q find other).portState q = 7 := by
  have h1 := Dev.setPort_state h (n := 7) (by decide)
  have r1 := Dev.setPort_ready h 7
  cases q with
  | pkg d i =>
    simp only [Dev.miswire, Dev.atPort_pkg]
    generalize s.setPort (.pkg d i) 7 = t at h1
    have h2 : ((t.fset (RDn_RP_STAT_FIND d.idx i) find).fset (RDn_RP_STAT_OTHER d.idx i) other).portState (.pkg d i) = 7 := by
      rw [Dev.portState_fset_pkg _ (by simp [RDn_RP_STAT_OTHER]), Dev.portState_fset_pkg _ (by simp [RDn_RP_STAT_FIND]), h1]
    refine Dev.of_ite (P := fun u => u.portState (.pkg d i) = 7) h2 ?_
    exact (Dev.portState_congr_pkg (Dev.rget_rfset_ringStat _ 6 h (Dev.endOfPort_lt _ d h) fun _ _ => rfl)).trans h2
  | cell p x =>
    simp only [Dev.miswire, Dev.atPort_cell]
    rw [Dev.portState_act r1, Cell.state_fset _ _ _ (by simp [SRB_RP_STAT_FIND])]
    exact h1

/-! ### Detection (R502, R506, R507) -/

theorem Dev.takeRate_rget {r n i : Nat} (hi : i < 66) (hr : r < 132) :
    (s.takeRate r).rget (RDn_RP_STAT n i) = s.rget (RDn_RP_STAT n i) := by
  simp only [Dev.takeRate]
  split
  · rfl
  · exact Dev.rget_rfset_ringStat _ _ hi hr fun _ _ => rfl

theorem Dev.notDark_ready (h : s.portReady q) : (s.notDark q).portReady q := by
  cases q with
  | pkg d i =>
    rw [Dev.portReady_pkg] at h ⊢
    exact h
  | cell p x =>
    rw [Dev.portReady_cell] at h ⊢
    rw [Dev.notDark, Dev.atPort_cell, Dev.cell_act_powered h]
    split_ifs
    · rw [Cell.fset_powered, h]
    · exact h

/-- A port that sees a clock it can use. -/
theorem Dev.detect_end (h : s.portReady q) : (((s.notDark q).setPort q 1).atPort q (fun _ _ s => s)
    (fun x c => c.setClk x true)).portState q = 1 := by
  have h1 := Dev.setPort_state (Dev.notDark_ready h) (n := 1) (by decide)
  have r1 := Dev.setPort_ready (Dev.notDark_ready h) 1
  cases q with
  | pkg d i =>
    rw [Dev.atPort_pkg]
    exact h1
  | cell p x =>
    rw [Dev.atPort_cell, Dev.portState_act r1, Cell.fget_setClk]
    exact h1

theorem Dev.takeRate_variant (r : Nat) : (s.takeRate r).variant = s.variant :=
  Dev.of_ite (P := fun t => t.variant = s.variant) rfl (Dev.rfset_variant _ _ _ _)

theorem Dev.takeRate_endOfPort (r : Nat) : (s.takeRate r).endOfPort = s.endOfPort := by
  refine Dev.endOfPort_congr (Dev.takeRate_variant r) ?_
  have hne : ∀ n q, SH_TWIN_STAT ≠ RDn_RING_STAT n q := fun n q => by
    simp only [SH_TWIN_STAT, RDn_RING_STAT, rdBase]
    omega
  simp only [Dev.takeRate, Dev.rfset]
  split_ifs
  · rfl
  · exact Dev.rget_fset_reg _ _ (hne _ _)
  · exact Dev.rget_fset_reg _ _ (hne _ _)
  · rw [Dev.rget_fset_reg _ _ (hne _ _), Dev.rget_fset_reg _ _ (hne _ _)]

/-- At a package port: the rate is taken, and a clock at another one changes nothing that the port shows. -/
theorem Dev.detect_pkg {d : RDie} {i : Nat} {half miswired : Bool} (hi : i < 66) (on : s.portOn (.pkg d i) = true)
    (st : s.portState (.pkg d i) ≤ 1) : (s.detect (.pkg d i) half miswired).portState (.pkg d i) =
      if half = (s.takeRate (s.endOfPort d.idx i).1).half (s.endOfPort d.idx i).1 then (if miswired then 7 else 1)
      else s.portState (.pkg d i) := by
  have hr := Dev.endOfPort_lt s d hi
  have same : (s.takeRate (s.endOfPort d.idx i).1).portState (.pkg d i) = s.portState (.pkg d i) :=
    Dev.portState_congr_pkg (Dev.takeRate_rget hi hr)
  have act : (!s.portOn (.pkg d i) || decide (1 < s.portState (.pkg d i))) = false := by simp [on, st]
  simp only [Dev.detect, act, Dev.takeRate_endOfPort, Bool.false_eq_true, if_false]
  generalize s.takeRate (s.endOfPort d.idx i).1 = t at same ⊢
  have ready : t.portReady (.pkg d i) := hi
  by_cases fits : half = t.half (s.endOfPort d.idx i).1
  · rw [if_pos fits, if_neg (by simp [fits])]
    split
    · exact Dev.miswire_state ready 1 0
    · exact Dev.detect_end ready
  · rw [if_neg fits, if_pos (by simp [fits]), same]

theorem Cell.detectRate_stays {c : Cell} {x : CPort} {half : Bool} (h : (half && !c.lnk.half) = false) : c.detectRate x half = c :=
  if_neg (by simp [h])

/-- A cell whose port x sees its first half-rate clock: its other port then has nothing it detects. -/
theorem Cell.detectRate_halves {c : Cell} {x : CPort} {half : Bool} (h : (half && !c.lnk.half) = true) :
    ∃ b : Cell, c.detectRate x half = { b with lnk := { c.lnk with half := true } } ∧ b.powered = c.powered ∧
      b.fget (SRB_RP_STAT_STATE x.idx) = c.fget (SRB_RP_STAT_STATE x.idx) := by
  have hne : SRB_RP_STAT x.idx ≠ SRB_RP_STAT x.other.idx := SRB_RP_STAT_ne (CPort.idx_other_ne x)
  refine ⟨(c.fset (SRB_RP_STAT_STATE x.other.idx) 0).fset (SRB_RP_STAT_LOCK x.other.idx) 0, if_pos h, ?_, ?_⟩
  · rw [Cell.fset_powered, Cell.fset_powered]
  · rw [Cell.fget_fset_ne _ _ (by simp [SRB_RP_STAT_LOCK]) (.inl hne), Cell.fget_fset_ne _ _ (by simp [SRB_RP_STAT_STATE]) (.inl hne)]

theorem Cell.detectRate_spec (c : Cell) (x : CPort) (half : Bool) : (c.detectRate x half).powered = c.powered ∧
    (c.detectRate x half).lnk.half = (half || c.lnk.half) ∧
    (c.detectRate x half).fget (SRB_RP_STAT_STATE x.idx) = c.fget (SRB_RP_STAT_STATE x.idx) := by
  cases h : half && !c.lnk.half with
  | false =>
    rw [Cell.detectRate_stays h]
    refine ⟨rfl, ?_, rfl⟩
    cases half <;> simp_all
  | true =>
    obtain ⟨b, e, power, state⟩ := Cell.detectRate_halves (x := x) h
    rw [e]
    refine ⟨power, ?_, state⟩
    cases half <;> simp_all

/-- At a cell's port: it takes half rate at the first half-rate clock, and keeps it. -/
theorem Dev.detect_cell {p : Place} {x : CPort} {half miswired : Bool} (on : s.portOn (.cell p x) = true)
    (st : s.portState (.cell p x) ≤ 1) : (s.detect (.cell p x) half miswired).portState (.cell p x) =
      if half || !(s.cell p).lnk.half then (if miswired then 7 else 1) else s.portState (.cell p x) := by
  have hp : (s.cell p).powered = true := on
  obtain ⟨power, rate, state⟩ := (s.cell p).detectRate_spec x half
  have same : (s.modCell p (fun c => c.act (fun c => c.detectRate x half))).portState (.cell p x) = s.portState (.cell p x) :=
    (Dev.portState_act hp).trans state
  have taken : ((s.modCell p (fun c => c.act (fun c => c.detectRate x half))).cell p).lnk.half = (half || (s.cell p).lnk.half) := by
    rw [Dev.cell_modCell_same, Cell.act_lnk hp, rate]
  have ready : (s.modCell p (fun c => c.act (fun c => c.detectRate x half))).portReady (.cell p x) := by
    rw [Dev.portReady_cell, Dev.cell_act_powered hp, power, hp]
  have act : (!s.portOn (.cell p x) || decide (1 < s.portState (.cell p x))) = false := by simp [on, st]
  simp only [Dev.detect, act, taken, Bool.false_eq_true, if_false]
  generalize s.modCell p (fun c => c.act (fun c => c.detectRate x half)) = t at same ready ⊢
  by_cases fits : (half || !(s.cell p).lnk.half) = true
  · have eq : (half == (half || (s.cell p).lnk.half)) = true := by
      cases half <;> simp_all
    rw [if_pos fits, if_neg (by simp [eq])]
    split
    · exact Dev.miswire_state ready 1 0
    · exact Dev.detect_end ready
  · have ne : (half == (half || (s.cell p).lnk.half)) = false := by
      cases half <;> simp_all
    rw [if_neg fits, if_pos (by simp [ne]), same]


/-! ### Block lock and its loss (R505, R517, R520) -/

/-- The port has block lock. -/
def Dev.portLocked (s : Dev) : RxPort → Bool
  | .pkg d i => s.fbit (RDn_RP_STAT_LOCK d.idx i)
  | .cell p x => (s.cell p).portLock x

theorem Dev.portLocked_congr_pkg {s t : Dev} {d : RDie} {i : Nat} (h : t.rget (RDn_RP_STAT d.idx i) = s.rget (RDn_RP_STAT d.idx i)) :
    t.portLocked (.pkg d i) = s.portLocked (.pkg d i) := by
  have same : t.fget (RDn_RP_STAT_LOCK d.idx i) = s.fget (RDn_RP_STAT_LOCK d.idx i) := by
    simp only [Dev.fget, RDn_RP_STAT_LOCK, h]
  simp only [Dev.portLocked, Dev.fbit, same]

theorem keptReg_port {n i : Nat} (hn : n < 2) (hi : i < 66) : keptReg (RDn_RP_STAT n i) := by
  simp only [keptReg, RDn_RP_STAT, rdBase]
  omega

theorem Dev.awake_rget (s : Dev) (r : Nat) (e : End) {n i : Nat} (hn : n < 2) (hi : i < 66) (hr : r < 132) :
    (s.awake r e).rget (RDn_RP_STAT n i) = s.rget (RDn_RP_STAT n i) := by
  refine ((Dev.Keeps.refl _).recheckStreams.regs _ (keptReg_port hn hi)).trans ?_
  refine Dev.rget_rfset_ringStat _ _ hi hr fun n r => ?_
  cases e <;> rfl

/-- A package port with lock, in any state: the field is its own. -/
theorem Dev.lock_pkg (t : Dev) (d : RDie) (i : Nat) {v : Nat} (hv : v < 2) :
    (t.fset (RDn_RP_STAT_LOCK d.idx i) v).portState (.pkg d i) = t.portState (.pkg d i) ∧
      (t.fset (RDn_RP_STAT_LOCK d.idx i) v).portLocked (.pkg d i) = decide (v ≠ 0) := by
  refine ⟨Dev.portState_fset_pkg _ (by simp [RDn_RP_STAT_LOCK]), ?_⟩
  rw [Dev.portLocked, Dev.fbit, Dev.fget_fset_same _ _ _ (by simp [RDn_RP_STAT_LOCK])]
  simp only [RDn_RP_STAT_LOCK]
  congr 2
  omega

theorem Dev.setPort_lock (h : s.portReady q) {g : CPort → Cell → Cell}
    (hg : ∀ x c, ∃ l, g x c = { c.fset (SRB_RP_STAT_LOCK x.idx) 1 with lnk := l }) {n : Nat} (hn : n < 16) :
    let t := (s.setPort q n).atPort q (fun d i s => s.fset (RDn_RP_STAT_LOCK d i) 1) g
    t.portState q = n ∧ t.portLocked q = true := by
  have h1 := Dev.setPort_state h hn
  have r1 := Dev.setPort_ready h n
  cases q with
  | pkg d i =>
    rw [Dev.atPort_pkg]
    obtain ⟨state, lock⟩ := (s.setPort (.pkg d i) n).lock_pkg d i (v := 1) (by decide)
    exact ⟨state.trans h1, lock⟩
  | cell p x =>
    obtain ⟨l, hl⟩ := hg x ((s.setPort (.cell p x) n).cell p)
    rw [Dev.atPort_cell]
    refine ⟨?_, ?_⟩
    · rw [Dev.portState_act r1, hl, Cell.fget_lnk, Cell.state_fset _ _ _ (by simp [SRB_RP_STAT_LOCK])]
      exact h1
    · rw [Dev.portLocked, Dev.cell_modCell_same, Cell.portLock, Cell.fbit, Cell.act_fget r1 _ (SRB_RP_STAT_ne_latch _), hl,
        Cell.fget_lnk, Cell.fget_fset_same _ _ _ (by simp [SRB_RP_STAT_LOCK])]
      simp [SRB_RP_STAT_LOCK]

theorem Dev.blockLock_spec (h : s.portReady q) : (s.blockLock q).portState q = 3 ∧ (s.blockLock q).portLocked q = true := by
  unfold Dev.blockLock
  extract_lets +onlyGivenNames t
  have ht : t.portState q = 3 ∧ t.portLocked q = true := Dev.setPort_lock h (fun x c => ⟨_, rfl⟩) (by decide)
  have ready : ∀ d i, q = .pkg d i → i < 66 := fun d i e => by
    subst e
    exact h
  clear_value t
  split
  next d i =>
    have hi := ready d i rfl
    have hr := Dev.endOfPort_lt t d hi
    split
    next r e he =>
    rw [he] at hr
    refine Dev.of_ite (P := fun w => w.portState (.pkg d i) = 3 ∧ w.portLocked (.pkg d i) = true) ?_ ht
    have same := t.awake_rget r (endOther e) (RDie.idx_lt_two d) hi hr
    exact ⟨(Dev.portState_congr_pkg same).trans ht.1, (Dev.portLocked_congr_pkg same).trans ht.2⟩
  next p x => exact ht

theorem Dev.portLocked_act {p : Place} {x : CPort} {g : Cell → Cell} (h : (s.cell p).powered = true) :
    (s.modCell p (fun c => c.act g)).portLocked (.cell p x) = (g (s.cell p)).portLock x := by
  rw [Dev.portLocked, Dev.cell_modCell_same, Cell.portLock, Cell.fbit, Cell.act_fget h g (SRB_RP_STAT_ne_latch _)]
  rfl

/-- What a cell's port shows once its lock is gone, whatever else the loss leaves of the link. -/
theorem Cell.unlock_shows (b : Cell) (x : CPort) :
    ((b.fset (SRB_RP_STAT_LOCK x.idx) 0).fset (SRB_RP_STAT_REGEN x.idx) 0).fget (SRB_RP_STAT_STATE x.idx) =
        b.fget (SRB_RP_STAT_STATE x.idx) ∧
      ((b.fset (SRB_RP_STAT_LOCK x.idx) 0).fset (SRB_RP_STAT_REGEN x.idx) 0).fget (SRB_RP_STAT_LOCK x.idx) = 0 := by
  constructor
  · rw [Cell.state_fset _ _ _ (by simp [SRB_RP_STAT_REGEN]), Cell.state_fset _ _ _ (by simp [SRB_RP_STAT_LOCK])]
  · rw [Cell.fget_fset_ne _ _ (by simp [SRB_RP_STAT_REGEN]) (.inr (by simp [SRB_RP_STAT_REGEN, SRB_RP_STAT_LOCK])),
      Cell.fget_fset_same _ _ _ (by simp [SRB_RP_STAT_LOCK])]
    exact Nat.zero_mod _

/-- A lost lock is counted in another register. -/
theorem Cell.countLoss_shows (c : Cell) (x : CPort) :
    (if c.portLock x then c.finc (SRB_RP_SYNC_LOL x.idx) else c).powered = c.powered ∧
      (if c.portLock x then c.finc (SRB_RP_SYNC_LOL x.idx) else c).fget (SRB_RP_STAT_STATE x.idx) =
        c.fget (SRB_RP_STAT_STATE x.idx) := by
  have hne : SRB_RP_STAT x.idx ≠ SRB_RP_SYNC x.idx := by
    simp only [SRB_RP_STAT, SRB_RP_SYNC]
    omega
  refine Cell.of_ite (P := fun b => b.powered = c.powered ∧ b.fget (SRB_RP_STAT_STATE x.idx) = c.fget (SRB_RP_STAT_STATE x.idx))
    ⟨c.finc_powered _, ?_⟩ ⟨rfl, rfl⟩
  exact Cell.fget_fset_ne c _ (by simp [SRB_RP_SYNC_LOL]) (.inl hne)

/-- The registers of a cell whose port has lost its lock, counted where it had one. -/
def Cell.dropped (c : Cell) (x : CPort) : Cell :=
  ((if c.portLock x then c.finc (SRB_RP_SYNC_LOL x.idx) else c).fset (SRB_RP_STAT_LOCK x.idx) 0).fset (SRB_RP_STAT_REGEN x.idx) 0

theorem Cell.dropped_shows (c : Cell) (x : CPort) : (c.dropped x).powered = c.powered ∧
    (c.dropped x).fget (SRB_RP_STAT_STATE x.idx) = c.fget (SRB_RP_STAT_STATE x.idx) ∧
      (c.dropped x).fget (SRB_RP_STAT_LOCK x.idx) = 0 := by
  obtain ⟨power, counted⟩ := c.countLoss_shows x
  unfold Cell.dropped
  generalize (if c.portLock x then c.finc (SRB_RP_SYNC_LOL x.idx) else c) = b at power counted
  obtain ⟨state, lock⟩ := b.unlock_shows x
  rw [Cell.fset_powered, Cell.fset_powered]
  exact ⟨power, state.trans counted, lock⟩

/-- A cell with another state of its links. -/
def Cell.withLnk (c : Cell) (l : CellLnk) : Cell := { c with lnk := l }

theorem Cell.withLnk_powered (c : Cell) (l : CellLnk) : (c.withLnk l).powered = c.powered := rfl

theorem Cell.withLnk_fget (c : Cell) (l : CellLnk) (f : Field) : (c.withLnk l).fget f = c.fget f := rfl

theorem Dev.dropLock_cell (s : Dev) (p : Place) (x : CPort) : ∃ g : Cell → Cell, (∀ c : Cell, ∃ l, g c = (c.dropped x).withLnk l) ∧
    s.dropLock (.cell p x) = (s.setPort (.cell p x) 1).modCell p (fun c => c.act g) := by
  unfold Dev.dropLock
  rw [Dev.atPort_cell]
  generalize s.setPort (.cell p x) 1 = t
  refine ⟨_, fun c => ?_, rfl⟩
  cases x <;> exact ⟨_, rfl⟩

theorem Dev.dropLock_ready {p : Place} {x : CPort} (h : s.portReady (.cell p x)) : ((s.dropLock (.cell p x)).cell p).powered = true := by
  have r1 := Dev.setPort_ready h 1
  obtain ⟨g, hg, e⟩ := s.dropLock_cell p x
  obtain ⟨l, hl⟩ := hg ((s.setPort (.cell p x) 1).cell p)
  rw [e, Dev.cell_act_powered r1, hl, Cell.withLnk_powered, (Cell.dropped_shows _ _).1]
  exact r1

/-- Block lock is gone. -/
theorem Dev.dropLock_spec (h : s.portReady q) : (s.dropLock q).portState q = 1 ∧ (s.dropLock q).portLocked q = false := by
  have h1 := Dev.setPort_state h (n := 1) (by decide)
  have r1 := Dev.setPort_ready h 1
  cases q with
  | pkg d i =>
    unfold Dev.dropLock
    rw [Dev.atPort_pkg]
    generalize s.setPort (.pkg d i) 1 = t at h1
    dsimp only
    generalize hu : (if t.fbit (RDn_RP_STAT_LOCK d.idx i) then t.finc (RDn_RP_ERR_LOL d.idx i) else t) = u
    have counted : u.portState (.pkg d i) = 1 := by
      have hne : RDn_RP_STAT d.idx i ≠ RDn_RP_ERR d.idx i := by simp [RDn_RP_STAT, RDn_RP_ERR]
      rw [← hu]
      exact Dev.of_ite (P := fun w => w.portState (.pkg d i) = 1)
        ((Dev.portState_congr_pkg (Dev.rget_fset_reg t _ hne)).trans h1) h1
    obtain ⟨state, lock⟩ := u.lock_pkg d i (v := 0) (by decide)
    have same : ∀ f, ((u.fset (RDn_RP_STAT_LOCK d.idx i) 0).modRd d.idx f).rget (RDn_RP_STAT d.idx i) =
        (u.fset (RDn_RP_STAT_LOCK d.idx i) 0).rget (RDn_RP_STAT d.idx i) := fun f => Dev.rget_congr (Dev.modRd_regs _ _ _) _
    exact ⟨(Dev.portState_congr_pkg (same _)).trans (state.trans counted), (Dev.portLocked_congr_pkg (same _)).trans lock⟩
  | cell p x =>
    obtain ⟨g, hg, e⟩ := s.dropLock_cell p x
    obtain ⟨l, hl⟩ := hg ((s.setPort (.cell p x) 1).cell p)
    obtain ⟨-, state, lock⟩ := ((s.setPort (.cell p x) 1).cell p).dropped_shows x
    rw [e, Dev.portState_act r1, Dev.portLocked_act r1, hl, Cell.portLock, Cell.fbit, Cell.withLnk_fget,
      Cell.withLnk_fget, state, lock]
    exact ⟨h1, rfl⟩

/-! ### Cells beside a launched stream -/

/-- The registers and the power of every cell are as they were. -/
def Dev.SameCells (s t : Dev) : Prop := ∀ p, (t.cell p).regs = (s.cell p).regs ∧ (t.cell p).powered = (s.cell p).powered

section
variable {t : Dev}

theorem Dev.SameCells.of_cells (h : t.cells = s.cells) : s.SameCells t := fun p => by simp only [Dev.cell, h, and_self]

theorem Dev.SameCells.trans {u : Dev} (h : s.SameCells t) (h' : t.SameCells u) : s.SameCells u := fun p =>
  ⟨(h' p).1.trans (h p).1, (h' p).2.trans (h p).2⟩

theorem Dev.setLine_sameCells (s : Dev) (q : Sender) (l : Option Line) : s.SameCells (s.setLine q l) := by
  cases q with
  | ringEnd r e => exact .of_cells (Dev.modRd_cells _ _ _)
  | cell p x =>
    intro p'
    by_cases e : p' = p
    · subst e
      rw [Dev.setLine, Dev.cell_modCell_same]
      cases x <;> exact ⟨rfl, rfl⟩
    · rw [Dev.setLine, Dev.modCell, Dev.cell_setCell_ne _ _ e]
      exact ⟨rfl, rfl⟩

theorem Dev.newLine_sameCells (s : Dev) (q : Sender) : s.SameCells (s.newLine q).2 :=
  .trans (t := s.free.2) (.of_cells rfl) (Dev.setLine_sameCells _ _ _)

theorem Dev.placeBlock_sameCells (s : Dev) (q : Sender) (ty : BitVec 4) (t : Int) : s.SameCells (s.placeBlock q ty t).2 := by
  have h1 : s.SameCells (s.openLine q).2 := by
    unfold Dev.openLine
    split
    · exact .of_cells rfl
    · exact s.newLine_sameCells q
  simp only [Dev.placeBlock]
  split_ifs <;> exact h1.trans (Dev.setLine_sameCells _ _ _)

theorem Dev.sendFrom_sameCells (s : Dev) (q : Sender) (ty : BitVec 4) (t : Int) (pl : Int → Payload) :
    s.SameCells (s.sendFrom q ty t pl) := by
  have h1 := s.placeBlock_sameCells q ty t
  simp only [Dev.sendFrom]
  split
  · exact h1.trans (.of_cells rfl)
  · exact h1

theorem Dev.cellLaunch_sameCells (s : Dev) (p : Place) (y : CPort) (t : Int) : s.SameCells (s.cellLaunch p y t) := by
  unfold Dev.cellLaunch
  extract_lets +onlyGivenNames c now tl u e
  have h1 : s.SameCells u := s.sendFrom_sameCells _ _ _ _
  clear_value u
  split
  · split
    · exact h1.trans (.of_cells rfl)
    · exact h1
  · exact h1

end

/-- A cell whose port x has no stream launches the stream onward, and shows it. -/
theorem Dev.splitLaunch_spec {p : Place} {x : CPort} (h : (s.cell p).powered = true) :
    ((s.splitLaunch p x).cell p).fbit (SRB_RP_STAT_LAUNCH x.other.idx) = true ∧
      ∀ f, f.reg = SRB_RP_STAT x.idx → ((s.splitLaunch p x).cell p).fget f = (s.cell p).fget f := by
  unfold Dev.splitLaunch
  extract_lets +onlyGivenNames y t1 t2 c t3
  have h1 : s.SameCells t1 := by
    unfold t1
    split
    · exact s.setLine_sameCells _ _
    · exact s.newLine_sameCells _
  clear_value t1
  have power : (t1.cell p).powered = true := (h1 p).2.trans h
  have h2 : t2.cell p = (t1.cell p).act (fun c => c.fset (SRB_RP_STAT_LAUNCH y.idx) 1) := Dev.cell_modCell_same _ _ _
  clear_value t2
  have h3 : t2.SameCells (t3.send (.cell p y) 0x9 (c.caps 4 (decide (y = .d)) (c.fget SRB_RP_NEG_HOPA) (p / 64)
      [(16, 8, 1), (17, 1, b2n (decide (x = .d)))])) :=
    (t2.cellLaunch_sameCells _ _ _).trans (Dev.sendFrom_sameCells _ _ _ _ _)
  have shown : ∀ f, f.reg ≠ SRB_ALARM_LAT → ((t3.send (.cell p y) 0x9 (c.caps 4 (decide (y = .d)) (c.fget SRB_RP_NEG_HOPA) (p / 64)
      [(16, 8, 1), (17, 1, b2n (decide (x = .d)))])).cell p).fget f = ((t1.cell p).fset (SRB_RP_STAT_LAUNCH y.idx) 1).fget f := by
    intro f hf
    rw [Cell.fget_congr (h3 p).1, h2, Cell.act_fget power _ hf]
  constructor
  · rw [Cell.fbit, shown _ (SRB_RP_STAT_ne_latch _), Cell.fget_fset_same _ _ _ (by simp [SRB_RP_STAT_LAUNCH])]
    simp [SRB_RP_STAT_LAUNCH]
  · intro f hf
    rw [shown f (hf ▸ SRB_RP_STAT_ne_latch _),
      Cell.fget_fset_ne _ _ (by simp [SRB_RP_STAT_LAUNCH]) (.inl (hf ▸ SRB_RP_STAT_ne (CPort.idx_other_ne x))),
      Cell.fget_congr (h1 p).1]

/-- A cut shows in no port's state. -/
theorem Dev.addCut_rget (s : Dev) {r h n i : Nat} (toB : Bool) (hn : n < 2) (hi : i < 66) (hr : r < 132) :
    (s.addCut r h toB).rget (RDn_RP_STAT n i) = s.rget (RDn_RP_STAT n i) := by
  have kept := keptReg_port hn hi
  unfold Dev.addCut
  extract_lets +onlyGivenNames x
  refine Dev.of_ite (P := fun w => w.rget (RDn_RP_STAT n i) = s.rget (RDn_RP_STAT n i)) rfl ?_
  extract_lets +onlyGivenNames t1 t2
  have h2 : t2.rget (RDn_RP_STAT n i) = s.rget (RDn_RP_STAT n i) := by
    unfold t2
    refine Dev.of_ite (P := fun w => w.rget (RDn_RP_STAT n i) = s.rget (RDn_RP_STAT n i)) rfl ?_
    have told : ∀ u b, t1.event .cont .hop (65 * r + h) 0 0 = (u, b) → u.rget (RDn_RP_STAT n i) = s.rget (RDn_RP_STAT n i) := by
      intro u b e
      have hu : u = (t1.event .cont .hop (65 * r + h) 0 0).1 := by rw [e]
      rw [hu]
      exact (Dev.Noted.refl t1).event.regs _ (not_noteReg_kept kept)
    split
    next u b e =>
    exact Dev.of_ite (P := fun w => w.rget (RDn_RP_STAT n i) = s.rget (RDn_RP_STAT n i)) (told u b e) (told u b e)
  clear_value t2
  refine ((Dev.Keeps.refl _).turnEnds.regs _ kept).trans (Eq.trans ?_ h2)
  obtain ⟨u, hu, shown⟩ := t2.showBreaks_spec hr
  refine (shown.regs _ (not_noteReg_kept kept)).trans ?_
  refine Dev.of_ite (P := fun w => w.rget (RDn_RP_STAT n i) = t2.rget (RDn_RP_STAT n i)) (hu.regs _ kept) ?_
  exact (Dev.rget_rfset_ringStat u _ hi hr fun _ _ => rfl).trans (hu.regs _ kept)

/-- A package port that loses lock shows what the loss leaves; a cut it places shows elsewhere. -/
theorem Dev.loseLock_pkg {d : RDie} {i : Nat} (hi : i < 66) (h2 : 2 ≤ s.portState (.pkg d i)) (h5 : s.portState (.pkg d i) ≤ 5) :
    (s.loseLock (.pkg d i)).rget (RDn_RP_STAT d.idx i) = (s.dropLock (.pkg d i)).rget (RDn_RP_STAT d.idx i) := by
  unfold Dev.loseLock
  extract_lets +onlyGivenNames st asleep t
  rw [if_neg (by omega)]
  change _ = t.rget (RDn_RP_STAT d.idx i)
  clear_value t
  split
  · rfl
  · split
    next d' i' hq =>
      cases hq
      have hr := Dev.endOfPort_lt t d hi
      split
      next r e he =>
      rw [he] at hr
      exact t.addCut_rget _ (RDie.idx_lt_two d) hi hr
    next p x hq => cases hq

/-- A cell whose port loses lock: one that was LINKED and did not sleep launches the stream onward. -/
theorem Dev.loseLock_cell {p : Place} {x : CPort} (h2 : 2 ≤ s.portState (.cell p x)) (h5 : s.portState (.cell p x) ≤ 5) :
    s.loseLock (.cell p x) = if s.portState (.cell p x) = 5 ∧ s.portSleeps (.cell p x) = false then
      (s.dropLock (.cell p x)).splitLaunch p x else s.dropLock (.cell p x) := by
  simp only [Dev.loseLock]
  rw [if_neg (by omega)]
  cases hs : s.portSleeps (.cell p x) <;> simp

theorem Dev.loseLock_spec (h : s.portReady q) (h2 : 2 ≤ s.portState q) (h5 : s.portState q ≤ 5) :
    (s.loseLock q).portState q = 1 ∧ (s.loseLock q).portLocked q = false := by
  obtain ⟨state, lock⟩ := Dev.dropLock_spec h
  cases q with
  | pkg d i =>
    have same := Dev.loseLock_pkg h h2 h5
    exact ⟨(Dev.portState_congr_pkg same).trans state, (Dev.portLocked_congr_pkg same).trans lock⟩
  | cell p x =>
    rw [Dev.loseLock_cell h2 h5]
    refine Dev.of_ite (P := fun w => w.portState (.cell p x) = 1 ∧ w.portLocked (.cell p x) = false) ?_ ⟨state, lock⟩
    obtain ⟨-, shown⟩ := Dev.splitLaunch_spec (x := x) (Dev.dropLock_ready h)
    refine ⟨(shown _ rfl).trans state, ?_⟩
    rw [Dev.portLocked, Cell.portLock, Cell.fbit, shown _ rfl]
    exact lock

theorem Dev.loseLock_launches {p : Place} {x : CPort} (h : (s.cell p).powered = true) (h5 : s.portState (.cell p x) = 5)
    (awake : s.portSleeps (.cell p x) = false) :
    ((s.loseLock (.cell p x)).cell p).fbit (SRB_RP_STAT_LAUNCH x.other.idx) = true := by
  rw [Dev.loseLock_cell (by omega) (by omega), if_pos ⟨h5, awake⟩]
  exact (Dev.splitLaunch_spec (Dev.dropLock_ready (x := x) h)).1

/-! ### TRAIN (R504, R505, R507) -/

/-- A TRAIN block at a port: it is counted, and a good one is used. -/
def Dev.takeTrain (s : Dev) (q : RxPort) (pl : Payload) (h : Rx) : Dev :=
  if !s.portOn q || !(decide (3 ≤ s.portState q) && decide (s.portState q ≤ 5)) then s
  else
    let d := s.atPort q (fun n i s => s.portRx n i h) (fun x c => c.rxCount x h)
    if h.crcOk then d.trainIn q pl else d

theorem Cell.rxCount_spec (c : Cell) (x : CPort) (h : Rx) : (c.rxCount x h).powered = c.powered ∧ (c.rxCount x h).serial = c.serial ∧
    (c.rxCount x h).lnk = c.lnk ∧ (c.rxCount x h).fget (SRB_RP_STAT_STATE x.idx) = c.fget (SRB_RP_STAT_STATE x.idx) := by
  have crc : SRB_RP_STAT x.idx ≠ SRB_RP_CRC x.idx := by
    simp only [SRB_RP_STAT, SRB_RP_CRC]
    omega
  have gap : SRB_RP_STAT x.idx ≠ SRB_RP_SYNC x.idx := by
    simp only [SRB_RP_STAT, SRB_RP_SYNC]
    omega
  let P := fun b : Cell => b.powered = c.powered ∧ b.serial = c.serial ∧ b.lnk = c.lnk ∧
    b.fget (SRB_RP_STAT_STATE x.idx) = c.fget (SRB_RP_STAT_STATE x.idx)
  have counted : P (if h.crcOk then c else c.finc (SRB_RP_CRC_N x.idx)) :=
    Cell.of_ite (P := P) ⟨rfl, rfl, rfl, rfl⟩
      ⟨c.finc_powered _, rfl, c.finc_lnk _, Cell.fget_fset_ne c _ (by simp [SRB_RP_CRC_N]) (.inl crc)⟩
  unfold Cell.rxCount
  extract_lets b
  change P b at counted
  clear_value b
  obtain ⟨power, serial, lnk, state⟩ := counted
  exact Cell.of_ite (P := P) ⟨power, serial, lnk, state⟩
    ⟨(b.finc_powered _).trans power, serial, (b.finc_lnk _).trans lnk,
      (Cell.fget_fset_ne b _ (by simp [SRB_RP_SYNC_BGAP]) (.inl gap)).trans state⟩

/-- What counting a TRAIN at a port leaves of what a TRAIN is checked against. -/
structure Dev.CountedAt (s t : Dev) (q : RxPort) : Prop where
  ready : t.portReady q
  state : t.portState q = s.portState q
  identity : ∀ pl, t.identity q pl = s.identity q pl
  count : ∀ ok, (t.trainCount q ok).1 = (s.trainCount q ok).1
  ends : ∀ d i, q = .pkg d i → t.endOfPort = s.endOfPort

theorem not_noteReg_port (n i : Nat) : ¬ noteReg (RDn_RP_STAT n i) :=
  not_noteReg_rd (by simp only [RDn_RP_STAT, rdBase]; omega) (.inr (by simp only [RDn_RP_STAT, rdBase]; omega))

theorem Dev.rx_countedAt (h : s.portReady q) (x : Rx) :
    s.CountedAt (s.atPort q (fun n i s => s.portRx n i x) (fun y c => c.rxCount y x)) q := by
  cases q with
  | pkg d i =>
    rw [Dev.atPort_pkg]
    have noted : s.Noted (s.portRx d.idx i x) := (Dev.Noted.refl s).portRx (RDie.idx_lt_two d) h
    have serial : (s.portRx d.idx i x).fget GLB_SER_SER = s.fget GLB_SER_SER :=
      noted.fget (not_noteReg_low (by decide) (by decide) (by decide) (by decide) (by decide))
    generalize s.portRx d.idx i x = t at noted serial
    exact
      { ready := h
        state := Dev.portState_congr_pkg (noted.regs _ (not_noteReg_port _ _))
        identity := fun pl => by simp only [Dev.identity, serial]
        count := fun ok => by simp only [Dev.trainCount, noted.rd]
        ends := fun _ _ _ => Dev.endOfPort_congr noted.variant (noted.regs _ not_noteReg_twin) }
  | cell p y =>
    rw [Dev.atPort_cell]
    rw [Dev.portReady_cell] at h
    obtain ⟨power, serial, lnk, state⟩ := (s.cell p).rxCount_spec y x
    have cell : ((s.modCell p (fun c => c.act (fun c => c.rxCount y x))).cell p) = (s.cell p).act (fun c => c.rxCount y x) :=
      Dev.cell_modCell_same _ _ _
    have serial' : ((s.modCell p (fun c => c.act (fun c => c.rxCount y x))).cell p).serial = (s.cell p).serial := by
      rw [cell, Cell.act_serial h, serial]
    have lnk' : ((s.modCell p (fun c => c.act (fun c => c.rxCount y x))).cell p).lnk = (s.cell p).lnk := by
      rw [cell, Cell.act_lnk h, lnk]
    exact
      { ready := (Dev.cell_act_powered h).trans (power.trans h)
        state := (Dev.portState_act h).trans state
        identity := fun pl => by simp only [Dev.identity, serial']
        count := fun ok => by simp only [Dev.trainCount, lnk']
        ends := fun _ _ e => absurd e (by simp) }

theorem Dev.trainCount_countedAt (h : s.portReady q) (ok : Bool) : (s.trainCount q ok).2.portReady q ∧
    (s.trainCount q ok).2.portState q = s.portState q ∧ ∀ d i, q = .pkg d i → (s.trainCount q ok).2.endOfPort = s.endOfPort := by
  cases q with
  | pkg d i =>
    refine ⟨h, Dev.portState_congr_pkg (Dev.rget_congr (Dev.modRd_regs _ _ _) _), fun _ _ _ => ?_⟩
    exact Dev.endOfPort_congr (Dev.modRd_variant _ _ _) (Dev.rget_congr (Dev.modRd_regs _ _ _) _)
  | cell p y =>
    rw [Dev.portReady_cell] at h
    refine ⟨?_, ?_, fun _ _ e => absurd e (by simp)⟩
    · simp only [Dev.portReady_cell, Dev.trainCount, Dev.cell_modCell_same, h]
    · simp only [Dev.portState, Dev.trainCount, Dev.cell_modCell_same]
      exact Cell.fget_congr rfl

/-- The first good TRAIN whose identity fits. -/
theorem Dev.trainIn_ident {pl : Payload} (h : s.portReady q) (st : s.portState q = 3) (fits : s.identity q pl = none) :
    (s.trainIn q pl).portState q = 4 := by
  simp only [Dev.trainIn, if_pos st, fits]
  exact Dev.setPort_state (Dev.trainCount_countedAt h false).1 (by decide)

/-- A TRAIN whose identity does not fit. -/
theorem Dev.trainIn_miswired {pl : Payload} (h : s.portReady q) (st : s.portState q = 3) (fits : s.identity q pl ≠ none) :
    (s.trainIn q pl).portState q = 7 := by
  obtain ⟨f, hf⟩ := Option.ne_none_iff_exists'.1 fits
  simp only [Dev.trainIn, if_pos st, hf]
  exact Dev.miswire_state h _ _

/-- Fewer than 16 TRAINs in a row with RXOK. -/
theorem Dev.trainIn_waits {pl : Payload} (h : s.portReady q) (st : s.portState q = 4)
    (few : (s.trainCount q (bitOf (Pl.get pl 9 8) 0)).1 < 16) : (s.trainIn q pl).portState q = 4 := by
  simp only [Dev.trainIn]
  rw [if_neg (by omega), if_pos st, if_neg (by omega)]
  exact (Dev.trainCount_countedAt h _).2.1.trans st

/-- A stream that has been started stands, and shows in no port's state. -/
theorem Dev.newLine_line (s : Dev) (q : Sender) : ((s.newLine q).2.line q).isSome = true := by
  simp only [Dev.newLine, Dev.line_setLine_same, Option.isSome_some]

/-- The stream of a package port's ring end stands. -/
def Dev.hasStream (s t : Dev) : RxPort → Prop
  | .pkg d i => (t.line (.ringEnd (s.endOfPort d.idx i).1 (s.endOfPort d.idx i).2)).isSome = true
  | .cell _ _ => True

theorem Dev.trainIn_linked {pl : Payload} (h : s.portReady q) (st : s.portState q = 4)
    (many : 16 ≤ (s.trainCount q (bitOf (Pl.get pl 9 8) 0)).1) : (s.trainIn q pl).portState q = 5 ∧ s.hasStream (s.trainIn q pl) q := by
  obtain ⟨ready, -, ends⟩ := Dev.trainCount_countedAt h (bitOf (Pl.get pl 9 8) 0)
  simp only [Dev.trainIn]
  rw [if_neg (by omega), if_pos st, if_pos many]
  generalize (s.trainCount q (bitOf (Pl.get pl 9 8) 0)).2 = t at ready ends
  obtain ⟨ready', -, ends'⟩ := Dev.trainCount_countedAt ready false
  generalize (t.trainCount q false).2 = u at ready' ends'
  have h5 := Dev.setPort_state ready' (n := 5) (by decide)
  cases q with
  | pkg d i =>
    have endSame : (u.setPort (.pkg d i) 5).endOfPort = s.endOfPort := by
      rw [← ends d i rfl, ← ends' d i rfl]
      refine Dev.endOfPort_congr (Dev.fset_variant _ _ _) (Dev.rget_fset_reg _ _ ?_)
      simp only [SH_TWIN_STAT, RDn_RP_STAT_STATE, RDn_RP_STAT, rdBase]
      omega
    generalize u.setPort (.pkg d i) 5 = w at h5 endSame
    simp only [endSame]
    have kept := ((Dev.Keeps.refl w).newLine (q := .ringEnd (s.endOfPort d.idx i).1 (s.endOfPort d.idx i).2)).regs _
      (keptReg_port (RDie.idx_lt_two d) ready)
    exact ⟨(Dev.portState_congr_pkg kept).trans h5, Dev.newLine_line _ _⟩
  | cell p x => exact ⟨h5, trivial⟩

theorem Dev.trainIn_stays {pl : Payload} (st : s.portState q = 5) : s.trainIn q pl = s := by
  simp only [Dev.trainIn]
  rw [if_neg (by omega), if_neg (by omega)]

/-! ### The commands -/

theorem exec_receiverDetect (s : State) (q : RxPort) (half miswired : Bool) :
    exec (.receiverDetect q half miswired) s = s.updIf (s.dev.hasPort q) (fun d => d.detect q half miswired) := rfl

theorem exec_clockLock (s : State) (q : RxPort) : exec (.clockLock q) s =
    s.updIf (s.dev.hasPort q) (fun d => if d.portOn q ∧ d.portState q = 1 then d.setPort q 2 else d) := rfl

theorem exec_blockLock (s : State) (q : RxPort) : exec (.blockLock q) s =
    s.updIf (s.dev.hasPort q) (fun d => if d.portOn q ∧ d.portState q = 2 then d.blockLock q else d) := rfl

theorem exec_lockLoss (s : State) (q : RxPort) : exec (.lockLoss q) s =
    s.updIf (s.dev.hasPort q) (fun d => if d.portOn q then d.loseLock q else d) := rfl

theorem exec_train (s : State) (q : RxPort) (pl : Payload) (h : Rx) : exec (.train q pl h) s =
    s.updIf (s.dev.hasPort q) (fun d => d.takeTrain q pl h) := rfl

theorem Dev.takeTrain_ignored {pl : Payload} {h : Rx} (e : s.portOn q = false ∨ s.portState q < 3 ∨ 5 < s.portState q) :
    s.takeTrain q pl h = s := by
  refine if_pos ?_
  rcases e with e | e | e
  · simp [e]
  · simp only [Bool.or_eq_true, Bool.not_eq_true', Bool.and_eq_false_iff, decide_eq_false_iff_not]
    omega
  · simp only [Bool.or_eq_true, Bool.not_eq_true', Bool.and_eq_false_iff, decide_eq_false_iff_not]
    omega

/-- A TRAIN that the port takes: P holds of what its use leaves once it is counted. -/
theorem Dev.takeTrain_used {pl : Payload} {h : Rx} {P : Dev → Prop} (ready : s.portReady q) (on : s.portOn q = true)
    (h3 : 3 ≤ s.portState q) (h5 : s.portState q ≤ 5)
    (use : ∀ t, s.CountedAt t q → P (if h.crcOk then t.trainIn q pl else t)) : P (s.takeTrain q pl h) := by
  have act : (!s.portOn q || !(decide (3 ≤ s.portState q) && decide (s.portState q ≤ 5))) = false := by simp [on, h3, h5]
  simp only [Dev.takeTrain, act, Bool.false_eq_true, if_false]
  exact use _ (Dev.rx_countedAt ready h)

theorem Dev.loseLock_ignored (e : s.portState q < 2 ∨ 5 < s.portState q) : s.loseLock q = s := if_pos e

theorem Dev.detect_ignored {half miswired : Bool} (e : s.portOn q = false ∨ 1 < s.portState q) : s.detect q half miswired = s := by
  refine if_pos ?_
  rcases e with e | e <;> simp [e]
end

/-- The clock that a port sees is at the rate it takes. -/
def Dev.clockFits (s : Dev) (q : RxPort) (half : Bool) : Bool :=
  match q with
  | .pkg rd i => decide (half = (s.takeRate (s.endOfPort rd.idx i).1).half (s.endOfPort rd.idx i).1)
  | .cell p _ => half || !(s.cell p).lnk.half

theorem Dev.detect_spec {s : Dev} {q : RxPort} (hq : s.hasPort q = true) (on : s.portOn q = true) (st : s.portState q ≤ 1)
    (half miswired : Bool) : (s.detect q half miswired).portState q =
      if s.clockFits q half then (if miswired then 7 else 1) else s.portState q := by
  cases q with
  | pkg d i =>
    have hi : i < 66 := Dev.portReady_of_on hq on
    simp only [Dev.detect_pkg hi on st, Dev.clockFits, decide_eq_true_eq]
  | cell p x => exact Dev.detect_cell on st

/-- Settles O51: each command is its guard, which the registers answer, and then one change of the port, whose own lemma says
what the port shows after it. -/
theorem portBringUp : Obligations.PortBringUp := by
  unfold Obligations.PortBringUp
  intro s q half miswired h pl st fits locked streams onward at_ hq
  have run : ∀ {c : Instr} {f : Dev → Dev} {P : Dev → Prop}, exec c s = s.updIf (s.dev.hasPort q) f → P (f s.dev) → s.goes c P :=
    fun e p => State.goes_updIf e hq p
  have fits_eq : fits = s.dev.clockFits q half := by cases q <;> rfl
  have locked_eq : locked = fun d => d.portLocked q := by cases q <;> rfl
  refine ⟨fun off => ⟨?_, ?_, ?_, ?_, ?_⟩, fun on => ?_⟩
  · exact run (exec_receiverDetect s q half miswired) (Dev.detect_ignored (.inl off))
  · exact run (exec_clockLock s q) (if_neg fun e => by simp [off] at e)
  · exact run (exec_blockLock s q) (if_neg fun e => by simp [off] at e)
  · exact run (exec_lockLoss s q) (if_neg (by simp [off]))
  · exact run (exec_train s q pl h) (Dev.takeTrain_ignored (.inl off))
  have ready := Dev.portReady_of_on hq on
  refine ⟨fun h1 => ?_, fun h1 hf => ⟨?_, ?_⟩, fun h1 hf => ?_, fun h1 => ?_, fun h1 => ?_, fun h2 => ?_, fun h2 => ?_,
    fun good => ⟨fun h3 id => ?_, fun h3 id => ?_, fun h4 few => ?_, fun h4 many => ?_, fun h5 => ?_⟩, fun bad h3 h5 => ?_,
    fun out => ?_, fun h2 h5 => ?_, fun out => ?_⟩
  · exact run (exec_receiverDetect s q half miswired) (Dev.detect_ignored (.inr h1))
  · exact run (exec_receiverDetect s q half false) ((Dev.detect_spec hq on h1 half false).trans (by rw [← fits_eq, hf]; rfl))
  · exact run (exec_receiverDetect s q half true) ((Dev.detect_spec hq on h1 half true).trans (by rw [← fits_eq, hf]; rfl))
  · exact run (exec_receiverDetect s q half miswired) ((Dev.detect_spec hq on h1 half miswired).trans (by rw [← fits_eq, hf]; rfl))
  · refine run (exec_clockLock s q) ?_
    rw [if_pos ⟨on, h1⟩]
    exact Dev.setPort_state ready (by decide)
  · exact run (exec_clockLock s q) (if_neg fun e => h1 e.2)
  · refine run (exec_blockLock s q) ?_
    rw [if_pos ⟨on, h2⟩, locked_eq]
    exact Dev.blockLock_spec ready
  · exact run (exec_blockLock s q) (if_neg fun e => h2 e.2)
  · refine run (exec_train s q pl h) (Dev.takeTrain_used ready on h3.ge (by omega) fun t c => ?_)
    rw [if_pos good]
    exact Dev.trainIn_ident c.ready (c.state.trans h3) ((c.identity pl).trans id)
  · refine run (exec_train s q pl h) (Dev.takeTrain_used ready on h3.ge (by omega) fun t c => ?_)
    rw [if_pos good]
    exact Dev.trainIn_miswired c.ready (c.state.trans h3) ((c.identity pl).trans_ne id)
  · refine run (exec_train s q pl h) (Dev.takeTrain_used ready on (by omega) (by omega) fun t c => ?_)
    rw [if_pos good]
    exact Dev.trainIn_waits c.ready (c.state.trans h4) ((c.count _).trans_lt few)
  · refine run (exec_train s q pl h) (Dev.takeTrain_used (P := fun d => at_ 5 d ∧ streams d) ready on (by omega) (by omega)
      fun t c => ?_)
    rw [if_pos good]
    obtain ⟨state, stream⟩ := Dev.trainIn_linked c.ready (c.state.trans h4) (many.trans (c.count _).ge)
    refine ⟨state, ?_⟩
    cases q with
    | pkg d i =>
      simp only [Dev.hasStream, c.ends d i rfl] at stream
      exact stream
    | cell p x => trivial
  · refine run (exec_train s q pl h) (Dev.takeTrain_used ready on (by omega) h5.le fun t c => ?_)
    rw [if_pos good, Dev.trainIn_stays (c.state.trans h5)]
    exact c.state.trans h5
  · refine run (exec_train s q pl h) (Dev.takeTrain_used ready on h3 h5 fun t c => ?_)
    rw [if_neg (by simp [bad])]
    exact c.state
  · exact run (exec_train s q pl h) (Dev.takeTrain_ignored (.inr out))
  · refine run (exec_lockLoss s q) ?_
    rw [if_pos on, locked_eq]
    obtain ⟨state, lock⟩ := Dev.loseLock_spec ready h2 h5
    refine ⟨state, lock, ?_⟩
    cases q with
    | pkg d i => trivial
    | cell p x => exact fun linked awake => Dev.loseLock_launches ready linked awake
  · exact run (exec_lockLoss s q) ((if_pos on).trans (Dev.loseLock_ignored out))

end Sys2Proof.Machine
end

section
/-!
PROOFS for the family `01_package_and_flock`: enumeration of a ring, its coming up, its breaks and their repair, its sleep (O52).
-/
namespace Sys2Proof.Machine

/-! ### A ring's fields (R112) -/

/-- Field f stands at bits `lo`, of width w, of the ring registers at offset b of the ring dies' windows. -/
structure RingField (f : Nat → Nat → Field) (b lo w : Nat) : Prop where
  reg : ∀ n i, (f n i).reg = rdBase n + b + 8 * i
  lo : ∀ n i, (f n i).lo = lo
  width : ∀ n i, (f n i).width = w

theorem ringField_state : RingField RDn_RING_STAT_STATE 0x10800 60 4 := ⟨fun _ _ => rfl, fun _ _ => rfl, fun _ _ => rfl⟩
theorem ringField_nv1 : RingField RDn_RING_STAT_NV1 0x10800 32 7 := ⟨fun _ _ => rfl, fun _ _ => rfl, fun _ _ => rfl⟩
theorem ringField_grow : RingField RDn_RPATH_GROW 0x10000 50 1 := ⟨fun _ _ => rfl, fun _ _ => rfl, fun _ _ => rfl⟩
theorem ringField_split : RingField RDn_RPATH_SPLIT 0x10000 49 1 := ⟨fun _ _ => rfl, fun _ _ => rfl, fun _ _ => rfl⟩

theorem ringField_slpCtl (e : End) : RingField (slpCtl e) 0x10C00 (if e = .a then 61 else 60) 1 := by
  cases e <;> exact ⟨fun _ _ => rfl, fun _ _ => rfl, fun _ _ => rfl⟩

theorem ringField_slpStat (e : End) : RingField (slpStat e) 0x10800 (if e = .a then 51 else 50) 1 := by
  cases e <;> exact ⟨fun _ _ => rfl, fun _ _ => rfl, fun _ _ => rfl⟩

/-- What says which ring die's registers answer for a ring. -/
structure Dev.SameDies (o s : Dev) : Prop where
  variant : s.variant = o.variant
  inReset : s.sh.clk.inReset = o.sh.clk.inReset
  masterB : s.sh.tly.masterB = o.sh.tly.masterB
  dies : ∀ d, d < 8 → s.rget (GLB_DIE d) = o.rget (GLB_DIE d)
  twin : s.role = o.role

section
variable {o s : Dev}

theorem Dev.SameDies.powered (h : o.SameDies s) {d : Nat} (hd : d < 8) : s.powered d = o.powered d := by
  have hp : s.fget (GLB_DIE_PWR d) = o.fget (GLB_DIE_PWR d) := by simp only [Dev.fget, GLB_DIE_PWR, h.dies d hd]
  have hf : s.fget (GLB_DIE_FATAL d) = o.fget (GLB_DIE_FATAL d) := by simp only [Dev.fget, GLB_DIE_FATAL, h.dies d hd]
  simp only [Dev.powered, Dev.present, Dev.fbit, h.variant, h.inReset, hp, hf]

theorem Dev.SameDies.hasRing (h : o.SameDies s) (r : Nat) : s.hasRing r = o.hasRing r := by
  simp only [Dev.hasRing, Dev.ringCount_congr h.variant h.twin]

theorem Dev.SameDies.rf (h : o.SameDies s) (f : Nat → Nat → Field) (r : Nat) : s.rf f r = o.rf f r := by
  have hm := o.master_lt
  have same : s.master = o.master := by simp only [Dev.master, h.masterB]
  have h4 := h.powered (d := 4 + o.master) (by omega)
  have h5 := h.powered (d := 5 - o.master) (by omega)
  simp only [Dev.rf, Dev.ringRd, Dev.ringIx, Dev.wide_congr h.variant h.twin, same, h4, h5]

theorem Dev.Keeps.sameDies (h : o.Keeps s) : o.SameDies s where
  variant := h.variant
  inReset := h.inReset
  masterB := congrArg Prod.fst h.tlyNotes
  dies _ hd := h.regs _ (keptReg_die hd)
  twin := h.role

theorem Dev.Noted.sameDies (h : o.Noted s) : o.SameDies s := ((Dev.Keeps.refl o).noted h).sameDies

theorem Dev.SameDies.of_regs (hv : s.variant = o.variant) (hs : s.sh = o.sh) (hr : s.regs = o.regs) : o.SameDies s where
  variant := hv
  inReset := by rw [hs]
  masterB := by rw [hs]
  dies _ _ := Dev.rget_congr hr _
  twin := Dev.role_congr hr

theorem Dev.SameDies.trans {u : Dev} (h : o.SameDies s) (h' : s.SameDies u) : o.SameDies u where
  variant := h'.variant.trans h.variant
  inReset := h'.inReset.trans h.inReset
  masterB := h'.masterB.trans h.masterB
  dies d hd := (h'.dies d hd).trans (h.dies d hd)
  twin := h'.twin.trans h.twin
end

section
variable {f g : Nat → Nat → Field} {b lo w b' lo' w' : Nat} {s : Dev} {r q v : Nat}

/-- A register below the ring dies' windows is no ring's. -/
theorem RingField.ne_low (hf : RingField f b lo w) {a : Nat} (ha : a < 0x200000) (n i : Nat) : a ≠ (f n i).reg := by
  rw [hf.reg, rdBase]
  omega

theorem Dev.rfset_sameDies (hf : RingField f b lo w) (hr : r < 132) : s.SameDies (s.rfset f r v) where
  variant := Dev.rfset_variant _ _ _ _
  inReset := by rw [Dev.rfset_sh]
  masterB := by rw [Dev.rfset_sh]
  dies d hd := Dev.rget_rfset s f r v hr fun n i _ => hf.ne_low (by simp only [GLB_DIE]; omega) n i
  twin := by
    have same : (s.rfset f r v).rget SH_TWIN_STAT = s.rget SH_TWIN_STAT :=
      Dev.rget_rfset s f r v hr fun n i _ => hf.ne_low (by decide) n i
    simp only [Dev.role, Dev.fget, SH_TWIN_STAT_ROLE, same]

theorem Dev.rfset_wide (h : s.wide = true) : s.rfset f r v = s.fset (f (r / 66) (r % 66)) v := if_pos h

theorem Dev.rfset_single (h : s.wide = false) (hv : Config.singleRd s.variant = true) : s.rfset f r v = s.fset (f 0 r) v := by
  simp [Dev.rfset, h, hv]

theorem Dev.rfset_both (h : s.wide = false) (hv : Config.singleRd s.variant = false) :
    s.rfset f r v = (s.fset (f 0 r) v).fset (f 1 r) v := by
  simp [Dev.rfset, h, hv]

theorem Dev.hasRing_narrow (hw : s.wide = false) (h : s.hasRing r = true) : r < 66 := by
  have lt : r < s.ringCount := of_decide_eq_true h
  have le : Config.nRings s.variant ≤ 66 := by cases s.variant <;> decide
  simp only [Dev.ringCount, hw, Bool.false_eq_true, if_false] at lt
  omega

/-- A package of one ring die that has power has it as its ring die. -/
theorem Dev.ringRd_single (hv : Config.singleRd s.variant = true) (on : s.powered 4 = true ∨ s.powered 5 = true)
    (hw : s.wide = false) : s.ringRd r = 0 := by
  have off : s.powered 5 = false := by
    have absent : Config.present s.variant 5 = false := by
      revert hv
      cases s.variant <;> decide
    simp only [Dev.powered, Dev.present, absent, Bool.false_and]
  have on4 : s.powered 4 = true := by simpa [off] using on
  unfold Dev.ringRd Dev.master
  cases s.sh.tly.masterB <;> simp [hw, on4, off]

/-- A ring's field reads what was written to it, where a ring die has power. -/
theorem Dev.fget_rfset_same (hf : RingField f b lo w) (hb : lo + w ≤ 64) (hr : r < 132)
    (on : s.powered 4 = true ∨ s.powered 5 = true) : (s.rfset f r v).fget (s.rf f r) = v % 2 ^ w := by
  have read : ∀ (t : Dev) n i, (t.fset (f n i) v).fget (f n i) = v % 2 ^ w := fun t n i => by
    rw [Dev.fget_fset_same _ _ _ (by rw [hf.lo, hf.width]; exact hb), hf.width]
  simp only [Dev.rf, Dev.ringIx]
  cases hw : s.wide with
  | true =>
    rw [Dev.rfset_wide hw, Dev.ringRd, if_pos hw, if_pos rfl]
    exact read _ _ _
  | false =>
    rw [if_neg (by simp)]
    cases hv : Config.singleRd s.variant with
    | true =>
      rw [Dev.rfset_single hw hv, Dev.ringRd_single hv on hw]
      exact read _ _ _
    | false =>
      rw [Dev.rfset_both hw hv]
      have hn := s.ringRd_lt hr
      generalize s.ringRd r = n at hn
      obtain rfl | rfl : n = 0 ∨ n = 1 := by omega
      · have hne : (f 0 r).reg ≠ (f 1 r).reg := by
          rw [hf.reg, hf.reg, rdBase, rdBase]
          omega
        rw [Dev.fget_fset_reg _ _ hne]
        exact read _ _ _
      · exact read _ _ _

/-- Another ring's field stays, and a field of this ring that shares no bit with the one written. -/
theorem Dev.fget_rfset_ne (hf : RingField f b lo w) (hg : RingField g b' lo' w') (hb : lo + w ≤ 64) (hr : s.hasRing r = true)
    (hq : s.hasRing q = true) (h : (b = b' ∧ q ≠ r) ∨ (b = b' ∧ (lo' + w' ≤ lo ∨ lo + w ≤ lo')) ∨
      (b + 0x400 ≤ b' ∧ b' + 0x400 < 0x100000) ∨ (b' + 0x400 ≤ b ∧ b + 0x400 < 0x100000)) :
    (s.rfset f r v).fget (s.rf g q) = s.fget (s.rf g q) := by
  have one : ∀ (t : Dev) n m i j, i < 66 → j < 66 → (q ≠ r → n ≠ m ∨ i ≠ j) → (t.fset (f m j) v).fget (g n i) = t.fget (g n i) := by
    intro t n m i j hi hj apart
    refine Dev.fget_fset_ne t v (by rw [hf.lo, hf.width]; exact hb) ?_
    rw [hf.reg, hf.lo, hf.width, hg.reg, hg.lo, hg.width, rdBase, rdBase]
    rcases h with ⟨rfl, hne⟩ | ⟨rfl, bits⟩ | off | off
    · refine .inl ?_
      have := apart hne
      omega
    · exact .inr bits
    · exact .inl (by omega)
    · exact .inl (by omega)
  simp only [Dev.rf, Dev.ringIx]
  cases hw : s.wide with
  | true =>
    rw [Dev.rfset_wide hw, Dev.ringRd, if_pos hw, if_pos rfl]
    have hr := Dev.hasRing_lt hr
    have hq := Dev.hasRing_lt hq
    exact one _ _ _ _ _ (by omega) (by omega) (by omega)
  | false =>
    rw [if_neg (by simp)]
    have hr := Dev.hasRing_narrow hw hr
    have hq := Dev.hasRing_narrow hw hq
    cases hv : Config.singleRd s.variant with
    | true =>
      rw [Dev.rfset_single hw hv]
      exact one _ _ _ _ _ hq hr .inr
    | false =>
      rw [Dev.rfset_both hw hv, one _ _ _ _ _ hq hr .inr, one _ _ _ _ _ hq hr .inr]
end

/-! ### Launching a stream beside a dark hop (R686) -/

/-- Block s is as o was but for the cells, the streams, what has been sent, and the `TL` that the ring dies read of it. -/
structure Dev.Launched (o s : Dev) : Prop where
  variant : s.variant = o.variant
  sh : s.sh = o.sh
  regs : s.regs = o.regs
  rings : ∀ r, ∃ t, s.ring r = { o.ring r with tl := t }
  out : o.out <:+ s.out

section
variable {o s : Dev}

theorem Dev.Launched.refl (s : Dev) : s.Launched s := ⟨rfl, rfl, rfl, fun _ => ⟨_, rfl⟩, List.suffix_rfl⟩

theorem Dev.Launched.ite {a b : Dev} {c : Prop} [Decidable c] (ha : o.Launched a) (hb : o.Launched b) :
    o.Launched (if c then a else b) := by
  split <;> assumption

theorem Dev.Launched.forAll {α : Type} {f : Dev → α → Dev} {l : List α} (h : o.Launched s)
    (hf : ∀ t a, o.Launched t → o.Launched (f t a)) : o.Launched (forAll l s f) := by
  unfold Machine.forAll
  induction l generalizing s with
  | nil => exact h
  | cons a l ih => exact ih (hf s a h)

theorem Dev.Launched.emit {e : Emission} (h : o.Launched s) : o.Launched (s.emit e) :=
  { h with out := h.out.trans (List.suffix_cons _ _) }

theorem Dev.Launched.free (h : o.Launched s) : o.Launched s.free.2 := { h with }

theorem Dev.Launched.modCell {p : Place} {f : Cell → Cell} (h : o.Launched s) : o.Launched (s.modCell p f) := { h with }

theorem Dev.Launched.modRd {n : Nat} {f : RingDie → RingDie} (h : o.Launched s) : o.Launched (s.modRd n f) := by
  rcases n with _ | n <;> exact { h with }

/-- Another `TL` for a ring. -/
theorem Dev.Launched.tl {q : Nat} {t : Store Nat} (h : o.Launched s) : o.Launched (s.modRing q (fun x => { x with tl := t })) where
  variant := h.variant
  sh := h.sh
  regs := h.regs
  rings r := by
    obtain ⟨u, hu⟩ := h.rings r
    by_cases e : r = q
    · subst e
      exact ⟨t, (Dev.ring_setRing_same _ _ _).trans (by rw [hu])⟩
    · exact ⟨u, (Dev.ring_setRing_ne _ _ e).trans hu⟩
  out := h.out

theorem Dev.Launched.setLine {q : Sender} {l : Option Line} (h : o.Launched s) : o.Launched (s.setLine q l) := by
  unfold Dev.setLine
  cases q with
  | ringEnd r e => exact h.modRd
  | cell p x => exact h.modCell

theorem Dev.Launched.newLine {q : Sender} (h : o.Launched s) : o.Launched (s.newLine q).2 := h.free.setLine

theorem Dev.Launched.placeBlock {q : Sender} {ty : BitVec 4} {t : Int} (h : o.Launched s) : o.Launched (s.placeBlock q ty t).2 := by
  have h1 : o.Launched (s.openLine q).2 := by
    unfold Dev.openLine
    split
    · exact h
    · exact h.newLine
  simp only [Dev.placeBlock]
  split_ifs <;> exact h1.setLine

theorem Dev.Launched.sendFrom {q : Sender} {ty : BitVec 4} {t : Int} {pl : Int → Payload} (h : o.Launched s) :
    o.Launched (s.sendFrom q ty t pl) := by
  have h1 := h.placeBlock (q := q) (ty := ty) (t := t)
  simp only [Dev.sendFrom]
  split
  · exact h1.emit
  · exact h1

theorem Dev.Launched.send {q : Sender} {ty : BitVec 4} {pl : Payload} (h : o.Launched s) : o.Launched (s.send q ty pl) := h.sendFrom

theorem Dev.Launched.cellLaunch {p : Place} {y : CPort} {t : Int} (h : o.Launched s) : o.Launched (s.cellLaunch p y t) := by
  unfold Dev.cellLaunch
  extract_lets +onlyGivenNames c now tl u e
  have h1 : o.Launched u := h.sendFrom
  clear_value u
  split
  · exact .ite h1.tl h1
  · exact h1

theorem Dev.Launched.splitLaunch {p : Place} {x : CPort} (h : o.Launched s) : o.Launched (s.splitLaunch p x) := by
  unfold Dev.splitLaunch
  extract_lets +onlyGivenNames y t1 t2 c t3
  have h1 : o.Launched t1 := by
    unfold t1
    split
    · exact h.setLine
    · exact h.newLine
  have h3 : o.Launched t3 := h1.modCell.cellLaunch
  exact h3.send

theorem Dev.Launched.darkLaunch {r : Nat} (h : o.Launched s) : o.Launched (s.darkLaunch r) :=
  h.forAll fun _ _ h1 => h1.forAll fun _ _ h2 => .ite h2.splitLaunch h2

theorem Dev.Launched.sameDies (h : o.Launched s) : o.SameDies s := .of_regs h.variant h.sh h.regs

end

/-! ### An enumeration starts (R507, R508) -/

/-- The ports of the ring dies. -/
def portReg (a : Nat) : Prop := ∃ n < 2, ∃ i < 66, a = RDn_RP_STAT n i

theorem Dev.port_lt {s : Dev} {r : Nat} (h : s.hasRing r = true) (e : End) : s.rdOfEnd r e < 2 ∧ s.portOfEnd r e < 66 := by
  have hr := Dev.hasRing_lt h
  cases hw : s.wide with
  | true =>
    simp only [Dev.rdOfEnd, Dev.portOfEnd, hw, if_true]
    omega
  | false =>
    have lt : r < s.ringCount := of_decide_eq_true h
    simp only [Dev.ringCount, Dev.rdOfEnd, Dev.portOfEnd, hw, Bool.false_eq_true, if_false] at lt ⊢
    cases hv : s.variant <;> cases e <;> simp only [hv, Config.nRings] at lt <;> dsimp only <;> omega

/-- Block s is as o was but for the cells and for the findings of the ports. -/
structure Dev.DarkNamed (o s : Dev) : Prop where
  variant : s.variant = o.variant
  sh : s.sh = o.sh
  rings : s.rings = o.rings
  out : s.out = o.out
  regs : ∀ a, ¬ portReg a → s.rget a = o.rget a
  state : ∀ n i, s.fget (RDn_RP_STAT_STATE n i) = o.fget (RDn_RP_STAT_STATE n i)

theorem not_portReg_low {a : Nat} (h : a < 0x200000) : ¬ portReg a := by
  rintro ⟨n, -, i, -, e⟩
  simp only [RDn_RP_STAT, rdBase] at e
  omega

section
variable {o s : Dev}

theorem Dev.DarkNamed.sameDies (h : o.DarkNamed s) : o.SameDies s where
  variant := h.variant
  inReset := by rw [h.sh]
  masterB := by rw [h.sh]
  dies d hd := h.regs _ (not_portReg_low (by simp only [GLB_DIE]; omega))
  twin := by
    have same : s.rget SH_TWIN_STAT = o.rget SH_TWIN_STAT := h.regs _ (not_portReg_low (by decide))
    simp only [Dev.role, Dev.fget, SH_TWIN_STAT_ROLE, same]

theorem Dev.DarkNamed.find {n i : Nat} (h : o.DarkNamed s) (hn : n < 2) (hi : i < 66) : o.DarkNamed (s.fset (RDn_RP_STAT_FIND n i) 6) where
  variant := by rw [Dev.fset_variant, h.variant]
  sh := by rw [Dev.fset_sh, h.sh]
  rings := by rw [Dev.fset_rings, h.rings]
  out := by rw [Dev.fset_out, h.out]
  regs a ha := by
    have hne : a ≠ RDn_RP_STAT n i := fun e => ha ⟨n, hn, i, hi, e⟩
    rw [Dev.rget_fset_reg s _ hne, h.regs a ha]
  state m j := by
    rw [Dev.fget_fset_ne s _ (by simp [RDn_RP_STAT_FIND]) (.inr (.inr (by simp [RDn_RP_STAT_FIND, RDn_RP_STAT_STATE]))), h.state m j]

theorem Dev.DarkNamed.forAll {α : Type} {f : Dev → α → Dev} {l : List α} (h : o.DarkNamed s)
    (hf : ∀ t a, o.DarkNamed t → o.DarkNamed (f t a)) : o.DarkNamed (forAll l s f) := by
  unfold Machine.forAll
  induction l generalizing s with
  | nil => exact h
  | cons a l ih => exact ih (hf s a h)

theorem Dev.DarkNamed.ite {a b : Dev} {c : Prop} [Decidable c] (ha : o.DarkNamed a) (hb : o.DarkNamed b) :
    o.DarkNamed (if c then a else b) := by
  split <;> assumption

theorem Dev.nameDark_named {r : Nat} (hr : s.hasRing r = true) : s.DarkNamed (s.nameDark r) := by
  have refl : s.DarkNamed s := ⟨rfl, rfl, rfl, rfl, fun _ _ => rfl, fun _ _ => rfl⟩
  refine Dev.DarkNamed.forAll (.forAll refl fun t e h => .ite (h.find ?_ ?_) h) fun t i h =>
    h.forAll fun u x h' => .ite { h' with } h'
  · exact (Dev.port_lt ((h.sameDies.hasRing r).trans hr) e).1
  · exact (Dev.port_lt ((h.sameDies.hasRing r).trans hr) e).2

/-- The ends that are LINKED, by what they depend on. -/
theorem Dev.linkedEnds_congr {r : Nat} (h : o.SameDies s) (ht : s.rget SH_TWIN_STAT = o.rget SH_TWIN_STAT) (hr : o.hasRing r = true)
    (hs : ∀ n i, i < 66 → s.fget (RDn_RP_STAT_STATE n i) = o.fget (RDn_RP_STAT_STATE n i)) :
    s.linkedEnds r = o.linkedEnds r := by
  have state : ∀ e, s.endPortState r e = o.endPortState r e := by
    intro e
    obtain ⟨hn, hi⟩ := Dev.port_lt hr e
    simp only [Dev.endPortState, Dev.ownsEnd_congr h.variant ht, Dev.rdOfEnd_congr h.variant h.twin,
      Dev.portOfEnd_congr h.variant h.twin, h.powered (d := 4 + o.rdOfEnd r e) (by omega), hs _ _ hi]
  simp only [Dev.linkedEnds, state]

/-- A ring's field stands in no port's register. -/
theorem not_portReg_ring {f : Nat → Nat → Field} {b lo w r : Nat} (hf : RingField f b lo w) (hr : r < 132) (hb : b < 0x20000) (s : Dev) :
    ¬ portReg (s.rf f r).reg := by
  rintro ⟨n, -, i, hi, e⟩
  have hx : s.ringIx r < 132 := by
    unfold Dev.ringIx
    split <;> omega
  rw [Dev.rf, hf.reg] at e
  simp only [RDn_RP_STAT, rdBase] at e
  omega

theorem Dev.powered_of_linked {r : Nat} (hr : s.hasRing r = true) (h : s.linkedEnds r ≠ []) :
    s.powered 4 = true ∨ s.powered 5 = true := by
  obtain ⟨e, he⟩ := List.exists_mem_of_ne_nil _ h
  have state : s.endPortState r e = 5 := of_decide_eq_true (List.mem_filter.1 he).2
  have hn := (Dev.port_lt hr e).1
  by_contra off
  rw [not_or, Bool.not_eq_true, Bool.not_eq_true] at off
  have none_ : s.powered (4 + s.rdOfEnd r e) = false := by
    generalize s.rdOfEnd r e = n at hn
    obtain rfl | rfl : n = 0 ∨ n = 1 := by omega
    · exact off.1
    · exact off.2
  simp [Dev.endPortState, none_] at state

/-- Each of a run of sends leaves its block among what has been sent. -/
theorem Dev.sendAll_out {l : List End} {q : End → Sender} {ty : BitVec 4} {pl : End → Payload} {e : End} (h : e ∈ l) :
    ∃ n, Emission.block (q e) n ty (pl e) ∈ (forAll l s (fun s e => s.send (q e) ty (pl e))).out := by
  induction l generalizing s with
  | nil => simp at h
  | cons x l ih =>
    rw [Machine.forAll, List.foldl_cons]
    rcases List.mem_cons.1 h with rfl | h
    · obtain ⟨n, hn⟩ := s.send_out (q e) ty (pl e)
      have later : (s.send (q e) ty (pl e)).Launched (Machine.forAll l (s.send (q e) ty (pl e)) (fun s e => s.send (q e) ty (pl e))) :=
        Dev.Launched.forAll (.refl _) fun _ _ h1 => h1.send
      exact ⟨n, later.out.subset (by rw [hn]; exact List.mem_cons_self ..)⟩
    · exact ih h

/-- The QUERY of an end (R508). -/
def queryOf (r : Nat) (e : End) : Payload := Pl.mk [(0, 8, 1), (1, 8, b2n (decide (e = .b))), (3, 8, r)]

/-- An enumeration that starts: what each of its steps leaves. -/
theorem Dev.enumStart_run {r : Nat} (hr : s.hasRing r = true)
    (h : ¬ (s.live r = true ∨ s.linkedEnds r = [] ∨ s.ringState r = 6 ∨ s.role = 3)) :
    ∃ ch t, ch = (Config.singleRd s.variant && s.fbit (s.rf RDn_RING_CTL_CHAIN r)) ∧
      ((s.setRing r { Ring.down with chain := ch }).rfset RDn_RING_STAT_STATE r 1).DarkNamed t ∧
      t.Launched (s.enumStart r) ∧
      ∀ e ∈ t.linkedEnds r, ∃ n, Emission.block (.ringEnd r e) n 0x9 (queryOf r e) ∈ (s.enumStart r).out := by
  unfold Dev.enumStart
  rw [if_neg (by simpa [List.isEmpty_iff] using h)]
  extract_lets src ch u t
  have hu : u.hasRing r = true := by
    have h1 : s.SameDies (s.setRing r { Ring.down with chain := ch }) := .of_regs rfl rfl rfl
    rw [((h1.trans (Dev.rfset_sameDies ringField_state (Dev.hasRing_lt hr))).hasRing r)]
    exact hr
  refine ⟨ch, t, rfl, ?_, ?_, fun e he => Dev.sendAll_out he⟩
  · exact Dev.DarkNamed.ite ⟨rfl, rfl, rfl, rfl, fun _ _ => rfl, fun _ _ => rfl⟩ (Dev.nameDark_named hu)
  · exact (Dev.Launched.darkLaunch (.refl t)).forAll fun _ _ h1 => h1.send

theorem Dev.enumStart_spec {r : Nat} (hr : s.hasRing r = true)
    (h : ¬ (s.live r = true ∨ s.linkedEnds r = [] ∨ s.ringState r = 6 ∨ s.role = 3)) :
    (s.enumStart r).ringState r = 1 ∧ ((s.enumStart r).ring r).cells = [] ∧ ((s.enumStart r).ring r).reports = [] ∧
      ((s.enumStart r).ring r).up = false ∧
      ((s.enumStart r).ring r).chain = (Config.singleRd s.variant && s.fbit (s.rf RDn_RING_CTL_CHAIN r)) ∧
      ∀ e ∈ s.linkedEnds r, ∃ n, Emission.block (.ringEnd r e) n 0x9 (queryOf r e) ∈ (s.enumStart r).out := by
  obtain ⟨ch, t, hch, named, launched, sent⟩ := Dev.enumStart_run hr h
  have lt := Dev.hasRing_lt hr
  generalize s.enumStart r = d at launched sent
  generalize hv : s.setRing r { Ring.down with chain := ch } = v at named
  have vRegs : v.regs = s.regs := by rw [← hv]; rfl
  have vDies : s.SameDies v := by rw [← hv]; exact .of_regs rfl rfl rfl
  have vRing : v.ring r = { Ring.down with chain := ch } := by rw [← hv, Dev.ring_setRing_same]
  have uDies : v.SameDies (v.rfset RDn_RING_STAT_STATE r 1) := Dev.rfset_sameDies ringField_state lt
  have on : v.powered 4 = true ∨ v.powered 5 = true := by
    rw [vDies.powered (by decide), vDies.powered (by decide)]
    exact Dev.powered_of_linked hr (fun e => h (.inr (.inl e)))
  have dies : v.SameDies d := (uDies.trans named.sameDies).trans launched.sameDies
  have state : d.ringState r = 1 := by
    rw [Dev.ringState, dies.rf, Dev.fget_congr launched.regs]
    have same : t.fget (v.rf RDn_RING_STAT_STATE r) = (v.rfset RDn_RING_STAT_STATE r 1).fget (v.rf RDn_RING_STAT_STATE r) := by
      simp only [Dev.fget, named.regs _ (not_portReg_ring ringField_state lt (by decide) v)]
    rw [same, Dev.fget_rfset_same ringField_state (by decide) lt on]
    rfl
  obtain ⟨tl, ring⟩ := launched.rings r
  have tRing : t.ring r = { Ring.down with chain := ch } := by
    rw [← vRing]
    simp only [Dev.ring, named.rings, Dev.rfset_rings]
  rw [tRing] at ring
  have ends : t.linkedEnds r = s.linkedEnds r := by
    have low : ∀ n i, SH_TWIN_STAT ≠ (RDn_RING_STAT_STATE n i).reg := fun n i => ringField_state.ne_low (by decide) n i
    refine Dev.linkedEnds_congr (vDies.trans (uDies.trans named.sameDies)) ?_ hr fun n i hi => ?_
    · rw [named.regs _ (not_portReg_low (by decide)), Dev.rget_rfset v _ _ _ lt fun n i _ => low n i, Dev.rget_congr vRegs]
    · have other : (v.rfset RDn_RING_STAT_STATE r 1).rget (RDn_RP_STAT n i) = v.rget (RDn_RP_STAT n i) :=
        Dev.rget_rfset_ringStat v 1 hi lt fun _ _ => rfl
      rw [named.state]
      simp only [Dev.fget, RDn_RP_STAT_STATE, other, Dev.rget_congr vRegs]
  rw [ring, ← hch, ← ends]
  exact ⟨state, rfl, rfl, rfl, rfl, sent⟩

/-! ### What a ring end counts leaves alone -/

theorem Dev.endRx_noted {r : Nat} (hr : s.hasRing r = true) (e : End) (x : Rx) : s.Noted (s.endRx r e x) :=
  have h := Dev.port_lt hr e
  .ite ((Dev.Noted.refl s).portRx h.1 h.2) (.refl s)

/-- A ring's field stands in no register of the log. -/
theorem not_noteReg_ring {f : Nat → Nat → Field} {b lo w r : Nat} (hf : RingField f b lo w) (hr : r < 132) (hb : b < 0x20000) (s : Dev) :
    ¬ noteReg (s.rf f r).reg := by
  have hx : s.ringIx r < 132 := by
    unfold Dev.ringIx
    split <;> omega
  refine not_noteReg_rd ?_ (.inl ?_) <;> rw [Dev.rf, hf.reg, rdBase] <;> omega

theorem Dev.Noted.ringState {r : Nat} (h : o.Noted s) (hr : r < 132) : s.ringState r = o.ringState r := by
  rw [Dev.ringState, h.sameDies.rf]
  exact h.fget (not_noteReg_ring ringField_state hr (by decide) o)

theorem Dev.Noted.ownsEnd (h : o.Noted s) : s.ownsEnd = o.ownsEnd := Dev.ownsEnd_congr h.variant (h.regs _ not_noteReg_twin)

theorem Dev.Noted.endUp {r : Nat} (h : o.Noted s) (hr : o.hasRing r = true) (e : End) : s.endUp r e = o.endUp r e := by
  have hp := Dev.port_lt hr e
  have lock : s.fget (RDn_RP_STAT_LOCK (o.rdOfEnd r e) (o.portOfEnd r e)) = o.fget (RDn_RP_STAT_LOCK (o.rdOfEnd r e) (o.portOfEnd r e)) :=
    h.fget (not_noteReg_port _ _)
  simp only [Dev.endUp, Dev.fbit, h.ownsEnd, Dev.rdOfEnd_congr h.variant h.sameDies.twin, Dev.portOfEnd_congr h.variant h.sameDies.twin,
    h.sameDies.powered (d := 4 + o.rdOfEnd r e) (by omega), lock]

theorem Dev.Noted.endHeard {r : Nat} (h : o.Noted s) (hr : o.hasRing r = true) (e : End) : s.endHeard r e = o.endHeard r e := by
  have links : s.fget SH_TWIN_STAT_LINKS = o.fget SH_TWIN_STAT_LINKS := h.fget not_noteReg_twin
  simp only [Dev.endHeard, Dev.linksUp, h.ownsEnd, h.endUp hr, links]

theorem Dev.Noted.endOfPort (h : o.Noted s) (d i : Nat) : s.endOfPort d i = o.endOfPort d i := by
  rw [Dev.endOfPort_congr h.variant (h.regs _ not_noteReg_twin)]

theorem Dev.port_lt_of_has {rd : RDie} {i : Nat} (h : s.hasPort (.pkg rd i) = true) : i < 66 := by
  rw [Dev.hasPort, Bool.and_eq_true, decide_eq_true_eq] at h
  exact h.2

theorem Dev.portRx_noted {rd : RDie} {i : Nat} (h : s.hasPort (.pkg rd i) = true) (x : Rx) : s.Noted (s.portRx rd.idx i x) :=
  (Dev.Noted.refl s).portRx (RDie.idx_lt_two rd) (Dev.port_lt_of_has h)

theorem Dev.Noted.placeBySerial (h : o.Noted s) (r ser : Nat) : s.placeBySerial r ser = o.placeBySerial r ser := by
  simp only [Dev.placeBySerial, h.cell]

end

/-! ### Blocks at a ring end -/

section
variable {s : State} {r : Nat} {e : End} {rx : Rx} {f : Dev → Dev} {P : Dev → Prop}

/-- A block that no end hears. -/
theorem State.atEnd_unheard (hr : s.dev.hasRing r = true) (h : s.dev.endHeard r e = false) (p : P s.dev) :
    ∃ d, s.atEnd r e rx f = .next { s with dev := d } ∧ P d := by
  refine ⟨s.dev, ?_, p⟩
  simp [State.atEnd, State.updIf, hr, h]

/-- A block with a CRC error only counts. -/
theorem State.atEnd_bad (hr : s.dev.hasRing r = true) (h : s.dev.endHeard r e = true) (bad : rx.crcOk = false)
    (p : P (s.dev.endRx r e rx)) : ∃ d, s.atEnd r e rx f = .next { s with dev := d } ∧ P d := by
  refine ⟨_, ?_, p⟩
  simp [State.atEnd, State.updIf, hr, h, bad]

/-- A good block counts and is used. -/
theorem State.atEnd_good (hr : s.dev.hasRing r = true) (h : s.dev.endHeard r e = true) (good : rx.crcOk = true)
    (p : P (f (s.dev.endRx r e rx))) : ∃ d, s.atEnd r e rx f = .next { s with dev := d } ∧ P d := by
  refine ⟨_, ?_, p⟩
  simp [State.atEnd, State.updIf, hr, h, good]

end

theorem exec_capsReport (s : State) (r : Nat) (e : End) (b : Rcvd) :
    exec (.capsReport r e b) s = s.atEnd r e b.rx (fun d => d.capsReport r e b.pl) := rfl

theorem exec_capsNotice (s : State) (r : Nat) (e : End) (b : Rcvd) :
    exec (.capsNotice r e b) s = s.atEnd r e b.rx (fun d => d.capsNotice r e b.pl) := rfl

section
variable {s : Dev}

/-! ### REPORT (R508) -/

theorem Dev.capsReport_ignored {r : Nat} {e : End} {pl : Payload} (h : s.ringState r ≠ 1) : s.capsReport r e pl = s := if_pos (.inl h)

/-- A REPORT of a powered cell of a ring in ENUM. -/
theorem Dev.capsReport_kept {r p : Nat} {e : End} {pl : Payload} (st : s.ringState r = 1) (heard : s.endHeard r e = true)
    (kind : bitsOf (Pl.get pl 0 8) 0 4 = 2) (ring : Pl.get pl 3 8 = r) (place : s.placeBySerial r (Pl.get pl 4 48) = some p) :
    (s.capsReport r e pl).regs = s.regs ∧ ∃ n ∈ ((s.capsReport r e pl).ring r).reports, n.place = p ∧
      n.serial.toNat = Pl.get pl 4 48 ∧ (if e = .a then n.hopA else n.hopB) = some (Pl.get pl 2 8) := by
  have take : ¬ (s.ringState r ≠ 1 ∨ (!s.endHeard r e) = true ∨ bitsOf (Pl.get pl 0 8) 0 4 ≠ 2 ∨ Pl.get pl 3 8 ≠ r) := by
    simp [st, heard, kind, ring]
  unfold Dev.capsReport
  rw [if_neg take, place]
  refine ⟨rfl, ?_⟩
  rw [Dev.ring_setRing_same]
  refine ⟨_, List.mem_cons_self .., rfl, ?_, ?_⟩
  · have lt : Pl.get pl 4 48 < 2 ^ 48 := bitsOf_lt _ _ 48
    rw [BitVec.toNat_ofNat, Nat.mod_eq_of_lt lt]
  · cases e <;> rfl

/-! ### NOTICE (R519, R521) -/

/-- A cut that is placed is one of the ring's. -/
theorem Dev.mem_cuts_addCut {r h : Nat} (toB : Bool) (hr : r < 132) (up : (s.ring r).up = true) :
    (h, toB) ∈ ((s.addCut r h toB).ring r).cuts := by
  unfold Dev.addCut
  extract_lets +onlyGivenNames x
  by_cases old : (h, toB) ∈ x.cuts
  · rw [if_pos (by simp [old])]
    exact old
  rw [if_neg (by simp [old, x, up])]
  extract_lets +onlyGivenNames t1 t2
  have h1 : (h, toB) ∈ (t1.ring r).cuts := by
    rw [Dev.ring_setRing_same]
    exact List.mem_append_right _ (List.mem_singleton_self _)
  have h2 : (h, toB) ∈ (t2.ring r).cuts := by
    unfold t2
    refine Dev.of_ite (P := fun w => (h, toB) ∈ (w.ring r).cuts) h1 ?_
    have told : ∀ u b, t1.event .cont .hop (65 * r + h) 0 0 = (u, b) → (h, toB) ∈ (u.ring r).cuts := by
      intro u b e
      have hu : u = (t1.event .cont .hop (65 * r + h) 0 0).1 := by rw [e]
      rw [hu, (Dev.Noted.refl t1).event.ring]
      exact h1
    split
    next u b e =>
    refine Dev.of_ite (P := fun w => (h, toB) ∈ (w.ring r).cuts) ?_ (told u b e)
    rw [Dev.modRing, Dev.ring_setRing_same]
    exact told u b e
  clear_value t2
  obtain ⟨u, hu, shown⟩ := t2.showBreaks_spec hr
  rw [(Dev.Keeps.refl _).turnEnds.ring, shown.ring]
  have same : u.ring r = t2.ring r := by rw [hu.ring]
  refine Dev.of_ite (P := fun w => (h, toB) ∈ (w.ring r).cuts) (by rw [same]; exact h2) ?_
  have same' : (u.rfset RDn_RING_STAT_STATE r (t2.breakState r)).ring r = t2.ring r := by
    rw [← same]
    simp only [Dev.ring, Dev.rfset_rings]
  rw [same']
  exact h2

/-- A NOTICE of an enumerated cell. -/
theorem Dev.capsNotice_of_cell {r : Nat} {e : End} {pl : Payload} {c : Nat × Enum} (heard : s.endHeard r e = true)
    (up : (s.ring r).up = true) (kind : bitsOf (Pl.get pl 0 8) 0 4 = 4)
    (cell : (s.ring r).cells.find? (fun c => decide (c.2.serial.toNat = Pl.get pl 4 48)) = some c) :
    (Pl.get pl 16 8 = 1 → s.capsNotice r e pl =
      s.addCut r ((s.ring r).hopAt c.2.place (bitOf (Pl.get pl 17 8) 0)) (!bitOf (Pl.get pl 17 8) 0)) ∧
    (Pl.get pl 16 8 = 3 → (s.ring r).hopAt c.2.place (bitOf (Pl.get pl 17 8) 0) ∈ (s.ring r).breaks → s.capsNotice r e pl =
      s.setRing r { s.ring r with ready := (Store.insert (s.ring r).ready ((s.ring r).hopAt c.2.place (bitOf (Pl.get pl 17 8) 0))
        (Pl.get pl 20 32 + 1)) }) := by
  have take : (!s.endHeard r e || !(s.ring r).up || decide (bitsOf (Pl.get pl 0 8) 0 4 ≠ 4)) = false := by simp [heard, up, kind]
  simp only [Dev.capsNotice, take, cell, Bool.false_eq_true, if_false]
  exact ⟨fun h => by simp only [h], fun h mem => by simp only [h, if_pos mem]⟩

/-! ### A ring comes up (R81, R121, R122, R216, R509-R511, R519) -/

section
variable {o : Dev}

theorem Dev.Keeps.slcvParams {id : Nat} (h : o.Keeps s) : o.Keeps (s.slcvParams id) := by
  refine .ite ?_ h
  unfold Dev.slcvFrom
  split
  · exact h.ownWrite.ownWrite
  · exact h

theorem Dev.Keeps.enumFirst {id : Nat} {e : Enum} (h : o.Keeps s) (hid : id < 16384) : o.Keeps (s.enumFirst id e) := by
  unfold Dev.enumFirst
  extract_lets +onlyGivenNames c t1 t2
  have h2 : o.Keeps t2 := h.setCend.fset (sideReg_foldMap hid)
  split
  · exact h2.ownWrite
  · exact h2

theorem Dev.Keeps.enumRest {id : Nat} {e : Enum} (h : o.Keeps s) (hid : id < 16384) : o.Keeps (s.enumRest id e) := by
  unfold Dev.enumRest
  extract_lets +onlyGivenNames t1
  have h1 : o.Keeps t1 := (h.refold hid).slcvParams
  split
  · exact h1
  · extract_lets +onlyGivenNames t2 t3 t4 t5
    have h2 : o.Keeps t2 := .ite (h1.fset (sideReg_foldMap hid)) h1
    have h3 : o.Keeps t3 := .ite h2.modCell h2
    have h4 : o.Keeps t4 := h3.penWrite
    have h5 : o.Keeps t5 := h4.cellStreams hid
    exact .ite h4 (.ite h5.ownWrite.ownWrite h5)

theorem Dev.Keeps.admitRing {r : Nat} (h : o.Keeps s) (hr : r < 256) : o.Keeps (s.admitRing r) := by
  unfold Dev.admitRing
  extract_lets +onlyGivenNames t1
  have h1 : o.Keeps t1 := h.rfset hr sideReg_rpath
  split
  · exact h1.setMins
  · exact h1
  · exact h1.rfset hr sideReg_rpath

/-- The state of a ring stands in a kept register. -/
theorem Dev.Keeps.ringState {r : Nat} (h : o.Keeps s) (hr : r < 132) : s.ringState r = o.ringState r := by
  rw [Dev.ringState, h.rf]
  refine h.fget ?_
  have hn := o.ringRd_lt hr
  have hx : o.ringIx r < 132 := by
    unfold Dev.ringIx
    split <;> omega
  rw [Dev.rf, ringField_state.reg, keptReg, rdBase]
  omega
end

/-- The state of a ring once its breaks are shown. -/
theorem Dev.showBreaks_ringState {r : Nat} (hr : s.hasRing r = true) (on : s.powered 4 = true ∨ s.powered 5 = true) :
    (s.showBreaks r).ringState r = if !(s.ring r).up || decide (s.ringState r = 5) then s.ringState r else s.breakState r := by
  have lt := Dev.hasRing_lt hr
  obtain ⟨t, ht, shown⟩ := s.showBreaks_spec lt
  rw [shown.ringState lt]
  split
  · exact ht.ringState lt
  · have on' : t.powered 4 = true ∨ t.powered 5 = true := by rwa [ht.powered (by decide), ht.powered (by decide)]
    rw [Dev.ringState, (Dev.rfset_sameDies ringField_state lt).rf, Dev.fget_rfset_same ringField_state (by decide) lt on']
    refine Nat.mod_eq_of_lt ?_
    unfold Dev.breakState
    split <;> decide

theorem Dev.showBreaks_parts {r : Nat} (hr : r < 132) : s.SameDies (s.showBreaks r) ∧ (s.showBreaks r).rings = s.rings ∧
    (s.showBreaks r).nv.orders = s.nv.orders := by
  obtain ⟨t, ht, shown⟩ := s.showBreaks_spec hr
  have parts : ∀ u : Dev, s.SameDies u → u.rings = s.rings → u.nv.orders = s.nv.orders → u.Noted (s.showBreaks r) →
      s.SameDies (s.showBreaks r) ∧ (s.showBreaks r).rings = s.rings ∧ (s.showBreaks r).nv.orders = s.nv.orders :=
    fun u h1 h2 h3 n => ⟨h1.trans n.sameDies, n.rings.trans h2, (congrArg (fun w : Dev => w.nv.orders) n.eq).trans h3⟩
  split at shown
  · exact parts t ht.sameDies ht.rings ht.orders shown
  · refine parts _ (ht.sameDies.trans (Dev.rfset_sameDies ringField_state hr)) ?_ ?_ shown
    · rw [Dev.rfset_rings, ht.rings]
    · rw [Dev.rfset_nv, ht.orders]

/-- The gap between two chains counts as a cut of both streams. -/
def Ring.darkCuts (x : Ring) : List (Nat × Bool) :=
  match x.dark with
  | some h => [(if x.places.head? = some h then 0 else h, true), (if x.places.head? = some h then 0 else h, false)]
  | none => []

/-- A ring as it comes up. -/
def Ring.raised (x : Ring) : Ring := { x with up := true, cuts := x.darkCuts, deadHops := [], ready := [] }

theorem Ring.raised_breaks (x : Ring) : x.raised.breaks.isEmpty = x.whole := by
  unfold Ring.raised Ring.breaks Ring.darkCuts Ring.dark
  cases x.whole <;> simp [List.eraseDups_cons]

/-- The block with a ring raised: its state, its count of version-1 cells and its record stand, its breaks are not shown yet. -/
def Dev.raiseRing (s : Dev) (r : Nat) : Dev :=
  let x := s.ring r
  let s := s.safe (fun y => { y with testBad := y.testBad.filter (fun e => decide (e.1 ≠ r)) })
  let s := s.setRing r x.raised
  let s := (s.rfset RDn_RING_STAT_STATE r (if s.chain r then 5 else if x.whole then 3 else 4)).rfset RDn_RING_STAT_NV1 r x.nv1
  { s with nv := { s.nv with
    rver := Store.set (fun _ => 0) s.nv.rver r (s.fget (s.rf RDn_RING_STAT_RVER r))
    orders := if x.whole then Store.insert s.nv.orders r ((reportsA x.reports).map (fun (e : Nat × Enum) => e.2.serial)) else s.nv.orders } }

/-- The cells of a ring that is measured have their IDs. -/
theorem Dev.measured_id {r : Nat} (hm : s.measured r = true) {e : Nat × Enum} (he : e ∈ (s.ring r).cells) : 64 * r + e.1 < 16384 := by
  simp only [Dev.measured, Bool.and_eq_true, List.all_eq_true, decide_eq_true_eq] at hm
  obtain ⟨-, all⟩ := hm
  obtain ⟨⟨id, -⟩, -⟩ := all e he
  rw [← id]
  exact bitsOf_lt _ _ 14

theorem Dev.ringUp_run {r : Nat} (hr : r < 132) (st : s.ringState r = 2) (hm : s.measured r = true) :
    (((s.raiseRing r).showBreaks r).rfset RDn_RPATH_GROW r 0).Keeps (s.ringUp r) := by
  unfold Dev.ringUp
  rw [if_neg (by simp [st, hm])]
  extract_lets x cuts t1 t2 t3 old t4 t5 t6 t7 t8 t9
  have h5 : (((s.raiseRing r).showBreaks r).rfset RDn_RPATH_GROW r 0).Keeps t5 := .refl _
  have h6 := h5.forAll (f := fun s e => s.enumFirst (64 * r + e.1) e.2) fun t e he h => h.enumFirst (Dev.measured_id hm he)
  have h8 := ((h6.admitRing (r := r) (by omega)).showPath (r := r) (by omega)).newSlots (r := r)
  have h9 := h8.forAll (f := fun s e => s.enumRest (64 * r + e.1) e.2) fun t e he h => h.enumRest (Dev.measured_id hm he)
  exact h9.twinShow.recheckStreams

/-- The parts of a raised ring's block that its coming up shows. -/
theorem Dev.raiseRing_spec {r : Nat} (hr : s.hasRing r = true) (on : s.powered 4 = true ∨ s.powered 5 = true) :
    s.SameDies (s.raiseRing r) ∧ (s.raiseRing r).ring r = (s.ring r).raised ∧
      (s.raiseRing r).ringState r = (if (s.ring r).chain then 5 else if (s.ring r).whole then 3 else 4) ∧
      (s.raiseRing r).sh.safe.testBad.any (fun e => decide (e.1 = r)) = false ∧
      (s.raiseRing r).nv.orders = if (s.ring r).whole then
        Store.insert s.nv.orders r ((reportsA (s.ring r).reports).map (fun e => e.2.serial)) else s.nv.orders := by
  have lt := Dev.hasRing_lt hr
  unfold Dev.raiseRing
  extract_lets x t1 t2 t3
  have h2 : s.SameDies t2 := ⟨rfl, rfl, rfl, fun _ _ => rfl, rfl⟩
  have r2 : t2.ring r = (s.ring r).raised := Dev.ring_setRing_same _ _ _
  have n2 : t2.nv = s.nv := rfl
  have b2 : t2.sh.safe.testBad = s.sh.safe.testBad.filter (fun e => decide (e.1 ≠ r)) := rfl
  have chain : t2.chain r = (s.ring r).chain := by
    rw [Dev.chain, r2]
    rfl
  clear_value t2
  have on2 : t2.powered 4 = true ∨ t2.powered 5 = true := by rwa [h2.powered (by decide), h2.powered (by decide)]
  have h3 : t2.SameDies t3 := (Dev.rfset_sameDies ringField_state lt).trans (Dev.rfset_sameDies ringField_nv1 lt)
  have r3 : t3.ring r = t2.ring r := by simp only [t3, Dev.ring, Dev.rfset_rings]
  have sh3 : t3.sh = t2.sh := by simp only [t3, Dev.rfset_sh]
  have n3 : t3.nv = t2.nv := by simp only [t3, Dev.rfset_nv]
  have state : t3.ringState r = (if (s.ring r).chain then 5 else if (s.ring r).whole then 3 else 4) := by
    have hv := Dev.rfset_sameDies (s := t2) (v := if t2.chain r then 5 else if x.whole then 3 else 4) ringField_state lt
    have hr3 := (hv.hasRing r).trans ((h2.hasRing r).trans hr)
    rw [Dev.ringState, h3.rf, ← hv.rf]
    refine (Dev.fget_rfset_ne ringField_nv1 ringField_state (by decide) hr3 hr3 (.inr (.inl ⟨rfl, by decide⟩))).trans ?_
    rw [hv.rf, Dev.fget_rfset_same ringField_state (by decide) lt on2, chain]
    refine Nat.mod_eq_of_lt ?_
    split_ifs <;> decide
  have all := h2.trans h3
  have orders : t3.nv.orders = s.nv.orders := by rw [n3, n2]
  clear_value t3
  refine ⟨{ all with }, r3.trans r2, state, ?_, ?_⟩
  · simp [sh3, b2]
  · dsimp only
    rw [orders]

theorem Dev.ringUp_spec {r : Nat} (hr : s.hasRing r = true) (on : s.powered 4 = true ∨ s.powered 5 = true) (st : s.ringState r = 2)
    (hm : s.measured r = true) :
    ((s.ringUp r).ring r).up = true ∧ ((s.ringUp r).ring r).cells = (s.ring r).cells ∧
      (s.ringUp r).ringState r = (if (s.ring r).chain then 5 else if (s.ring r).whole then 3 else 4) ∧
      ((s.ring r).whole = true → Store.get (fun _ => []) (s.ringUp r).nv.orders r =
        (reportsA (s.ring r).reports).map (fun q => q.2.serial)) ∧
      ((s.ring r).whole = false → (s.ringUp r).nv.orders = s.nv.orders) := by
  have lt := Dev.hasRing_lt hr
  have kept := Dev.ringUp_run lt st hm
  obtain ⟨dies, ring, state, bad, orders⟩ := Dev.raiseRing_spec hr on
  generalize s.ringUp r = d at kept
  generalize s.raiseRing r = u at kept dies ring state bad orders
  have hru : u.hasRing r = true := (dies.hasRing r).trans hr
  have onu : u.powered 4 = true ∨ u.powered 5 = true := by rwa [dies.powered (by decide), dies.powered (by decide)]
  obtain ⟨shownDies, shownRings, shownOrders⟩ := Dev.showBreaks_parts (s := u) lt
  have dRing : d.ring r = (s.ring r).raised := by
    rw [← ring, kept.ring]
    simp only [Dev.ring, Dev.rfset_rings, shownRings]
  have dOrders : d.nv.orders = u.nv.orders := by rw [kept.orders, Dev.rfset_nv, shownOrders]
  have hrs : (u.showBreaks r).hasRing r = true := (shownDies.hasRing r).trans hru
  have dState : d.ringState r = (u.showBreaks r).ringState r := by
    rw [kept.ringState lt, Dev.ringState, (Dev.rfset_sameDies ringField_grow lt).rf]
    exact Dev.fget_rfset_ne ringField_grow ringField_state (by decide) hrs hrs (.inr (.inr (.inl (by decide))))
  rw [dRing, dState, dOrders, orders, Dev.showBreaks_ringState hru onu, state]
  refine ⟨rfl, rfl, ?_, fun w => ?_, fun w => ?_⟩
  · cases hc : (s.ring r).chain with
    | true => simp
    | false =>
      have open_ : decide (u.ringState r = 5) = false := by
        rw [state, hc]
        cases (s.ring r).whole <;> rfl
      have shown : u.shownBreaks r = (s.ring r).raised.breaks := by
        simp only [Dev.shownBreaks, open_, ring, Bool.false_and, Bool.not_false, List.filter_true]
      rw [Dev.breakState, shown, Ring.raised_breaks, bad, ring]
      cases (s.ring r).whole <;> rfl
  · rw [if_pos w, Store.get_insert_same]
  · rw [if_neg (by simp [w])]

/-! ### Repair (R521) -/

theorem Dev.ringRepair_none {r h : Nat} (ready : (s.ring r).ready.find? (fun e => decide (e.1 = h)) = none) : s.ringRepair r h = s := by
  simp only [Dev.ringRepair, ready]

theorem Dev.ringRepair_barred {r h : Nat} {q : Nat × Nat} (ready : (s.ring r).ready.find? (fun e => decide (e.1 = h)) = some q)
    (bar : (s.ring r).up = false ∨ h ∈ (s.ring r).deadHops ∨ s.ringState r = 5 ∨ (s.ring r).joining ≠ none) : s.ringRepair r h = s := by
  simp only [Dev.ringRepair, ready]
  refine if_pos ?_
  rcases bar with bar | bar | bar | bar
  · simp [bar]
  · simp [bar]
  · simp [bar]
  · simp [Option.isSome_iff_ne_none.2 bar]

section
variable {r h : Nat} {q : Nat × Nat} (ready : (s.ring r).ready.find? (fun e => decide (e.1 = h)) = some q)
  (up : (s.ring r).up = true) (sound : h ∉ (s.ring r).deadHops) (st : s.ringState r ≠ 5) (idle : (s.ring r).joining = none)
include ready up sound st idle

/-- The joined ring fits: the hop joins at the t0 for which the slot instants are written. -/
theorem Dev.ringRepair_joins (fits : s.admitted r = false ∨ ((s.setRing r (s.joined r h (q.2 - 1))).admits r).1 = true) :
    ((s.ringRepair r h).ring r).joining = some (h, q.2 - 1, s.slotsFrom) ∧ ((s.ringRepair r h).ring r).cuts = (s.ring r).cuts ∧
      ((s.ringRepair r h).ring r).cells = (s.ring r).cells := by
  have free : (!(s.ring r).up || decide (h ∈ (s.ring r).deadHops) || decide (s.ringState r = 5) || (s.ring r).joining.isSome) = false := by
    simp [up, sound, st, idle]
  have ok : (if s.admitted r then (s.setRing r (s.joined r h (q.2 - 1))).admits r else (true, none)).1 = true := by
    rcases fits with fits | fits
    · simp [fits]
    · split
      · exact fits
      · rfl
  simp only [Dev.ringRepair, ready, free, ok, Bool.not_true, Bool.false_eq_true, if_false]
  rw [Dev.modRing, Dev.ring_setRing_same]
  exact ⟨rfl, rfl, rfl⟩

/-- It does not fit: the hop stays idle, and GROW is set. -/
theorem Dev.ringRepair_grows (hr : r < 132) (on : s.powered 4 = true ∨ s.powered 5 = true) (adm : s.admitted r = true)
    (big : ((s.setRing r (s.joined r h (q.2 - 1))).admits r).1 = false) :
    (s.ringRepair r h).ring r = s.ring r ∧ (s.ringRepair r h).fbit ((s.ringRepair r h).rf RDn_RPATH_GROW r) = true := by
  have free : (!(s.ring r).up || decide (h ∈ (s.ring r).deadHops) || decide (s.ringState r = 5) || (s.ring r).joining.isSome) = false := by
    simp [up, sound, st, idle]
  simp only [Dev.ringRepair, ready, free, adm, big, if_true, Bool.not_false, Bool.false_eq_true, if_false]
  have noted := (Dev.Noted.refl (s.rfset RDn_RPATH_GROW r 1)).report (cls := .cont) (src := .ring) (inst := r) (code := 1) (det := 0)
  generalize (s.rfset RDn_RPATH_GROW r 1).report .cont .ring r 1 0 = d at noted
  have dies := (Dev.rfset_sameDies (s := s) (v := 1) ringField_grow hr).trans noted.sameDies
  constructor
  · rw [noted.ring]
    simp only [Dev.ring, Dev.rfset_rings]
  · rw [dies.rf, noted.fbit (not_noteReg_ring ringField_grow hr (by decide) s), Dev.fbit,
      Dev.fget_rfset_same ringField_grow (by decide) hr on]
    rfl
end

/-! ### A QUERY at an end port (R507) -/

/-- The finding of crossed ends at a port. -/
def Dev.nameCrossed (s : Dev) (d j o : Nat) : Dev := (s.fset (RDn_RP_STAT_FIND d j) 5).fset (RDn_RP_STAT_OTHER d j) o

theorem Dev.queryAtEnd_known {rd i : Nat} {pl : Payload} {r : Nat} {e : End} (ends : s.endOfPort rd i = (r, e))
    (h : (Pl.get pl 3 8 = r ∧ bitOf (Pl.get pl 1 8) 0 = decide (e = .a)) ∨ s.live r = true) : s.queryAtEnd rd i pl = s := by
  simp only [Dev.queryAtEnd, ends]
  exact if_pos (.inr h)

/-- The port shows crossed ends, and the ring is DOWN without a cell. -/
structure Dev.Crossed (s : Dev) (n i r : Nat) : Prop where
  find : s.fget (RDn_RP_STAT_FIND n i) = 5
  state : s.ringState r = 0
  cells : (s.ring r).cells = []

theorem Dev.fset_port_sameDies (s : Dev) {n i : Nat} {f : Field} (v : Nat) (hf : f.reg = RDn_RP_STAT n i) : s.SameDies (s.fset f v) where
  variant := Dev.fset_variant _ _ _
  inReset := by rw [Dev.fset_sh]
  masterB := by rw [Dev.fset_sh]
  dies d hd := Dev.rget_fset_reg _ _ (by rw [hf, RDn_RP_STAT, rdBase, GLB_DIE]; omega)
  twin := by
    have hne : SH_TWIN_STAT ≠ f.reg := by
      rw [hf, RDn_RP_STAT, rdBase, SH_TWIN_STAT]
      omega
    exact Dev.fget_fset_reg _ _ hne

theorem Dev.nameCrossed_sameDies (s : Dev) (d j o : Nat) : s.SameDies (s.nameCrossed d j o) :=
  (Dev.fset_port_sameDies s _ rfl).trans (Dev.fset_port_sameDies _ _ rfl)

theorem Dev.nameCrossed_rings (s : Dev) (d j o : Nat) : (s.nameCrossed d j o).rings = s.rings := by
  rw [Dev.nameCrossed, Dev.fset_rings, Dev.fset_rings]

theorem Dev.nameCrossed_find_same (s : Dev) (d j o : Nat) : (s.nameCrossed d j o).fget (RDn_RP_STAT_FIND d j) = 5 := by
  rw [Dev.nameCrossed, Dev.fget_fset_ne _ _ (by simp [RDn_RP_STAT_OTHER])
    (.inr (.inr (by simp [RDn_RP_STAT_OTHER, RDn_RP_STAT_FIND]))), Dev.fget_fset_same _ _ _ (by simp [RDn_RP_STAT_FIND])]
  rfl

/-- A finding at another port leaves that of this one; at this one it is the same. -/
theorem Dev.nameCrossed_find {n i : Nat} (d j o : Nat) (h : s.fget (RDn_RP_STAT_FIND n i) = 5) :
    (s.nameCrossed d j o).fget (RDn_RP_STAT_FIND n i) = 5 := by
  by_cases e : RDn_RP_STAT n i = RDn_RP_STAT d j
  · have same : RDn_RP_STAT_FIND n i = RDn_RP_STAT_FIND d j := by simp only [RDn_RP_STAT_FIND, e]
    rw [same]
    exact s.nameCrossed_find_same d j o
  · rw [Dev.nameCrossed, Dev.fget_fset_reg _ _ e, Dev.fget_fset_reg _ _ e, h]

theorem Dev.nameCrossed_ringState (s : Dev) (d j o r : Nat) : (s.nameCrossed d j o).ringState r = s.ringState r := by
  rw [Dev.ringState, (s.nameCrossed_sameDies d j o).rf, Dev.nameCrossed,
    Dev.fget_fset_ne _ _ (by simp [RDn_RP_STAT_OTHER]) (.inr (.inr (by simp [RDn_RP_STAT_OTHER, Dev.rf, RDn_RING_STAT_STATE]))),
    Dev.fget_fset_ne _ _ (by simp [RDn_RP_STAT_FIND]) (.inr (.inr (by simp [RDn_RP_STAT_FIND, Dev.rf, RDn_RING_STAT_STATE])))]
  rfl

theorem Dev.Crossed.name {n i r : Nat} (h : s.Crossed n i r) (d j o : Nat) : (s.nameCrossed d j o).Crossed n i r where
  find := Dev.nameCrossed_find d j o h.find
  state := (s.nameCrossed_ringState d j o r).trans h.state
  cells := by
    have same : (s.nameCrossed d j o).ring r = s.ring r := by simp only [Dev.ring, Dev.nameCrossed_rings]
    rw [same, h.cells]

/-- Once the breaks of a ring that is not up are shown. -/
theorem Dev.showBreaks_down {q n i : Nat} (hq : q < 132) (hn : n < 2) (hi : i < 66) (down : (s.ring q).up = false) :
    ∃ t, s.Keeps t ∧ t.Noted (s.showBreaks q) ∧ (s.showBreaks q).rget (RDn_RP_STAT n i) = s.rget (RDn_RP_STAT n i) := by
  obtain ⟨t, ht, shown⟩ := s.showBreaks_spec hq
  rw [if_pos (by simp [down])] at shown
  have kept := keptReg_port hn hi
  exact ⟨t, ht, shown, (shown.regs _ (not_noteReg_kept kept)).trans (ht.regs _ kept)⟩

theorem Dev.ringDown_spec {q : Nat} (hq : s.hasRing q = true) : s.SameDies (s.ringDown q) ∧ (s.ringDown q).ring q = Ring.down ∧
    (∀ r, r ≠ q → (s.ringDown q).ring r = s.ring r) ∧
    (∀ n i, n < 2 → i < 66 → (s.ringDown q).fget (RDn_RP_STAT_FIND n i) = s.fget (RDn_RP_STAT_FIND n i)) ∧
    ((s.powered 4 = true ∨ s.powered 5 = true) → (s.ringDown q).ringState q = 0) ∧
    (∀ r, r ≠ q → s.hasRing r = true → (s.ringDown q).ringState r = s.ringState r) := by
  have lt := Dev.hasRing_lt hq
  have shape : s.ringDown q = (((s.setRing q Ring.down).rfset RDn_RING_STAT_STATE q 0).showBreaks q).rfset RDn_RPATH_SPLIT q 0 := rfl
  rw [shape]
  generalize hu : s.setRing q Ring.down = u
  have uDies : s.SameDies u := by rw [← hu]; exact .of_regs rfl rfl rfl
  have uRing : u.ring q = Ring.down := by rw [← hu, Dev.ring_setRing_same]
  have uRings : ∀ r, r ≠ q → u.ring r = s.ring r := fun r e => by rw [← hu, Dev.ring_setRing_ne _ _ e]
  have uRegs : u.regs = s.regs := by rw [← hu]; rfl
  have tDies : u.SameDies (u.rfset RDn_RING_STAT_STATE q 0) := Dev.rfset_sameDies ringField_state lt
  have tRing : (u.rfset RDn_RING_STAT_STATE q 0).ring = u.ring := by
    funext r
    simp only [Dev.ring, Dev.rfset_rings]
  have tFind : ∀ n i, i < 66 → (u.rfset RDn_RING_STAT_STATE q 0).rget (RDn_RP_STAT n i) = s.rget (RDn_RP_STAT n i) := fun n i hi => by
    rw [Dev.rget_rfset_ringStat u 0 hi lt fun _ _ => rfl, Dev.rget_congr uRegs]
  have tState : (s.powered 4 = true ∨ s.powered 5 = true) → (u.rfset RDn_RING_STAT_STATE q 0).ringState q = 0 := fun on => by
    have on' : u.powered 4 = true ∨ u.powered 5 = true := by rwa [uDies.powered (by decide), uDies.powered (by decide)]
    rw [Dev.ringState, tDies.rf, Dev.fget_rfset_same ringField_state (by decide) lt on']
    rfl
  have tStates : ∀ r, r ≠ q → s.hasRing r = true → (u.rfset RDn_RING_STAT_STATE q 0).ringState r = s.ringState r := fun r e hr => by
    rw [Dev.ringState, tDies.rf, Dev.fget_rfset_ne ringField_state ringField_state (by decide) ((uDies.hasRing q).trans hq)
      ((uDies.hasRing r).trans hr) (.inl ⟨rfl, e⟩), uDies.rf, Dev.fget_congr uRegs]
    rfl
  generalize u.rfset RDn_RING_STAT_STATE q 0 = t at tDies tRing tFind tState tStates
  have vRget : ∀ n i, n < 2 → i < 66 → (t.showBreaks q).rget (RDn_RP_STAT n i) = t.rget (RDn_RP_STAT n i) := fun n i hn hi => by
    obtain ⟨w, -, -, same⟩ := Dev.showBreaks_down (s := t) lt hn hi (by rw [tRing, uRing]; rfl)
    exact same
  obtain ⟨w, kept, noted, -⟩ := Dev.showBreaks_down (s := t) lt (n := 0) (i := 0) (by decide) (by decide) (by rw [tRing, uRing]; rfl)
  have vDies : t.SameDies (t.showBreaks q) := kept.sameDies.trans noted.sameDies
  have vRing : (t.showBreaks q).ring = t.ring := by rw [noted.ring, kept.ring]
  have vState : ∀ r, r < 132 → (t.showBreaks q).ringState r = t.ringState r := fun r hr => (noted.ringState hr).trans (kept.ringState hr)
  generalize t.showBreaks q = v at vRget vDies vRing vState
  have hv : s.SameDies v := (uDies.trans tDies).trans vDies
  have wDies : v.SameDies (v.rfset RDn_RPATH_SPLIT q 0) := Dev.rfset_sameDies ringField_split lt
  have wRing : (v.rfset RDn_RPATH_SPLIT q 0).ring = v.ring := by
    funext r
    simp only [Dev.ring, Dev.rfset_rings]
  have wState : ∀ r, s.hasRing r = true → (v.rfset RDn_RPATH_SPLIT q 0).ringState r = v.ringState r := fun r hr => by
    rw [Dev.ringState, wDies.rf]
    exact Dev.fget_rfset_ne ringField_split ringField_state (by decide) ((hv.hasRing q).trans hq) ((hv.hasRing r).trans hr)
      (.inr (.inr (.inl (by decide))))
  have wFind : ∀ n i, n < 2 → i < 66 → (v.rfset RDn_RPATH_SPLIT q 0).rget (RDn_RP_STAT n i) = s.rget (RDn_RP_STAT n i) := fun n i hn hi => by
    have hne : ∀ m j, j < 132 → RDn_RP_STAT n i ≠ (RDn_RPATH_SPLIT m j).reg := fun m j hj => by
      rw [ringField_split.reg, RDn_RP_STAT, rdBase, rdBase]
      omega
    rw [Dev.rget_rfset v _ _ _ lt hne, vRget n i hn hi, tFind n i hi]
  refine ⟨hv.trans wDies, ?_, fun r e => ?_, fun n i hn hi => ?_, fun on => ?_, fun r e hr => ?_⟩
  · rw [wRing, vRing, tRing, uRing]
  · rw [wRing, vRing, tRing, uRings r e]
  · simp only [Dev.fget, RDn_RP_STAT_FIND, wFind n i hn hi]
  · rw [wState q hq, vState q lt, tState on]
  · rw [wState r hr, vState r (Dev.hasRing_lt hr), tStates r e hr]

/-- Crossed ends stay shown while another ring, or the same, is named DOWN. -/
theorem Dev.Crossed.down {n i r q : Nat} (h : s.Crossed n i r) (hn : n < 2) (hi : i < 66) (hq : s.hasRing q = true)
    (hr : s.hasRing r = true) (on : s.powered 4 = true ∨ s.powered 5 = true) : (s.ringDown q).Crossed n i r := by
  obtain ⟨-, ring, rings, find, state, states⟩ := Dev.ringDown_spec hq
  by_cases e : r = q
  · subst e
    exact ⟨(find n i hn hi).trans h.find, state on, by rw [ring]; rfl⟩
  · exact ⟨(find n i hn hi).trans h.find, (states r e hr).trans h.state, by rw [rings r e, h.cells]⟩

theorem Dev.powered_of_up {r : Nat} {e : End} (hr : s.hasRing r = true) (up : s.endUp r e = true) :
    s.powered 4 = true ∨ s.powered 5 = true := by
  have hn := (Dev.port_lt hr e).1
  simp only [Dev.endUp, Bool.and_eq_true] at up
  obtain ⟨⟨-, on⟩, -⟩ := up
  generalize s.rdOfEnd r e = n at hn on
  obtain rfl | rfl : n = 0 ∨ n = 1 := by omega
  · exact .inl on
  · exact .inr on

/-- Crossed ends: the ring, and the other one where this package has that end, is named DOWN. -/
theorem Dev.queryAtEnd_crossed {rd i : Nat} {pl : Payload} {r : Nat} {e : End} (hn : rd < 2) (hi : i < 66) (hr : s.hasRing r = true)
    (ends : s.endOfPort rd i = (r, e)) (up : s.endUp r e = true)
    (h : ¬ (Pl.get pl 3 8 = r ∧ bitOf (Pl.get pl 1 8) 0 = decide (e = .a))) (down : s.live r = false) :
    (s.queryAtEnd rd i pl).Crossed rd i r := by
  have on := Dev.powered_of_up hr up
  simp only [Dev.queryAtEnd, ends]
  rw [if_neg (by simp [up, h, down])]
  generalize (if bitOf (Pl.get pl 1 8) 0 = true then End.b else End.a) = e'
  generalize pkgPort _ _ = o
  have named : s.SameDies (s.nameCrossed rd i o) := s.nameCrossed_sameDies rd i o
  have on1 : (s.nameCrossed rd i o).powered 4 = true ∨ (s.nameCrossed rd i o).powered 5 = true := by
    rwa [named.powered (by decide), named.powered (by decide)]
  have hr1 : (s.nameCrossed rd i o).hasRing r = true := (named.hasRing r).trans hr
  obtain ⟨dies, ring, -, find, state, -⟩ := Dev.ringDown_spec hr1
  have first : ((s.nameCrossed rd i o).ringDown r).Crossed rd i r :=
    ⟨(find rd i hn hi).trans (s.nameCrossed_find_same rd i o), state on1, by rw [ring]; rfl⟩
  have all : s.SameDies ((s.nameCrossed rd i o).ringDown r) := named.trans dies
  unfold Dev.nameCrossed at first all
  generalize ((s.fset (RDn_RP_STAT_FIND rd i) 5).fset (RDn_RP_STAT_OTHER rd i) o).ringDown r = t at first all
  split
  next other =>
    simp only [Bool.and_eq_true] at other
    obtain ⟨⟨hq, -⟩, -⟩ := other
    generalize t.rdOfEnd _ _ = d
    generalize t.portOfEnd _ _ = j
    have again := all.trans (t.nameCrossed_sameDies d j (pkgPort rd i))
    have on2 : (t.nameCrossed d j (pkgPort rd i)).powered 4 = true ∨ (t.nameCrossed d j (pkgPort rd i)).powered 5 = true := by
      rw [again.powered (by decide), again.powered (by decide)]
      exact on
    exact (first.name d j (pkgPort rd i)).down hn hi (((t.nameCrossed_sameDies d j (pkgPort rd i)).hasRing _).trans hq)
      ((again.hasRing r).trans hr) on2
  next => exact first

/-! ### Sleep (R520) -/

theorem Dev.ringIx_lt {r : Nat} (hr : s.hasRing r = true) : s.ringIx r < 66 := by
  unfold Dev.ringIx
  cases hw : s.wide with
  | true => exact Nat.mod_lt _ (by decide)
  | false => exact Dev.hasRing_narrow hw hr

section
variable {o : Dev} {r : Nat}

/-- A field of a ring's state or control is kept. -/
theorem Dev.Keeps.fget_rf {f : Nat → Nat → Field} {b lo w : Nat} (h : o.Keeps s) (hr : o.hasRing r = true) (hf : RingField f b lo w)
    (hb : b = 0x10800 ∨ b = 0x10C00) : s.fget (s.rf f r) = o.fget (o.rf f r) := by
  rw [h.rf]
  refine h.fget ?_
  have hn := o.ringRd_lt (Dev.hasRing_lt hr)
  have hx := Dev.ringIx_lt hr
  rw [Dev.rf, hf.reg, keptReg, rdBase]
  omega

theorem Dev.Keeps.sendSleep {src e : End} {sub : Nat} (h : o.Keeps s) : o.Keeps (s.sendSleep r src e sub) :=
  .ite (h.forAll fun _ _ _ h1 => h1.send) h
end

section
variable {r : Nat} (hr : s.hasRing r = true) (on : s.powered 4 = true ∨ s.powered 5 = true) (e : End)
include hr on

theorem Dev.slpCtl_rfset (v : Nat) (hv : v < 2) : (s.rfset (slpCtl e) r v).fget (s.rf (slpCtl e) r) = v := by
  rw [Dev.fget_rfset_same (ringField_slpCtl e) (by cases e <;> decide) (Dev.hasRing_lt hr) on]
  exact Nat.mod_eq_of_lt hv

/-- A stream that is put to sleep shows both the request and its sleep. -/
theorem Dev.sleepStream_spec : (s.sleepStream r e).fbit ((s.sleepStream r e).rf (slpCtl e) r) = true ∧
    (s.sleepStream r e).fbit ((s.sleepStream r e).rf (slpStat e) r) = true := by
  have lt := Dev.hasRing_lt hr
  have ctl := Dev.slpCtl_rfset hr on e 1 (by decide)
  have tDies : s.SameDies (s.rfset (slpCtl e) r 1) := Dev.rfset_sameDies (ringField_slpCtl e) lt
  unfold Dev.sleepStream
  generalize s.rfset (slpCtl e) r 1 = t at ctl tDies
  have ht : t.hasRing r = true := (tDies.hasRing r).trans hr
  have sent : t.Keeps (t.sendSleep r e e 5) := (Dev.Keeps.refl t).sendSleep
  have sentCtl := sent.fget_rf ht (ringField_slpCtl e) (.inr rfl)
  generalize t.sendSleep r e e 5 = u at sent sentCtl
  have hu : u.hasRing r = true := (sent.sameDies.hasRing r).trans ht
  have onu : u.powered 4 = true ∨ u.powered 5 = true := by
    rw [sent.powered (by decide), sent.powered (by decide), tDies.powered (by decide), tDies.powered (by decide)]
    exact on
  have vDies : u.SameDies (u.rfset (slpStat e) r 1) := Dev.rfset_sameDies (ringField_slpStat e) lt
  have vStat : (u.rfset (slpStat e) r 1).fget (u.rf (slpStat e) r) = 1 := by
    rw [Dev.fget_rfset_same (ringField_slpStat e) (by cases e <;> decide) lt onu]
    rfl
  have vCtl : (u.rfset (slpStat e) r 1).fget (u.rf (slpCtl e) r) = u.fget (u.rf (slpCtl e) r) :=
    Dev.fget_rfset_ne (ringField_slpStat e) (ringField_slpCtl e) (by cases e <;> decide) hu hu (.inr (.inr (.inl (by decide))))
  generalize u.rfset (slpStat e) r 1 = v at vDies vStat vCtl
  have hv : v.hasRing r = true := (vDies.hasRing r).trans hu
  have last : v.Keeps v.recheckStreams := (Dev.Keeps.refl v).recheckStreams
  rw [Dev.fbit, Dev.fbit, last.fget_rf hv (ringField_slpCtl e) (.inr rfl), last.fget_rf hv (ringField_slpStat e) (.inl rfl), vDies.rf, vDies.rf,
    vStat, vCtl, sentCtl, tDies.rf, ctl]
  exact ⟨rfl, rfl⟩

/-- A stream that is woken is asked for no more. -/
theorem Dev.wakeStream_spec : (s.wakeStream r e).fbit ((s.wakeStream r e).rf (slpCtl e) r) = false := by
  have lt := Dev.hasRing_lt hr
  have ctl := Dev.slpCtl_rfset hr on e 0 (by decide)
  have tDies : s.SameDies (s.rfset (slpCtl e) r 0) := Dev.rfset_sameDies (ringField_slpCtl e) lt
  unfold Dev.wakeStream
  generalize s.rfset (slpCtl e) r 0 = t at ctl tDies
  have ht : t.hasRing r = true := (tDies.hasRing r).trans hr
  have sent : t.Keeps (t.sendSleep r (endOther e) e 6) := (Dev.Keeps.refl t).sendSleep
  have sentCtl := sent.fget_rf ht (ringField_slpCtl e) (.inr rfl)
  extract_lets u
  change t.Keeps u at sent
  change u.fget (u.rf (slpCtl e) r) = _ at sentCtl
  clear_value u
  have hu : u.hasRing r = true := (sent.sameDies.hasRing r).trans ht
  have now : u.fget (u.rf (slpCtl e) r) = 0 := by rw [sentCtl, tDies.rf, ctl]
  refine Dev.of_ite (P := fun w => w.fbit (w.rf (slpCtl e) r) = false) ?_ (by rw [Dev.fbit, now]; rfl)
  have vDies : u.SameDies (u.rfset (slpStat e) r 0) := Dev.rfset_sameDies (ringField_slpStat e) lt
  have vCtl : (u.rfset (slpStat e) r 0).fget (u.rf (slpCtl e) r) = u.fget (u.rf (slpCtl e) r) :=
    Dev.fget_rfset_ne (ringField_slpStat e) (ringField_slpCtl e) (by cases e <;> decide) hu hu (.inr (.inr (.inl (by decide))))
  unfold Dev.awake
  generalize u.rfset (slpStat e) r 0 = v at vDies vCtl
  have hv : v.hasRing r = true := (vDies.hasRing r).trans hu
  have last : v.Keeps v.recheckStreams := (Dev.Keeps.refl v).recheckStreams
  rw [Dev.fbit, last.fget_rf hv (ringField_slpCtl e) (.inr rfl), vDies.rf, vCtl, now]
  rfl
end

/-! ### The commands -/

end

theorem State.goes_capsReport {s : State} {r : Nat} {e : End} {b : Rcvd} {P : Dev → Prop}
    (h : ∃ d, s.atEnd r e b.rx (fun d => d.capsReport r e b.pl) = .next { s with dev := d } ∧ P d) : s.goes (.capsReport r e b) P := by
  obtain ⟨d, run, p⟩ := h
  exact ⟨d, (exec_capsReport s r e b).trans run, p⟩

theorem State.goes_capsNotice {s : State} {r : Nat} {e : End} {b : Rcvd} {P : Dev → Prop}
    (h : ∃ d, s.atEnd r e b.rx (fun d => d.capsNotice r e b.pl) = .next { s with dev := d } ∧ P d) : s.goes (.capsNotice r e b) P := by
  obtain ⟨d, run, p⟩ := h
  exact ⟨d, (exec_capsNotice s r e b).trans run, p⟩

theorem exec_enumerationStart (s : State) (r : Nat) :
    exec (.enumerationStart r) s = s.updIf (s.dev.hasRing r) (fun d => d.enumStart r) := rfl

theorem exec_ringUp (s : State) (r : Nat) : exec (.ringUp r) s = s.updIf (s.dev.hasRing r) (fun d => d.ringUp r) := rfl

theorem exec_ringRepair (s : State) (r h : Nat) :
    exec (.ringRepair r h) s = s.updIf (s.dev.hasRing r && decide (h ≤ 64)) (fun d => d.ringRepair r h) := rfl

theorem exec_reservedBlock (s : State) (rd : RDie) (i : Nat) (b : OddBlock) :
    exec (.reservedBlock rd i b) s = execReservedBlock rd i b s := rfl

theorem exec_capsQuery (s : State) (q : RxPort) (b : Rcvd) : exec (.capsQuery q b) s = execCapsQuery q b s := rfl

theorem exec_sleepRequest (s : State) (r : Nat) (e : End) :
    exec (.sleepRequest r e) s = s.updIf (s.dev.hasRing r) (fun d => d.sleepRequest r e) := rfl

theorem exec_wakeRequest (s : State) (r : Nat) (e : End) : exec (.wakeRequest r e) s =
    s.updIf (s.dev.hasRing r) (fun d => if d.fbit (d.rf (slpCtl e) r) then d.wakeStream r e else d) := rfl

/-- A block of a reserved type at a package port with lock. -/
theorem exec_reservedBlock_locked {s : State} {rd : RDie} {i : Nat} {ty : BitVec 4} {rx : Rx} {P : Dev → Prop}
    (hp : s.dev.hasPort (.pkg rd i) = true) (on : s.dev.portOn (.pkg rd i) = true) (lock : s.dev.fbit (RDn_RP_STAT_LOCK rd.idx i) = true)
    (hty : 12 ≤ ty.toNat) (h : P (if rx.crcOk then ((s.dev.portRx rd.idx i rx).finc (RDn_RP_ERR_BGAP rd.idx i)).report .corr .port
      (pkgPort rd.idx i) 1 0 else s.dev.portRx rd.idx i rx)) : s.goes (.reservedBlock rd i ⟨ty, rx⟩) P := by
  refine State.goes_updIf (exec_reservedBlock s rd i ⟨ty, rx⟩) hp ?_
  rw [if_pos (by simp [on, lock, hty])]
  exact h

/-- A QUERY at a package port with lock. -/
theorem exec_capsQuery_up {s : State} {rd : RDie} {i : Nat} {pl : Payload} {rx : Rx} {P : Dev → Prop}
    (hp : s.dev.hasPort (.pkg rd i) = true) (up : s.dev.endUp (s.dev.endOfPort rd.idx i).1 (s.dev.endOfPort rd.idx i).2 = true)
    (h : P (if rx.crcOk then (s.dev.portRx rd.idx i rx).queryAtEnd rd.idx i pl else s.dev.portRx rd.idx i rx)) :
    s.goes (.capsQuery (.pkg rd i) ⟨pl, rx⟩) P := by
  refine State.goes_updIf (exec_capsQuery s (.pkg rd i) ⟨pl, rx⟩) hp ?_
  dsimp only
  rw [if_neg (by simp [up])]
  exact h

/-- The QUERY of a port is in order when it carries a CRC error, when it came round its own ring, or when the ring is live: nothing but
its reception is noted. -/
theorem State.goes_capsQuery_known {s : State} {rd : RDie} {i : Nat} {pl : Payload} {rx : Rx} {r : Nat} {e : End}
    (hp : s.dev.hasPort (.pkg rd i) = true) (up : s.dev.endUp (s.dev.endOfPort rd.idx i).1 (s.dev.endOfPort rd.idx i).2 = true)
    (ends : s.dev.endOfPort rd.idx i = (r, e))
    (known : rx.crcOk = false ∨ (Pl.get pl 3 8 = r ∧ bitOf (Pl.get pl 1 8) 0 = decide (e = .a)) ∨ s.dev.live r = true) :
    s.goes (.capsQuery (.pkg rd i) ⟨pl, rx⟩) (fun d => d = s.dev.portRx rd.idx i rx) := by
  have noted : s.dev.Noted (s.dev.portRx rd.idx i rx) := Dev.portRx_noted hp rx
  refine exec_capsQuery_up hp up ?_
  by_cases good : rx.crcOk = true
  · rw [if_pos good]
    refine Dev.queryAtEnd_known ((noted.endOfPort _ _).trans ends) ?_
    rw [Dev.live, noted.ring, ← Dev.live]
    exact known.resolve_left (by simp [good])
  · exact if_neg good

/-- Settles O52: each command is its guard, read off the registers and the ring, and then one operation on the ring, whose own lemma
above says what it leaves behind. -/
theorem ringEnumerationResults : Obligations.RingEnumerationResults := by
  unfold Obligations.RingEnumerationResults
  intro s r h e pl c rd i ty rx x serial portD some_ idle here atPort ownQuery hr
  have lt := Dev.hasRing_lt hr
  refine ⟨fun hi => ?_, fun hi => ?_, fun off => ⟨?_, ?_⟩, fun heard bad => ⟨?_, ?_⟩, fun p st heard good kind ring place => ?_,
    fun st heard => ?_, fun on st hm => ?_, fun bar => ?_, fun heard good up kind cell => ⟨fun lost => ?_, fun back mem => ?_⟩,
    fun hh q ready => ⟨fun bar => ?_, fun up sound st free => ⟨fun fits => ?_, fun adm big on => ?_⟩⟩, fun hh ready => ?_,
    fun hp on lock hty => ⟨fun good => ?_, fun bad => ?_⟩, fun e' hp ends => ⟨fun known => ?_, fun good crossed down => ?_⟩,
    fun ctl => ⟨fun bar => ?_, fun m live ver other on => ?_, ?_⟩, fun ctl on => ⟨?_, ?_⟩⟩
  · refine State.goes_updIf (exec_enumerationStart s r) hr ?_
    exact if_pos (by simpa [List.isEmpty_iff] using hi)
  · exact State.goes_updIf (exec_enumerationStart s r) hr (Dev.enumStart_spec hr hi)
  · exact State.goes_capsReport (State.atEnd_unheard hr off rfl)
  · exact State.goes_capsNotice (State.atEnd_unheard hr off rfl)
  · exact State.goes_capsReport (State.atEnd_bad hr heard bad rfl)
  · exact State.goes_capsNotice (State.atEnd_bad hr heard bad rfl)
  · refine State.goes_capsReport (State.atEnd_good hr heard good ?_)
    have noted : s.dev.Noted here := Dev.endRx_noted hr e rx
    obtain ⟨regs, kept⟩ := Dev.capsReport_kept (s := here) ((noted.ringState lt).trans st) ((noted.endHeard hr e).trans heard) kind ring
      ((noted.placeBySerial r serial).trans place)
    refine ⟨fun follows => regs.trans ?_, kept⟩
    simp [here, Dev.endRx, Dev.portRx, good, follows]
  · cases good : rx.crcOk with
    | false => exact State.goes_capsReport (State.atEnd_bad hr heard good rfl)
    | true =>
      have noted : s.dev.Noted here := Dev.endRx_noted hr e rx
      exact State.goes_capsReport (State.atEnd_good hr heard good (Dev.capsReport_ignored (by rw [noted.ringState lt]; exact st)))
  · exact State.goes_updIf (exec_ringUp s r) hr (Dev.ringUp_spec hr on st hm)
  · refine State.goes_updIf (exec_ringUp s r) hr (if_pos ?_)
    simpa using bar
  · have noted : s.dev.Noted here := Dev.endRx_noted hr e rx
    have ring : here.ring r = x := by rw [noted.ring]
    refine State.goes_capsNotice (State.atEnd_good hr heard good ?_)
    obtain ⟨cut, -⟩ := Dev.capsNotice_of_cell (s := here) ((noted.endHeard hr e).trans heard) (by rw [ring]; exact up) kind
      (by rw [ring]; exact cell)
    change _ ∈ ((here.capsNotice r e pl).ring r).cuts
    rw [cut lost, ring]
    exact Dev.mem_cuts_addCut _ lt (by rw [ring]; exact up)
  · have noted : s.dev.Noted here := Dev.endRx_noted hr e rx
    have ring : here.ring r = x := by rw [noted.ring]
    refine State.goes_capsNotice (State.atEnd_good hr heard good ?_)
    obtain ⟨-, measured⟩ := Dev.capsNotice_of_cell (s := here) ((noted.endHeard hr e).trans heard) (by rw [ring]; exact up) kind
      (by rw [ring]; exact cell)
    rw [ring] at measured
    change Store.get (fun _ => 0) ((here.capsNotice r e pl).ring r).ready _ = _ ∧ (here.capsNotice r e pl).regs = _
    rw [measured back mem, Dev.ring_setRing_same]
    exact ⟨Store.get_insert_same _ _ _ _, rfl⟩
  · refine State.goes_updIf (exec_ringRepair s r h) (by simp [hr, hh]) (Dev.ringRepair_barred ready bar)
  · exact State.goes_updIf (exec_ringRepair s r h) (by simp [hr, hh]) (Dev.ringRepair_joins ready up sound st free fits)
  · exact State.goes_updIf (exec_ringRepair s r h) (by simp [hr, hh]) (Dev.ringRepair_grows ready up sound st free lt on adm big)
  · exact State.goes_updIf (exec_ringRepair s r h) (by simp [hr, hh]) (Dev.ringRepair_none ready)
  · exact exec_reservedBlock_locked hp on lock hty (if_pos good)
  · exact exec_reservedBlock_locked hp on lock hty (if_neg (by simp [bad]))
  · exact State.goes_capsQuery_known hp.1 hp.2 ends known
  · obtain ⟨port, up⟩ := hp
    rw [ends] at up
    have noted : s.dev.Noted (s.dev.portRx rd.idx i rx) := Dev.portRx_noted port rx
    refine exec_capsQuery_up port (by rw [ends]; exact up) ?_
    rw [if_pos good]
    have down' : (s.dev.portRx rd.idx i rx).live r = false := by
      rw [Dev.live, noted.ring]
      exact down
    obtain ⟨find, state, cells⟩ := Dev.queryAtEnd_crossed (RDie.idx_lt_two rd) (Dev.port_lt_of_has port)
      ((noted.sameDies.hasRing r).trans hr) ((noted.endOfPort _ _).trans ends) ((noted.endUp hr e').trans up) crossed down'
    exact ⟨find, state, cells⟩
  · refine State.goes_updIf (exec_sleepRequest s r e) hr ?_
    rw [Dev.sleepRequest, if_neg (by simp [ctl])]
    refine if_pos ?_
    rcases bar with bar | bar | bar | bar <;> simp [bar]
  · refine State.goes_updIf (exec_sleepRequest s r e) hr ?_
    rw [Dev.sleepRequest, if_neg (by simp [ctl]), if_neg (by simp [m, live, ver, other])]
    exact Dev.sleepStream_spec hr on e
  · exact State.goes_updIf (exec_wakeRequest s r e) hr (if_neg (by simp [ctl]))
  · refine State.goes_updIf (exec_wakeRequest s r e) hr ?_
    rw [if_pos ctl]
    exact Dev.wakeStream_spec hr on e
  · exact State.goes_updIf (exec_sleepRequest s r e) hr (if_pos ctl)

end Sys2Proof.Machine
end

section
/-!
PROOFS for the family `01_package_and_flock`: the tallies on their way to the ring ends, and tally close (O43).
-/
namespace Sys2Proof.Machine

/-! ### A tally on its way (R70, R74, R75, R113) -/

section
variable (s : Dev) (p : Place) (toB : Bool)

@[simp] theorem Dev.cellCome_regs (t : Nat) : (s.cellCome p t).regs = s.regs := Dev.elapse_regs _ _

@[simp] theorem Dev.cellCome_tly (t : Nat) : (s.cellCome p t).sh.tly = s.sh.tly := Dev.elapse_tly _ _

@[simp] theorem Dev.slotCome_regs : (s.slotCome p toB).regs = s.regs := by
  unfold Dev.slotCome
  extract_lets
  split
  · exact Dev.cellCome_regs ..
  · rfl

@[simp] theorem Dev.slotCome_tly : (s.slotCome p toB).sh.tly = s.sh.tly := by
  unfold Dev.slotCome
  extract_lets
  split
  · exact Dev.cellCome_tly ..
  · rfl
end

section
variable {s : Dev} {p : Place} {e : End} {fate : Fate} {pl : Payload}

/-- The ring end toward which a cell sends is there, and the stream reaches it. -/
def Dev.tallyReaches (s : Dev) (p : Place) (e : End) : Bool := s.endUp (p / 64) e && (s.ring (p / 64)).toEnd (p % 64) e

theorem Dev.tallyArrives_lost : s.tallyArrives p e .lost pl = s := ite_self _

theorem Dev.tallyArrives_away (h : s.tallyReaches p e = false) : s.tallyArrives p e fate pl = s :=
  if_neg (by simpa [Dev.tallyReaches] using h)

theorem Dev.tallyArrives_inTime (h : s.tallyReaches p e = true) (ht : s.openSeq (BitVec.ofNat 16 (Pl.get pl 2 16)) = true) :
    s.tallyArrives p e .good pl =
      s.tly (fun x => { x with copies := { place := p, endB := decide (e = .b), pl := pl } :: x.copies }) :=
  (if_pos h).trans (if_pos ht)

theorem Dev.tallyArrives_otherCycle (h : s.tallyReaches p e = true) (ht : s.openSeq (BitVec.ofNat 16 (Pl.get pl 2 16)) = false) :
    s.tallyArrives p e .good pl = s.lateTally (p / 64) e :=
  (if_pos h).trans (if_neg (by simp [ht]))

theorem Dev.tallyArrives_late (h : s.tallyReaches p e = true) : s.tallyArrives p e .late pl = s.lateTally (p / 64) e := if_pos h

theorem Dev.tallyArrives_crcBad (h : s.tallyReaches p e = true) :
    s.tallyArrives p e .crcBad pl = s.portCrc (s.rdOfEnd (p / 64) e) (s.portOfEnd (p / 64) e) := if_pos h

@[simp] theorem Dev.report_tly (s : Dev) (cls : Cls) (src : Src) (inst code det : Nat) :
    (s.report cls src inst code det).sh.tly = s.sh.tly := (Dev.Noted.refl s).report.tly

@[simp] theorem Dev.irq_tly (s : Dev) (v : Nat) : (s.irq v).sh.tly = s.sh.tly := (Dev.Noted.refl s).irq.tly

@[simp] theorem Dev.lateTally_tly (s : Dev) (r : Nat) (e : End) : (s.lateTally r e).sh.tly = s.sh.tly := by
  rw [Dev.lateTally, Dev.finc_sh]

@[simp] theorem Dev.portCrc_tly (s : Dev) (n i : Nat) : (s.portCrc n i).sh.tly = s.sh.tly := by
  rw [Dev.portCrc, Dev.report_tly, Dev.finc_sh]
end

section
variable {s : State} {p : Place} {toward : End} {b : TallySlot} {P : Dev → Prop}

theorem exec_tallyInsert (s : State) (p : Place) (toward : End) (b : TallySlot) : exec (.tallyInsert p toward b) s =
    execTallyInsert p toward b s := rfl

/-- The slot instant finds no block that it can fill: it counts as received, and goes on as it came. -/
theorem State.goes_tallyInsert_pass (hp : s.dev.hasPlace p = true)
    (bar : ((s.dev.slotCome p (decide (toward = .b))).cell p).tallyDue (decide (toward = .b)) = none ∨
      (s.dev.slotCome p (decide (toward = .b))).carries (p / 64) toward = false ∨ b.rx.crcOk = false)
    (h : P ((s.dev.slotCome p (decide (toward = .b))).modCell p (fun c =>
      if c.hears (if decide (toward = .b) then .u else .d) then c.rxCount (if decide (toward = .b) then .u else .d) b.rx else c))) :
    s.goes (.tallyInsert p toward b) P := by
  refine State.goes_updIf (exec_tallyInsert s p toward b) hp ?_
  dsimp only
  have none : (if (s.dev.slotCome p (decide (toward = .b))).carries (p / 64) toward && b.rx.crcOk then
      ((s.dev.slotCome p (decide (toward = .b))).cell p).tallyDue (decide (toward = .b)) else none) = none := by
    rcases bar with bar | bar | bar <;> simp [bar]
  rw [none]
  exact h

/-- A tally that is due is sent in the block of its slot. -/
theorem State.goes_tallyInsert_sends {t : OutTally} (hp : s.dev.hasPlace p = true)
    (carries : (s.dev.slotCome p (decide (toward = .b))).carries (p / 64) toward = true) (good : b.rx.crcOk = true)
    (due : ((s.dev.slotCome p (decide (toward = .b))).cell p).tallyDue (decide (toward = .b)) = some t)
    (h : P ((((s.dev.slotCome p (decide (toward = .b))).modCell p (fun c =>
      (c.rxCount (if decide (toward = .b) then .u else .d) b.rx).sendTally (decide (toward = .b)) t)).emit
        (.repeated p (if decide (toward = .b) then CPort.u else .d).other b.rx.bseq 0x2 t.pl)).tallyArrives p toward b.fate t.pl)) :
    s.goes (.tallyInsert p toward b) P := by
  refine State.goes_updIf (exec_tallyInsert s p toward b) hp ?_
  dsimp only
  rw [carries, good, due]
  exact h
end

/-! ### Tally close (R32, R76) -/

/-- What tally close decides by, as it stands. -/
def Dev.TlyNotes (n : Bool × Nat × Nat × Store Blk) (s : Dev) : Prop := s.sh.tly.notes = n

section
variable {n : Bool × Nat × Nat × Store Blk} {s : Dev}

theorem Dev.TlyNotes.of_tly {t : Dev} (h : s.TlyNotes n) (ht : t.sh.tly = s.sh.tly) : t.TlyNotes n := by
  unfold Dev.TlyNotes
  rw [ht]
  exact h

theorem Dev.TlyNotes.parts {a : Bool} {b c : Nat} {m : Store Blk} (h : s.TlyNotes (a, b, c, m)) :
    s.sh.tly.masterB = a ∧ s.sh.tly.closed = b ∧ s.sh.tly.delivered = c ∧ s.sh.tly.merged = m := by
  simpa [Dev.TlyNotes, ShTly.notes] using h

theorem Dev.TlyNotes.ite {a b : Dev} {c : Prop} [Decidable c] (ha : a.TlyNotes n) (hb : b.TlyNotes n) :
    (if c then a else b).TlyNotes n := by
  split <;> assumption

theorem Dev.TlyNotes.foldl {α : Type} {f : Dev → α → Dev} {l : List α} (h : s.TlyNotes n)
    (hf : ∀ t a, Dev.TlyNotes n t → (f t a).TlyNotes n) : (l.foldl f s).TlyNotes n := by
  induction l generalizing s with
  | nil => exact h
  | cons a l ih => exact ih (hf s a h)

theorem Dev.TlyNotes.setAlarms {m : ShTly → Store W32} (h : s.TlyNotes n) : (s.tly (fun x => { x with alarmPrev := m x })).TlyNotes n := h

theorem Dev.TlyNotes.setAqCopies {m : ShTly → Store W64} {l : ShTly → List Copy} (h : s.TlyNotes n) :
    (s.tly (fun x => { x with mergedAq := m x, copies := l x })).TlyNotes n := h

theorem Dev.TlyNotes.fset {f : Field} {v : Nat} (h : s.TlyNotes n) : (s.fset f v).TlyNotes n := h

theorem Dev.TlyNotes.finc {f : Field} (h : s.TlyNotes n) : (s.finc f).TlyNotes n := h

theorem Dev.TlyNotes.clk {f : ShClk → ShClk} (h : s.TlyNotes n) : (s.clk f).TlyNotes n := h

theorem Dev.TlyNotes.alignStat {l : List Blk} (h : s.TlyNotes n) : (s.alignStat l).TlyNotes n := h.fset.fset.fset

theorem Dev.TlyNotes.report {cls : Cls} {src : Src} {inst code det : Nat} (h : s.TlyNotes n) :
    (s.report cls src inst code det).TlyNotes n := h.of_tly (Dev.report_tly ..)

theorem Dev.TlyNotes.modRd {i : Nat} {f : RingDie → RingDie} (h : s.TlyNotes n) : (s.modRd i f).TlyNotes n :=
  h.of_tly (by rw [Dev.modRd_sh])

theorem Dev.TlyNotes.rcd {f : ShRec → ShRec} (h : s.TlyNotes n) : (s.rcd f).TlyNotes n := h

theorem Dev.TlyNotes.turnEnd {id place : Nat} (h : s.TlyNotes n) : (s.turnEnd id place).TlyNotes n := .ite h h

theorem Dev.TlyNotes.fifoCheck {f : Nat} (h : s.TlyNotes n) : (s.fifoCheck f).TlyNotes n :=
  .ite (have h1 := h.modRd.fset; h1.finc.report) h

theorem Dev.TlyNotes.fifoIrq {f : Nat} (h : s.TlyNotes n) : (s.fifoIrq f).TlyNotes n :=
  .ite h (h.fset.of_tly (Dev.Noted.refl _).msix.tly)

theorem Dev.TlyNotes.fifoShow {f v : Nat} (h : s.TlyNotes n) : (s.fifoShow f v).TlyNotes n :=
  have h1 := h.modRd
  .ite h1.fifoIrq h1

theorem Dev.TlyNotes.fifoFinish {f : Nat} (h : s.TlyNotes n) : (s.fifoFinish f).TlyNotes n := .ite h.fifoShow h

theorem Dev.TlyNotes.fifoCut {f m : Nat} (h : s.TlyNotes n) : (s.fifoCut f m).2.TlyNotes n := by
  simp only [Dev.fifoCut]
  split <;> exact h

theorem Dev.TlyNotes.fifoPush {i f : Nat} {bytes : List Byte} (h : s.TlyNotes n) : (s.fifoPush i f bytes).TlyNotes n := by
  have took : (((if i = s.fifoRd f then s else s.finc (RDn_HUB_BRG_XFER i)).fifoCheck f).fifoFinish f).TlyNotes n :=
    (Dev.TlyNotes.ite h h.finc).fifoCheck.fifoFinish
  exact .ite (.ite h h.finc) (.ite took.finc took.fifoCut.modRd.fifoShow)

theorem Dev.TlyNotes.entryIn {i idx src : Nat} {e : BitVec 128} (h : s.TlyNotes n) : (s.entryIn i idx src e).TlyNotes n := by
  unfold Dev.entryIn
  split
  · exact h.fifoPush
  · exact h

theorem Dev.TlyNotes.entriesIn {i id : Nat} {l : List Nat} (h : s.TlyNotes n) : (s.entriesIn i id l).TlyNotes n :=
  h.foldl fun _ _ h1 => .ite h1 h1.entryIn

theorem Dev.TlyNotes.recLearn {t : W32} {src : Nat} (h : s.TlyNotes n) : (s.recLearn t src).TlyNotes n := by
  unfold Dev.recLearn
  refine .ite (h.of_tly (Dev.irq_tly ..)) (.ite ?_ (.ite h h))
  split
  · exact .ite h h
  · exact h

theorem Dev.TlyNotes.cellTrigger {id : Nat} {b : Blk} (h : s.TlyNotes n) : (s.cellTrigger id b).TlyNotes n := .ite h.recLearn.rcd h

theorem Dev.TlyNotes.cellFaults {id : Nat} {b : Blk} (h : s.TlyNotes n) : (s.cellFaults id b).TlyNotes n := by
  unfold Dev.cellFaults
  extract_lets +onlyGivenNames _ _ _ _ _ t1 t2 t3
  have h1 : t1.TlyNotes n := h.setAlarms
  have h2 : t2.TlyNotes n := .ite h1.report h1
  have h3 : t3.TlyNotes n := h2.foldl fun _ _ h4 => .ite h4.report h4
  exact h3.foldl fun _ _ h5 => .ite h5.report h5

end

theorem Store.mem_keys_insert {α : Type} (m : Store α) (k : Nat) (x : α) (j : Nat) :
    j ∈ Store.keys (Store.insert m k x) ↔ j = k ∨ j ∈ Store.keys m := by
  induction m with
  | nil => simp [Store.insert, Store.keys]
  | cons e m ih =>
    obtain ⟨i, v⟩ := e
    simp only [Store.keys, List.map_cons, List.mem_cons, Store.insert] at ih ⊢
    split_ifs with hlt heq
    · simp
    · simp [heq]
    · simp only [List.map_cons, List.mem_cons, ih]
      tauto

/-- A cell's tally close puts an entry of the cell into the merged set. -/
theorem Dev.closeCell_notes (s : Dev) (k id place : Nat) : ∃ ent, (s.closeCell k id place).TlyNotes
    (s.sh.tly.masterB, s.sh.tly.closed, s.sh.tly.delivered, Store.insert s.sh.tly.merged id ent) := by
  unfold Dev.closeCell
  split
  extract_lets +onlyGivenNames _ _ _ _ ent t1 t2 t3
  refine ⟨ent, ?_⟩
  generalize hn : (s.sh.tly.masterB, s.sh.tly.closed, s.sh.tly.delivered, Store.insert s.sh.tly.merged id ent) = n
  have h1 : t1.TlyNotes n := by rw [← hn]; rfl
  clear_value t1
  have h2 : t2.TlyNotes n := h1.turnEnd
  clear_value t2
  have h3 : t3.TlyNotes n := by
    unfold t3
    split
    · exact h2
    · exact h2
  clear_value t3
  refine .ite h3 ?_
  extract_lets +onlyGivenNames t4 t5
  have h4 : t4.TlyNotes n := by
    unfold t4
    split
    · exact .ite h3 h3.report
    · exact h3
  clear_value t4
  have h5 : t5.TlyNotes n := h4.entriesIn
  exact h5.cellFaults.cellTrigger

/-- After the tally close of a list of cells the merged set has an entry of each of them, beside those it had. -/
theorem Dev.closeCells_notes (k : Nat) (l : List (Nat × Nat)) : ∀ s : Dev, ∃ m,
    (forAll l s (fun s e => s.closeCell k e.1 e.2)).TlyNotes (s.sh.tly.masterB, s.sh.tly.closed, s.sh.tly.delivered, m) ∧
      ∀ id, id ∈ Store.keys m ↔ id ∈ l.map (fun e => e.1) ∨ id ∈ Store.keys s.sh.tly.merged := by
  induction l with
  | nil => exact fun s => ⟨s.sh.tly.merged, rfl, fun id => by rw [List.map_nil]; exact (or_iff_right List.not_mem_nil).symm⟩
  | cons e l ih =>
    intro s
    obtain ⟨ent, first⟩ := s.closeCell_notes k e.1 e.2
    obtain ⟨m, rest, keys⟩ := ih (s.closeCell k e.1 e.2)
    obtain ⟨master, closed, delivered, merged⟩ := first.parts
    rw [master, closed, delivered] at rest
    refine ⟨m, by rw [forAll, List.foldl_cons]; exact rest, fun id => ?_⟩
    rw [keys, merged, Store.mem_keys_insert, List.map_cons, List.mem_cons]
    tauto

/-- The cells that are enumerated are decided by the rings and the wiring. -/
theorem Dev.enumerated_congr {o s : Dev} (hv : s.variant = o.variant) (hr : s.regs = o.regs) (hq : s.rings = o.rings) :
    s.enumerated = o.enumerated := by
  have count : s.ringCount = o.ringCount := Dev.ringCount_congr hv (Dev.role_congr hr)
  have ring : s.ring = o.ring := by
    funext r
    simp only [Dev.ring, hq]
  simp only [Dev.enumerated, count, Dev.live, ring]
  rfl

theorem Dev.comeOfs_tly (s : Dev) (ofs : Nat) : (s.comeOfs ofs).sh.tly = s.sh.tly := Dev.elapse_tly ..

theorem Dev.comeOfs_enumerated (s : Dev) (ofs : Nat) : (s.comeOfs ofs).enumerated = s.enumerated :=
  Dev.enumerated_congr (Dev.elapse_variant ..) (Dev.elapse_regs ..) (Dev.elapse_rings ..)

theorem Dev.roll_ids (s : Dev) : s.roll.map (fun e => e.1) = s.enumerated := by
  rw [Dev.roll, List.map_map]
  exact List.map_id _

/-- Tally close of a cycle: the merged set has an entry of each enumerated cell and of no other. -/
theorem Dev.closeCycle_notes (s : Dev) (c : CycRec) : ∃ m,
    (s.closeCycle c).TlyNotes (s.sh.tly.masterB, c.cycle + 1, s.sh.tly.delivered, m) ∧ ∀ id, id ∈ Store.keys m ↔ id ∈ s.enumerated := by
  unfold Dev.closeCycle
  extract_lets +onlyGivenNames k t1 t2
  have ids : t1.enumerated = s.enumerated := Dev.enumerated_congr rfl rfl rfl
  obtain ⟨m, notes, keys⟩ := Dev.closeCells_notes k t1.roll t1
  refine ⟨m, ?_, fun id => ?_⟩
  · have h2 : t2.TlyNotes (s.sh.tly.masterB, c.cycle + 1, s.sh.tly.delivered, m) := notes
    clear_value t2
    exact (h2.setAqCopies (m := fun _ => _) (l := fun x => x.copies.filter _)).alignStat.clk
  · rw [keys, Dev.roll_ids, ids]
    simp [t1, Store.keys]

theorem exec_tallyClose (s : State) : exec .tallyClose s = s.upd Dev.tallyClose := rfl

section
variable {s : Dev} {c : CycRec}

theorem Dev.tallyClose_done (due : s.ofsCycle s.tclose = some c) (done : c.cycle < s.sh.tly.closed) : s.tallyClose = s := by
  simp only [Dev.tallyClose, due]
  exact if_pos (by simp [done])

theorem Dev.tallyClose_due (due : s.ofsCycle s.tclose = some c) (runs : s.clockRuns = true)
    (master : s.running (4 + s.master) = true) (open_ : s.sh.tly.closed ≤ c.cycle) :
    s.tallyClose = (s.comeOfs s.tclose).closeCycle c := by
  simp only [Dev.tallyClose, due]
  exact if_neg (by simp [runs, master, open_])

end

end Sys2Proof.Machine
end

section
/-!
PROOFS for the family `01_package_and_flock`: a control die takes the merged set, and what its scheduler and its loop engine keep then.
-/
namespace Sys2Proof.Machine

/-! ### The sets a control die holds, through its own operations -/

/-- The die holds these sets, and its generators' step is made or not. -/
def CtrlDie.Holds (n : List TallySet × Bool) (c : CtrlDie) : Prop := c.notes = n

section
variable {n : List TallySet × Bool} {c : CtrlDie}

theorem CtrlDie.Holds.ite {a b : CtrlDie} {p : Prop} [Decidable p] (ha : a.Holds n) (hb : b.Holds n) : (if p then a else b).Holds n := by
  split <;> assumption

theorem CtrlDie.Holds.foldl {α : Type} {f : CtrlDie → α → CtrlDie} {l : List α} (h : c.Holds n)
    (hf : ∀ t a, t.Holds n → (f t a).Holds n) : (l.foldl f c).Holds n := by
  induction l generalizing c with
  | nil => exact h
  | cons a l ih => exact ih (hf c a h)

theorem CtrlDie.Holds.forAll {α : Type} {f : CtrlDie → α → CtrlDie} {l : List α} (h : c.Holds n)
    (hf : ∀ t a, t.Holds n → (f t a).Holds n) : (Machine.forAll l c f).Holds n := h.foldl hf

theorem CtrlDie.Holds.modCore {i : Nat} {f : Core → Core} (h : c.Holds n) : (c.modCore i f).Holds n := h
theorem CtrlDie.Holds.setTask {t : Nat} {k : Task} (h : c.Holds n) : (c.setTask t k).Holds n := h
theorem CtrlDie.Holds.modTask {t : Nat} {f : Task → Task} (h : c.Holds n) : (c.modTask t f).Holds n := h
theorem CtrlDie.Holds.setMbox {m : Nat} {b : Mbox} (h : c.Holds n) : (c.setMbox m b).Holds n := h
theorem CtrlDie.Holds.setLock {l : Nat} {b : HwLock} (h : c.Holds n) : (c.setLock l b).Holds n := h
theorem CtrlDie.Holds.setLe {i : Nat} {v : W32} (h : c.Holds n) : (c.setLe i v).Holds n := h
theorem CtrlDie.Holds.setLeI {i : Nat} {v : Int} (h : c.Holds n) : (c.setLeI i v).Holds n := h.setLe
theorem CtrlDie.Holds.setStat {i j : Nat} {b : Bool} (h : c.Holds n) : (c.setStat i j b).Holds n := h.setLe
theorem CtrlDie.Holds.setPctl {p lo w v : Nat} (h : c.Holds n) : (c.setPctl p lo w v).Holds n := h.setLe
theorem CtrlDie.Holds.setGw {p w : Nat} {v : Int} (h : c.Holds n) : (c.setGw p w v).Holds n := h.setLeI
theorem CtrlDie.Holds.leWrite {i : Nat} {v : W32} (h : c.Holds n) : (c.leWrite i v).Holds n := h.setLe

theorem CtrlDie.Holds.setTune {a : Option Autotune} (h : c.Holds n) : ({ c with tune := a } : CtrlDie).Holds n := h

/-! Scheduler and call windows. -/

theorem CtrlDie.Holds.breakSeqs {i line : Nat} (h : c.Holds n) : (c.breakSeqs i line).Holds n := by
  refine h.foldl fun y e h1 => .ite h1 ?_
  split
  · exact h1
  · split
    · exact h1
    · exact .ite h1.modTask h1

theorem CtrlDie.Holds.poke {i a m v : Nat} (h : c.Holds n) : (c.poke i a m v).Holds n := CtrlDie.Holds.breakSeqs h

theorem CtrlDie.Holds.pokeWords {i a : Nat} {l : List W64} (h : c.Holds n) : (c.pokeWords i a l).Holds n := by
  induction l generalizing c a with
  | nil => exact h
  | cons v l ih => exact ih h.poke

theorem CtrlDie.Holds.offCore {t : Nat} (h : c.Holds n) : (c.offCore t).Holds n := h.foldl fun _ _ h1 => .ite h1.modCore h1

theorem CtrlDie.Holds.dropWins {t : Nat} (h : c.Holds n) : (c.dropWins t).Holds n := h.foldl fun _ _ h1 => h1.modCore

theorem CtrlDie.Holds.setReady {l m : List Nat} (h : c.Holds n) : ({ c with ready := l, vready := m } : CtrlDie).Holds n := h

theorem CtrlDie.Holds.unqueue {t : Nat} (h : c.Holds n) : (c.unqueue t).Holds n := h

theorem CtrlDie.Holds.wake {t : Nat} (h : c.Holds n) : (c.wake t).Holds n := .ite h.modTask h

theorem CtrlDie.Holds.applyPpend {t : Nat} (h : c.Holds n) : (c.applyPpend t).Holds n := by
  unfold CtrlDie.applyPpend
  extract_lets
  split
  · exact h
  · exact .ite h (.ite h h)

theorem CtrlDie.Holds.release {l : Nat} {broken : Bool} (h : c.Holds n) : (c.release l broken).Holds n := by
  unfold CtrlDie.release
  extract_lets
  refine .ite h.setLock ?_
  split
  · exact h.setLock
  · exact h.setLock.wake

theorem CtrlDie.Holds.grantVoted {m : Nat} (h : c.Holds n) : (c.grantVoted m).Holds n := by
  induction m generalizing c with
  | zero => exact h
  | succ m ih =>
    unfold CtrlDie.grantVoted
    split
    · exact h
    · extract_lets _ _ _ _ x
      have h1 : x.Holds n := h.setLock.setTask
      exact ih (.ite h1 h1)

theorem CtrlDie.Holds.setReg {i t : Nat} {r : Reg} {v : W64} (h : c.Holds n) : (c.setReg i t r v).Holds n := by
  unfold CtrlDie.setReg
  split
  · exact .ite h h.modCore
  · exact .ite h.modCore h.modCore

theorem CtrlDie.Holds.loadGlobals {i t : Nat} (h : c.Holds n) : (c.loadGlobals i t).Holds n := by
  unfold CtrlDie.loadGlobals
  extract_lets
  split
  · exact h.modCore.setTask
  · exact h.modCore

theorem CtrlDie.Holds.activate {t cycle : Nat} (h : c.Holds n) : (c.activate t cycle).Holds n := by
  unfold CtrlDie.activate
  extract_lets +onlyGivenNames x
  have h1 : x.Holds n := h.dropWins.modTask
  exact .ite h1 h1

/-! Loop engine and generators. -/

theorem CtrlDie.Holds.tuneEnd {a : Autotune} (h : c.Holds n) : (c.tuneEnd a).Holds n := by
  unfold CtrlDie.tuneEnd
  extract_lets _ _ x
  have h1 : x.Holds n := h.setLeI
  exact h1.setStat.setTune

theorem CtrlDie.Holds.genPut {p : Nat} {pos vel acc : Int} {arr : Bool} (h : c.Holds n) : (c.genPut p pos vel acc arr).Holds n :=
  h.setGw.setGw.setGw.setPctl

theorem CtrlDie.Holds.softStep {p : Nat} (h : c.Holds n) : (c.softStep p).Holds n := .ite h.genPut h.genPut

theorem CtrlDie.Holds.sStep {p : Nat} {t : Int} {stop : Bool} (h : c.Holds n) : (c.sStep p t stop).Holds n :=
  .ite h.genPut (.ite h.genPut h.genPut)

theorem CtrlDie.Holds.genStep {p : Nat} (h : c.Holds n) : (c.genStep p).Holds n :=
  .ite h.setGw.setGw.setPctl (.ite h.setLe.setPctl.setGw.setGw.softStep.setPctl
    (.ite h.softStep.setPctl (.ite h.sStep.setPctl
    (.ite h.sStep.setPctl (.ite h.sStep.setPctl
    (.ite h.sStep (.ite h.sStep (.ite h.sStep h.setGw.setGw.setPctl))))))))

theorem CtrlDie.Holds.genSteps (h : c.Holds n) : c.genSteps.Holds n := h.forAll fun _ _ h1 => .ite h1.genStep h1

theorem CtrlDie.Holds.genInv (h : c.Holds n) : c.genInv.Holds n := h.forAll fun _ _ h1 => .ite h1.setPctl h1

theorem CtrlDie.Holds.loadBlock {b : Blk} (h : c.Holds n) : (c.loadBlock b).Holds n :=
  .ite (h.setLe.setLe.setLe.forAll fun _ _ h1 => h1.setLe)
    (.ite (h.forAll fun _ _ h1 => h1.setLe.setLe.setLe.setLe) h)

theorem CtrlDie.Holds.loadMirror {l : List Blk} (h : c.Holds n) : (c.loadMirror l).Holds n := by
  unfold CtrlDie.loadMirror
  split
  · exact h
  · exact (CtrlDie.Holds.ite h h.pokeWords.pokeWords).foldl fun _ _ h1 => h1.loadBlock

theorem CtrlDie.Holds.leApply {v : W64} (h : c.Holds n) : (c.leApply v).Holds n := .ite (.ite h.leWrite h) h.leWrite

end

/-! ### What the scheduler and the loop engine of a die keep -/

/-- The control dies' windows lie above the ring dies' (R642). -/
theorem sideReg_cd {d b : Nat} : sideReg (cdBase d + b) := sideReg_high (by unfold cdBase; omega)

theorem sideReg_cd8 {d b i : Nat} : sideReg (cdBase d + b + 8 * i) := sideReg_high (by unfold cdBase; omega)

section
variable {o s : Dev}

theorem Dev.Keeps.onCd {d : Nat} {f : CtrlDie → CtrlDie} (h : o.Keeps s) (hf : ∀ n c, CtrlDie.Holds n c → (f c).Holds n) :
    o.Keeps (s.modCd d f) := h.modCd fun c => hf c.notes c rfl

theorem Dev.Keeps.freeTask {d t : Nat} (h : o.Keeps s) : o.Keeps (s.freeTask d t) := by
  unfold Dev.freeTask
  exact .modRd (.modRd (h.onCd fun _ _ h1 => h1.offCore.dropWins.unqueue.setTask))

theorem Dev.Keeps.killTask {d t cause : Nat} (h : o.Keeps s) : o.Keeps (s.killTask d t cause) :=
  (h.freeTask.onCd fun _ _ h1 => h1.forAll fun _ _ h2 => h2.release).report

theorem Dev.Keeps.spill {d i : Nat} {w : Win} (h : o.Keeps s) : o.Keeps (s.spill d i w) :=
  .ite h.killTask (h.onCd fun _ _ h1 => h1.pokeWords.modCore.modTask)

theorem Dev.Keeps.makeRoom {d i t depth : Nat} (h : o.Keeps s) : o.Keeps (s.makeRoom d i t depth) := by
  unfold Dev.makeRoom
  split
  · exact h
  · exact h.spill

theorem Dev.Keeps.fill {d i t depth : Nat} (h : o.Keeps s) : o.Keeps (s.fill d i t depth) := by
  unfold Dev.fill
  extract_lets
  split
  · exact .ite h.killTask (h.onCd fun _ _ h1 => h1.modCore.setTask)
  · exact h.killTask

theorem Dev.Keeps.spillAll {d i t m : Nat} (h : o.Keeps s) : o.Keeps (s.spillAll d i t m) := by
  induction m generalizing s with
  | zero => exact h
  | succ m ih =>
    unfold Dev.spillAll
    split
    · exact h
    · exact ih h.spill

theorem Dev.Keeps.preempt {d i t : Nat} (h : o.Keeps s) : o.Keeps (s.preempt d i t) := by
  unfold Dev.preempt
  extract_lets +onlyGivenNames _
  refine .ite h.killTask ?_
  extract_lets +onlyGivenNames t1
  have h1 : o.Keeps t1 := h.onCd fun _ _ h2 => h2.pokeWords.modTask.offCore
  exact .ite h1.freeTask (h1.onCd fun _ _ h3 => h3.applyPpend)

theorem Dev.Keeps.dispatch {d i t : Nat} (h : o.Keeps s) : o.Keeps (s.dispatch d i t) := by
  unfold Dev.dispatch
  extract_lets +onlyGivenNames _ t1
  have h1 : o.Keeps t1 := .ite h h.spillAll
  refine .ite h1 ?_
  extract_lets +onlyGivenNames t2 t3 _ t4
  have h2 : o.Keeps t2 := h1.onCd fun _ _ h3 => CtrlDie.Holds.loadGlobals (CtrlDie.Holds.setReady (CtrlDie.Holds.modTask h3.modCore))
  have h3 : o.Keeps t3 := h2.finc sideReg_cd8
  have h4 : o.Keeps t4 := h3.makeRoom
  extract_lets +onlyGivenNames t5
  have h5 : o.Keeps t5 := .ite h3 (.ite (h4.onCd fun _ _ h6 => h6.modCore) h4.fill)
  exact .ite h5 (h5.onCd fun _ _ h6 => (h6.forAll fun _ _ h7 => h7.setReg).modTask)

theorem Dev.Keeps.applyService {d svc : Nat} {l : List Byte} (h : o.Keeps s) : o.Keeps (s.applyService d svc l) := by
  unfold Dev.applyService
  extract_lets +onlyGivenNames _
  split
  · extract_lets +onlyGivenNames t1
    have h1 : o.Keeps t1 := h.onCd fun _ _ h2 => h2.setTask
    exact .ite (h1.onCd fun _ _ h2 => h2.activate) h1
  · exact .ite (h.onCd fun _ _ h2 => h2.modTask) h.freeTask
  · exact h.onCd fun _ _ h2 => h2.activate
  · exact h.onCd fun _ _ h2 => h2.setMbox
  · exact h.onCd fun _ _ h2 => h2.setLock

theorem Dev.Keeps.applyPend {d : Nat} {done : List (Nat × Nat)} {l : List PendSvc} (h : o.Keeps s) : o.Keeps (s.applyPend d done l) := by
  induction l generalizing s done with
  | nil => exact h
  | cons p l ih => exact .ite (ih (h.finc sideReg_cd)) (ih h.applyService)

theorem Dev.Keeps.phaseEnd {d : Nat} (h : o.Keeps s) : o.Keeps (s.phaseEnd d) := by
  unfold Dev.phaseEnd
  refine .ite (Dev.Keeps.applyPend ?_) h
  exact h.onCd fun _ _ h1 => h1

theorem Dev.Keeps.place {d m : Nat} (h : o.Keeps s) : o.Keeps (s.place d m) := by
  induction m generalizing s with
  | zero => exact h
  | succ m ih =>
    unfold Dev.place
    split
    · exact h
    · refine ih (Dev.Keeps.dispatch ?_)
      split
      · exact h.preempt
      · exact h

theorem Dev.Keeps.resched {d : Nat} (h : o.Keeps s) : o.Keeps (s.resched d) := (h.onCd fun _ _ h1 => h1.grantVoted).phaseEnd.place

theorem Dev.Keeps.tuneAbort {d why : Nat} (h : o.Keeps s) : o.Keeps (s.tuneAbort d why) := by
  unfold Dev.tuneAbort
  split
  · exact h
  · exact ((h.onCd fun _ _ h1 => h1.tuneEnd).fset sideReg_cd).fset sideReg_cd

theorem Dev.Keeps.tuneStart {d : Nat} (h : o.Keeps s) : o.Keeps (s.tuneStart d) := by
  unfold Dev.tuneStart
  extract_lets +onlyGivenNames _ _ _ _ _ _ t1
  have h1 : o.Keeps t1 := by
    unfold t1
    split
    · exact h.onCd fun _ _ h2 => h2.tuneEnd
    · exact h
  refine .ite (.ite h ((h.fset sideReg_cd).fset sideReg_cd)) ?_
  exact .fset (.fset (h1.onCd fun _ _ h2 => h2.setStat.setTune) sideReg_cd) sideReg_cd

theorem Dev.Keeps.leDeliver {d k : Nat} (h : o.Keeps s) : o.Keeps (s.leDeliver d k) := by
  unfold Dev.leDeliver
  extract_lets +onlyGivenNames t1
  have h1 : o.Keeps t1 := by
    unfold t1
    split
    · exact .ite (h.onCd fun _ _ h2 => h2.leApply) h
    · exact h
  split
  refine Dev.Keeps.forAll ?_ fun _ _ _ h3 => .ite h3.tuneStart h3.tuneAbort
  exact h1.onCd fun _ _ h2 => h2

theorem Dev.Keeps.genInvAll (h : o.Keeps s) : o.Keeps s.genInvAll :=
  h.forAll fun _ _ _ h1 => .ite (h1.onCd fun _ _ h2 => h2.genInv) h1

/-! ### Delivery (R33, R317, R338, R382) -/

theorem Dev.Keeps.skipped {d t : Nat} (h : o.Keeps s) : o.Keeps (s.skipped d t) :=
  ((h.onCd fun _ _ h1 => h1.modTask).finc sideReg_cd).report

theorem Dev.Keeps.overrun {d k t : Nat} (h : o.Keeps s) : o.Keeps (s.overrun d k t) := by
  unfold Dev.overrun
  extract_lets
  refine .ite h (.ite (Dev.Keeps.skipped ?_) (.ite h.killTask h))
  exact h.onCd fun _ _ h1 => CtrlDie.Holds.modTask h1

theorem Dev.Keeps.cycleTask {d k t : Nat} (h : o.Keeps s) : o.Keeps (s.cycleTask d k t) :=
  .ite h (.ite (h.onCd fun _ _ h1 => h1.activate) h.skipped)

theorem Dev.Keeps.mirrorDeliver {twin : Option (List Blk)} {d : Nat} (h : o.Keeps s) (hd : d < 4) : o.Keeps (s.mirrorDeliver twin d) := by
  have lane : sideReg (SH_LANE_STAT d) := by
    have ha : SH_LANE_STAT d = 0x70040 + 8 * d := rfl
    refine sideReg_low ?_ ?_ ?_ <;> simp only [ha, SH_TWIN_STAT] <;> omega
  unfold Dev.mirrorDeliver
  extract_lets +onlyGivenNames t1
  have h1 : o.Keeps t1 := by
    unfold t1
    split
    · exact h.finc lane
    · exact h.onCd fun _ _ h2 => CtrlDie.Holds.ite h2 (CtrlDie.Holds.loadMirror h2)
  split
  · exact h1.onCd fun _ _ h2 => h2.loadMirror
  · exact h1

theorem Dev.Keeps.modeEntry {d : Nat} {c : CycRec} (h : o.Keeps s) : o.Keeps (s.modeEntry d c) :=
  (((h.fset sideReg_cd8).fset sideReg_cd8).fset sideReg_cd8).fset sideReg_cd8

theorem Dev.Keeps.mapDeliver (h : o.Keeps s) : o.Keeps s.mapDeliver := by
  refine Dev.Keeps.forAll (.tly ?_ h) fun _ _ _ h1 => h1.penWrite
  exact fun _ => rfl

theorem Dev.Keeps.twinCommit {k : Nat} (h : o.Keeps s) : o.Keeps (s.twinCommit k).2 := by
  unfold Dev.twinCommit
  split
  · exact h
  · extract_lets +onlyGivenNames _ t1 t2
    have h1 : o.Keeps t1 := h.tw
    have h2 : o.Keeps t2 := .ite (h1.fset_twin rfl (by decide) (by decide)) (h1.fset_twin rfl (by decide) (by decide))
    exact .ite (.ite h2.genInvAll h2) h2

end

/-! ### The set reaches a die -/

/-- The die holds the set as its newest, and the step of its generators is made. -/
def CtrlDie.Took (e : TallySet) (x : CtrlDie) : Prop := x.tallies.head? = some e ∧ x.gensDone = true

theorem CtrlDie.Took.congr {e : TallySet} {x y : CtrlDie} (h : x.Took e) (hn : y.notes = x.notes) : y.Took e := by
  simp only [CtrlDie.notes, Prod.mk.injEq] at hn
  obtain ⟨sets, done⟩ := hn
  exact ⟨sets ▸ h.1, done ▸ h.2⟩

theorem CtrlDie.noteSet_took (x : CtrlDie) (e : TallySet) (iso : Store Nat) : (x.noteSet e iso).Took e := ⟨rfl, rfl⟩

theorem Dev.SameDies.running {o s : Dev} (h : o.SameDies s) {d : Nat} (hd : d < 8) : s.running d = o.running d := by
  have state : s.fget (GLB_DIE_STATE d) = o.fget (GLB_DIE_STATE d) := by simp only [Dev.fget, GLB_DIE_STATE, h.dies d hd]
  simp only [Dev.running, h.powered hd, state]

/-- From o to s the dies on a list took the set, and the others hold what they held. -/
structure Dev.Taken (o s : Dev) (e : TallySet) (P : Nat → Prop) : Prop where
  dies : o.SameDies s
  tly : s.sh.tly.notes = o.sh.tly.notes
  took : ∀ d, d < 4 → P d → (s.cd d).Took e
  kept : ∀ d, d < 4 → ¬ P d → (s.cd d).notes = (o.cd d).notes

section
variable {o s t : Dev} {e : TallySet} {P Q : Nat → Prop}

theorem Dev.Taken.refl : o.Taken o e (fun _ => False) := ⟨(Dev.Keeps.refl o).sameDies, rfl, fun _ _ h => h.elim, fun _ _ _ => rfl⟩

theorem Dev.Taken.imp (h : o.Taken s e P) (hq : ∀ d, P d ↔ Q d) : o.Taken s e Q where
  dies := h.dies
  tly := h.tly
  took d hd hp := h.took d hd ((hq d).2 hp)
  kept d hd hp := h.kept d hd fun hp' => hp ((hq d).1 hp')

theorem Dev.Taken.keeps (h : o.Taken s e P) (k : s.Keeps t) : o.Taken t e P where
  dies := h.dies.trans k.sameDies
  tly := k.tlyNotes.trans h.tly
  took d hd hp := (h.took d hd hp).congr (k.cdNotes d)
  kept d hd hp := (k.cdNotes d).trans (h.kept d hd hp)

theorem Dev.Taken.noteSet {d : Nat} {iso : Store Nat} (h : o.Taken s e P) (hd : d < 4) :
    o.Taken (s.modCd d (fun x => x.noteSet e iso)) e (fun i => P i ∨ i = d) where
  dies := h.dies.trans (.of_regs (Dev.modCd_variant ..) (Dev.modCd_sh ..) (Dev.modCd_regs ..))
  tly := by rw [Dev.modCd_sh, h.tly]
  took i hi hp := by
    by_cases same : i = d
    · rw [same, Dev.cd_modCd_same]
      exact CtrlDie.noteSet_took ..
    · rw [Dev.modCd, Dev.cd_setCd_ne _ _ hd hi same]
      exact h.took i hi (hp.resolve_right same)
  kept i hi hp := by
    rw [not_or] at hp
    rw [Dev.modCd, Dev.cd_setCd_ne _ _ hd hi hp.2]
    exact h.kept i hi hp.1

theorem Dev.Taken.deliverTo {c : CycRec} {twin : Option (List Blk)} {d : Nat} (h : o.Taken s e P) (hd : d < 4) :
    o.Taken (s.deliverTo e c twin d) e (fun i => P i ∨ i = d) := by
  unfold Dev.deliverTo
  extract_lets +onlyGivenNames t1 t2 t3 t4
  have h1 : s.Keeps t1 := (Dev.Keeps.refl s).fset sideReg_cd
  have h2 : s.Keeps t2 := (h1.mirrorDeliver hd).leDeliver
  have h3 : s.Keeps t3 := .ite (h2.onCd fun _ _ h5 => h5.genSteps) h2
  have h4 : o.Taken t4 e (fun i => P i ∨ i = d) := ((h.keeps h3).noteSet hd).keeps (Dev.Keeps.refl _).modeEntry
  clear_value t4
  split
  · exact h4
  · have h5 : t4.Keeps (forAll (Store.keys (t4.cd d).tasks) t4 fun s t => s.overrun d e.cycle t) :=
      (Dev.Keeps.refl t4).forAll fun _ _ _ h6 => h6.overrun
    exact h4.keeps (Dev.Keeps.resched (h5.forAll fun _ _ _ h6 => h6.cycleTask))

/-- Each die of a list that has power takes the set. -/
theorem Dev.Taken.deliverAll {c : CycRec} {twin : Option (List Blk)} {l : List Nat} (hl : ∀ d ∈ l, d < 4) (h : o.Taken s e P) :
    o.Taken (forAll l s fun s d => if s.powered d then s.deliverTo e c twin d else s) e
      (fun i => P i ∨ (i ∈ l ∧ o.powered i = true)) := by
  induction l generalizing s P with
  | nil => simpa [forAll] using h
  | cons d l ih =>
    have hd : d < 4 := hl d (List.mem_cons_self ..)
    have rest : ∀ i ∈ l, i < 4 := fun i hi => hl i (List.mem_cons_of_mem _ hi)
    rw [forAll, List.foldl_cons, ← forAll]
    have power : s.powered d = o.powered d := h.dies.powered (by omega)
    by_cases on : o.powered d = true
    · rw [if_pos (power.trans on)]
      refine (ih rest (h.deliverTo hd)).imp fun i => ?_
      simp only [List.mem_cons]
      constructor
      · rintro ((hp | rfl) | ⟨hi, hon⟩)
        · exact .inl hp
        · exact .inr ⟨.inl rfl, on⟩
        · exact .inr ⟨.inr hi, hon⟩
      · rintro (hp | ⟨rfl | hi, hon⟩)
        · exact .inl (.inl hp)
        · exact .inl (.inr rfl)
        · exact .inr ⟨hi, hon⟩
    · rw [if_neg (by rw [power]; exact on)]
      refine (ih rest h).imp fun i => ?_
      simp only [List.mem_cons]
      constructor
      · rintro (hp | ⟨hi, hon⟩)
        · exact .inl hp
        · exact .inr ⟨.inr hi, hon⟩
      · rintro (hp | ⟨rfl | hi, hon⟩)
        · exact .inl hp
        · exact absurd hon on
        · exact .inr ⟨hi, hon⟩

end

end Sys2Proof.Machine
end

section
/-!
PROOFS for the family `01_package_and_flock`: the delivery of the set closed last, and the path of the tallies from cell to control
die (O43).
-/
namespace Sys2Proof.Machine

/-! ### The delivery of the set closed last (R33, R333) -/

theorem Dev.tallySetOf_of (s : Dev) (c : CycRec) : (s.tallySetOf c).cycle = c.cycle ∧ (s.tallySetOf c).t0 = c.t0 ∧
    (s.tallySetOf c).idig = c.dig ∧ (s.tallySetOf c).cells = s.sh.tly.merged := ⟨rfl, rfl, rfl, rfl⟩

theorem Dev.handTokens_eq (s : Dev) (k : Nat) : s.handTokens k =
    (let t := if s.running 4 then s.modRd 0 (fun x => { x with tok := some k }) else s
     if t.running 5 then t.modRd 1 (fun x => { x with tok := some k }) else t) := rfl

/-- Each ring die that runs holds the token that was handed on. -/
theorem Dev.handTokens_tok (s : Dev) (k : Nat) {n : Nat} (hn : n < 2) (on : s.running (4 + n) = true) :
    ((s.handTokens k).rd n).tok = some k := by
  rw [Dev.handTokens_eq]
  extract_lets t
  have dies : s.SameDies t := (Dev.Keeps.ite (Dev.Keeps.refl s).modRd (Dev.Keeps.refl s)).sameDies
  obtain rfl | rfl : n = 0 ∨ n = 1 := by omega
  · have first : (t.rd 0).tok = some k := by
      unfold t
      rw [if_pos on]
      rfl
    clear_value t
    split
    · exact first
    · exact first
  · have run : t.running 5 = true := (dies.running (by decide)).trans on
    clear_value t
    rw [if_pos run]
    rfl

theorem Dev.Keeps.handTokens {o s : Dev} {k : Nat} (h : o.Keeps s) : o.Keeps (s.handTokens k) :=
  h.forAll fun _ _ _ h1 => .ite h1.modRd h1

theorem exec_tallyDelivery (s : State) : exec .tallyDelivery s = s.upd Dev.tallyDelivery := rfl

section
variable {s : Dev} {c : CycRec} (next : s.sh.clk.recent.find? (fun c => decide (c.cycle + 1 = s.sh.tly.closed)) = some c)
include next

theorem Dev.tallyDelivery_done (done : c.cycle < s.sh.tly.delivered) : s.tallyDelivery = s := by
  simp only [Dev.tallyDelivery, next]
  exact if_pos done

/-- A set that is delivered for the first time: every powered control die takes it, and the tokens are handed on. -/
theorem Dev.tallyDelivery_fresh (fresh : s.sh.tly.delivered ≤ c.cycle) : ∃ e t,
    e.cycle = c.cycle ∧ e.t0 = c.t0 ∧ e.idig = c.dig ∧ e.cells = s.sh.tly.merged ∧
    (s.tly (fun x => { x with delivered := c.cycle + 1 })).Taken t e (fun i => i ∈ List.range 4 ∧ s.powered i = true) ∧
    s.tallyDelivery = t.handTokens c.cycle := by
  simp only [Dev.tallyDelivery, next]
  rw [if_neg (by omega)]
  generalize hu : s.tly _ = u
  have power : ∀ i, u.powered i = s.powered i := fun i => by rw [← hu]; rfl
  have merged : u.sh.tly.merged = s.sh.tly.merged := by rw [← hu]; rfl
  have before : u.Keeps (u.mapDeliver.twinCommit c.cycle).2 := (Dev.Keeps.refl u).mapDeliver.twinCommit
  generalize u.mapDeliver.twinCommit c.cycle = p at before ⊢
  obtain ⟨twin, v⟩ := p
  dsimp only at before ⊢
  obtain ⟨cycle, t0, idig, cells⟩ := v.tallySetOf_of c
  generalize v.tallySetOf c = e at cycle t0 idig cells ⊢
  have all := Dev.Taken.deliverAll (c := c) (twin := twin) (l := List.range 4) (e := e) (by simp) (Dev.Taken.refl.keeps before)
  generalize forAll (List.range 4) v _ = w at all ⊢
  have same : v.sh.tly.merged = u.sh.tly.merged := congrArg (fun n => n.2.2.2) before.tlyNotes
  have clear : w.Keeps (if (List.range 4).any fun d => (w.cd d).leReq.isSome then w else w.fset SH_LE_PARAM_BUSY 0) :=
    .ite (Dev.Keeps.refl w) ((Dev.Keeps.refl w).fset (sideReg_low (by decide) (by decide) (by decide)))
  refine ⟨e, _, cycle, t0, idig, cells.trans (same.trans merged), (all.keeps clear).imp fun i => ?_, rfl⟩
  rw [false_or, power]

/-- What a first delivery leaves in the shepherd, in the control dies and in the ring dies. -/
theorem Dev.tallyDelivery_spec (fresh : s.sh.tly.delivered ≤ c.cycle) : s.tallyDelivery.sh.tly.delivered = c.cycle + 1 ∧
    (∀ i, i < 4 → s.powered i = true → ∃ n, (s.tallyDelivery.cd i).tallies.head? = some n ∧ n.cycle = c.cycle ∧ n.t0 = c.t0 ∧
      n.idig = c.dig ∧ n.cells = s.sh.tly.merged ∧ (s.tallyDelivery.cd i).gensDone = true) ∧
    ∀ n, n < 2 → s.running (4 + n) = true → (s.tallyDelivery.rd n).tok = some c.cycle := by
  obtain ⟨e, t, cycle, t0, idig, cells, taken, whole⟩ := Dev.tallyDelivery_fresh next fresh
  rw [whole]
  have last : t.Keeps (t.handTokens c.cycle) := (Dev.Keeps.refl t).handTokens
  refine ⟨?_, fun i hi on => ?_, fun n hn on => t.handTokens_tok c.cycle hn ?_⟩
  · exact congrArg (fun n => n.2.2.1) (last.tlyNotes.trans taken.tly)
  · obtain ⟨sets, done⟩ := (taken.took i hi ⟨List.mem_range.2 hi, on⟩).congr (last.cdNotes i)
    exact ⟨e, sets, cycle, t0, idig, cells, done⟩
  · rw [taken.dies.running (by omega)]
    exact on

end

/-- Settles O43: a tally goes the way of its slot, tally close merges cell by cell, and every powered die takes the delivered set. -/
theorem tallyPath : Obligations.TallyPath := by
  unfold Obligations.TallyPath
  intro s p toward fate h t c toB r x a e cp arrives inTime counts
  refine ⟨fun hp => ⟨fun bar => State.goes_tallyInsert_pass hp bar rfl, fun carries good due => ?_⟩,
    fun due runs master => ⟨fun open_ => ?_, fun done => ?_⟩, fun next => ⟨fun fresh => ?_, fun done => ?_⟩⟩
  · have sends : ∀ {f : Fate} {P : Dev → Prop}, P (e.tallyArrives p toward f t.pl) → s.goes (.tallyInsert p toward ⟨f, h⟩) P :=
      fun hP => State.goes_tallyInsert_sends hp carries good due hP
    have tly : e.sh.tly = s.dev.sh.tly := Dev.slotCome_tly s.dev p toB
    have regs : e.regs = s.dev.regs := Dev.slotCome_regs s.dev p toB
    have arrives_eq : arrives = e.tallyReaches p toward := rfl
    clear_value e
    rw [arrives_eq]
    refine ⟨sends Dev.tallyArrives_lost, fun away => sends (Dev.tallyArrives_away away), fun at_ inT => sends ?_,
      fun at_ other => sends ?_, fun at_ => sends (Dev.tallyArrives_late at_), fun at_ => sends ?_⟩
    · rw [Dev.tallyArrives_inTime at_ inT]
      exact ⟨congrArg (fun l : ShTly => cp :: l.copies) tly, regs, rfl⟩
    · rw [Dev.tallyArrives_otherCycle at_ other]
      exact ⟨by rw [Dev.lateTally_tly, tly], rfl⟩
    · rw [Dev.tallyArrives_crcBad at_]
      exact ⟨by rw [Dev.portCrc_tly, tly], rfl⟩
  · refine State.goes_upd (exec_tallyClose s) ?_
    rw [Dev.tallyClose_due due runs master open_]
    obtain ⟨m, notes, keys⟩ := (s.dev.comeOfs s.dev.tclose).closeCycle_notes c
    obtain ⟨-, closed, delivered, merged⟩ := notes.parts
    refine ⟨closed, fun id => ?_, delivered.trans ?_⟩
    · rw [merged, keys, Dev.comeOfs_enumerated]
    · exact congrArg ShTly.delivered (Dev.comeOfs_tly ..)
  · exact State.goes_upd (exec_tallyClose s) (Dev.tallyClose_done due done)
  · exact State.goes_upd (exec_tallyDelivery s) (Dev.tallyDelivery_spec next fresh)
  · exact State.goes_upd (exec_tallyDelivery s) (Dev.tallyDelivery_done next done)

end Sys2Proof.Machine
end

section
/-! PROOFS for the family `02_station_cycle`: the events of the cell, O40. -/
namespace Sys2Proof.Machine

/-- A powered cell with its time valid whose record of the latest apply instant holds an insertion state of 65,536: the model
    keeps that state as an unbounded number, and no hypothesis of the statement bounds it. -/
def boundlessCell : Cell :=
  { Cell.dflt 0 with
    powered := true
    tm := { (Cell.dflt 0).tm with everTime := true }
    arm := { (Cell.dflt 0).arm with lastIns := 65536 } }

/-- The block with that cell at place 0. -/
def boundlessState : State := { State.reset with dev := Dev.reset.setCell 0 boundlessCell }

/-- The cell after its next t0, with BLANK high. -/
def boundlessT0 : Cell :=
  let s := boundlessState.dev
  let c := s.cell 0
  let k := s.cellSeq c (c.nextT0 s.seq)
  let t := c.nextT0 k
  ((s.cellCome 0 t).cell 0).act (fun c => c.atT0 k t none)

theorem Cell.lastIns_le_stateWord (c : Cell) (flags : Nat) : c.arm.lastIns ≤ c.stateWord flags := by
  unfold Cell.stateWord
  omega

/-- STATE is a field of 16 bits. -/
theorem Cell.state_lt (c : Cell) : c.fget SRB_STATE_STATE < 65536 := bitsOf_lt _ 0 16

/-- Refutes O40: STATE of `SRB_STATE` has 16 bits, so it is not the whole word of R95 at the t0 of a cell whose record of the
    latest apply instant lies outside the codes of INS. -/
theorem not_cellCycleEvents : ¬ Obligations.CellCycleEvents := by
  unfold Obligations.CellCycleEvents
  intro h
  have on : boundlessState.cellOn 0 = true := by decide +kernel
  have valid : (boundlessState.dev.cell 0).tm.everTime = true := by decide +kernel
  have kept : boundlessT0.arm.lastIns = 65536 := by decide +kernel
  obtain ⟨n, -, whole, -, -, -, -, -, -, -, -, word⟩ := ((h boundlessState 0 ⟨0, .none⟩ true false on).1 valid).1
  have same : n = boundlessT0 := whole
  have low := n.state_lt
  have high := n.lastIns_le_stateWord (256 * b2n ((n.inp 0).flg.getLsbD 0) + 128 * b2n ((n.inp 0).flg.getLsbD 2)
    + 64 * b2n ((n.inp 0).flg.getLsbD 1))
  rw [← word, same, kept] at high
  rw [same] at low
  omega

end Sys2Proof.Machine
end

section
/-!
PROOFS for the family `02_station_cycle`: the DROVE, EXPLICIT and BLOCK blocks that reach a cell (O49).
-/
namespace Sys2Proof.Machine

/-! ### What following a change leaves of the outputs -/

/-- Driving turns nothing on at once. -/
theorem Cell.driveBy_gates (c : Cell) (plan : List (Nat × BitVec 4)) (dt : Gate → Nat) (off : c.pwm.gates = 0) :
    (c.driveBy plan dt).pwm.gates = 0 := by
  cases plan with
  | nil => exact off
  | cons e rest => simp [Cell.driveBy, off]

theorem Cell.settle_gates (c : Cell) (dt : Nat) (off : c.pwm.gates = 0) : (c.settle dt).pwm.gates = 0 := by
  simp only [Cell.settle]
  split
  · rfl
  · exact c.driveBy_gates _ _ off
  · exact c.driveBy_gates _ _ off
  · exact c.driveBy_gates _ _ off
  · exact c.driveBy_gates _ _ off
  · exact c.driveBy_gates _ _ off

/-- Outputs that are off are still off at once after the outputs have followed a change. -/
theorem Cell.follow_gates (c old : Cell) (off : c.pwm.gates = 0) : (c.follow old).pwm.gates = 0 := by
  unfold Cell.follow
  split
  · rfl
  · split
    · exact off
    · exact c.settle_gates _ off

/-- The outputs stay where the row of R219 stays and the cell stays a half-bridge or full-bridge cell. -/
theorem Cell.follow_same {c old : Cell} (prot : c.prot = old.prot) (row : c.row = old.row) (fb : c.fb = old.fb) : c.follow old = c := by
  unfold Cell.follow
  rw [prot, if_neg (by simp), if_pos ⟨row, fb⟩]

theorem Cell.act_pwm {c : Cell} (h : c.powered = true) (f : Cell → Cell) : (c.act f).pwm = ((f c).follow c).pwm := by
  have shape : c.act f = ((f c).follow c).latchAlarm c := if_pos h
  rw [shape]
  rfl

theorem Cell.act_arm {c : Cell} (h : c.powered = true) (f : Cell → Cell) : (c.act f).arm = (f c).arm := by
  obtain ⟨x, v, e⟩ := Cell.act_eq h f
  rw [e]
  rfl

/-- The row of R219 looks at three registers and at nothing a count changes. -/
theorem Cell.row_congr {b c : Cell} {r : Store W32} (e : b = { c with regs := r }) (cfg : b.rget SRB_CELL_CFG = c.rget SRB_CELL_CFG)
    (stat : b.rget SRB_PROT_STAT = c.rget SRB_PROT_STAT) (lock : b.rget SRB_LOCK = c.rget SRB_LOCK) : b.row = c.row ∧ b.fb = c.fb := by
  subst e
  simp only [Cell.row, Cell.cfgd, Cell.fb, Cell.latched, Cell.vinlow, Cell.forced, Cell.locked, Cell.forceA, Cell.forceB, Cell.fbit,
    Cell.fget, SRB_CELL_CFG_CFGD, SRB_CELL_CFG_FB, SRB_PROT_STAT_VINLOW, SRB_LOCK_LOCK, cfg, stat, lock]
  exact ⟨rfl, rfl⟩

/-! ### What a port counts -/

section
variable {c : Cell} {x : CPort} {h : Rx}

theorem Cell.rxCount_eq (c : Cell) (x : CPort) (h : Rx) : ∃ r, c.rxCount x h = { c with regs := r } := by
  unfold Cell.rxCount
  split <;> split <;> exact ⟨_, rfl⟩

theorem Cell.rget_finc_ne (c : Cell) (f : Field) {a : Nat} (h : a ≠ f.reg) : (c.finc f).rget a = c.rget a :=
  Store.get_set_ne _ _ _ h

/-- A port counts in two registers of its own. -/
theorem Cell.rxCount_rget {a : Nat} (crc : a ≠ SRB_RP_CRC x.idx) (sync : a ≠ SRB_RP_SYNC x.idx) : (c.rxCount x h).rget a = c.rget a := by
  unfold Cell.rxCount
  extract_lets b
  have first : b.rget a = c.rget a := by
    unfold b
    split
    · rfl
    · exact c.rget_finc_ne _ crc
  split
  · exact first
  · exact (b.rget_finc_ne _ sync).trans first

theorem rpCrc_ge (n : Nat) : 0x604 ≤ SRB_RP_CRC n ∧ 0x604 ≤ SRB_RP_SYNC n ∧ SRB_RP_CRC n ≠ SRB_RP_SYNC n := by
  simp only [SRB_RP_CRC, SRB_RP_SYNC]
  omega

theorem Cell.rxCount_low {a : Nat} (low : a < 0x604) : (c.rxCount x h).rget a = c.rget a := by
  have ⟨crc, sync, _⟩ := rpCrc_ge x.idx
  exact Cell.rxCount_rget (by omega) (by omega)

theorem Cell.fget_finc_same (c : Cell) (f : Field) (h : f.lo + f.width ≤ 32) :
    (c.finc f).fget f = min (c.fget f + 1) (2 ^ f.width - 1) := by
  have pos := Nat.two_pow_pos f.width
  rw [Cell.finc, Cell.fget_fset_same c f _ h, Nat.mod_eq_of_lt (by omega)]

/-- A block with a CRC error is counted at its port. -/
theorem Cell.rxCount_crc (bad : h.crcOk = false) : (c.rxCount x h).fget (SRB_RP_CRC_N x.idx) =
    min (c.fget (SRB_RP_CRC_N x.idx) + 1) (2 ^ (SRB_RP_CRC_N x.idx).width - 1) := by
  have counted := c.fget_finc_same (SRB_RP_CRC_N x.idx) (by simp [SRB_RP_CRC_N])
  have apart : (SRB_RP_CRC_N x.idx).reg ≠ (SRB_RP_SYNC_BGAP x.idx).reg := (rpCrc_ge x.idx).2.2
  unfold Cell.rxCount
  rw [bad]
  simp only [Bool.false_eq_true, if_false]
  split
  · exact counted
  · exact (Cell.fget_fset_ne _ _ (by simp [SRB_RP_SYNC_BGAP]) (.inl apart)).trans counted

/-- A gap in `BSEQ` is counted at its port. -/
theorem Cell.rxCount_gap (good : h.crcOk = true) (gap : h.follows = false) : (c.rxCount x h).fget (SRB_RP_SYNC_BGAP x.idx) =
    min (c.fget (SRB_RP_SYNC_BGAP x.idx) + 1) (2 ^ (SRB_RP_SYNC_BGAP x.idx).width - 1) := by
  unfold Cell.rxCount
  simp only [good, gap, if_true, Bool.false_eq_true, if_false]
  exact c.fget_finc_same _ (by simp [SRB_RP_SYNC_BGAP])

theorem Cell.rxCount_quiet (good : h.crcOk = true) (follows : h.follows = true) : c.rxCount x h = c := by
  unfold Cell.rxCount
  simp only [good, follows, if_true]

theorem Cell.rxCount_row : (c.rxCount x h).row = c.row ∧ (c.rxCount x h).fb = c.fb := by
  obtain ⟨r, e⟩ := c.rxCount_eq x h
  exact Cell.row_congr e (Cell.rxCount_low (by decide)) (Cell.rxCount_low (by decide)) (Cell.rxCount_low (by decide))

/-- Counting leaves the outputs as they are. -/
theorem Cell.rxCount_follow : (c.rxCount x h).follow c = c.rxCount x h := by
  obtain ⟨r, e⟩ := c.rxCount_eq x h
  have prot : (c.rxCount x h).prot = c.prot := by rw [e]
  exact Cell.follow_same prot Cell.rxCount_row.1 Cell.rxCount_row.2

theorem Cell.rxCount_arm : (c.rxCount x h).arm = c.arm := by
  obtain ⟨r, e⟩ := c.rxCount_eq x h
  rw [e]

theorem Cell.rxCount_pwm : (c.rxCount x h).pwm = c.pwm := by
  obtain ⟨r, e⟩ := c.rxCount_eq x h
  rw [e]

/-! ### The use of a block -/

theorem Cell.use_arm_good {f : Cell → Cell} (on : c.powered = true) (good : h.crcOk = true) :
    (c.use x h f).arm = (f (c.rxCount x h)).arm := by
  rw [Cell.use, Cell.act_arm on]
  simp only [good, if_true]

theorem Cell.use_gaps_good {f : Cell → Cell} (on : c.powered = true) (good : h.crcOk = true) :
    (c.use x h f).fget (SRB_RP_SYNC_BGAP x.idx) = (f (c.rxCount x h)).fget (SRB_RP_SYNC_BGAP x.idx) := by
  have lat : (SRB_RP_SYNC_BGAP x.idx).reg ≠ SRB_ALARM_LAT := Nat.ne_of_gt (Nat.lt_of_lt_of_le (by decide) (rpCrc_ge x.idx).2.1)
  rw [Cell.use, Cell.act_fget on _ lat]
  simp only [good, if_true]

/-- Outputs that the use of a block turns off stay off. -/
theorem Cell.use_gates_good {f : Cell → Cell} (on : c.powered = true) (good : h.crcOk = true)
    (off : (f (c.rxCount x h)).pwm.gates = 0) : (c.use x h f).pwm.gates = 0 := by
  rw [Cell.use, Cell.act_pwm on]
  simp only [good, if_true]
  exact Cell.follow_gates _ _ off

/-- A block with a CRC error is not used. -/
theorem Cell.use_bad {f : Cell → Cell} (on : c.powered = true) (bad : h.crcOk = false) :
    (c.use x h f).arm = c.arm ∧ (c.use x h f).pwm = c.pwm ∧ (c.use x h f).fget (SRB_RP_CRC_N x.idx) =
      min (c.fget (SRB_RP_CRC_N x.idx) + 1) (2 ^ (SRB_RP_CRC_N x.idx).width - 1) := by
  have lat : (SRB_RP_CRC_N x.idx).reg ≠ SRB_ALARM_LAT := Nat.ne_of_gt (Nat.lt_of_lt_of_le (by decide) (rpCrc_ge x.idx).1)
  have unused : c.use x h f = c.act (fun c => c.rxCount x h) := by simp only [Cell.use, bad, Bool.false_eq_true, if_false]
  refine ⟨?_, ?_, ?_⟩
  · rw [unused, Cell.act_arm on, Cell.rxCount_arm]
  · rw [unused, Cell.act_pwm on, Cell.rxCount_follow, Cell.rxCount_pwm]
  · rw [unused, Cell.act_fget on _ lat, Cell.rxCount_crc bad]

end

/-! ### A block at a port -/

section
variable {s : State} {p : Place} {x : CPort} {ty : BitVec 4} {pl : Payload} {rx : Rx} {f : Cell → Cell} {cmd : Instr}

/-- A block that a port hears is repeated, and its use shows in the cell. -/
theorem State.goes_onBlock {P : Cell → Prop} (e : exec cmd s = s.onBlock p x ty pl rx f) (hp : s.dev.hasPlace p = true)
    (hears : (s.dev.cell p).hears x = true) (h : P ((s.dev.cell p).use x rx f)) : s.goes cmd (fun d =>
      (d.out = .repeated p x.other rx.bseq ty pl :: s.dev.out ∧ d.regs = s.dev.regs) ∧ P (d.cell p)) := by
  refine State.goes_updIf e hp ?_
  rw [if_pos hears, ite_self]
  refine ⟨⟨rfl, rfl⟩, ?_⟩
  have same : ((s.dev.modCell p (fun c => c.use x rx f)).emit (.repeated p x.other rx.bseq ty pl)).cell p =
      (s.dev.cell p).use x rx f := Dev.cell_modCell_same ..
  rw [same]
  exact h

/-- A port without lock hears nothing. -/
theorem State.goes_onBlock_deaf (e : exec cmd s = s.onBlock p x ty pl rx f) (hp : s.dev.hasPlace p = true)
    (deaf : (s.dev.cell p).hears x = false) : s.goes cmd (fun d => d = s.dev) := by
  refine State.goes_updIf e hp ?_
  rw [deaf]
  rfl

theorem Cell.powered_of_hears {c : Cell} (h : c.hears x = true) : c.powered = true := (Bool.and_eq_true_iff.1 h).1

theorem State.goes.mono {P Q : Dev → Prop} (h : s.goes cmd P) (sub : ∀ d, P d → Q d) : s.goes cmd Q := by
  obtain ⟨d, e, hd⟩ := h
  exact ⟨d, e, sub d hd⟩

/-- A block with a CRC error is repeated and counted, and not used. -/
theorem State.goes_onBlock_bad (e : exec cmd s = s.onBlock p x ty pl rx f) (hp : s.dev.hasPlace p = true)
    (hears : (s.dev.cell p).hears x = true) (bad : rx.crcOk = false) : s.goes cmd (fun d =>
      (d.out = .repeated p x.other rx.bseq ty pl :: s.dev.out ∧ d.regs = s.dev.regs) ∧
      (d.cell p).arm = (s.dev.cell p).arm ∧ (d.cell p).pwm = (s.dev.cell p).pwm ∧ (d.cell p).fget (SRB_RP_CRC_N x.idx) =
        min ((s.dev.cell p).fget (SRB_RP_CRC_N x.idx) + 1) (2 ^ (SRB_RP_CRC_N x.idx).width - 1)) :=
  State.goes_onBlock (P := fun n => n.arm = (s.dev.cell p).arm ∧ n.pwm = (s.dev.cell p).pwm ∧ n.fget (SRB_RP_CRC_N x.idx) =
      min ((s.dev.cell p).fget (SRB_RP_CRC_N x.idx) + 1) (2 ^ (SRB_RP_CRC_N x.idx).width - 1))
    e hp hears (Cell.use_bad (Cell.powered_of_hears hears) bad)

/-- A good block is repeated, and its use shows in what the cell holds for its next reloads. -/
theorem State.goes_onBlock_arm (P : CellArm → Prop) (e : exec cmd s = s.onBlock p x ty pl rx f) (hp : s.dev.hasPlace p = true)
    (hears : (s.dev.cell p).hears x = true) (good : rx.crcOk = true) (h : P (f ((s.dev.cell p).rxCount x rx)).arm) :
    s.goes cmd (fun d => (d.out = .repeated p x.other rx.bseq ty pl :: s.dev.out ∧ d.regs = s.dev.regs) ∧ P (d.cell p).arm) := by
  refine State.goes_onBlock (P := fun n => P n.arm) e hp hears ?_
  rw [Cell.use_arm_good (Cell.powered_of_hears hears) good]
  exact h

end

/-! ### A drove and an explicit block -/

section
variable {c : Cell} {x : CPort} {pl : Payload}

/-- The list of held blocks after a first copy of a cycle. -/
theorem Cell.receive_first {l : List Held} (first : l.find? (fun h => decide (plSeq h.pl = plSeq (c.adjust pl))) = none) :
    ∃ n ∈ (c.receive l pl).1, n.pl = c.adjust pl ∧ n.done = false ∧ n.late = !(decide (20 ≤ c.untilApply (c.adjust pl)) &&
      decide (c.untilApply (c.adjust pl) ≤ 163840) && decide ((l.filter (fun h => !h.late && !h.done)).length < 4)) := by
  simp only [Cell.receive, first]
  exact ⟨_, List.mem_append_right _ (List.mem_singleton_self _), rfl, rfl, rfl⟩

/-- A later copy of a cycle is compared with the one held. -/
theorem Cell.receive_copy {l : List Held} {h : Held} (held : l.find? (fun h => decide (plSeq h.pl = plSeq (c.adjust pl))) = some h) :
    c.receive l pl = (l, decide (h.pl ≠ c.adjust pl)) := by
  simp only [Cell.receive, held]

theorem Cell.droveIn_v1 (v1 : c.v1 = true) : c.droveIn x pl = c := if_pos v1

theorem Cell.droveIn_reserved (v2 : c.v1 = false) (odd : bitsOf (Pl.get pl 0 8) 0 4 ≠ 2 ∨ 12 ≤ bitsOf (Pl.get pl 0 8) 4 4) :
    c.droveIn x pl = c.finc (SRB_RP_SYNC_BGAP x.idx) := by
  unfold Cell.droveIn
  rw [if_neg (by simp [v2])]
  exact if_pos odd

theorem Cell.droveIn_read (v2 : c.v1 = false) (sub : bitsOf (Pl.get pl 0 8) 0 4 = 2) (fold : bitsOf (Pl.get pl 0 8) 4 4 < 12) :
    c.droveIn x pl = if !c.tm.everTime || decide (bitsOf (Pl.get pl 0 8) 4 4 ≠ c.fold) || !c.aboveFloor pl then c
      else
        let l := c.receive c.arm.droves (pl &&& droveBits)
        let n := { c with arm := { c.arm with droves := l.1, dmis := c.arm.dmis || l.2 } }
        if l.2 then n.finc SRB_CNT_DMIS_N else n := by
  have even : ¬ (bitsOf (Pl.get pl 0 8) 0 4 ≠ 2 ∨ Config.nFolds ≤ bitsOf (Pl.get pl 0 8) 4 4) := by
    rw [show Config.nFolds = 12 from rfl]
    omega
  unfold Cell.droveIn
  rw [if_neg (by simp [v2]), if_neg even]

theorem Cell.droveIn_barred (v2 : c.v1 = false) (sub : bitsOf (Pl.get pl 0 8) 0 4 = 2) (fold : bitsOf (Pl.get pl 0 8) 4 4 < 12)
    (barred : c.tm.everTime = false ∨ c.aboveFloor pl = false ∨ bitsOf (Pl.get pl 0 8) 4 4 ≠ c.fold) : c.droveIn x pl = c := by
  rw [Cell.droveIn_read v2 sub fold, if_pos]
  rcases barred with h | h | h <;> simp [h]

theorem Cell.droveIn_held (v2 : c.v1 = false) (sub : bitsOf (Pl.get pl 0 8) 0 4 = 2) (fold : bitsOf (Pl.get pl 0 8) 4 4 < 12)
    (time : c.tm.everTime = true) (above : c.aboveFloor pl = true) (mine : bitsOf (Pl.get pl 0 8) 4 4 = c.fold) :
    (c.droveIn x pl).arm = { c.arm with
      droves := (c.receive c.arm.droves (pl &&& droveBits)).1
      dmis := c.arm.dmis || (c.receive c.arm.droves (pl &&& droveBits)).2 } := by
  rw [Cell.droveIn_read v2 sub fold, if_neg (by simp [time, above, mine])]
  extract_lets l arm n
  split <;> rfl

/-- A drove of the subtype and folds of R85 adds nothing to the gaps its port has counted. -/
theorem Cell.droveIn_gaps (sub : bitsOf (Pl.get pl 0 8) 0 4 = 2) (fold : bitsOf (Pl.get pl 0 8) 4 4 < 12) :
    (c.droveIn x pl).fget (SRB_RP_SYNC_BGAP x.idx) = c.fget (SRB_RP_SYNC_BGAP x.idx) := by
  have apart : (SRB_RP_SYNC_BGAP x.idx).reg ≠ SRB_CNT_DMIS_N.reg := Nat.ne_of_gt (Nat.lt_of_lt_of_le (by decide) (rpCrc_ge x.idx).2.1)
  cases v1 : c.v1 with
  | true => rw [Cell.droveIn_v1 v1]
  | false =>
    rw [Cell.droveIn_read v1 sub fold]
    split
    · rfl
    · extract_lets l arm n
      split
      · exact Cell.fget_fset_ne n _ (by decide) (.inl apart)
      · rfl

theorem Cell.explicitIn_barred (h : c.v1 = false ∨ c.tm.everTime = false ∨ c.aboveFloor pl = false) : c.explicitIn pl = c := by
  unfold Cell.explicitIn
  rw [if_pos]
  rcases h with h | h | h <;> simp [h]

theorem Cell.explicitIn_held (v1 : c.v1 = true) (time : c.tm.everTime = true) (above : c.aboveFloor pl = true) :
    (c.explicitIn pl).arm = { c.arm with expl := (c.receive c.arm.expl pl).1 } := by
  unfold Cell.explicitIn
  rw [if_neg (by simp [v1, time, above])]

/-- What a cell holds a block against does not depend on what its ports have counted. -/
theorem Cell.rxCount_sees (c : Cell) (x : CPort) (h : Rx) :
    let b := c.rxCount x h
    b.v1 = c.v1 ∧ b.tm = c.tm ∧ b.arm = c.arm ∧ b.fold = c.fold ∧ (∀ q, b.aboveFloor q = c.aboveFloor q) ∧
      ∀ l q, b.receive l q = c.receive l q := by
  have fold : (c.rxCount x h).fold = c.fold := by
    simp only [Cell.fold, Cell.fget]
    rw [Cell.rxCount_low (by decide)]
  obtain ⟨r, e⟩ := c.rxCount_eq x h
  refine ⟨?_, ?_, ?_, fold, fun q => ?_, fun l q => ?_⟩
  · rw [e]
  · rw [e]
  · rw [e]
  · rw [e]
    rfl
  · rw [e]
    rfl

end

/-! ### A BLOCK block -/

section
variable {c : Cell} {q : W16}

theorem Cell.blockAct_arm (c : Cell) (q : W16) : (c.blockAct q).arm = { c.arm with
    ins := .block, modSt := none, modCmp := 0, carry := 0, droves := heldBlock q c.arm.droves
    expl := heldBlock q c.arm.expl, seqFloor := some (laterSeq c.arm.seqFloor q) } := by
  unfold Cell.blockAct
  extract_lets _ _ _ b
  split <;> rfl

/-- The rows of R219 above the fifth look at no force code. -/
theorem Cell.row_ge_four_iff (c : Cell) : 4 ≤ c.row ↔
    ((!c.powered || !c.cfgd) = false ∧ c.prot.bypConf = false ∧ (c.prot.semi || c.prot.bfired) = false) := by
  unfold Cell.row
  split_ifs with off byp semi
  · simp [off]
  · simp [byp]
  · simp [semi]
  all_goals simp [off, byp, semi]

/-- An ACT block turns the outputs off at once, unless a row above it holds them. -/
theorem Cell.blockAct_gates (low : 4 ≤ c.row) : (c.blockAct q).pwm.gates = 0 := by
  unfold Cell.blockAct
  extract_lets _ _ _ b
  have word : b.rget SRB_CELL_CFG = c.rget SRB_CELL_CFG := Store.get_set_ne cellRegReset c.regs (k := SRB_PWM_FORCE) (j := SRB_CELL_CFG) 0 (by decide)
  have cfg : b.cfgd = c.cfgd := by
    simp only [Cell.cfgd, Cell.fbit, Cell.fget, SRB_CELL_CFG_CFGD, word]
    rfl
  have still : 4 ≤ b.row := by
    rw [Cell.row_ge_four_iff] at low ⊢
    rw [cfg]
    exact low
  rw [if_pos still]

/-- Of the blocks held, an ACT block leaves those done with and those of later cycles. -/
theorem mem_heldBlock {l : List Held} {n : Held} (h : n ∈ heldBlock q l) : n.done = true ∨ 0 < seqDiff (plSeq n.pl) q := by
  simpa using (List.mem_filter.1 h).2

end

/-- Settles O49: a block at a locked port is repeated, counted when its CRC is bad, and used as its type and the cell's version
    and time have it. -/
theorem cellDroveBlocks : Obligations.CellDroveBlocks := by
  unfold Obligations.CellDroveBlocks
  intro s p x pl h rx c a b inTime same sent up1 counted sub fold hp
  have drove : exec (.droveReceive p x pl rx) s = s.onBlock p x 0x1 pl rx (fun c => c.droveIn x pl) := rfl
  have expl : exec (.explicitReceive p x pl rx) s = s.onBlock p x 0xB pl rx (fun c => c.explicitIn pl) := rfl
  have block : exec (.blockAct p x pl rx) s =
      s.onBlock p x 0x8 pl rx (fun c => if bitsOf (Pl.get pl 0 8) 0 4 = 1 then c.blockAct (plSeq pl) else c) := rfl
  refine ⟨fun deaf => ⟨State.goes_onBlock_deaf drove hp deaf, State.goes_onBlock_deaf expl hp deaf, State.goes_onBlock_deaf block hp deaf⟩,
    fun hears bad => ⟨State.goes_onBlock_bad drove hp hears bad, State.goes_onBlock_bad expl hp hears bad,
      State.goes_onBlock_bad block hp hears bad⟩, fun hears good => ?_⟩
  have on : c.powered = true := Cell.powered_of_hears hears
  obtain ⟨v1, tm, arm, own, floor, holds⟩ := c.rxCount_sees x rx
  refine ⟨fun gap two low => ?_, fun v2 odd => ?_, fun v2 two low time above mine => ⟨fun first => ?_, fun held => ?_⟩,
    fun v2 two low barred => ?_, fun isV1 => ?_, fun isV1 time above => ⟨fun first => ?_, fun held => ?_⟩, fun barred => ?_,
    fun act => ?_, fun idle => ?_⟩
  · have gaps := (Cell.use_gaps_good (c := c) (x := x) (f := fun c => c.droveIn x pl) on good).trans ((Cell.droveIn_gaps two low).trans (Cell.rxCount_gap good gap))
    exact (State.goes_onBlock (P := fun n => n.fget (SRB_RP_SYNC_BGAP x.idx) = up1 (SRB_RP_SYNC_BGAP x.idx)) drove hp hears gaps).mono
      fun d h => h.2
  · have reserved := Cell.droveIn_reserved (x := x) (v1.trans v2) odd
    refine State.goes_onBlock (P := fun n => n.arm = c.arm ∧
      (rx.follows = true → n.fget (SRB_RP_SYNC_BGAP x.idx) = up1 (SRB_RP_SYNC_BGAP x.idx))) drove hp hears ⟨?_, fun follows => ?_⟩
    · rw [Cell.use_arm_good on good, reserved]
      exact arm
    · rw [Cell.use_gaps_good on good, reserved, Cell.rxCount_quiet good follows]
      exact c.fget_finc_same _ (by simp [SRB_RP_SYNC_BGAP])
  · have kept := Cell.droveIn_held (x := x) (v1.trans v2) two low (tm ▸ time) ((floor pl).trans above) (mine.trans own.symm)
    refine State.goes_onBlock_arm (fun n => ∃ h ∈ n.droves, h.pl = a ∧ h.done = false ∧ h.late = !inTime c.arm.droves a)
      drove hp hears good ?_
    rw [kept, arm, holds]
    exact Cell.receive_first first
  · have kept := Cell.droveIn_held (x := x) (v1.trans v2) two low (tm ▸ time) ((floor pl).trans above) (mine.trans own.symm)
    refine State.goes_onBlock_arm (fun n => n.droves = c.arm.droves ∧ n.dmis = (c.arm.dmis || decide (h.pl ≠ a))) drove hp hears good ?_
    rw [kept, arm, holds, Cell.receive_copy held]
    exact ⟨rfl, rfl⟩
  · refine State.goes_onBlock_arm (fun n => n = c.arm) drove hp hears good ?_
    rw [Cell.droveIn_barred (v1.trans v2) two low (by rw [tm, floor, own]; exact barred)]
    exact arm
  · refine State.goes_onBlock_arm (fun n => n = c.arm) drove hp hears good ?_
    rw [Cell.droveIn_v1 (v1.trans isV1)]
    exact arm
  · refine State.goes_onBlock_arm (fun n => ∃ h ∈ n.expl, h.pl = b ∧ h.done = false ∧ h.late = !inTime c.arm.expl b)
      expl hp hears good ?_
    rw [Cell.explicitIn_held (v1.trans isV1) (tm ▸ time) ((floor pl).trans above), arm, holds]
    exact Cell.receive_first first
  · refine State.goes_onBlock_arm (fun n => n.expl = c.arm.expl) expl hp hears good ?_
    rw [Cell.explicitIn_held (v1.trans isV1) (tm ▸ time) ((floor pl).trans above), arm, holds, Cell.receive_copy held]
  · refine State.goes_onBlock_arm (fun n => n = c.arm) expl hp hears good ?_
    rw [Cell.explicitIn_barred (by rw [v1, tm, floor]; exact barred)]
    exact arm
  · have acts : (if bitsOf (Pl.get pl 0 8) 0 4 = 1 then (c.rxCount x rx).blockAct (plSeq pl) else c.rxCount x rx) =
        (c.rxCount x rx).blockAct (plSeq pl) := if_pos act
    have after := congrArg Cell.arm acts
    rw [Cell.blockAct_arm, arm] at after
    refine State.goes_onBlock (P := fun n => n.arm.ins = .block ∧ n.arm.modSt = none ∧ (4 ≤ c.row → n.pwm.gates = 0) ∧
      (∀ h ∈ n.arm.droves, h.done = true ∨ 0 < seqDiff (plSeq h.pl) (plSeq pl)) ∧
      n.arm.seqFloor = some (laterSeq c.arm.seqFloor (plSeq pl))) block hp hears ?_
    rw [Cell.use_arm_good on good, after]
    refine ⟨rfl, rfl, fun low => Cell.use_gates_good on good ?_, fun h member => mem_heldBlock member, rfl⟩
    rw [acts]
    exact Cell.blockAct_gates (Cell.rxCount_row.1.symm ▸ low)
  · have stays : (if bitsOf (Pl.get pl 0 8) 0 4 = 1 then (c.rxCount x rx).blockAct (plSeq pl) else c.rxCount x rx) = c.rxCount x rx :=
      if_neg idle
    refine State.goes_onBlock_arm (fun n => n = c.arm) block hp hears good ?_
    rw [stays]
    exact arm

end Sys2Proof.Machine
end

section
/-!
PROOFS for the family `02_station_cycle`: what the writes of the ring dies, of the timetable, the fold map and the streams leave of
the clock, of the tallies received and of the registers beside their own.
-/
namespace Sys2Proof.Machine

/-! ### The clock, the tallies received, and fields of registers -/

/-- Block s has the clock and the tally copies of o, and the fields of K read in it as in o. -/
structure Dev.Steady (K : Field → Prop) (o s : Dev) : Prop where
  clk : s.sh.clk = o.sh.clk
  copies : s.sh.tly.copies = o.sh.tly.copies
  fields : ∀ f, K f → s.fget f = o.fget f

/-- No field at all: the relation is then about the clock and the tallies alone. -/
def noField (_ : Field) : Prop := False

/-- A field below the windows of the ring dies, the AQ and the control dies (R642) that no report writes and that lies beside
    what the timetable shows. -/
def quietField (f : Field) : Prop :=
  f.reg < 0x200000 ∧ ¬ noteReg f.reg ∧ f.reg ≠ SH_TWIN_STAT ∧ f.reg ≠ TIM_CYC_MIN ∧ (f.reg = TIM_CYC_STAT → 24 ≤ f.lo)

section
variable {K : Field → Prop} {o s : Dev}

theorem Dev.Steady.refl (s : Dev) : s.Steady K s := ⟨rfl, rfl, fun _ _ => rfl⟩

theorem Dev.Steady.ite {a b : Dev} {c : Prop} [Decidable c] (ha : o.Steady K a) (hb : o.Steady K b) :
    o.Steady K (if c then a else b) := by
  split <;> assumption

/-- What each step of a run leaves, the run leaves. -/
theorem Dev.Steady.forAll {α : Type} {f : Dev → α → Dev} {l : List α} (h : o.Steady K s)
    (hf : ∀ t, ∀ a ∈ l, o.Steady K t → o.Steady K (f t a)) : o.Steady K (forAll l s f) := by
  unfold Machine.forAll
  induction l generalizing s with
  | nil => exact h
  | cons a l ih => exact ih (hf s a (List.mem_cons_self ..) h) fun t b hb => hf t b (List.mem_cons_of_mem _ hb)

theorem Dev.Steady.trans {t : Dev} (h : o.Steady K s) (h1 : s.Steady K t) : o.Steady K t :=
  ⟨h1.clk.trans h.clk, h1.copies.trans h.copies, fun f hf => (h1.fields f hf).trans (h.fields f hf)⟩

theorem Dev.Steady.fset {g : Field} {v : Nat} (h : o.Steady K s) (hg : ∀ t f, K f → (Dev.fset t g v).fget f = t.fget f) :
    o.Steady K (s.fset g v) :=
  ⟨h.clk, h.copies, fun f hf => (hg s f hf).trans (h.fields f hf)⟩

theorem Dev.Steady.emit {e : Emission} (h : o.Steady K s) : o.Steady K (s.emit e) := { h with }
theorem Dev.Steady.free (h : o.Steady K s) : o.Steady K s.free.2 := { h with }
theorem Dev.Steady.setCell {p : Place} {c : Cell} (h : o.Steady K s) : o.Steady K (s.setCell p c) := { h with }
theorem Dev.Steady.modCell {p : Place} {f : Cell → Cell} (h : o.Steady K s) : o.Steady K (s.modCell p f) := h.setCell
theorem Dev.Steady.setCend {i : Nat} {x : CellEnd} (h : o.Steady K s) : o.Steady K (s.setCend i x) := { h with }
theorem Dev.Steady.setStream {i : Nat} {q : Option Stream} (h : o.Steady K s) : o.Steady K (s.setStream i q) := { h with }
theorem Dev.Steady.modAq {f : AqDie → AqDie} (h : o.Steady K s) : o.Steady K (s.modAq f) := { h with }
theorem Dev.Steady.tw {f : ShTw → ShTw} (h : o.Steady K s) : o.Steady K (s.tw f) := { h with }

theorem Dev.Steady.modRd {n : Nat} {f : RingDie → RingDie} (h : o.Steady K s) : o.Steady K (s.modRd n f) := by
  rcases n with _ | n <;> exact { h with }

theorem Dev.Steady.tly {f : ShTly → ShTly} (hf : ∀ x, (f x).copies = x.copies) (h : o.Steady K s) : o.Steady K (s.tly f) :=
  { h with copies := (hf _).trans h.copies }

/-! ### Block streams and the ring dies' own writes -/

theorem Dev.Steady.setLine {q : Sender} {l : Option Line} (h : o.Steady K s) : o.Steady K (s.setLine q l) := by
  unfold Dev.setLine
  cases q with
  | ringEnd r e => exact h.modRd
  | cell p x => exact h.modCell

theorem Dev.Steady.openLine {q : Sender} (h : o.Steady K s) : o.Steady K (s.openLine q).2 := by
  unfold Dev.openLine
  split
  · exact h
  · exact h.free.setLine

theorem Dev.Steady.placeBlock {q : Sender} {ty : BitVec 4} {t : Int} (h : o.Steady K s) : o.Steady K (s.placeBlock q ty t).2 := by
  have h1 := h.openLine (q := q)
  simp only [Dev.placeBlock]
  split_ifs <;> exact h1.setLine

theorem Dev.Steady.sendFrom {q : Sender} {ty : BitVec 4} {t : Int} {pl : Int → Payload} (h : o.Steady K s) :
    o.Steady K (s.sendFrom q ty t pl) := by
  have h1 := h.placeBlock (q := q) (ty := ty) (t := t)
  simp only [Dev.sendFrom]
  split
  · exact h1.emit
  · exact h1

theorem Dev.Steady.send {q : Sender} {ty : BitVec 4} {pl : Payload} (h : o.Steady K s) : o.Steady K (s.send q ty pl) := h.sendFrom

theorem Dev.Steady.ownWrite {p : Place} {a : Nat} {v : W32} (h : o.Steady K s) : o.Steady K (s.ownWrite p a v) :=
  h.free.setCend.send.modCell

theorem Dev.Steady.writeSlots {r : Nat} {cfg : W64} {anch : Nat} {eff : W16} (h : o.Steady K s) :
    o.Steady K (s.writeSlots r cfg anch eff) := by
  unfold Dev.writeSlots
  refine Dev.Steady.forAll h fun t e _ h1 => ?_
  dsimp only
  split
  · exact h1
  · exact h1.ownWrite.ownWrite.ownWrite.ownWrite.ownWrite

theorem Dev.Steady.penWrite {id : Nat} (h : o.Steady K s) : o.Steady K (s.penWrite id) := by
  unfold Dev.penWrite
  split
  · exact h
  · exact .ite h h.ownWrite

theorem Dev.Steady.recheckLoop {n : Nat} (h : o.Steady K s) : o.Steady K (s.recheckLoop n) := by
  induction n generalizing s with
  | zero => exact h
  | succ n ih =>
    unfold Dev.recheckLoop
    extract_lets
    split
    · exact h
    · refine ih (.ite h.setStream ?_)
      split
      · exact h.setStream.ownWrite
      · exact h.setStream

/-! ### What registers show -/

theorem rpath_high (n i : Nat) : 0x200000 ≤ RDn_RPATH n i := by
  unfold RDn_RPATH rdBase
  omega

theorem hubStat_high (n i : Nat) : 0x200000 ≤ RDn_HUB_STAT n i := by
  unfold RDn_HUB_STAT rdBase
  omega

theorem aqCfg_high (c : Nat) : 0x200000 ≤ AQ_CH_CFG c := by
  unfold AQ_CH_CFG aqBase
  omega

section
variable (quiet : ∀ f, K f → quietField f)
include quiet

theorem Dev.Steady.noted {t : Dev} (h : o.Steady K s) (n : s.Noted t) : o.Steady K t where
  clk := n.clk.trans h.clk
  copies := (congrArg ShTly.copies n.tly).trans h.copies
  fields f hf :=
    have ⟨_, unnoted, _⟩ := quiet f hf
    (n.fget unnoted).trans (h.fields f hf)

theorem Dev.Steady.report {cls : Cls} {src : Src} {inst code det : Nat} (h : o.Steady K s) :
    o.Steady K (s.report cls src inst code det) := h.noted quiet (Dev.Noted.refl s).report

/-- A field in the windows of the ring dies, the AQ and the control dies. -/
theorem Dev.Steady.fset_high {g : Field} {v : Nat} (h : o.Steady K s) (hg : 0x200000 ≤ g.reg) : o.Steady K (s.fset g v) :=
  h.fset fun t f hf => Dev.fget_fset_reg t v (Nat.ne_of_lt ((quiet f hf).1.trans_le hg))

theorem Dev.Steady.rfset {f : Nat → Nat → Field} {r v : Nat} (h : o.Steady K s) (hf : ∀ n i, 0x200000 ≤ (f n i).reg) :
    o.Steady K (s.rfset f r v) :=
  .ite (h.fset_high quiet (hf _ _)) (have h1 := h.fset_high quiet (hf 0 r); .ite h1 (h1.fset_high quiet (hf _ _)))

theorem Dev.Steady.fset_twin {g : Field} {v : Nat} (h : o.Steady K s) (hg : g.reg = SH_TWIN_STAT) : o.Steady K (s.fset g v) :=
  h.fset fun t f hf =>
    have ⟨_, _, twin, _⟩ := quiet f hf
    Dev.fget_fset_reg t v (hg ▸ twin)

theorem Dev.Steady.fset_cycMin {g : Field} {v : Nat} (h : o.Steady K s) (hg : g.reg = TIM_CYC_MIN) : o.Steady K (s.fset g v) :=
  h.fset fun t f hf =>
    have ⟨_, _, _, min, _⟩ := quiet f hf
    Dev.fget_fset_reg t v (hg ▸ min)

theorem Dev.Steady.fset_limring {v : Nat} (h : o.Steady K s) : o.Steady K (s.fset TIM_CYC_STAT_LIMRING v) :=
  h.fset fun t f hf =>
    have ⟨_, _, _, _, above⟩ := quiet f hf
    Dev.fget_fset_ne t v (by decide) (if hr : f.reg = TIM_CYC_STAT then .inr (.inr (above hr)) else .inl hr)

theorem Dev.Steady.twinShow (h : o.Steady K s) : o.Steady K s.twinShow := .ite h ((h.fset_twin quiet rfl).fset_twin quiet rfl)

theorem Dev.Steady.setMins {m : Mins} (h : o.Steady K s) : o.Steady K (s.setMins m) :=
  have h1 := ((h.fset_cycMin quiet rfl).fset_cycMin quiet rfl).fset_cycMin quiet rfl
  (((h1.fset_cycMin quiet rfl).fset_cycMin quiet rfl).fset_limring quiet).twinShow quiet

theorem Dev.Steady.showPath {r : Nat} (h : o.Steady K s) : o.Steady K (s.showPath r) :=
  (((h.rfset quiet rpath_high).rfset quiet rpath_high).rfset quiet rpath_high).rfset quiet rpath_high

theorem Dev.Steady.growCheck {r : Nat} (h : o.Steady K s) : o.Steady K (s.growCheck r) := by
  unfold Dev.growCheck
  extract_lets f ov t
  have h1 : o.Steady K t := h.rfset quiet rpath_high
  exact .ite h (.ite (h1.report quiet) h1)

theorem Dev.Steady.pathChange {r : Nat} (h : o.Steady K s) : o.Steady K (s.pathChange r) := (h.showPath quiet).growCheck quiet

theorem Dev.Steady.showHub {r : Nat} (h : o.Steady K s) : o.Steady K (s.showHub r) :=
  ((h.rfset quiet hubStat_high).rfset quiet hubStat_high).rfset quiet hubStat_high

theorem Dev.Steady.recheckStreams (h : o.Steady K s) : o.Steady K s.recheckStreams :=
  h.recheckLoop.forAll fun _ _ _ h1 => h1.showHub quiet

theorem Dev.Steady.aqSuspendInput {c : Nat} (h : o.Steady K s) : o.Steady K (s.aqSuspendInput c) := by
  unfold Dev.aqSuspendInput
  exact (h.fset_high (g := AQ_CH_CFG_SUSP c) quiet (aqCfg_high c)).modAq

theorem Dev.Steady.aqSuspend (h : o.Steady K s) : o.Steady K s.aqSuspend :=
  Dev.Steady.forAll h fun _ _ _ h1 => Dev.Steady.forAll h1 fun _ _ _ h2 => .ite (h2.aqSuspendInput quiet) h2

theorem Dev.Steady.refold {id : Nat} {old : W64} (h : o.Steady K s) (beside : ∀ f, K f → f.reg ≠ SH_FOLD_MAP id ∨ f.lo + f.width ≤ 8) :
    o.Steady K (s.refold id old) := by
  have conf : ∀ {t v}, o.Steady K t → o.Steady K (t.fset (SH_FOLD_MAP_CONF id) v) := fun h => h.fset fun t f hf =>
    Dev.fget_fset_ne t _ (by simp [SH_FOLD_MAP_CONF]) ((beside f hf).imp_right .inl)
  unfold Dev.refold
  extract_lets +onlyGivenNames t1
  have h1 : o.Steady K t1 := conf h
  refine .ite h1 ?_
  extract_lets +onlyGivenNames t2
  have h2 : o.Steady K t2 := .ite h1 (.tly (fun _ => rfl) h1)
  split
  · refine Dev.Steady.report quiet (.tly ?_ h2)
    exact fun _ => rfl
  · refine conf (.tly ?_ h2.ownWrite.ownWrite)
    exact fun _ => rfl

end
end

/-! ### Settings that come into force (R63, R93) -/

section
variable {K : Field → Prop} {s : Dev} {v : W64} {eff : Nat}

/-- The block at the moment settings v, accepted for cycle `eff`, come into force: before what follows from them. -/
def Dev.cfgTaken (s : Dev) (v : W64) (eff : Nat) : Dev :=
  let s := s.clk (fun x => { x with
    cfgInForce := v, cfgPend := none, realign := true
    recent := x.recent.map (fun c => if eff ≤ c.cycle then { c with cfg := v } else c) })
  (((s.rset TIM_CYC_CFG v).fset TIM_GRID_GOFS 0).tw (fun t => { t with pendSeq := some eff })).pendEnd

theorem Dev.cfgEffect_none (h : s.sh.clk.cfgPend = none) : s.cfgEffect = s := by
  unfold Dev.cfgEffect
  rw [h]

theorem Dev.cfgEffect_waits (h : s.sh.clk.cfgPend = some (v, eff)) (wait : s.sh.clk.gridOn = false ∨ s.sh.clk.cyc < eff) :
    s.cfgEffect = s := by
  unfold Dev.cfgEffect
  rw [h]
  exact if_pos (by simpa using wait)

/-- What follows from settings that come into force leaves the clock and the quiet fields. -/
theorem Dev.cfgEffect_due (quiet : ∀ f, K f → quietField f) (h : s.sh.clk.cfgPend = some (v, eff)) (on : s.sh.clk.gridOn = true)
    (due : eff ≤ s.sh.clk.cyc) : (s.cfgTaken v eff).Steady K s.cfgEffect := by
  unfold Dev.cfgEffect
  split
  case h_1 none => simp [none] at h
  case h_2 w k some =>
  obtain ⟨rfl, rfl⟩ : w = v ∧ k = eff := by simpa [some] using h
  rw [if_neg (by simp [on, due])]
  extract_lets t0 t t1 t2
  have same : s.cfgTaken w k = t := rfl
  rw [same]
  have h1 : t.Steady K t1 := .ite ((Dev.Steady.refl t).setMins quiet) (.refl t)
  have h2 : t.Steady K t2 := h1.forAll fun _ _ _ h => h.pathChange quiet
  exact (Dev.Steady.ite (h2.aqSuspend quiet) h2).recheckStreams quiet

theorem Dev.Steady.pendEnd {o s : Dev} (h : o.Steady K s) (beside : ∀ f, K f → f.reg ≠ TIM_CYC_STAT) : o.Steady K s.pendEnd := by
  unfold Dev.pendEnd
  split
  · exact h
  · exact .ite (Dev.Steady.tw (h.fset fun t f hf => Dev.fget_fset_reg t 0 (beside f hf))) h

theorem Dev.cfgTaken_clk (s : Dev) (v : W64) (eff : Nat) : (s.cfgTaken v eff).sh.clk.cfgInForce = v ∧
    (s.cfgTaken v eff).sh.clk.cfgPend = none ∧ (s.cfgTaken v eff).sh.clk.realign = true := by
  unfold Dev.cfgTaken
  extract_lets t
  have same : (((t.rset TIM_CYC_CFG v).fset TIM_GRID_GOFS 0).tw (fun t => { t with pendSeq := some eff })).pendEnd.sh.clk = t.sh.clk :=
    ((Dev.Steady.refl (K := noField) _).pendEnd fun _ none => none.elim).clk
  rw [same]
  exact ⟨rfl, rfl, rfl⟩

end

end Sys2Proof.Machine
end

section
/-!
PROOFS for the family `02_station_cycle`: the t0 of a cycle (O42).
-/
namespace Sys2Proof.Machine

/-- What a t0 settles before its cycle's own work begins: cycle count, grid, t0, steps still to come, and the tallies received. -/
def Dev.cycleNotes (s : Dev) : Nat × Bool × W64 × List Step × List Copy :=
  (s.sh.clk.cyc, s.sh.clk.gridOn, s.sh.clk.t0, s.sh.clk.steps, s.sh.tly.copies)

/-- The block stands in the cycle with these notes. -/
def Dev.InCycle (n : Nat × Bool × W64 × List Step × List Copy) (s : Dev) : Prop := s.cycleNotes = n

section
variable {n : Nat × Bool × W64 × List Step × List Copy} {s : Dev}

theorem Dev.InCycle.ite {a b : Dev} {c : Prop} [Decidable c] (ha : a.InCycle n) (hb : b.InCycle n) : (if c then a else b).InCycle n := by
  split <;> assumption

theorem Dev.InCycle.forAll {α : Type} {f : Dev → α → Dev} {l : List α} (h : s.InCycle n)
    (hf : ∀ t a, Dev.InCycle n t → (f t a).InCycle n) : (forAll l s f).InCycle n := by
  unfold Machine.forAll
  induction l generalizing s with
  | nil => exact h
  | cons a l ih => exact ih (hf s a h)

theorem Dev.InCycle.steady {t : Dev} (h : s.InCycle n) (h1 : s.Steady noField t) : t.InCycle n := by
  unfold Dev.InCycle Dev.cycleNotes at h ⊢
  rw [h1.clk, h1.copies]
  exact h

theorem Dev.InCycle.fset {f : Field} {v : Nat} (h : s.InCycle n) : (s.fset f v).InCycle n := h
theorem Dev.InCycle.rset {a : Nat} {v : W64} (h : s.InCycle n) : (s.rset a v).InCycle n := h
theorem Dev.InCycle.finc {f : Field} (h : s.InCycle n) : (s.finc f).InCycle n := h
theorem Dev.InCycle.modCell {p : Place} {f : Cell → Cell} (h : s.InCycle n) : (s.modCell p f).InCycle n := h
theorem Dev.InCycle.setRing {r : Nat} {x : Ring} (h : s.InCycle n) : (s.setRing r x).InCycle n := h
theorem Dev.InCycle.md {f : ShMode → ShMode} (h : s.InCycle n) : (s.md f).InCycle n := h
theorem Dev.InCycle.vote {f : ShVote → ShVote} (h : s.InCycle n) : (s.vote f).InCycle n := h
theorem Dev.InCycle.pin {f : ShPin → ShPin} (h : s.InCycle n) : (s.pin f).InCycle n := h
theorem Dev.InCycle.rcd {f : ShRec → ShRec} (h : s.InCycle n) : (s.rcd f).InCycle n := h
theorem Dev.InCycle.safe {f : ShSafe → ShSafe} (h : s.InCycle n) : (s.safe f).InCycle n := h
theorem Dev.InCycle.tw {f : ShTw → ShTw} (h : s.InCycle n) : (s.tw f).InCycle n := h
theorem Dev.InCycle.modAq {f : AqDie → AqDie} (h : s.InCycle n) : (s.modAq f).InCycle n := h
theorem Dev.InCycle.setLedg {c : Nat} {x : LedgSt} (h : s.InCycle n) : (s.setLedg c x).InCycle n := h

theorem Dev.InCycle.modCd {d : Nat} {f : CtrlDie → CtrlDie} (h : s.InCycle n) : (s.modCd d f).InCycle n := by
  unfold Dev.InCycle Dev.cycleNotes at h ⊢
  rw [Dev.modCd_sh]
  exact h

theorem Dev.InCycle.noted {t : Dev} (h : s.InCycle n) (h1 : s.Noted t) : t.InCycle n :=
  h.steady ((Dev.Steady.refl s).noted nofun h1)

theorem Dev.InCycle.irq {v : Nat} (h : s.InCycle n) : (s.irq v).InCycle n := h.noted (Dev.Noted.refl s).irq

theorem Dev.InCycle.rfset {f : Nat → Nat → Field} {r v : Nat} (h : s.InCycle n) : (s.rfset f r v).InCycle n := by
  unfold Dev.InCycle Dev.cycleNotes at h ⊢
  rw [Dev.rfset_sh]
  exact h

/-! ### Lanes, forwarded writes and repairs at a t0 -/

theorem Dev.InCycle.masterT0 (h : s.InCycle n) : s.masterT0.InCycle n := by
  have h1 : (s.tly (fun x => { x with masterB := !x.masterB })).InCycle n := h
  exact .ite h1 h

theorem Dev.InCycle.laneLeave {d st : Nat} (h : s.InCycle n) : (s.laneLeave d st).InCycle n := by
  have h1 := (h.fset (f := SH_LANE_STAT_STATE d) (v := st)).fset (f := SH_LANE_STAT_PCNT d) (v := 0)
  exact .ite h1.fset.vote h1.fset.vote.pin

theorem Dev.InCycle.offT0 (h : s.InCycle n) : s.offT0.InCycle n :=
  h.forAll fun _ _ h1 => .ite h1 (.ite h1.laneLeave h1)

theorem Dev.InCycle.hurdleT0 (h : s.InCycle n) : s.hurdleT0.InCycle n := .ite h.pin.tw h

theorem Dev.InCycle.plainWrite {a : Nat} {v : W64} (h : s.InCycle n) : (s.plainWrite a v).InCycle n := by
  unfold Dev.plainWrite
  split
  · exact h
  · exact .ite h h.rset

theorem Dev.InCycle.refold {id : Nat} {old : W64} (h : s.InCycle n) : (s.refold id old).InCycle n :=
  h.steady ((Dev.Steady.refl s).refold nofun nofun)

theorem Dev.InCycle.pathChange {r : Nat} (h : s.InCycle n) : (s.pathChange r).InCycle n :=
  h.steady ((Dev.Steady.refl s).pathChange nofun)

theorem Dev.InCycle.foldMapSet {id fold : Nat} (h : s.InCycle n) : (s.foldMapSet id fold).InCycle n := by
  have h1 : ∀ t : Dev, t.InCycle n → t.twinShow.InCycle n := fun t h => h.steady ((Dev.Steady.refl t).twinShow nofun)
  unfold Dev.foldMapSet
  exact .ite h (.ite (h1 _ h.fset.refold).pathChange (h1 _ h.fset.refold))

theorem Dev.InCycle.oosSet {id : Nat} {b : Bool} (h : s.InCycle n) : (s.oosSet id b).InCycle n :=
  h.fset.steady (Dev.Steady.refl _).penWrite

theorem Dev.InCycle.foldCfgSet {f : Nat} {v : W64} (h : s.InCycle n) : (s.foldCfgSet f v).InCycle n := by
  unfold Dev.foldCfgSet
  exact .ite (h.rset.forAll fun _ _ h1 => h1.refold) h.rset

theorem Dev.InCycle.applyWrite {a : Nat} {v : W64} (h : s.InCycle n) : (s.applyWrite a v).InCycle n := by
  unfold Dev.applyWrite
  split
  · exact h.foldMapSet.oosSet
  · exact h.foldCfgSet
  · exact .ite h.plainWrite (.ite h.md (.ite h.plainWrite.md h))

theorem Dev.InCycle.fwdT0 (h : s.InCycle n) : s.fwdT0.InCycle n := by
  unfold Dev.fwdT0
  split
  exact h.tw.forAll fun _ _ h1 => h1.applyWrite

theorem Dev.InCycle.stopLaunch {r i : Nat} (h : s.InCycle n) : (s.stopLaunch r i).InCycle n := by
  unfold Dev.stopLaunch
  extract_lets ps stop
  have h1 : ∀ (t : Dev) p y, t.InCycle n → (stop t p y).InCycle n := fun t p y h => by
    cases p with
    | none => exact h
    | some p => exact h.modCell
  exact h1 _ _ _ (h1 _ _ _ h)

theorem Dev.InCycle.showBreaks {r : Nat} (h : s.InCycle n) : (s.showBreaks r).InCycle n := by
  unfold Dev.showBreaks
  extract_lets +onlyGivenNames x ch bs v lo hi k more t1 t2 t3 t4 t5 test t6
  have h5 : t5.InCycle n := h.rfset.rfset.rfset.rfset.rfset.rfset
  have h6 : t6.InCycle n := .ite h5 h5.rfset
  exact .ite (h6.noted (Dev.Noted.refl t6).report) h6

theorem Dev.InCycle.joinT0 (h : s.InCycle n) : s.joinT0.InCycle n := by
  refine h.forAll fun t r h1 => ?_
  unfold Dev.joinRing
  split
  · exact h1
  · refine .ite h1 (.steady (.forAll h1.setRing.stopLaunch.pathChange.showBreaks fun u e h2 => ?_) ((Dev.Steady.refl _).recheckStreams nofun))
    exact h2.steady (.ite (.refl u) (Dev.Steady.refl u).setCend)

/-! ### The mode at a t0 -/

theorem Dev.InCycle.setMode {m : Nat} (h : s.InCycle n) : (s.setMode m).InCycle n := by
  have lock : ∀ {t : Dev} {b}, t.InCycle n → (t.lockAll b).InCycle n := fun {t b} h => by
    unfold Dev.lockAll
    extract_lets u
    have h1 : u.InCycle n := h.forAll fun v id h2 => by
      split
      · exact h2.modCell
      · exact h2
    exact .ite h1.fset h1
  have tune : ∀ {t : Dev} {d why}, t.InCycle n → (t.tuneAbort d why).InCycle n := fun {t d why} h => by
    unfold Dev.tuneAbort
    split
    · exact h
    · exact h.modCd.fset.fset
  have soft : ∀ {t : Dev}, t.InCycle n → t.genInvAll.InCycle n := fun h => h.forAll fun _ _ h1 => .ite h1.modCd h1
  unfold Dev.setMode
  extract_lets +onlyGivenNames old t1 t2 t3 t4 t5 t6 t7
  have h1 : t1.InCycle n := h.fset.fset
  have h2 : t2.InCycle n := .ite (.forAll (lock h1) fun _ _ h => tune h) h1
  have h3 : t3.InCycle n := .ite (lock h2).fset h2
  have h4 : t4.InCycle n := .ite (soft h3) h3
  have h5 : t5.InCycle n := .ite h4.fset.fset.md.vote h4
  have h6 : t6.InCycle n := .ite h5.fset h5
  have h7 : t7.InCycle n := .ite h6.fset.md h6
  exact (h7.noted (Dev.Noted.refl t7).info).irq

theorem Dev.InCycle.autoChange {m : Nat} (h : s.InCycle n) : (s.autoChange m).InCycle n := by
  have refuse : ∀ {t : Dev} {why}, t.InCycle n → (t.refuseMode why).InCycle n := fun h =>
    h.fset.fset.finc.irq
  unfold Dev.autoChange
  extract_lets +onlyGivenNames t1 t2
  have h1 : t1.InCycle n := .ite (refuse h.fset) h
  have h2 : t2.InCycle n := h1.md
  exact .ite h2 h2.setMode

theorem Dev.InCycle.setCauses {l : List Nat} (h : s.InCycle n) : (s.setCauses l).InCycle n := h.fset.md

theorem Dev.InCycle.modeT0 (h : s.InCycle n) : s.modeT0.InCycle n := by
  unfold Dev.modeT0
  extract_lets +onlyGivenNames auto causes t1 t2 t3
  have h1 : t1.InCycle n := h.md
  have h2 : t2.InCycle n := .ite h1.setCauses h1
  have h3 : t3.InCycle n := h2.fset.md
  clear_value auto t1 t2 t3
  split
  · exact h1.fset.autoChange
  · refine .ite h1.autoChange.setCauses (.ite h1.autoChange ?_)
    split
    · exact h2
    · exact .ite h2.md (Dev.InCycle.setMode (.ite h3.fset h3))

theorem Dev.InCycle.noteT0 {d : Int} (h : s.InCycle n) : (s.noteT0 d).InCycle n := by
  unfold Dev.noteT0
  extract_lets k r aq old t1 t2
  have h1 : t1.InCycle n := h
  exact h1.vote.tw

/-! ### The ledger, the AQ, the safety store, the record and the grants at a t0 -/

theorem Dev.InCycle.ledFlag {f : Field} {b : Bool} (h : s.InCycle n) : (s.ledFlag f b).InCycle n := .ite h.fset h

theorem Dev.InCycle.ledOpen {c k : Nat} {w l : Int} (h : s.InCycle n) : (s.ledOpen c k w l).InCycle n := by
  have clear : ∀ {t : Dev} {i}, t.InCycle n → (t.ledClear c i).InCycle n := fun h => h.forAll fun _ _ h1 => h1.rset
  have lost : ∀ {b : Bool}, (if b then s.finc (SH_LEDG_STAT_LOST c) else s).InCycle n := .ite h.finc h
  unfold Dev.ledOpen
  exact (Dev.InCycle.ledFlag (.ledFlag (clear lost).fset.fset.fset)).fset.fset.setLedg

theorem Dev.InCycle.ledgerT0 {c : Nat} {d : Int} (h : s.InCycle n) : (s.ledgerT0 c d).InCycle n := by
  have dur : ∀ {i}, (s.ledDur c i).InCycle n := h.fset
  have step : ∀ {i}, ((s.ledDur c i).ledStep c i d).InCycle n := dur.fset
  unfold Dev.ledgerT0
  exact .ledFlag (.ite h.setLedg.ledOpen (.ite (.ite dur step.fset) (Dev.InCycle.ledOpen (.setLedg (.ite dur step.fset)))))

theorem Dev.InCycle.aqT0 {k : Nat} (h : s.InCycle n) : (s.aqT0 k).InCycle n := by
  unfold Dev.aqT0
  refine .ite h ?_
  extract_lets +onlyGivenNames time t1 t2
  have h0 : t1.InCycle n := h.modAq
  have h2 : t2.InCycle n := Dev.InCycle.forAll h0 fun t v h1 => by
    exact .ite h1.modAq.fset.fset h1.modAq
  refine Dev.InCycle.forAll h2 fun t c h3 => ?_
  split
  · exact h3.modAq
  · exact h3

theorem Dev.InCycle.safeT0 (h : s.InCycle n) : s.safeT0.InCycle n := by
  unfold Dev.safeT0
  split
  · exact h.safe
  · exact h

theorem Dev.InCycle.recLearn {t : W32} {src : Nat} (h : s.InCycle n) : (s.recLearn t src).InCycle n := by
  unfold Dev.recLearn
  refine .ite (h.fset.rcd.irq) (.ite ?_ (.ite h.finc h))
  split
  · exact .ite h.rcd h
  · exact h.finc

theorem Dev.InCycle.fireT0 (h : s.InCycle n) : s.fireT0.InCycle n := .ite h.recLearn.rcd h

theorem Dev.InCycle.grantOne {r id : Nat} (h : s.InCycle n) : (s.grantOne r id).InCycle n := by
  unfold Dev.grantOne
  split
  · exact h
  · exact h.steady (Dev.Steady.refl s).free.send

theorem Dev.InCycle.hubGrants (h : s.InCycle n) : s.hubGrants.InCycle n :=
  h.forAll fun _ _ h1 => .ite (h1.forAll fun _ _ h2 => h2.grantOne) h1

theorem Dev.InCycle.recGrants (h : s.InCycle n) : s.recGrants.InCycle n :=
  .ite h (h.forAll fun _ _ h1 => .ite h1.grantOne h1)

/-! ### The steps of station time at a t0 (R467) -/

theorem Dev.InCycle.modRd {i : Nat} {f : RingDie → RingDie} (h : s.InCycle n) : (s.modRd i f).InCycle n :=
  h.steady (Dev.Steady.refl s).modRd

theorem Dev.InCycle.addOfs {d : Int} (h : s.InCycle n) : (s.addOfs d).InCycle n := by
  have h1 : (s.clk (fun x => { x with ofs := x.ofs + d })).InCycle n := h
  have h2 : (((s.clk (fun x => { x with ofs := x.ofs + d })).modRd 0 (fun x => { x with ofs := x.ofs + d })).modRd 1
    (fun x => { x with ofs := x.ofs + d })).InCycle n := h1.modRd.modRd
  exact h2

/-- A step moves the t0 just passed and nothing else of the cycle. -/
theorem Dev.InCycle.takeStep {k : Nat} {g : Bool} {t : W64} {l : List Step} {c : List Copy} {d : Int} (h : s.InCycle (k, g, t, l, c)) :
    (s.takeStep d).InCycle (k, g, BitVec.ofInt 64 (t.toNat + d), l, c) := by
  unfold Dev.takeStep
  extract_lets t1 t2 t3 grid
  have h1 : t1.InCycle (k, g, t, l, c) := h.addOfs
  have h2 : t2.InCycle (k, g, t, l, c) := h1
  have h3 : t3.InCycle (k, g, BitVec.ofInt 64 (t.toNat + d), l, c) := by
    simp only [Dev.InCycle, Dev.cycleNotes, Prod.mk.injEq] at h2 ⊢
    obtain ⟨cyc, on, start, steps, copies⟩ := h2
    exact ⟨cyc, on, congrArg (fun w : W64 => BitVec.ofInt 64 (w.toNat + d)) start, steps, copies⟩
  clear_value t3
  exact (Dev.InCycle.fset (f := TIM_STAT_STEPCNT) h3.fset).irq

/-- The sum of the steps that take effect. -/
theorem foldl_delta (l : List Step) : l.foldl (fun a e => a + e.delta) 0 = (l.map (fun e => e.delta)).sum := by
  rw [List.sum_eq_foldl, List.foldl_map]

/-- The steps due at a t0 are spent on it, the others wait on. -/
theorem Dev.InCycle.stepsT0 {k : Nat} {g : Bool} {t : W64} {l : List Step} {c : List Copy} (h : s.InCycle (k, g, t, l, c)) :
    let due := l.filter (fun e => decide (e.cycle = k))
    s.stepsT0.2.2.InCycle (k, g, if due = [] then t else BitVec.ofInt 64 (t.toNat + (due.map (fun e => e.delta)).sum),
      l.filter (fun e => !decide (e.cycle = k)), c) := by
  intro due
  simp only [Dev.InCycle, Dev.cycleNotes, Prod.mk.injEq] at h
  obtain ⟨cyc, on, start, steps, copies⟩ := h
  generalize moved : (if due = [] then t else BitVec.ofInt 64 (t.toNat + (due.map (fun e => e.delta)).sum)) = t'
  unfold Dev.stepsT0
  split
  next now rest parts =>
  rw [List.partition_eq_filter_filter, steps, cyc] at parts
  obtain ⟨rfl, rfl⟩ := Prod.mk.injEq .. ▸ parts
  extract_lets t1 d t2
  have h1 : t1.InCycle (k, g, t, l.filter (fun e => !decide (e.cycle = k)), c) := by
    simp only [Dev.InCycle, Dev.cycleNotes, Prod.mk.injEq]
    exact ⟨cyc, on, start, rfl, copies⟩
  have h2 : t2.InCycle (k, g, t', l.filter (fun e => !decide (e.cycle = k)), c) := by
    rw [← moved]
    by_cases none : due = []
    · rw [if_pos none]
      rw [show t2 = t1 from if_pos (List.isEmpty_iff.2 none)]
      exact h1
    · rw [if_neg none, ← foldl_delta due]
      rw [show t2 = t1.takeStep d from if_neg fun e => none (List.isEmpty_iff.1 e)]
      exact h1.takeStep
  clear_value t2
  split
  · exact h2
  · exact h2

/-! ### The t0 -/

/-- Settings that come into force leave the cycle as it is. -/
theorem Dev.InCycle.cfgEffect (h : s.InCycle n) : s.cfgEffect.InCycle n := by
  cases pend : s.sh.clk.cfgPend with
  | none => rwa [Dev.cfgEffect_none pend]
  | some e =>
    obtain ⟨v, eff⟩ := e
    by_cases due : s.sh.clk.gridOn = true ∧ eff ≤ s.sh.clk.cyc
    · refine Dev.InCycle.steady ?_ (Dev.cfgEffect_due nofun pend due.1 due.2)
      unfold Dev.cfgTaken
      extract_lets t
      have h1 : t.InCycle n := h
      exact h1.rset.fset.tw.steady ((Dev.Steady.refl _).pendEnd fun _ none => none.elim)
    · have wait : s.sh.clk.gridOn = false ∨ s.sh.clk.cyc < eff := by
        by_cases on : s.sh.clk.gridOn = true
        · exact .inr (Nat.lt_of_not_le fun le => due ⟨on, le⟩)
        · exact .inl (by simpa using on)
      rwa [Dev.cfgEffect_waits pend wait]

theorem Dev.InCycle.elapse {m : Nat} (h : s.InCycle n) : (s.elapse m).InCycle n := by
  unfold Dev.InCycle Dev.cycleNotes at h ⊢
  rw [s.elapse_timed m]
  exact h

/-- What the t0 of the next cycle settles. -/
theorem Dev.sampleInstant_cycle (runs : s.clockRuns = true) :
    let due := s.sh.clk.steps.filter (fun e => decide (e.cycle = s.nextCyc))
    let t := BitVec.ofInt 64 s.cfgEffect.nextT0
    s.sampleInstant.InCycle (s.nextCyc, true,
      if due = [] then t else BitVec.ofInt 64 (t.toNat + (due.map (fun e => e.delta)).sum),
      s.sh.clk.steps.filter (fun e => !decide (e.cycle = s.nextCyc)), s.sh.tly.copies) := by
  intro due t
  have h0 : s.cfgEffect.InCycle s.cycleNotes := Dev.InCycle.cfgEffect rfl
  have on : ¬ (!s.clockRuns) = true := by simp [runs]
  unfold Dev.sampleInstant
  rw [if_neg on]
  extract_lets +onlyGivenNames a instant k b c d
  have next : k = s.nextCyc := by
    simp only [Dev.InCycle, Dev.cycleNotes, Prod.mk.injEq] at h0
    obtain ⟨cyc, grid, -⟩ := h0
    unfold k Dev.nextCyc
    rw [cyc, grid]
  have hb : b.InCycle s.cycleNotes := h0.elapse
  have hd : d.InCycle (k, true, t, s.sh.clk.steps, s.sh.tly.copies) := by
    simp only [Dev.InCycle, Dev.cycleNotes, Prod.mk.injEq] at hb
    obtain ⟨-, -, -, steps, copies⟩ := hb
    simp only [Dev.InCycle, Dev.cycleNotes, Prod.mk.injEq]
    exact ⟨rfl, rfl, rfl, steps, copies⟩
  clear_value b d k
  subst next
  have h1 := hd.stepsT0
  change d.stepsT0.2.2.InCycle (_, _, if due = [] then t else BitVec.ofInt 64 (t.toNat + (due.map (fun e => e.delta)).sum), _, _) at h1
  generalize (if due = [] then t else BitVec.ofInt 64 (t.toNat + (due.map (fun e => e.delta)).sum)) = t' at h1 ⊢
  split
  next sd wall u steps =>
  rw [steps] at h1
  extract_lets u1 u2 u3
  have h2 : u1.InCycle _ := h1.masterT0.offT0.hurdleT0.fwdT0.joinT0.modeT0.noteT0
  have h3 : u2.InCycle _ := h2.ledgerT0.ledgerT0
  have h4 : u3.InCycle _ := .ite h3.aqT0 h3
  exact h4.safeT0.fireT0.hubGrants.recGrants

end

theorem Dev.rateChange_none {s : Dev} (h : s.sh.crk.ratePend = none) : s.rateChange = s := by
  unfold Dev.rateChange
  rw [h]

/-- A new rate leaves the cycle and the raw count. -/
theorem Dev.setRate_clk (s : Dev) (v : W32) : (s.setRate v).sh.clk.cyc = s.sh.clk.cyc ∧ (s.setRate v).sh.clk.raw = s.sh.clk.raw := by
  unfold Dev.setRate
  extract_lets d t1 t2 aq t3
  have same : t1.Steady noField t3 := { (Dev.Steady.refl t1).modRd.modRd with }
  have after : (t3.fset TIM_RATE_RATE v.toNat).sh.clk = t1.sh.clk := same.clk
  rw [after]
  exact ⟨rfl, rfl⟩

theorem Dev.setRate_rate (s : Dev) (v : W32) : (s.setRate v).fget TIM_RATE_RATE = v.toNat := by
  unfold Dev.setRate
  extract_lets d t1 t2 aq t3
  rw [Dev.fget_fset_same _ _ _ (by decide)]
  exact Nat.mod_eq_of_lt v.isLt

theorem Dev.elapse_raw (s : Dev) (n : Nat) :
    (s.elapse n).sh.clk.raw = s.sh.clk.raw + (if s.clockRuns = true then BitVec.ofNat 64 n else 0) := by
  have rest : ∀ t : Dev, ∀ i f, (t.modRd i f).sh.clk.raw = t.sh.clk.raw := fun t i f =>
    congrArg ShClk.raw ((Dev.Steady.refl (K := noField) t).modRd).clk
  unfold Dev.elapse
  extract_lets +onlyGivenNames w run t1 t2 t3
  have h1 : t1.sh.clk.raw = s.sh.clk.raw + (if s.clockRuns = true then BitVec.ofNat 64 n else 0) := by
    unfold t1
    by_cases on : run = true
    · have runs : s.clockRuns = true := on
      rw [if_pos on, if_pos runs]
      rfl
    · have stands : ¬ s.clockRuns = true := on
      rw [if_neg on, if_neg stands, add_zero]
  have h2 : t2.sh.clk.raw = t1.sh.clk.raw := by
    unfold t2
    split
    · exact rest _ _ _
    · rfl
  have h3 : t3.sh.clk.raw = t2.sh.clk.raw := by
    unfold t3
    split
    · exact rest _ _ _
    · rfl
  rw [← h1, ← h2, ← h3]
  split <;> rfl

/-- The rate that waits comes into force at the next raw microsecond boundary. -/
theorem Dev.rateChange_some {s : Dev} {v : W32} (h : s.sh.crk.ratePend = some v) :
    s.rateChange.fget TIM_RATE_RATE = v.toNat ∧ s.rateChange.sh.crk.ratePend = none ∧ s.rateChange.sh.clk.cyc = s.sh.clk.cyc ∧
      s.rateChange.sh.clk.raw = s.sh.clk.raw +
        (if s.clockRuns = true then BitVec.ofNat 64 ((1000 - s.sh.clk.raw.toNat % 1000) % 1000) else 0) := by
  unfold Dev.rateChange
  rw [h]
  dsimp only
  generalize come : s.elapse ((1000 - s.sh.clk.raw.toNat % 1000) % 1000) = d
  obtain ⟨cyc, raw⟩ := d.setRate_clk v
  have same : d.sh.clk.cyc = s.sh.clk.cyc := by
    rw [← come, s.elapse_timed]
  exact ⟨d.setRate_rate v, rfl, cyc.trans same, raw.trans (come ▸ s.elapse_raw _)⟩

/-- Settles O42: SAMPLE_INSTANT begins the next cycle at the next instant of the grid, and RATE_CHANGE comes to its boundary. -/
theorem sampleInstantResults : Obligations.SampleInstantResults := by
  unfold Obligations.SampleInstantResults
  intro s e k due
  have t0 : exec .sampleInstant s = s.upd Dev.sampleInstant := rfl
  have rate : exec .rateChange s = s.upd Dev.rateChange := rfl
  refine ⟨fun runs => State.goes_upd t0 ?_, Dev.cfgEffect_none, fun v eff pend => ⟨fun on past => ?_, Dev.cfgEffect_waits pend⟩,
    fun stopped => State.goes_upd t0 (if_pos (by simp [stopped])), fun none => State.goes_upd rate (Dev.rateChange_none none),
    fun v some => State.goes_upd rate (Dev.rateChange_some some)⟩
  · have cycle := s.dev.sampleInstant_cycle runs
    simp only [Dev.InCycle, Dev.cycleNotes, Prod.mk.injEq] at cycle
    obtain ⟨cyc, on, t0, steps, copies⟩ := cycle
    exact ⟨cyc, on, fun none => t0.trans (if_pos none), fun some => t0.trans (if_neg some), steps, copies⟩
  · have kept := (Dev.cfgEffect_due (K := noField) nofun pend on past).clk
    obtain ⟨inForce, none, -⟩ := s.dev.cfgTaken_clk v eff
    exact ⟨(congrArg ShClk.cfgInForce kept).trans inForce, (congrArg ShClk.cfgPend kept).trans none⟩

end Sys2Proof.Machine
end

section
/-!
PROOFS for the family `02_station_cycle`: plain and refused writes, and the writes of the cycle settings (O56).
-/
namespace Sys2Proof.Machine

/-! ### A register as a whole -/

/-- A register as one field. -/
def wholeReg (a : Nat) : Field := ⟨a, 0, 64⟩

theorem Dev.fget_whole (s : Dev) (a : Nat) : s.fget (wholeReg a) = (s.rget a).toNat := by
  simp only [Dev.fget, wholeReg, bitsOf, pow_zero, Nat.div_one]
  exact Nat.mod_eq_of_lt (s.rget a).isLt

theorem Dev.rget_of_whole {s t : Dev} {a : Nat} (h : s.fget (wholeReg a) = t.fget (wholeReg a)) : s.rget a = t.rget a := by
  rw [Dev.fget_whole, Dev.fget_whole] at h
  exact BitVec.eq_of_toNat_eq h

theorem Dev.Steady.whole {K : Field → Prop} {o s : Dev} (h : o.Steady K s) {a : Nat} (ha : K (wholeReg a)) : s.rget a = o.rget a :=
  Dev.rget_of_whole (h.fields _ ha)

theorem Dev.fget_finc_same (s : Dev) (f : Field) (h : f.lo + f.width ≤ 64) :
    (s.finc f).fget f = min (s.fget f + 1) (2 ^ f.width - 1) := by
  have pos := Nat.two_pow_pos f.width
  rw [Dev.finc, Dev.fadd, Dev.fget_fset_same s f _ h, Nat.mod_eq_of_lt (by omega)]

/-! ### A write that is refused (R646) -/

/-- A refused write counts and shows its address; it changes no other register and no control die. -/
theorem Dev.refuseWr_spec (s : Dev) {a : Nat} (ha : a < 2 ^ 28) : (s.refuseWr a).fget SH_REFWR_ADDR = a ∧
    (s.refuseWr a).fget SH_REFWR_COUNT = min (s.fget SH_REFWR_COUNT + 1) 0xFFFFFFFF ∧
    (∀ x, x ≠ SH_REFWR → (s.refuseWr a).rget x = s.rget x) ∧ (s.refuseWr a).cd0 = s.cd0 ∧ (s.refuseWr a).cd1 = s.cd1 ∧
    (s.refuseWr a).cd2 = s.cd2 ∧ (s.refuseWr a).cd3 = s.cd3 := by
  have dies : (s.refuseWr a).cd0 = s.cd0 ∧ (s.refuseWr a).cd1 = s.cd1 ∧ (s.refuseWr a).cd2 = s.cd2 ∧ (s.refuseWr a).cd3 = s.cd3 := by
    unfold Dev.refuseWr
    exact ⟨(Dev.fset_cd0 ..).trans (Dev.finc_cd0 ..), (Dev.fset_cd1 ..).trans (Dev.finc_cd1 ..),
      (Dev.fset_cd2 ..).trans (Dev.finc_cd2 ..), (Dev.fset_cd3 ..).trans (Dev.finc_cd3 ..)⟩
  refine ⟨?_, ?_, fun x hx => ?_, dies⟩
  · exact (Dev.fget_fset_same _ _ _ (by decide)).trans (Nat.mod_eq_of_lt ha)
  · have beside : (s.refuseWr a).fget SH_REFWR_COUNT = (s.finc SH_REFWR_COUNT).fget SH_REFWR_COUNT :=
      Dev.fget_fset_bits _ _ (by decide) (by decide) rfl
    rw [beside, s.fget_finc_same SH_REFWR_COUNT (by decide)]
    norm_num [SH_REFWR_COUNT]
  · exact (Dev.rget_fset_reg _ _ hx).trans (Dev.rget_fset_reg _ _ hx)

/-! ### A plain write -/

section
variable {s : Dev} {a : Nat} {row : RegRow} {v : W64}

/-- A plain write sets the bits that the host may write. -/
theorem Dev.plainWrite_eq {m : W64} (found : pkgRowAt a = some row) (mask : row.rw = m.toNat) (none : row.w1c = 0) (up : s.winUp a = true) :
    s.plainWrite a v = s.rset a ((s.rget a &&& ~~~m) ||| (v &&& m)) := by
  unfold Dev.plainWrite
  rw [found]
  have clear : ¬ (!s.winUp a) = true := by simp [up]
  have bits : BitVec.ofNat 64 row.rw = m := by rw [mask, BitVec.ofNat_toNat, BitVec.setWidth_eq]
  simp only [if_neg clear, bits, none, BitVec.and_zero, BitVec.not_zero, BitVec.and_allOnes]

theorem Dev.plainWrite_rget {m : W64} (found : pkgRowAt a = some row) (mask : row.rw = m.toNat) (none : row.w1c = 0)
    (up : s.winUp a = true) : (s.plainWrite a v).rget a = (s.rget a &&& ~~~m) ||| (v &&& m) := by
  rw [Dev.plainWrite_eq found mask none up]
  exact Dev.rget_rset_same _ _ _

/-- A plain write changes its register alone. -/
theorem Dev.plainWrite_only (s : Dev) (a : Nat) (v : W64) : ∃ w, s.plainWrite a v = s ∨ s.plainWrite a v = s.rset a w := by
  unfold Dev.plainWrite
  split
  · exact ⟨0, .inl rfl⟩
  · split
    · exact ⟨0, .inl rfl⟩
    · exact ⟨_, .inr rfl⟩

end

/-- The rows of the settings that a plain write reaches. -/
theorem fltCfg_row : ∃ row, pkgRowAt SH_FLT_CFG = some row ∧ row.rw = (0xFFFFFFFFFF : W64).toNat ∧ row.w1c = 0 := by decide +kernel
theorem ledgCfg_row : ∃ row, pkgRowAt SH_LEDG_CFG = some row ∧ row.rw = (0xFFFF : W64).toNat ∧ row.w1c = 0 := by decide +kernel
theorem leParam_row : ∃ row, pkgRowAt SH_LE_PARAM = some row ∧ row.rw = (0x1FFF01FFFFFFFF : W64).toNat ∧ row.w1c = 0 := by decide +kernel

/-! ### Checks of R90 -/

theorem find?_cons_ite {α : Type} (p : α → Bool) (a : α) (l : List α) :
    (a :: l).find? p = if p a = true then some a else l.find? p := by
  rw [List.find?_cons]
  cases p a <;> rfl

/-- A check of the settings that fails is the first of a list in their order. -/
theorem find?_range'_eight (p : Nat → Bool) : (List.range' 1 8).find? p =
    if p 1 = true then some 1 else if p 2 = true then some 2 else if p 3 = true then some 3 else if p 4 = true then some 4
    else if p 5 = true then some 5 else if p 6 = true then some 6 else if p 7 = true then some 7
    else if p 8 = true then some 8 else none := by
  have list : List.range' 1 8 = [1, 2, 3, 4, 5, 6, 7, 8] := rfl
  simp only [list, find?_cons_ite, List.find?_nil]

/-! ### `TIM_CYC_CFG` (R90-R93) -/

section
variable {s : Dev} {v : W64} {eff : Nat}

/-- A refused write of the settings shows the check that fails and counts; it leaves the clock and every other register. -/
theorem Dev.cfgRefuse_spec (s : Dev) {why : Nat} (hw : why < 16) : (s.cfgRefuse why).fget TIM_CYC_STAT_REASON = why ∧
    (s.cfgRefuse why).sh.clk = s.sh.clk ∧
    (s.cfgRefuse why).fget TIM_CYC_STAT_REFUSE_CNT = min (s.fget TIM_CYC_STAT_REFUSE_CNT + 1) (2 ^ TIM_CYC_STAT_REFUSE_CNT.width - 1) ∧
    ∀ x, x ≠ TIM_CYC_STAT_REASON.reg → (s.cfgRefuse why).rget x = s.rget x := by
  have beside : (s.cfgRefuse why).fget TIM_CYC_STAT_REFUSE_CNT = (s.finc TIM_CYC_STAT_REFUSE_CNT).fget TIM_CYC_STAT_REFUSE_CNT :=
    Dev.fget_fset_bits _ _ (by decide) (by decide) rfl
  refine ⟨?_, ?_, beside.trans (s.fget_finc_same _ (by decide)), fun x hx => ?_⟩
  · exact (Dev.fget_fset_same _ _ _ (by decide)).trans (Nat.mod_eq_of_lt hw)
  · exact congrArg Shepherd.clk ((Dev.fset_sh ..).trans (Dev.finc_sh ..))
  · exact (Dev.rget_fset_reg _ _ hx).trans (Dev.rget_fset_reg _ _ hx)

theorem Dev.effCycle_eq (s : Dev) : s.effCycle =
    (if s.sh.clk.gridOn then s.sh.clk.cyc + 1 else 0) + (if s.forwardLink = none then 0 else 1) := by
  unfold Dev.effCycle Dev.nextCyc
  cases s.forwardLink <;> rfl

/-- The settings wait, and the ring dies write the cells' slot instants for them: `Dev.cfgAccept` after `PEND` is set. -/
def Dev.cfgWaits (s : Dev) (v : W64) (eff : Nat) : Dev :=
  let s := s.clk (fun x => { x with cfgPend := some (v, eff) })
  forAll s.liveRings s (fun s r => s.writeSlots r v (s.effAnchor v eff).toNat (BitVec.ofNat 16 eff))

theorem Dev.cfgAccept_eq (s : Dev) (v : W64) (eff : Nat) : s.cfgAccept v eff = (s.fset TIM_CYC_STAT_PEND 1).cfgWaits v eff := rfl

theorem Dev.cfgWaits_spec (s : Dev) (v : W64) (eff : Nat) : (s.cfgWaits v eff).fget TIM_CYC_STAT_PEND = s.fget TIM_CYC_STAT_PEND ∧
    (s.cfgWaits v eff).sh.clk = { s.sh.clk with cfgPend := some (v, eff) } ∧ s.out <:+ (s.cfgWaits v eff).out := by
  unfold Dev.cfgWaits
  extract_lets t
  have steady : t.Steady (fun f => f = TIM_CYC_STAT_PEND) (forAll t.liveRings t fun s r =>
      s.writeSlots r v (s.effAnchor v eff).toNat (BitVec.ofNat 16 eff)) := (Dev.Steady.refl t).forAll fun _ _ _ h => h.writeSlots
  have kept : t.Keeps (forAll t.liveRings t fun s r => s.writeSlots r v (s.effAnchor v eff).toNat (BitVec.ofNat 16 eff)) :=
    (Dev.Keeps.refl t).forAll fun _ _ _ h => h.writeSlots
  exact ⟨steady.fields _ rfl, steady.clk, kept.out⟩

/-- Accepted settings wait, with PEND 1, and what has been sent stands. -/
theorem Dev.cfgAccept_spec (s : Dev) (v : W64) (eff : Nat) : (s.cfgAccept v eff).fget TIM_CYC_STAT_PEND = 1 ∧
    (s.cfgAccept v eff).sh.clk = { s.sh.clk with cfgPend := some (v, eff) } ∧ s.out <:+ (s.cfgAccept v eff).out := by
  have shown : (s.fset TIM_CYC_STAT_PEND 1).fget TIM_CYC_STAT_PEND = 1 :=
    (Dev.fget_fset_same s TIM_CYC_STAT_PEND 1 (by decide)).trans (by decide)
  obtain ⟨pend, clk, out⟩ := (s.fset TIM_CYC_STAT_PEND 1).cfgWaits_spec v eff
  rw [Dev.fset_sh] at clk
  rw [Dev.fset_out] at out
  rw [Dev.cfgAccept_eq]
  exact ⟨pend.trans shown, clk, out⟩

/-- What is forwarded goes out on the link that carries it. -/
theorem Dev.forward_out {x : Nat} (addr : Nat) (link : s.forwardLink = some x) :
    .twin x 6 s.seq (Blk.mk [(0, 64, addr), (8, 64, v.toNat), (16, 16, eff)]) ∈ (s.forward addr v eff).out := by
  have up : x ∈ s.linksUp := by
    unfold Dev.forwardLink at link
    split at link
    · exact List.mem_of_mem_head? link
    · cases link
  unfold Dev.forward
  rw [link]
  dsimp only [Dev.sendTwin]
  rw [if_pos up]
  exact List.mem_cons_self ..

theorem Dev.forward_rest (s : Dev) (addr : Nat) (v : W64) (eff : Nat) : ∃ l, s.forward addr v eff = { s with out := l } := by
  unfold Dev.forward Dev.sendTwin
  split
  · split
    · exact ⟨_, rfl⟩
    · exact ⟨s.out, rfl⟩
  · exact ⟨s.out, rfl⟩

theorem Dev.forward_none (addr : Nat) (link : s.forwardLink = none) : s.forward addr v eff = s := by
  unfold Dev.forward
  rw [link]

end

end Sys2Proof.Machine
end

section
/-!
PROOFS for the family `02_station_cycle`: writes of the fold configuration and of the fold map, and settings that come into force
(O56).
-/
namespace Sys2Proof.Machine

section
variable {s : Dev}

/-! ### An accepted write (R339) -/

theorem Dev.fwdWrite_alone {a : Nat} {v : W64} (link : s.forwardLink = none) : s.fwdWrite a v = s.applyWrite a v := by
  unfold Dev.fwdWrite
  rw [link]
  rfl

/-- A forwarded write waits for its cycle, and changes no register before it. -/
theorem Dev.fwdWrite_later {a : Nat} {v : W64} (link : s.forwardLink ≠ none) :
    (s.fwdWrite a v).sh.tw.fwd = s.sh.tw.fwd ++ [(s.effCycle, a, v)] ∧ (s.fwdWrite a v).regs = s.regs ∧
      ∀ x, s.forwardLink = some x →
        .twin x 6 s.seq (Blk.mk [(0, 64, a), (8, 64, v.toNat), (16, 16, s.effCycle)]) ∈ (s.fwdWrite a v).out := by
  have sends : s.forwardLink.isSome = true := Option.isSome_iff_ne_none.2 link
  unfold Dev.fwdWrite
  rw [if_pos sends]
  obtain ⟨l, rest⟩ := s.forward_rest a v s.effCycle
  extract_lets k
  refine ⟨?_, ?_, fun x hx => Dev.forward_out a hx⟩
  · rw [rest]
    rfl
  · rw [rest]
    rfl

/-! ### The fold configuration -/

theorem Dev.applyWrite_foldCfg {f : Nat} {v : W64} (hf : f < 12) : s.applyWrite (SH_FOLD_CFG f) v = s.foldCfgSet f v := by
  have map : inArr (SH_FOLD_CFG f) (SH_FOLD_MAP 0) 8448 = none := if_neg (by simp only [SH_FOLD_CFG, SH_FOLD_MAP]; omega)
  have cfg : inArr (SH_FOLD_CFG f) (SH_FOLD_CFG 0) 12 = some f := by
    unfold inArr
    rw [if_pos (by simp only [SH_FOLD_CFG]; omega)]
    simp only [SH_FOLD_CFG]
    congr 1
    omega
  unfold Dev.applyWrite
  rw [map, cfg]

/-- The fields of the fold configuration and of the fold map are quiet. -/
theorem quiet_fold {f : Field} (low : 0x20000 ≤ f.reg) (high : f.reg < 0x41000) : quietField f := by
  refine ⟨by omega, not_noteReg_low (by omega) ?_ ?_ ?_ ?_, ?_, ?_, fun h => ?_⟩
  all_goals simp only [GLB_IRQ_STAT, GLB_MSIX_PBA, SH_FLT_STAT, SH_LOG_STAT, SH_TWIN_STAT, TIM_CYC_MIN, TIM_CYC_STAT] at *
  all_goals omega

theorem foldCfg_range {f : Nat} (hf : f < 12) : 0x20000 ≤ SH_FOLD_CFG f ∧ SH_FOLD_CFG f < 0x41000 := by
  unfold SH_FOLD_CFG
  omega

theorem foldMap_range {id : Nat} (hid : id < 8448) : 0x20000 ≤ SH_FOLD_MAP id ∧ SH_FOLD_MAP id < 0x41000 := by
  unfold SH_FOLD_MAP
  omega

theorem Dev.foldCfgSet_rget {f : Nat} {v : W64} (hf : f < 12) :
    (s.foldCfgSet f v).rget (SH_FOLD_CFG f) = v &&& 0xEF000000FFFFFFFF := by
  unfold Dev.foldCfgSet
  extract_lets w re t
  have set : t.rget (SH_FOLD_CFG f) = w := Dev.rget_rset_same ..
  split
  · have quiet : ∀ g, g = wholeReg (SH_FOLD_CFG f) → quietField g := fun g hg =>
      hg ▸ quiet_fold (foldCfg_range hf).1 (foldCfg_range hf).2
    have kept : t.Steady (fun g => g = wholeReg (SH_FOLD_CFG f)) (forAll (t.foldCells f) t fun s id => s.refold id (s.rget (SH_FOLD_MAP id))) :=
      (Dev.Steady.refl t).forAll fun u id _ h => h.refold quiet fun g hg => .inl (by
        rw [hg]
        simp only [wholeReg, SH_FOLD_CFG, SH_FOLD_MAP]
        omega)
    exact (kept.whole rfl).trans set
  · exact set

/-! ### The fold map -/

theorem Dev.applyWrite_foldMap {id : Nat} {v : W64} (hid : id < 8448) :
    s.applyWrite (SH_FOLD_MAP id) v = (s.foldMapSet id (bitsOf v.toNat 0 4)).oosSet id (v.getLsbD 4) := by
  have map : inArr (SH_FOLD_MAP id) (SH_FOLD_MAP 0) 8448 = some id := by
    unfold inArr
    rw [if_pos (by simp only [SH_FOLD_MAP]; omega)]
    simp only [SH_FOLD_MAP]
    congr 1
    omega
  unfold Dev.applyWrite
  rw [map]

theorem Dev.foldMapSet_fold {id fold : Nat} (hid : id < 8448) (hf : fold < 16) : (s.foldMapSet id fold).foldOf id = fold := by
  have quiet : ∀ g, g = SH_FOLD_MAP_FOLD id → quietField g := fun g hg =>
    hg ▸ quiet_fold (foldMap_range hid).1 (foldMap_range hid).2
  have set : (s.fset (SH_FOLD_MAP_FOLD id) fold).fget (SH_FOLD_MAP_FOLD id) = fold :=
    (Dev.fget_fset_same s _ _ (by simp [SH_FOLD_MAP_FOLD])).trans (Nat.mod_eq_of_lt hf)
  unfold Dev.foldMapSet
  extract_lets old t
  split
  · assumption
  · have kept : (s.fset (SH_FOLD_MAP_FOLD id) fold).Steady (fun g => g = SH_FOLD_MAP_FOLD id) t :=
      ((Dev.Steady.refl _).refold quiet fun g hg => .inr (by rw [hg]; simp [SH_FOLD_MAP_FOLD])).twinShow quiet
    split
    · exact ((kept.pathChange quiet).fields _ rfl).trans set
    · exact (kept.fields _ rfl).trans set

theorem Dev.oosSet_fold (s : Dev) (id : Nat) (b : Bool) : (s.oosSet id b).foldOf id = s.foldOf id := by
  have kept := (Dev.Steady.refl (K := fun g => g = SH_FOLD_MAP_FOLD id) (s.fset (SH_FOLD_MAP_OOS id) (b2n b))).penWrite (id := id)
  refine (kept.fields _ rfl).trans ?_
  exact Dev.fget_fset_bits s _ (by simp [SH_FOLD_MAP_OOS]) (.inl (by simp [SH_FOLD_MAP_FOLD, SH_FOLD_MAP_OOS])) rfl

theorem Dev.oosSet_oos (s : Dev) (id : Nat) (b : Bool) : (s.oosSet id b).fbit (SH_FOLD_MAP_OOS id) = b := by
  have kept := (Dev.Steady.refl (K := fun g => g = SH_FOLD_MAP_OOS id) (s.fset (SH_FOLD_MAP_OOS id) (b2n b))).penWrite (id := id)
  have set : (s.fset (SH_FOLD_MAP_OOS id) (b2n b)).fget (SH_FOLD_MAP_OOS id) = b2n b % 2 ^ 1 :=
    Dev.fget_fset_same s _ _ (by simp [SH_FOLD_MAP_OOS])
  have shows : (s.oosSet id b).fget (SH_FOLD_MAP_OOS id) = b2n b % 2 ^ 1 := (kept.fields _ rfl).trans set
  rw [Dev.fbit, shows]
  cases b <;> rfl

theorem bitsOf_zero_four (x : Nat) : bitsOf x 0 4 = x % 16 := by simp [bitsOf]

/-! ### Settings that come into force -/

theorem Dev.forwardLink_congr {s t : Dev} (h : t.rget SH_TWIN_STAT = s.rget SH_TWIN_STAT) : t.forwardLink = s.forwardLink := by
  simp only [Dev.forwardLink, Dev.role, Dev.linksUp, Dev.fget, SH_TWIN_STAT_ROLE, SH_TWIN_STAT_LINKS, h]
  rfl

/-- `PEND` of settings in force: it stands while a partner that is told of them has not come so far. -/
theorem Dev.pendEnd_pend {k : Nat} (h : s.sh.tw.pendSeq = some k) : s.pendEnd.fget TIM_CYC_STAT_PEND =
    if s.forwardLink ≠ none ∧ (∃ q ∈ s.sh.tw.partner.toList, seqDiff q.seq (BitVec.ofNat 16 k) < 0) then s.fget TIM_CYC_STAT_PEND else 0 := by
  have falls : ((s.fset TIM_CYC_STAT_PEND 0).tw (fun t => { t with pendSeq := none })).fget TIM_CYC_STAT_PEND = 0 :=
    (Dev.fget_congr (Dev.tw_regs ..) _).trans ((Dev.fget_fset_same s _ _ (by decide)).trans (by decide))
  unfold Dev.pendEnd
  rw [h]
  dsimp only
  generalize (s.fset TIM_CYC_STAT_PEND 0).tw (fun t => { t with pendSeq := none }) = t at falls
  cases partner : s.sh.tw.partner with
  | none => simp [falls]
  | some q =>
    cases link : s.forwardLink with
    | none => simp [falls]
    | some x =>
      by_cases ahead : 0 ≤ seqDiff q.seq (BitVec.ofNat 16 k)
      · simp [falls, ahead, Int.not_lt.2 ahead]
      · simp [ahead, Int.not_le.1 ahead]

/-- What the registers show at the moment settings come into force. -/
theorem Dev.cfgTaken_shows (s : Dev) (v : W64) (k : Nat) : (s.cfgTaken v k).rget TIM_CYC_CFG = v ∧
    (s.cfgTaken v k).fget TIM_CYC_STAT_PEND =
      if s.forwardLink ≠ none ∧ (∃ q ∈ s.sh.tw.partner.toList, seqDiff q.seq (BitVec.ofNat 16 k) < 0) then s.fget TIM_CYC_STAT_PEND else 0 := by
  unfold Dev.cfgTaken
  extract_lets t
  have cfg : ((t.rset TIM_CYC_CFG v).fset TIM_GRID_GOFS 0).rget TIM_CYC_CFG = v :=
    (Dev.rget_fset_reg _ _ (by decide)).trans (Dev.rget_rset_same ..)
  have other : ∀ a, a ≠ TIM_CYC_CFG → a ≠ TIM_GRID → ((t.rset TIM_CYC_CFG v).fset TIM_GRID_GOFS 0).rget a = s.rget a := fun a h1 h2 =>
    (Dev.rget_fset_reg _ _ h2).trans ((Dev.rget_rset_ne _ _ h1).trans (Dev.rget_congr (Dev.clk_regs ..) a))
  have tw : ((t.rset TIM_CYC_CFG v).fset TIM_GRID_GOFS 0).sh.tw = s.sh.tw := by
    rw [Dev.fset_sh, Dev.rset_sh]
    rfl
  generalize (t.rset TIM_CYC_CFG v).fset TIM_GRID_GOFS 0 = u at cfg other tw
  have link : (u.tw (fun t => { t with pendSeq := some k })).forwardLink = s.forwardLink :=
    Dev.forwardLink_congr (other SH_TWIN_STAT (by decide) (by decide))
  have same : u.sh.tw.partner = s.sh.tw.partner := by rw [tw]
  have partner : (u.tw (fun t => { t with pendSeq := some k })).sh.tw.partner = s.sh.tw.partner := same
  have pend : (u.tw (fun t => { t with pendSeq := some k })).fget TIM_CYC_STAT_PEND = s.fget TIM_CYC_STAT_PEND := by
    simp only [Dev.fget]
    exact congrArg (fun w : W64 => bitsOf w.toNat _ _) (other TIM_CYC_STAT (by decide) (by decide))
  have ends := Dev.pendEnd_pend (s := u.tw (fun t => { t with pendSeq := some k })) rfl
  have kept := (Dev.Steady.refl (K := fun f => f = wholeReg TIM_CYC_CFG) (u.tw (fun t => { t with pendSeq := some k }))).pendEnd
    fun f hf => by
      rw [hf]
      decide
  rw [link, partner, pend] at ends
  exact ⟨(kept.whole rfl).trans cfg, ends⟩

theorem quiet_cycCfg : quietField (wholeReg TIM_CYC_CFG) :=
  ⟨by decide, not_noteReg_low (by decide) (by decide) (by decide) (by decide) (by decide), by decide, by decide, by decide⟩

theorem quiet_pend : quietField TIM_CYC_STAT_PEND :=
  ⟨by decide, not_noteReg_low (by decide) (by decide) (by decide) (by decide) (by decide), by decide, by decide, by decide⟩

/-- Settings that come into force with their t0, in the clock and in the registers. -/
theorem Dev.cfgEffect_spec {v : W64} {k : Nat} (pend : s.sh.clk.cfgPend = some (v, k)) (on : s.sh.clk.gridOn = true)
    (due : k ≤ s.sh.clk.cyc) : s.cfgEffect.sh.clk.cfgInForce = v ∧ s.cfgEffect.sh.clk.cfgPend = none ∧
      s.cfgEffect.sh.clk.realign = true ∧ s.cfgEffect.rget TIM_CYC_CFG = v ∧ s.cfgEffect.fget TIM_CYC_STAT_PEND =
        if s.forwardLink ≠ none ∧ (∃ q ∈ s.sh.tw.partner.toList, seqDiff q.seq (BitVec.ofNat 16 k) < 0)
          then s.fget TIM_CYC_STAT_PEND else 0 := by
  have quiet : ∀ f, f = wholeReg TIM_CYC_CFG ∨ f = TIM_CYC_STAT_PEND → quietField f := by
    rintro f (rfl | rfl)
    · exact quiet_cycCfg
    · exact quiet_pend
  have kept := Dev.cfgEffect_due quiet pend on due
  obtain ⟨inForce, none, realign⟩ := s.cfgTaken_clk v k
  obtain ⟨cfg, falls⟩ := s.cfgTaken_shows v k
  rw [kept.clk, kept.whole (.inl rfl), kept.fields _ (.inr rfl)]
  exact ⟨inForce, none, realign, cfg, falls⟩

end

end Sys2Proof.Machine
end

section
/-!
PROOFS for the family `02_station_cycle`: parameters for the loop engines, auto-tune, and the partitions of the schedulers (O56).
-/
namespace Sys2Proof.Machine

/-! ### A run over the dies in which each step is its own die's -/

/-- Where the step of each die of a list changes only what `view` shows of that die, the run shows each die as its own step leaves
    it. -/
theorem forAll_own {α : Type} {f : Dev → Nat → Dev} {view : Nat → Dev → α} {R : Nat → α → α → Prop} {l : List Nat}
    (distinct : l.Nodup) (own : ∀ s, ∀ i ∈ l, R i (view i s) (view i (f s i)))
    (other : ∀ s, ∀ i ∈ l, ∀ j ∈ l, i ≠ j → view i (f s j) = view i s) (s : Dev) : ∀ i ∈ l, R i (view i s) (view i (forAll l s f)) := by
  have still : ∀ (m : List Nat) (i : Nat) (t : Dev), i ∈ l → (∀ j ∈ m, j ∈ l ∧ i ≠ j) → view i (forAll m t f) = view i t := by
    intro m i
    induction m with
    | nil => exact fun t _ _ => rfl
    | cons j m ih =>
      intro t hi hm
      obtain ⟨hj, ne⟩ := hm j (List.mem_cons_self ..)
      exact (ih (f t j) hi fun k hk => hm k (List.mem_cons_of_mem _ hk)).trans (other t i hi j hj ne)
  have run : ∀ (m : List Nat) (t : Dev), m.Nodup → (∀ j ∈ m, j ∈ l) → ∀ i ∈ m, R i (view i t) (view i (forAll m t f)) := by
    intro m
    induction m with
    | nil => exact fun _ _ _ i hi => absurd hi List.not_mem_nil
    | cons j m ih =>
      intro t nodup sub i hi
      obtain ⟨fresh, rest⟩ := List.nodup_cons.1 nodup
      rcases List.mem_cons.1 hi with rfl | later
      · have same := still m i (f t i) (sub i (List.mem_cons_self ..)) fun k hk =>
          ⟨sub k (List.mem_cons_of_mem _ hk), fun e => fresh (e ▸ hk)⟩
        have first := own t i (sub i (List.mem_cons_self ..))
        exact (same ▸ first : R i (view i t) (view i (forAll m (f t i) f)))
      · have before := other t i (sub i hi) j (sub j (List.mem_cons_self ..)) fun e => fresh (e ▸ later)
        have after := ih (f t j) rest (fun k hk => sub k (List.mem_cons_of_mem _ hk)) i later
        rwa [before] at after
  exact run l s distinct fun _ h => h

theorem Dev.cd_modCd_ne (s : Dev) {i j : Nat} (f : CtrlDie → CtrlDie) (hi : i < 4) (hj : j < 4) (h : i ≠ j) : (s.modCd j f).cd i = s.cd i :=
  Dev.cd_setCd_ne s _ hj hi h

theorem Dev.powered_modCd (s : Dev) (j i : Nat) (f : CtrlDie → CtrlDie) : (s.modCd j f).powered i = s.powered i := by
  simp only [Dev.powered, Dev.present, Dev.fbit, Dev.fget, Dev.rget, Dev.modCd_variant, Dev.modCd_sh, Dev.modCd_regs]
  rfl

/-- What every powered control die takes of a change that depends on the die and on the clock alone. -/
theorem Dev.forPowered {g : ShClk → CtrlDie → CtrlDie} (s : Dev) {i : Nat} (hi : i < 4) :
    (forAll (List.range 4) s fun s d => if s.powered d then s.modCd d (g s.sh.clk) else s).cd i =
      if s.powered i then g s.sh.clk (s.cd i) else s.cd i := by
  have all := forAll_own (f := fun s d => if s.powered d then s.modCd d (g s.sh.clk) else s)
    (view := fun i s => (s.cd i, s.powered i, s.sh.clk)) (R := fun _ a b => b.1 = if a.2.1 = true then g a.2.2 a.1 else a.1)
    (l := List.range 4) List.nodup_range (fun t j hj => ?_) (fun t i hi j hj ne => ?_) s i (List.mem_range.2 hi)
  · exact all
  · dsimp only
    split
    · exact Dev.cd_modCd_same ..
    · rfl
  · rw [List.mem_range] at hi hj
    split
    · rw [Dev.cd_modCd_ne t _ hi hj ne, Dev.powered_modCd, Dev.modCd_sh]
    · rfl

theorem Dev.regs_ite {a b : Dev} {r : Store W64} {c : Prop} [Decidable c] (ha : a.regs = r) (hb : b.regs = r) :
    (if c then a else b).regs = r := by
  split <;> assumption

theorem Dev.forPowered_regs {g : ShClk → CtrlDie → CtrlDie} (s : Dev) :
    (forAll (List.range 4) s fun s d => if s.powered d then s.modCd d (g s.sh.clk) else s).regs = s.regs := by
  unfold forAll
  induction List.range 4 generalizing s with
  | nil => rfl
  | cons d l ih =>
    exact (ih _).trans (Dev.regs_ite (Dev.modCd_regs ..) rfl)

/-! ### Auto-tune (R201, R206) -/

theorem Dev.tuneSend_cd (s : Dev) (start : Bool) {i : Nat} (hi : i < 4) : (s.tuneSend start).cd i =
    if s.powered i = true then { s.cd i with tuneReq := (s.cd i).tuneReq ++ [(start, if s.sh.clk.gridOn then s.sh.clk.cyc + 1 else 0)] }
    else s.cd i :=
  s.forPowered (g := fun c x => { x with tuneReq := x.tuneReq ++ [(start, if c.gridOn then c.cyc + 1 else 0)] }) hi

theorem Dev.tuneSend_regs (s : Dev) (start : Bool) : (s.tuneSend start).regs = s.regs :=
  s.forPowered_regs (g := fun c x => { x with tuneReq := x.tuneReq ++ [(start, if c.gridOn then c.cyc + 1 else 0)] })

theorem CtrlDie.stat_setStat_false (x : CtrlDie) (i : Nat) : (x.setStat i 24 false).stat i 24 = false := by
  have word : (x.setStat i 24 false).leN (32 * i + 10) = putBits (x.leN (32 * i + 10)) 24 1 0 := by
    simp only [CtrlDie.setStat, CtrlDie.setLeBits, CtrlDie.setLe, CtrlDie.leN, CtrlDie.leWord, Store.get_set_same]
    exact toNat_putBits32 _ _ _ _ (by decide)
  have bit : bitsOf ((x.setStat i 24 false).leN (32 * i + 10)) 24 1 = 0 % 2 ^ 1 := by
    rw [word, bitsOf_putBits_same]
  have even : (x.setStat i 24 false).leN (32 * i + 10) / 2 ^ 24 % 2 = 0 := bit
  unfold CtrlDie.stat bitOf
  rw [even]
  rfl

theorem CtrlDie.tuneEnd_eq (x : CtrlDie) (a : Autotune) : ∃ y : CtrlDie, x.tuneEnd a = { y.setStat a.slot 24 false with tune := none } :=
  ⟨_, rfl⟩

theorem CtrlDie.stat_tune (x : CtrlDie) (t : Option Autotune) (i b : Nat) : ({ x with tune := t } : CtrlDie).stat i b = x.stat i b := rfl

/-- A test that ends clears the slot's bit and leaves the die without a test. -/
theorem CtrlDie.tuneEnd_spec (x : CtrlDie) (a : Autotune) : (x.tuneEnd a).tune = none ∧ (x.tuneEnd a).stat a.slot 24 = false := by
  obtain ⟨y, e⟩ := x.tuneEnd_eq a
  have clear := y.stat_setStat_false a.slot
  rw [e, CtrlDie.stat_tune]
  exact ⟨rfl, clear⟩

theorem Dev.elapse_cd (s : Dev) (n i : Nat) : (s.elapse n).cd i = s.cd i := by
  rw [s.elapse_timed n]
  rcases i with _ | _ | _ | i <;> rfl

theorem Dev.tuneAbort_some {s : Dev} {d why : Nat} {a : Autotune} (h : (s.cd d).tune = some a) :
    s.tuneAbort d why = ((s.modCd d (fun x => x.tuneEnd a)).fset (LE_AT_STAT_STATE d) 3).fset (LE_AT_STAT_WHY d) why := by
  unfold Dev.tuneAbort
  rw [h]

theorem leAtStat_ne {i j : Nat} (h : i ≠ j) : LE_AT_STAT i ≠ LE_AT_STAT j := by
  unfold LE_AT_STAT cdBase
  omega

/-- What a time-out leaves in a die and in its auto-tune register. -/
def TimedOut (_ : Nat) (a b : CtrlDie × W64) : Prop :=
  (∀ t, a.1.tune = some t → b.1.tune = none ∧ b.1.stat t.slot 24 = false ∧ bitsOf b.2.toNat 60 4 = 3 ∧ bitsOf b.2.toNat 56 4 = 2) ∧
    (a.1.tune = none → b.1 = a.1)

theorem Dev.tuneTimeout_own (s : Dev) (i : Nat) : TimedOut i (s.cd i, s.rget (LE_AT_STAT i))
    ((s.tuneTimeout i).cd i, (s.tuneTimeout i).rget (LE_AT_STAT i)) := by
  unfold Dev.tuneTimeout
  refine ⟨fun t running => ?_, fun idle => ?_⟩
  · dsimp only at running ⊢
    rw [running]
    dsimp only
    generalize come : s.elapse (t.since.toNat + 1000000 * s.fget SH_AT_CFG_TMO - s.sh.clk.raw.toNat) = u
    have test : (u.cd i).tune = some t := by
      rw [← come, Dev.elapse_cd]
      exact running
    rw [Dev.tuneAbort_some test, Dev.cd_fset, Dev.cd_fset, Dev.cd_modCd_same]
    obtain ⟨none, clear⟩ := (u.cd i).tuneEnd_spec t
    generalize u.modCd i (fun x => x.tuneEnd t) = w
    have beside : ((w.fset (LE_AT_STAT_STATE i) 3).fset (LE_AT_STAT_WHY i) 2).fget (LE_AT_STAT_STATE i) =
        (w.fset (LE_AT_STAT_STATE i) 3).fget (LE_AT_STAT_STATE i) :=
      Dev.fget_fset_bits _ _ (by simp [LE_AT_STAT_WHY]) (.inr (by simp [LE_AT_STAT_WHY, LE_AT_STAT_STATE])) rfl
    have state := beside.trans (Dev.fget_fset_same w (LE_AT_STAT_STATE i) 3 (by simp [LE_AT_STAT_STATE]))
    have why := Dev.fget_fset_same (w.fset (LE_AT_STAT_STATE i) 3) (LE_AT_STAT_WHY i) 2 (by simp [LE_AT_STAT_WHY])
    exact ⟨none, clear, state, why⟩
  · dsimp only at idle ⊢
    rw [idle]

theorem Dev.tuneTimeout_other (s : Dev) {i j : Nat} (hi : i < 4) (hj : j < 4) (ne : i ≠ j) :
    ((s.tuneTimeout j).cd i, (s.tuneTimeout j).rget (LE_AT_STAT i)) = (s.cd i, s.rget (LE_AT_STAT i)) := by
  unfold Dev.tuneTimeout
  split
  · next a running =>
    generalize come : s.elapse (a.since.toNat + 1000000 * s.fget SH_AT_CFG_TMO - s.sh.clk.raw.toNat) = u
    have test : (u.cd j).tune = some a := by
      rw [← come, Dev.elapse_cd]
      exact running
    have same : u.cd i = s.cd i := by rw [← come, Dev.elapse_cd]
    have regs : u.regs = s.regs := by rw [← come, Dev.elapse_regs]
    rw [Dev.tuneAbort_some test, Dev.cd_fset, Dev.cd_fset, Dev.cd_modCd_ne u _ hi hj ne, same]
    have base : (u.modCd j (fun x => x.tuneEnd a)).rget (LE_AT_STAT i) = s.rget (LE_AT_STAT i) :=
      Dev.rget_congr ((Dev.modCd_regs ..).trans regs) _
    generalize u.modCd j (fun x => x.tuneEnd a) = w at base
    have first : (w.fset (LE_AT_STAT_STATE j) 3).rget (LE_AT_STAT i) = w.rget (LE_AT_STAT i) := Dev.rget_fset_reg _ _ (leAtStat_ne ne)
    have second : ((w.fset (LE_AT_STAT_STATE j) 3).fset (LE_AT_STAT_WHY j) 2).rget (LE_AT_STAT i) =
        (w.fset (LE_AT_STAT_STATE j) 3).rget (LE_AT_STAT i) := Dev.rget_fset_reg _ _ (leAtStat_ne ne)
    rw [second, first, base]
  · rfl

/-- A time-out ends every test that runs, with its state and cause, and leaves the other dies alone. -/
theorem Dev.tuneTimeouts_spec (s : Dev) {i : Nat} (hi : i < 4) :
    (∀ a, (s.cd i).tune = some a → ((forAll (List.range 4) s Dev.tuneTimeout).cd i).tune = none ∧
      ((forAll (List.range 4) s Dev.tuneTimeout).cd i).stat a.slot 24 = false ∧
      (forAll (List.range 4) s Dev.tuneTimeout).fget (LE_AT_STAT_STATE i) = 3 ∧
      (forAll (List.range 4) s Dev.tuneTimeout).fget (LE_AT_STAT_WHY i) = 2) ∧
    ((s.cd i).tune = none → (forAll (List.range 4) s Dev.tuneTimeout).cd i = s.cd i) :=
  forAll_own (view := fun i s => (s.cd i, s.rget (LE_AT_STAT i))) (R := TimedOut) List.nodup_range
    (fun t j _ => t.tuneTimeout_own j)
    (fun t _ hi _ hj ne => t.tuneTimeout_other (List.mem_range.1 hi) (List.mem_range.1 hj) ne) s i (List.mem_range.2 hi)

end Sys2Proof.Machine
end

section
/-!
PROOFS for the family `02_station_cycle`: parameters sent to the loop engines (O56).
-/
namespace Sys2Proof.Machine

section
variable {s : Dev} {v : W64}

theorem Dev.cd_refuseWr (s : Dev) (a : Nat) : (s.refuseWr a).cd = s.cd := by
  unfold Dev.refuseWr
  exact (Dev.cd_fset ..).trans (Dev.cd_fset ..)

/-- A block that differs from another in `SH_LE_PARAM` alone. -/
structure Dev.ButLeParam (s t : Dev) : Prop where
  rest : t = { s with regs := t.regs }
  rget : ∀ a, a ≠ SH_LE_PARAM → t.rget a = s.rget a

theorem Dev.ButLeParam.refl (s : Dev) : s.ButLeParam s := ⟨rfl, fun _ _ => rfl⟩

theorem Dev.ButLeParam.rset {t : Dev} {w : W64} (h : s.ButLeParam t) : s.ButLeParam (t.rset SH_LE_PARAM w) where
  rest := by
    rw [h.rest]
    rfl
  rget a ha := (Dev.rget_rset_ne _ _ ha).trans (h.rget a ha)

theorem Dev.ButLeParam.fset {t : Dev} {f : Field} {n : Nat} (h : s.ButLeParam t) (hf : f.reg = SH_LE_PARAM) : s.ButLeParam (t.fset f n) := by
  unfold Dev.fset
  rw [hf]
  exact h.rset

section
variable {t : Dev} (h : s.ButLeParam t)
include h

theorem Dev.ButLeParam.fget {f : Field} (hf : f.reg ≠ SH_LE_PARAM) : t.fget f = s.fget f := by
  simp only [Dev.fget, h.rget _ hf]

theorem Dev.ButLeParam.cd : t.cd = s.cd := by rw [h.rest]; rfl

theorem Dev.ButLeParam.sh : t.sh = s.sh := by rw [h.rest]

theorem Dev.ButLeParam.quiet : t.quiet = s.quiet := by
  have mode : t.mode = s.mode := h.fget (by decide)
  simp only [Dev.quiet, mode]

theorem Dev.ButLeParam.powered {d : Nat} (hd : d < 8) : t.powered d = s.powered d := by
  have variant : t.present d = s.present d := by rw [h.rest]; rfl
  have on : t.fget (GLB_DIE_PWR d) = s.fget (GLB_DIE_PWR d) := h.fget (by simp only [GLB_DIE_PWR, GLB_DIE, SH_LE_PARAM]; omega)
  have fatal : t.fget (GLB_DIE_FATAL d) = s.fget (GLB_DIE_FATAL d) := h.fget (by simp only [GLB_DIE_FATAL, GLB_DIE, SH_LE_PARAM]; omega)
  simp only [Dev.powered, Dev.fbit, variant, on, fatal, h.sh]

theorem Dev.ButLeParam.firstCd : t.firstCd = s.firstCd := by
  have same : (List.range 4).find? (fun d => t.powered d) = (List.range 4).find? (fun d => s.powered d) :=
    List.find?_congr fun d hd => h.powered (by have := List.mem_range.1 hd; omega)
  simp only [Dev.firstCd, same]

theorem Dev.ButLeParam.allowed : t.leParamOk t.firstCd v = s.leParamOk s.firstCd v := by
  simp only [Dev.leParamOk, h.firstCd, h.cd, h.quiet]

/-- A refused parameter write counts, and no control die hears of it. -/
theorem Dev.ButLeParam.refused : (t.refuseWr SH_LE_PARAM).fget SH_REFWR_ADDR = SH_LE_PARAM ∧
    (t.refuseWr SH_LE_PARAM).fget SH_REFWR_COUNT = min (s.fget SH_REFWR_COUNT + 1) 0xFFFFFFFF ∧
    (t.refuseWr SH_LE_PARAM).fget SH_LE_PARAM_REFD = t.fget SH_LE_PARAM_REFD ∧
    ∀ i < 4, (t.refuseWr SH_LE_PARAM).cd i = s.cd i := by
  obtain ⟨addr, count, other, -⟩ := t.refuseWr_spec (a := SH_LE_PARAM) (by decide)
  have refd : (t.refuseWr SH_LE_PARAM).fget SH_LE_PARAM_REFD = t.fget SH_LE_PARAM_REFD :=
    congrArg (fun w : W64 => bitsOf w.toNat 61 1) (other SH_LE_PARAM (by decide))
  refine ⟨addr, ?_, refd, fun i _ => ?_⟩
  · rw [count, h.fget (by decide)]
  · rw [Dev.cd_refuseWr, h.cd]

end

theorem bitsOf_one (x : W64) (i : Nat) : bitsOf x.toNat i 1 = (x.getLsbD i).toNat := by
  rw [bitsOf, BitVec.getLsbD, Nat.testBit_eq_decide_div_mod_eq]
  have := Nat.mod_two_eq_zero_or_one (x.toNat / 2 ^ i)
  rcases this with e | e <;> simp [e]

/-- The plain part of a write of `SH_LE_PARAM` leaves `BUSY` and every other register. -/
theorem Dev.plainWrite_leParam (s : Dev) (v : W64) :
    s.ButLeParam (s.plainWrite SH_LE_PARAM v) ∧ (s.plainWrite SH_LE_PARAM v).fbit SH_LE_PARAM_BUSY = s.fbit SH_LE_PARAM_BUSY := by
  obtain ⟨row, found, mask, none⟩ := leParam_row
  cases up : s.winUp SH_LE_PARAM with
  | true =>
    rw [Dev.plainWrite_eq found mask none up]
    refine ⟨(Dev.ButLeParam.refl s).rset, ?_⟩
    have word := s.rget_rset_same SH_LE_PARAM ((s.rget SH_LE_PARAM &&& ~~~0x1FFF01FFFFFFFF) ||| (v &&& 0x1FFF01FFFFFFFF))
    generalize s.rset SH_LE_PARAM ((s.rget SH_LE_PARAM &&& ~~~0x1FFF01FFFFFFFF) ||| (v &&& 0x1FFF01FFFFFFFF)) = t at word
    have bit : t.fget SH_LE_PARAM_BUSY = s.fget SH_LE_PARAM_BUSY := by
      change bitsOf (t.rget SH_LE_PARAM).toNat 62 1 = bitsOf (s.rget SH_LE_PARAM).toNat 62 1
      rw [word, bitsOf_one, bitsOf_one]
      simp
    simp only [Dev.fbit, bit]
  | false =>
    have same : s.plainWrite SH_LE_PARAM v = s := by
      unfold Dev.plainWrite
      rw [found]
      simp [up]
    rw [same]
    exact ⟨.refl s, rfl⟩

/-- `LE_PARAM_GO` with its bit clear is the plain write. -/
theorem Dev.leParamGo_clear (go : v.getLsbD 63 = false) : s.leParamGo v = s.plainWrite SH_LE_PARAM v := by
  unfold Dev.leParamGo
  rw [go]
  exact if_pos rfl

theorem Dev.leParamGo_busy (go : v.getLsbD 63 = true) (busy : s.fbit SH_LE_PARAM_BUSY = true) :
    s.leParamGo v = (s.plainWrite SH_LE_PARAM v).refuseWr SH_LE_PARAM := by
  have held : (s.plainWrite SH_LE_PARAM v).fbit SH_LE_PARAM_BUSY = true := (s.plainWrite_leParam v).2.trans busy
  unfold Dev.leParamGo
  rw [go]
  exact (if_neg Bool.false_ne_true).trans (if_pos held)

theorem Dev.leParamGo_refused (go : v.getLsbD 63 = true) (busy : s.fbit SH_LE_PARAM_BUSY = false)
    (no : s.leParamOk s.firstCd v = false) :
    s.leParamGo v = ((s.plainWrite SH_LE_PARAM v).fset SH_LE_PARAM_REFD 1).refuseWr SH_LE_PARAM := by
  obtain ⟨but, same⟩ := s.plainWrite_leParam v
  have clear : (s.plainWrite SH_LE_PARAM v).fbit SH_LE_PARAM_BUSY = false := same.trans busy
  have refused : (s.plainWrite SH_LE_PARAM v).leParamOk (s.plainWrite SH_LE_PARAM v).firstCd v = false := but.allowed.trans no
  unfold Dev.leParamGo
  extract_lets u
  rw [go, if_neg (show ¬ (!true) = true by decide), if_neg (by rw [clear]; exact Bool.false_ne_true), if_pos (by rw [refused]; rfl)]

/-- The parameter write that is sent, to every powered control die. -/
theorem Dev.leParamGo_sent (go : v.getLsbD 63 = true) (busy : s.fbit SH_LE_PARAM_BUSY = false)
    (ok : s.leParamOk s.firstCd v = true) : s.leParamGo v =
      forAll (List.range 4) (((s.plainWrite SH_LE_PARAM v).fset SH_LE_PARAM_REFD 0).fset SH_LE_PARAM_BUSY 1) fun s d =>
        if s.powered d then
          s.modCd d ((fun (c : ShClk) (x : CtrlDie) => { x with leReq := some (v, if c.gridOn then c.cyc + 1 else 0) }) s.sh.clk)
        else s := by
  obtain ⟨but, same⟩ := s.plainWrite_leParam v
  have clear : (s.plainWrite SH_LE_PARAM v).fbit SH_LE_PARAM_BUSY = false := same.trans busy
  have allowed : (s.plainWrite SH_LE_PARAM v).leParamOk (s.plainWrite SH_LE_PARAM v).firstCd v = true := but.allowed.trans ok
  unfold Dev.leParamGo
  extract_lets u t
  rw [go, if_neg (show ¬ (!true) = true by decide), if_neg (by rw [clear]; exact Bool.false_ne_true),
    if_neg (by rw [allowed]; exact Bool.false_ne_true)]
  rfl

/-- A parameter write that is sent shows `BUSY`, and every powered control die takes it for the next cycle. -/
theorem Dev.leParamGo_sent_spec (go : v.getLsbD 63 = true) (busy : s.fbit SH_LE_PARAM_BUSY = false)
    (ok : s.leParamOk s.firstCd v = true) : (s.leParamGo v).fget SH_LE_PARAM_BUSY = 1 ∧ (s.leParamGo v).fget SH_LE_PARAM_REFD = 0 ∧
      ∀ i < 4, ((s.leParamGo v).cd i).leReq =
        if s.powered i = true then some (v, if s.sh.clk.gridOn then s.sh.clk.cyc + 1 else 0) else (s.cd i).leReq := by
  obtain ⟨but, -⟩ := s.plainWrite_leParam v
  rw [Dev.leParamGo_sent go busy ok]
  generalize s.plainWrite SH_LE_PARAM v = u at but
  have setBusy := Dev.fget_fset_same (u.fset SH_LE_PARAM_REFD 0) SH_LE_PARAM_BUSY 1 (by decide)
  have setRefd := Dev.fget_fset_same u SH_LE_PARAM_REFD 0 (by decide)
  have beside : ((u.fset SH_LE_PARAM_REFD 0).fset SH_LE_PARAM_BUSY 1).fget SH_LE_PARAM_REFD = (u.fset SH_LE_PARAM_REFD 0).fget SH_LE_PARAM_REFD :=
    Dev.fget_fset_bits _ _ (by decide) (by decide) rfl
  have but2 : s.ButLeParam ((u.fset SH_LE_PARAM_REFD 0).fset SH_LE_PARAM_BUSY 1) := (but.fset rfl).fset rfl
  have refd := beside.trans setRefd
  generalize (u.fset SH_LE_PARAM_REFD 0).fset SH_LE_PARAM_BUSY 1 = t at setBusy refd but2
  have regs := t.forPowered_regs (g := fun (c : ShClk) (x : CtrlDie) => { x with leReq := some (v, if c.gridOn then c.cyc + 1 else 0) })
  refine ⟨(Dev.fget_congr regs _).trans setBusy, (Dev.fget_congr regs _).trans refd, fun i hi => ?_⟩
  have die := t.forPowered (g := fun (c : ShClk) (x : CtrlDie) => { x with leReq := some (v, if c.gridOn then c.cyc + 1 else 0) }) hi
  rw [die, but2.powered (by omega), but2.sh, but2.cd]
  split <;> rfl

/-- A refused one counts, and shows `REFD` where none waits. -/
theorem Dev.leParamGo_refused_spec (go : v.getLsbD 63 = true)
    (no : s.fbit SH_LE_PARAM_BUSY = true ∨ s.leParamOk s.firstCd v = false) : (s.leParamGo v).fget SH_REFWR_ADDR = SH_LE_PARAM ∧
      (s.leParamGo v).fget SH_REFWR_COUNT = min (s.fget SH_REFWR_COUNT + 1) 0xFFFFFFFF ∧
      (s.fbit SH_LE_PARAM_BUSY = false → (s.leParamGo v).fget SH_LE_PARAM_REFD = 1) ∧ ∀ i < 4, (s.leParamGo v).cd i = s.cd i := by
  obtain ⟨but, -⟩ := s.plainWrite_leParam v
  cases busy : s.fbit SH_LE_PARAM_BUSY with
  | true =>
    obtain ⟨addr, count, -, dies⟩ := but.refused
    rw [Dev.leParamGo_busy go busy]
    exact ⟨addr, count, fun e => Bool.noConfusion e, dies⟩
  | false =>
    have refused : s.leParamOk s.firstCd v = false := no.resolve_left (by rw [busy]; exact Bool.false_ne_true)
    have but2 : s.ButLeParam ((s.plainWrite SH_LE_PARAM v).fset SH_LE_PARAM_REFD 1) := but.fset rfl
    obtain ⟨addr, count, refd, dies⟩ := but2.refused
    rw [Dev.leParamGo_refused go busy refused]
    exact ⟨addr, count, fun _ => refd.trans (Dev.fget_fset_same _ SH_LE_PARAM_REFD 1 (by decide)), dies⟩

theorem bitOf_toNat (x : W64) (i : Nat) : bitOf x.toNat i = x.getLsbD i := by
  rw [bitOf, BitVec.getLsbD, Nat.testBit_eq_decide_div_mod_eq]

/-- What R202 allows, by the mode and by the slot's type in the die the shepherd goes by. -/
theorem Dev.leParamOk_eq (s : Dev) (v : W64) : s.leParamOk s.firstCd v =
    if v.getLsbD 32 then s.quiet || decide (bitsOf v.toNat 40 5 ∈ [1, 2, 3, 4, 5, 9])
    else if s.quiet then !(decide (bitsOf v.toNat 40 5 = 7) && !(s.cd s.firstCd).leExt (bitsOf v.toNat 45 8)) &&
      !decide (bitsOf v.toNat 40 5 = 10)
    else if (s.cd s.firstCd).leExt (bitsOf v.toNat 45 8) then decide (bitsOf v.toNat 40 5 < 4)
    else decide (bitsOf v.toNat 40 5 ∈ [5, 6, 8, 9]) || (decide (11 ≤ bitsOf v.toNat 40 5) &&
      (s.cd s.firstCd).leListed (bitsOf v.toNat 45 8) (bitsOf v.toNat 40 5) &&
      !decide (bitsOf v.toNat 40 5 ∈ stateWords ((s.cd s.firstCd).ctrl (bitsOf v.toNat 45 8) 28 3))) := by
  unfold Dev.leParamOk
  extract_lets n w x i ext
  have gen : bitOf n 32 = v.getLsbD 32 := bitOf_toNat v 32
  have six : decide (w ∈ [1, 2, 3, 4, 5, 9]) =
      (decide (w = 1) || decide (w = 2) || decide (w = 3) || decide (w = 4) || decide (w = 5) || decide (w = 9)) := by
    simp [Bool.or_assoc]
  have four : decide (w ∈ [5, 6, 8, 9]) = (decide (w = 5) || decide (w = 6) || decide (w = 8) || decide (w = 9)) := by
    simp [Bool.or_assoc]
  have words : bitsOf v.toNat 40 5 = w := rfl
  rw [gen, words, six, four]
  cases s.quiet <;> rfl

end

end Sys2Proof.Machine
end

section
/-!
PROOFS for the family `02_station_cycle`: writes of the cycle settings, of the folds and of the mode settings (O56).
-/
namespace Sys2Proof.Machine

section
variable {s : Dev} {v : W64}

/-! ### `TIM_CYC_CFG` (R90-R93) -/

/-- The check that refuses settings is the first of R90's table that fails. -/
theorem Dev.cfgReason_find (s : Dev) (v : W64) (fails : Nat → Bool) (h1 : fails 1 = !s.quiet)
    (h2 : fails 2 = !(decide (200 ≤ cfgPeriod v) && decide (cfgPeriod v ≤ 10000) && decide (110 ≤ cfgEmit v) &&
      decide (cfgEmit v < cfgStile v) && decide (cfgStile v < cfgApply v)))
    (h3 : fails 3 = (s.fbit TIM_CYC_MIN_VALID && decide (cfgStile v < (s.minsOf s.minRings v).stileMin)))
    (h4 : fails 4 = (s.fbit TIM_CYC_MIN_VALID && decide (cfgApply v < (s.minsOf s.minRings v).applyMin)))
    (h5 : fails 5 = (s.fbit TIM_CYC_MIN_VALID && decide (cfgPeriod v < (s.minsOf s.minRings v).periodMin)))
    (h6 : fails 6 = decide (cfgPeriod v + (if s.fbit TIM_CYC_MIN_VALID then (s.minsOf s.minRings v).tclose else cfgEmit v) + 40 <
      cfgStile v))
    (h7 : fails 7 = decide (4 * cfgPeriod v < cfgApply v)) (h8 : fails 8 = s.fbit TIM_CYC_STAT_PEND) :
    s.cfgReason v = (List.range' 1 8).find? fails := by
  rw [find?_range'_eight, h1, h2, h3, h4, h5, h6, h7, h8]
  unfold Dev.cfgReason
  simp only [Bool.and_eq_true, decide_eq_true_eq]

theorem Dev.cfgWrite_standby (h : s.standby = true) : s.cfgWrite v = s.refuseWr TIM_CYC_CFG := if_pos h

theorem Dev.cfgWrite_refused {k : Nat} (h : s.standby = false) (why : s.cfgReason (cfgBits v) = some k) :
    s.cfgWrite v = s.cfgRefuse k := by
  unfold Dev.cfgWrite
  extract_lets w
  rw [if_neg (by rw [h]; exact Bool.false_ne_true), why]

section
variable {t : Dev} (h : s.standby = false) (why : s.cfgReason (cfgBits v) = none)
include h why

theorem Dev.cfgWrite_passed (answer : s.partnerRefuses = (none, t)) :
    s.cfgWrite v = (t.forward TIM_CYC_CFG (cfgBits v) t.effCycle).cfgAccept (cfgBits v) t.effCycle := by
  unfold Dev.cfgWrite
  extract_lets w
  rw [if_neg (by rw [h]; exact Bool.false_ne_true), why, answer]

theorem Dev.cfgWrite_partner {k : Nat} (answer : s.partnerRefuses = (some k, t)) : s.cfgWrite v = t.cfgRefuse k := by
  unfold Dev.cfgWrite
  extract_lets w
  rw [if_neg (by rw [h]; exact Bool.false_ne_true), why, answer]

end

theorem Dev.partnerRefuses_alone (h : s.role ≠ 1) : s.partnerRefuses = (none, s) := if_neg h

/-- What the partner answers is drawn: it accepts, or refuses with one of the minimums' numbers. -/
theorem Dev.partnerRefuses_cases (s : Dev) : ∃ n, s.partnerRefuses.2 = { s with freeCtr := n } ∧
    ∀ k, s.partnerRefuses.1 = some k → k ∈ [3, 4, 5, 6] := by
  unfold Dev.partnerRefuses
  split
  · dsimp only [Dev.free]
    split
    · refine ⟨_, rfl, fun k hk => ?_⟩
      have lt : ∀ i < 4, [3, 4, 5, 6].getD i 0 ∈ [3, 4, 5, 6] := by decide
      rw [← Option.some.inj hk]
      exact lt _ (Nat.mod_lt _ (by decide))
    · exact ⟨_, rfl, fun k hk => nomatch hk⟩
  · exact ⟨s.freeCtr, rfl, fun k hk => nomatch hk⟩

theorem Dev.forwardLink_alone (h : s.role ≠ 1) : s.forwardLink = none := if_neg h

/-- Settings that pass at a package without a partner wait for their cycle. -/
theorem Dev.cfgWrite_alone (h : s.standby = false) (why : s.cfgReason (cfgBits v) = none) (role : s.role ≠ 1) :
    (s.cfgWrite v).fget TIM_CYC_STAT_PEND = 1 ∧ (s.cfgWrite v).sh.clk = { s.sh.clk with cfgPend := some (cfgBits v, s.effCycle) } := by
  rw [Dev.cfgWrite_passed h why (Dev.partnerRefuses_alone role), Dev.forward_none _ (Dev.forwardLink_alone role)]
  obtain ⟨pend, clk, -⟩ := s.cfgAccept_spec (cfgBits v) s.effCycle
  exact ⟨pend, clk⟩

/-- At the duty, settings that pass are forwarded and wait, or the partner refuses them. -/
theorem Dev.cfgWrite_duty (h : s.standby = false) (why : s.cfgReason (cfgBits v) = none) :
    ((s.cfgWrite v).fget TIM_CYC_STAT_PEND = 1 ∧ (s.cfgWrite v).sh.clk = { s.sh.clk with cfgPend := some (cfgBits v, s.effCycle) } ∧
      ∀ x, s.forwardLink = some x → .twin x 6 s.seq (Blk.mk [(0, 64, TIM_CYC_CFG), (8, 64, (cfgBits v).toNat), (16, 16, s.effCycle)]) ∈
        (s.cfgWrite v).out) ∨
    ∃ k ∈ [3, 4, 5, 6], ∃ n, s.cfgWrite v = { s with freeCtr := n }.cfgRefuse k := by
  obtain ⟨n, same, named⟩ := s.partnerRefuses_cases
  cases answer : s.partnerRefuses.1 with
  | some k => exact .inr ⟨k, named k answer, n, Dev.cfgWrite_partner h why (Prod.ext answer same)⟩
  | none =>
    left
    rw [Dev.cfgWrite_passed h why (Prod.ext answer same)]
    have link : ({ s with freeCtr := n } : Dev).forwardLink = s.forwardLink := Dev.forwardLink_congr rfl
    have cyc : ({ s with freeCtr := n } : Dev).effCycle = s.effCycle := by
      unfold Dev.effCycle
      rw [link]
      rfl
    have seq : ({ s with freeCtr := n } : Dev).seq = s.seq := rfl
    have clk0 : ({ s with freeCtr := n } : Dev).sh = s.sh := rfl
    rw [cyc]
    generalize ({ s with freeCtr := n } : Dev) = t at link seq clk0
    obtain ⟨l, rest⟩ := t.forward_rest TIM_CYC_CFG (cfgBits v) s.effCycle
    obtain ⟨pend, clk, out⟩ := (t.forward TIM_CYC_CFG (cfgBits v) s.effCycle).cfgAccept_spec (cfgBits v) s.effCycle
    have sh : (t.forward TIM_CYC_CFG (cfgBits v) s.effCycle).sh = s.sh := by rw [rest, ← clk0]
    refine ⟨pend, by rw [clk, sh], fun x hx => out.subset ?_⟩
    rw [← seq]
    exact Dev.forward_out TIM_CYC_CFG (link.trans hx)

/-! ### `SH_FOLD_CFG` and `SH_FOLD_MAP` (R117-R122) -/

theorem Dev.foldCfgWrite_refused {f : Nat} (h : s.standby = true ∨ s.quiet = false ∨ foldBad v (s.settledMap f) = true) :
    s.foldCfgWrite f v = s.refuseWr (SH_FOLD_CFG f) := by
  refine if_pos (h.imp_right (Or.imp_left fun e => ?_))
  rw [e]
  exact Bool.false_ne_true

theorem Dev.foldCfgWrite_taken {f : Nat} (h1 : s.standby = false) (h2 : s.quiet = true) (h3 : foldBad v (s.settledMap f) = false) :
    s.foldCfgWrite f v = s.fwdWrite (SH_FOLD_CFG f) v := by
  refine if_neg ?_
  simp [h1, h2, h3]

/-- A mapping would leave an enabled fold without key base or with too many cells, once every accepted write has applied. -/
def Dev.mapBad (s : Dev) (id fold : Nat) : Bool :=
  decide (fold < 12) && foldBad (s.settled (SH_FOLD_CFG fold))
    (s.settledMap fold + (if (s.settled (SH_FOLD_MAP id)).toNat % 16 = fold then 0 else 1))

theorem Dev.foldMapWrite_eq (s : Dev) (id fold : Nat) : s.foldMapWrite id fold =
    if s.standby = true ∨ ¬ s.quiet = true ∨ (12 ≤ fold ∧ fold < 15) ∨ s.mapBad id fold = true then s.refuseWr (SH_FOLD_MAP id)
    else s.fwdWrite (SH_FOLD_MAP id) (BitVec.ofNat 64 (putBits (s.settled (SH_FOLD_MAP id)).toNat 0 4 fold)) := by
  have moves : b2n (decide (bitsOf (s.settled (SH_FOLD_MAP id)).toNat 0 4 ≠ fold)) =
      if (s.settled (SH_FOLD_MAP id)).toNat % 16 = fold then 0 else 1 := by
    rw [bitsOf_zero_four]
    split
    · next e => simp [e, b2n]
    · next e => simp [e, b2n]
  unfold Dev.mapBad
  rw [← moves]
  rfl

theorem Dev.foldMapWrite_refused {id fold : Nat}
    (h : s.standby = true ∨ s.quiet = false ∨ (12 ≤ fold ∧ fold < 15) ∨ s.mapBad id fold = true) :
    s.foldMapWrite id fold = s.refuseWr (SH_FOLD_MAP id) := by
  rw [Dev.foldMapWrite_eq]
  refine if_pos (h.imp_right (Or.imp_left fun e => ?_))
  rw [e]
  exact Bool.false_ne_true

theorem Dev.foldMapWrite_taken {id fold : Nat} (h1 : s.standby = false) (h2 : s.quiet = true) (h3 : fold < 12 ∨ fold = 15)
    (h4 : s.mapBad id fold = false) : s.foldMapWrite id fold =
      s.fwdWrite (SH_FOLD_MAP id) (BitVec.ofNat 64 (putBits (s.settled (SH_FOLD_MAP id)).toNat 0 4 fold)) := by
  rw [Dev.foldMapWrite_eq]
  refine if_neg ?_
  simp only [h1, h2, h4, Bool.false_eq_true, not_true_eq_false, false_or, or_false]
  omega

/-- A mapping written at once stands in the map. -/
theorem Dev.foldMapWrite_alone {id fold : Nat} (hid : id < 8448) (hf : fold < 16) (link : s.forwardLink = none) :
    (s.fwdWrite (SH_FOLD_MAP id) (BitVec.ofNat 64 (putBits (s.settled (SH_FOLD_MAP id)).toNat 0 4 fold))).foldOf id = fold := by
  rw [Dev.fwdWrite_alone link, Dev.applyWrite_foldMap hid, Dev.oosSet_fold, toNat_putBits _ _ _ _ (by decide), bitsOf_putBits_same]
  exact (Dev.foldMapSet_fold hid (Nat.mod_lt _ (by decide))).trans (Nat.mod_eq_of_lt hf)

theorem Dev.oosWrite_refused {id : Nat} {b : Bool} (h : s.standby = true) : s.oosWrite id b = s.refuseWr (SH_FOLD_MAP id) := if_pos h

theorem Dev.oosWrite_taken {id : Nat} {b : Bool} (h : s.standby = false) : s.oosWrite id b =
    s.fwdWrite (SH_FOLD_MAP id) (BitVec.ofNat 64 (putBits (s.settled (SH_FOLD_MAP id)).toNat 4 1 (b2n b))) :=
  if_neg (by rw [h]; exact Bool.false_ne_true)

theorem Dev.oosWrite_alone {id : Nat} {b : Bool} (hid : id < 8448) (link : s.forwardLink = none) :
    (s.fwdWrite (SH_FOLD_MAP id) (BitVec.ofNat 64 (putBits (s.settled (SH_FOLD_MAP id)).toNat 4 1 (b2n b)))).fbit
      (SH_FOLD_MAP_OOS id) = b := by
  have bit : (BitVec.ofNat 64 (putBits (s.settled (SH_FOLD_MAP id)).toNat 4 1 (b2n b))).getLsbD 4 = b := by
    rw [← bitOf_toNat, toNat_putBits _ _ _ _ (by decide)]
    have word := bitsOf_putBits_same (s.settled (SH_FOLD_MAP id)).toNat 4 1 (b2n b)
    simp only [bitsOf, pow_one] at word
    rw [bitOf, word]
    cases b <;> rfl
  rw [Dev.fwdWrite_alone link, Dev.applyWrite_foldMap hid, Dev.oosSet_oos, bit]

/-! ### The AQ's input settings (R294, R301) -/

theorem Dev.aqChannelWrite_off (ch : Nat) (h : s.powered 6 = false) : s.aqChannelWrite ch v = s := if_pos (by rw [h]; rfl)

theorem Dev.aqSetCfgd_off (h : s.powered 6 = false) : s.aqSetCfgd = s := if_pos (by rw [h]; rfl)

/-- `CFGD` sets `LOCK` unless in COMMISSION. -/
theorem Dev.aqSetCfgd_spec (h : s.powered 6 = true) : s.aqSetCfgd.fget AQ_STAT_CFGD = 1 ∧
    s.aqSetCfgd.fget AQ_STAT_LOCK = if s.mode = 1 then s.fget AQ_STAT_LOCK else 1 := by
  unfold Dev.aqSetCfgd
  rw [if_neg (by rw [h]; decide)]
  extract_lets t
  have cfgd : t.fget AQ_STAT_CFGD = 1 := Dev.fget_fset_same s AQ_STAT_CFGD 1 (by decide)
  have mode : t.mode = s.mode := Dev.fget_fset_reg s 1 (by decide)
  have lock : t.fget AQ_STAT_LOCK = s.fget AQ_STAT_LOCK := Dev.fget_fset_bits s 1 (by decide) (by decide) rfl
  rw [mode]
  by_cases commission : s.mode = 1
  · rw [if_pos commission, if_pos commission]
    exact ⟨cfgd, lock⟩
  · rw [if_neg commission, if_neg commission]
    have beside : (t.fset AQ_STAT_LOCK 1).fget AQ_STAT_CFGD = t.fget AQ_STAT_CFGD := Dev.fget_fset_bits t 1 (by decide) (by decide) rfl
    exact ⟨beside.trans cfgd, Dev.fget_fset_same t AQ_STAT_LOCK 1 (by decide)⟩

end

end Sys2Proof.Machine
end

section
/-!
PROOFS for the family `02_station_cycle`: the partitions of the schedulers, and the settlement of the settings' writes (O56).
-/
namespace Sys2Proof.Machine

/-! ### What the scheduler leaves of the partitions (R413, R424) -/

/-- The word of a partition of die d. -/
def Dev.Part (d p : Nat) (w : W64) (s : Dev) : Prop := s.rget (SCH_PART d p) = w

section
variable {s : Dev} {d p : Nat} {w : W64}

theorem Dev.Part.of_regs {t : Dev} (h : s.Part d p w) (same : t.regs = s.regs) : t.Part d p w := (Dev.rget_congr same _).trans h

theorem Dev.Part.ite {a b : Dev} {c : Prop} [Decidable c] (ha : a.Part d p w) (hb : b.Part d p w) : (if c then a else b).Part d p w := by
  split <;> assumption

theorem Dev.Part.modCd {i : Nat} {f : CtrlDie → CtrlDie} (h : s.Part d p w) : (s.modCd i f).Part d p w := h.of_regs (Dev.modCd_regs ..)

theorem Dev.Part.finc {f : Field} (h : s.Part d p w) (ne : SCH_PART d p ≠ f.reg) : (s.finc f).Part d p w :=
  (Dev.rget_fset_reg s _ ne).trans h

theorem Dev.Part.report {cls : Cls} {src : Src} {inst code det : Nat} (h : s.Part d p w) : (s.report cls src inst code det).Part d p w := by
  have high : 0x800000 ≤ SCH_PART d p := by unfold SCH_PART cdBase; omega
  have apart : ¬ noteReg (SCH_PART d p) := by
    rintro (e | e | e | e | ⟨n, hn, i, hi, e⟩) <;>
      simp only [GLB_IRQ_STAT, GLB_MSIX_PBA, SH_FLT_STAT, SH_LOG_STAT, RDn_RP_ERR, rdBase] at e <;> omega
  exact ((Dev.Noted.refl s).report.regs _ apart).trans h

theorem Dev.Part.freeTask {i t : Nat} (h : s.Part d p w) : (s.freeTask i t).Part d p w := by
  unfold Dev.freeTask
  extract_lets u own
  have h1 : u.Part d p w := h.modCd
  exact h1.of_regs ((Dev.modRd_regs ..).trans (Dev.modRd_regs ..))

theorem Dev.Part.killTask {i t cause : Nat} (h : s.Part d p w) : (s.killTask i t cause).Part d p w := h.freeTask.modCd.report

theorem Dev.Part.spill {i c : Nat} {win : Win} (h : s.Part d p w) : (s.spill i c win).Part d p w := .ite h.killTask h.modCd

theorem Dev.Part.makeRoom {i c t depth : Nat} (h : s.Part d p w) : (s.makeRoom i c t depth).Part d p w := by
  unfold Dev.makeRoom
  split
  · exact h
  · exact h.spill

theorem Dev.Part.fill {i c t depth : Nat} (h : s.Part d p w) : (s.fill i c t depth).Part d p w := by
  unfold Dev.fill
  extract_lets
  split
  · exact .ite h.killTask h.modCd
  · exact h.killTask

theorem Dev.Part.spillAll {i c t m : Nat} (h : s.Part d p w) : (s.spillAll i c t m).Part d p w := by
  induction m generalizing s with
  | zero => exact h
  | succ m ih =>
    unfold Dev.spillAll
    split
    · exact h
    · exact ih h.spill

theorem Dev.Part.preempt {i c t : Nat} (h : s.Part d p w) : (s.preempt i c t).Part d p w := by
  unfold Dev.preempt
  extract_lets +onlyGivenNames _
  refine .ite h.killTask ?_
  extract_lets +onlyGivenNames t1
  have h1 : t1.Part d p w := h.modCd
  exact .ite h1.freeTask h1.modCd

theorem Dev.Part.dispatch {c t : Nat} (h : s.Part d p w) (hc : c < 16) : (s.dispatch d c t).Part d p w := by
  unfold Dev.dispatch
  extract_lets +onlyGivenNames _ t1
  have h1 : t1.Part d p w := .ite h h.spillAll
  refine .ite h1 ?_
  extract_lets +onlyGivenNames t2 t3 _ t4
  have h2 : t2.Part d p w := h1.modCd
  have h3 : t3.Part d p w := h2.finc (by simp only [SCH_PART, SCH_CORE_SWITCH, SCH_CORE]; omega)
  have h4 : t4.Part d p w := h3.makeRoom
  extract_lets +onlyGivenNames t5
  have h5 : t5.Part d p w := .ite h3 (.ite h4.modCd h4.fill)
  exact .ite h5 h5.modCd

theorem Dev.Part.applyService {i svc : Nat} {l : List Byte} (h : s.Part d p w) : (s.applyService i svc l).Part d p w := by
  unfold Dev.applyService
  extract_lets +onlyGivenNames _
  split
  · extract_lets +onlyGivenNames t1
    have h1 : t1.Part d p w := h.modCd
    exact .ite h1.modCd h1
  · exact .ite h.modCd h.freeTask
  · exact h.modCd
  · exact h.modCd
  · exact h.modCd

theorem Dev.Part.svcref (h : s.Part d p w) : (s.finc (SCH_STAT_SVCREF d)).Part d p w :=
  h.finc (by simp only [SCH_PART, SCH_STAT_SVCREF, SCH_STAT]; omega)

theorem Dev.Part.applyPend {done : List (Nat × Nat)} {l : List PendSvc} (h : s.Part d p w) : (s.applyPend d done l).Part d p w := by
  induction l generalizing s done with
  | nil => exact h
  | cons q l ih => exact .ite (ih h.svcref) (ih h.applyService)

theorem Dev.Part.phaseEnd (h : s.Part d p w) : (s.phaseEnd d).Part d p w := .ite (Dev.Part.applyPend h.modCd) h

theorem CtrlDie.victim_mem {x : CtrlDie} {l : List Nat} {c t : Nat} (h : x.victim l = some (c, t)) : c ∈ l := by
  induction l generalizing c t with
  | nil => cases h
  | cons a l ih =>
    unfold CtrlDie.victim at h
    split at h
    · exact List.mem_cons_of_mem _ (ih h)
    · split at h
      · cases h
        exact List.mem_cons_self ..
      · next c' t' found =>
        split at h
        · cases h
          exact List.mem_cons_of_mem _ (ih found)
        · cases h
          exact List.mem_cons_self ..

/-- The scheduler places on the cores of the die. -/
theorem Dev.placement_core {l : List Nat} {t c : Nat} {v : Option Nat} (h : s.placement d l = some (t, c, v)) : c < 16 := by
  have among : ∀ q, c ∈ s.allowed d q → c < 16 := fun q hq => List.mem_range.1 (List.mem_of_mem_filter hq)
  induction l with
  | nil => cases h
  | cons u l ih =>
    unfold Dev.placement at h
    extract_lets x cs at h
    split at h
    · next found =>
      split at h
      · exact ih h
      · cases h
        exact among _ (List.mem_of_find?_eq_some found)
    · split at h
      · next found =>
        split at h
        · cases h
          exact among _ (CtrlDie.victim_mem found)
        · exact ih h
      · exact ih h

theorem Dev.Part.place {m : Nat} (h : s.Part d p w) : (s.place d m).Part d p w := by
  induction m generalizing s with
  | zero => exact h
  | succ m ih =>
    unfold Dev.place
    split
    · exact h
    · next t c v found =>
      refine ih (Dev.Part.dispatch ?_ (Dev.placement_core found))
      split
      · exact h.preempt
      · exact h

theorem Dev.Part.resched (h : s.Part d p w) : (s.resched d).Part d p w := (Dev.Part.phaseEnd h.modCd).place

/-! ### `SCH_PART` (R413, R446) -/

/-- The bits of a partition's word that the host may write. -/
def partMask (p : Nat) : W64 := if p = 1 then 0xFF00 else 0x07FF07FF0000FF00

theorem schPart_row (hd : d < 4) (h1 : 1 ≤ p) (hp : p < 16) :
    ∃ row, pkgRowAt (SCH_PART d p) = some row ∧ row.rw = (partMask p).toNat ∧ row.w1c = 0 := by
  have offset : (SCH_PART d p - 0x800000) % 0x200000 = 0x70100 + 8 * p := by
    unfold SCH_PART cdBase
    omega
  have window : pkgRowAt (SCH_PART d p) = findRow cdRows (0x70100 + 8 * p) := by
    have lo : 0x800000 ≤ SCH_PART d p := by unfold SCH_PART cdBase; omega
    have hi : SCH_PART d p < 0x1000000 := by unfold SCH_PART cdBase; omega
    unfold pkgRowAt
    rw [if_neg (by omega), if_neg (by omega), if_neg (by omega), if_neg (by omega), if_pos hi, offset]
  have rows : ∀ q < 16, 1 ≤ q →
      ∃ row, findRow cdRows (0x70100 + 8 * q) = some row ∧ row.rw = (partMask q).toNat ∧ row.w1c = 0 := by
    intro q hq h
    interval_cases q <;> exact ⟨_, rfl, rfl, rfl⟩
  rw [window]
  exact rows p hp h1

/-- The window of a partition answers where start-up went through and the die is powered. -/
theorem Dev.winUp_part_eq (hd : d < 4) (hp : p < 16) : s.winUp (SCH_PART d p) =
    (!s.fbit ⟨SH_BOOT_STAT, SH_BOOT_STAT_FAIL.lo + 3, 1⟩ && s.powered d) := by
  have die : winDie (SCH_PART d p) = d := by
    unfold winDie SCH_PART cdBase
    rw [if_neg (by omega), if_neg (by omega), if_neg (by omega), if_neg (by omega), if_neg (by omega), if_pos (by omega)]
    omega
  have stuck : s.bootStuck (SCH_PART d p) = s.fbit ⟨SH_BOOT_STAT, SH_BOOT_STAT_FAIL.lo + 3, 1⟩ := by
    have serial : GLB_SER < SCH_PART d p := by unfold GLB_SER SCH_PART cdBase; omega
    have boot : ¬ SCH_PART d p < SH_BOOT_JDAT 8 := by unfold SH_BOOT_JDAT SCH_PART cdBase; omega
    simp [Dev.bootStuck, serial, boot]
  have here : s.lacks (SCH_PART d p) = false := by
    have not : ¬ (d = 4 ∨ d = 5) := by omega
    simp [Dev.lacks, die, not]
  unfold Dev.winUp
  extract_lets n
  have is : n = d := die
  rw [is, stuck, here, if_neg (by omega), if_neg (by omega)]
  simp

end

/-- A partition's word is written at a partition without a task, and the scheduler leaves it so. -/
theorem Dev.partitionWrite_spec {s : Dev} {d p : Nat} {v : W64} (hd : d < 4) (h1 : 1 ≤ p) (hp : p < 16) (up : s.winUp (SCH_PART d 1) = true)
    (free : 2 ≤ p → ∀ t ∈ (s.cd d).tasks, t.2.part = p → t.2.state = .free) :
    (s.partitionWrite d p v).rget (SCH_PART d p) = (s.rget (SCH_PART d p) &&& ~~~(partMask p)) ||| (v &&& partMask p) := by
  obtain ⟨row, found, mask, none⟩ := schPart_row (d := d) hd h1 hp
  have written := Dev.plainWrite_rget (v := v) found mask none ((Dev.winUp_part_eq hd hp).trans ((Dev.winUp_part_eq hd (by decide)).symm.trans up))
  have empty : ¬ (2 ≤ p ∧ (s.cd d).tasks.any (fun e => decide (e.2.part = p) && decide (e.2.state ≠ .free)) = true) := by
    rintro ⟨two, has⟩
    obtain ⟨t, mem, at_⟩ := List.any_eq_true.1 has
    obtain ⟨part, busy⟩ := Bool.and_eq_true_iff.1 at_
    exact of_decide_eq_true busy (free two t mem (of_decide_eq_true part))
  unfold Dev.partitionWrite
  rw [if_neg (by omega), if_neg empty]
  exact Dev.Part.resched written

theorem Dev.partitionWrite_busy {s : Dev} {d p : Nat} {v : W64} (h : 2 ≤ p)
    (busy : ∃ t ∈ (s.cd d).tasks, t.2.part = p ∧ t.2.state ≠ .free) : s.partitionWrite d p v = s.finc (SCH_STAT_SVCREF d) := by
  obtain ⟨t, mem, part, state⟩ := busy
  have has : (s.cd d).tasks.any (fun e => decide (e.2.part = p) && decide (e.2.state ≠ .free)) = true :=
    List.any_eq_true.2 ⟨t, mem, by simp [part, state]⟩
  unfold Dev.partitionWrite
  rw [if_neg (by omega), if_pos ⟨h, has⟩]

end Sys2Proof.Machine
end

section
/-!
PROOFS for the family `02_station_cycle`: the settlement of `Obligations.SettingsResults` (O56).
-/
namespace Sys2Proof.Machine

/-- The settings of an input as a write leaves them. -/
def Dev.aqNew (s : Dev) (ch : Nat) (v : W64) : W64 :=
  (s.aqCfg ch &&& ~~~0xFEC7FFFF00000000#64) ||| (v &&& 0xFCC7FFFF00000000#64)

/-- The settings words of its converter with it. -/
def Dev.aqSets (s : Dev) (ch : Nat) (v : W64) : List (Nat × W64) :=
  (aqFour s.aqCfg (ch / 4)).map fun x => if x.1 = ch then (ch, s.aqNew ch v) else x

section
variable {s : Dev} {v : W64}

theorem Dev.aqChannelWrite_eq (ch : Nat) (on : s.powered 6 = true) : s.aqChannelWrite ch v =
    if (!aqFits (s.aqSets ch v) s.period ||
      decide (1 < ((s.aqSets ch v).filter (fun x => decide (aqField x.2 AQ_CH_CFG_FG = 1))).length)) = true
    then s.finc AQ_STAT_CFGREF else s.rset (AQ_CH_CFG ch) (s.aqNew ch v) := by
  unfold Dev.aqChannelWrite
  rw [if_neg (by rw [on]; decide)]
  rfl

theorem Dev.aqChannelWrite_taken {ch : Nat} (on : s.powered 6 = true) (good : aqFits (s.aqSets ch v) s.period = true ∧
    ((s.aqSets ch v).filter (fun x => decide (aqField x.2 AQ_CH_CFG_FG = 1))).length ≤ 1) :
    (s.aqChannelWrite ch v).rget (AQ_CH_CFG ch) = s.aqNew ch v := by
  obtain ⟨fits, few⟩ := good
  rw [Dev.aqChannelWrite_eq ch on, fits, if_neg (by simpa using few)]
  exact Dev.rget_rset_same ..

theorem Dev.aqChannelWrite_refused {ch : Nat} (on : s.powered 6 = true) (bad : aqFits (s.aqSets ch v) s.period = false ∨
    1 < ((s.aqSets ch v).filter (fun x => decide (aqField x.2 AQ_CH_CFG_FG = 1))).length) :
    s.aqChannelWrite ch v = s.finc AQ_STAT_CFGREF := by
  rw [Dev.aqChannelWrite_eq ch on, if_pos (by simpa using bad)]

theorem Dev.ledgerLengthWrite_eq : s.ledgerLengthWrite v =
    if ledgerLen (v.toNat % 256) = true ∧ ledgerLen (v.toNat / 256 % 256) = true then s.plainWrite SH_LEDG_CFG v
    else s.refuseWr SH_LEDG_CFG := by
  have low : bitsOf v.toNat 0 8 = v.toNat % 256 := by simp [bitsOf]
  have high : bitsOf v.toNat 8 8 = v.toNat / 256 % 256 := by simp [bitsOf]
  unfold Dev.ledgerLengthWrite
  simp only [low, high, Bool.and_eq_true]

/-- A control die whose registers answer is powered. -/
theorem Dev.powered_of_winUp {d : Nat} (hd : d < 4) (up : s.winUp (SCH_PART d 1) = true) : s.powered d = true := by
  rw [Dev.winUp_part_eq hd (by decide)] at up
  exact (Bool.and_eq_true_iff.1 up).2

end

/-- Settles O56: each write by the checks of its own rules, what a forwarded one leaves for its cycle, and what the scheduler leaves of
    the partitions. -/
theorem settingsResults : Obligations.SettingsResults := by
  unfold Obligations.SettingsResults
  intro s v f c fold b die p ch e m refused keeps next eff mins valid fails why toldNo waits sent later map into sets w x slot allowed
    unchanged
  have dieLt : die.idx < 4 := by cases die <;> decide
  have reason : e.cfgReason m = why := e.cfgReason_find m fails rfl rfl rfl rfl rfl rfl rfl rfl
  have effEq : e.effCycle = eff := e.effCycle_eq
  have mapEq : e.mapBad c.val fold.toNat = into := rfl
  have allowedEq : e.leParamOk e.firstCd v = allowed := e.leParamOk_eq v
  have refusal : ∀ a, a < 2 ^ 28 → refused a (e.refuseWr a) := fun a ha => e.refuseWr_spec ha
  have cfgLt : SH_FOLD_CFG f.val < 2 ^ 28 := by have := f.isLt; unfold SH_FOLD_CFG; omega
  have mapLt : SH_FOLD_MAP c.val < 2 ^ 28 := by have := c.isLt; unfold SH_FOLD_MAP; omega
  have forwarded : ∀ a w, e.forwardLink ≠ none → later a w (e.fwdWrite a w) := by
    intro a w link
    obtain ⟨fwd, regs, out⟩ := Dev.fwdWrite_later (a := a) (v := w) link
    rw [effEq] at fwd out
    exact ⟨fwd, regs, out⟩
  have told : ∀ l, ∀ k ∈ l, k < 16 → ∀ n, toldNo l ({ e with freeCtr := n }.cfgRefuse k) := by
    intro l k mem lt n
    obtain ⟨shows, clk, count, other⟩ := ({ e with freeCtr := n } : Dev).cfgRefuse_spec lt
    exact ⟨by rw [shows]; exact mem, clk, count, other⟩
  have waited : ∀ d : Dev, d.fget TIM_CYC_STAT_PEND = 1 → d.sh.clk = { e.sh.clk with cfgPend := some (m, eff) } → waits d :=
    fun d pend clk => ⟨pend, by rw [clk], by rw [clk]⟩
  have setExec : exec (.cycleConfigurationWrite v) s = s.upd (fun d => d.cfgWrite v) := rfl
  have cfgExec : exec (.foldConfigurationWrite f v) s = s.upd (fun d => d.foldCfgWrite f.val v) := rfl
  have mapExec : exec (.foldMapWrite c fold) s = s.upd (fun d => d.foldMapWrite c.val fold.toNat) := rfl
  have oosExec : exec (.outOfServiceWrite c b) s = s.upd (fun d => d.oosWrite c.val b) := rfl
  have fltExec : exec (.faultConfigurationWrite v) s =
      s.upd (fun d => if d.mode = 1 then d.plainWrite SH_FLT_CFG v else d.refuseWr SH_FLT_CFG) := rfl
  have ledgExec : exec (.ledgerLengthWrite v) s = s.upd (fun d => d.ledgerLengthWrite v) := rfl
  have leExec : exec (.leParamGo v) s = s.upd (fun d => d.leParamGo v) := rfl
  have partExec : exec (.partitionWrite die p v) s =
      s.updIf (s.dev.present die.idx) (fun d => if d.powered die.idx then d.partitionWrite die.idx p.val v else d) := rfl
  have aqExec : exec (.aqChannelWrite ch v) s = s.updIf (s.dev.present 6) (fun d => d.aqChannelWrite ch.val v) := rfl
  refine ⟨?_, ?_, ?_, ?_, ?_, ?_, ?_, ?_, ?_, ?_, ?_, ?_, ?_, ?_, ?_, ?_, ?_, ?_⟩
  · intro standby
    refine ⟨State.goes_upd setExec ?_, State.goes_upd cfgExec ?_, State.goes_upd mapExec ?_, State.goes_upd oosExec ?_⟩
    · rw [Dev.cfgWrite_standby standby]
      exact refusal _ (by decide)
    · rw [Dev.foldCfgWrite_refused (.inl standby)]
      exact refusal _ cfgLt
    · rw [Dev.foldMapWrite_refused (.inl standby)]
      exact refusal _ mapLt
    · rw [Dev.oosWrite_refused standby]
      exact refusal _ mapLt
  · intro active
    refine ⟨fun k hk => State.goes_upd setExec ?_, fun none alone => State.goes_upd setExec ?_, fun none duty => State.goes_upd setExec ?_,
      fun no => State.goes_upd cfgExec ?_, fun quiet good => State.goes_upd cfgExec ⟨fun link => ?_, fun link => ?_⟩,
      fun no => State.goes_upd mapExec ?_, fun quiet num good => State.goes_upd mapExec ⟨fun link => ?_, fun link => ?_⟩,
      State.goes_upd oosExec ⟨fun link => ?_, fun link => ?_⟩⟩
    · have lt : k < 16 := by
        have range := List.mem_range'.1 (List.mem_of_find?_eq_some hk)
        omega
      rw [Dev.cfgWrite_refused active (reason.trans hk)]
      exact told [k] k (List.mem_singleton.2 rfl) lt e.freeCtr
    · obtain ⟨pend, clk⟩ := Dev.cfgWrite_alone active (reason.trans none) alone
      rw [effEq] at clk
      exact waited _ pend clk
    · rcases Dev.cfgWrite_duty active (reason.trans none) with ⟨pend, clk, out⟩ | ⟨k, mem, n, eq⟩
      · rw [effEq] at clk out
        exact .inl ⟨waited _ pend clk, out⟩
      · have small : ∀ k ∈ [3, 4, 5, 6], k < 16 := by decide
        rw [eq]
        exact .inr (told _ k mem (small k mem) n)
    · rw [Dev.foldCfgWrite_refused (.inr no)]
      exact refusal _ cfgLt
    · rw [Dev.foldCfgWrite_taken active quiet good, Dev.fwdWrite_alone link, Dev.applyWrite_foldCfg f.isLt]
      exact Dev.foldCfgSet_rget f.isLt
    · rw [Dev.foldCfgWrite_taken active quiet good]
      exact forwarded _ _ link
    · rw [Dev.foldMapWrite_refused (.inr (mapEq ▸ no))]
      exact refusal _ mapLt
    · rw [Dev.foldMapWrite_taken active quiet num (mapEq.trans good)]
      exact Dev.foldMapWrite_alone c.isLt fold.isLt link
    · rw [Dev.foldMapWrite_taken active quiet num (mapEq.trans good)]
      exact forwarded _ _ link
    · rw [Dev.oosWrite_taken active]
      exact Dev.oosWrite_alone c.isLt link
    · rw [Dev.oosWrite_taken active]
      exact forwarded _ _ link
  · intro none
    exact State.goes_upd rfl (Dev.cfgEffect_none none)
  · intro w k pend
    exact ⟨fun early => State.goes_upd rfl (Dev.cfgEffect_waits pend early),
      fun on due => State.goes_upd rfl (Dev.cfgEffect_spec pend on due)⟩
  · intro commission up
    obtain ⟨row, found, mask, none⟩ := fltCfg_row
    refine State.goes_upd fltExec ?_
    rw [if_pos commission]
    exact Dev.plainWrite_rget found mask none up
  · intro other
    refine State.goes_upd fltExec ?_
    rw [if_neg other]
    exact refusal _ (by decide)
  · rintro ⟨first, second⟩ up
    obtain ⟨row, found, mask, none⟩ := ledgCfg_row
    refine State.goes_upd ledgExec ?_
    rw [Dev.ledgerLengthWrite_eq, if_pos ⟨first, second⟩]
    exact Dev.plainWrite_rget found mask none up
  · intro bad
    refine State.goes_upd ledgExec ?_
    rw [Dev.ledgerLengthWrite_eq, if_neg fun both => by simp [both] at bad]
    exact refusal _ (by decide)
  · intro go idle ok
    exact State.goes_upd leExec (Dev.leParamGo_sent_spec go idle (allowedEq.trans ok))
  · intro go no
    exact State.goes_upd leExec (Dev.leParamGo_refused_spec go (allowedEq ▸ no))
  · intro clear up
    obtain ⟨row, found, mask, none⟩ := leParam_row
    have but := (e.plainWrite_leParam v).1
    refine State.goes_upd leExec ?_
    rw [Dev.leParamGo_clear clear]
    exact ⟨Dev.plainWrite_rget found mask none up, fun i _ => congrFun but.cd i⟩
  · exact State.goes_upd (f := fun d => d.tuneSend true) rfl ⟨e.tuneSend_regs true, fun i hi => e.tuneSend_cd true hi⟩
  · exact State.goes_upd (f := fun d => d.tuneSend false) rfl ⟨e.tuneSend_regs false, fun i hi => e.tuneSend_cd false hi⟩
  · exact State.goes_upd (f := fun d => forAll (List.range 4) d Dev.tuneTimeout) rfl fun i hi => e.tuneTimeouts_spec hi
  · intro present off
    refine State.goes_updIf partExec present ?_
    exact if_neg (by rw [off]; exact Bool.false_ne_true)
  · intro present up
    have on : e.powered die.idx = true := Dev.powered_of_winUp dieLt up
    have step : (if e.powered die.idx = true then e.partitionWrite die.idx p.val v else e) = e.partitionWrite die.idx p.val v := if_pos on
    refine ⟨fun zero => State.goes_updIf partExec present ?_, fun two busy => State.goes_updIf partExec present ?_,
      fun two free => State.goes_updIf partExec present ?_, fun one => State.goes_updIf partExec present ?_⟩
    · rw [step]
      exact if_pos zero
    · rw [step]
      exact Dev.partitionWrite_busy two busy
    · have mask : partMask p.val = 0x07FF07FF0000FF00 := if_neg (by omega)
      rw [step]
      have spec := Dev.partitionWrite_spec (v := v) dieLt (by omega) p.isLt up fun _ => free
      rw [mask] at spec
      exact spec
    · have spec := Dev.partitionWrite_spec (v := v) dieLt (le_refl 1) (by decide) up fun h => absurd h (by decide)
      rw [step, one]
      exact spec
  · intro present off
    exact ⟨State.goes_updIf aqExec present (Dev.aqChannelWrite_off _ off), State.goes_updIf rfl present (Dev.aqSetCfgd_off off)⟩
  · intro present on
    refine ⟨fun good => State.goes_updIf aqExec present ?_, fun bad => State.goes_updIf aqExec present ?_,
      State.goes_updIf rfl present (Dev.aqSetCfgd_spec on)⟩
    · exact Dev.aqChannelWrite_taken on good
    · exact Dev.aqChannelWrite_refused on bad

end Sys2Proof.Machine
end

section
/-!
PROOFS for the family `02_station_cycle`: blocks that ring ends and cells send at their instants (O54).
-/
namespace Sys2Proof.Machine

section
variable {o s : Dev}

/-! ### A block and the instant at which it starts (R70, R499) -/

theorem Dev.Launched.tblk (h : o.Launched s) (r : Nat) : s.tblk r = o.tblk r := by
  have half : s.half r = o.half r := by
    unfold Dev.half
    rw [h.sameDies.rf, Dev.fbit, Dev.fbit, Dev.fget_congr h.regs]
  unfold Dev.tblk
  rw [half]

/-- A block that is sent stands in a position of its sender's stream, and its payload is given the instant at which that position
    starts. -/
theorem Dev.sendFrom_start (s : Dev) (q : Sender) (ty : BitVec 4) (u : Int) (pl : Int → Payload) :
    ∃ n t, ((s.sendFrom q ty u pl).line q).map (fun l => l.startOf (s.tblk (lineRing q)) n) = some t ∧
      (s.sendFrom q ty u pl).out = .block q n ty (pl t) :: s.out := by
  obtain ⟨l, hl⟩ := Option.isSome_iff_exists.1 (Dev.placeBlock_line s q ty u)
  have out := Dev.placeBlock_out s q ty u
  have block := ((Dev.Launched.refl s).placeBlock (q := q) (ty := ty) (t := u)).tblk (lineRing q)
  unfold Dev.sendFrom
  generalize s.placeBlock q ty u = placed at hl out block
  obtain ⟨n, t⟩ := placed
  dsimp only at hl out block ⊢
  rw [hl, block]
  have same : (t.emit (.block q n ty (pl (l.startOf (s.tblk (lineRing q)) n)))).line q = some l := hl
  refine ⟨n, l.startOf (s.tblk (lineRing q)) n, ?_, ?_⟩
  · rw [same]
    rfl
  · rw [← out]
    rfl

theorem Dev.sendFrom_regs (s : Dev) (q : Sender) (ty : BitVec 4) (t : Int) (pl : Int → Payload) : (s.sendFrom q ty t pl).regs = s.regs :=
  (Dev.Launched.refl s).sendFrom.regs

/-- One block sent. -/
theorem Dev.send_sends (s : Dev) (q : Sender) (ty : BitVec 4) (pl : Payload) : s.sends (s.send q ty pl) [(q, ty, pl)] := by
  obtain ⟨n, out⟩ := s.send_out q ty pl
  unfold Dev.sends
  rw [out]
  exact ⟨rfl, rfl⟩

/-- Blocks sent one after another. -/
theorem Dev.sends_forAll {α : Type} (l : List α) (q : Sender) (ty : α → BitVec 4) (pl : α → Payload) (t : Int) :
    s.sends (forAll l s fun s b => s.sendFrom q (ty b) t fun _ => pl b) (l.map fun b => (q, ty b, pl b)) := by
  unfold forAll
  induction l generalizing s with
  | nil => exact ⟨rfl, rfl⟩
  | cons b l ih =>
    obtain ⟨n, -, out⟩ := s.sendFrom_out q (ty b) t fun _ => pl b
    obtain ⟨before, since⟩ := ih (s := s.sendFrom q (ty b) t fun _ => pl b)
    rw [List.foldl_cons]
    generalize List.foldl (fun s b => s.sendFrom q (ty b) t fun _ => pl b) (s.sendFrom q (ty b) t fun _ => pl b) l = d at before since
    rw [List.length_map] at before since
    unfold Dev.sends
    rw [List.length_map, List.length_cons]
    constructor
    · rw [← List.drop_drop, before, out]
      rfl
    · rw [List.take_add, before, List.map_append, since, out]
      simp [Emission.sent]

/-! ### TIME blocks of a ring end (R471, R503) -/

/-- The end is LINKED and does not sleep. -/
def Dev.endLinked (s : Dev) (r : Nat) (e : End) : Prop :=
  s.ownsEnd e = true ∧ s.endPortState r e = 5 ∧ s.fbit (s.rf (slpCtl e) r) = false

/-- TIME_BLOCK_SEND at a ring end. -/
def Dev.endTimeSend (s : Dev) (r : Nat) (e : End) (sub id : Nat) : Dev :=
  if (s.hasRing r && s.ownsEnd e) = true then s.endTime r e sub id else s

theorem Dev.endTimeSend_idle {r : Nat} {e : End} {sub id : Nat} (h : ¬ s.endLinked r e) : s.endTimeSend r e sub id = s := by
  unfold Dev.endTimeSend
  split
  · next here =>
    obtain ⟨-, own⟩ := Bool.and_eq_true_iff.1 here
    refine if_pos ?_
    by_contra neither
    rw [not_or, not_not, Bool.not_eq_true] at neither
    exact h ⟨own, neither⟩
  · rfl

section
variable {r : Nat} {e : End} {id : Nat}

theorem Dev.endTimeSend_linked {sub : Nat} (hr : s.hasRing r = true) (h : s.endLinked r e) : s.endTimeSend r e sub id = s.endTime r e sub id :=
  if_pos (by rw [hr, h.1]; rfl)

theorem Dev.endLinked.awake (h : s.endLinked r e) : ¬ (s.endPortState r e ≠ 5 ∨ s.fbit (s.rf (slpCtl e) r) = true) := by
  obtain ⟨-, state, awake⟩ := h
  rw [state, awake]
  decide

theorem Dev.endTime_launch (h : s.endLinked r e) :
    s.endTime r e 1 id = s.sendFrom (.ringEnd r e) 0x7 s.raw10ps (s.endLaunch r e) := if_neg h.awake

theorem Dev.endTime_loop (h : s.endLinked r e) (up : 2 ≤ s.ringState r) :
    s.endTime r e 2 id = s.send (.ringEnd r e) 0x7 (Pl.mk [(0, 8, 2 + 64 * b2n (decide (e = .b))), (2, 14, id)]) := by
  have go : s.endTime r e 2 id = (fun t : Dev => if t.ringState r < 2 then t
      else t.send (.ringEnd r e) 0x7 (Pl.mk [(0, 8, 2 + 64 * b2n (decide (e = .b))), (2, 14, id)]))
      (if s.ringState r = 1 then s.measureStart r else s) := if_neg h.awake
  rw [go, if_neg (by omega)]
  exact if_neg (by omega)

theorem Dev.endTime_step {q : Step} {rest : List Step} (h : s.endLinked r e) (due : s.sh.clk.steps = q :: rest) :
    s.endTime r e 4 id = s.send (.ringEnd r e) 0x7
      (Pl.mk [(0, 8, 4 + 64 * b2n (decide (e = .b))), (24, 16, q.cycle % 65536), (26, 64, ux 64 q.delta)]) := by
  unfold Dev.endTime
  extract_lets out eb
  rw [if_neg h.awake, due]
  rfl

theorem Dev.endTime_noStep (h : s.endLinked r e) (none : s.sh.clk.steps = []) : s.endTime r e 4 id = s := by
  unfold Dev.endTime
  extract_lets out eb
  rw [if_neg h.awake, none]
  rfl

theorem Dev.endTime_other {sub : BitVec 4} (h : s.endLinked r e) (h1 : sub ≠ 1) (h2 : sub ≠ 2) (h4 : sub ≠ 4) :
    s.endTime r e sub.toNat id = s := by
  unfold Dev.endTime
  extract_lets out eb
  rw [if_neg h.awake]
  split
  · next is => exact absurd (BitVec.eq_of_toNat_eq is) h1
  · next is => exact absurd (BitVec.eq_of_toNat_eq is) h2
  · next is => exact absurd (BitVec.eq_of_toNat_eq is) h4
  · rfl

end

/-! ### LAUNCH of a cell (R503) -/

theorem Dev.cellLaunch_start (s : Dev) (p : Place) (y : CPort) (u : Int) :
    ∃ n t, ((s.cellLaunch p y u).line (.cell p y)).map (fun l => l.startOf (s.tblk (lineRing (.cell p y))) n) = some t ∧
      (s.cellLaunch p y u).out = .block (.cell p y) n 0x7 ((s.cell p).launchBlock y
        (((((s.cell p).tm.time : Nat) : Int) * 25600 + 256 * (t - s.raw10ps)).toNat / 100)) :: s.out := by
  obtain ⟨n, t, start, out⟩ := s.sendFrom_start (.cell p y) 0x7 u fun t =>
    (s.cell p).launchBlock y ((((s.cell p).tm.time : Int) * 25600 + 256 * (t - s.raw10ps)).toNat / 100)
  have line : ∀ (d : Dev) (r : Nat) (f : Ring → Ring), (d.modRing r f).line (.cell p y) = d.line (.cell p y) := by
    intro d r f
    cases y <;> rfl
  refine ⟨n, t, ?_⟩
  unfold Dev.cellLaunch
  extract_lets c now tl v e
  have start' : (v.line (.cell p y)).map (fun l => l.startOf (s.tblk (lineRing (.cell p y))) n) = some t := start
  have out' : v.out = .block (.cell p y) n 0x7 (c.launchBlock y (tl t)) :: s.out := out
  clear_value v
  split
  · split
    · rw [line, Dev.modRing_out]
      exact ⟨start', out'⟩
    · exact ⟨start', out'⟩
  · exact ⟨start', out'⟩

/-! ### Droves at the ring ends (R78, R333, R387) -/

variable {r : Nat} {e : End} {c : CycRec}

theorem Dev.launchDroves_none (h : s.sh.clk.recent.find? (fun c => decide (c.cycle + 1 = s.sh.tly.voted)) = none) : s.launchDroves r e = s := by
  unfold Dev.launchDroves
  rw [h]

theorem Dev.launchDroves_idle (h : s.sh.clk.recent.find? (fun c => decide (c.cycle + 1 = s.sh.tly.voted)) = some c)
    (no : s.mayLaunch r e c = false ∨ s.ownDroves c.cycle = false ∨ 2 * r + b2n (decide (e = .b)) ∈ s.sh.vote.launched) :
    s.launchDroves r e = s := by
  unfold Dev.launchDroves
  rw [h]
  refine if_neg ?_
  rintro ⟨may, own, fresh⟩
  rcases no with e | e | e
  · rw [may] at e
    cases e
  · rw [own] at e
    cases e
  · exact fresh e

/-- The droves of the cycle voted last go out in order, and the end has launched. -/
theorem Dev.launchDroves_sent (h : s.sh.clk.recent.find? (fun c => decide (c.cycle + 1 = s.sh.tly.voted)) = some c)
    (may : s.mayLaunch r e c = true) (own : s.ownDroves c.cycle = true) (fresh : 2 * r + b2n (decide (e = .b)) ∉ s.sh.vote.launched) :
    2 * r + b2n (decide (e = .b)) ∈ (s.launchDroves r e).sh.vote.launched ∧ (s.launchDroves r e).regs = s.regs ∧
      s.sends (s.launchDroves r e) ((s.ringBlocks c r).map fun b => (.ringEnd r e, b.1, b.2)) := by
  unfold Dev.launchDroves
  rw [h]
  dsimp only
  rw [if_pos ⟨may, own, fresh⟩]
  have blocks : (s.vote fun x => { x with launched := (2 * r + b2n (decide (e = .b))) :: x.launched }).ringBlocks c r = s.ringBlocks c r := rfl
  have voted : (s.vote fun x => { x with launched := (2 * r + b2n (decide (e = .b))) :: x.launched }).sh.vote.launched =
    (2 * r + b2n (decide (e = .b))) :: s.sh.vote.launched := rfl
  have regs : (s.vote fun x => { x with launched := (2 * r + b2n (decide (e = .b))) :: x.launched }).regs = s.regs := rfl
  have out : (s.vote fun x => { x with launched := (2 * r + b2n (decide (e = .b))) :: x.launched }).out = s.out := rfl
  rw [blocks]
  generalize (s.vote fun x => { x with launched := (2 * r + b2n (decide (e = .b))) :: x.launched }) = v at voted regs out
  have launched := (Dev.Launched.refl v).forAll (l := s.ringBlocks c r)
    (f := fun s b => s.sendFrom (.ringEnd r e) b.1 (v.untilNs (c.t0.toNat + 10 * cfgStile c.cfg + 15)) fun _ => b.2)
    fun _ _ h => h.sendFrom
  refine ⟨?_, launched.regs.trans regs, ?_⟩
  · rw [launched.sh, voted]
    exact List.mem_cons_self ..
  · have sent := Dev.sends_forAll (s := v) (s.ringBlocks c r) (.ringEnd r e) Prod.fst Prod.snd (v.untilNs (c.t0.toNat + 10 * cfgStile c.cfg + 15))
    unfold Dev.sends at sent ⊢
    rw [out] at sent
    exact sent

end

end Sys2Proof.Machine
end

section
/-!
PROOFS for the family `02_station_cycle`: the host FIFOs, read, peeked and written (O54).
-/
namespace Sys2Proof.Machine

/-! ### A FIFO in its ring die -/

/-- FIFO f. -/
def Dev.fifoAt (s : Dev) (f : Nat) : Fifo := (s.rd (s.fifoRd f)).fifo (s.fifoLoc f)

/-- FIFO f replaced. -/
def Dev.setFifoAt (s : Dev) (f : Nat) (q : Fifo) : Dev := s.modRd (s.fifoRd f) (fun x => x.setFifo (s.fifoLoc f) q)

section
variable {s t : Dev} {f : Nat} {q : Fifo}

theorem Dev.fifoRd_lt (s : Dev) (f : Nat) : s.fifoRd f < 2 := by
  unfold Dev.fifoRd
  split <;> omega

theorem Dev.fifoRd_congr (h : t.variant = s.variant) (f : Nat) : t.fifoRd f = s.fifoRd f := by simp only [Dev.fifoRd, h]

theorem Dev.fifoLoc_congr (h : t.variant = s.variant) (f : Nat) : t.fifoLoc f = s.fifoLoc f := by simp only [Dev.fifoLoc, h]

theorem Dev.fifoAt_congr (hv : t.variant = s.variant) (hr : t.rd = s.rd) : t.fifoAt f = s.fifoAt f := by
  simp only [Dev.fifoAt, hr, Dev.fifoRd_congr hv, Dev.fifoLoc_congr hv]

theorem Dev.setFifoAt_variant : (s.setFifoAt f q).variant = s.variant := Dev.modRd_variant ..

theorem Dev.setFifoAt_regs : (s.setFifoAt f q).regs = s.regs := Dev.modRd_regs ..

theorem Dev.fifoAt_setFifoAt : (s.setFifoAt f q).fifoAt f = q := by
  simp only [Dev.fifoAt, Dev.fifoRd_congr Dev.setFifoAt_variant, Dev.fifoLoc_congr Dev.setFifoAt_variant]
  unfold Dev.setFifoAt Dev.modRd
  rw [Dev.rd_setRd_same]
  exact Store.get_set_same _ _ _ _

theorem Dev.fset_rd (s : Dev) (g : Field) (v : Nat) : (s.fset g v).rd = s.rd := rfl

theorem Dev.fifoAt_finc {g : Field} : (s.finc g).fifoAt f = s.fifoAt f := Dev.fifoAt_congr (Dev.finc_variant ..) (Dev.fset_rd ..)

theorem Dev.fifoAt_fifoIrq {i : Nat} : (s.fifoIrq i).fifoAt f = s.fifoAt f := by
  have set : (s.fset ⟨GLB_FIFO_IRQ, i, 1⟩ 1).fifoAt f = s.fifoAt f := Dev.fifoAt_congr (Dev.fset_variant ..) (Dev.fset_rd ..)
  have noted := (Dev.Noted.refl (s.fset ⟨GLB_FIFO_IRQ, i, 1⟩ 1)).msix (v := i % 32)
  unfold Dev.fifoIrq
  extract_lets v was u
  split
  · exact set
  · exact (Dev.fifoAt_congr noted.variant noted.rd).trans set

theorem Dev.fifoIrq_variant {i : Nat} : (s.fifoIrq i).variant = s.variant := by
  have noted := (Dev.Noted.refl (s.fset ⟨GLB_FIFO_IRQ, i, 1⟩ 1)).msix (v := i % 32)
  unfold Dev.fifoIrq
  extract_lets v was u
  split
  · exact Dev.fset_variant ..
  · exact noted.variant.trans (Dev.fset_variant ..)

/-! ### What is visible of a FIFO (R552, R553) -/

theorem Dev.fifoShow_variant {v : Nat} : (s.fifoShow f v).variant = s.variant := by
  unfold Dev.fifoShow
  extract_lets n i q lvl u
  have set : u.variant = s.variant := Dev.setFifoAt_variant
  split
  · exact Dev.fifoIrq_variant.trans set
  · exact set

theorem Dev.fifoFinish_variant : (s.fifoFinish f).variant = s.variant := by
  unfold Dev.fifoFinish
  extract_lets q
  split
  · exact Dev.fifoShow_variant
  · rfl

theorem Dev.fifoAt_fifoShow {v : Nat} : (s.fifoShow f v).fifoAt f = { s.fifoAt f with visible := v } := by
  unfold Dev.fifoShow
  extract_lets n i q lvl u
  have set : u.fifoAt f = { s.fifoAt f with visible := v } := Dev.fifoAt_setFifoAt
  split
  · exact Dev.fifoAt_fifoIrq.trans set
  · exact set

theorem Dev.fifoFinish_done (h : (s.fifoAt f).words.length ≤ (s.fifoAt f).visible) : s.fifoFinish f = s := if_neg (Nat.not_lt.2 h)

theorem Dev.fifoAt_fifoFinish (h : (s.fifoAt f).visible ≤ (s.fifoAt f).words.length) :
    (s.fifoFinish f).fifoAt f = { s.fifoAt f with visible := (s.fifoAt f).words.length } := by
  by_cases less : (s.fifoAt f).visible < (s.fifoAt f).words.length
  · have shows : s.fifoFinish f = s.fifoShow f (s.fifoAt f).words.length := if_pos less
    rw [shows]
    exact Dev.fifoAt_fifoShow
  · rw [Dev.fifoFinish_done (by omega)]
    have same : (s.fifoAt f).words.length = (s.fifoAt f).visible := by omega
    rw [same]

/-- The words stand when a writer completes its packet. -/
theorem Dev.words_fifoFinish : ((s.fifoFinish f).fifoAt f).words = (s.fifoAt f).words := by
  by_cases less : (s.fifoAt f).visible < (s.fifoAt f).words.length
  · have shows : s.fifoFinish f = s.fifoShow f (s.fifoAt f).words.length := if_pos less
    rw [shows, Dev.fifoAt_fifoShow]
  · rw [Dev.fifoFinish_done (by omega)]

/-! ### Pointers that differ (R59, R556) -/

theorem Dev.fifoCheck_good (h : (s.fifoAt f).ptrBad = false) : s.fifoCheck f = s :=
  if_neg (by
    rw [show ((s.rd (s.fifoRd f)).fifo (s.fifoLoc f)).ptrBad = false from h]
    exact Bool.false_ne_true)

theorem not_noteReg_fifo {n i : Nat} : ¬ noteReg (FIF_STAT n i) :=
  not_noteReg_rd (by unfold FIF_STAT rdBase; omega) (.inr (by unfold FIF_STAT rdBase; omega))

/-- A FIFO whose pointers differ is reset: it is empty, and the reset counts. -/
theorem Dev.fifoCheck_bad (h : (s.fifoAt f).ptrBad = true) : (s.fifoCheck f).fifoAt f = Fifo.empty ∧
    (s.fifoCheck f).fget (FIF_STAT_RST (s.fifoRd f) (s.fifoLoc f)) =
      min (s.fget (FIF_STAT_RST (s.fifoRd f) (s.fifoLoc f)) + 1) (2 ^ (FIF_STAT_RST (s.fifoRd f) (s.fifoLoc f)).width - 1) ∧
    (s.fifoCheck f).variant = s.variant := by
  unfold Dev.fifoCheck
  extract_lets n i q u v
  rw [if_pos (show q.ptrBad = true from h)]
  have noted : v.Noted (v.report .cont .fifo f 0 0) := (Dev.Noted.refl v).report
  have empty : u.fifoAt f = Fifo.empty := Dev.fifoAt_setFifoAt
  have variant : v.variant = s.variant := (Dev.finc_variant ..).trans ((Dev.fset_variant ..).trans Dev.setFifoAt_variant)
  have uVariant : u.variant = s.variant := Dev.setFifoAt_variant
  have beside : ∀ k, (u.fset (FIF_STAT_DISC n i) k).fget (FIF_STAT_RST n i) = u.fget (FIF_STAT_RST n i) := fun k =>
    Dev.fget_fset_bits u k (by simp [FIF_STAT_DISC]) (.inl (by simp [FIF_STAT_DISC, FIF_STAT_RST])) rfl
  have base : (u.fadd (FIF_STAT_DISC n i) q.words.length).fget (FIF_STAT_RST n i) = s.fget (FIF_STAT_RST n i) :=
    (beside _).trans (Dev.fget_congr (Dev.modRd_regs ..) _)
  have counts := Dev.fget_finc_same (u.fadd (FIF_STAT_DISC n i) q.words.length) (FIF_STAT_RST n i) (by simp [FIF_STAT_RST])
  rw [base] at counts
  refine ⟨?_, (noted.fget not_noteReg_fifo).trans counts, noted.variant.trans variant⟩
  have kept : v.fifoAt f = u.fifoAt f := Dev.fifoAt_finc.trans (Dev.fifoAt_congr (Dev.fset_variant ..) (Dev.fset_rd ..))
  exact (Dev.fifoAt_congr noted.variant noted.rd).trans (kept.trans empty)

/-! ### A read of a data port (R551) -/

theorem Dev.fifoRead_off {bytes : Nat} {peek : Bool} (h : s.powered (4 + s.fifoRd f) = false) :
    s.fifoRead f bytes peek = (List.replicate (bytes / 8) 0, s) := if_pos (by rw [h]; rfl)

theorem Dev.fifoRead_size {bytes : Nat} (on : s.powered (4 + s.fifoRd f) = true) (size : ¬ (0 < bytes ∧ bytes % 8 = 0 ∧ bytes ≤ 64)) :
    s.fifoRead f bytes false = (List.replicate (bytes / 8) 0, s.finc (FIF_STAT_BADRD (s.fifoRd f) (s.fifoLoc f))) := by
  unfold Dev.fifoRead
  extract_lets n i
  rw [if_neg (by rw [on]; decide), if_pos (by omega)]
  rfl

/-- The words that a read of m words returns. -/
def Fifo.first (q : Fifo) (m : Nat) : List W64 := q.words.take (min m q.visible)

/-- What it leaves. -/
def Fifo.taken (q : Fifo) (m : Nat) : Fifo :=
  { q with words := q.words.drop (q.first m).length, visible := q.visible - (q.first m).length }

theorem Dev.fifoRead_peek {bytes : Nat} (on : s.powered (4 + s.fifoRd f) = true) (size : 0 < bytes ∧ bytes % 8 = 0 ∧ bytes ≤ 64) :
    s.fifoRead f bytes true =
      ((s.fifoAt f).first (bytes / 8) ++ List.replicate (bytes / 8 - ((s.fifoAt f).first (bytes / 8)).length) 0, s) := by
  unfold Dev.fifoRead
  extract_lets n i
  rw [if_neg (by rw [on]; decide), if_neg (by omega)]
  rfl

theorem Dev.fifoRead_pops {bytes : Nat} (on : s.powered (4 + s.fifoRd f) = true) (size : 0 < bytes ∧ bytes % 8 = 0 ∧ bytes ≤ 64)
    (variant : (s.fifoCheck f).variant = s.variant) : s.fifoRead f bytes false =
      (((s.fifoCheck f).fifoAt f).first (bytes / 8) ++
          List.replicate (bytes / 8 - (((s.fifoCheck f).fifoAt f).first (bytes / 8)).length) 0,
        ((s.fifoCheck f).setFifoAt f (((s.fifoCheck f).fifoAt f).taken (bytes / 8))).fifoFinish f) := by
  unfold Dev.fifoRead
  extract_lets n i m u q w
  rw [if_neg (by rw [on]; decide), if_neg (by omega)]
  have is : u = s.fifoCheck f := rfl
  have rd : (s.fifoCheck f).fifoRd f = n := Dev.fifoRd_congr variant f
  have loc : (s.fifoCheck f).fifoLoc f = i := Dev.fifoLoc_congr variant f
  simp only [Dev.setFifoAt, Dev.fifoAt, rd, loc]
  rfl

/-- A read takes the visible words in order, and exactly those. -/
theorem Dev.fifoRead_good {bytes : Nat} (on : s.powered (4 + s.fifoRd f) = true) (size : 0 < bytes ∧ bytes % 8 = 0 ∧ bytes ≤ 64)
    (good : (s.fifoAt f).ptrBad = false) (whole : (s.fifoAt f).visible ≤ (s.fifoAt f).words.length) :
    let m := min (bytes / 8) (s.fifoAt f).visible
    let d := s.fifoRead f bytes false
    d.1 = (s.fifoAt f).words.take m ++ List.replicate (bytes / 8 - m) 0 ∧
      d.2.fifoAt f = { s.fifoAt f with words := (s.fifoAt f).words.drop m, visible := ((s.fifoAt f).words.drop m).length } ∧
      ((s.fifoAt f).visible = (s.fifoAt f).words.length → d.2.regs = s.regs) ∧ d.2.variant = s.variant := by
  intro m d
  have check := Dev.fifoCheck_good good
  have read : d = _ := Dev.fifoRead_pops on size (by rw [check])
  have length : ((s.fifoAt f).first (bytes / 8)).length = m := by
    simp only [Fifo.first, List.length_take]
    omega
  rw [check, length] at read
  have taken : (s.fifoAt f).taken (bytes / 8) =
      { s.fifoAt f with words := (s.fifoAt f).words.drop m, visible := (s.fifoAt f).visible - m } := by
    simp only [Fifo.taken, length]
  rw [taken] at read
  generalize left : ({ s.fifoAt f with words := (s.fifoAt f).words.drop m, visible := (s.fifoAt f).visible - m } : Fifo) = q at read
  have words : q.words = (s.fifoAt f).words.drop m := by rw [← left]
  have visible : q.visible = (s.fifoAt f).visible - m := by rw [← left]
  have rest : q.words.length = (s.fifoAt f).words.length - m := by rw [words, List.length_drop]
  have at_ : (s.setFifoAt f q).fifoAt f = q := Dev.fifoAt_setFifoAt
  rw [read]
  refine ⟨rfl, ?_, fun all => ?_, ?_⟩
  · rw [Dev.fifoAt_fifoFinish (by rw [at_]; omega), at_, ← words]
    rw [← left]
  · rw [Dev.fifoFinish_done (by rw [at_]; omega)]
    exact Dev.setFifoAt_regs
  · exact Dev.fifoFinish_variant.trans Dev.setFifoAt_variant

/-- A read of a FIFO whose pointers differ resets it and returns zeros. -/
theorem Dev.fifoRead_bad {bytes : Nat} (on : s.powered (4 + s.fifoRd f) = true) (size : 0 < bytes ∧ bytes % 8 = 0 ∧ bytes ≤ 64)
    (bad : (s.fifoAt f).ptrBad = true) :
    let d := s.fifoRead f bytes false
    d.1 = List.replicate (bytes / 8) 0 ∧ d.2.fifoAt f = Fifo.empty ∧ d.2.variant = s.variant ∧
      d.2.fget (FIF_STAT_RST (s.fifoRd f) (s.fifoLoc f)) =
        min (s.fget (FIF_STAT_RST (s.fifoRd f) (s.fifoLoc f)) + 1) (2 ^ (FIF_STAT_RST (s.fifoRd f) (s.fifoLoc f)).width - 1) := by
  intro d
  obtain ⟨empty, counts, variant⟩ := Dev.fifoCheck_bad bad
  have read : d = _ := Dev.fifoRead_pops on size variant
  have none : Fifo.empty.first (bytes / 8) = [] := List.take_nil
  have left : Fifo.empty.taken (bytes / 8) = Fifo.empty := by rw [Fifo.taken, none]; rfl
  have at_ : ((s.fifoCheck f).setFifoAt f Fifo.empty).fifoAt f = Fifo.empty := Dev.fifoAt_setFifoAt
  rw [empty, none, left, Dev.fifoFinish_done (by rw [at_]; exact le_refl 0)] at read
  rw [read]
  exact ⟨rfl, at_, Dev.setFifoAt_variant.trans variant, (Dev.fget_congr Dev.setFifoAt_regs _).trans counts⟩

/-! ### A packet written (R37, R549, R552-R555) -/

theorem packWords_length (first : Bool) (l : List Byte) (n : Nat) : (packWords first l n).length ≤ l.length / 7 + 1 := by
  induction n generalizing first l with
  | zero => exact Nat.zero_le _
  | succ n ih =>
    unfold packWords
    extract_lets b rest last
    rw [List.length_cons]
    split
    · exact Nat.le_add_left 1 _
    · next more =>
      have long : rest.length = l.length - 7 := List.length_drop
      have some : rest ≠ [] := fun e => more (List.isEmpty_iff.2 e)
      have := List.length_pos_iff.2 some
      have := ih false rest
      omega

theorem packetWords_length (l : List Byte) : (packetWords l).length ≤ l.length / 7 + 1 := packWords_length true l l.length

theorem length_bytesOf (v n : Nat) : (bytesOf v n).length = n := by
  induction n generalizing v with
  | zero => rfl
  | succ n ih => rw [bytesOf, List.length_cons, ih]

theorem Dev.fifoCut_spec {n : Nat} : (s.fifoCut f n).2.fifoAt f = s.fifoAt f ∧ (s.fifoCut f n).2.variant = s.variant := by
  unfold Dev.fifoCut
  extract_lets cut
  split
  · exact ⟨rfl, rfl⟩
  · exact ⟨rfl, rfl⟩

theorem Dev.fifoCheck_variant : (s.fifoCheck f).variant = s.variant := by
  cases bad : (s.fifoAt f).ptrBad with
  | false => rw [Dev.fifoCheck_good bad]
  | true => exact (Dev.fifoCheck_bad bad).2.2

theorem Dev.fifoPush_variant {n : Nat} {bytes : List Byte} : (s.fifoPush n f bytes).variant = s.variant := by
  have counted : ∀ t, (if n = t then s else s.finc (RDn_HUB_BRG_XFER n)).variant = s.variant := fun t => by
    split
    · rfl
    · exact Dev.finc_variant ..
  unfold Dev.fifoPush
  extract_lets t i u w
  have variant : u.variant = s.variant := Dev.fifoFinish_variant.trans (Dev.fifoCheck_variant.trans (counted t))
  clear_value u
  split
  · split
    · rfl
    · exact Dev.finc_variant ..
  · split
    · exact (Dev.finc_variant ..).trans variant
    · have cut := (u.fifoCut_spec (f := f) (n := w.length)).2
      generalize u.fifoCut f w.length = placed at cut
      obtain ⟨k, v⟩ := placed
      exact Dev.fifoShow_variant.trans ((Dev.modRd_variant ..).trans (cut.trans variant))

/-- A packet that has room is written whole, after what the FIFO holds. -/
theorem Dev.fifoPush_words {n : Nat} {bytes : List Byte} (on : s.powered (4 + s.fifoRd f) = true) (good : (s.fifoAt f).ptrBad = false)
    (room : (s.fifoAt f).words.length + (packetWords bytes).length ≤ Config.fifoWords) :
    ((s.fifoPush n f bytes).fifoAt f).words = (s.fifoAt f).words ++ packetWords bytes := by
  unfold Dev.fifoPush
  extract_lets t i u w
  rw [if_neg (by rw [on]; decide)]
  generalize counted : (if n = t then s else s.finc (RDn_HUB_BRG_XFER n)) = c
  have same : c.fifoAt f = s.fifoAt f ∧ c.variant = s.variant := by
    rw [← counted]
    split
    · exact ⟨rfl, rfl⟩
    · exact ⟨Dev.fifoAt_finc, Dev.finc_variant ..⟩
  have uIs : u = c.fifoFinish f := by
    unfold u
    rw [counted, Dev.fifoCheck_good (by rw [same.1]; exact good)]
  have words : (u.fifoAt f).words = (s.fifoAt f).words := by rw [uIs, Dev.words_fifoFinish, same.1]
  have variant : u.variant = s.variant := by rw [uIs, Dev.fifoFinish_variant, same.2]
  clear_value u
  have free : ¬ u.fifoFree f < w.length := by
    have is : u.fifoFree f = Config.fifoWords - (u.fifoAt f).words.length := rfl
    have long : w.length = (packetWords bytes).length := rfl
    rw [is, words]
    omega
  rw [if_neg free]
  obtain ⟨cut, cutVariant⟩ := u.fifoCut_spec (f := f) (n := w.length)
  generalize u.fifoCut f w.length = placed at cut cutVariant
  obtain ⟨k, v⟩ := placed
  dsimp only at cut cutVariant ⊢
  have rd : v.fifoRd f = t := Dev.fifoRd_congr (cutVariant.trans variant) f
  have loc : v.fifoLoc f = i := Dev.fifoLoc_congr (cutVariant.trans variant) f
  have at_ : (v.rd t).fifo i = v.fifoAt f := by rw [← rd, ← loc]; rfl
  rw [at_]
  have put : (v.modRd t fun x => x.setFifo i { v.fifoAt f with words := (v.fifoAt f).words ++ w }) =
      v.setFifoAt f { v.fifoAt f with words := (v.fifoAt f).words ++ w } := by rw [← rd, ← loc]; rfl
  rw [put, Dev.fifoAt_fifoShow, Dev.fifoAt_setFifoAt, cut, words]

end

end Sys2Proof.Machine
end

section
/-!
PROOFS for the family `02_station_cycle`: stream requests, and what a HUB block brings (O54).
-/
namespace Sys2Proof.Machine

/-! ### What the settings of a stream leave (R535, R541) -/

/-- Block s has the streams of o, and the result register of ring die n. -/
structure Dev.HubKept (n : Nat) (o s : Dev) : Prop where
  streams : s.streams = o.streams
  res : s.rget (RDn_HUB_RES n) = o.rget (RDn_HUB_RES n)

section
variable {n : Nat} {o s : Dev}

theorem Dev.HubKept.refl (s : Dev) : Dev.HubKept n s s := ⟨rfl, rfl⟩

theorem Dev.HubKept.of_regs {t : Dev} (h : Dev.HubKept n o s) (hs : t.streams = s.streams) (hr : t.regs = s.regs) : Dev.HubKept n o t :=
  ⟨hs.trans h.streams, (Dev.rget_congr hr _).trans h.res⟩

theorem Dev.HubKept.modCell {p : Place} {f : Cell → Cell} (h : Dev.HubKept n o s) : Dev.HubKept n o (s.modCell p f) := { h with }
theorem Dev.HubKept.modAq {f : AqDie → AqDie} (h : Dev.HubKept n o s) : Dev.HubKept n o (s.modAq f) := { h with }
theorem Dev.HubKept.setCend {id : Nat} {e : CellEnd} (h : Dev.HubKept n o s) : Dev.HubKept n o (s.setCend id e) := { h with }
theorem Dev.HubKept.free (h : Dev.HubKept n o s) : Dev.HubKept n o s.free.2 := { h with }
theorem Dev.HubKept.emit {e : Emission} (h : Dev.HubKept n o s) : Dev.HubKept n o (s.emit e) := { h with }

theorem Dev.HubKept.setLine {q : Sender} {l : Option Line} (h : Dev.HubKept n o s) : Dev.HubKept n o (s.setLine q l) := by
  unfold Dev.setLine
  cases q with
  | ringEnd r e => exact h.of_regs (Dev.modRd_streams ..) (Dev.modRd_regs ..)
  | cell p x => exact h.modCell

theorem Dev.HubKept.openLine {q : Sender} (h : Dev.HubKept n o s) : Dev.HubKept n o (s.openLine q).2 := by
  unfold Dev.openLine
  split
  · exact h
  · exact h.free.setLine

theorem Dev.HubKept.placeBlock {q : Sender} {ty : BitVec 4} {t : Int} (h : Dev.HubKept n o s) :
    Dev.HubKept n o (s.placeBlock q ty t).2 := by
  simp only [Dev.placeBlock]
  split_ifs <;> exact h.openLine.setLine

theorem Dev.HubKept.send {q : Sender} {ty : BitVec 4} {pl : Payload} (h : Dev.HubKept n o s) : Dev.HubKept n o (s.send q ty pl) := by
  have h1 := h.placeBlock (q := q) (ty := ty) (t := s.raw10ps)
  simp only [Dev.send, Dev.sendFrom]
  split
  · exact h1.emit
  · exact h1

theorem Dev.HubKept.ownWrite {p : Place} {a : Nat} {v : W32} (h : Dev.HubKept n o s) : Dev.HubKept n o (s.ownWrite p a v) :=
  h.free.setCend.send.modCell

theorem Dev.HubKept.fset {f : Field} {v : Nat} (h : Dev.HubKept n o s) (ne : RDn_HUB_RES n ≠ f.reg) : Dev.HubKept n o (s.fset f v) :=
  ⟨(Dev.fset_streams ..).trans h.streams, (Dev.rget_fset_reg s v ne).trans h.res⟩

theorem Dev.HubKept.ite {a b : Dev} {c : Prop} [Decidable c] (ha : Dev.HubKept n o a) (hb : Dev.HubKept n o b) :
    Dev.HubKept n o (if c then a else b) := by
  split <;> assumption

theorem Dev.HubKept.rfset {f : Nat → Nat → Field} {r v : Nat} (h : Dev.HubKept n o s) (hr : r < 256)
    (ne : ∀ m q, q < 256 → RDn_HUB_RES n ≠ (f m q).reg) : Dev.HubKept n o (s.rfset f r v) := by
  have first := h.fset (v := v) (ne 0 r hr)
  exact .ite (h.fset (ne _ _ (by omega))) (.ite first (first.fset (ne 1 r hr)))

theorem hubRes_ne (n m : Nat) {q : Nat} (hq : q < 256) : RDn_HUB_RES n ≠ RDn_HUB_STAT m q := by
  unfold RDn_HUB_RES RDn_HUB_STAT rdBase
  omega

theorem Dev.HubKept.showHub {r : Nat} (h : Dev.HubKept n o s) (hr : r < 256) : Dev.HubKept n o (s.showHub r) :=
  have apart := fun m q (hq : q < 256) => hubRes_ne n m hq
  ((h.rfset (f := RDn_HUB_STAT_GBA) hr apart).rfset (f := RDn_HUB_STAT_GBB) hr apart).rfset (f := RDn_HUB_STAT_G16SUM) hr apart

theorem Dev.putStream_kept (s : Dev) (n : Nat) {aq : Bool} {id inp i : Nat} {q : Option Stream} (hid : id < 16384) :
    Dev.HubKept n (s.setStream i q) (s.putStream aq id inp i q) := by
  have start : Dev.HubKept n (s.setStream i q) (s.setStream i q) := .refl _
  unfold Dev.putStream
  extract_lets u v
  refine .ite start.modAq (Dev.HubKept.showHub ?_ (by omega))
  unfold v
  split
  · exact start.ownWrite
  · exact start.ownWrite
  · exact start

/-! ### The result of a request (R544, R571) -/

/-- The result shows the least grant budget of a cell. -/
def Dev.hubShow (n : Nat) (aq : Bool) (id : Nat) (s : Dev) : Dev :=
  if aq then s else s.fset (RDn_HUB_RES_G16 n) ((leastG16 s.period s.running_ id).getD 0)

/-- What a request leaves: its reason, and the stream or the count. -/
def Dev.hubDone (s : Dev) (n : Nat) (aq : Bool) (id inp i why : Nat) (q : Option Stream) : Dev :=
  let s := s.fset (RDn_HUB_RES_REASON n) why
  Dev.hubShow n aq id (if why ≠ 0 then s.finc (RDn_HUB_RES_REFCNT n) else s.putStream aq id inp i q)

theorem Dev.hubShow_spec (n : Nat) (aq : Bool) (id : Nat) (t : Dev) : (Dev.hubShow n aq id t).streams = t.streams ∧
    (Dev.hubShow n aq id t).fget (RDn_HUB_RES_REASON n) = t.fget (RDn_HUB_RES_REASON n) ∧
      (Dev.hubShow n aq id t).fget (RDn_HUB_RES_REFCNT n) = t.fget (RDn_HUB_RES_REFCNT n) := by
  unfold Dev.hubShow
  split
  · exact ⟨rfl, rfl, rfl⟩
  · exact ⟨Dev.fset_streams .., Dev.fget_fset_bits t _ (by simp [RDn_HUB_RES_G16]) (by simp [RDn_HUB_RES_G16, RDn_HUB_RES_REASON]) rfl,
      Dev.fget_fset_bits t _ (by simp [RDn_HUB_RES_G16]) (by simp [RDn_HUB_RES_G16, RDn_HUB_RES_REFCNT]) rfl⟩

theorem Dev.hubDone_refused {aq : Bool} {id inp i why : Nat} {q : Option Stream} (h : why ≠ 0) (lt : why < 16) :
    let d := s.hubDone n aq id inp i why q
    d.fget (RDn_HUB_RES_REASON n) = why ∧ d.streams = s.streams ∧
      d.fget (RDn_HUB_RES_REFCNT n) = min (s.fget (RDn_HUB_RES_REFCNT n) + 1) (2 ^ (RDn_HUB_RES_REFCNT n).width - 1) := by
  intro d
  have set : (s.fset (RDn_HUB_RES_REASON n) why).fget (RDn_HUB_RES_REASON n) = why :=
    (Dev.fget_fset_same s _ why (by simp [RDn_HUB_RES_REASON])).trans (Nat.mod_eq_of_lt lt)
  have before : (s.fset (RDn_HUB_RES_REASON n) why).fget (RDn_HUB_RES_REFCNT n) = s.fget (RDn_HUB_RES_REFCNT n) :=
    Dev.fget_fset_bits s _ (by simp [RDn_HUB_RES_REASON]) (by simp [RDn_HUB_RES_REASON, RDn_HUB_RES_REFCNT]) rfl
  have kept : (s.fset (RDn_HUB_RES_REASON n) why).streams = s.streams := Dev.fset_streams ..
  have eq : d = Dev.hubShow n aq id (if why ≠ 0 then (s.fset (RDn_HUB_RES_REASON n) why).finc (RDn_HUB_RES_REFCNT n)
      else (s.fset (RDn_HUB_RES_REASON n) why).putStream aq id inp i q) := rfl
  rw [eq, if_pos h]
  generalize s.fset (RDn_HUB_RES_REASON n) why = u at set before kept
  have counts := u.fget_finc_same (RDn_HUB_RES_REFCNT n) (by simp [RDn_HUB_RES_REFCNT])
  have beside : (u.finc (RDn_HUB_RES_REFCNT n)).fget (RDn_HUB_RES_REASON n) = u.fget (RDn_HUB_RES_REASON n) :=
    Dev.fget_fset_bits u _ (by simp [RDn_HUB_RES_REFCNT]) (by simp [RDn_HUB_RES_REASON, RDn_HUB_RES_REFCNT]) rfl
  have streams : (u.finc (RDn_HUB_RES_REFCNT n)).streams = u.streams := Dev.finc_streams ..
  obtain ⟨shownStreams, shownReason, shownCount⟩ := Dev.hubShow_spec n aq id (u.finc (RDn_HUB_RES_REFCNT n))
  refine ⟨shownReason.trans (beside.trans set), shownStreams.trans (streams.trans kept), shownCount.trans (counts.trans ?_)⟩
  rw [before]

theorem Dev.stream_congr {t : Dev} (h : t.streams = s.streams) (i : Nat) : t.stream i = s.stream i := by
  unfold Dev.stream
  rw [h]

theorem Dev.stream_setStream (s : Dev) (i : Nat) (q : Option Stream) : (s.setStream i q).stream i = q := Store.get_set_same _ _ _ _

theorem Dev.putStream_stream {aq : Bool} {id inp i : Nat} {q : Option Stream} (hid : id < 16384) :
    (s.putStream aq id inp i q).stream i = q :=
  (Dev.stream_congr (s.putStream_kept 0 hid).streams i).trans (s.stream_setStream i q)

theorem Dev.putStream_res {aq : Bool} {id inp i : Nat} {q : Option Stream} (hid : id < 16384) :
    (s.putStream aq id inp i q).rget (RDn_HUB_RES n) = s.rget (RDn_HUB_RES n) :=
  (s.putStream_kept n hid).res

theorem Dev.fget_of_rget {t : Dev} {f : Field} (h : t.rget f.reg = s.rget f.reg) : t.fget f = s.fget f := by
  unfold Dev.fget
  rw [h]

theorem Dev.hubDone_taken {aq : Bool} {id inp i : Nat} {q : Option Stream} (hid : id < 16384) :
    (s.hubDone n aq id inp i 0 q).fget (RDn_HUB_RES_REASON n) = 0 ∧ (s.hubDone n aq id inp i 0 q).stream i = q ∧
      (s.hubDone n aq id inp i 0 q).fget (RDn_HUB_RES_REFCNT n) = s.fget (RDn_HUB_RES_REFCNT n) := by
  unfold Dev.hubDone
  extract_lets u
  have set : u.fget (RDn_HUB_RES_REASON n) = 0 :=
    (Dev.fget_fset_same s _ 0 (by simp [RDn_HUB_RES_REASON])).trans (Nat.zero_mod _)
  have before : u.fget (RDn_HUB_RES_REFCNT n) = s.fget (RDn_HUB_RES_REFCNT n) :=
    Dev.fget_fset_bits s _ (by simp [RDn_HUB_RES_REASON]) (by simp [RDn_HUB_RES_REASON, RDn_HUB_RES_REFCNT]) rfl
  rw [if_neg fun h => h rfl]
  clear_value u
  obtain ⟨shownStreams, shownReason, shownCount⟩ := Dev.hubShow_spec n aq id (u.putStream aq id inp i q)
  have res := u.putStream_res (n := n) (aq := aq) (inp := inp) (i := i) (q := q) hid
  have reason : (u.putStream aq id inp i q).fget (RDn_HUB_RES_REASON n) = u.fget (RDn_HUB_RES_REASON n) := Dev.fget_of_rget res
  have count : (u.putStream aq id inp i q).fget (RDn_HUB_RES_REFCNT n) = u.fget (RDn_HUB_RES_REFCNT n) := Dev.fget_of_rget res
  exact ⟨shownReason.trans (reason.trans set), (Dev.stream_congr shownStreams i).trans (Dev.putStream_stream hid),
    shownCount.trans (count.trans before)⟩

/-! ### The request (R541) -/

theorem Dev.winUp_rset {a b : Nat} {x : W64} (side : sideReg b) (ne : b ≠ SH_BOOT_STAT) : (s.rset b x).winUp a = s.winUp a := by
  have boot : (s.rset b x).rget SH_BOOT_STAT = s.rget SH_BOOT_STAT := Dev.rget_rset_ne _ _ ne.symm
  have stuck : (s.rset b x).bootStuck a = s.bootStuck a := by
    simp only [Dev.bootStuck, Dev.fbit, Dev.fget, boot]
    rfl
  have lacks : (s.rset b x).lacks a = s.lacks a := rfl
  have die : winDie a < 8 ∨ winDie a = 8 := by
    unfold winDie
    split_ifs <;> omega
  unfold Dev.winUp
  extract_lets d
  rw [stuck, lacks]
  rcases die with lt | eight
  · rw [((Dev.Keeps.refl s).rset side).powered (d := d) lt]
  · have is : d = 8 := eight
    rw [is]
    rfl

theorem hubReq_side (n : Nat) : sideReg (RDn_HUB_REQ n) := by
  constructor
  · unfold keptReg RDn_HUB_REQ rdBase
    omega
  · simp only [SH_TWIN_STAT, RDn_HUB_REQ, rdBase]
    omega

/-- What the plain part of a request leaves. -/
theorem Dev.hubReq_rest (s : Dev) (n : Nat) (v : W64) : (s.plainWrite (RDn_HUB_REQ n) v).winUp (RDn_HUB_REQ n) = s.winUp (RDn_HUB_REQ n) ∧
    (s.plainWrite (RDn_HUB_REQ n) v).master = s.master ∧ (s.plainWrite (RDn_HUB_REQ n) v).streams = s.streams ∧
    ∀ f : Field, f.reg = RDn_HUB_RES n → (s.plainWrite (RDn_HUB_REQ n) v).fget f = s.fget f := by
  obtain ⟨w, same | set⟩ := s.plainWrite_only (RDn_HUB_REQ n) v
  · rw [same]
    exact ⟨rfl, rfl, rfl, fun f _ => Eq.refl (s.fget f)⟩
  · rw [set]
    have ne : RDn_HUB_REQ n ≠ SH_BOOT_STAT := by
      simp only [RDn_HUB_REQ, rdBase, SH_BOOT_STAT]
      omega
    refine ⟨Dev.winUp_rset (hubReq_side n) ne, by rw [Dev.master, Dev.rset_sh]; rfl, Dev.rset_streams .., fun f hf => ?_⟩
    have apart : RDn_HUB_RES n ≠ RDn_HUB_REQ n := by
      unfold RDn_HUB_RES RDn_HUB_REQ
      omega
    unfold Dev.fget
    rw [hf, Dev.rget_rset_ne _ _ apart]

theorem Dev.fget_lt (s : Dev) (f : Field) : s.fget f < 2 ^ f.width := bitsOf_lt _ _ _

/-- The request that the fields written describe. -/
def Dev.hubAsks (s : Dev) (n : Nat) : Stream :=
  { mode := s.fget (RDn_HUB_REQ_MODE n), d := s.fget (RDn_HUB_REQ_D n), co := s.fbit (RDn_HUB_REQ_CO n)
    grant := s.fbit (RDn_HUB_REQ_CLASS n), fifo := s.fget (RDn_HUB_REQ_FIFO n), susp := false }

theorem Dev.hubRequest_plain {v : W64} (h : v.getLsbD 63 = false ∨ s.winUp (RDn_HUB_REQ n) = false ∨ n ≠ s.master) :
    s.hubRequest n v = s.plainWrite (RDn_HUB_REQ n) v := by
  obtain ⟨up, master, -, -⟩ := s.hubReq_rest n v
  unfold Dev.hubRequest
  extract_lets w
  refine if_pos ?_
  rw [up, master]
  rcases h with e | e | e
  · rw [e]
    rfl
  · rw [e]
    simp
  · simp [e]

/-- The index of the stream they name. -/
def Dev.hubIndex (s : Dev) (n : Nat) : Nat :=
  if s.fbit (RDn_HUB_REQ_AQ n) then aqStreamIx (s.fget (RDn_HUB_REQ_INP n))
  else cellStreamIx (s.fget (RDn_HUB_REQ_ID n)) (s.fget (RDn_HUB_REQ_INP n))

/-- They name a unit's input. -/
def Dev.hubNames (s : Dev) (n : Nat) : Bool :=
  if s.fbit (RDn_HUB_REQ_AQ n) then decide (s.fget (RDn_HUB_REQ_INP n) < 192)
  else decide (s.fget (RDn_HUB_REQ_INP n) < 8) && decide (s.fget (RDn_HUB_REQ_ID n) < 8448)

/-- The first check of R544 that fails. -/
def Dev.hubWhy (s : Dev) (n : Nat) : Nat :=
  s.admitReason (s.fbit (RDn_HUB_REQ_AQ n)) (s.fget (RDn_HUB_REQ_ID n)) (s.fget (RDn_HUB_REQ_INP n)) (s.hubIndex n) (s.hubAsks n)

section
variable {v : W64} {w : Dev} (go : v.getLsbD 63 = true) (up : s.winUp (RDn_HUB_REQ n) = true) (master : n = s.master)
  (written : s.plainWrite (RDn_HUB_REQ n) v = w)
include go up master written

theorem Dev.hubRequest_go : s.hubRequest n v =
    w.hubDone n (w.fbit (RDn_HUB_REQ_AQ n)) (w.fget (RDn_HUB_REQ_ID n)) (w.fget (RDn_HUB_REQ_INP n)) (w.hubIndex n)
      (if w.fbit (RDn_HUB_REQ_EN n) then w.hubWhy n else if w.hubNames n then 0 else 1)
      (if w.fbit (RDn_HUB_REQ_EN n) then some (w.hubAsks n) else none) := by
  obtain ⟨sameUp, sameMaster, -, -⟩ := s.hubReq_rest n v
  rw [written] at sameUp sameMaster
  unfold Dev.hubRequest
  rw [written]
  refine (if_neg ?_).trans rfl
  rw [go, sameUp, up, sameMaster, ← master]
  simp

theorem Dev.hubRequest_release (en : w.fbit (RDn_HUB_REQ_EN n) = false) (named : w.hubNames n = true) :
    (s.hubRequest n v).fget (RDn_HUB_RES_REASON n) = 0 ∧ (s.hubRequest n v).stream (w.hubIndex n) = none := by
  rw [Dev.hubRequest_go go up master written, en, named]
  obtain ⟨reason, stream, -⟩ := Dev.hubDone_taken (s := w) (n := n) (aq := w.fbit (RDn_HUB_REQ_AQ n)) (inp := w.fget (RDn_HUB_REQ_INP n))
    (i := w.hubIndex n) (q := none) (Dev.fget_lt w (RDn_HUB_REQ_ID n))
  exact ⟨reason, stream⟩

theorem Dev.hubRequest_refused {why : Nat} (is : (if w.fbit (RDn_HUB_REQ_EN n) then w.hubWhy n else if w.hubNames n then 0 else 1) = why)
    (no : why ≠ 0) (lt : why < 16) : (s.hubRequest n v).fget (RDn_HUB_RES_REASON n) = why ∧ (s.hubRequest n v).streams = s.streams ∧
      (s.hubRequest n v).fget (RDn_HUB_RES_REFCNT n) =
        min (s.fget (RDn_HUB_RES_REFCNT n) + 1) (2 ^ (RDn_HUB_RES_REFCNT n).width - 1) := by
  obtain ⟨-, -, streams, res⟩ := s.hubReq_rest n v
  rw [written] at streams res
  have refused := Dev.hubDone_refused (s := w) (n := n) (aq := w.fbit (RDn_HUB_REQ_AQ n)) (id := w.fget (RDn_HUB_REQ_ID n))
    (inp := w.fget (RDn_HUB_REQ_INP n)) (i := w.hubIndex n) (q := if w.fbit (RDn_HUB_REQ_EN n) then some (w.hubAsks n) else none) no lt
  rw [Dev.hubRequest_go go up master written, is]
  obtain ⟨reason, kept, count⟩ := refused
  rw [res (RDn_HUB_RES_REFCNT n) rfl] at count
  exact ⟨reason, kept.trans streams, count⟩

theorem Dev.hubRequest_admitted (en : w.fbit (RDn_HUB_REQ_EN n) = true) (ok : w.hubWhy n = 0) :
    (s.hubRequest n v).fget (RDn_HUB_RES_REASON n) = 0 ∧ (s.hubRequest n v).stream (w.hubIndex n) = some (w.hubAsks n) ∧
      (s.hubRequest n v).fget (RDn_HUB_RES_REFCNT n) = s.fget (RDn_HUB_RES_REFCNT n) := by
  obtain ⟨-, -, -, res⟩ := s.hubReq_rest n v
  rw [written] at res
  rw [Dev.hubRequest_go go up master written, en, ok]
  obtain ⟨reason, stream, count⟩ := Dev.hubDone_taken (s := w) (n := n) (aq := w.fbit (RDn_HUB_REQ_AQ n))
    (inp := w.fget (RDn_HUB_REQ_INP n)) (i := w.hubIndex n) (q := some (w.hubAsks n)) (Dev.fget_lt w (RDn_HUB_REQ_ID n))
  exact ⟨reason, stream, count.trans (res _ rfl)⟩

end

theorem Dev.admitReason_le (s : Dev) (aq : Bool) (id inp i : Nat) (q : Stream) : s.admitReason aq id inp i q ≤ 6 := by
  unfold Dev.admitReason
  extract_lets r l
  split_ifs <;> omega

/-! ### Entries (R529, R551) -/

variable {k id : Nat} {x y z : Nat}

/-- A HUB block with one entry. -/
theorem Dev.entriesIn_one (h1 : x / 8 % 4 ≠ 0) (h2 : y / 8 % 4 = 0) (h3 : z / 8 % 4 = 0) :
    s.entriesIn k id [x, y, z] = s.entryIn k (cellStreamIx id (x % 8)) id (BitVec.ofNat 128 x) := by
  have mode : ∀ a, bitsOf a 3 2 = a / 8 % 4 := fun a => rfl
  have input : bitsOf x 0 3 = x % 8 := by simp [bitsOf]
  simp only [Dev.entriesIn, List.foldl_cons, List.foldl_nil, mode, input, if_neg h1, if_pos h2, if_pos h3]

theorem Dev.entryIn_some {idx src : Nat} {e : BitVec 128} {t : Stream} (h : s.stream idx = some t) :
    s.entryIn k idx src e = s.fifoPush k t.fifo (bytesOf 1 1 ++ bytesOf src 2 ++ bytesOf e.toNat 16) := by
  unfold Dev.entryIn
  rw [h]
  rfl

theorem Dev.entryIn_variant {idx src : Nat} {e : BitVec 128} : (s.entryIn k idx src e).variant = s.variant := by
  unfold Dev.entryIn
  split
  · exact Dev.fifoPush_variant
  · rfl

theorem Dev.entriesIn_variant (s : Dev) (k id : Nat) (l : List Nat) : (s.entriesIn k id l).variant = s.variant := by
  unfold Dev.entriesIn
  induction l generalizing s with
  | nil => rfl
  | cons x l ih =>
    rw [List.foldl_cons, ih]
    split
    · rfl
    · exact Dev.entryIn_variant

/-- The entry stands in its stream's FIFO, as a packet after what that holds. -/
theorem Dev.entriesIn_words {t : Stream} (h1 : x / 8 % 4 ≠ 0) (h2 : y / 8 % 4 = 0) (h3 : z / 8 % 4 = 0) (lt : x < 2 ^ 128)
    (stream : s.stream (cellStreamIx id (x % 8)) = some t) (on : s.powered (4 + s.fifoRd t.fifo) = true)
    (good : (s.fifoAt t.fifo).ptrBad = false) (room : (s.fifoAt t.fifo).words.length + 4 ≤ Config.fifoWords) :
    ((s.entriesIn k id [x, y, z]).fifoAt t.fifo).words =
      (s.fifoAt t.fifo).words ++ packetWords (bytesOf 1 1 ++ bytesOf id 2 ++ bytesOf x 16) := by
  have entry : (BitVec.ofNat 128 x).toNat = x := by
    rw [BitVec.toNat_ofNat]
    exact Nat.mod_eq_of_lt lt
  have length := packetWords_length (bytesOf 1 1 ++ bytesOf id 2 ++ bytesOf x 16)
  simp only [List.length_append, length_bytesOf] at length
  rw [Dev.entriesIn_one h1 h2 h3, Dev.entryIn_some stream, entry]
  exact Dev.fifoPush_words on good (by omega)

end

end Sys2Proof.Machine
end

section
/-!
PROOFS for the family `02_station_cycle`: what the ends of a ring hear, its delays and its TEST blocks (O54).
-/
namespace Sys2Proof.Machine

section
variable {o s : Dev} {r : Nat} {e : End} {pl : Payload} {trip : Nat}

/-! ### What a block that an end counts leaves alone -/

theorem Dev.Noted.safe (h : o.Noted s) : s.sh.safe = o.sh.safe := by rw [h.eq]

theorem Dev.Noted.streams (h : o.Noted s) : s.streams = o.streams := by rw [h.eq]

/-! ### ECHO (R471, R503) -/

theorem Dev.rfset_cells (s : Dev) (f : Nat → Nat → Field) (r v : Nat) : (s.rfset f r v).cells = s.cells := by
  simp only [Dev.rfset]
  split_ifs <;> simp

theorem Dev.showPath_rest (s : Dev) (r : Nat) : (s.showPath r).cells = s.cells ∧ (s.showPath r).rings = s.rings := by
  unfold Dev.showPath
  simp only [Dev.rfset_cells, Dev.rfset_rings, and_self]

theorem Dev.growCheck_rest (s : Dev) (r : Nat) : (s.growCheck r).cells = s.cells ∧ (s.growCheck r).rings = s.rings := by
  unfold Dev.growCheck
  extract_lets f ov u
  have set : u.cells = s.cells ∧ u.rings = s.rings := ⟨Dev.rfset_cells .., Dev.rfset_rings ..⟩
  have noted := (Dev.Noted.refl u).report (cls := .cont) (src := .ring) (inst := r) (code := 1) (det := 0)
  have cells : (u.report .cont .ring r 1 0).cells = u.cells := by rw [noted.eq]
  split
  · exact ⟨rfl, rfl⟩
  · split
    · exact ⟨cells.trans set.1, noted.rings.trans set.2⟩
    · exact set

/-- What follows a change of a ring's path touches no ring and no cell. -/
theorem Dev.pathChange_rest (s : Dev) (r : Nat) : (s.pathChange r).cells = s.cells ∧ (s.pathChange r).rings = s.rings :=
  ⟨(Dev.growCheck_rest ..).1.trans (Dev.showPath_rest ..).1, (Dev.growCheck_rest ..).2.trans (Dev.showPath_rest ..).2⟩

theorem Dev.timeEcho_none (h : (s.ring r).cells.find? (fun c => decide (64 * r + c.1 = Pl.get pl 2 14)) = none) :
    s.timeEcho r e pl trip = s := by
  unfold Dev.timeEcho
  extract_lets x
  rw [show x.cells.find? (fun c => decide (64 * r + c.1 = Pl.get pl 2 14)) = none from h]

theorem Dev.timeEcho_early (h : s.ringState r < 2) : s.timeEcho r e pl trip = s := by
  have early : (!s.endHeard r e || decide (s.ringState r < 2)) = true := by
    rw [decide_eq_true h, Bool.or_true]
  unfold Dev.timeEcho
  extract_lets x
  split
  · rfl
  · exact if_pos early

/-- The delay of a cell to the end that heard its ECHO. -/
def Ring.heardDelay (x : Ring) (e : End) (p d : Nat) : Ring :=
  if e = .a then { x with distA := Store.set (fun _ => 0) x.distA p d } else { x with distB := Store.set (fun _ => 0) x.distB p d }

/-- The cell's own register of it. -/
def Cell.keepDelay (c : Cell) (e : End) (d : Nat) : Cell :=
  if c.powered then c.fset (if e = .a then SRB_TD_DLYA_D else SRB_TD_DLYB_D) d else c

theorem Ring.heardDelay_dly (x : Ring) (e : End) (p d : Nat) :
    dly (if e = .a then (x.heardDelay e p d).distA else (x.heardDelay e p d).distB) p = d := by
  unfold dly Ring.heardDelay
  cases e <;> exact Store.get_set_same _ _ _ _

theorem Cell.keepDelay_reg (c : Cell) (e : End) (d : Nat) (on : c.powered = true) :
    (c.keepDelay e d).fget (if e = .a then SRB_TD_DLYA_D else SRB_TD_DLYB_D) = d % 2 ^ SRB_TD_DLYA_D.width := by
  rw [Cell.keepDelay, if_pos on]
  cases e
  · exact Cell.fget_fset_same c SRB_TD_DLYA_D d (by decide)
  · exact Cell.fget_fset_same c SRB_TD_DLYB_D d (by decide)

/-- A delay that has been measured stands in the ring and in the cell, and changes the ring's path. -/
def Dev.echoKept (s : Dev) (r : Nat) (e : End) (p d : Nat) : Dev :=
  let t := (s.setRing r ((s.ring r).heardDelay e p d)).modCell (64 * r + p) (fun c => c.keepDelay e d)
  if t.live r then t.pathChange r else t

theorem Dev.timeEcho_found {u : Nat × Enum} (found : (s.ring r).cells.find? (fun c => decide (64 * r + c.1 = Pl.get pl 2 14)) = some u)
    (heard : s.endHeard r e = true) (up : 2 ≤ s.ringState r) :
    s.timeEcho r e pl trip = s.echoKept r e u.2.place ((trip - Pl.get pl 20 32) / 2) := by
  have early : decide (s.ringState r < 2) = false := decide_eq_false (by omega)
  have go : ¬ (!s.endHeard r e || decide (s.ringState r < 2)) = true := by
    rw [heard, early]
    decide
  unfold Dev.timeEcho
  extract_lets x
  rw [show x.cells.find? (fun c => decide (64 * r + c.1 = Pl.get pl 2 14)) = some u from found]
  exact (if_neg go).trans rfl

theorem Dev.echoKept_spec (s : Dev) (r : Nat) (e : End) (p d : Nat) : (s.echoKept r e p d).ring r = (s.ring r).heardDelay e p d ∧
    (s.echoKept r e p d).cell (64 * r + p) = (s.cell (64 * r + p)).keepDelay e d := by
  unfold Dev.echoKept
  extract_lets t
  have ring : t.ring r = (s.ring r).heardDelay e p d := Dev.ring_setRing_same s r _
  have cell : t.cell (64 * r + p) = (s.cell (64 * r + p)).keepDelay e d := Dev.cell_modCell_same ..
  clear_value t
  obtain ⟨cells, rings⟩ := t.pathChange_rest r
  split
  · exact ⟨(congrArg (fun x => Store.get ringDflt x r) rings).trans ring, (congrArg (fun x => Store.get Cell.dflt x _) cells).trans cell⟩
  · exact ⟨ring, cell⟩

/-! ### TEST blocks (R618, R659) -/

/-- The ends of the ring hear each other: the ring is up, without break and dark hop. -/
theorem Dev.testRing_iff (s : Dev) (r : Nat) : s.testRing r = true ↔
    (s.ring r).up = true ∧ (s.ring r).breaks = [] ∧ (s.ring r).dark = none ∧ (s.ringState r = 3 ∨ s.ringState r = 4) := by
  simp only [Dev.testRing, Dev.wholeRing, Bool.and_eq_true, decide_eq_true_eq, List.isEmpty_iff, Option.isNone_iff_eq_none, and_assoc]

theorem Dev.blockTest_idle {arrived : Bool} (h : s.testRing r = false ∨ s.endUp r e = false) : s.blockTest r e arrived = s := by
  refine if_pos ?_
  rcases h with h | h <;> simp [h]

/-- The ring ends whose TEST block has not come, after one has come or not. -/
def Dev.testMissing (s : Dev) (r : Nat) (e : End) (arrived : Bool) : List (Nat × Bool) :=
  (if arrived then [] else [(r, decide (e = .b))]) ++ s.sh.safe.testBad.filter (fun x => decide (x ≠ (r, decide (e = .b))))

/-- What a TEST block, or its absence, shows: the ring's state. -/
def Dev.testShown (s : Dev) (r : Nat) (bad : List (Nat × Bool)) : Dev :=
  (s.safe (fun x => { x with testBad := bad })).rfset RDn_RING_STAT_STATE r (if bad.any (fun x => decide (x.1 = r)) then 4 else 3)

theorem Dev.blockTest_eq {arrived : Bool} (whole : s.testRing r = true) (up : s.endUp r e = true) : s.blockTest r e arrived =
    if (s.testMissing r e arrived).isEmpty then (s.testShown r (s.testMissing r e arrived)).diagOver 9
    else if arrived then s.testShown r (s.testMissing r e arrived)
    else (s.testShown r (s.testMissing r e arrived)).diagSet 9 .cont := by
  unfold Dev.blockTest
  rw [if_neg (by rw [whole, up]; decide)]
  cases arrived <;> rfl

theorem Dev.testShown_spec (bad : List (Nat × Bool)) (hr : s.hasRing r = true) (up : s.endUp r e = true) :
    (s.testShown r bad).sh = (s.safe (fun x => { x with testBad := bad })).sh ∧
      (s.testShown r bad).ringState r = (if bad.any (fun x => decide (x.1 = r)) then 4 else 3) ∧
      (s.testShown r bad).rget SH_SAFE_STAT = s.rget SH_SAFE_STAT := by
  have lt := Dev.hasRing_lt hr
  have on := Dev.powered_of_up hr up
  unfold Dev.testShown
  generalize noted : s.safe (fun x => { x with testBad := bad }) = t
  have on' : t.powered 4 = true ∨ t.powered 5 = true := by rw [← noted]; exact on
  have regs : t.rget SH_SAFE_STAT = s.rget SH_SAFE_STAT := by rw [← noted]; rfl
  have small : (if bad.any (fun x => decide (x.1 = r)) = true then 4 else 3) % 2 ^ 4 =
      if bad.any (fun x => decide (x.1 = r)) = true then 4 else 3 := by split <;> rfl
  have dies := t.rfset_sameDies (v := if bad.any (fun x => decide (x.1 = r)) = true then 4 else 3) ringField_state lt
  refine ⟨Dev.rfset_sh .., ?_, ?_⟩
  · rw [Dev.ringState, dies.rf, Dev.fget_rfset_same ringField_state (by decide) lt on', small]
  · exact (Dev.rget_rfset t _ r _ lt fun n q _ => ringField_state.ne_low (by decide) n q).trans regs

theorem Dev.ringState_congr {t : Dev} (hv : t.variant = s.variant) (hi : t.sh.clk.inReset = s.sh.clk.inReset)
    (hm : t.sh.tly.masterB = s.sh.tly.masterB) (hr : t.regs = s.regs) (r : Nat) : t.ringState r = s.ringState r := by
  have dies : s.SameDies t := ⟨hv, hi, hm, fun _ _ => Dev.rget_congr hr _, Dev.role_congr hr⟩
  rw [Dev.ringState, dies.rf, Dev.fget_congr hr, Dev.ringState]

/-- The condition of a row is over. -/
theorem Dev.diagOver_spec (s : Dev) (r : Nat) : (s.diagOver 9).sh.safe.testBad = s.sh.safe.testBad ∧
    (s.diagOver 9).ringState r = s.ringState r ∧ (s.diagOver 9).sh.safe.diagNow.getLsbD 8 = false ∧
      (s.diagOver 9).rget SH_SAFE_STAT = s.rget SH_SAFE_STAT := by
  refine ⟨rfl, Dev.ringState_congr rfl rfl rfl rfl r, ?_, rfl⟩
  have now : (s.diagOver 9).sh.safe.diagNow = s.sh.safe.diagNow &&& ~~~(BitVec.ofNat 13 (2 ^ 8)) := rfl
  rw [now, BitVec.getLsbD_and]
  exact (congrArg _ (by decide)).trans (Bool.and_false _)

theorem Dev.ringState_fset (s : Dev) {f : Field} (v : Nat) (hf : f.reg = SH_SAFE_STAT) (r : Nat) :
    (s.fset f v).ringState r = s.ringState r := by
  have side : sideReg f.reg := by
    rw [hf]
    exact sideReg_low (by decide) (by decide) (by decide)
  have dies := ((Dev.Keeps.refl s).fset (v := v) side).sameDies
  rw [Dev.ringState, dies.rf]
  refine Dev.fget_fset_reg s v ?_
  rw [hf]
  exact (ringField_state.ne_low (by decide) _ _).symm

/-- The bit of a row, set and noted. -/
theorem Dev.diagBit_noted {t w : Dev} {f : Field} {r : Nat} (is : f = ⟨SH_SAFE_STAT, 40, 1⟩) (noted : (t.fset f 1).Noted w) (lt : r < 132) :
    w.sh.safe = t.sh.safe ∧ w.ringState r = t.ringState r ∧ w.fbit f = true := by
  have reg : f.reg = SH_SAFE_STAT := by rw [is]
  have apart : ¬ noteReg f.reg := by
    rw [reg]
    exact not_noteReg_low (by decide) (by decide) (by decide) (by decide) (by decide)
  have set : (t.fset f 1).fget f = 1 := (Dev.fget_fset_same t f 1 (by rw [is]; decide)).trans (by rw [is]; decide)
  have state := t.ringState_fset 1 reg r
  have sh : (t.fset f 1).sh = t.sh := Dev.fset_sh ..
  generalize t.fset f 1 = o at noted set state sh
  refine ⟨noted.safe.trans (congrArg Shepherd.safe sh), (noted.ringState lt).trans state, ?_⟩
  rw [noted.fbit apart, Dev.fbit, set]
  decide

/-- A row that is set shows its bit. -/
theorem Dev.diagSet_spec (s : Dev) {r : Nat} (lt : r < 132) : (s.diagSet 9 .cont).sh.safe.testBad = s.sh.safe.testBad ∧
    (s.diagSet 9 .cont).ringState r = s.ringState r ∧ (s.diagSet 9 .cont).fbit ⟨SH_SAFE_STAT, 40, 1⟩ = true := by
  unfold Dev.diagSet
  extract_lets f t
  have bad : t.sh.safe.testBad = s.sh.safe.testBad := rfl
  have state : t.ringState r = s.ringState r := Dev.ringState_congr rfl rfl rfl rfl r
  have is : f = ⟨SH_SAFE_STAT, 40, 1⟩ := rfl
  clear_value t
  split
  · next set =>
    rw [is] at set
    exact ⟨bad, state, set⟩
  · have noted := ((Dev.Noted.refl (t.fset f 1)).irq (v := 34)).report (cls := .cont) (src := .safety) (inst := 9) (code := 0) (det := 0)
    obtain ⟨safe, ring, bit⟩ := Dev.diagBit_noted is noted lt
    rw [is] at bit
    exact ⟨(congrArg ShSafe.testBad safe).trans bad, ring.trans state, bit⟩

/-- What a whole ring shows of a TEST block that has come, or has not. -/
theorem Dev.blockTest_spec {arrived : Bool} (hr : s.hasRing r = true) (whole : s.testRing r = true) (up : s.endUp r e = true) :
    (s.blockTest r e arrived).sh.safe.testBad = s.testMissing r e arrived ∧
      (s.blockTest r e arrived).ringState r = (if (s.testMissing r e arrived).any (fun x => decide (x.1 = r)) then 4 else 3) ∧
      (arrived = false → (s.blockTest r e arrived).fbit ⟨SH_SAFE_STAT, 40, 1⟩ = true) ∧
      (s.testMissing r e arrived = [] → (s.blockTest r e arrived).sh.safe.diagNow.getLsbD 8 = false ∧
        (s.blockTest r e arrived).rget SH_SAFE_STAT = s.rget SH_SAFE_STAT) := by
  have absent : arrived = false → s.testMissing r e arrived ≠ [] := fun h => by
    rw [h]
    exact List.cons_ne_nil _ _
  rw [Dev.blockTest_eq whole up]
  obtain ⟨sh, state, safe⟩ := Dev.testShown_spec (s.testMissing r e arrived) hr up
  have bad : (s.testShown r (s.testMissing r e arrived)).sh.safe.testBad = s.testMissing r e arrived := by
    rw [sh]
    rfl
  generalize s.testShown r (s.testMissing r e arrived) = t at state safe bad
  split
  · next empty =>
    obtain ⟨overBad, overState, gone, overReg⟩ := t.diagOver_spec r
    exact ⟨overBad.trans bad, overState.trans state, fun h => absurd (List.isEmpty_iff.1 empty) (absent h),
      fun _ => ⟨gone, overReg.trans safe⟩⟩
  · next some =>
    have nonempty : s.testMissing r e arrived ≠ [] := fun h => some (List.isEmpty_iff.2 h)
    split
    · next came => exact ⟨bad, state, fun h => absurd came (by rw [h]; decide), fun h => absurd h nonempty⟩
    · obtain ⟨setBad, setState, bit⟩ := t.diagSet_spec (Dev.hasRing_lt hr)
      exact ⟨setBad.trans bad, setState.trans state, fun _ => bit, fun h => absurd h nonempty⟩

end

end Sys2Proof.Machine
end

section
/-!
PROOFS for the family `02_station_cycle`: the settlement of `Obligations.StreamAndRingEndResults` (O54).
-/
namespace Sys2Proof.Machine

section
variable {s : State}

/-! ### Host accesses (R551, R659) -/

theorem Dev.bar0Read_closed {d : Dev} {a n : Nat} (away : inAlias a = true) (closed : d.debugOpen = false) (whole : aligned a n = true) :
    d.bar0Read a n = (List.replicate (wordsOf n) 0, d) := by
  unfold Dev.bar0Read
  rw [if_pos away, if_neg (by rw [closed]; decide), if_pos whole]

theorem Dev.bar0Read_peek {d : Dev} {a n : Nat} (away : inAlias a = true) (open_ : d.debugOpen = true) :
    d.bar0Read a n = d.hostRead (a - 0x8000000) n true := by
  unfold Dev.bar0Read
  rw [if_pos away, if_pos open_]

/-- A peek of a data port. -/
theorem Dev.hostRead_port {d : Dev} {a n : Nat} (port : inPort a = true) (whole : aligned a n = true) :
    d.hostRead a n true = ((d.fifoRead ((a - 0x2000000) / 0x10000) n true).1, (d.fifoRead ((a - 0x2000000) / 0x10000) n true).2) := by
  unfold Dev.hostRead
  rw [if_pos port]
  simp only [if_pos whole]

/-- A peek of one register. -/
theorem Dev.hostRead_word {d : Dev} {a : Nat} (port : inPort a = false) (plain : dbgDatAt a = none) (word : a % 8 = 0) :
    d.hostRead a 8 true = ([d.view a], d) := by
  have whole : aligned a 8 = true := by simp [aligned, spanOf, word]
  have one : d.hostRead1 a true = (d.view a, d) := by
    unfold Dev.hostRead1
    rw [plain]
    rfl
  unfold Dev.hostRead
  rw [if_neg (by rw [port]; decide), if_neg (by rw [whole]; decide)]
  simp only [Dev.hostReads, one]

theorem Dev.answer_rd (d : Dev) (l : List W64) : (d.answer l).rd = d.rd := rfl

theorem Dev.fget_answer (d : Dev) (l : List W64) (f : Field) : (d.answer l).fget f = d.fget f := Dev.fget_congr (Dev.answer_regs ..) f

theorem Dev.hubNames_iff (d : Dev) (n : Nat) : d.hubNames n = true ↔
    if d.fbit (RDn_HUB_REQ_AQ n) = true then d.fget (RDn_HUB_REQ_INP n) < 192
    else d.fget (RDn_HUB_REQ_INP n) < 8 ∧ d.fget (RDn_HUB_REQ_ID n) < 8448 := by
  unfold Dev.hubNames
  split <;> simp

theorem Dev.Noted.ringIx {o t : Dev} (h : o.Noted t) (r : Nat) : t.ringIx r = o.ringIx r := by
  unfold Dev.ringIx
  rw [Dev.wide_congr h.variant h.sameDies.twin]

/-- The entry of a HUB block with one entry, in its stream's FIFO, after the block has been counted. -/
theorem Dev.Noted.hubEntry {o g : Dev} (noted : o.Noted g) {k id x y z : Nat} {t : Stream} (h1 : x / 8 % 4 ≠ 0) (h2 : y / 8 % 4 = 0)
    (h3 : z / 8 % 4 = 0) (lt : x < 2 ^ 128) (stream : o.stream (cellStreamIx id (x % 8)) = some t)
    (on : o.powered (4 + o.fifoRd t.fifo) = true) (good : (o.fifoAt t.fifo).ptrBad = false)
    (room : (o.fifoAt t.fifo).words.length + 4 ≤ Config.fifoWords) :
    (((g.entriesIn k id [x, y, z]).rd (o.fifoRd t.fifo)).fifo (o.fifoLoc t.fifo)).words =
      (o.fifoAt t.fifo).words ++ packetWords (bytesOf 1 1 ++ bytesOf id 2 ++ bytesOf x 16) := by
  have rdLt := o.fifoRd_lt t.fifo
  have fifo : g.fifoAt t.fifo = o.fifoAt t.fifo := Dev.fifoAt_congr noted.variant noted.rd
  have rd : g.fifoRd t.fifo = o.fifoRd t.fifo := Dev.fifoRd_congr noted.variant _
  have words := Dev.entriesIn_words (s := g) (k := k) h1 h2 h3 lt ((Dev.stream_congr noted.streams _).trans stream)
    (by rw [rd, noted.sameDies.powered (by omega)]; exact on) (by rw [fifo]; exact good) (by rw [fifo]; exact room)
  have variant : (g.entriesIn k id [x, y, z]).variant = o.variant := by
    rw [Dev.entriesIn_variant, noted.variant]
  rw [Dev.fifoAt, Dev.fifoRd_congr variant, Dev.fifoLoc_congr variant, fifo] at words
  exact words

end

/-- Settles O54: for each command what the checks of its own rule decide, and what the ring end, the FIFO or the stream then holds. -/
theorem streamAndRingEndResults : Obligations.StreamAndRingEndResults := by
  unfold Obligations.StreamAndRingEndResults
  intro s r e pl h f bytes addr rd v c p x sub id trip u arrived n i q m sizeOk zeros up1 peeked fp k key got req aq cid inp six new named
    refused eb rp line linked whole bad
  have fifoExec : exec (.fifoRead f bytes) s = s.upd (fun d => (d.fifoRead f.val bytes false).2.answer (d.fifoRead f.val bytes false).1) := rfl
  have peekExec : exec (.peekRead ⟨addr, bytes⟩) s = s.upd (fun d => (d.bar0Read addr bytes).2.answer (d.bar0Read addr bytes).1) := rfl
  have hubExec : exec (.hubRequest rd v) s = s.updIf (s.dev.present (4 + rd.idx)) (fun d => d.hubRequest rd.idx v) := rfl
  have atI : ∀ d : Dev, d.variant = s.dev.variant → (d.rd n).fifo i = d.fifoAt f.val := by
    intro d hv
    rw [Dev.fifoAt, Dev.fifoRd_congr hv, Dev.fifoLoc_congr hv]
  refine ⟨?_, ?_, ?_, ?_, ?_, ?_, ?_, ?_⟩
  · intro off
    refine State.goes_upd fifoExec ?_
    rw [Dev.fifoRead_off off]
  · intro on size
    refine ⟨fun good fits => State.goes_upd fifoExec ?_, fun differ => State.goes_upd fifoExec ?_⟩
    · obtain ⟨data, left, regs, variant⟩ := Dev.fifoRead_good on size good fits
      rw [Dev.answer_rdata, Dev.answer_rd, Dev.answer_regs]
      exact ⟨data, (atI _ variant).trans left, regs⟩
    · obtain ⟨data, empty, variant, count⟩ := Dev.fifoRead_bad on size differ
      rw [Dev.answer_rdata, Dev.answer_rd, Dev.fget_answer]
      exact ⟨data, (atI _ variant).trans empty, count⟩
  · intro on size
    refine State.goes_upd fifoExec ?_
    rw [Dev.fifoRead_size on size, Dev.answer_rdata, Dev.answer_rd, Dev.fget_answer]
    exact ⟨rfl, congrArg (fun x : Nat → RingDie => (x n).fifo i) (Dev.fset_rd ..), Dev.fget_finc_same _ (FIF_STAT_BADRD n i) (by simp [FIF_STAT_BADRD])⟩
  · intro away
    refine ⟨fun closed fits => State.goes_upd peekExec ?_, fun open_ port fits size on => State.goes_upd peekExec ?_,
      fun open_ port plain word eight => State.goes_upd peekExec ?_⟩
    · rw [Dev.bar0Read_closed away closed fits]
    · rw [Dev.bar0Read_peek away open_, Dev.hostRead_port port fits, Dev.fifoRead_peek on size]
      rfl
    · rw [Dev.bar0Read_peek away open_, eight, Dev.hostRead_word port plain word]
  · intro _
    rfl
  · intro present
    have written : s.dev.plainWrite (RDn_HUB_REQ rd.idx) v = req := rfl
    have index : req.hubIndex rd.idx = six := rfl
    have asks : req.hubAsks rd.idx = new := rfl
    have why : req.hubWhy rd.idx = req.admitReason aq cid inp six new := rfl
    have names : req.hubNames rd.idx = true ↔ named := req.hubNames_iff rd.idx
    refine ⟨fun plain => State.goes_updIf hubExec present (Dev.hubRequest_plain plain), fun go up master => ⟨fun release => ⟨?_, ?_⟩, ?_⟩⟩
    · intro named
      refine State.goes_updIf hubExec present ?_
      rw [← index]
      exact Dev.hubRequest_release go up master written release (names.2 named)
    · intro unnamed
      have none : req.hubNames rd.idx = false := Bool.eq_false_iff.2 fun h => unnamed (names.1 h)
      refine State.goes_updIf hubExec present (Dev.hubRequest_refused go up master written ?_ (by decide) (by decide))
      rw [release, none]
      rfl
    · intro request
      refine ⟨fun ok => State.goes_updIf hubExec present ?_, fun no => State.goes_updIf hubExec present ?_⟩
      · rw [← index, ← asks]
        exact Dev.hubRequest_admitted go up master written request (why.trans ok)
      · have le := req.admitReason_le aq cid inp six new
        refine Dev.hubRequest_refused go up master written ?_ no (by omega)
        rw [request]
        exact (if_pos rfl).trans why
  · intro hr
    have noted : s.dev.Noted got := Dev.endRx_noted hr e h
    have lt := Dev.hasRing_lt hr
    have hubBlockExec : exec (.hubBlock r e pl h) s = s.updIf (s.dev.hasRing r) (fun d =>
        if !d.endUp r e then d
        else if h.crcOk then
          (d.endRx r e h).entriesIn (d.rdOfEnd r e) (Pl.get pl 0 14) [Pl.get pl 4 128, Pl.get pl 20 128, Pl.get pl 36 128]
        else (d.endRx r e h).finc (RDn_HUB_STAT_HUBCRC (d.rdOfEnd r e) ((d.endRx r e h).ringIx r))) := rfl
    have launchExec : exec (.droveLaunch r e) s = s.updIf (s.dev.hasRing r) (fun d => d.launchDroves r e) := rfl
    have echoExec : exec (.timeEcho r e ⟨pl, h⟩ trip) s = s.updIf (s.dev.hasRing r) (fun d =>
        if !d.endHeard r e then d
        else if h.crcOk then (d.endRx r e h).timeEcho r e pl trip else d.endRx r e h) := rfl
    have testExec : exec (.blockTest r e arrived) s = s.updIf (s.dev.hasRing r) (fun d => d.blockTest r e arrived) := rfl
    have sendExec : ∀ t : BitVec 4, exec (.timeBlockSend (.ringEnd r e) t id) s = s.upd (fun d => d.endTimeSend r e t.toNat id.toNat) :=
      fun _ => rfl
    refine ⟨fun down => State.goes_updIf hubBlockExec hr ?_, fun up bad => State.goes_updIf hubBlockExec hr ?_, fun up good => ⟨?_, ?_⟩,
      fun none => State.goes_updIf launchExec hr (Dev.launchDroves_none none),
      fun voted => ⟨fun may own fresh => State.goes_updIf launchExec hr (Dev.launchDroves_sent voted may own fresh),
        fun no => State.goes_updIf launchExec hr (Dev.launchDroves_idle voted no)⟩, ?_, ?_, ?_, ?_, ?_, ?_, ?_⟩
    · exact if_pos (by rw [down]; rfl)
    · rw [if_neg (by rw [up]; decide), if_neg (by rw [bad]; decide)]
      exact congrArg (fun j => got.finc (RDn_HUB_STAT_HUBCRC k j)) (noted.ringIx r)
    · refine State.goes_updIf hubBlockExec hr ?_
      rw [if_neg (by rw [up]; decide), if_pos good]
    · intro t entry none1 none2 stream b on ok room
      refine State.goes_updIf hubBlockExec hr ?_
      rw [if_neg (by rw [up]; decide), if_pos good]
      exact noted.hubEntry entry none1 none2 (bitsOf_lt _ _ _) stream on ok room
    · intro silent
      exact State.goes_updIf echoExec hr (if_pos (by rw [silent]; rfl))
    · intro heard bad
      refine State.goes_updIf echoExec hr ?_
      rw [if_neg (by rw [heard]; decide), if_neg (by rw [bad]; decide)]
    · intro heard good
      have ring : got.ring r = s.dev.ring r := congrFun noted.ring r
      have state : got.ringState r = s.dev.ringState r := noted.ringState lt
      have used : (if (!s.dev.endHeard r e) = true then s.dev else if h.crcOk = true then got.timeEcho r e pl trip else got) =
          got.timeEcho r e pl trip := by rw [if_neg (by rw [heard]; decide), if_pos good]
      refine ⟨fun idle => State.goes_updIf echoExec hr ?_, fun found up => State.goes_updIf echoExec hr ?_⟩
      · rw [used]
        rcases idle with none | early
        · exact Dev.timeEcho_none (by rw [ring]; exact none)
        · exact Dev.timeEcho_early (by rw [state]; exact early)
      · have kept := Dev.timeEcho_found (trip := trip) (s := got) (by rw [ring]; exact found) ((noted.endHeard hr e).trans heard)
          (by rw [state]; exact up)
        obtain ⟨delay, cell⟩ := got.echoKept_spec r e u.2.place ((trip - Pl.get pl 20 32) / 2)
        rw [used, kept, delay, cell, noted.cell]
        exact ⟨Ring.heardDelay_dly .., fun on => Cell.keepDelay_reg _ _ _ on⟩
    · intro no
      refine State.goes_updIf testExec hr (Dev.blockTest_idle (no.imp_left fun broken => ?_))
      exact Bool.eq_false_iff.2 fun h => broken ((s.dev.testRing_iff r).1 h)
    · intro all up
      refine State.goes_updIf testExec hr ?_
      exact Dev.blockTest_spec hr ((s.dev.testRing_iff r).2 all) up
    · intro no
      exact State.goes_upd (sendExec sub) (Dev.endTimeSend_idle no)
    · intro ready
      have sends : ∀ t : BitVec 4, s.dev.endTimeSend r e t.toNat id.toNat = s.dev.endTime r e t.toNat id.toNat := fun t =>
        Dev.endTimeSend_linked hr ready
      refine ⟨State.goes_upd (sendExec 1) ?_, fun up => State.goes_upd (sendExec 2) ?_, fun q rest due => State.goes_upd (sendExec 4) ?_,
        fun none => State.goes_upd (sendExec 4) ?_, fun h1 h2 h4 => State.goes_upd (sendExec sub) ?_⟩
      · rw [sends, show (1 : BitVec 4).toNat = 1 from rfl, Dev.endTime_launch ready]
        obtain ⟨n, t, start, out⟩ := s.dev.sendFrom_start (.ringEnd r e) 0x7 s.dev.raw10ps (s.dev.endLaunch r e)
        exact ⟨Dev.sendFrom_regs .., n, t, start, out⟩
      · rw [sends, show (2 : BitVec 4).toNat = 2 from rfl, Dev.endTime_loop ready up]
        exact ⟨Dev.sendFrom_regs .., Dev.send_sends ..⟩
      · rw [sends, show (4 : BitVec 4).toNat = 4 from rfl, Dev.endTime_step ready due]
        exact Dev.send_sends ..
      · rw [sends, show (4 : BitVec 4).toNat = 4 from rfl]
        exact Dev.endTime_noStep ready none
      · rw [sends]
        exact Dev.endTime_other ready h1 h2 h4
  · intro here y
    have cellExec : ∀ t : BitVec 4, exec (.timeBlockSend (.cell p x) t id) s = s.updIf (s.dev.hasPlace p) (fun d =>
        if (d.cell p).powered && (d.cell p).fbit (SRB_RP_STAT_LAUNCH x.idx) && decide (t = 1) then d.cellLaunch p x d.raw10ps else d) :=
      fun _ => rfl
    refine ⟨fun on launches => State.goes_updIf (cellExec 1) here ?_, fun no => State.goes_updIf (cellExec sub) here ?_⟩
    · rw [if_pos (by rw [on, launches]; rfl)]
      exact s.dev.cellLaunch_start p x s.dev.raw10ps
    · refine if_neg ?_
      rcases no with off | quiet | other
      · rw [off]
        exact Bool.false_ne_true
      · rw [quiet, Bool.and_false]
        exact Bool.false_ne_true
      · rw [decide_eq_false other, Bool.and_false]
        exact Bool.false_ne_true

end Sys2Proof.Machine
end
